-- ==== Sys2Proof/Word.lean ====
section
/-! DEFINITION. The word types of the VX-16 and the shape of every sparse memory of the model. -/

namespace Sys2Proof

/-- One byte (R2, R3). -/
abbrev Byte := BitVec 8
/-- One doubleword, the width of a scalar register and of a control word (R5, R71). -/
abbrev W64 := BitVec 64
/-- A local address of tile SRAM (R113). -/
abbrev LAddr := BitVec 21
/-- A number of one of the 32 scalar, vector or layout registers. -/
abbrev Reg := BitVec 5

/-- A sparse memory of `w`-bit cells: strictly rising keys, no cell equal to zero; an unlisted key reads as zero. -/
abbrev Store (w : Nat) := List (Nat × BitVec w)

/-- The guard and stop bits of a slot word (R24): S, GN and GI. -/
structure Ctl where
  stop : Bool
  gn : Bool
  gi : BitVec 3
deriving DecidableEq, Repr

/-- An exact number, before any rounding (R9, R57): a NaN, an infinity, or (−1)^neg × m × 2^e. -/
inductive Num where
  | nan
  | inf (neg : Bool)
  | fin (neg : Bool) (m : Nat) (e : Int)
deriving DecidableEq, Repr

end Sys2Proof
end

