-- ==== Sys2Proof/Syntax.lean ====
section
/-! DEFINITION. The instructions of the VX-16: one constructor per row of the opcode table.
A slot form carries its guard and stop bits (`c : Ctl`) and its body fields; a step without an encoding
(an event of an engine, of the host or of the management block) carries the numbers that say where it happens.
A tile is named by its site 128 × Y + X (R13), a quarry tile by 16 × d + q (R14), a partition by its PID (R413). -/

namespace Sys2Proof

inductive Instr where
  /-- NOP (R26): No-operation slot with GN = 1 and GI = 0; it counts only toward the number of slots in its bundle. -/
  | nop (c : Ctl) (o : BitVec 6) (z : BitVec 21)
  /-- ADD (R75): Writes the 64-bit wrapping sum of xa and xb to xd. -/
  | add (c : Ctl) (d : BitVec 5) (a : BitVec 5) (b : BitVec 5)
  /-- SUB (R75): Writes the 64-bit wrapping difference xa minus xb to xd. -/
  | sub (c : Ctl) (d : BitVec 5) (a : BitVec 5) (b : BitVec 5)
  /-- AND (R75): Writes the bitwise AND of xa and xb to xd. -/
  | and (c : Ctl) (d : BitVec 5) (a : BitVec 5) (b : BitVec 5)
  /-- OR (R75): Writes the bitwise OR of xa and xb to xd. -/
  | or (c : Ctl) (d : BitVec 5) (a : BitVec 5) (b : BitVec 5)
  /-- XOR (R75): Writes the bitwise XOR of xa and xb to xd. -/
  | xor (c : Ctl) (d : BitVec 5) (a : BitVec 5) (b : BitVec 5)
  /-- ANDN (R75): Writes xa AND NOT xb to xd. -/
  | andn (c : Ctl) (d : BitVec 5) (a : BitVec 5) (b : BitVec 5)
  /-- ORN (R75): Writes xa OR NOT xb to xd. -/
  | orn (c : Ctl) (d : BitVec 5) (a : BitVec 5) (b : BitVec 5)
  /-- XNOR (R75): Writes NOT (xa XOR xb) to xd. -/
  | xnor (c : Ctl) (d : BitVec 5) (a : BitVec 5) (b : BitVec 5)
  /-- SLL (R75): Shifts xa left by xb[5:0] and writes the result to xd. -/
  | sll (c : Ctl) (d : BitVec 5) (a : BitVec 5) (b : BitVec 5)
  /-- SRL (R75): Shifts xa right logically by xb[5:0] and writes the result to xd. -/
  | srl (c : Ctl) (d : BitVec 5) (a : BitVec 5) (b : BitVec 5)
  /-- SRA (R75): Shifts xa right arithmetically by xb[5:0] and writes the result to xd. -/
  | sra (c : Ctl) (d : BitVec 5) (a : BitVec 5) (b : BitVec 5)
  /-- ROR (R75): Rotates xa right by xb[5:0] and writes the result to xd. -/
  | ror (c : Ctl) (d : BitVec 5) (a : BitVec 5) (b : BitVec 5)
  /-- ROL (R75): Rotates xa left by xb[5:0] and writes the result to xd. -/
  | rol (c : Ctl) (d : BitVec 5) (a : BitVec 5) (b : BitVec 5)
  /-- SLT (R75): Writes 1 to xd when xa is less than xb as signed values, else 0. -/
  | slt (c : Ctl) (d : BitVec 5) (a : BitVec 5) (b : BitVec 5)
  /-- SLTU (R75): Writes 1 to xd when xa is less than xb as unsigned values, else 0. -/
  | sltu (c : Ctl) (d : BitVec 5) (a : BitVec 5) (b : BitVec 5)
  /-- MIN (R75): Writes the signed lesser of xa and xb to xd. -/
  | min (c : Ctl) (d : BitVec 5) (a : BitVec 5) (b : BitVec 5)
  /-- MAX (R75): Writes the signed greater of xa and xb to xd. -/
  | max (c : Ctl) (d : BitVec 5) (a : BitVec 5) (b : BitVec 5)
  /-- MINU (R75): Writes the unsigned lesser of xa and xb to xd. -/
  | minu (c : Ctl) (d : BitVec 5) (a : BitVec 5) (b : BitVec 5)
  /-- MAXU (R75): Writes the unsigned greater of xa and xb to xd. -/
  | maxu (c : Ctl) (d : BitVec 5) (a : BitVec 5) (b : BitVec 5)
  /-- ADDW (R75): Writes the 32-bit sum of xa and xb, sign-extended, to xd. -/
  | addw (c : Ctl) (d : BitVec 5) (a : BitVec 5) (b : BitVec 5)
  /-- SUBW (R75): Writes the 32-bit difference of xa and xb, sign-extended, to xd. -/
  | subw (c : Ctl) (d : BitVec 5) (a : BitVec 5) (b : BitVec 5)
  /-- SLLW (R75): Shifts xa[31:0] left by xb[4:0] and writes the sign-extended result to xd. -/
  | sllw (c : Ctl) (d : BitVec 5) (a : BitVec 5) (b : BitVec 5)
  /-- SRLW (R75): Shifts xa[31:0] right logically by xb[4:0] and writes the sign-extended result to xd. -/
  | srlw (c : Ctl) (d : BitVec 5) (a : BitVec 5) (b : BitVec 5)
  /-- SRAW (R75): Shifts xa[31:0] right arithmetically by xb[4:0] and writes the sign-extended result to xd. -/
  | sraw (c : Ctl) (d : BitVec 5) (a : BitVec 5) (b : BitVec 5)
  /-- MUL (R77): Writes the low 64 bits of xa times xb to xd with latency 4. -/
  | mul (c : Ctl) (d : BitVec 5) (a : BitVec 5) (b : BitVec 5)
  /-- MULH (R77): Writes the high 64 bits of the signed product of xa and xb to xd. -/
  | mulh (c : Ctl) (d : BitVec 5) (a : BitVec 5) (b : BitVec 5)
  /-- MULHU (R77): Writes the high 64 bits of the unsigned product of xa and xb to xd. -/
  | mulhu (c : Ctl) (d : BitVec 5) (a : BitVec 5) (b : BitVec 5)
  /-- MULHSU (R77): Writes the high 64 bits of signed xa times unsigned xb to xd. -/
  | mulhsu (c : Ctl) (d : BitVec 5) (a : BitVec 5) (b : BitVec 5)
  /-- MULW (R77): Writes the sign-extended low 32 bits of the 32-bit product to xd. -/
  | mulw (c : Ctl) (d : BitVec 5) (a : BitVec 5) (b : BitVec 5)
  /-- DIV (R78): Writes the signed quotient truncated toward zero to xd with latency 20, without trapping. -/
  | div (c : Ctl) (d : BitVec 5) (a : BitVec 5) (b : BitVec 5)
  /-- DIVU (R78): Writes the unsigned quotient to xd with latency 20. -/
  | divu (c : Ctl) (d : BitVec 5) (a : BitVec 5) (b : BitVec 5)
  /-- REM (R78): Writes the signed remainder, with the sign of xa, to xd. -/
  | rem (c : Ctl) (d : BitVec 5) (a : BitVec 5) (b : BitVec 5)
  /-- REMU (R78): Writes the unsigned remainder to xd. -/
  | remu (c : Ctl) (d : BitVec 5) (a : BitVec 5) (b : BitVec 5)
  /-- DIVW (R78): Writes the signed 32-bit quotient, sign-extended, to xd. -/
  | divw (c : Ctl) (d : BitVec 5) (a : BitVec 5) (b : BitVec 5)
  /-- DIVUW (R78): Writes the unsigned 32-bit quotient, sign-extended, to xd. -/
  | divuw (c : Ctl) (d : BitVec 5) (a : BitVec 5) (b : BitVec 5)
  /-- REMW (R78): Writes the signed 32-bit remainder, sign-extended, to xd. -/
  | remw (c : Ctl) (d : BitVec 5) (a : BitVec 5) (b : BitVec 5)
  /-- REMUW (R78): Writes the unsigned 32-bit remainder, sign-extended, to xd. -/
  | remuw (c : Ctl) (d : BitVec 5) (a : BitVec 5) (b : BitVec 5)
  /-- CLZ (R79): Writes the number of leading zero bits of xa to xd. -/
  | clz (c : Ctl) (d : BitVec 5) (a : BitVec 5)
  /-- CTZ (R79): Writes the number of trailing zero bits of xa to xd. -/
  | ctz (c : Ctl) (d : BitVec 5) (a : BitVec 5)
  /-- POPC (R79): Writes the number of 1 bits of xa to xd. -/
  | popc (c : Ctl) (d : BitVec 5) (a : BitVec 5)
  /-- BREV (R79): Writes xa with its bit order reversed to xd. -/
  | brev (c : Ctl) (d : BitVec 5) (a : BitVec 5)
  /-- BSWAP (R79): Writes xa with its byte order reversed to xd. -/
  | bswap (c : Ctl) (d : BitVec 5) (a : BitVec 5)
  /-- SEXTB (R79): Writes xa[7:0] sign-extended to xd. -/
  | sextb (c : Ctl) (d : BitVec 5) (a : BitVec 5)
  /-- SEXTH (R79): Writes xa[15:0] sign-extended to xd. -/
  | sexth (c : Ctl) (d : BitVec 5) (a : BitVec 5)
  /-- ZEXTB (R79): Writes xa[7:0] zero-extended to xd. -/
  | zextb (c : Ctl) (d : BitVec 5) (a : BitVec 5)
  /-- ZEXTH (R79): Writes xa[15:0] zero-extended to xd. -/
  | zexth (c : Ctl) (d : BitVec 5) (a : BitVec 5)
  /-- ZEXTW (R79): Writes xa[31:0] zero-extended to xd. -/
  | zextw (c : Ctl) (d : BitVec 5) (a : BitVec 5)
  /-- CLZW (R79): Writes the number of leading zero bits of xa[31:0] to xd. -/
  | clzw (c : Ctl) (d : BitVec 5) (a : BitVec 5)
  /-- BEXT (R79): Writes bit xb[5:0] of xa, zero-extended, to xd. -/
  | bext (c : Ctl) (d : BitVec 5) (a : BitVec 5) (b : BitVec 5)
  /-- BSET (R79): Writes xa with bit xb[5:0] set to xd. -/
  | bset (c : Ctl) (d : BitVec 5) (a : BitVec 5) (b : BitVec 5)
  /-- BCLR (R79): Writes xa with bit xb[5:0] cleared to xd. -/
  | bclr (c : Ctl) (d : BitVec 5) (a : BitVec 5) (b : BitVec 5)
  /-- BINV (R79): Writes xa with bit xb[5:0] inverted to xd. -/
  | binv (c : Ctl) (d : BitVec 5) (a : BitVec 5) (b : BitVec 5)
  /-- BFXU (R80): Writes the unsigned bit field of xa at position xb[5:0] and length xb[14:8] to xd. -/
  | bfxu (c : Ctl) (d : BitVec 5) (a : BitVec 5) (b : BitVec 5)
  /-- BFXS (R80): Writes the signed bit field of xa at position xb[5:0] and length xb[14:8] to xd. -/
  | bfxs (c : Ctl) (d : BitVec 5) (a : BitVec 5) (b : BitVec 5)
  /-- ADDI (R81): Writes xa plus the sign-extended 11-bit immediate to xd. -/
  | addi (c : Ctl) (d : BitVec 5) (a : BitVec 5) (k : BitVec 11)
  /-- ANDI (R81): Writes xa AND the sign-extended immediate to xd. -/
  | andi (c : Ctl) (d : BitVec 5) (a : BitVec 5) (k : BitVec 11)
  /-- ORI (R81): Writes xa OR the sign-extended immediate to xd. -/
  | ori (c : Ctl) (d : BitVec 5) (a : BitVec 5) (k : BitVec 11)
  /-- XORI (R81): Writes xa XOR the sign-extended immediate to xd. -/
  | xori (c : Ctl) (d : BitVec 5) (a : BitVec 5) (k : BitVec 11)
  /-- SLLI (R82): Shifts xa left by the immediate amount and writes xd. -/
  | slli (c : Ctl) (d : BitVec 5) (a : BitVec 5) (h : BitVec 6)
  /-- SRLI (R82): Shifts xa right logically by the immediate amount and writes xd. -/
  | srli (c : Ctl) (d : BitVec 5) (a : BitVec 5) (h : BitVec 6)
  /-- SRAI (R82): Shifts xa right arithmetically by the immediate amount and writes xd. -/
  | srai (c : Ctl) (d : BitVec 5) (a : BitVec 5) (h : BitVec 6)
  /-- RORI (R82): Rotates xa right by the immediate amount and writes xd. -/
  | rori (c : Ctl) (d : BitVec 5) (a : BitVec 5) (h : BitVec 6)
  /-- SLLIW (R82): Shifts xa[31:0] left by the immediate and writes the sign-extended result to xd. -/
  | slliw (c : Ctl) (d : BitVec 5) (a : BitVec 5) (h : BitVec 5)
  /-- SRLIW (R82): Shifts xa[31:0] right logically by the immediate and writes the sign-extended result to xd. -/
  | srliw (c : Ctl) (d : BitVec 5) (a : BitVec 5) (h : BitVec 5)
  /-- SRAIW (R82): Shifts xa[31:0] right arithmetically by the immediate and writes the sign-extended result to xd. -/
  | sraiw (c : Ctl) (d : BitVec 5) (a : BitVec 5) (h : BitVec 5)
  /-- LDI (R83): Writes the sign-extended 16-bit immediate to xd. -/
  | ldi (c : Ctl) (d : BitVec 5) (k : BitVec 16)
  /-- LDH1 (R84): Replaces bits [31:16] of xd with the immediate. -/
  | ldh1 (c : Ctl) (d : BitVec 5) (k : BitVec 16)
  /-- LDH2 (R84): Replaces bits [47:32] of xd with the immediate. -/
  | ldh2 (c : Ctl) (d : BitVec 5) (k : BitVec 16)
  /-- LDH3 (R84): Replaces bits [63:48] of xd with the immediate. -/
  | ldh3 (c : Ctl) (d : BitVec 5) (k : BitVec 16)
  /-- SEL (R90): Writes xa to xd when predicate pn is 1, else xb. -/
  | sel (c : Ctl) (d : BitVec 5) (a : BitVec 5) (b : BitVec 5) (p : BitVec 6)
  /-- ADDSC (R85): Writes xa plus xb shifted left by sh to xd. -/
  | addsc (c : Ctl) (d : BitVec 5) (a : BitVec 5) (b : BitVec 5) (h : BitVec 3)
  /-- LADD (R85): Writes the 21-bit local address xa plus xb shifted left by sh to xd. -/
  | ladd (c : Ctl) (d : BitVec 5) (a : BitVec 5) (b : BitVec 5) (h : BitVec 3)
  /-- CHKU (R85): Raises BOUND when xa is not below xb as unsigned values. -/
  | chku (c : Ctl) (a : BitVec 5) (b : BitVec 5)
  /-- RDW (R91): Reads a control word into xd with latency 2, checked by R92. -/
  | rdw (c : Ctl) (d : BitVec 5) (c : BitVec 12)
  /-- WRW (R91): Writes xd to a control word for later bundles, checked by R92. -/
  | wrw (c : Ctl) (d : BitVec 5) (c : BitVec 12)
  /-- BR (R99): Branches to the bundle address plus the word offset and squashes two issue cycles. -/
  | br (c : Ctl) (k : BitVec 21)
  /-- CALL (R99): Writes the next bundle address to x1 and branches to the target. -/
  | call (c : Ctl) (k : BitVec 21)
  /-- JR (R100): Jumps to the address in xa[20:0]. -/
  | jr (c : Ctl) (a : BitVec 5)
  /-- JALR (R100): Writes the next bundle address to xd and jumps to xa[20:0]. -/
  | jalr (c : Ctl) (d : BitVec 5) (a : BitVec 5)
  /-- LOOP (R102): Opens a hardware loop over the following bundles with trip count xc, or skips the body when the count is 0. -/
  | loop (c : Ctl) (c : BitVec 5) (k : BitVec 16)
  /-- CMP (R86): Writes the comparison of xa and xb under condition cc to predicate pq. -/
  | cmp (c : Ctl) (q : BitVec 7) (a : BitVec 5) (b : BitVec 5) (c : BitVec 3)
  /-- CMPI (R87): Writes the comparison of xa with an immediate, or a bit test, to predicate pq. -/
  | cmpi (c : Ctl) (q : BitVec 7) (a : BitVec 5) (c : BitVec 3) (k : BitVec 6)
  /-- PAND (R88): Writes pa AND pb to pq. -/
  | pand (c : Ctl) (q : BitVec 7) (a : BitVec 7) (b : BitVec 7)
  /-- POR (R88): Writes pa OR pb to pq. -/
  | por (c : Ctl) (q : BitVec 7) (a : BitVec 7) (b : BitVec 7)
  /-- PXOR (R88): Writes pa XOR pb to pq. -/
  | pxor (c : Ctl) (q : BitVec 7) (a : BitVec 7) (b : BitVec 7)
  /-- PANDN (R88): Writes pa AND NOT pb to pq. -/
  | pandn (c : Ctl) (q : BitVec 7) (a : BitVec 7) (b : BitVec 7)
  /-- PRDG (R89): Reads a group of 64 predicates into xd. -/
  | prdg (c : Ctl) (d : BitVec 5) (a : BitVec 1)
  /-- PWRG (R89): Writes xb to a group of 64 predicates. -/
  | pwrg (c : Ctl) (a : BitVec 1) (b : BitVec 5)
  /-- TRAP (R364): Raises SYSCALL as a completing trap with TVAL = xa. -/
  | trap (c : Ctl) (a : BitVec 5)
  /-- RFE (R365): Returns from a trap handler, restores STATUS and replays the LTSB. -/
  | rfe (c : Ctl)
  /-- BRK (R364): Raises DEBUG as a completing trap, or halts the tile when BRKH = 1. -/
  | brk (c : Ctl)
  /-- IDLE (R366): Stalls with gated issue clock until a named token completes or an event is due. -/
  | idle (c : Ctl) (a : BitVec 5)
  /-- IFENCE (R367): Makes earlier code writes visible to later fetches and refetches the next bundle. -/
  | ifence (c : Ctl)
  /-- MASKP (R368): Sets SSTAT.PMASK to defer task pre-emption for a bounded budget. -/
  | maskp (c : Ctl)
  /-- UNMASKP (R368): Clears SSTAT.PMASK. -/
  | unmaskp (c : Ctl)
  /-- SAVELT (R369): Writes the 64 LTSB entries to SRAM at xa and empties the LTSB. -/
  | savelt (c : Ctl) (a : BitVec 5)
  /-- RSTLT (R369): Loads LTSB entries from SRAM at xa. -/
  | rstlt (c : Ctl) (a : BitVec 5)
  /-- SYNC (R110): Arrives at the partition barrier and stalls until the common release cycle. -/
  | sync (c : Ctl)
  /-- LPOP (R104): Pops the innermost hardware loop. -/
  | lpop (c : Ctl)
  /-- YIELD (R290): Parks the task and queues it behind ready entries of its own priority. -/
  | yield (c : Ctl)
  /-- SUSPEND (R291): Parks the task until register xa receives its completion word. -/
  | suspend (c : Ctl) (a : BitVec 5)
  /-- EXIT (R292): Retires the task, cancels its posted receives and frees its stack slot. -/
  | exit (c : Ctl)
  /-- SIG (R105): Compares the running control-flow CRC with k and resets SIGACC. -/
  | sig (c : Ctl) (k : BitVec 16)
  /-- PFX_M (R166): Sets the pending format PFX format for the next bundle's M slot. -/
  | pfxM (c : Ctl) (a : BitVec 4) (b : BitVec 4) (e : BitVec 2) (p : BitVec 1)
  /-- PFX_V (R166): Sets the pending format PFX format for the next bundle's V slot. -/
  | pfxV (c : Ctl) (a : BitVec 4) (b : BitVec 4) (e : BitVec 2) (p : BitVec 1)
  /-- LD (R127): Loads a byte, half, word or doubleword from SRAM into xd with latency 4. -/
  | ld (c : Ctl) (d : BitVec 5) (a : BitVec 5) (w : BitVec 2) (x : BitVec 1) (k : BitVec 8)
  /-- ST (R128): Stores the low bytes of xd into SRAM. -/
  | st (c : Ctl) (d : BitVec 5) (a : BitVec 5) (w : BitVec 2) (k : BitVec 8)
  /-- LDX (R129): Loads from SRAM at xa plus xb, optionally scaled, into xd. -/
  | ldx (c : Ctl) (d : BitVec 5) (a : BitVec 5) (b : BitVec 5) (c : BitVec 1) (x : BitVec 1) (w : BitVec 2)
  /-- STX (R129): Stores xd into SRAM at xa plus xb, optionally scaled. -/
  | stx (c : Ctl) (d : BitVec 5) (a : BitVec 5) (b : BitVec 5) (c : BitVec 1) (w : BitVec 2)
  /-- VLD (R130): Loads 256 bytes of SRAM into a vector register with latency 6. -/
  | vld (c : Ctl) (d : BitVec 5) (a : BitVec 5) (k : BitVec 9)
  /-- VST (R130): Stores a vector register as 256 bytes of SRAM. -/
  | vst (c : Ctl) (d : BitVec 5) (a : BitVec 5) (k : BitVec 9)
  /-- VLDL (R130): Loads 128 bytes into lanes 0 to 31 of a vector register. -/
  | vldl (c : Ctl) (d : BitVec 5) (a : BitVec 5) (k : BitVec 9)
  /-- VLDU (R130): Loads 128 bytes into lanes 32 to 63 of a vector register. -/
  | vldu (c : Ctl) (d : BitVec 5) (a : BitVec 5) (k : BitVec 9)
  /-- VGTH_32 (R131): Gathers 32-bit words from SRAM at indexed addresses into enabled lanes. -/
  | vgth32 (c : Ctl) (d : BitVec 5) (a : BitVec 5) (b : BitVec 5) (m : BitVec 3)
  /-- VSCT_32 (R131): Scatters 32-bit lanes to indexed SRAM addresses. -/
  | vsct32 (c : Ctl) (d : BitVec 5) (a : BitVec 5) (b : BitVec 5) (m : BitVec 3)
  /-- VGTH_16 (R131): Gathers halfwords from indexed SRAM addresses. -/
  | vgth16 (c : Ctl) (d : BitVec 5) (a : BitVec 5) (b : BitVec 5) (m : BitVec 3)
  /-- VSCT_16 (R131): Scatters low halfwords of lanes to indexed SRAM addresses. -/
  | vsct16 (c : Ctl) (d : BitVec 5) (a : BitVec 5) (b : BitVec 5) (m : BitVec 3)
  /-- VGTH_8 (R131): Gathers bytes from indexed SRAM addresses. -/
  | vgth8 (c : Ctl) (d : BitVec 5) (a : BitVec 5) (b : BitVec 5) (m : BitVec 3)
  /-- VSCT_8 (R131): Scatters low bytes of lanes to indexed SRAM addresses. -/
  | vsct8 (c : Ctl) (d : BitVec 5) (a : BitVec 5) (b : BitVec 5) (m : BitVec 3)
  /-- VLDM (R131): Loads consecutive words into the lanes enabled by the mask. -/
  | vldm (c : Ctl) (d : BitVec 5) (a : BitVec 5) (m : BitVec 3)
  /-- VSTM (R131): Stores the lanes enabled by the mask to consecutive words. -/
  | vstm (c : Ctl) (d : BitVec 5) (a : BitVec 5) (m : BitVec 3)
  /-- LTLD (R133): Loads a 16-byte layout entry from SRAM. -/
  | ltld (c : Ctl) (d : BitVec 5) (a : BitVec 5)
  /-- LTST (R133): Stores a layout entry into 16 bytes of SRAM. -/
  | ltst (c : Ctl) (d : BitVec 5) (a : BitVec 5)
  /-- LTW (R133): Writes a layout entry from xb : xa. -/
  | ltw (c : Ctl) (d : BitVec 5) (a : BitVec 5) (b : BitVec 5)
  /-- LTRL (R133): Reads the low 64 bits of a layout entry into xd. -/
  | ltrl (c : Ctl) (d : BitVec 5) (a : BitVec 5)
  /-- LTRH (R133): Reads the high 64 bits of a layout entry into xd. -/
  | ltrh (c : Ctl) (d : BitVec 5) (a : BitVec 5)
  /-- LTBASE (R133): Replaces the BASE field of a layout entry with xa[20:0]. -/
  | ltbase (c : Ctl) (d : BitVec 5) (a : BitVec 5)
  /-- ISTW (R134): Writes a word into the code region below XB. -/
  | istw (c : Ctl) (a : BitVec 5) (b : BitVec 5)
  /-- ISTV (R134): Writes 256 bytes of a vector register into the code region below XB. -/
  | istv (c : Ctl) (a : BitVec 5) (b : BitVec 5)
  /-- VADD (R142): Adds float elements with one rounding by RMODE. -/
  | vadd (c : Ctl) (d : BitVec 5) (a : BitVec 5) (b : BitVec 5) (m : BitVec 3)
  /-- VSUB (R142): Subtracts float elements with one rounding. -/
  | vsub (c : Ctl) (d : BitVec 5) (a : BitVec 5) (b : BitVec 5) (m : BitVec 3)
  /-- VMUL (R142): Multiplies float elements with one rounding. -/
  | vmul (c : Ctl) (d : BitVec 5) (a : BitVec 5) (b : BitVec 5) (m : BitVec 3)
  /-- VFMA (R142): Computes A times B plus D with one rounding. -/
  | vfma (c : Ctl) (d : BitVec 5) (a : BitVec 5) (b : BitVec 5) (m : BitVec 3)
  /-- VFNMA (R142): Computes D minus A times B with one rounding. -/
  | vfnma (c : Ctl) (d : BitVec 5) (a : BitVec 5) (b : BitVec 5) (m : BitVec 3)
  /-- VMIN (R142): Writes the lesser float element without rounding. -/
  | vmin (c : Ctl) (d : BitVec 5) (a : BitVec 5) (b : BitVec 5) (m : BitVec 3)
  /-- VMAX (R142): Writes the greater float element without rounding. -/
  | vmax (c : Ctl) (d : BitVec 5) (a : BitVec 5) (b : BitVec 5) (m : BitVec 3)
  /-- VFMS (R142): Computes A times B minus D with one rounding. -/
  | vfms (c : Ctl) (d : BitVec 5) (a : BitVec 5) (b : BitVec 5) (m : BitVec 3)
  /-- VRCP (R144): Computes the reciprocal of each element. -/
  | vrcp (c : Ctl) (d : BitVec 5) (a : BitVec 5) (m : BitVec 3)
  /-- VRSQ (R144): Computes the reciprocal square root of each element. -/
  | vrsq (c : Ctl) (d : BitVec 5) (a : BitVec 5) (m : BitVec 3)
  /-- VEXP2 (R144): Computes 2 to the power of each element. -/
  | vexp2 (c : Ctl) (d : BitVec 5) (a : BitVec 5) (m : BitVec 3)
  /-- VLOG2 (R144): Computes the base-2 logarithm of each element. -/
  | vlog2 (c : Ctl) (d : BitVec 5) (a : BitVec 5) (m : BitVec 3)
  /-- VSINP (R144): Computes sin(pi x) of each element. -/
  | vsinp (c : Ctl) (d : BitVec 5) (a : BitVec 5) (m : BitVec 3)
  /-- VTANH (R144): Computes tanh of each element. -/
  | vtanh (c : Ctl) (d : BitVec 5) (a : BitVec 5) (m : BitVec 3)
  /-- VDIV (R144): Divides float elements with one rounding. -/
  | vdiv (c : Ctl) (d : BitVec 5) (a : BitVec 5) (b : BitVec 5) (m : BitVec 3)
  /-- VSQRT (R144): Computes the square root of each element with one rounding. -/
  | vsqrt (c : Ctl) (d : BitVec 5) (a : BitVec 5) (m : BitVec 3)
  /-- VIADD (R146): Adds integer elements modulo 2^w. -/
  | viadd (c : Ctl) (d : BitVec 5) (a : BitVec 5) (b : BitVec 5) (m : BitVec 3)
  /-- VISUB (R146): Subtracts integer elements modulo 2^w. -/
  | visub (c : Ctl) (d : BitVec 5) (a : BitVec 5) (b : BitVec 5) (m : BitVec 3)
  /-- VIMUL (R146): Multiplies integer elements modulo 2^w. -/
  | vimul (c : Ctl) (d : BitVec 5) (a : BitVec 5) (b : BitVec 5) (m : BitVec 3)
  /-- VIMULH (R146): Writes the high half of each integer product. -/
  | vimulh (c : Ctl) (d : BitVec 5) (a : BitVec 5) (b : BitVec 5) (m : BitVec 3)
  /-- VIADDS (R146): Adds integer elements with saturation. -/
  | viadds (c : Ctl) (d : BitVec 5) (a : BitVec 5) (b : BitVec 5) (m : BitVec 3)
  /-- VISUBS (R146): Subtracts integer elements with saturation. -/
  | visubs (c : Ctl) (d : BitVec 5) (a : BitVec 5) (b : BitVec 5) (m : BitVec 3)
  /-- VIMIN (R146): Writes the lesser integer element. -/
  | vimin (c : Ctl) (d : BitVec 5) (a : BitVec 5) (b : BitVec 5) (m : BitVec 3)
  /-- VIMAX (R146): Writes the greater integer element. -/
  | vimax (c : Ctl) (d : BitVec 5) (a : BitVec 5) (b : BitVec 5) (m : BitVec 3)
  /-- VAND (R147): Bitwise AND of vector elements. -/
  | vand (c : Ctl) (d : BitVec 5) (a : BitVec 5) (b : BitVec 5) (m : BitVec 3)
  /-- VOR (R147): Bitwise OR of vector elements. -/
  | vor (c : Ctl) (d : BitVec 5) (a : BitVec 5) (b : BitVec 5) (m : BitVec 3)
  /-- VXOR (R147): Bitwise XOR of vector elements. -/
  | vxor (c : Ctl) (d : BitVec 5) (a : BitVec 5) (b : BitVec 5) (m : BitVec 3)
  /-- VANDN (R147): Bitwise A AND NOT B of vector elements. -/
  | vandn (c : Ctl) (d : BitVec 5) (a : BitVec 5) (b : BitVec 5) (m : BitVec 3)
  /-- VSLL (R147): Shifts vector elements left. -/
  | vsll (c : Ctl) (d : BitVec 5) (a : BitVec 5) (b : BitVec 5) (m : BitVec 3)
  /-- VSRL (R147): Shifts vector elements right logically. -/
  | vsrl (c : Ctl) (d : BitVec 5) (a : BitVec 5) (b : BitVec 5) (m : BitVec 3)
  /-- VSRA (R147): Shifts vector elements right arithmetically. -/
  | vsra (c : Ctl) (d : BitVec 5) (a : BitVec 5) (b : BitVec 5) (m : BitVec 3)
  /-- VBSL (R147): Bitwise select of A and B by the bits of V[d]. -/
  | vbsl (c : Ctl) (d : BitVec 5) (a : BitVec 5) (b : BitVec 5) (m : BitVec 3)
  /-- VCEQ (R148): Writes a mask of lanes where A equals B. -/
  | vceq (c : Ctl) (d : BitVec 3) (a : BitVec 5) (b : BitVec 5) (m : BitVec 3)
  /-- VCNE (R148): Writes a mask of lanes where A differs from B. -/
  | vcne (c : Ctl) (d : BitVec 3) (a : BitVec 5) (b : BitVec 5) (m : BitVec 3)
  /-- VCLT (R148): Writes a mask of lanes where A is less than B. -/
  | vclt (c : Ctl) (d : BitVec 3) (a : BitVec 5) (b : BitVec 5) (m : BitVec 3)
  /-- VCLE (R148): Writes a mask of lanes where A is at most B. -/
  | vcle (c : Ctl) (d : BitVec 3) (a : BitVec 5) (b : BitVec 5) (m : BitVec 3)
  /-- VCUN (R148): Writes a mask of lanes where either float element is NaN. -/
  | vcun (c : Ctl) (d : BitVec 3) (a : BitVec 5) (b : BitVec 5) (m : BitVec 3)
  /-- VCTST (R148): Writes a mask of lanes where A AND B is non-zero. -/
  | vctst (c : Ctl) (d : BitVec 3) (a : BitVec 5) (b : BitVec 5) (m : BitVec 3)
  /-- VCVT (R149): Converts one part of a vector between the PFX format's source and destination formats. -/
  | vcvt (c : Ctl) (d : BitVec 5) (a : BitVec 5) (b : BitVec 5) (m : BitVec 3)
  /-- VRINT (R151): Rounds each element to an integral value by RMODE. -/
  | vrint (c : Ctl) (d : BitVec 5) (a : BitVec 5) (m : BitVec 3)
  /-- VMOV (R152): Copies enabled elements of va to vd. -/
  | vmov (c : Ctl) (d : BitVec 5) (a : BitVec 5) (m : BitVec 3)
  /-- VSEL (R152): Selects each element from A or B by the mask. -/
  | vsel (c : Ctl) (d : BitVec 5) (a : BitVec 5) (b : BitVec 5) (m : BitVec 3)
  /-- VABS (R152): Writes the absolute value of each element. -/
  | vabs (c : Ctl) (d : BitVec 5) (a : BitVec 5) (m : BitVec 3)
  /-- VNEG (R152): Writes the negation of each element. -/
  | vneg (c : Ctl) (d : BitVec 5) (a : BitVec 5) (m : BitVec 3)
  /-- VCPYS (R152): Copies A with the sign bit of B. -/
  | vcpys (c : Ctl) (d : BitVec 5) (a : BitVec 5) (b : BitVec 5) (m : BitVec 3)
  /-- VFRSUM (R154): Reduces float elements by a pairwise sum tree into element 0. -/
  | vfrsum (c : Ctl) (d : BitVec 5) (a : BitVec 5) (m : BitVec 3)
  /-- VFRMAX (R154): Reduces float elements to their maximum. -/
  | vfrmax (c : Ctl) (d : BitVec 5) (a : BitVec 5) (m : BitVec 3)
  /-- VFRMIN (R154): Reduces float elements to their minimum. -/
  | vfrmin (c : Ctl) (d : BitVec 5) (a : BitVec 5) (m : BitVec 3)
  /-- VFSCAN (R155): Computes the inclusive float PFX format sum in element order. -/
  | vfscan (c : Ctl) (d : BitVec 5) (a : BitVec 5) (m : BitVec 3)
  /-- VIRSUM (R154): Reduces integer elements to their sum. -/
  | virsum (c : Ctl) (d : BitVec 5) (a : BitVec 5) (m : BitVec 3)
  /-- VIRMAX (R154): Reduces integer elements to their maximum. -/
  | virmax (c : Ctl) (d : BitVec 5) (a : BitVec 5) (m : BitVec 3)
  /-- VIRMIN (R154): Reduces integer elements to their minimum. -/
  | virmin (c : Ctl) (d : BitVec 5) (a : BitVec 5) (m : BitVec 3)
  /-- VISCAN (R155): Computes the inclusive wrapping integer PFX format sum. -/
  | viscan (c : Ctl) (d : BitVec 5) (a : BitVec 5) (m : BitVec 3)
  /-- VBCST (R156): Broadcasts a scalar register into enabled elements. -/
  | vbcst (c : Ctl) (d : BitVec 5) (a : BitVec 5) (m : BitVec 3)
  /-- VBCSTI (R156): Broadcasts a 5-bit signed immediate into enabled elements. -/
  | vbcsti (c : Ctl) (d : BitVec 5) (k : BitVec 5) (m : BitVec 3)
  /-- VEXTR (R156): Extracts one vector element into a scalar register. -/
  | vextr (c : Ctl) (d : BitVec 5) (a : BitVec 5) (b : BitVec 5)
  /-- VINS (R156): Inserts a scalar value into one vector element. -/
  | vins (c : Ctl) (d : BitVec 5) (a : BitVec 5) (b : BitVec 5)
  /-- VIOTA (R156): Writes each enabled element's index into it. -/
  | viota (c : Ctl) (d : BitVec 5) (m : BitVec 3)
  /-- VPERM (R157): Permutes elements of A by indices in B. -/
  | vperm (c : Ctl) (d : BitVec 5) (a : BitVec 5) (b : BitVec 5) (m : BitVec 3)
  /-- VCOMP (R157): Packs enabled elements to the low end. -/
  | vcomp (c : Ctl) (d : BitVec 5) (a : BitVec 5) (m : BitVec 3)
  /-- VEXPD (R157): Expands consecutive elements into enabled lanes. -/
  | vexpd (c : Ctl) (d : BitVec 5) (a : BitVec 5) (m : BitVec 3)
  /-- VCPOS (R157): Writes each lane's count of mask bits below it. -/
  | vcpos (c : Ctl) (d : BitVec 5) (m : BitVec 3)
  /-- VSLDN (R157): Slides elements down by a scalar amount. -/
  | vsldn (c : Ctl) (d : BitVec 5) (a : BitVec 5) (b : BitVec 5) (m : BitVec 3)
  /-- VSLUP (R157): Slides elements up by a scalar amount. -/
  | vslup (c : Ctl) (d : BitVec 5) (a : BitVec 5) (b : BitVec 5) (m : BitVec 3)
  /-- MAND (R158): ANDs two mask registers. -/
  | mand (c : Ctl) (d : BitVec 3) (a : BitVec 3) (b : BitVec 3)
  /-- MOR (R158): ORs two mask registers. -/
  | mor (c : Ctl) (d : BitVec 3) (a : BitVec 3) (b : BitVec 3)
  /-- MXOR (R158): XORs two mask registers. -/
  | mxor (c : Ctl) (d : BitVec 3) (a : BitVec 3) (b : BitVec 3)
  /-- MANDN (R158): Computes ma AND NOT mb. -/
  | mandn (c : Ctl) (d : BitVec 3) (a : BitVec 3) (b : BitVec 3)
  /-- MFROMX (R158): Copies a scalar register into a mask register. -/
  | mfromx (c : Ctl) (d : BitVec 3) (a : BitVec 5)
  /-- MTOX (R158): Copies a mask register into a scalar register. -/
  | mtox (c : Ctl) (d : BitVec 5) (a : BitVec 3)
  /-- MPOPC (R158): Counts the set bits of a mask into a scalar register. -/
  | mpopc (c : Ctl) (d : BitVec 5) (a : BitVec 3)
  /-- MFFS (R158): Writes the index of the lowest set mask bit, or 64. -/
  | mffs (c : Ctl) (d : BitVec 5) (a : BitVec 3)
  /-- MZERO (R171): Tags and validates an accumulator row at issue and zeroes its cells at issue + 8. -/
  | mzero (c : Ctl) (b : BitVec 1) (r : BitVec 6)
  /-- MPUSH (R172): Writes one beat's exact sum, rounded, into an accumulator row. -/
  | mpush (c : Ctl) (b : BitVec 1) (r : BitVec 6) (l : BitVec 2) (c : BitVec 5) (h : BitVec 1) (p : BitVec 1)
  /-- MACC (R172): Adds one beat's exact sum to an accumulator row. -/
  | macc (c : Ctl) (b : BitVec 1) (r : BitVec 6) (l : BitVec 2) (c : BitVec 5) (h : BitVec 1) (p : BitVec 1)
  /-- MSHIFT (R173): Shifts a latch by one line and writes the source into line 63. -/
  | mshift (c : Ctl) (l : BitVec 2) (c : BitVec 5) (h : BitVec 1) (p : BitVec 1)
  /-- MLATCH (R173): Writes 1024 source bits into one latch line. -/
  | mlatch (c : Ctl) (r : BitVec 6) (l : BitVec 2) (c : BitVec 5) (h : BitVec 1) (p : BitVec 1)
  /-- MLSIDE (R174): Writes 1024 source bits into one side line of a latch. -/
  | mlside (c : Ctl) (r : BitVec 4) (l : BitVec 2) (c : BitVec 5) (h : BitVec 1) (p : BitVec 1)
  /-- MDRAIN (R176): Converts an accumulator row into a vector register or SRAM and may clear it. -/
  | mdrain (c : Ctl) (b : BitVec 1) (r : BitVec 6) (d : BitVec 5) (p : BitVec 1) (h : BitVec 1) (c : BitVec 1) (f : BitVec 4) (t : BitVec 1)
  /-- MSCLR_A (R179): Clears bits of MSTA named by xa. -/
  | msclrA (c : Ctl) (a : BitVec 5)
  /-- MSCLR_B (R179): Clears bits of MSTB named by xa. -/
  | msclrB (c : Ctl) (a : BitVec 5)
  /-- MRDS (R179): Reads row tags, row valid bits or latch valid bits into xd. -/
  | mrds (c : Ctl) (d : BitVec 5) (a : BitVec 5)
  /-- SEND (R201): Sends a message from a layout entry, eager or rendezvous by length. -/
  | send (c : Ctl) (t : BitVec 5) (a : BitVec 5) (b : BitVec 5) (l : BitVec 5)
  /-- SEND_R (R201): Sends a message by the rendezvous protocol. -/
  | sendR (c : Ctl) (t : BitVec 5) (a : BitVec 5) (b : BitVec 5) (l : BitVec 5)
  /-- RECV (R203): Posts a receive into a layout entry under a tag:rank operand. -/
  | recv (c : Ctl) (t : BitVec 5) (a : BitVec 5) (l : BitVec 5)
  /-- TESTT (R204): Writes 1 to xd when token register xa is pending. -/
  | testt (c : Ctl) (d : BitVec 5) (a : BitVec 5)
  /-- PROBE (R205): Searches the hamper without removing and writes a probe word. -/
  | probe (c : Ctl) (d : BitVec 5) (a : BitVec 5)
  /-- CANCEL (R206): Cancels the posted receive whose token is xa. -/
  | cancel (c : Ctl) (a : BitVec 5)
  /-- WAITANY (R207): Waits for any token of a set and writes the lowest completed number. -/
  | waitany (c : Ctl) (d : BitVec 5) (a : BitVec 5)
  /-- ENVR (R208): Reads a doubleword of an envelope header by handle. -/
  | envr (c : Ctl) (d : BitVec 5) (a : BitVec 5) (b : BitVec 5)
  /-- QGET (R228): Reads a contiguous quarry range into a layout entry. -/
  | qget (c : Ctl) (t : BitVec 5) (a : BitVec 5) (l : BitVec 3)
  /-- QPUT (R228): Writes a layout entry's bytes to a contiguous quarry range. -/
  | qput (c : Ctl) (t : BitVec 5) (a : BitVec 5) (l : BitVec 3)
  /-- QGETT (R229): Reads a clipped tile of a row-major quarry tensor. -/
  | qgett (c : Ctl) (t : BitVec 5) (a : BitVec 5) (b : BitVec 5) (l : BitVec 3)
  /-- QPUTT (R229): Writes the inside elements of a tile to a quarry tensor. -/
  | qputt (c : Ctl) (t : BitVec 5) (a : BitVec 5) (b : BitVec 5) (l : BitVec 3)
  /-- QATOM (R230): Performs one atomic operation at the quarry home and returns the old value. -/
  | qatom (c : Ctl) (t : BitVec 5) (a : BitVec 5) (b : BitVec 5) (l : BitVec 3)
  /-- QGATH (R231): Gathers elements from indexed quarry addresses. -/
  | qgath (c : Ctl) (t : BitVec 5) (a : BitVec 5) (l : BitVec 3)
  /-- QSCAT (R231): Scatters elements to indexed quarry addresses. -/
  | qscat (c : Ctl) (t : BitVec 5) (a : BitVec 5) (l : BitVec 3)
  /-- QFILL (R232): Fills a quarry range with a repeated 8-byte pattern. -/
  | qfill (c : Ctl) (t : BitVec 5) (a : BitVec 5) (b : BitVec 5)
  /-- QCOPY (R232): Copies one quarry range to another. -/
  | qcopy (c : Ctl) (t : BitVec 5) (a : BitVec 5) (b : BitVec 5)
  /-- FENCE_Q (R233): Orders the engine's quarry requests and completes when earlier ones have. -/
  | fenceQ (c : Ctl) (t : BitVec 5)
  /-- SPAWN (R283): Pushes a task record at the bottom of the tile's deque. -/
  | spawn (c : Ctl) (d : BitVec 5) (a : BitVec 5)
  /-- SPAWNR (R283): Places a task record in the ready queue. -/
  | spawnr (c : Ctl) (d : BitVec 5) (a : BitVec 5)
  /-- POP (R284): Removes the bottom deque record and writes it to SRAM. -/
  | pop (c : Ctl) (d : BitVec 5) (a : BitVec 5)
  /-- STEAL (R285): Asks another tile's deque engine for its oldest record. -/
  | steal (c : Ctl) (t : BitVec 5) (a : BitVec 5)
  /-- STEAL_X (R285): Steals as STEAL, with an empty answer completing as an error. -/
  | stealX (c : Ctl) (t : BitVec 5) (a : BitVec 5)
  /-- DQST (R287): Writes the tile's deque, ready queue and frame counts to xd. -/
  | dqst (c : Ctl) (d : BitVec 5)
  /-- WIDF (R288): Extracts field n of a work identifier. -/
  | widf (c : Ctl) (d : BitVec 5) (a : BitVec 5) (f : BitVec 3)
  /-- WIDS (R288): Replaces field n of a work identifier. -/
  | wids (c : Ctl) (d : BitVec 5) (a : BitVec 5) (b : BitVec 5) (f : BitVec 3)
  /-- SENDT (R250): Queues a timed message to leave on the scheduled plane at its slot. -/
  | sendt (c : Ctl) (t : BitVec 5) (a : BitVec 5) (b : BitVec 5) (l : BitVec 3)
  /-- MSEND (R251): Sends one multicast message to a router group. -/
  | msend (c : Ctl) (t : BitVec 5) (a : BitVec 5) (l : BitVec 3)
  /-- HALO (R252): Sends halo rows to neighbours in the named directions. -/
  | halo (c : Ctl) (t : BitVec 5) (a : BitVec 5) (e : BitVec 2)
  /-- WAITMB (R253): Stalls until a mailbox count reaches a target. -/
  | waitmb (c : Ctl) (a : BitVec 5) (e : BitVec 2)
  /-- FENCEX (R254): Closes a fence interval of a port pair with another module. -/
  | fencex (c : Ctl) (t : BitVec 5) (a : BitVec 5)
  /-- MGSET (R255): Writes an entry of the tile's router multicast table. -/
  | mgset (c : Ctl) (a : BitVec 5) (b : BitVec 5)
  /-- FSTAT (R256): Reads a fabric discard or congestion counter into xd. -/
  | fstat (c : Ctl) (d : BitVec 5) (a : BitVec 5)
  /-- ERECV (R319): Takes the lowest-key accepted message, places a waymark and sets LVT. -/
  | erecv (c : Ctl) (t : BitVec 5) (a : BitVec 5) (l : BitVec 3)
  /-- ERECV_NS (R320): Takes the lowest-key message as ERECV without placing a waymark. -/
  | erecvNs (c : Ctl) (t : BitVec 5) (a : BitVec 5) (l : BitVec 3)
  /-- DEFER_H (R322): Defers a host output action to the commit queue. -/
  | deferH (c : Ctl) (t : BitVec 5) (a : BitVec 5) (b : BitVec 5)
  /-- DEFER_T (R322): Defers a trace mark to the commit queue. -/
  | deferT (c : Ctl) (t : BitVec 5) (a : BitVec 5)
  /-- VTADV (R321): Opens a local event at a new virtual time with a waymark. -/
  | vtadv (c : Ctl) (a : BitVec 5)
  /-- SAVEM (R323): Returns the old VSAVE and sets a new one. -/
  | savem (c : Ctl) (d : BitVec 5) (a : BitVec 5)
  /-- GVTW (R324): Makes a token pending until GVT reaches a bound. -/
  | gvtw (c : Ctl) (t : BitVec 5) (a : BitVec 5)
  /-- BENCH (R349): Requests a bench of the partition. -/
  | bench (c : Ctl) (t : BitVec 5) (a : BitVec 5)
  /-- BSTAT (R350): Reads the state of a bench by id. -/
  | bstat (c : Ctl) (d : BitVec 5) (a : BitVec 5)
  /-- BWAIT (R351): Makes a token pending until a bench is hauled or fails. -/
  | bwait (c : Ctl) (t : BitVec 5) (a : BitVec 5)
  /-- BDROP (R352): Drops a bench by id. -/
  | bdrop (c : Ctl) (a : BitVec 5)
  /-- RESULT_LAND (R34): A fixed-latency result is written to its destination at the start of issue cycle i + n. -/
  | resultLand (site : Nat)
  /-- ASYNC_TRAP (R357): At a user-mode boundary the lowest pending asynchronous cause is taken before the bundle. -/
  | asyncTrap (site : Nat)
  /-- SYNC_RELEASE (R110): All waiting tiles issue their next bundle 64 fabric cycles after the last arrival. -/
  | syncRelease (pid : Nat)
  /-- SCHEDULED_FLIT_FORWARD (R238): A scheduled-plane flit is forwarded or discarded by the slot-table entry of the cycle. -/
  | scheduledFlitForward (site : Nat) (port : Nat)
  /-- SENDT_DEPART (R250): A timed flit enters input register L at its departure cycle and its token completes. -/
  | sendtDepart (site : Nat)
  /-- TIMED_ARRIVAL (R240): A timed flit delivered by L enters the timed-arrival queue or is discarded when it is full. -/
  | timedArrival (site : Nat)
  /-- TIMED_QUEUE_DELIVER (R240): The head of the timed-arrival queue enters the matching engine once a payload cell is free. -/
  | timedQueueDeliver (site : Nat)
  /-- MULTICAST_FORWARD (R242): A router latches its multicast entry and copies a held packet to each named output. -/
  | multicastForward (site : Nat)
  /-- HALO_ARRIVAL (R244): A halo row lands in the receiver's SRAM or sets BAD, and the side's mailbox counts it. -/
  | haloArrival (src : Nat) (dst : Nat)
  /-- CONGESTION_DETECT (R234): A packet blocked 64 fabric cycles makes its destination congested, assigning set-aside queues and sending notices. -/
  | congestionDetect (site : Nat) (port : Nat) (plane : Nat) (dst : Nat)
  /-- CONGESTION_NOTICE (R234): An upstream router receiving a congestion notice sets aside the destination's traffic in turn. -/
  | congestionNotice (site : Nat) (port : Nat) (plane : Nat) (dst : Nat)
  /-- SETASIDE_RELEASE (R234): A set-aside queue empty for 1024 fabric cycles is released. -/
  | setasideRelease (site : Nat) (port : Nat) (plane : Nat) (dst : Nat)
  /-- FENCE_MARKER (R247): The peer port compares a fence marker's count with its received count and returns its verdict. -/
  | fenceMarker (die : Nat) (peer : Nat) (count : Nat)
  /-- FENCE_VERDICT (R254): The fence verdict reaching the issuing tile completes its FENCEX token. -/
  | fenceVerdict (site : Nat) (peerCount : Nat)
  /-- MESSAGE_ARRIVAL (R187): An arriving message or request-to-send is matched to a posted receive or enters the hamper. -/
  | messageArrival (src : Nat) (dst : Nat)
  /-- HAMPER_INPUT_RESUME (R191): A stopped request-plane input resumes once cells or a header entry are free. -/
  | hamperInputResume (site : Nat)
  /-- EAGER_READOUT_START (R194): A queued eager send begins reading into retention once retention space is free. -/
  | eagerReadoutStart (site : Nat)
  /-- EAGER_READOUT_DONE (R194): The last byte of an eager send is read out, freeing its R entry and completing its token. -/
  | eagerReadoutDone (site : Nat)
  /-- ACCEPTANCE_ARRIVAL (R194): An acceptance reaching the sender frees the eager send's retention. -/
  | acceptanceArrival (src : Nat) (dst : Nat)
  /-- REFUSAL_ARRIVAL (R194): A refusal moves a retained eager send to wait for a clear-to-send. -/
  | refusalArrival (src : Nat) (dst : Nat)
  /-- CTS_SEND (R428): The matching engine sends the clear-to-send in the fourth fabric cycle after a match. -/
  | ctsSend (site : Nat)
  /-- CTS_ARRIVAL (R194): A clear-to-send for n bytes starts the sender streaming. -/
  | ctsArrival (src : Nat) (dst : Nat)
  /-- RENDEZVOUS_STREAM_DONE (R194): The first n bytes are sent, completing the rendezvous send or freeing retention. -/
  | rendezvousStreamDone (site : Nat)
  /-- RECEIVE_COMPLETE (R195): The last byte of a receive lands, freeing its W entry and writing the envelope and completion word. -/
  | receiveComplete (site : Nat)
  /-- ANTI_MESSAGE_ARRIVAL (R309): An anti-message annihilates its twin, fails a receive, waits as a negative entry or causes a secondary rollback. -/
  | antiMessageArrival (src : Nat) (dst : Nat)
  /-- PEER_FENCED_ANSWER (R372): A code-0x06 answer completes the sender's owning operation with an error and frees its resources. -/
  | peerFencedAnswer (src : Nat) (dst : Nat)
  /-- LINK_FAIL (R371): A die-to-die link or port failure fails operations on its route with code 0x07 and may contain a partition. -/
  | linkFail (die : Nat) (other : Nat)
  /-- QUARRY_PART_DISPATCH (R218): A request part takes a free tracker and is sent under the ACQ and REL orders. -/
  | quarryPartDispatch (site : Nat)
  /-- QUARRY_WALK (R216): A translation walk completes, installing an entry or failing with code 0x03. -/
  | quarryWalk (site : Nat)
  /-- QUARRY_PART_SERVE (R221): A quarry tile performs a request part in arrival order and answers on the response plane. -/
  | quarryPartServe (src : Nat) (owner : Nat)
  /-- QUARRY_REPLY (R218): A reply or acknowledgement releases its tracker, and the last one writes the request's completion word. -/
  | quarryReply (owner : Nat) (dst : Nat)
  /-- QUARRY_PART_TIMEOUT (R218): A part without reply after 2^24 fabric cycles releases its tracker with code 0x02. -/
  | quarryPartTimeout (site : Nat) (tracker : Nat)
  /-- TRACKER_HOLDBACK_END (R218): A timed-out tracker becomes reusable after a further 2^24 fabric cycles. -/
  | trackerHoldbackEnd (site : Nat) (tracker : Nat)
  /-- STEAL_SERVE (R286): A victim's deque engine answers a steal request with its oldest record or empty. -/
  | stealServe (src : Nat) (dst : Nat)
  /-- STEAL_ANSWER (R285): A steal answer reaching the thief places the record in its deque and completes the token. -/
  | stealAnswer (src : Nat) (dst : Nat)
  /-- DISPATCH (R269): A tile with no running task starts the next ready entry, a popped deque record or the idle task. -/
  | dispatch (site : Nat)
  /-- TASK_PREEMPT (R278): A higher-priority ready entry pre-empts the running task at a bundle boundary and its context is saved. -/
  | taskPreempt (site : Nat)
  /-- PMASK_EXPIRE (R368): After 4096 user issue cycles a masked pre-emption is taken and PMX set. -/
  | pmaskExpire (site : Nat)
  /-- ROLLBACK (R305): The tile restores a target segment from the trail, sends anti-messages and resumes at its opening bundle. -/
  | rollback (site : Nat)
  /-- GVT_ROUND_START (R312): Every GVTP fabric cycles the root sends a round marker and tiles flip their round colour. -/
  | gvtRoundStart (pid : Nat)
  /-- GVT_REPORT_RETRY (R312): Unequal round sums make the root ask for new reports after 256 fabric cycles. -/
  | gvtReportRetry (pid : Nat)
  /-- GVT_RELEASE (R311): A tile receiving GVT_k releases commit-queue entries below it and collects fossils. -/
  | gvtRelease (site : Nat)
  /-- GVT_ROUND_END (R312): The round ends when every tile has reported done. -/
  | gvtRoundEnd (pid : Nat)
  /-- BENCH_ACCEPT (R349): The partition manager accepts a bench request, assigns id and generation and sends the bench marker. -/
  | benchAccept (pid : Nat)
  /-- BENCH_FLIP (R331): A tile flips its bench colour at a boundary and records its image state. -/
  | benchFlip (site : Nat)
  /-- QUARRY_BENCH_FLIP (R329): A quarry tile flips for a generation and marks every page of the QASID shared. -/
  | quarryBenchFlip (pid : Nat) (owner : Nat)
  /-- BENCH_SWEEP (R337): The sweep copies one uncopied SRAM line into the bench image. -/
  | benchSweep (site : Nat)
  /-- BENCH_SEAL (R339): When captures finish and sums agree the bench is SEALED and its tokens complete. -/
  | benchSeal (pid : Nat) (id : Nat)
  /-- HAUL_PAGE (R341): A haul engine compresses one pool page to the bench store and frees the frame. -/
  | haulPage (pid : Nat) (id : Nat)
  /-- PERIODIC_BENCH (R345): Under BPOL mode 1 a bench is requested every BPER × 2^20 fabric cycles. -/
  | periodicBench (pid : Nat)
  /-- PFAIL (R344): On power failure haul stops, CXL writes finish and the bench directory is written. -/
  | pfail
  /-- CONTAINMENT (R372): A partition stops, answers packets with 0x06, fails open benches, resets and zeroes its tiles. -/
  | containment (pid : Nat)
  /-- CONTAINMENT_DRAINED (R372): When the partition's packets have drained the rectangle is freed and the completion record written. -/
  | containmentDrained (pid : Nat)
  /-- PREEMPTION_CAPTURED (R261): Once pre-empted partitions are captured the waiting record is placed. -/
  | preemptionCaptured (pid : Nat)
  /-- PARTITION_END (R264): When every tile is finished and nothing is in flight the fence lifts and an ended record is written. -/
  | partitionEnd (pid : Nat)
  /-- TILE_HALT (R384): A tile halts at a bundle boundary, freezing results and recording HCYC, HMSG and HCAUSE. -/
  | tileHalt (site : Nat)
  /-- GANG_STOP (R385): The gang-stop tree delivers a partition halt to every tile at H + 64. -/
  | gangStop (pid : Nat)
  /-- GANG_RESUME (R385): Every tile of a gang-halted partition issues its next bundle at R + 64. -/
  | gangResume (pid : Nat)
  /-- STEP_DONE (R388): When STEPCNT bundles have issued the tile halts with HCAUSE 7. -/
  | stepDone (site : Nat)
  /-- DBGCTL_HALT (R384): A host write of HALT to DBGCTL requests a halt of the tile. -/
  | dbgctlHalt (site : Nat)
  /-- DBGCTL_STEP (R388): A host write of STEP runs a halted tile for STEPCNT bundles. -/
  | dbgctlStep (site : Nat)
  /-- DBGCTL_RESUME (R385): A host write of RESUME lets a halted tile or gang-halted partition issue again. -/
  | dbgctlResume (site : Nat)
  /-- DBGPC_WRITE (R382): A host write to DBGPC of a halted tile redirects its next fetch. -/
  | dbgpcWrite (site : Nat) (v : BitVec 64)
  /-- STEPCNT_WRITE (R387): A host write to STEPCNT sets the bundles a step issues, only while halted. -/
  | stepcntWrite (site : Nat) (v : BitVec 64)
  /-- FINJ_WRITE (R393): A host write to FINJ arms an injection, or stores ARM = 0 for a refused one. -/
  | finjWrite (site : Nat) (v : BitVec 64)
  /-- FAULT_INJECT_DEFERRED (R394): With WHEN = 1 the bits are inverted as the bundle at BKPD.ADDR next issues. -/
  | faultInjectDeferred (site : Nat)
  /-- TRACE_BATCH_WRITE (R397): Queued trace records are written to the sink in 64-byte batches with a header update. -/
  | traceBatchWrite (site : Nat)
  /-- SRAM_SCRUB (R400): The scrubber reads one SRAM line every 1024 fabric cycles. -/
  | sramScrub (site : Nat) (line : Nat)
  /-- QUARRY_SCRUB (R400): Each quarry tile reads each block once in 2^36 fabric cycles. -/
  | quarryScrub (owner : Nat) (block : Nat)
  /-- XB_WRITE (R116): A WRW to XB moves the execute-only boundary or raises BOUND. -/
  | xbWrite (v : BitVec 64)
  /-- STATUS_WRITE (R93): A WRW to STATUS writes GWB, NANT and TE and clears ROLLED where bit 1 is 1. -/
  | statusWrite (v : BitVec 64)
  /-- RMODE_WRITE (R55): A WRW to RMODE sets the rounding mode, storing 0 for modes 6 and 7. -/
  | rmodeWrite (v : BitVec 64)
  /-- RSEED_WRITE (R56): A WRW to RSEED sets the generator state, storing a fixed constant for 0. -/
  | rseedWrite (v : BitVec 64)
  /-- MAILBOX_WRITE (R245): A WRW to a halo mailbox writes COUNT and clears BAD where bit 63 is 1. -/
  | mailboxWrite (side : Nat) (v : BitVec 64)
  /-- TRCCTL_WRITE (R395): A WRW to TRCCTL enables trace with a reset sink header or flushes on disable. -/
  | trcctlWrite (v : BitVec 64)
  /-- HOST_REGISTER_WRITE (R406): A host write to a window register without behaviour of its own stores its writable fields. -/
  | hostRegisterWrite (win : Nat) (off : Nat) (v : BitVec 64)
  /-- W3_READ (R409): A host read through W3 returns quarry or expander bytes, or all ones out of range or poisoned. -/
  | w3Read (off : Nat)
  /-- W3_WRITE (R409): A host write through W3 writes quarry or expander bytes as a host-source request. -/
  | w3Write (off : Nat) (v : BitVec 64)
  /-- QTAIL_WRITE (R412): A host write of QTAIL + 1 enqueues the slot's launch record. -/
  | qtailWrite (q : Nat) (v : BitVec 64)
  /-- CTAIL_WRITE (R413): A host write to CTAIL frees completion ring entries so held records are written. -/
  | ctailWrite (v : BitVec 64)
  /-- OTAIL_WRITE (R414): A host write to OTAIL frees host output ring entries so waiting releases proceed. -/
  | otailWrite (v : BitVec 64)
  /-- HALTP (R385): Command 0x01 requests a partition halt over the gang-stop tree. -/
  | haltp
  /-- RESUMEP (R385): Command 0x02 resumes a gang-halted partition. -/
  | resumep
  /-- CONTAIN (R371): Command 0x03 contains a partition with cause Host. -/
  | contain
  /-- QROOT (R410): Command 0x04 sets or clears the root translation table of a QASID. -/
  | qroot
  /-- QINVAL (R217): Command 0x05 invalidates every translation of a QASID. -/
  | qinval
  /-- QINVAL_ACKNOWLEDGE (R217): After all earlier-translated parts complete, the invalidation is acknowledged and BUSY falls. -/
  | qinvalAcknowledge
  /-- RETIRE (R405): Command 0x06 marks a tile for retirement with reason 3. -/
  | retire
  /-- PORTPAIR (R410): Command 0x07 sets up a die's Ultra Ethernet port pair with a peer module. -/
  | portpair
  /-- GVTDOM (R316): Command 0x08 joins a partition to a multi-module GVT domain before its first round. -/
  | gvtdom
  /-- IMGREG (R411): Command 0x09 registers or replaces an image written through W3. -/
  | imgreg
  /-- IMGDEL (R410): Command 0x0A removes an image from the store. -/
  | imgdel
  /-- ATTEST (R419): Command 0x0B produces a signed attestation report over a nonce. -/
  | attest
  /-- PSET (R421): Command 0x0C requests a power state, parking or unparking the module. -/
  | pset
  /-- PCAP_WRITE (R421): A host write to PCAP sets the power cap, clamping to the permitted bounds. -/
  | pcapWrite (v : BitVec 64)
  /-- BENCH_TAKE (R415): Bench command TAKE requests a bench of a partition as BENCH does. -/
  | benchTake
  /-- BENCH_RESTORE (R343): Bench command RESTORE places a bench's partition again with its pages, SRAM and channel records. -/
  | benchRestore
  /-- BENCH_DROP (R352): Bench command DROP drops a bench by directory index. -/
  | benchDrop
  /-- BENCH_KEEP (R415): Bench command KEEP retains a partition's hauled benches after it ends. -/
  | benchKeep
  /-- ISSUE_BUDGET_UPDATE (R422): Every 1 ms the per-tile issue budget k of 64 cycles is set to respect the cap and temperature. -/
  | issueBudgetUpdate
  /-- THERMAL_SHUTDOWN (R422): A junction at 110 °C makes the module signal PFAIL to itself and power down. -/
  | thermalShutdown
  /-- START_SEQUENCE (R417): At power-on the module runs its start steps in order up to READY. -/
  | startSequence
  /-- BOOT_CHECK (R431): After the boot partition ends the block sets TILEIDs and checks totals and flags. -/
  | bootCheck
  /-- LINK_CRC_RETRY (R221): A die-to-die or leaf link that detects a CRC error replays from the failed packet in go-back-N order, so replayed parts keep their place. -/
  | linkCrcRetry (die : Nat) (other : Nat)
deriving DecidableEq, Repr

end Sys2Proof
end

