-- ==== Sys2Proof/WellFormed.lean ====
section
/-! DEFINITION. Well-formed instructions: the field values that raise ILLOP in an assigned form (R32) and that the
decoder refuses by name; for a step without an encoding, the ranges of the numbers that say where it happens. -/

namespace Sys2Proof

/-- The operand source of a beat: with sp = 1 h must be 0 and src at most 30 (R162). -/
def srcOk (src : BitVec 5) (h sp : BitVec 1) : Bool := sp = 0#1 || (h = 0#1 && src != 31#5)

/-- The drain targets of R175: F32, BF16, F16, E4M3, E5M2, I8, I32, I16, N32. -/
def drainFmt (f : BitVec 4) : Bool := [0, 1, 2, 3, 4, 9, 12, 13, 14].contains f.toNat

/-- The drain targets of width 32, which refuse h = 1 (R175). -/
def drainWide (f : BitVec 4) : Bool := [0, 12, 14].contains f.toNat

/-- A slot that is no no-operation has a guard that can select it (R26). -/
def ctlOk (c : Ctl) : Bool := !(c.gn && c.gi = 0#3)

/-- The checks that the encoding alone decides (R32, R162, R175, R206, R225). -/
def Instr.wf : Instr → Bool
  | .nop c _ _ => c.gn && c.gi = 0#3
  | .add c_ _ _ _ => ctlOk c_
  | .sub c_ _ _ _ => ctlOk c_
  | .and c_ _ _ _ => ctlOk c_
  | .or c_ _ _ _ => ctlOk c_
  | .xor c_ _ _ _ => ctlOk c_
  | .andn c_ _ _ _ => ctlOk c_
  | .orn c_ _ _ _ => ctlOk c_
  | .xnor c_ _ _ _ => ctlOk c_
  | .sll c_ _ _ _ => ctlOk c_
  | .srl c_ _ _ _ => ctlOk c_
  | .sra c_ _ _ _ => ctlOk c_
  | .ror c_ _ _ _ => ctlOk c_
  | .rol c_ _ _ _ => ctlOk c_
  | .slt c_ _ _ _ => ctlOk c_
  | .sltu c_ _ _ _ => ctlOk c_
  | .min c_ _ _ _ => ctlOk c_
  | .max c_ _ _ _ => ctlOk c_
  | .minu c_ _ _ _ => ctlOk c_
  | .maxu c_ _ _ _ => ctlOk c_
  | .addw c_ _ _ _ => ctlOk c_
  | .subw c_ _ _ _ => ctlOk c_
  | .sllw c_ _ _ _ => ctlOk c_
  | .srlw c_ _ _ _ => ctlOk c_
  | .sraw c_ _ _ _ => ctlOk c_
  | .mul c_ _ _ _ => ctlOk c_
  | .mulh c_ _ _ _ => ctlOk c_
  | .mulhu c_ _ _ _ => ctlOk c_
  | .mulhsu c_ _ _ _ => ctlOk c_
  | .mulw c_ _ _ _ => ctlOk c_
  | .div c_ _ _ _ => ctlOk c_
  | .divu c_ _ _ _ => ctlOk c_
  | .rem c_ _ _ _ => ctlOk c_
  | .remu c_ _ _ _ => ctlOk c_
  | .divw c_ _ _ _ => ctlOk c_
  | .divuw c_ _ _ _ => ctlOk c_
  | .remw c_ _ _ _ => ctlOk c_
  | .remuw c_ _ _ _ => ctlOk c_
  | .clz c_ _ _ => ctlOk c_
  | .ctz c_ _ _ => ctlOk c_
  | .popc c_ _ _ => ctlOk c_
  | .brev c_ _ _ => ctlOk c_
  | .bswap c_ _ _ => ctlOk c_
  | .sextb c_ _ _ => ctlOk c_
  | .sexth c_ _ _ => ctlOk c_
  | .zextb c_ _ _ => ctlOk c_
  | .zexth c_ _ _ => ctlOk c_
  | .zextw c_ _ _ => ctlOk c_
  | .clzw c_ _ _ => ctlOk c_
  | .bext c_ _ _ _ => ctlOk c_
  | .bset c_ _ _ _ => ctlOk c_
  | .bclr c_ _ _ _ => ctlOk c_
  | .binv c_ _ _ _ => ctlOk c_
  | .bfxu c_ _ _ _ => ctlOk c_
  | .bfxs c_ _ _ _ => ctlOk c_
  | .addi c_ _ _ _ => ctlOk c_
  | .andi c_ _ _ _ => ctlOk c_
  | .ori c_ _ _ _ => ctlOk c_
  | .xori c_ _ _ _ => ctlOk c_
  | .slli c_ _ _ _ => ctlOk c_
  | .srli c_ _ _ _ => ctlOk c_
  | .srai c_ _ _ _ => ctlOk c_
  | .rori c_ _ _ _ => ctlOk c_
  | .slliw c_ _ _ _ => ctlOk c_
  | .srliw c_ _ _ _ => ctlOk c_
  | .sraiw c_ _ _ _ => ctlOk c_
  | .ldi c_ _ _ => ctlOk c_
  | .ldh1 c_ _ _ => ctlOk c_
  | .ldh2 c_ _ _ => ctlOk c_
  | .ldh3 c_ _ _ => ctlOk c_
  | .sel c_ _ _ _ _ => ctlOk c_
  | .addsc c_ _ _ _ _ => ctlOk c_
  | .ladd c_ _ _ _ _ => ctlOk c_
  | .chku c_ _ _ => ctlOk c_
  | .rdw c_ _ _ => ctlOk c_
  | .wrw c_ _ _ => ctlOk c_
  | .br c_ _ => ctlOk c_
  | .call c_ _ => ctlOk c_
  | .jr c_ _ => ctlOk c_
  | .jalr c_ _ _ => ctlOk c_
  | .loop c_ _ _ => ctlOk c_
  | .cmp c_ _ _ _ _ => ctlOk c_
  | .cmpi c_ _ _ _ _ => ctlOk c_
  | .pand c_ _ _ _ => ctlOk c_
  | .por c_ _ _ _ => ctlOk c_
  | .pxor c_ _ _ _ => ctlOk c_
  | .pandn c_ _ _ _ => ctlOk c_
  | .prdg c_ _ _ => ctlOk c_
  | .pwrg c_ _ _ => ctlOk c_
  | .trap c_ _ => ctlOk c_
  | .rfe c_ => ctlOk c_
  | .brk c_ => ctlOk c_
  | .idle c_ _ => ctlOk c_
  | .ifence c_ => ctlOk c_
  | .maskp c_ => ctlOk c_
  | .unmaskp c_ => ctlOk c_
  | .savelt c_ _ => ctlOk c_
  | .rstlt c_ _ => ctlOk c_
  | .sync c_ => ctlOk c_
  | .lpop c_ => ctlOk c_
  | .yield c_ => ctlOk c_
  | .suspend c_ _ => ctlOk c_
  | .exit c_ => ctlOk c_
  | .sig c_ _ => ctlOk c_
  | .pfxM c_ a b _ _ => ctlOk c_ && (a != 15#4 && b != 15#4)
  | .pfxV c_ a b _ _ => ctlOk c_ && (a != 15#4 && b != 15#4)
  | .ld c_ _ _ w x _ => ctlOk c_ && (!(w = 3#2 && x = 1#1))
  | .st c_ _ _ _ _ => ctlOk c_
  | .ldx c_ _ _ _ _ x w => ctlOk c_ && (!(w = 3#2 && x = 1#1))
  | .stx c_ _ _ _ _ _ => ctlOk c_
  | .vld c_ _ _ _ => ctlOk c_
  | .vst c_ _ _ _ => ctlOk c_
  | .vldl c_ _ _ _ => ctlOk c_
  | .vldu c_ _ _ _ => ctlOk c_
  | .vgth32 c_ _ _ _ _ => ctlOk c_
  | .vsct32 c_ _ _ _ _ => ctlOk c_
  | .vgth16 c_ _ _ _ _ => ctlOk c_
  | .vsct16 c_ _ _ _ _ => ctlOk c_
  | .vgth8 c_ _ _ _ _ => ctlOk c_
  | .vsct8 c_ _ _ _ _ => ctlOk c_
  | .vldm c_ _ _ _ => ctlOk c_
  | .vstm c_ _ _ _ => ctlOk c_
  | .ltld c_ _ _ => ctlOk c_
  | .ltst c_ _ _ => ctlOk c_
  | .ltw c_ _ _ _ => ctlOk c_
  | .ltrl c_ _ _ => ctlOk c_
  | .ltrh c_ _ _ => ctlOk c_
  | .ltbase c_ _ _ => ctlOk c_
  | .istw c_ _ _ => ctlOk c_
  | .istv c_ _ _ => ctlOk c_
  | .vadd c_ _ _ _ _ => ctlOk c_
  | .vsub c_ _ _ _ _ => ctlOk c_
  | .vmul c_ _ _ _ _ => ctlOk c_
  | .vfma c_ _ _ _ _ => ctlOk c_
  | .vfnma c_ _ _ _ _ => ctlOk c_
  | .vmin c_ _ _ _ _ => ctlOk c_
  | .vmax c_ _ _ _ _ => ctlOk c_
  | .vfms c_ _ _ _ _ => ctlOk c_
  | .vrcp c_ _ _ _ => ctlOk c_
  | .vrsq c_ _ _ _ => ctlOk c_
  | .vexp2 c_ _ _ _ => ctlOk c_
  | .vlog2 c_ _ _ _ => ctlOk c_
  | .vsinp c_ _ _ _ => ctlOk c_
  | .vtanh c_ _ _ _ => ctlOk c_
  | .vdiv c_ _ _ _ _ => ctlOk c_
  | .vsqrt c_ _ _ _ => ctlOk c_
  | .viadd c_ _ _ _ _ => ctlOk c_
  | .visub c_ _ _ _ _ => ctlOk c_
  | .vimul c_ _ _ _ _ => ctlOk c_
  | .vimulh c_ _ _ _ _ => ctlOk c_
  | .viadds c_ _ _ _ _ => ctlOk c_
  | .visubs c_ _ _ _ _ => ctlOk c_
  | .vimin c_ _ _ _ _ => ctlOk c_
  | .vimax c_ _ _ _ _ => ctlOk c_
  | .vand c_ _ _ _ _ => ctlOk c_
  | .vor c_ _ _ _ _ => ctlOk c_
  | .vxor c_ _ _ _ _ => ctlOk c_
  | .vandn c_ _ _ _ _ => ctlOk c_
  | .vsll c_ _ _ _ _ => ctlOk c_
  | .vsrl c_ _ _ _ _ => ctlOk c_
  | .vsra c_ _ _ _ _ => ctlOk c_
  | .vbsl c_ _ _ _ _ => ctlOk c_
  | .vceq c_ _ _ _ _ => ctlOk c_
  | .vcne c_ _ _ _ _ => ctlOk c_
  | .vclt c_ _ _ _ _ => ctlOk c_
  | .vcle c_ _ _ _ _ => ctlOk c_
  | .vcun c_ _ _ _ _ => ctlOk c_
  | .vctst c_ _ _ _ _ => ctlOk c_
  | .vcvt c_ _ _ _ _ => ctlOk c_
  | .vrint c_ _ _ _ => ctlOk c_
  | .vmov c_ _ _ _ => ctlOk c_
  | .vsel c_ _ _ _ _ => ctlOk c_
  | .vabs c_ _ _ _ => ctlOk c_
  | .vneg c_ _ _ _ => ctlOk c_
  | .vcpys c_ _ _ _ _ => ctlOk c_
  | .vfrsum c_ _ _ _ => ctlOk c_
  | .vfrmax c_ _ _ _ => ctlOk c_
  | .vfrmin c_ _ _ _ => ctlOk c_
  | .vfscan c_ _ _ _ => ctlOk c_
  | .virsum c_ _ _ _ => ctlOk c_
  | .virmax c_ _ _ _ => ctlOk c_
  | .virmin c_ _ _ _ => ctlOk c_
  | .viscan c_ _ _ _ => ctlOk c_
  | .vbcst c_ _ _ _ => ctlOk c_
  | .vbcsti c_ _ _ _ => ctlOk c_
  | .vextr c_ _ _ _ => ctlOk c_
  | .vins c_ _ _ _ => ctlOk c_
  | .viota c_ _ _ => ctlOk c_
  | .vperm c_ _ _ _ _ => ctlOk c_
  | .vcomp c_ _ _ _ => ctlOk c_
  | .vexpd c_ _ _ _ => ctlOk c_
  | .vcpos c_ _ _ => ctlOk c_
  | .vsldn c_ _ _ _ _ => ctlOk c_
  | .vslup c_ _ _ _ _ => ctlOk c_
  | .mand c_ _ _ _ => ctlOk c_
  | .mor c_ _ _ _ => ctlOk c_
  | .mxor c_ _ _ _ => ctlOk c_
  | .mandn c_ _ _ _ => ctlOk c_
  | .mfromx c_ _ _ => ctlOk c_
  | .mtox c_ _ _ => ctlOk c_
  | .mpopc c_ _ _ => ctlOk c_
  | .mffs c_ _ _ => ctlOk c_
  | .mzero c_ _ _ => ctlOk c_
  | .mpush c_ _ _ _ c h p => ctlOk c_ && (srcOk c h p)
  | .macc c_ _ _ _ c h p => ctlOk c_ && (srcOk c h p)
  | .mshift c_ _ c h p => ctlOk c_ && (srcOk c h p)
  | .mlatch c_ _ _ c h p => ctlOk c_ && (srcOk c h p)
  | .mlside c_ _ _ c h p => ctlOk c_ && (srcOk c h p)
  | .mdrain c_ _ _ d p h _ f _ => ctlOk c_ && (drainFmt f && (!(p = 1#1) || (h = 0#1 && d != 31#5)) && (!(p = 0#1 && drainWide f) || h = 0#1))
  | .msclrA c_ _ => ctlOk c_
  | .msclrB c_ _ => ctlOk c_
  | .mrds c_ _ a => ctlOk c_ && (a.toNat ≤ 4)
  | .send c_ _ _ _ _ => ctlOk c_
  | .sendR c_ _ _ _ _ => ctlOk c_
  | .recv c_ _ _ _ => ctlOk c_
  | .testt c_ _ _ => ctlOk c_
  | .probe c_ _ _ => ctlOk c_
  | .cancel c_ a => ctlOk c_ && (a != 0#5)
  | .waitany c_ _ _ => ctlOk c_
  | .envr c_ _ _ _ => ctlOk c_
  | .qget c_ _ _ _ => ctlOk c_
  | .qput c_ _ _ _ => ctlOk c_
  | .qgett c_ _ _ b _ => ctlOk c_ && (b != 31#5)
  | .qputt c_ _ _ b _ => ctlOk c_ && (b != 31#5)
  | .qatom c_ _ _ _ _ => ctlOk c_
  | .qgath c_ _ _ _ => ctlOk c_
  | .qscat c_ _ _ _ => ctlOk c_
  | .qfill c_ _ _ b => ctlOk c_ && (b != 31#5)
  | .qcopy c_ _ _ b => ctlOk c_ && (b != 31#5)
  | .fenceQ c_ _ => ctlOk c_
  | .spawn c_ _ _ => ctlOk c_
  | .spawnr c_ _ _ => ctlOk c_
  | .pop c_ _ _ => ctlOk c_
  | .steal c_ _ _ => ctlOk c_
  | .stealX c_ _ _ => ctlOk c_
  | .dqst c_ _ => ctlOk c_
  | .widf c_ _ _ f => ctlOk c_ && (f.toNat ≤ 5)
  | .wids c_ _ _ _ f => ctlOk c_ && (f.toNat ≤ 5)
  | .sendt c_ _ _ _ _ => ctlOk c_
  | .msend c_ _ _ _ => ctlOk c_
  | .halo c_ _ _ _ => ctlOk c_
  | .waitmb c_ _ _ => ctlOk c_
  | .fencex c_ _ _ => ctlOk c_
  | .mgset c_ _ _ => ctlOk c_
  | .fstat c_ _ a => ctlOk c_ && (a.toNat ≤ 4)
  | .erecv c_ _ _ _ => ctlOk c_
  | .erecvNs c_ _ _ _ => ctlOk c_
  | .deferH c_ _ _ _ => ctlOk c_
  | .deferT c_ _ _ => ctlOk c_
  | .vtadv c_ _ => ctlOk c_
  | .savem c_ _ _ => ctlOk c_
  | .gvtw c_ _ _ => ctlOk c_
  | .bench c_ _ _ => ctlOk c_
  | .bstat c_ _ _ => ctlOk c_
  | .bwait c_ _ _ => ctlOk c_
  | .bdrop c_ _ => ctlOk c_
  | .resultLand site => decide (site < 4096)
  | .asyncTrap site => decide (site < 4096)
  | .syncRelease pid => decide (pid < 4096)
  | .scheduledFlitForward site port => decide (site < 4096) && decide (port < 6)
  | .sendtDepart site => decide (site < 4096)
  | .timedArrival site => decide (site < 4096)
  | .timedQueueDeliver site => decide (site < 4096)
  | .multicastForward site => decide (site < 4096)
  | .haloArrival src dst => decide (src < 4352) && decide (dst < 4352)
  | .congestionDetect site port plane dst => decide (site < 4096) && decide (port < 6) && decide (plane < 2) && decide (dst < 4352)
  | .congestionNotice site port plane dst => decide (site < 4096) && decide (port < 6) && decide (plane < 2) && decide (dst < 4352)
  | .setasideRelease site port plane dst => decide (site < 4096) && decide (port < 6) && decide (plane < 2) && decide (dst < 4352)
  | .fenceMarker die peer _ => decide (die < 16) && decide (peer < 65536)
  | .fenceVerdict site _ => decide (site < 4096)
  | .messageArrival src dst => decide (src < 4352) && decide (dst < 4352)
  | .hamperInputResume site => decide (site < 4096)
  | .eagerReadoutStart site => decide (site < 4096)
  | .eagerReadoutDone site => decide (site < 4096)
  | .acceptanceArrival src dst => decide (src < 4352) && decide (dst < 4352)
  | .refusalArrival src dst => decide (src < 4352) && decide (dst < 4352)
  | .ctsSend site => decide (site < 4096)
  | .ctsArrival src dst => decide (src < 4352) && decide (dst < 4352)
  | .rendezvousStreamDone site => decide (site < 4096)
  | .receiveComplete site => decide (site < 4096)
  | .antiMessageArrival src dst => decide (src < 4352) && decide (dst < 4352)
  | .peerFencedAnswer src dst => decide (src < 4352) && decide (dst < 4352)
  | .linkFail die _ => decide (die < 16)
  | .quarryPartDispatch site => decide (site < 4096)
  | .quarryWalk site => decide (site < 4096)
  | .quarryPartServe src owner => decide (src < 4352) && decide (owner < 256)
  | .quarryReply owner dst => decide (owner < 256) && decide (dst < 4352)
  | .quarryPartTimeout site tracker => decide (site < 4096) && decide (tracker < 256)
  | .trackerHoldbackEnd site tracker => decide (site < 4096) && decide (tracker < 256)
  | .stealServe src dst => decide (src < 4352) && decide (dst < 4352)
  | .stealAnswer src dst => decide (src < 4352) && decide (dst < 4352)
  | .dispatch site => decide (site < 4096)
  | .taskPreempt site => decide (site < 4096)
  | .pmaskExpire site => decide (site < 4096)
  | .rollback site => decide (site < 4096)
  | .gvtRoundStart pid => decide (pid < 4096)
  | .gvtReportRetry pid => decide (pid < 4096)
  | .gvtRelease site => decide (site < 4096)
  | .gvtRoundEnd pid => decide (pid < 4096)
  | .benchAccept pid => decide (pid < 4096)
  | .benchFlip site => decide (site < 4096)
  | .quarryBenchFlip pid owner => decide (pid < 4096) && decide (owner < 256)
  | .benchSweep site => decide (site < 4096)
  | .benchSeal pid id => decide (pid < 4096) && decide (id < 8)
  | .haulPage pid id => decide (pid < 4096) && decide (id < 8)
  | .periodicBench pid => decide (pid < 4096)
  | .pfail => true
  | .containment pid => decide (pid < 4096)
  | .containmentDrained pid => decide (pid < 4096)
  | .preemptionCaptured pid => decide (pid < 4096)
  | .partitionEnd pid => decide (pid < 4096)
  | .tileHalt site => decide (site < 4096)
  | .gangStop pid => decide (pid < 4096)
  | .gangResume pid => decide (pid < 4096)
  | .stepDone site => decide (site < 4096)
  | .dbgctlHalt site => decide (site < 4096)
  | .dbgctlStep site => decide (site < 4096)
  | .dbgctlResume site => decide (site < 4096)
  | .dbgpcWrite site _ => decide (site < 4096)
  | .stepcntWrite site _ => decide (site < 4096)
  | .finjWrite site _ => decide (site < 4096)
  | .faultInjectDeferred site => decide (site < 4096)
  | .traceBatchWrite site => decide (site < 4096)
  | .sramScrub site _ => decide (site < 4096)
  | .quarryScrub owner _ => decide (owner < 256)
  | .xbWrite _ => true
  | .statusWrite _ => true
  | .rmodeWrite _ => true
  | .rseedWrite _ => true
  | .mailboxWrite side _ => decide (side < 4)
  | .trcctlWrite _ => true
  | .hostRegisterWrite win _ _ => decide (win < 3)
  | .w3Read _ => true
  | .w3Write _ _ => true
  | .qtailWrite q _ => decide (q < 12)
  | .ctailWrite _ => true
  | .otailWrite _ => true
  | .haltp => true
  | .resumep => true
  | .contain => true
  | .qroot => true
  | .qinval => true
  | .qinvalAcknowledge => true
  | .retire => true
  | .portpair => true
  | .gvtdom => true
  | .imgreg => true
  | .imgdel => true
  | .attest => true
  | .pset => true
  | .pcapWrite _ => true
  | .benchTake => true
  | .benchRestore => true
  | .benchDrop => true
  | .benchKeep => true
  | .issueBudgetUpdate => true
  | .thermalShutdown => true
  | .startSequence => true
  | .bootCheck => true
  | .linkCrcRetry die _ => decide (die < 16)

end Sys2Proof
end

