-- ==== Sys2Proof/Decode.lean ====
section
/-! DEFINITION. Decoding of slot words, total on any bytes, and the encoder (R24, R31 to R33 and the tables of the class chapters).
The section is noncomputable because the compiled runtime has no object tag above 244 and Instr has 360 constructors; the kernel evaluates every definition. -/

namespace Sys2Proof

/-- Why a slot word is no instruction (R33, R32). -/
inductive Reject where
  /-- fewer than four bytes -/
  | short
  /-- a reserved major opcode (R33) -/
  | reservedMajor
  /-- a function value or a field that the class chapter leaves unassigned (R32) -/
  | unassigned
  /-- a field value that raises ILLOP in an assigned form (R32) -/
  | illFormed
deriving DecidableEq, Repr

/-- Bits [lo + n − 1 : lo] of a slot word. -/
def fld (w : BitVec 32) (lo n : Nat) : BitVec n := w.extractLsb' lo n

/-- The stop and guard bits of a slot word (R24). -/
def ctlOf (w : BitVec 32) : Ctl := ⟨w.getLsbD 31, w.getLsbD 24, fld w 21 3⟩

noncomputable section

/-- Major 0x00. -/
def decodeMajor00 (w : BitVec 32) : Option Instr :=
  if fld w 0 6 = 0#6 then some (.add (ctlOf w) (fld w 16 5) (fld w 11 5) (fld w 6 5))
  else if fld w 0 6 = 1#6 then some (.sub (ctlOf w) (fld w 16 5) (fld w 11 5) (fld w 6 5))
  else if fld w 0 6 = 2#6 then some (.and (ctlOf w) (fld w 16 5) (fld w 11 5) (fld w 6 5))
  else if fld w 0 6 = 3#6 then some (.or (ctlOf w) (fld w 16 5) (fld w 11 5) (fld w 6 5))
  else if fld w 0 6 = 4#6 then some (.xor (ctlOf w) (fld w 16 5) (fld w 11 5) (fld w 6 5))
  else if fld w 0 6 = 5#6 then some (.andn (ctlOf w) (fld w 16 5) (fld w 11 5) (fld w 6 5))
  else if fld w 0 6 = 6#6 then some (.orn (ctlOf w) (fld w 16 5) (fld w 11 5) (fld w 6 5))
  else if fld w 0 6 = 7#6 then some (.xnor (ctlOf w) (fld w 16 5) (fld w 11 5) (fld w 6 5))
  else if fld w 0 6 = 8#6 then some (.sll (ctlOf w) (fld w 16 5) (fld w 11 5) (fld w 6 5))
  else if fld w 0 6 = 9#6 then some (.srl (ctlOf w) (fld w 16 5) (fld w 11 5) (fld w 6 5))
  else if fld w 0 6 = 10#6 then some (.sra (ctlOf w) (fld w 16 5) (fld w 11 5) (fld w 6 5))
  else if fld w 0 6 = 11#6 then some (.ror (ctlOf w) (fld w 16 5) (fld w 11 5) (fld w 6 5))
  else if fld w 0 6 = 12#6 then some (.rol (ctlOf w) (fld w 16 5) (fld w 11 5) (fld w 6 5))
  else if fld w 0 6 = 13#6 then some (.slt (ctlOf w) (fld w 16 5) (fld w 11 5) (fld w 6 5))
  else if fld w 0 6 = 14#6 then some (.sltu (ctlOf w) (fld w 16 5) (fld w 11 5) (fld w 6 5))
  else if fld w 0 6 = 15#6 then some (.min (ctlOf w) (fld w 16 5) (fld w 11 5) (fld w 6 5))
  else if fld w 0 6 = 16#6 then some (.max (ctlOf w) (fld w 16 5) (fld w 11 5) (fld w 6 5))
  else if fld w 0 6 = 17#6 then some (.minu (ctlOf w) (fld w 16 5) (fld w 11 5) (fld w 6 5))
  else if fld w 0 6 = 18#6 then some (.maxu (ctlOf w) (fld w 16 5) (fld w 11 5) (fld w 6 5))
  else if fld w 0 6 = 19#6 then some (.addw (ctlOf w) (fld w 16 5) (fld w 11 5) (fld w 6 5))
  else if fld w 0 6 = 20#6 then some (.subw (ctlOf w) (fld w 16 5) (fld w 11 5) (fld w 6 5))
  else if fld w 0 6 = 21#6 then some (.sllw (ctlOf w) (fld w 16 5) (fld w 11 5) (fld w 6 5))
  else if fld w 0 6 = 22#6 then some (.srlw (ctlOf w) (fld w 16 5) (fld w 11 5) (fld w 6 5))
  else if fld w 0 6 = 23#6 then some (.sraw (ctlOf w) (fld w 16 5) (fld w 11 5) (fld w 6 5))
  else none

/-- Major 0x01. -/
def decodeMajor01 (w : BitVec 32) : Option Instr :=
  if fld w 0 6 = 0#6 then some (.mul (ctlOf w) (fld w 16 5) (fld w 11 5) (fld w 6 5))
  else if fld w 0 6 = 1#6 then some (.mulh (ctlOf w) (fld w 16 5) (fld w 11 5) (fld w 6 5))
  else if fld w 0 6 = 2#6 then some (.mulhu (ctlOf w) (fld w 16 5) (fld w 11 5) (fld w 6 5))
  else if fld w 0 6 = 3#6 then some (.mulhsu (ctlOf w) (fld w 16 5) (fld w 11 5) (fld w 6 5))
  else if fld w 0 6 = 4#6 then some (.mulw (ctlOf w) (fld w 16 5) (fld w 11 5) (fld w 6 5))
  else if fld w 0 6 = 8#6 then some (.div (ctlOf w) (fld w 16 5) (fld w 11 5) (fld w 6 5))
  else if fld w 0 6 = 9#6 then some (.divu (ctlOf w) (fld w 16 5) (fld w 11 5) (fld w 6 5))
  else if fld w 0 6 = 10#6 then some (.rem (ctlOf w) (fld w 16 5) (fld w 11 5) (fld w 6 5))
  else if fld w 0 6 = 11#6 then some (.remu (ctlOf w) (fld w 16 5) (fld w 11 5) (fld w 6 5))
  else if fld w 0 6 = 12#6 then some (.divw (ctlOf w) (fld w 16 5) (fld w 11 5) (fld w 6 5))
  else if fld w 0 6 = 13#6 then some (.divuw (ctlOf w) (fld w 16 5) (fld w 11 5) (fld w 6 5))
  else if fld w 0 6 = 14#6 then some (.remw (ctlOf w) (fld w 16 5) (fld w 11 5) (fld w 6 5))
  else if fld w 0 6 = 15#6 then some (.remuw (ctlOf w) (fld w 16 5) (fld w 11 5) (fld w 6 5))
  else none

/-- Major 0x02. -/
def decodeMajor02 (w : BitVec 32) : Option Instr :=
  if fld w 0 6 = 0#6 ∧ fld w 6 5 = 0#5 then some (.clz (ctlOf w) (fld w 16 5) (fld w 11 5))
  else if fld w 0 6 = 1#6 ∧ fld w 6 5 = 0#5 then some (.ctz (ctlOf w) (fld w 16 5) (fld w 11 5))
  else if fld w 0 6 = 2#6 ∧ fld w 6 5 = 0#5 then some (.popc (ctlOf w) (fld w 16 5) (fld w 11 5))
  else if fld w 0 6 = 3#6 ∧ fld w 6 5 = 0#5 then some (.brev (ctlOf w) (fld w 16 5) (fld w 11 5))
  else if fld w 0 6 = 4#6 ∧ fld w 6 5 = 0#5 then some (.bswap (ctlOf w) (fld w 16 5) (fld w 11 5))
  else if fld w 0 6 = 5#6 ∧ fld w 6 5 = 0#5 then some (.sextb (ctlOf w) (fld w 16 5) (fld w 11 5))
  else if fld w 0 6 = 6#6 ∧ fld w 6 5 = 0#5 then some (.sexth (ctlOf w) (fld w 16 5) (fld w 11 5))
  else if fld w 0 6 = 8#6 ∧ fld w 6 5 = 0#5 then some (.zextb (ctlOf w) (fld w 16 5) (fld w 11 5))
  else if fld w 0 6 = 9#6 ∧ fld w 6 5 = 0#5 then some (.zexth (ctlOf w) (fld w 16 5) (fld w 11 5))
  else if fld w 0 6 = 10#6 ∧ fld w 6 5 = 0#5 then some (.zextw (ctlOf w) (fld w 16 5) (fld w 11 5))
  else if fld w 0 6 = 11#6 ∧ fld w 6 5 = 0#5 then some (.clzw (ctlOf w) (fld w 16 5) (fld w 11 5))
  else if fld w 0 6 = 16#6 then some (.bext (ctlOf w) (fld w 16 5) (fld w 11 5) (fld w 6 5))
  else if fld w 0 6 = 17#6 then some (.bset (ctlOf w) (fld w 16 5) (fld w 11 5) (fld w 6 5))
  else if fld w 0 6 = 18#6 then some (.bclr (ctlOf w) (fld w 16 5) (fld w 11 5) (fld w 6 5))
  else if fld w 0 6 = 19#6 then some (.binv (ctlOf w) (fld w 16 5) (fld w 11 5) (fld w 6 5))
  else if fld w 0 6 = 20#6 then some (.bfxu (ctlOf w) (fld w 16 5) (fld w 11 5) (fld w 6 5))
  else if fld w 0 6 = 21#6 then some (.bfxs (ctlOf w) (fld w 16 5) (fld w 11 5) (fld w 6 5))
  else none

/-- Major 0x03. -/
def decodeMajor03 (w : BitVec 32) : Option Instr :=
  some (.addi (ctlOf w) (fld w 16 5) (fld w 11 5) (fld w 0 11))

/-- Major 0x04. -/
def decodeMajor04 (w : BitVec 32) : Option Instr :=
  some (.andi (ctlOf w) (fld w 16 5) (fld w 11 5) (fld w 0 11))

/-- Major 0x05. -/
def decodeMajor05 (w : BitVec 32) : Option Instr :=
  some (.ori (ctlOf w) (fld w 16 5) (fld w 11 5) (fld w 0 11))

/-- Major 0x06. -/
def decodeMajor06 (w : BitVec 32) : Option Instr :=
  some (.xori (ctlOf w) (fld w 16 5) (fld w 11 5) (fld w 0 11))

/-- Major 0x07. -/
def decodeMajor07 (w : BitVec 32) : Option Instr :=
  if fld w 6 5 = 0#5 then some (.slli (ctlOf w) (fld w 16 5) (fld w 11 5) (fld w 0 6))
  else if fld w 6 5 = 4#5 then some (.srli (ctlOf w) (fld w 16 5) (fld w 11 5) (fld w 0 6))
  else if fld w 6 5 = 8#5 then some (.srai (ctlOf w) (fld w 16 5) (fld w 11 5) (fld w 0 6))
  else if fld w 6 5 = 12#5 then some (.rori (ctlOf w) (fld w 16 5) (fld w 11 5) (fld w 0 6))
  else if fld w 5 1 = 0#1 ∧ fld w 6 5 = 16#5 then some (.slliw (ctlOf w) (fld w 16 5) (fld w 11 5) (fld w 0 5))
  else if fld w 5 1 = 0#1 ∧ fld w 6 5 = 20#5 then some (.srliw (ctlOf w) (fld w 16 5) (fld w 11 5) (fld w 0 5))
  else if fld w 5 1 = 0#1 ∧ fld w 6 5 = 24#5 then some (.sraiw (ctlOf w) (fld w 16 5) (fld w 11 5) (fld w 0 5))
  else none

/-- Major 0x08. -/
def decodeMajor08 (w : BitVec 32) : Option Instr :=
  some (.ldi (ctlOf w) (fld w 16 5) (fld w 0 16))

/-- Major 0x09. -/
def decodeMajor09 (w : BitVec 32) : Option Instr :=
  some (.ldh1 (ctlOf w) (fld w 16 5) (fld w 0 16))

/-- Major 0x0A. -/
def decodeMajor0A (w : BitVec 32) : Option Instr :=
  some (.ldh2 (ctlOf w) (fld w 16 5) (fld w 0 16))

/-- Major 0x0B. -/
def decodeMajor0B (w : BitVec 32) : Option Instr :=
  some (.ldh3 (ctlOf w) (fld w 16 5) (fld w 0 16))

/-- Major 0x0C. -/
def decodeMajor0C (w : BitVec 32) : Option Instr :=
  some (.sel (ctlOf w) (fld w 16 5) (fld w 11 5) (fld w 6 5) (fld w 0 6))

/-- Major 0x0D. -/
def decodeMajor0D (w : BitVec 32) : Option Instr :=
  if fld w 3 3 = 0#3 then some (.addsc (ctlOf w) (fld w 16 5) (fld w 11 5) (fld w 6 5) (fld w 0 3))
  else if fld w 3 3 = 1#3 then some (.ladd (ctlOf w) (fld w 16 5) (fld w 11 5) (fld w 6 5) (fld w 0 3))
  else if fld w 0 3 = 0#3 ∧ fld w 3 3 = 2#3 ∧ fld w 16 5 = 0#5 then some (.chku (ctlOf w) (fld w 11 5) (fld w 6 5))
  else none

/-- Major 0x0E. -/
def decodeMajor0E (w : BitVec 32) : Option Instr :=
  if fld w 12 4 = 0#4 then some (.rdw (ctlOf w) (fld w 16 5) (fld w 0 12))
  else none

/-- Major 0x0F. -/
def decodeMajor0F (w : BitVec 32) : Option Instr :=
  if fld w 12 4 = 0#4 then some (.wrw (ctlOf w) (fld w 16 5) (fld w 0 12))
  else none

/-- Major 0x10. -/
def decodeMajor10 (w : BitVec 32) : Option Instr :=
  some (.br (ctlOf w) (fld w 0 21))

/-- Major 0x11. -/
def decodeMajor11 (w : BitVec 32) : Option Instr :=
  some (.call (ctlOf w) (fld w 0 21))

/-- Major 0x12. -/
def decodeMajor12 (w : BitVec 32) : Option Instr :=
  if fld w 0 11 = 0#11 ∧ fld w 16 5 = 0#5 then some (.jr (ctlOf w) (fld w 11 5))
  else if fld w 0 11 = 1#11 then some (.jalr (ctlOf w) (fld w 16 5) (fld w 11 5))
  else none

/-- Major 0x13. -/
def decodeMajor13 (w : BitVec 32) : Option Instr :=
  some (.loop (ctlOf w) (fld w 16 5) (fld w 0 16))

/-- Major 0x14. -/
def decodeMajor14 (w : BitVec 32) : Option Instr :=
  if fld w 3 1 = 0#1 then some (.cmp (ctlOf w) (fld w 14 7) (fld w 9 5) (fld w 4 5) (fld w 0 3))
  else none

/-- Major 0x15. -/
def decodeMajor15 (w : BitVec 32) : Option Instr :=
  some (.cmpi (ctlOf w) (fld w 14 7) (fld w 9 5) (fld w 6 3) (fld w 0 6))

/-- Major 0x16. -/
def decodeMajor16 (w : BitVec 32) : Option Instr :=
  some (.pand (ctlOf w) (fld w 14 7) (fld w 7 7) (fld w 0 7))

/-- Major 0x17. -/
def decodeMajor17 (w : BitVec 32) : Option Instr :=
  some (.por (ctlOf w) (fld w 14 7) (fld w 7 7) (fld w 0 7))

/-- Major 0x18. -/
def decodeMajor18 (w : BitVec 32) : Option Instr :=
  some (.pxor (ctlOf w) (fld w 14 7) (fld w 7 7) (fld w 0 7))

/-- Major 0x19. -/
def decodeMajor19 (w : BitVec 32) : Option Instr :=
  some (.pandn (ctlOf w) (fld w 14 7) (fld w 7 7) (fld w 0 7))

/-- Major 0x1A. -/
def decodeMajor1A (w : BitVec 32) : Option Instr :=
  if fld w 0 6 = 0#6 ∧ fld w 6 5 = 0#5 ∧ fld w 12 4 = 0#4 then some (.prdg (ctlOf w) (fld w 16 5) (fld w 11 1))
  else if fld w 0 6 = 1#6 ∧ fld w 12 4 = 0#4 ∧ fld w 16 5 = 0#5 then some (.pwrg (ctlOf w) (fld w 11 1) (fld w 6 5))
  else none

/-- Major 0x1B. -/
def decodeMajor1B (w : BitVec 32) : Option Instr :=
  if fld w 0 11 = 0#11 ∧ fld w 16 5 = 0#5 then some (.trap (ctlOf w) (fld w 11 5))
  else if fld w 0 11 = 1#11 ∧ fld w 11 5 = 0#5 ∧ fld w 16 5 = 0#5 then some (.rfe (ctlOf w))
  else if fld w 0 11 = 2#11 ∧ fld w 11 5 = 0#5 ∧ fld w 16 5 = 0#5 then some (.brk (ctlOf w))
  else if fld w 0 11 = 3#11 ∧ fld w 16 5 = 0#5 then some (.idle (ctlOf w) (fld w 11 5))
  else if fld w 0 11 = 4#11 ∧ fld w 11 5 = 0#5 ∧ fld w 16 5 = 0#5 then some (.ifence (ctlOf w))
  else if fld w 0 11 = 5#11 ∧ fld w 11 5 = 0#5 ∧ fld w 16 5 = 0#5 then some (.maskp (ctlOf w))
  else if fld w 0 11 = 6#11 ∧ fld w 11 5 = 0#5 ∧ fld w 16 5 = 0#5 then some (.unmaskp (ctlOf w))
  else if fld w 0 11 = 7#11 ∧ fld w 16 5 = 0#5 then some (.savelt (ctlOf w) (fld w 11 5))
  else if fld w 0 11 = 8#11 ∧ fld w 16 5 = 0#5 then some (.rstlt (ctlOf w) (fld w 11 5))
  else if fld w 0 11 = 16#11 ∧ fld w 11 5 = 0#5 ∧ fld w 16 5 = 0#5 then some (.sync (ctlOf w))
  else if fld w 0 11 = 17#11 ∧ fld w 11 5 = 0#5 ∧ fld w 16 5 = 0#5 then some (.lpop (ctlOf w))
  else if fld w 0 11 = 24#11 ∧ fld w 11 5 = 0#5 ∧ fld w 16 5 = 0#5 then some (.yield (ctlOf w))
  else if fld w 0 11 = 25#11 ∧ fld w 16 5 = 0#5 then some (.suspend (ctlOf w) (fld w 11 5))
  else if fld w 0 11 = 26#11 ∧ fld w 11 5 = 0#5 ∧ fld w 16 5 = 0#5 then some (.exit (ctlOf w))
  else none

/-- Major 0x1C. -/
def decodeMajor1C (w : BitVec 32) : Option Instr :=
  if fld w 16 5 = 0#5 then some (.sig (ctlOf w) (fld w 0 16))
  else none

/-- Major 0x1D. -/
def decodeMajor1D (w : BitVec 32) : Option Instr :=
  if fld w 0 10 = 0#10 then some (.pfxM (ctlOf w) (fld w 17 4) (fld w 13 4) (fld w 11 2) (fld w 10 1))
  else if fld w 0 10 = 512#10 then some (.pfxV (ctlOf w) (fld w 17 4) (fld w 13 4) (fld w 11 2) (fld w 10 1))
  else none

/-- Major 0x20. -/
def decodeMajor20 (w : BitVec 32) : Option Instr :=
  some (.ld (ctlOf w) (fld w 16 5) (fld w 11 5) (fld w 9 2) (fld w 8 1) (fld w 0 8))

/-- Major 0x21. -/
def decodeMajor21 (w : BitVec 32) : Option Instr :=
  if fld w 8 1 = 0#1 then some (.st (ctlOf w) (fld w 16 5) (fld w 11 5) (fld w 9 2) (fld w 0 8))
  else none

/-- Major 0x22. -/
def decodeMajor22 (w : BitVec 32) : Option Instr :=
  if fld w 4 2 = 0#2 then some (.ldx (ctlOf w) (fld w 16 5) (fld w 11 5) (fld w 6 5) (fld w 3 1) (fld w 2 1) (fld w 0 2))
  else if fld w 2 1 = 0#1 ∧ fld w 4 2 = 1#2 then some (.stx (ctlOf w) (fld w 16 5) (fld w 11 5) (fld w 6 5) (fld w 3 1) (fld w 0 2))
  else none

/-- Major 0x23. -/
def decodeMajor23 (w : BitVec 32) : Option Instr :=
  if fld w 9 2 = 0#2 then some (.vld (ctlOf w) (fld w 16 5) (fld w 11 5) (fld w 0 9))
  else if fld w 9 2 = 1#2 then some (.vst (ctlOf w) (fld w 16 5) (fld w 11 5) (fld w 0 9))
  else if fld w 9 2 = 2#2 then some (.vldl (ctlOf w) (fld w 16 5) (fld w 11 5) (fld w 0 9))
  else if fld w 9 2 = 3#2 then some (.vldu (ctlOf w) (fld w 16 5) (fld w 11 5) (fld w 0 9))
  else none

/-- Major 0x24. -/
def decodeMajor24 (w : BitVec 32) : Option Instr :=
  if fld w 0 3 = 0#3 then some (.vgth32 (ctlOf w) (fld w 16 5) (fld w 11 5) (fld w 6 5) (fld w 3 3))
  else if fld w 0 3 = 1#3 then some (.vsct32 (ctlOf w) (fld w 16 5) (fld w 11 5) (fld w 6 5) (fld w 3 3))
  else if fld w 0 3 = 2#3 then some (.vgth16 (ctlOf w) (fld w 16 5) (fld w 11 5) (fld w 6 5) (fld w 3 3))
  else if fld w 0 3 = 3#3 then some (.vsct16 (ctlOf w) (fld w 16 5) (fld w 11 5) (fld w 6 5) (fld w 3 3))
  else if fld w 0 3 = 4#3 then some (.vgth8 (ctlOf w) (fld w 16 5) (fld w 11 5) (fld w 6 5) (fld w 3 3))
  else if fld w 0 3 = 5#3 then some (.vsct8 (ctlOf w) (fld w 16 5) (fld w 11 5) (fld w 6 5) (fld w 3 3))
  else if fld w 0 3 = 6#3 ∧ fld w 6 5 = 0#5 then some (.vldm (ctlOf w) (fld w 16 5) (fld w 11 5) (fld w 3 3))
  else if fld w 0 3 = 7#3 ∧ fld w 6 5 = 0#5 then some (.vstm (ctlOf w) (fld w 16 5) (fld w 11 5) (fld w 3 3))
  else none

/-- Major 0x25. -/
def decodeMajor25 (w : BitVec 32) : Option Instr :=
  if fld w 0 6 = 0#6 ∧ fld w 6 5 = 0#5 then some (.ltld (ctlOf w) (fld w 16 5) (fld w 11 5))
  else if fld w 0 6 = 1#6 ∧ fld w 6 5 = 0#5 then some (.ltst (ctlOf w) (fld w 16 5) (fld w 11 5))
  else if fld w 0 6 = 2#6 then some (.ltw (ctlOf w) (fld w 16 5) (fld w 11 5) (fld w 6 5))
  else if fld w 0 6 = 3#6 ∧ fld w 6 5 = 0#5 then some (.ltrl (ctlOf w) (fld w 16 5) (fld w 11 5))
  else if fld w 0 6 = 4#6 ∧ fld w 6 5 = 0#5 then some (.ltrh (ctlOf w) (fld w 16 5) (fld w 11 5))
  else if fld w 0 6 = 5#6 ∧ fld w 6 5 = 0#5 then some (.ltbase (ctlOf w) (fld w 16 5) (fld w 11 5))
  else none

/-- Major 0x26. -/
def decodeMajor26 (w : BitVec 32) : Option Instr :=
  if fld w 0 6 = 0#6 ∧ fld w 16 5 = 0#5 then some (.istw (ctlOf w) (fld w 11 5) (fld w 6 5))
  else if fld w 0 6 = 1#6 ∧ fld w 16 5 = 0#5 then some (.istv (ctlOf w) (fld w 11 5) (fld w 6 5))
  else none

/-- Major 0x28. -/
def decodeMajor28 (w : BitVec 32) : Option Instr :=
  if fld w 0 3 = 0#3 then some (.vadd (ctlOf w) (fld w 16 5) (fld w 11 5) (fld w 6 5) (fld w 3 3))
  else if fld w 0 3 = 1#3 then some (.vsub (ctlOf w) (fld w 16 5) (fld w 11 5) (fld w 6 5) (fld w 3 3))
  else if fld w 0 3 = 2#3 then some (.vmul (ctlOf w) (fld w 16 5) (fld w 11 5) (fld w 6 5) (fld w 3 3))
  else if fld w 0 3 = 3#3 then some (.vfma (ctlOf w) (fld w 16 5) (fld w 11 5) (fld w 6 5) (fld w 3 3))
  else if fld w 0 3 = 4#3 then some (.vfnma (ctlOf w) (fld w 16 5) (fld w 11 5) (fld w 6 5) (fld w 3 3))
  else if fld w 0 3 = 5#3 then some (.vmin (ctlOf w) (fld w 16 5) (fld w 11 5) (fld w 6 5) (fld w 3 3))
  else if fld w 0 3 = 6#3 then some (.vmax (ctlOf w) (fld w 16 5) (fld w 11 5) (fld w 6 5) (fld w 3 3))
  else if fld w 0 3 = 7#3 then some (.vfms (ctlOf w) (fld w 16 5) (fld w 11 5) (fld w 6 5) (fld w 3 3))
  else none

/-- Major 0x29. -/
def decodeMajor29 (w : BitVec 32) : Option Instr :=
  if fld w 0 3 = 0#3 ∧ fld w 6 5 = 0#5 then some (.vrcp (ctlOf w) (fld w 16 5) (fld w 11 5) (fld w 3 3))
  else if fld w 0 3 = 1#3 ∧ fld w 6 5 = 0#5 then some (.vrsq (ctlOf w) (fld w 16 5) (fld w 11 5) (fld w 3 3))
  else if fld w 0 3 = 2#3 ∧ fld w 6 5 = 0#5 then some (.vexp2 (ctlOf w) (fld w 16 5) (fld w 11 5) (fld w 3 3))
  else if fld w 0 3 = 3#3 ∧ fld w 6 5 = 0#5 then some (.vlog2 (ctlOf w) (fld w 16 5) (fld w 11 5) (fld w 3 3))
  else if fld w 0 3 = 4#3 ∧ fld w 6 5 = 0#5 then some (.vsinp (ctlOf w) (fld w 16 5) (fld w 11 5) (fld w 3 3))
  else if fld w 0 3 = 5#3 ∧ fld w 6 5 = 0#5 then some (.vtanh (ctlOf w) (fld w 16 5) (fld w 11 5) (fld w 3 3))
  else if fld w 0 3 = 6#3 then some (.vdiv (ctlOf w) (fld w 16 5) (fld w 11 5) (fld w 6 5) (fld w 3 3))
  else if fld w 0 3 = 7#3 ∧ fld w 6 5 = 0#5 then some (.vsqrt (ctlOf w) (fld w 16 5) (fld w 11 5) (fld w 3 3))
  else none

/-- Major 0x2A. -/
def decodeMajor2A (w : BitVec 32) : Option Instr :=
  if fld w 0 3 = 0#3 then some (.viadd (ctlOf w) (fld w 16 5) (fld w 11 5) (fld w 6 5) (fld w 3 3))
  else if fld w 0 3 = 1#3 then some (.visub (ctlOf w) (fld w 16 5) (fld w 11 5) (fld w 6 5) (fld w 3 3))
  else if fld w 0 3 = 2#3 then some (.vimul (ctlOf w) (fld w 16 5) (fld w 11 5) (fld w 6 5) (fld w 3 3))
  else if fld w 0 3 = 3#3 then some (.vimulh (ctlOf w) (fld w 16 5) (fld w 11 5) (fld w 6 5) (fld w 3 3))
  else if fld w 0 3 = 4#3 then some (.viadds (ctlOf w) (fld w 16 5) (fld w 11 5) (fld w 6 5) (fld w 3 3))
  else if fld w 0 3 = 5#3 then some (.visubs (ctlOf w) (fld w 16 5) (fld w 11 5) (fld w 6 5) (fld w 3 3))
  else if fld w 0 3 = 6#3 then some (.vimin (ctlOf w) (fld w 16 5) (fld w 11 5) (fld w 6 5) (fld w 3 3))
  else if fld w 0 3 = 7#3 then some (.vimax (ctlOf w) (fld w 16 5) (fld w 11 5) (fld w 6 5) (fld w 3 3))
  else none

/-- Major 0x2B. -/
def decodeMajor2B (w : BitVec 32) : Option Instr :=
  if fld w 0 3 = 0#3 then some (.vand (ctlOf w) (fld w 16 5) (fld w 11 5) (fld w 6 5) (fld w 3 3))
  else if fld w 0 3 = 1#3 then some (.vor (ctlOf w) (fld w 16 5) (fld w 11 5) (fld w 6 5) (fld w 3 3))
  else if fld w 0 3 = 2#3 then some (.vxor (ctlOf w) (fld w 16 5) (fld w 11 5) (fld w 6 5) (fld w 3 3))
  else if fld w 0 3 = 3#3 then some (.vandn (ctlOf w) (fld w 16 5) (fld w 11 5) (fld w 6 5) (fld w 3 3))
  else if fld w 0 3 = 4#3 then some (.vsll (ctlOf w) (fld w 16 5) (fld w 11 5) (fld w 6 5) (fld w 3 3))
  else if fld w 0 3 = 5#3 then some (.vsrl (ctlOf w) (fld w 16 5) (fld w 11 5) (fld w 6 5) (fld w 3 3))
  else if fld w 0 3 = 6#3 then some (.vsra (ctlOf w) (fld w 16 5) (fld w 11 5) (fld w 6 5) (fld w 3 3))
  else if fld w 0 3 = 7#3 then some (.vbsl (ctlOf w) (fld w 16 5) (fld w 11 5) (fld w 6 5) (fld w 3 3))
  else none

/-- Major 0x2C. -/
def decodeMajor2C (w : BitVec 32) : Option Instr :=
  if fld w 0 3 = 0#3 ∧ fld w 19 2 = 0#2 then some (.vceq (ctlOf w) (fld w 16 3) (fld w 11 5) (fld w 6 5) (fld w 3 3))
  else if fld w 0 3 = 1#3 ∧ fld w 19 2 = 0#2 then some (.vcne (ctlOf w) (fld w 16 3) (fld w 11 5) (fld w 6 5) (fld w 3 3))
  else if fld w 0 3 = 2#3 ∧ fld w 19 2 = 0#2 then some (.vclt (ctlOf w) (fld w 16 3) (fld w 11 5) (fld w 6 5) (fld w 3 3))
  else if fld w 0 3 = 3#3 ∧ fld w 19 2 = 0#2 then some (.vcle (ctlOf w) (fld w 16 3) (fld w 11 5) (fld w 6 5) (fld w 3 3))
  else if fld w 0 3 = 4#3 ∧ fld w 19 2 = 0#2 then some (.vcun (ctlOf w) (fld w 16 3) (fld w 11 5) (fld w 6 5) (fld w 3 3))
  else if fld w 0 3 = 5#3 ∧ fld w 19 2 = 0#2 then some (.vctst (ctlOf w) (fld w 16 3) (fld w 11 5) (fld w 6 5) (fld w 3 3))
  else none

/-- Major 0x2D. -/
def decodeMajor2D (w : BitVec 32) : Option Instr :=
  if fld w 0 3 = 0#3 then some (.vcvt (ctlOf w) (fld w 16 5) (fld w 11 5) (fld w 6 5) (fld w 3 3))
  else if fld w 0 3 = 1#3 ∧ fld w 6 5 = 0#5 then some (.vrint (ctlOf w) (fld w 16 5) (fld w 11 5) (fld w 3 3))
  else none

/-- Major 0x2E. -/
def decodeMajor2E (w : BitVec 32) : Option Instr :=
  if fld w 0 3 = 0#3 ∧ fld w 6 5 = 0#5 then some (.vmov (ctlOf w) (fld w 16 5) (fld w 11 5) (fld w 3 3))
  else if fld w 0 3 = 1#3 then some (.vsel (ctlOf w) (fld w 16 5) (fld w 11 5) (fld w 6 5) (fld w 3 3))
  else if fld w 0 3 = 2#3 ∧ fld w 6 5 = 0#5 then some (.vabs (ctlOf w) (fld w 16 5) (fld w 11 5) (fld w 3 3))
  else if fld w 0 3 = 3#3 ∧ fld w 6 5 = 0#5 then some (.vneg (ctlOf w) (fld w 16 5) (fld w 11 5) (fld w 3 3))
  else if fld w 0 3 = 4#3 then some (.vcpys (ctlOf w) (fld w 16 5) (fld w 11 5) (fld w 6 5) (fld w 3 3))
  else none

/-- Major 0x2F. -/
def decodeMajor2F (w : BitVec 32) : Option Instr :=
  if fld w 0 3 = 0#3 ∧ fld w 6 5 = 0#5 then some (.vfrsum (ctlOf w) (fld w 16 5) (fld w 11 5) (fld w 3 3))
  else if fld w 0 3 = 1#3 ∧ fld w 6 5 = 0#5 then some (.vfrmax (ctlOf w) (fld w 16 5) (fld w 11 5) (fld w 3 3))
  else if fld w 0 3 = 2#3 ∧ fld w 6 5 = 0#5 then some (.vfrmin (ctlOf w) (fld w 16 5) (fld w 11 5) (fld w 3 3))
  else if fld w 0 3 = 3#3 ∧ fld w 6 5 = 0#5 then some (.vfscan (ctlOf w) (fld w 16 5) (fld w 11 5) (fld w 3 3))
  else if fld w 0 3 = 4#3 ∧ fld w 6 5 = 0#5 then some (.virsum (ctlOf w) (fld w 16 5) (fld w 11 5) (fld w 3 3))
  else if fld w 0 3 = 5#3 ∧ fld w 6 5 = 0#5 then some (.virmax (ctlOf w) (fld w 16 5) (fld w 11 5) (fld w 3 3))
  else if fld w 0 3 = 6#3 ∧ fld w 6 5 = 0#5 then some (.virmin (ctlOf w) (fld w 16 5) (fld w 11 5) (fld w 3 3))
  else if fld w 0 3 = 7#3 ∧ fld w 6 5 = 0#5 then some (.viscan (ctlOf w) (fld w 16 5) (fld w 11 5) (fld w 3 3))
  else none

/-- Major 0x30. -/
def decodeMajor30 (w : BitVec 32) : Option Instr :=
  if fld w 0 3 = 0#3 ∧ fld w 6 5 = 0#5 then some (.vbcst (ctlOf w) (fld w 16 5) (fld w 11 5) (fld w 3 3))
  else if fld w 0 3 = 1#3 ∧ fld w 6 5 = 0#5 then some (.vbcsti (ctlOf w) (fld w 16 5) (fld w 11 5) (fld w 3 3))
  else if fld w 0 3 = 2#3 ∧ fld w 3 3 = 0#3 then some (.vextr (ctlOf w) (fld w 16 5) (fld w 11 5) (fld w 6 5))
  else if fld w 0 3 = 3#3 ∧ fld w 3 3 = 0#3 then some (.vins (ctlOf w) (fld w 16 5) (fld w 11 5) (fld w 6 5))
  else if fld w 0 3 = 4#3 ∧ fld w 6 5 = 0#5 ∧ fld w 11 5 = 0#5 then some (.viota (ctlOf w) (fld w 16 5) (fld w 3 3))
  else none

/-- Major 0x31. -/
def decodeMajor31 (w : BitVec 32) : Option Instr :=
  if fld w 0 3 = 0#3 then some (.vperm (ctlOf w) (fld w 16 5) (fld w 11 5) (fld w 6 5) (fld w 3 3))
  else if fld w 0 3 = 1#3 ∧ fld w 6 5 = 0#5 then some (.vcomp (ctlOf w) (fld w 16 5) (fld w 11 5) (fld w 3 3))
  else if fld w 0 3 = 2#3 ∧ fld w 6 5 = 0#5 then some (.vexpd (ctlOf w) (fld w 16 5) (fld w 11 5) (fld w 3 3))
  else if fld w 0 3 = 3#3 ∧ fld w 6 5 = 0#5 ∧ fld w 11 5 = 0#5 then some (.vcpos (ctlOf w) (fld w 16 5) (fld w 3 3))
  else if fld w 0 3 = 4#3 then some (.vsldn (ctlOf w) (fld w 16 5) (fld w 11 5) (fld w 6 5) (fld w 3 3))
  else if fld w 0 3 = 5#3 then some (.vslup (ctlOf w) (fld w 16 5) (fld w 11 5) (fld w 6 5) (fld w 3 3))
  else none

/-- Major 0x32. -/
def decodeMajor32 (w : BitVec 32) : Option Instr :=
  if fld w 0 6 = 0#6 ∧ fld w 9 2 = 0#2 ∧ fld w 14 2 = 0#2 ∧ fld w 19 2 = 0#2 then some (.mand (ctlOf w) (fld w 16 3) (fld w 11 3) (fld w 6 3))
  else if fld w 0 6 = 1#6 ∧ fld w 9 2 = 0#2 ∧ fld w 14 2 = 0#2 ∧ fld w 19 2 = 0#2 then some (.mor (ctlOf w) (fld w 16 3) (fld w 11 3) (fld w 6 3))
  else if fld w 0 6 = 2#6 ∧ fld w 9 2 = 0#2 ∧ fld w 14 2 = 0#2 ∧ fld w 19 2 = 0#2 then some (.mxor (ctlOf w) (fld w 16 3) (fld w 11 3) (fld w 6 3))
  else if fld w 0 6 = 3#6 ∧ fld w 9 2 = 0#2 ∧ fld w 14 2 = 0#2 ∧ fld w 19 2 = 0#2 then some (.mandn (ctlOf w) (fld w 16 3) (fld w 11 3) (fld w 6 3))
  else if fld w 0 6 = 4#6 ∧ fld w 6 3 = 0#3 ∧ fld w 9 2 = 0#2 ∧ fld w 19 2 = 0#2 then some (.mfromx (ctlOf w) (fld w 16 3) (fld w 11 5))
  else if fld w 0 6 = 5#6 ∧ fld w 6 3 = 0#3 ∧ fld w 9 2 = 0#2 ∧ fld w 14 2 = 0#2 then some (.mtox (ctlOf w) (fld w 16 5) (fld w 11 3))
  else if fld w 0 6 = 6#6 ∧ fld w 6 3 = 0#3 ∧ fld w 9 2 = 0#2 ∧ fld w 14 2 = 0#2 then some (.mpopc (ctlOf w) (fld w 16 5) (fld w 11 3))
  else if fld w 0 6 = 7#6 ∧ fld w 6 3 = 0#3 ∧ fld w 9 2 = 0#2 ∧ fld w 14 2 = 0#2 then some (.mffs (ctlOf w) (fld w 16 5) (fld w 11 3))
  else none

/-- Major 0x34. -/
def decodeMajor34 (w : BitVec 32) : Option Instr :=
  if fld w 0 2 = 0#2 ∧ fld w 2 1 = 0#1 ∧ fld w 3 1 = 0#1 ∧ fld w 4 5 = 0#5 ∧ fld w 9 2 = 0#2 ∧ fld w 18 3 = 0#3 then some (.mzero (ctlOf w) (fld w 17 1) (fld w 11 6))
  else if fld w 0 2 = 0#2 ∧ fld w 18 3 = 1#3 then some (.mpush (ctlOf w) (fld w 17 1) (fld w 11 6) (fld w 9 2) (fld w 4 5) (fld w 3 1) (fld w 2 1))
  else if fld w 0 2 = 0#2 ∧ fld w 18 3 = 2#3 then some (.macc (ctlOf w) (fld w 17 1) (fld w 11 6) (fld w 9 2) (fld w 4 5) (fld w 3 1) (fld w 2 1))
  else if fld w 0 2 = 0#2 ∧ fld w 11 4 = 0#4 ∧ fld w 15 2 = 0#2 ∧ fld w 17 1 = 0#1 ∧ fld w 18 3 = 3#3 then some (.mshift (ctlOf w) (fld w 9 2) (fld w 4 5) (fld w 3 1) (fld w 2 1))
  else if fld w 0 2 = 0#2 ∧ fld w 17 1 = 0#1 ∧ fld w 18 3 = 4#3 then some (.mlatch (ctlOf w) (fld w 11 6) (fld w 9 2) (fld w 4 5) (fld w 3 1) (fld w 2 1))
  else if fld w 0 2 = 0#2 ∧ fld w 15 2 = 0#2 ∧ fld w 17 1 = 0#1 ∧ fld w 18 3 = 5#3 then some (.mlside (ctlOf w) (fld w 11 4) (fld w 9 2) (fld w 4 5) (fld w 3 1) (fld w 2 1))
  else none

/-- Major 0x35. -/
def decodeMajor35 (w : BitVec 32) : Option Instr :=
  if fld w 0 1 = 0#1 then some (.mdrain (ctlOf w) (fld w 20 1) (fld w 14 6) (fld w 9 5) (fld w 8 1) (fld w 7 1) (fld w 6 1) (fld w 2 4) (fld w 1 1))
  else none

/-- Major 0x36. -/
def decodeMajor36 (w : BitVec 32) : Option Instr :=
  if fld w 0 11 = 0#11 ∧ fld w 16 5 = 0#5 then some (.msclrA (ctlOf w) (fld w 11 5))
  else if fld w 0 11 = 1#11 ∧ fld w 16 5 = 0#5 then some (.msclrB (ctlOf w) (fld w 11 5))
  else if fld w 0 11 = 2#11 then some (.mrds (ctlOf w) (fld w 16 5) (fld w 11 5))
  else none

/-- Major 0x38. -/
def decodeMajor38 (w : BitVec 32) : Option Instr :=
  if fld w 0 1 = 0#1 then some (.send (ctlOf w) (fld w 16 5) (fld w 11 5) (fld w 6 5) (fld w 1 5))
  else if fld w 0 1 = 1#1 then some (.sendR (ctlOf w) (fld w 16 5) (fld w 11 5) (fld w 6 5) (fld w 1 5))
  else none

/-- Major 0x39. -/
def decodeMajor39 (w : BitVec 32) : Option Instr :=
  if fld w 0 1 = 0#1 ∧ fld w 6 5 = 0#5 then some (.recv (ctlOf w) (fld w 16 5) (fld w 11 5) (fld w 1 5))
  else none

/-- Major 0x3A. -/
def decodeMajor3A (w : BitVec 32) : Option Instr :=
  if fld w 0 6 = 0#6 ∧ fld w 6 5 = 0#5 then some (.testt (ctlOf w) (fld w 16 5) (fld w 11 5))
  else if fld w 0 6 = 1#6 ∧ fld w 6 5 = 0#5 then some (.probe (ctlOf w) (fld w 16 5) (fld w 11 5))
  else if fld w 0 6 = 2#6 ∧ fld w 6 5 = 0#5 ∧ fld w 16 5 = 0#5 then some (.cancel (ctlOf w) (fld w 11 5))
  else if fld w 0 6 = 3#6 ∧ fld w 6 5 = 0#5 then some (.waitany (ctlOf w) (fld w 16 5) (fld w 11 5))
  else if fld w 0 6 = 4#6 then some (.envr (ctlOf w) (fld w 16 5) (fld w 11 5) (fld w 6 5))
  else none

/-- Major 0x3B. -/
def decodeMajor3B (w : BitVec 32) : Option Instr :=
  if fld w 3 3 = 0#3 ∧ fld w 6 5 = 0#5 then some (.qget (ctlOf w) (fld w 16 5) (fld w 11 5) (fld w 0 3))
  else if fld w 3 3 = 1#3 ∧ fld w 6 5 = 0#5 then some (.qput (ctlOf w) (fld w 16 5) (fld w 11 5) (fld w 0 3))
  else if fld w 3 3 = 2#3 then some (.qgett (ctlOf w) (fld w 16 5) (fld w 11 5) (fld w 6 5) (fld w 0 3))
  else if fld w 3 3 = 3#3 then some (.qputt (ctlOf w) (fld w 16 5) (fld w 11 5) (fld w 6 5) (fld w 0 3))
  else if fld w 3 3 = 4#3 then some (.qatom (ctlOf w) (fld w 16 5) (fld w 11 5) (fld w 6 5) (fld w 0 3))
  else if fld w 3 3 = 5#3 ∧ fld w 6 5 = 0#5 then some (.qgath (ctlOf w) (fld w 16 5) (fld w 11 5) (fld w 0 3))
  else if fld w 3 3 = 6#3 ∧ fld w 6 5 = 0#5 then some (.qscat (ctlOf w) (fld w 16 5) (fld w 11 5) (fld w 0 3))
  else if fld w 0 3 = 0#3 ∧ fld w 3 3 = 7#3 then some (.qfill (ctlOf w) (fld w 16 5) (fld w 11 5) (fld w 6 5))
  else if fld w 0 3 = 1#3 ∧ fld w 3 3 = 7#3 then some (.qcopy (ctlOf w) (fld w 16 5) (fld w 11 5) (fld w 6 5))
  else if fld w 0 3 = 2#3 ∧ fld w 3 3 = 7#3 ∧ fld w 6 5 = 0#5 ∧ fld w 11 5 = 0#5 then some (.fenceQ (ctlOf w) (fld w 16 5))
  else none

/-- Major 0x3C. -/
def decodeMajor3C (w : BitVec 32) : Option Instr :=
  if fld w 0 3 = 0#3 ∧ fld w 3 3 = 0#3 ∧ fld w 6 5 = 0#5 then some (.spawn (ctlOf w) (fld w 16 5) (fld w 11 5))
  else if fld w 0 3 = 1#3 ∧ fld w 3 3 = 0#3 ∧ fld w 6 5 = 0#5 then some (.spawnr (ctlOf w) (fld w 16 5) (fld w 11 5))
  else if fld w 0 3 = 2#3 ∧ fld w 3 3 = 0#3 ∧ fld w 6 5 = 0#5 then some (.pop (ctlOf w) (fld w 16 5) (fld w 11 5))
  else if fld w 0 3 = 3#3 ∧ fld w 3 3 = 0#3 ∧ fld w 6 5 = 0#5 then some (.steal (ctlOf w) (fld w 16 5) (fld w 11 5))
  else if fld w 0 3 = 4#3 ∧ fld w 3 3 = 0#3 ∧ fld w 6 5 = 0#5 then some (.stealX (ctlOf w) (fld w 16 5) (fld w 11 5))
  else if fld w 0 3 = 5#3 ∧ fld w 3 3 = 0#3 ∧ fld w 6 5 = 0#5 ∧ fld w 11 5 = 0#5 then some (.dqst (ctlOf w) (fld w 16 5))
  else if fld w 3 3 = 1#3 ∧ fld w 6 5 = 0#5 then some (.widf (ctlOf w) (fld w 16 5) (fld w 11 5) (fld w 0 3))
  else if fld w 3 3 = 2#3 then some (.wids (ctlOf w) (fld w 16 5) (fld w 11 5) (fld w 6 5) (fld w 0 3))
  else none

/-- Major 0x3D. -/
def decodeMajor3D (w : BitVec 32) : Option Instr :=
  if fld w 3 3 = 0#3 then some (.sendt (ctlOf w) (fld w 16 5) (fld w 11 5) (fld w 6 5) (fld w 0 3))
  else if fld w 3 3 = 1#3 ∧ fld w 6 5 = 0#5 then some (.msend (ctlOf w) (fld w 16 5) (fld w 11 5) (fld w 0 3))
  else if fld w 2 1 = 0#1 ∧ fld w 3 3 = 2#3 ∧ fld w 6 5 = 0#5 then some (.halo (ctlOf w) (fld w 16 5) (fld w 11 5) (fld w 0 2))
  else if fld w 2 1 = 0#1 ∧ fld w 3 3 = 3#3 ∧ fld w 6 5 = 0#5 ∧ fld w 16 5 = 0#5 then some (.waitmb (ctlOf w) (fld w 11 5) (fld w 0 2))
  else if fld w 0 2 = 0#2 ∧ fld w 2 1 = 0#1 ∧ fld w 3 3 = 4#3 ∧ fld w 6 5 = 0#5 then some (.fencex (ctlOf w) (fld w 16 5) (fld w 11 5))
  else if fld w 0 2 = 0#2 ∧ fld w 2 1 = 0#1 ∧ fld w 3 3 = 5#3 ∧ fld w 16 5 = 0#5 then some (.mgset (ctlOf w) (fld w 11 5) (fld w 6 5))
  else if fld w 0 2 = 0#2 ∧ fld w 2 1 = 0#1 ∧ fld w 3 3 = 6#3 ∧ fld w 6 5 = 0#5 then some (.fstat (ctlOf w) (fld w 16 5) (fld w 11 5))
  else none

/-- Major 0x3E. -/
def decodeMajor3E (w : BitVec 32) : Option Instr :=
  if fld w 3 3 = 0#3 ∧ fld w 6 5 = 0#5 then some (.erecv (ctlOf w) (fld w 16 5) (fld w 11 5) (fld w 0 3))
  else if fld w 3 3 = 1#3 ∧ fld w 6 5 = 0#5 then some (.erecvNs (ctlOf w) (fld w 16 5) (fld w 11 5) (fld w 0 3))
  else if fld w 0 3 = 0#3 ∧ fld w 3 3 = 2#3 then some (.deferH (ctlOf w) (fld w 16 5) (fld w 11 5) (fld w 6 5))
  else if fld w 0 3 = 1#3 ∧ fld w 3 3 = 2#3 ∧ fld w 6 5 = 0#5 then some (.deferT (ctlOf w) (fld w 16 5) (fld w 11 5))
  else if fld w 0 3 = 0#3 ∧ fld w 3 3 = 3#3 ∧ fld w 6 5 = 0#5 ∧ fld w 16 5 = 0#5 then some (.vtadv (ctlOf w) (fld w 11 5))
  else if fld w 0 3 = 0#3 ∧ fld w 3 3 = 4#3 ∧ fld w 6 5 = 0#5 then some (.savem (ctlOf w) (fld w 16 5) (fld w 11 5))
  else if fld w 0 3 = 0#3 ∧ fld w 3 3 = 5#3 ∧ fld w 6 5 = 0#5 then some (.gvtw (ctlOf w) (fld w 16 5) (fld w 11 5))
  else none

/-- Major 0x3F. -/
def decodeMajor3F (w : BitVec 32) : Option Instr :=
  if fld w 0 11 = 0#11 then some (.bench (ctlOf w) (fld w 16 5) (fld w 11 5))
  else if fld w 0 11 = 1#11 then some (.bstat (ctlOf w) (fld w 16 5) (fld w 11 5))
  else if fld w 0 11 = 2#11 then some (.bwait (ctlOf w) (fld w 16 5) (fld w 11 5))
  else if fld w 0 11 = 3#11 ∧ fld w 16 5 = 0#5 then some (.bdrop (ctlOf w) (fld w 11 5))
  else none

/-- The instruction of a slot word, by its major opcode (R33); a word with GN = 1 and GI = 0 is a no-operation (R26). -/
def decodeWord (w : BitVec 32) : Except Reject Instr :=
  if w.getLsbD 24 ∧ fld w 21 3 = 0#3 then .ok (.nop (ctlOf w) (fld w 25 6) (fld w 0 21))
  else
    let r : Option (Option Instr) := match (fld w 25 6).toNat with
      | 0x00 => some (decodeMajor00 w)
      | 0x01 => some (decodeMajor01 w)
      | 0x02 => some (decodeMajor02 w)
      | 0x03 => some (decodeMajor03 w)
      | 0x04 => some (decodeMajor04 w)
      | 0x05 => some (decodeMajor05 w)
      | 0x06 => some (decodeMajor06 w)
      | 0x07 => some (decodeMajor07 w)
      | 0x08 => some (decodeMajor08 w)
      | 0x09 => some (decodeMajor09 w)
      | 0x0A => some (decodeMajor0A w)
      | 0x0B => some (decodeMajor0B w)
      | 0x0C => some (decodeMajor0C w)
      | 0x0D => some (decodeMajor0D w)
      | 0x0E => some (decodeMajor0E w)
      | 0x0F => some (decodeMajor0F w)
      | 0x10 => some (decodeMajor10 w)
      | 0x11 => some (decodeMajor11 w)
      | 0x12 => some (decodeMajor12 w)
      | 0x13 => some (decodeMajor13 w)
      | 0x14 => some (decodeMajor14 w)
      | 0x15 => some (decodeMajor15 w)
      | 0x16 => some (decodeMajor16 w)
      | 0x17 => some (decodeMajor17 w)
      | 0x18 => some (decodeMajor18 w)
      | 0x19 => some (decodeMajor19 w)
      | 0x1A => some (decodeMajor1A w)
      | 0x1B => some (decodeMajor1B w)
      | 0x1C => some (decodeMajor1C w)
      | 0x1D => some (decodeMajor1D w)
      | 0x20 => some (decodeMajor20 w)
      | 0x21 => some (decodeMajor21 w)
      | 0x22 => some (decodeMajor22 w)
      | 0x23 => some (decodeMajor23 w)
      | 0x24 => some (decodeMajor24 w)
      | 0x25 => some (decodeMajor25 w)
      | 0x26 => some (decodeMajor26 w)
      | 0x28 => some (decodeMajor28 w)
      | 0x29 => some (decodeMajor29 w)
      | 0x2A => some (decodeMajor2A w)
      | 0x2B => some (decodeMajor2B w)
      | 0x2C => some (decodeMajor2C w)
      | 0x2D => some (decodeMajor2D w)
      | 0x2E => some (decodeMajor2E w)
      | 0x2F => some (decodeMajor2F w)
      | 0x30 => some (decodeMajor30 w)
      | 0x31 => some (decodeMajor31 w)
      | 0x32 => some (decodeMajor32 w)
      | 0x34 => some (decodeMajor34 w)
      | 0x35 => some (decodeMajor35 w)
      | 0x36 => some (decodeMajor36 w)
      | 0x38 => some (decodeMajor38 w)
      | 0x39 => some (decodeMajor39 w)
      | 0x3A => some (decodeMajor3A w)
      | 0x3B => some (decodeMajor3B w)
      | 0x3C => some (decodeMajor3C w)
      | 0x3D => some (decodeMajor3D w)
      | 0x3E => some (decodeMajor3E w)
      | 0x3F => some (decodeMajor3F w)
      | _ => none
    match r with
    | none => .error .reservedMajor
    | some none => .error .unassigned
    | some (some i) => if i.wf then .ok i else .error .illFormed

/-- The word of four bytes, the first least significant (R3). -/
def wordOfBytes (a b c d : Byte) : BitVec 32 := d ++ c ++ b ++ a

/-- The four bytes of a word, the least significant first (R3). -/
def bytesOfWord (w : BitVec 32) : List Byte := [fld w 0 8, fld w 8 8, fld w 16 8, fld w 24 8]

/-- The decoder: the first four bytes are a slot word. -/
def decode : List Byte → Except Reject Instr
  | a :: b :: c :: d :: _ => decodeWord (wordOfBytes a b c d)
  | _ => .error .short

/-- The guard and stop bits above the body. -/
def ctlBits (c : Ctl) (op : BitVec 6) (body : BitVec 21) : BitVec 32 :=
  BitVec.ofBool c.stop ++ op ++ BitVec.ofBool c.gn ++ c.gi ++ body

/-- The slot word of an instruction (R24, R31); `none` for a step that has no encoding. -/
def encode : Instr → Option (BitVec 32)
  | .nop c o z => some (ctlBits c o z)
  | .add c_ d a b => some (ctlBits c_ 0#6 (d ++ a ++ b ++ 0#6))
  | .sub c_ d a b => some (ctlBits c_ 0#6 (d ++ a ++ b ++ 1#6))
  | .and c_ d a b => some (ctlBits c_ 0#6 (d ++ a ++ b ++ 2#6))
  | .or c_ d a b => some (ctlBits c_ 0#6 (d ++ a ++ b ++ 3#6))
  | .xor c_ d a b => some (ctlBits c_ 0#6 (d ++ a ++ b ++ 4#6))
  | .andn c_ d a b => some (ctlBits c_ 0#6 (d ++ a ++ b ++ 5#6))
  | .orn c_ d a b => some (ctlBits c_ 0#6 (d ++ a ++ b ++ 6#6))
  | .xnor c_ d a b => some (ctlBits c_ 0#6 (d ++ a ++ b ++ 7#6))
  | .sll c_ d a b => some (ctlBits c_ 0#6 (d ++ a ++ b ++ 8#6))
  | .srl c_ d a b => some (ctlBits c_ 0#6 (d ++ a ++ b ++ 9#6))
  | .sra c_ d a b => some (ctlBits c_ 0#6 (d ++ a ++ b ++ 10#6))
  | .ror c_ d a b => some (ctlBits c_ 0#6 (d ++ a ++ b ++ 11#6))
  | .rol c_ d a b => some (ctlBits c_ 0#6 (d ++ a ++ b ++ 12#6))
  | .slt c_ d a b => some (ctlBits c_ 0#6 (d ++ a ++ b ++ 13#6))
  | .sltu c_ d a b => some (ctlBits c_ 0#6 (d ++ a ++ b ++ 14#6))
  | .min c_ d a b => some (ctlBits c_ 0#6 (d ++ a ++ b ++ 15#6))
  | .max c_ d a b => some (ctlBits c_ 0#6 (d ++ a ++ b ++ 16#6))
  | .minu c_ d a b => some (ctlBits c_ 0#6 (d ++ a ++ b ++ 17#6))
  | .maxu c_ d a b => some (ctlBits c_ 0#6 (d ++ a ++ b ++ 18#6))
  | .addw c_ d a b => some (ctlBits c_ 0#6 (d ++ a ++ b ++ 19#6))
  | .subw c_ d a b => some (ctlBits c_ 0#6 (d ++ a ++ b ++ 20#6))
  | .sllw c_ d a b => some (ctlBits c_ 0#6 (d ++ a ++ b ++ 21#6))
  | .srlw c_ d a b => some (ctlBits c_ 0#6 (d ++ a ++ b ++ 22#6))
  | .sraw c_ d a b => some (ctlBits c_ 0#6 (d ++ a ++ b ++ 23#6))
  | .mul c_ d a b => some (ctlBits c_ 1#6 (d ++ a ++ b ++ 0#6))
  | .mulh c_ d a b => some (ctlBits c_ 1#6 (d ++ a ++ b ++ 1#6))
  | .mulhu c_ d a b => some (ctlBits c_ 1#6 (d ++ a ++ b ++ 2#6))
  | .mulhsu c_ d a b => some (ctlBits c_ 1#6 (d ++ a ++ b ++ 3#6))
  | .mulw c_ d a b => some (ctlBits c_ 1#6 (d ++ a ++ b ++ 4#6))
  | .div c_ d a b => some (ctlBits c_ 1#6 (d ++ a ++ b ++ 8#6))
  | .divu c_ d a b => some (ctlBits c_ 1#6 (d ++ a ++ b ++ 9#6))
  | .rem c_ d a b => some (ctlBits c_ 1#6 (d ++ a ++ b ++ 10#6))
  | .remu c_ d a b => some (ctlBits c_ 1#6 (d ++ a ++ b ++ 11#6))
  | .divw c_ d a b => some (ctlBits c_ 1#6 (d ++ a ++ b ++ 12#6))
  | .divuw c_ d a b => some (ctlBits c_ 1#6 (d ++ a ++ b ++ 13#6))
  | .remw c_ d a b => some (ctlBits c_ 1#6 (d ++ a ++ b ++ 14#6))
  | .remuw c_ d a b => some (ctlBits c_ 1#6 (d ++ a ++ b ++ 15#6))
  | .clz c_ d a => some (ctlBits c_ 2#6 (d ++ a ++ 0#11))
  | .ctz c_ d a => some (ctlBits c_ 2#6 (d ++ a ++ 1#11))
  | .popc c_ d a => some (ctlBits c_ 2#6 (d ++ a ++ 2#11))
  | .brev c_ d a => some (ctlBits c_ 2#6 (d ++ a ++ 3#11))
  | .bswap c_ d a => some (ctlBits c_ 2#6 (d ++ a ++ 4#11))
  | .sextb c_ d a => some (ctlBits c_ 2#6 (d ++ a ++ 5#11))
  | .sexth c_ d a => some (ctlBits c_ 2#6 (d ++ a ++ 6#11))
  | .zextb c_ d a => some (ctlBits c_ 2#6 (d ++ a ++ 8#11))
  | .zexth c_ d a => some (ctlBits c_ 2#6 (d ++ a ++ 9#11))
  | .zextw c_ d a => some (ctlBits c_ 2#6 (d ++ a ++ 10#11))
  | .clzw c_ d a => some (ctlBits c_ 2#6 (d ++ a ++ 11#11))
  | .bext c_ d a b => some (ctlBits c_ 2#6 (d ++ a ++ b ++ 16#6))
  | .bset c_ d a b => some (ctlBits c_ 2#6 (d ++ a ++ b ++ 17#6))
  | .bclr c_ d a b => some (ctlBits c_ 2#6 (d ++ a ++ b ++ 18#6))
  | .binv c_ d a b => some (ctlBits c_ 2#6 (d ++ a ++ b ++ 19#6))
  | .bfxu c_ d a b => some (ctlBits c_ 2#6 (d ++ a ++ b ++ 20#6))
  | .bfxs c_ d a b => some (ctlBits c_ 2#6 (d ++ a ++ b ++ 21#6))
  | .addi c_ d a k => some (ctlBits c_ 3#6 (d ++ a ++ k))
  | .andi c_ d a k => some (ctlBits c_ 4#6 (d ++ a ++ k))
  | .ori c_ d a k => some (ctlBits c_ 5#6 (d ++ a ++ k))
  | .xori c_ d a k => some (ctlBits c_ 6#6 (d ++ a ++ k))
  | .slli c_ d a h => some (ctlBits c_ 7#6 (d ++ a ++ 0#5 ++ h))
  | .srli c_ d a h => some (ctlBits c_ 7#6 (d ++ a ++ 4#5 ++ h))
  | .srai c_ d a h => some (ctlBits c_ 7#6 (d ++ a ++ 8#5 ++ h))
  | .rori c_ d a h => some (ctlBits c_ 7#6 (d ++ a ++ 12#5 ++ h))
  | .slliw c_ d a h => some (ctlBits c_ 7#6 (d ++ a ++ 32#6 ++ h))
  | .srliw c_ d a h => some (ctlBits c_ 7#6 (d ++ a ++ 40#6 ++ h))
  | .sraiw c_ d a h => some (ctlBits c_ 7#6 (d ++ a ++ 48#6 ++ h))
  | .ldi c_ d k => some (ctlBits c_ 8#6 (d ++ k))
  | .ldh1 c_ d k => some (ctlBits c_ 9#6 (d ++ k))
  | .ldh2 c_ d k => some (ctlBits c_ 10#6 (d ++ k))
  | .ldh3 c_ d k => some (ctlBits c_ 11#6 (d ++ k))
  | .sel c_ d a b p => some (ctlBits c_ 12#6 (d ++ a ++ b ++ p))
  | .addsc c_ d a b h => some (ctlBits c_ 13#6 (d ++ a ++ b ++ 0#3 ++ h))
  | .ladd c_ d a b h => some (ctlBits c_ 13#6 (d ++ a ++ b ++ 1#3 ++ h))
  | .chku c_ a b => some (ctlBits c_ 13#6 (0#5 ++ a ++ b ++ 16#6))
  | .rdw c_ d c => some (ctlBits c_ 14#6 (d ++ 0#4 ++ c))
  | .wrw c_ d c => some (ctlBits c_ 15#6 (d ++ 0#4 ++ c))
  | .br c_ k => some (ctlBits c_ 16#6 k)
  | .call c_ k => some (ctlBits c_ 17#6 k)
  | .jr c_ a => some (ctlBits c_ 18#6 (0#5 ++ a ++ 0#11))
  | .jalr c_ d a => some (ctlBits c_ 18#6 (d ++ a ++ 1#11))
  | .loop c_ c k => some (ctlBits c_ 19#6 (c ++ k))
  | .cmp c_ q a b c => some (ctlBits c_ 20#6 (q ++ a ++ b ++ 0#1 ++ c))
  | .cmpi c_ q a c k => some (ctlBits c_ 21#6 (q ++ a ++ c ++ k))
  | .pand c_ q a b => some (ctlBits c_ 22#6 (q ++ a ++ b))
  | .por c_ q a b => some (ctlBits c_ 23#6 (q ++ a ++ b))
  | .pxor c_ q a b => some (ctlBits c_ 24#6 (q ++ a ++ b))
  | .pandn c_ q a b => some (ctlBits c_ 25#6 (q ++ a ++ b))
  | .prdg c_ d a => some (ctlBits c_ 26#6 (d ++ 0#4 ++ a ++ 0#11))
  | .pwrg c_ a b => some (ctlBits c_ 26#6 (0#9 ++ a ++ b ++ 1#6))
  | .trap c_ a => some (ctlBits c_ 27#6 (0#5 ++ a ++ 0#11))
  | .rfe c_ => some (ctlBits c_ 27#6 1#21)
  | .brk c_ => some (ctlBits c_ 27#6 2#21)
  | .idle c_ a => some (ctlBits c_ 27#6 (0#5 ++ a ++ 3#11))
  | .ifence c_ => some (ctlBits c_ 27#6 4#21)
  | .maskp c_ => some (ctlBits c_ 27#6 5#21)
  | .unmaskp c_ => some (ctlBits c_ 27#6 6#21)
  | .savelt c_ a => some (ctlBits c_ 27#6 (0#5 ++ a ++ 7#11))
  | .rstlt c_ a => some (ctlBits c_ 27#6 (0#5 ++ a ++ 8#11))
  | .sync c_ => some (ctlBits c_ 27#6 16#21)
  | .lpop c_ => some (ctlBits c_ 27#6 17#21)
  | .yield c_ => some (ctlBits c_ 27#6 24#21)
  | .suspend c_ a => some (ctlBits c_ 27#6 (0#5 ++ a ++ 25#11))
  | .exit c_ => some (ctlBits c_ 27#6 26#21)
  | .sig c_ k => some (ctlBits c_ 28#6 (0#5 ++ k))
  | .pfxM c_ a b e p => some (ctlBits c_ 29#6 (a ++ b ++ e ++ p ++ 0#10))
  | .pfxV c_ a b e p => some (ctlBits c_ 29#6 (a ++ b ++ e ++ p ++ 512#10))
  | .ld c_ d a w x k => some (ctlBits c_ 32#6 (d ++ a ++ w ++ x ++ k))
  | .st c_ d a w k => some (ctlBits c_ 33#6 (d ++ a ++ w ++ 0#1 ++ k))
  | .ldx c_ d a b c x w => some (ctlBits c_ 34#6 (d ++ a ++ b ++ 0#2 ++ c ++ x ++ w))
  | .stx c_ d a b c w => some (ctlBits c_ 34#6 (d ++ a ++ b ++ 1#2 ++ c ++ 0#1 ++ w))
  | .vld c_ d a k => some (ctlBits c_ 35#6 (d ++ a ++ 0#2 ++ k))
  | .vst c_ d a k => some (ctlBits c_ 35#6 (d ++ a ++ 1#2 ++ k))
  | .vldl c_ d a k => some (ctlBits c_ 35#6 (d ++ a ++ 2#2 ++ k))
  | .vldu c_ d a k => some (ctlBits c_ 35#6 (d ++ a ++ 3#2 ++ k))
  | .vgth32 c_ d a b m => some (ctlBits c_ 36#6 (d ++ a ++ b ++ m ++ 0#3))
  | .vsct32 c_ d a b m => some (ctlBits c_ 36#6 (d ++ a ++ b ++ m ++ 1#3))
  | .vgth16 c_ d a b m => some (ctlBits c_ 36#6 (d ++ a ++ b ++ m ++ 2#3))
  | .vsct16 c_ d a b m => some (ctlBits c_ 36#6 (d ++ a ++ b ++ m ++ 3#3))
  | .vgth8 c_ d a b m => some (ctlBits c_ 36#6 (d ++ a ++ b ++ m ++ 4#3))
  | .vsct8 c_ d a b m => some (ctlBits c_ 36#6 (d ++ a ++ b ++ m ++ 5#3))
  | .vldm c_ d a m => some (ctlBits c_ 36#6 (d ++ a ++ 0#5 ++ m ++ 6#3))
  | .vstm c_ d a m => some (ctlBits c_ 36#6 (d ++ a ++ 0#5 ++ m ++ 7#3))
  | .ltld c_ d a => some (ctlBits c_ 37#6 (d ++ a ++ 0#11))
  | .ltst c_ d a => some (ctlBits c_ 37#6 (d ++ a ++ 1#11))
  | .ltw c_ d a b => some (ctlBits c_ 37#6 (d ++ a ++ b ++ 2#6))
  | .ltrl c_ d a => some (ctlBits c_ 37#6 (d ++ a ++ 3#11))
  | .ltrh c_ d a => some (ctlBits c_ 37#6 (d ++ a ++ 4#11))
  | .ltbase c_ d a => some (ctlBits c_ 37#6 (d ++ a ++ 5#11))
  | .istw c_ a b => some (ctlBits c_ 38#6 (0#5 ++ a ++ b ++ 0#6))
  | .istv c_ a b => some (ctlBits c_ 38#6 (0#5 ++ a ++ b ++ 1#6))
  | .vadd c_ d a b m => some (ctlBits c_ 40#6 (d ++ a ++ b ++ m ++ 0#3))
  | .vsub c_ d a b m => some (ctlBits c_ 40#6 (d ++ a ++ b ++ m ++ 1#3))
  | .vmul c_ d a b m => some (ctlBits c_ 40#6 (d ++ a ++ b ++ m ++ 2#3))
  | .vfma c_ d a b m => some (ctlBits c_ 40#6 (d ++ a ++ b ++ m ++ 3#3))
  | .vfnma c_ d a b m => some (ctlBits c_ 40#6 (d ++ a ++ b ++ m ++ 4#3))
  | .vmin c_ d a b m => some (ctlBits c_ 40#6 (d ++ a ++ b ++ m ++ 5#3))
  | .vmax c_ d a b m => some (ctlBits c_ 40#6 (d ++ a ++ b ++ m ++ 6#3))
  | .vfms c_ d a b m => some (ctlBits c_ 40#6 (d ++ a ++ b ++ m ++ 7#3))
  | .vrcp c_ d a m => some (ctlBits c_ 41#6 (d ++ a ++ 0#5 ++ m ++ 0#3))
  | .vrsq c_ d a m => some (ctlBits c_ 41#6 (d ++ a ++ 0#5 ++ m ++ 1#3))
  | .vexp2 c_ d a m => some (ctlBits c_ 41#6 (d ++ a ++ 0#5 ++ m ++ 2#3))
  | .vlog2 c_ d a m => some (ctlBits c_ 41#6 (d ++ a ++ 0#5 ++ m ++ 3#3))
  | .vsinp c_ d a m => some (ctlBits c_ 41#6 (d ++ a ++ 0#5 ++ m ++ 4#3))
  | .vtanh c_ d a m => some (ctlBits c_ 41#6 (d ++ a ++ 0#5 ++ m ++ 5#3))
  | .vdiv c_ d a b m => some (ctlBits c_ 41#6 (d ++ a ++ b ++ m ++ 6#3))
  | .vsqrt c_ d a m => some (ctlBits c_ 41#6 (d ++ a ++ 0#5 ++ m ++ 7#3))
  | .viadd c_ d a b m => some (ctlBits c_ 42#6 (d ++ a ++ b ++ m ++ 0#3))
  | .visub c_ d a b m => some (ctlBits c_ 42#6 (d ++ a ++ b ++ m ++ 1#3))
  | .vimul c_ d a b m => some (ctlBits c_ 42#6 (d ++ a ++ b ++ m ++ 2#3))
  | .vimulh c_ d a b m => some (ctlBits c_ 42#6 (d ++ a ++ b ++ m ++ 3#3))
  | .viadds c_ d a b m => some (ctlBits c_ 42#6 (d ++ a ++ b ++ m ++ 4#3))
  | .visubs c_ d a b m => some (ctlBits c_ 42#6 (d ++ a ++ b ++ m ++ 5#3))
  | .vimin c_ d a b m => some (ctlBits c_ 42#6 (d ++ a ++ b ++ m ++ 6#3))
  | .vimax c_ d a b m => some (ctlBits c_ 42#6 (d ++ a ++ b ++ m ++ 7#3))
  | .vand c_ d a b m => some (ctlBits c_ 43#6 (d ++ a ++ b ++ m ++ 0#3))
  | .vor c_ d a b m => some (ctlBits c_ 43#6 (d ++ a ++ b ++ m ++ 1#3))
  | .vxor c_ d a b m => some (ctlBits c_ 43#6 (d ++ a ++ b ++ m ++ 2#3))
  | .vandn c_ d a b m => some (ctlBits c_ 43#6 (d ++ a ++ b ++ m ++ 3#3))
  | .vsll c_ d a b m => some (ctlBits c_ 43#6 (d ++ a ++ b ++ m ++ 4#3))
  | .vsrl c_ d a b m => some (ctlBits c_ 43#6 (d ++ a ++ b ++ m ++ 5#3))
  | .vsra c_ d a b m => some (ctlBits c_ 43#6 (d ++ a ++ b ++ m ++ 6#3))
  | .vbsl c_ d a b m => some (ctlBits c_ 43#6 (d ++ a ++ b ++ m ++ 7#3))
  | .vceq c_ d a b m => some (ctlBits c_ 44#6 (0#2 ++ d ++ a ++ b ++ m ++ 0#3))
  | .vcne c_ d a b m => some (ctlBits c_ 44#6 (0#2 ++ d ++ a ++ b ++ m ++ 1#3))
  | .vclt c_ d a b m => some (ctlBits c_ 44#6 (0#2 ++ d ++ a ++ b ++ m ++ 2#3))
  | .vcle c_ d a b m => some (ctlBits c_ 44#6 (0#2 ++ d ++ a ++ b ++ m ++ 3#3))
  | .vcun c_ d a b m => some (ctlBits c_ 44#6 (0#2 ++ d ++ a ++ b ++ m ++ 4#3))
  | .vctst c_ d a b m => some (ctlBits c_ 44#6 (0#2 ++ d ++ a ++ b ++ m ++ 5#3))
  | .vcvt c_ d a b m => some (ctlBits c_ 45#6 (d ++ a ++ b ++ m ++ 0#3))
  | .vrint c_ d a m => some (ctlBits c_ 45#6 (d ++ a ++ 0#5 ++ m ++ 1#3))
  | .vmov c_ d a m => some (ctlBits c_ 46#6 (d ++ a ++ 0#5 ++ m ++ 0#3))
  | .vsel c_ d a b m => some (ctlBits c_ 46#6 (d ++ a ++ b ++ m ++ 1#3))
  | .vabs c_ d a m => some (ctlBits c_ 46#6 (d ++ a ++ 0#5 ++ m ++ 2#3))
  | .vneg c_ d a m => some (ctlBits c_ 46#6 (d ++ a ++ 0#5 ++ m ++ 3#3))
  | .vcpys c_ d a b m => some (ctlBits c_ 46#6 (d ++ a ++ b ++ m ++ 4#3))
  | .vfrsum c_ d a m => some (ctlBits c_ 47#6 (d ++ a ++ 0#5 ++ m ++ 0#3))
  | .vfrmax c_ d a m => some (ctlBits c_ 47#6 (d ++ a ++ 0#5 ++ m ++ 1#3))
  | .vfrmin c_ d a m => some (ctlBits c_ 47#6 (d ++ a ++ 0#5 ++ m ++ 2#3))
  | .vfscan c_ d a m => some (ctlBits c_ 47#6 (d ++ a ++ 0#5 ++ m ++ 3#3))
  | .virsum c_ d a m => some (ctlBits c_ 47#6 (d ++ a ++ 0#5 ++ m ++ 4#3))
  | .virmax c_ d a m => some (ctlBits c_ 47#6 (d ++ a ++ 0#5 ++ m ++ 5#3))
  | .virmin c_ d a m => some (ctlBits c_ 47#6 (d ++ a ++ 0#5 ++ m ++ 6#3))
  | .viscan c_ d a m => some (ctlBits c_ 47#6 (d ++ a ++ 0#5 ++ m ++ 7#3))
  | .vbcst c_ d a m => some (ctlBits c_ 48#6 (d ++ a ++ 0#5 ++ m ++ 0#3))
  | .vbcsti c_ d k m => some (ctlBits c_ 48#6 (d ++ k ++ 0#5 ++ m ++ 1#3))
  | .vextr c_ d a b => some (ctlBits c_ 48#6 (d ++ a ++ b ++ 2#6))
  | .vins c_ d a b => some (ctlBits c_ 48#6 (d ++ a ++ b ++ 3#6))
  | .viota c_ d m => some (ctlBits c_ 48#6 (d ++ 0#10 ++ m ++ 4#3))
  | .vperm c_ d a b m => some (ctlBits c_ 49#6 (d ++ a ++ b ++ m ++ 0#3))
  | .vcomp c_ d a m => some (ctlBits c_ 49#6 (d ++ a ++ 0#5 ++ m ++ 1#3))
  | .vexpd c_ d a m => some (ctlBits c_ 49#6 (d ++ a ++ 0#5 ++ m ++ 2#3))
  | .vcpos c_ d m => some (ctlBits c_ 49#6 (d ++ 0#10 ++ m ++ 3#3))
  | .vsldn c_ d a b m => some (ctlBits c_ 49#6 (d ++ a ++ b ++ m ++ 4#3))
  | .vslup c_ d a b m => some (ctlBits c_ 49#6 (d ++ a ++ b ++ m ++ 5#3))
  | .mand c_ d a b => some (ctlBits c_ 50#6 (0#2 ++ d ++ 0#2 ++ a ++ 0#2 ++ b ++ 0#6))
  | .mor c_ d a b => some (ctlBits c_ 50#6 (0#2 ++ d ++ 0#2 ++ a ++ 0#2 ++ b ++ 1#6))
  | .mxor c_ d a b => some (ctlBits c_ 50#6 (0#2 ++ d ++ 0#2 ++ a ++ 0#2 ++ b ++ 2#6))
  | .mandn c_ d a b => some (ctlBits c_ 50#6 (0#2 ++ d ++ 0#2 ++ a ++ 0#2 ++ b ++ 3#6))
  | .mfromx c_ d a => some (ctlBits c_ 50#6 (0#2 ++ d ++ a ++ 4#11))
  | .mtox c_ d a => some (ctlBits c_ 50#6 (d ++ 0#2 ++ a ++ 5#11))
  | .mpopc c_ d a => some (ctlBits c_ 50#6 (d ++ 0#2 ++ a ++ 6#11))
  | .mffs c_ d a => some (ctlBits c_ 50#6 (d ++ 0#2 ++ a ++ 7#11))
  | .mzero c_ b r => some (ctlBits c_ 52#6 (0#3 ++ b ++ r ++ 0#11))
  | .mpush c_ b r l c h p => some (ctlBits c_ 52#6 (1#3 ++ b ++ r ++ l ++ c ++ h ++ p ++ 0#2))
  | .macc c_ b r l c h p => some (ctlBits c_ 52#6 (2#3 ++ b ++ r ++ l ++ c ++ h ++ p ++ 0#2))
  | .mshift c_ l c h p => some (ctlBits c_ 52#6 (384#10 ++ l ++ c ++ h ++ p ++ 0#2))
  | .mlatch c_ r l c h p => some (ctlBits c_ 52#6 (8#4 ++ r ++ l ++ c ++ h ++ p ++ 0#2))
  | .mlside c_ r l c h p => some (ctlBits c_ 52#6 (40#6 ++ r ++ l ++ c ++ h ++ p ++ 0#2))
  | .mdrain c_ b r d p h c f t => some (ctlBits c_ 53#6 (b ++ r ++ d ++ p ++ h ++ c ++ f ++ t ++ 0#1))
  | .msclrA c_ a => some (ctlBits c_ 54#6 (0#5 ++ a ++ 0#11))
  | .msclrB c_ a => some (ctlBits c_ 54#6 (0#5 ++ a ++ 1#11))
  | .mrds c_ d a => some (ctlBits c_ 54#6 (d ++ a ++ 2#11))
  | .send c_ t a b l => some (ctlBits c_ 56#6 (t ++ a ++ b ++ l ++ 0#1))
  | .sendR c_ t a b l => some (ctlBits c_ 56#6 (t ++ a ++ b ++ l ++ 1#1))
  | .recv c_ t a l => some (ctlBits c_ 57#6 (t ++ a ++ 0#5 ++ l ++ 0#1))
  | .testt c_ d a => some (ctlBits c_ 58#6 (d ++ a ++ 0#11))
  | .probe c_ d a => some (ctlBits c_ 58#6 (d ++ a ++ 1#11))
  | .cancel c_ a => some (ctlBits c_ 58#6 (0#5 ++ a ++ 2#11))
  | .waitany c_ d a => some (ctlBits c_ 58#6 (d ++ a ++ 3#11))
  | .envr c_ d a b => some (ctlBits c_ 58#6 (d ++ a ++ b ++ 4#6))
  | .qget c_ t a l => some (ctlBits c_ 59#6 (t ++ a ++ 0#8 ++ l))
  | .qput c_ t a l => some (ctlBits c_ 59#6 (t ++ a ++ 1#8 ++ l))
  | .qgett c_ t a b l => some (ctlBits c_ 59#6 (t ++ a ++ b ++ 2#3 ++ l))
  | .qputt c_ t a b l => some (ctlBits c_ 59#6 (t ++ a ++ b ++ 3#3 ++ l))
  | .qatom c_ t a b l => some (ctlBits c_ 59#6 (t ++ a ++ b ++ 4#3 ++ l))
  | .qgath c_ t a l => some (ctlBits c_ 59#6 (t ++ a ++ 5#8 ++ l))
  | .qscat c_ t a l => some (ctlBits c_ 59#6 (t ++ a ++ 6#8 ++ l))
  | .qfill c_ t a b => some (ctlBits c_ 59#6 (t ++ a ++ b ++ 56#6))
  | .qcopy c_ t a b => some (ctlBits c_ 59#6 (t ++ a ++ b ++ 57#6))
  | .fenceQ c_ t => some (ctlBits c_ 59#6 (t ++ 58#16))
  | .spawn c_ d a => some (ctlBits c_ 60#6 (d ++ a ++ 0#11))
  | .spawnr c_ d a => some (ctlBits c_ 60#6 (d ++ a ++ 1#11))
  | .pop c_ d a => some (ctlBits c_ 60#6 (d ++ a ++ 2#11))
  | .steal c_ t a => some (ctlBits c_ 60#6 (t ++ a ++ 3#11))
  | .stealX c_ t a => some (ctlBits c_ 60#6 (t ++ a ++ 4#11))
  | .dqst c_ d => some (ctlBits c_ 60#6 (d ++ 5#16))
  | .widf c_ d a f => some (ctlBits c_ 60#6 (d ++ a ++ 1#8 ++ f))
  | .wids c_ d a b f => some (ctlBits c_ 60#6 (d ++ a ++ b ++ 2#3 ++ f))
  | .sendt c_ t a b l => some (ctlBits c_ 61#6 (t ++ a ++ b ++ 0#3 ++ l))
  | .msend c_ t a l => some (ctlBits c_ 61#6 (t ++ a ++ 1#8 ++ l))
  | .halo c_ t a e => some (ctlBits c_ 61#6 (t ++ a ++ 4#9 ++ e))
  | .waitmb c_ a e => some (ctlBits c_ 61#6 (0#5 ++ a ++ 6#9 ++ e))
  | .fencex c_ t a => some (ctlBits c_ 61#6 (t ++ a ++ 32#11))
  | .mgset c_ a b => some (ctlBits c_ 61#6 (0#5 ++ a ++ b ++ 40#6))
  | .fstat c_ d a => some (ctlBits c_ 61#6 (d ++ a ++ 48#11))
  | .erecv c_ t a l => some (ctlBits c_ 62#6 (t ++ a ++ 0#8 ++ l))
  | .erecvNs c_ t a l => some (ctlBits c_ 62#6 (t ++ a ++ 1#8 ++ l))
  | .deferH c_ t a b => some (ctlBits c_ 62#6 (t ++ a ++ b ++ 16#6))
  | .deferT c_ t a => some (ctlBits c_ 62#6 (t ++ a ++ 17#11))
  | .vtadv c_ a => some (ctlBits c_ 62#6 (0#5 ++ a ++ 24#11))
  | .savem c_ d a => some (ctlBits c_ 62#6 (d ++ a ++ 32#11))
  | .gvtw c_ t a => some (ctlBits c_ 62#6 (t ++ a ++ 40#11))
  | .bench c_ t a => some (ctlBits c_ 63#6 (t ++ a ++ 0#11))
  | .bstat c_ d a => some (ctlBits c_ 63#6 (d ++ a ++ 1#11))
  | .bwait c_ t a => some (ctlBits c_ 63#6 (t ++ a ++ 2#11))
  | .bdrop c_ a => some (ctlBits c_ 63#6 (0#5 ++ a ++ 3#11))
  | .resultLand _ => none
  | .asyncTrap _ => none
  | .syncRelease _ => none
  | .scheduledFlitForward _ _ => none
  | .sendtDepart _ => none
  | .timedArrival _ => none
  | .timedQueueDeliver _ => none
  | .multicastForward _ => none
  | .haloArrival _ _ => none
  | .congestionDetect _ _ _ _ => none
  | .congestionNotice _ _ _ _ => none
  | .setasideRelease _ _ _ _ => none
  | .fenceMarker _ _ _ => none
  | .fenceVerdict _ _ => none
  | .messageArrival _ _ => none
  | .hamperInputResume _ => none
  | .eagerReadoutStart _ => none
  | .eagerReadoutDone _ => none
  | .acceptanceArrival _ _ => none
  | .refusalArrival _ _ => none
  | .ctsSend _ => none
  | .ctsArrival _ _ => none
  | .rendezvousStreamDone _ => none
  | .receiveComplete _ => none
  | .antiMessageArrival _ _ => none
  | .peerFencedAnswer _ _ => none
  | .linkFail _ _ => none
  | .quarryPartDispatch _ => none
  | .quarryWalk _ => none
  | .quarryPartServe _ _ => none
  | .quarryReply _ _ => none
  | .quarryPartTimeout _ _ => none
  | .trackerHoldbackEnd _ _ => none
  | .stealServe _ _ => none
  | .stealAnswer _ _ => none
  | .dispatch _ => none
  | .taskPreempt _ => none
  | .pmaskExpire _ => none
  | .rollback _ => none
  | .gvtRoundStart _ => none
  | .gvtReportRetry _ => none
  | .gvtRelease _ => none
  | .gvtRoundEnd _ => none
  | .benchAccept _ => none
  | .benchFlip _ => none
  | .quarryBenchFlip _ _ => none
  | .benchSweep _ => none
  | .benchSeal _ _ => none
  | .haulPage _ _ => none
  | .periodicBench _ => none
  | .pfail => none
  | .containment _ => none
  | .containmentDrained _ => none
  | .preemptionCaptured _ => none
  | .partitionEnd _ => none
  | .tileHalt _ => none
  | .gangStop _ => none
  | .gangResume _ => none
  | .stepDone _ => none
  | .dbgctlHalt _ => none
  | .dbgctlStep _ => none
  | .dbgctlResume _ => none
  | .dbgpcWrite _ _ => none
  | .stepcntWrite _ _ => none
  | .finjWrite _ _ => none
  | .faultInjectDeferred _ => none
  | .traceBatchWrite _ => none
  | .sramScrub _ _ => none
  | .quarryScrub _ _ => none
  | .xbWrite _ => none
  | .statusWrite _ => none
  | .rmodeWrite _ => none
  | .rseedWrite _ => none
  | .mailboxWrite _ _ => none
  | .trcctlWrite _ => none
  | .hostRegisterWrite _ _ _ => none
  | .w3Read _ => none
  | .w3Write _ _ => none
  | .qtailWrite _ _ => none
  | .ctailWrite _ => none
  | .otailWrite _ => none
  | .haltp => none
  | .resumep => none
  | .contain => none
  | .qroot => none
  | .qinval => none
  | .qinvalAcknowledge => none
  | .retire => none
  | .portpair => none
  | .gvtdom => none
  | .imgreg => none
  | .imgdel => none
  | .attest => none
  | .pset => none
  | .pcapWrite _ => none
  | .benchTake => none
  | .benchRestore => none
  | .benchDrop => none
  | .benchKeep => none
  | .issueBudgetUpdate => none
  | .thermalShutdown => none
  | .startSequence => none
  | .bootCheck => none
  | .linkCrcRetry _ _ => none

/-- The decoder on a row of the opcode table: `nbits` is 32 for every slot form and 0 for a step without an encoding. -/
def decodeTableWord (nbits w : Nat) : Option Instr :=
  if nbits = 32 ∧ w < 2 ^ 32 then
    match decode (bytesOfWord (BitVec.ofNat 32 w)) with
    | .ok i => some i
    | .error _ => none
  else none

end

end Sys2Proof
end

