-- ==== Sys2Proof/Machine/State.lean ====
section
/-! DEFINITION. The state of the module as plain data (01 R12 to R18 and the rules each field cites), the reasons a step
can stop, and the state after the start sequence has reached READY (R8, R417). -/

namespace Sys2Proof.Machine

open Sys2Proof

/-- Byte memory: sparse, unlisted bytes read as zero (R262 step 4, R417 step 6). -/
abbrev Memory := List Host.Cell

/-- A result in flight: where it lands and what lands there (R34, R36). -/
inductive Res where
  /-- a scalar register -/
  | x (r : Reg) (v : W64)
  /-- a predicate -/
  | p (n : BitVec 7) (v : Bool)
  /-- a group of 64 predicates, PWRG (R89) -/
  | pg (g : BitVec 1) (v : W64)
  /-- the bits `mask` of a layout entry (R133) -/
  | lt (n : Reg) (mask v : BitVec 128)
  /-- a control word, WRW (R91) -/
  | cw (n : Nat) (v : W64)
  /-- the bits `mask` of a vector register (R138) -/
  | v (r : Reg) (mask v : BitVec 2048)
  /-- a vector mask -/
  | m (r : BitVec 3) (v : W64)
  /-- line `k` = 64 × latch + line of the latches, MLATCH (R173) -/
  | latch (k : Nat) (v : BitVec 1024)
  /-- a shift of a latch, MSHIFT (R173) -/
  | shift (l : Nat) (v : BitVec 1024)
  /-- side line `k` = 16 × latch + line, MLSIDE (R174) -/
  | side (k : Nat) (v : BitVec 1024)
  /-- a whole accumulator row 64 × bank + row, MZERO and MPUSH (R171, R172) -/
  | row (k : Nat) (int : Bool) (cells : List (BitVec 96))
  /-- exact sums added onto a row as it stands at the landing, MACC (R172) -/
  | rowAdd (k : Nat) (int : Bool) (sums : List Num)
  /-- the clearing of a row after a drain, MDRAIN with CLR (R176) -/
  | rowClear (k : Nat)
  /-- the bytes of a drain into SRAM (R176) -/
  | bytes (bs : List (Nat × Byte))
  /-- the drain NaN bit of row 64 × bank + row (R177, R178) -/
  | mst (k : Nat)
  /-- MSCLR of a bank (R179) -/
  | msclr (bank : Nat) (mask : W64)
deriving DecidableEq, Repr

/-- A fixed-latency result in flight; `left` counts the issue cycles before it lands, `unit` says that it belongs to the
vector or matrix pipeline, which a trap freezes in place (R34, R354). -/
structure Flight where
  left : Nat
  unit : Bool
  res : Res
deriving DecidableEq, Repr

/-- An entry of the latency-tagged snapshot buffer (R355). -/
structure LtEntry where
  val : W64
  kind : Nat
  reg : Nat
  left : Nat
  /-- how many of the results frozen beside it were issued before it: the model's own, for R37 (log 80) -/
  after : Nat
deriving DecidableEq, Repr

/-- The pending format set by PFX (R166). -/
structure Pfx where
  fa : BitVec 4
  fb : BitVec 4
  g : BitVec 2
  zp : Bool
  vec : Bool
deriving DecidableEq, Repr

/-- The context of one task: everything that belongs to the task and not to the tile (R72, R93, R159, R269). -/
structure Thread where
  /-- a number of the model's own that names the task to the engines -/
  uid : Nat
  /-- address of the next bundle -/
  pc : LAddr
  /-- the virtual time of its task record (R267, R274) -/
  recVt : W64
  /-- scalar registers x1 to x31 (R71) -/
  x : Store 64
  /-- predicates (R71) -/
  p : BitVec 128
  /-- vector registers (R135) -/
  v : Store 2048
  /-- vector masks m1 to m7 (R135) -/
  m : Store 64
  /-- layout table (R120) -/
  lt : Store 128
  /-- the control words of the task, by number: STATUS 0x000, RMODE 0x001, RSEED 0x002, WID 0x004, TASKPRI 0x006,
  VSAVE 0x008, MGRP 0x020, TAGMASK 0x021, MSTA 0x040, MSTB 0x041, LC0 0x070, LC1 0x071, SIGACC 0x111 -/
  cw : Store 64
  /-- registers pending as tokens (R126) -/
  pend : BitVec 32
  /-- registers that hold a completion word (R73) -/
  tokw : BitVec 32
  /-- words of engines that wait behind a fixed-latency result, each with whether it is a completion word (R37, R205) -/
  late : List (Reg × W64 × Bool)
  /-- results in flight, in issue order (R34) -/
  flights : List Flight
  /-- squashed issue cycles still due (R35), and how many of them are those of an RFE, which are no user issue cycles (R365) -/
  squash : Nat
  unspent : Nat
  /-- a completing trap that a halt at its boundary holds back: its code and TVAL (R364, R384) -/
  trap : Option (Nat × W64)
  /-- the pending format (R167) -/
  pfx : Option Pfx
  /-- latch lines, 64 × latch + line (R159) -/
  latch : Store 1024
  /-- side lines, 16 × latch + line (R159) -/
  side : Store 1024
  /-- latch valid bits -/
  latchOk : BitVec 4
  /-- accumulator cells, (64 × bank + row) × 64 + column (R159) -/
  acc : Store 96
  /-- row tags, 1 for INT96, bit 64 × bank + row -/
  tag : BitVec 128
  /-- row cell modes, 1 for INT96 -/
  cmode : BitVec 128
  /-- row valid bits -/
  rowOk : BitVec 128
deriving DecidableEq, Repr

/-- A packet: its 64-byte header (R198) and its payload. -/
structure Packet where
  hdr : BitVec 512
  body : List Byte
deriving DecidableEq, Repr

/-- A packet in the fabric: endpoints by site, 4096 + owner for a quarry tile, 4352 + die for an Ultra Ethernet port;
packets of one source, destination and plane keep their order in the list (R17). -/
structure Transit where
  src : Nat
  dst : Nat
  plane : Nat
  pkt : Packet
deriving DecidableEq, Repr

/-- The operations that a slot hands to the engines of its tile. -/
inductive EngKind where
  /-- SEND; `forced` for SEND.R (R201) -/
  | send (forced : Bool)
  /-- a SEND that R296 refuses -/
  | backSend
  | recv | probe
  /-- CANCEL of the receive whose token is the register given (R206) -/
  | cancel (r : Reg)
  | qget | qput | qgett | qputt | qatom | qgath | qscat | qfill | qcopy | fenceQ
  /-- STEAL, `strict` for STEAL.X (R285) -/
  | steal (strict : Bool)
  /-- the cancelling of a task's receives as it exits (R292) -/
  | quit
  | sendt | msend | halo | fencex | deferH | deferT | gvtw | bench | bwait | bdrop
deriving DecidableEq, Repr

/-- An engine operation that has issued and waits for its engine (R187). -/
structure EngOp where
  /-- what it does, and its slot word -/
  kind : EngKind
  word : BitVec 32
  /-- the task that issued it and its token register -/
  uid : Nat
  tok : Reg
  /-- operands as read at issue: X[a], X[b], X[b + 1] -/
  a : W64
  b : W64
  c : W64
  /-- layout entries as read at issue -/
  lts : List (BitVec 128)
  /-- numbers of the range entries it holds -/
  rng : List Nat
  /-- MGRP.GROUP and TAGMASK.MASK at issue (R183, R184) -/
  grp : BitVec 16
  mask : BitVec 32
  /-- LVT, SENDIX at issue (R295) and the segment it issued in (R299) -/
  lvt : W64
  six : Nat
  seg : Nat
  /-- CYC at issue -/
  cyc : Nat
deriving DecidableEq, Repr

/-- An entry of the range scoreboard (R123); a drain span is held outside the 32 entries (R176). -/
structure Range where
  id : Nat
  first : Nat
  last : Nat
  write : Bool
deriving DecidableEq, Repr

/-- The states of a send (R194). -/
inductive SendSt where
  | queued | reading | retained | waitCts | streaming (n : Nat)
  /-- the data of a rendezvous has left and has not landed yet (R376) -/
  | sent (n : Nat)
deriving DecidableEq, Repr

/-- A send in the message engine (R194). -/
structure SendOp where
  handle : Nat
  uid : Nat
  tok : Reg
  lt : BitVec 128
  hdr : BitVec 512
  eager : Bool
  st : SendSt
  /-- bytes in the retention store -/
  data : List Byte
  rng : List Nat
  /-- bench: issued before the flip; waiting for a clear-to-send at it (R332) -/
  pre : Bool
deriving DecidableEq, Repr

/-- An entry of the hamper (R188, R190). -/
structure HamEntry where
  hdr : BitVec 512
  body : List Byte
  /-- request-to-send or converted (no payload held) -/
  rdv : Bool
  /-- negative entry of an anti-message (R309) -/
  neg : Bool
  seq : Nat
  /-- consumed in this segment (R302) -/
  consumed : Option Nat
  /-- its payload cells, or its entry of the header area (R190, log 83) -/
  cells : List Nat
deriving DecidableEq, Repr

/-- The states of a posted receive (R195). -/
inductive RecvSt where
  | posted
  | landing (e : HamEntry)
  | matched (e : HamEntry)
  | streaming (e : HamEntry) (n : Nat)
deriving DecidableEq, Repr

/-- An entry of the posted list (R186); `req` is the quarry request it serves, if any. -/
structure Posted where
  id : Nat
  uid : Nat
  tok : Reg
  rank : BitVec 32
  tag : BitVec 32
  mask : BitVec 32
  grp : BitVec 16
  lt : BitVec 128
  rng : List Nat
  st : RecvSt
  req : Option Nat
  /-- the cycle in which it took its message (R197) -/
  since : Nat
  /-- posted by an ERECV (R319) -/
  ev : Bool
  seg : Nat
deriving DecidableEq, Repr

/-- The states of a quarry request part (R218). -/
inductive PartSt where
  | wait | sent (tracker : Nat) | done (code : Nat)
deriving DecidableEq, Repr

/-- A part of a quarry request (R218): operation code of R220, address in the quarry address space, translated home,
bytes, payload, and where the bytes of the reply land in the destination buffer. -/
structure Part where
  op : Nat
  sub : Nat
  qva : Nat
  len : Nat
  /-- element addresses of a gather or scatter part, with their places -/
  elems : List (Nat × Nat)
  body : List Byte
  /-- second address of a COPY and its translated home -/
  src : Nat
  srcHome : Option (Bool × Nat × Nat)
  at_ : Nat
  home : Option (Bool × Nat × Nat)
  st : PartSt
  /-- its walk is in progress (R214); it was translated before the latest invalidation of its address space (R217) -/
  walking : Bool
  old : Bool
deriving DecidableEq, Repr

/-- A quarry request (R225 to R227). -/
structure QReq where
  id : Nat
  uid : Nat
  tok : Reg
  kind : EngKind
  lt : BitVec 128
  rng : List Nat
  acq : Bool
  rel : Bool
  parts : List Part
  oob : Bool
  okBytes : Nat
  trunc : Bool
  posted : Bool
  seg : Nat
  /-- the bench colour of its parts (R331) -/
  colour : Bool
deriving DecidableEq, Repr

/-- A request tracker (R218): its generation, the request and part it serves, the cycle its part left, its hold-back. -/
structure Tracker where
  gen : Nat
  use : Option (Nat × Nat)
  since : Nat
  held : Bool
deriving DecidableEq, Repr

/-- A scheduled flit: its packet and, while it waits in the time buffer, its departure times (R250). -/
structure Timed where
  uid : Nat
  tok : Reg
  pkt : Packet
  t : Nat
  d0 : Nat
  d : Nat
  rng : List Nat
  /-- the cycle at which its bytes have been read and its R entry is freed -/
  ready : Nat
deriving DecidableEq, Repr

/-- A clear-to-send that the request-to-send of a large quarry reply has earned and that is not due yet (R220, R428): the cycle of the match, where
it goes, the header of the request-to-send, and the bench colour at the match. -/
structure OwedCts where
  since : Nat
  dst : Nat
  hdr : BitVec 512
  colour : Bool
deriving DecidableEq, Repr

/-- A set-aside queue in use (R234): input port, plane, destination, the latest cycle in which a packet is known to stand in it, and the latest
in which one for its destination may have come over its input link. -/
structure Aside where
  port : Nat
  plane : Nat
  dst : Nat
  held : Nat
  carried : Nat
deriving DecidableEq, Repr

/-- What a flush of the trace has still to write (R395, R397): TRCCTL as it was, the words held, the next offset, the wrap count, CYC of the time base,
and FULL. -/
structure Sink where
  ctl : W64
  words : List (BitVec 32)
  off : Nat
  wrap : Nat
  base : Nat
  full : Bool
deriving DecidableEq, Repr

/-- A task record (R267). -/
structure TaskRec where
  np : Bool
  pri : Nat
  pc : LAddr
  wid : W64
  vt : W64
  args : List W64
deriving DecidableEq, Repr

/-- An entry of the ready queue (R269): a fresh record, a parked frame, or the saved context. -/
inductive Ready where
  | fresh (r : TaskRec) (since : Nat)
  | parked (frame : Nat) (pri since : Nat)
  | saved (pri since : Nat)
deriving DecidableEq, Repr

/-- A parked task (R274): its context without vectors and matrix state, the register a SUSPEND waits for, its stack slot. -/
structure Frame where
  no : Nat
  th : Thread
  wait : Reg
  slot : Nat
deriving DecidableEq, Repr

/-- A waymark frame (R300). -/
structure Waymark where
  th : Thread
  lvt : W64
  key : Option (List Nat)
  six : Nat
  pc : LAddr
  sendPos : Nat
  commitPos : Nat
deriving DecidableEq, Repr

/-- A segment of the trail (R299, R301): its waymark and its saved lines, newest first, and the keys of its events. -/
structure Segment where
  no : Nat
  mark : Waymark
  lines : List (Nat × BitVec 512)
  /-- the words of the saved lines that were copied with their poison (R399) -/
  bad : List Nat
  keys : List (List Nat)
  /-- its commit-queue entries that have been applied and freed (R315, R336) -/
  freed : Nat
deriving DecidableEq, Repr

/-- A send-log entry (R302) and the segment that made it. -/
structure LogEntry where
  dst : BitVec 32
  tag : BitVec 32
  grp : BitVec 16
  six : BitVec 32
  rvt : W64
  svt : W64
  seg : Nat
  /-- its place in the ring of the send log -/
  slot : Nat
deriving DecidableEq, Repr

/-- A commit-queue entry (R310). -/
structure Commit where
  kind : Nat
  op : EngOp
  vt : W64
  payload : List Byte
  seg : Nat
  released : Bool
  /-- its place in the upper half of the region -/
  slot : Nat
  /-- the quarry request that a released write has become; before, the posted entry kept for it (R225) -/
  req : Option Nat
deriving DecidableEq, Repr

/-- A halo row that is landing (R244): its source, the cycle in which it began, whether its entry has passed the check, and the bytes that
have still to land. -/
structure HaloRow where
  src : Nat
  since : Nat
  good : Bool
  left : List (Nat × Byte)
deriving DecidableEq, Repr

/-- A byte that a halo row has overwritten since the latest bundle of the tile issued: its address and old value, the row's source, and the
mailbox word of the row once the row is counted (R119, R253). -/
structure HaloByte where
  addr : Nat
  old : Byte
  src : Nat
  counted : Option Nat
deriving DecidableEq, Repr

/-- What a bundle has gathered from its slots before it takes effect (R30, R357). The model's own: the group is empty
between bundles. -/
structure Issue where
  addr : LAddr
  words : List (BitVec 32)
  /-- the slot being executed: its index and its word -/
  slot : Nat
  /-- causes with their slot and TVAL (R356) -/
  causes : List (Nat × Nat × W64)
  /-- results, each with the slot that makes it (R355) -/
  flights : List (Nat × Flight)
  /-- bytes stored, in slot order (R30), and the 8-byte words that one store or code write covers whole (R399) -/
  stores : List (Nat × Byte)
  whole : List Nat
  /-- code words stored (R134) -/
  codes : List (Nat × BitVec 32)
  ops : List EngOp
  /-- ranges taken at issue, their spans as first and last line and kind (R123) -/
  spans : List (Nat × Nat × Bool)
  /-- target of a taken transfer (R97) -/
  jump : Option LAddr
  /-- loop state set by LOOP or LPOP (R102, R104) -/
  loops : Option (W64 × W64)
  lpop : Bool
  sig : Option (BitVec 16)
  /-- format set by PFX (R166) -/
  pfx : Option Pfx
  /-- tags, valid bits set at issue (R171 to R173): row, tag; latch -/
  rows : List (Nat × Bool)
  latches : List Nat
  /-- generator state after the bundle's elements (R58) -/
  seed : Option W64
  /-- a completing trap: its code and TVAL (R364) -/
  completing : Option (Nat × W64)
  /-- the system action of a SYS slot, by its function number, with its operand -/
  sys : Option (Nat × W64)
  /-- the entries that RSTLT has read (R369) -/
  ltLoaded : List LtEntry
  /-- the token set by each engine operation -/
  toks : List Reg
  vsave : Option W64
  mgset : Option (Nat × Nat)
  spawn : Option (Bool × TaskRec)
  /-- the address that a POP writes its record to (R284) -/
  popped : Option Nat
  /-- engine accesses made as the bundle issues: first byte, bytes, write; not watched (R124, R283, R284) -/
  quiet : List (Nat × Nat × Bool)
  /-- an event opened: new LVT, the message taken, ERECV.NS (R319 to R321) -/
  event : Option (W64 × Option HamEntry × Bool)
  hold64 : Bool
  /-- bytes read by watched slots and written by them (R390) -/
  reads : List (Nat × Nat)
deriving DecidableEq, Repr

/-- The message, matching and quarry engines of a tile (09, 10). -/
structure Engine where
  ops : List EngOp
  ranges : List Range
  nextId : Nat
  posted : List Posted
  hamper : List HamEntry
  seq : Nat
  /-- the latest cycle in which an arrival was handled (R187) -/
  arrived : Option Nat
  /-- halo rows that are landing or have landed and are still to be counted (R244) -/
  halos : List HaloRow
  /-- clear-to-sends of quarry replies that are still to leave (R428) -/
  owed : List OwedCts
  /-- packets of a restored channel record that still wait to be admitted again (R343) -/
  readmits : List Packet
  /-- the source whose packet has stopped the request-plane input (R191) -/
  stopped : Option Nat
  /-- envelope store: headers by slot, next slot and generation (R192) -/
  env : Store 512
  envGen : Store 8
  envNext : Nat
  envRound : Nat
  sends : List SendOp
  reqs : List QReq
  trackers : List (Nat × Tracker)
  /-- translation buffer: QVA page, size code, entry (R214) -/
  tlb : List (Nat × Nat × W64)
  /-- halos and multicasts still to be read out; GVTWs, FENCEXs and steals waiting -/
  waits : List EngOp
  /-- message packets sent and admitted since launch (R382) -/
  msgOut : Nat
  msgIn : Nat
deriving DecidableEq, Repr

/-- The router of a tile (11). -/
structure Router where
  /-- slot table (R237) -/
  slots : Store 16
  /-- flits of the scheduled plane: the input register, 0 N, 1 E, 2 S, 3 W, 4 L, or 5 for one that output L delivers to the timed-arrival queue,
  and the cycle of the tile's die in which the flit stands there (R237 to R239) -/
  inp : List (Nat × Nat × Packet)
  /-- timed-arrival queue (R240) -/
  queue : List Packet
  /-- the cycle in which a flit has left it last (R240) -/
  fed : Option Nat
  /-- timed-send buffer (R250) -/
  buffer : List Timed
  /-- multicast table (R242) and packets held for forwarding, each with the entry latched for it -/
  mcast : Store 5
  /-- entries that MGSET has written in this cycle (R255) -/
  mgnew : List (Nat × BitVec 5)
  held : List (BitVec 5 × Packet)
  /-- FSTAT counters 0 to 3 (R256) -/
  fstat : Store 32
  /-- set-aside queues in use; packets that stand at the head of an output's queue, with the cycle since when (R234, log 93) -/
  aside : List Aside
  watch : List (Nat × Transit × Nat)
deriving DecidableEq, Repr

/-- The dispatcher, the context engine and the deque engine of a tile (12). -/
structure Dispatcher where
  /-- records, oldest first; slots reserved for steal answers; records taken from the old end since launch (R271) -/
  deque : List TaskRec
  reserved : Nat
  dqTop : Nat
  /-- steal requests that have arrived: the cycle and the source (R286) -/
  thefts : List (Nat × Nat)
  /-- the cycle of the latest steal served (R286); the cycle of the latest own push and the records that the deque held before it (R283);
  the cycle of the latest own pop (R269, R284) -/
  served : Option Nat
  pushed : Option (Nat × Nat)
  popped : Option Nat
  ready : List Ready
  frames : List Frame
  /-- the context save area and the stack slot of its task (R279) -/
  csa : Option (Thread × Nat)
  /-- stack slot of the running task (R270) -/
  slot : Nat
  running : Bool
  /-- the task that last exited was the idle task (R272) -/
  idled : Bool
  /-- finished (R264) -/
  finished : Bool
  nextUid : Nat
  /-- record of the initial task, for the idle task's WID and VT (R272) -/
  initial : TaskRec
  idlePc : LAddr
  stack : Nat
  /-- user issue cycles of masked pre-emption left (R368) -/
  maskLeft : Nat
  /-- SYNC arrival: the issue cycle's fabric cycle (R110) -/
  sync : Option Nat
  /-- release of the barrier has been computed (R110) -/
  release : Option Nat
deriving DecidableEq, Repr

/-- The virtual-time unit of a tile (13). -/
structure VTime where
  segs : List Segment
  nextSeg : Nat
  /-- trail records freed by fossil collection since launch, where its ring begins (R301); the places after the latest entries of the send log
  and the commit queue (R302) -/
  trailTail : Nat
  logNext : Nat
  commitNext : Nat
  log : List LogEntry
  commits : List Commit
  key : Option (List Nat)
  six : Nat
  /-- entries noted by an overflow: region and count (R303) -/
  noted : List (Nat × Nat)
  /-- rollbacks due: target segment, secondary (R304) -/
  due : List (Nat × Bool)
  /-- receives and requests completed in a segment, by segment: used for the fate of a twin (R309) -/
  round : Bool
  oldSent : Nat
  oldRecv : Nat
  newSent : Nat
  newRecv : Nat
  /-- least receive VT of a new-colour message sent this round (R312) -/
  minSent : Option Nat
  reported : Bool
  relDone : Bool
  /-- anti-messages that have left for other modules in this round and the one before, by destination rank and round colour (R312, log 78) -/
  antis : List (Nat × Bool)
deriving DecidableEq, Repr

/-- The image state of a tile and its capture in progress (R332, R335 to R338). -/
structure Capture where
  id : Nat
  gen : Nat
  th : Thread
  sup : Bool
  cw : Store 64
  poison : List Nat
  soft : List (Nat × Nat)
  stale : List (Nat × BitVec 32)
  ltsb : List LtEntry
  frozen : List Flight
  asyncs : List (Nat × W64)
  hold64 : Option Nat
  idle : Option (BitVec 32)
  eng : Engine
  rt : Router
  disp : Dispatcher
  vt : VTime
  /-- CYC of the flip -/
  cyc : Nat
  /-- range entries of pre-cut operations, registers that wait for them, engine numbers below this one are pre-cut -/
  pre : List Nat
  waitRegs : List (Nat × Reg)
  preId : Nat
  /-- lines already copied, as old contents; the sweep's next line; the image so far -/
  copied : List (Nat × BitVec 512)
  sweep : Nat
  img : Memory
  channel : List Packet
  done : Bool
  /-- optimistic: the segment of the image waymark and the counts of R336 -/
  seg : Nat
  skipSends : Nat
  skipDefers : Nat
deriving DecidableEq, Repr

/-- The bench unit of a tile (14): its colour and the capture of an image; `skip…` are the sends and deferred actions to be
suppressed after a restore, in the segment given, and `left…` those of them still to come in this execution of it (R336). -/
structure BenchUnit where
  colour : Bool
  cap : Option Capture
  skipSends : Nat
  skipDefers : Nat
  skipSeg : Nat
  leftSends : Nat
  leftDefers : Nat
deriving DecidableEq, Repr

/-- The debug module and trace unit of a tile (17). -/
structure Debug where
  halted : Bool
  cause : Nat
  /-- a halt requested for the next boundary: its HCAUSE -/
  want : Option Nat
  stepping : Bool
  /-- the breakpoints and watchpoints that stopped the tile, 1 to 6, and the bundle; the attempt that passes them (R392); the bundles whose
  debug events have trapped and that no RFE has returned to, newest first, with those events -/
  hits : List Nat
  hitPc : LAddr
  passing : Bool
  stops : List (LAddr × List Nat)
  /-- halted with its partition (R385) -/
  gang : Bool
  /-- BKPM has matched (R391) -/
  bkpm : Bool
  /-- the cycle of the write that armed an injection to be made at once (R394) -/
  inject : Option Nat
  /-- trace queue, current state and time of the last record (R396) -/
  queue : List (BitVec 32)
  tstate : Nat
  tlast : Nat
  tbase : Nat
  toff : Nat
  twrap : Nat
  tfull : Bool
  /-- flushes still to be written, oldest first (R395) -/
  flush : List Sink
  /-- distinct words with a correctable error since the start (R405) -/
  cwords : List Nat
deriving DecidableEq, Repr

/-- Why the tile has not issued its next bundle at its latest attempt (R34, R317). -/
inductive Stall where
  /-- a slot reads or writes one of these pending registers (R126) -/
  | token (mask : BitVec 32)
  /-- a WAITANY of this set (R207) -/
  | any (mask : BitVec 32)
  /-- a WAITMB of this side for this count (R253) -/
  | mailbox (side : BitVec 2) (target : Nat)
  /-- an ERECV that finds no accepted entry (R319) -/
  | erecv (rank tag mask : BitVec 32) (grp : BitVec 16)
  /-- an ERECV that waits for the window or for event resources (R314, R319) -/
  | window
  /-- a held range (R124) -/
  | range
  /-- any other resource: entries, posted list, FP64, power -/
  | other
deriving DecidableEq, Repr

/-- One compute tile (R13). -/
structure Tile where
  /-- 128 × Y + X -/
  site : Nat
  /-- PID of its partition, 0 for none -/
  pid : Nat
  /-- the running task, or the state the last one left -/
  th : Thread
  /-- supervisor mode (R353) -/
  sup : Bool
  /-- the control words of the tile, by number: TILEID 0x007, XB 0x010, XBMAX 0x011, HAMPER 0x012, TRAIL 0x013, DEQUE 0x014,
  CSA 0x015, LOGS 0x016, LATEDROP 0x017, EAGER 0x022, QASID 0x023, LVT 0x030 to WAYVT 0x035, WIDW 0x005, MBN 0x050 to MBW 0x053,
  BENCHST 0x060, LASTBENCH 0x061, BENCHCAP 0x062, TCAUSE 0x100 to SSCRATCH 0x105, PREEMPT 0x107, SIGCTL 0x110, TRCCTL 0x120,
  and the debug words 0x202 to 0x20E -/
  cw : Store 64
  /-- SRAM (R113) -/
  mem : Memory
  /-- poisoned 8-byte words, and words with one bad bit and its number, 64 to 71 for check bits (R399) -/
  poison : List Nat
  soft : List (Nat × Nat)
  /-- code words written and not yet fenced, with the old word (R134) -/
  stale : List (Nat × BitVec 32)
  /-- bytes that halo rows have overwritten since the latest bundle issued: a load whose line is served before its bundle issues may still
  find them (R119) -/
  haloOld : List HaloByte
  /-- halo arrivals of a cycle: mailbox word, cycle, their number, one of them bad (R245) -/
  mbLate : List (Nat × Nat × Nat × Bool)
  /-- LTSB (R355), frozen results (R354), pending asynchronous causes (R357) -/
  ltsb : List LtEntry
  frozen : List Flight
  asyncs : List (Nat × W64)
  /-- the issue cycle of the next bundle has begun: its landings are made (R34) -/
  began : Bool
  /-- the fabric cycle in which the float datapath is held (R140) -/
  hold64 : Option Nat
  /-- the IDLE wait: its register mask (R366) -/
  idle : Option (BitVec 32)
  /-- the stall of the latest attempt to issue -/
  stall : Option Stall
  /-- runs of 1024 fabric cycles up to the one in which the scrubber has read its line last (R400) -/
  scrubbed : Nat
  /-- the latest run of 64 fabric cycles in which the tile issued, and its bundles in it (R422) -/
  budgetAt : Nat
  budgetUsed : Nat
  iss : Issue
  eng : Engine
  rt : Router
  disp : Dispatcher
  vt : VTime
  bench : BenchUnit
  dbg : Debug
deriving DecidableEq, Repr

/-- A launch record (R257), its 64 bytes. -/
abbrev LaunchRec := BitVec 512

/-- The states of a partition (R262, R280, R372). -/
inductive PartnSt where
  | running | preempting | containing | contained | captured | waiting
deriving DecidableEq, Repr

/-- A bench of a partition (R326, R327). -/
structure Bench where
  id : Nat
  gen : Nat
  /-- state of R327 -/
  st : Nat
  cutVt : Nat
  cut : W64
  held : Nat
  stored : Nat
  /-- images of the tiles, frozen copies of quarry pages: owner, 16 KiB page, number of the copy, contents -/
  images : List (Nat × Capture)
  frozen : List (Nat × Nat × Nat × List Byte)
  shared : List (Nat × Nat)
  /-- quarry pages taken by haul: owner, page, and the QVA under which the page is stored (R342); pool pages that the image of each tile
  still holds -/
  store : List (Nat × Nat × Nat)
  imgs : List (Nat × Nat)
  acks : List Nat
  /-- optimistic: its cut falls at the release in progress (R334) -/
  due : Bool
  /-- BENCH tokens waiting: site, uid, register -/
  waitB : List (Nat × Nat × Reg)
  seq : Nat
  /-- its extent of the bench store, by offset (R342, R415): the first page, the next page to be written, the end; 0 for none -/
  first : Nat
  next : Nat
  last : Nat
deriving DecidableEq, Repr

/-- A partition (R262, R263). -/
structure Partn where
  pid : Nat
  rec_ : LaunchRec
  st : PartnSt
  sites : List Nat
  /-- GVT round: in progress, phase 0 flip, 1 report, 2 release; GVT_k; quiescent rounds; domain: its number and how many modules it
  joins (R410) -/
  round : Option Nat
  rounds : Nat
  gvt : Nat
  quiet : Nat
  /-- cycle of the latest reports (R312) -/
  roundAt : Nat
  domain : Option (Nat × Nat)
  benches : List Bench
  nextBench : Nat
  keep : Bool
  colour : Bool
  /-- gang halt: cycle of the request, cycle of the resume, cycle of a further request made while the resumption is pending -/
  halt : Option Nat
  resume : Option Nat
  again : Option Nat
  cause : Nat
  launched : Nat
  /-- the bench to resume from; the partition waits by a host restore, not by pre-emption -/
  from_ : Nat
  restored : Bool
deriving DecidableEq, Repr

/-- An entry of the bench store directory (R415) with the bench it describes. -/
structure DirEntry where
  rec_ : LaunchRec
  pid : Nat
  bench : Bench
  st : Nat
  kept : Bool
deriving DecidableEq, Repr

/-- A turn that the agenda gives: a step without encoding, the issue of a tile, an operation of a tile's engine, the end of
a fabric cycle, a packet from another module, the choice that the next steps make among several things that they may act on, or the size in bytes of the
next access of the host, where it is not 8, with the bytes that it writes. The agenda is the model's own: the inputs of the module and the
interleaving that the manual leaves open (log 4). -/
inductive Turn where
  | ev (i : Instr)
  | issue (site : Nat)
  | engine (site : Nat)
  | tick
  | inject (src dst plane : Nat) (p : Packet)
  | pick (k : Nat)
  | access (n : Nat) (data : BitVec 512)
deriving DecidableEq, Repr

/-- What the start record holds (R419): the retirement map and the sites marked (R16, R405), the failed routers, the masks of dies, stacks,
links, ports and frames out, the grades, the settings of the PCIe ports, the failure log, the firmware slot tried first, and its sequence number. An
entry of the log: step [7:0], unit [23:8], cause [31:24], CYC [95:32]. -/
structure StartRecord where
  retired : List Nat
  marked : List Nat
  badRouters : List Nat
  diesOut : List Nat
  stacksOut : List Nat
  grades : Store 8
  linkMarks : List Nat
  portsOut : List Nat
  framesOut : List (Nat × Nat)
  /-- by port: steps below the full speed and width -/
  pcie : Store 8
  failures : List (BitVec 96)
  fwSlot : Nat
  recSeq : Nat
deriving DecidableEq, Repr

/-- A page in a haul engine (R341): the engine's die, the bench, and KIND, origin and bytes of the page (R342). -/
structure HaulPage where
  die : Nat
  pid : Nat
  id : Nat
  kind : Nat
  origin : Nat
  page : List Byte
deriving DecidableEq, Repr

/-- An entry of a die's walk cache (R214): QASID, level, the QVA bits that select it, and the pointer. -/
structure WalkEntry where
  die : Nat
  qasid : Nat
  level : Nat
  sel : Nat
  entry : W64
deriving DecidableEq, Repr

/-- The management block, the host windows and the start record (12, 17, 18). -/
structure Manager where
  /-- images by number: quarry tile and offset, length (R411) -/
  images : List (Nat × Nat × Nat × Nat)
  /-- launch queues: waiting records by level, each with its place of arrival (R412) -/
  queue : List (Nat × LaunchRec)
  /-- slots of W1: queue × 16 + slot (R412) -/
  wslots : Store 512
  qtail : Store 32
  qhead : Store 32
  /-- completion ring, CHEAD, CTAIL, held records (R413) -/
  cring : Store 256
  chead : Nat
  ctail : Nat
  cheld : List (BitVec 256)
  /-- host output ring, OHEAD, OTAIL (R414) -/
  oring : Store 256
  ohead : Nat
  otail : Nat
  /-- W0 registers by offset: MODIDX, W3SEL, CMD, ARG0 to ARG3, CMDSTAT, RINGBASE, RINGSIZE, RHEAD, RTAIL, RELCTL, PSTATE, PCAP,
  PDRAW, TEMP, BOOTSTEP (R407, R410, R421) -/
  w0 : Store 64
  /-- W2 registers by offset (R415) -/
  w2 : Store 64
  /-- root tables by QASID: OWNER and offset as QROOT gives them, 0 for none (R214, R410) -/
  roots : Store 64
  /-- translations being invalidated (R217): QASID, waiting for the acknowledgement -/
  inval : Option Nat
  dir : List DirEntry
  nextPid : Nat
  /-- sequence number of the reliability ring (R401) and the records written or dropped so far, newest first -/
  relSeq : Nat
  relLog : List (BitVec 512)
  /-- start record (R419), as its latest copy holds it -/
  retired : List Nat
  badRouters : List Nat
  diesOut : List Nat
  stacksOut : List Nat
  grades : Store 8
  linkMarks : List Nat
  /-- die-to-die links that have failed since the start -/
  linksOut : List (Nat × Nat)
  portsOut : List Nat
  framesOut : List (Nat × Nat)
  pcie : Store 8
  failures : List (BitVec 96)
  fwSlot : Nat
  recSeq : Nat
  /-- sites marked for retirement since the start (R16) -/
  marked : List Nat
  /-- the sites that have had no logical id since the latest start (R15) -/
  noId : List Nat
  /-- the other copy of the start record (R419), and the number of starts so far -/
  older : StartRecord
  starts : Nat
  /-- benches sealed so far: the order of sealing (R341, R347) -/
  sealSeq : Nat
  /-- frozen copies made so far: their numbers (R329) -/
  nextCopy : Nat
  /-- fence markers sent so far: the order in which the intervals close (R247) -/
  markers : Nat
  /-- pages that haul engines have read and not yet written: die, partition, bench, KIND, origin and bytes; four for each die (R12, R341) -/
  haul : List HaulPage
  /-- a TAKE of the host that waits for a capture: PID and cut VT (R349, R415) -/
  take : Option (Nat × Nat)
  /-- value answered to the latest host read; the latest attestation report (R419) -/
  lastRead : BitVec 512
  report : List Byte
  /-- PFAIL has been signalled (R344) -/
  pfail : Bool
  /-- issue budget k of 64 (R422) -/
  budget : Nat
  /-- draw of the nine milliseconds before, newest first (R422) -/
  draws : List Nat
  /-- boot partition is in place (R430): the boot tile's site; its number -/
  boot : Option Nat
  bootPid : Nat
deriving DecidableEq, Repr

/-- The state of the module. -/
structure State where
  /-- the tile in focus and the other tiles that exist -/
  tile : Tile
  rest : List Tile
  /-- CYC (R95) -/
  cyc : Nat
  /-- packets in flight (R17) and answers to other modules -/
  net : List Transit
  outPort : List Transit
  /-- replies held in the reply buffers of quarry tiles until their clear-to-send (R220) -/
  qheld : List Transit
  /-- quarry memory, owner × 2^32 + offset (R210), blocks poisoned and blocks with one or two bad bytes (R211) -/
  quarry : Memory
  qbad : List Nat
  qsoft : List Nat
  /-- DRAM rows whose activation counter has failed its parity: owner and row; the activation counters, owner × 2^32 + row (R212) -/
  qparity : List (Nat × Nat)
  qrows : Store 12
  /-- quarry tiles whose scrubber has read the block due by now: owner and block (R400) -/
  qscrub : List (Nat × Nat)
  /-- the walk caches of the dies' walkers (R214) -/
  walkers : List WalkEntry
  /-- copy parts whose source has been read, with its code and the bytes in the destination owner's copy buffer (R220) -/
  copies : List (Transit × Nat × List Byte)
  /-- parts at the CXL port proxies: the die, whether the port has taken the part, and its packet (R224) -/
  cxl : List (Nat × Bool × Transit)
  /-- expander memory of the capacity tier (R224) -/
  cap : Memory
  partns : List Partn
  /-- port pairs: die, module, up, sent, received (R247) -/
  pairs : List (Nat × Nat × Bool × Nat × Nat)
  mgr : Manager
  agenda : List Turn
  todo : List Nat
  /-- the latest choice of the agenda: which of several parts, receives, streams or modules a step acts on, 0 the first; for HAUL_PAGE, whether it
  writes (log 4) -/
  pick : Nat
  /-- size and bytes of the next access of the host, where it is not of 8 bytes (R406, R409) -/
  access : Option (Nat × BitVec 512)
  /-- counter of free values (log 5) -/
  free : Nat
deriving DecidableEq, Repr

/-- Why the machine stops. -/
inductive Fault where
  /-- raised by `step` for every step taken after the module has powered down (R422): the spec gives no step of a
  module without power. Safe. -/
  | poweredDown
deriving DecidableEq, Repr

/-- Why an instruction has no meaning. -/
inductive Refusal where
  /-- raised by an arm of `exec` for an instruction that the model does not cover. Safe. -/
  | notModelled (mnemonic : String)
deriving DecidableEq, Repr

/-- A context in which no task has ever run: every register zero (log 1), TAGMASK and SIGACC at their reset values. -/
def Thread.zero : Thread :=
  { uid := 0, pc := 0, recVt := 0, x := [], p := 0, v := [], m := [], lt := [], cw := [(0x021, 0xFFFFFFFF), (0x111, 0xFFFF)], pend := 0, tokw := 0,
    late := [], flights := [], squash := 0, unspent := 0, trap := none, pfx := none, latch := [], side := [], latchOk := 0, acc := [], tag := 0, cmode := 0,
    rowOk := 0 }

def Issue.empty : Issue :=
  { addr := 0, words := [], slot := 0, causes := [], flights := [], stores := [], whole := [], codes := [], ops := [], spans := [], jump := none,
    loops := none, lpop := false, sig := none, pfx := none, rows := [], latches := [], seed := none, completing := none, sys := none, ltLoaded := [],
    toks := [], vsave := none, mgset := none, spawn := none, popped := none, quiet := [], event := none, hold64 := false, reads := [] }

def Engine.empty : Engine :=
  { ops := [], ranges := [], nextId := 1, posted := [], hamper := [], seq := 0, arrived := none, halos := [], owed := [], readmits := [], stopped := none, env := [], envGen := [],
    envNext := 0, envRound := 1, sends := [], reqs := [], trackers := [], tlb := [], waits := [], msgOut := 0, msgIn := 0 }

def Router.empty : Router :=
  { slots := [], inp := [], queue := [], fed := none, buffer := [], mcast := [], mgnew := [], held := [], fstat := [], aside := [], watch := [] }

def TaskRec.zero : TaskRec := { np := false, pri := 0, pc := 0, wid := 0, vt := 0, args := [] }

def Dispatcher.empty : Dispatcher :=
  { deque := [], reserved := 0, dqTop := 0, thefts := [], served := none, pushed := none, popped := none, ready := [], frames := [], csa := none, slot := 0, running := false, idled := false,
    finished := false, nextUid := 1, initial := TaskRec.zero, idlePc := 0, stack := 0, maskLeft := 0, sync := none, release := none }

def VTime.empty : VTime :=
  { segs := [], nextSeg := 1, trailTail := 0, logNext := 0, commitNext := 0, log := [], commits := [], key := none, six := 0, noted := [], due := [], round := false, oldSent := 0,
    oldRecv := 0, newSent := 0, newRecv := 0, minSent := none, reported := false, relDone := false, antis := [] }

def BenchUnit.empty : BenchUnit := { colour := false, cap := none, skipSends := 0, skipDefers := 0, skipSeg := 0, leftSends := 0, leftDefers := 0 }

def Debug.empty : Debug :=
  { halted := false, cause := 0, want := none, stepping := false, hits := [], hitPc := 0, passing := false, stops := [], gang := false, bkpm := false, inject := none,
    queue := [], tstate := 3, tlast := 0, tbase := 0, toff := 64, twrap := 0, tfull := false, flush := [], cwords := [] }

/-- A bench id in state NONE (R327). -/
def Bench.zero : Bench :=
  { id := 0, gen := 0, st := 0, cutVt := 0, cut := 0, held := 0, stored := 0, images := [], frozen := [], shared := [], store := [],
    imgs := [], acks := [], due := false, waitB := [], seq := 0, first := 0, next := 0, last := 0 }

/-- A tile of no partition, at the reset values of its control words: RSEED of its task TILEID + 1 (R56), WAYVT all ones
(R298), SIGCTL.EN 1 (R107); the words a launch sets (a dash in the maps) are zero until a launch (log 1). -/
def Tile.blank (site : Nat) : Tile :=
  { site := site, pid := 0, th := { Thread.zero with cw := [(0x002, BitVec.ofNat 64 (site + 1)), (0x021, 0xFFFFFFFF), (0x111, 0xFFFF)] }, sup := false,
    cw := (if site = 0 then [] else [(0x007, BitVec.ofNat 64 site)]) ++ [(0x035, 0xFFFFFFFFFFFFFFFF), (0x110, 1)], mem := [], poison := [], soft := [],
    stale := [], haloOld := [], mbLate := [], ltsb := [], frozen := [], asyncs := [], began := false, hold64 := none, idle := none, stall := none, scrubbed := 0, budgetAt := 0,
    budgetUsed := 0, iss := Issue.empty, eng := Engine.empty, rt := Router.empty, disp := Dispatcher.empty, vt := VTime.empty, bench := BenchUnit.empty, dbg := Debug.empty }

/-- A start record in which everything is in service at the highest grade (R419). -/
def StartRecord.blank : StartRecord :=
  { retired := [], marked := [], badRouters := [], diesOut := [], stacksOut := [], grades := [], linkMarks := [], portsOut := [], framesOut := [], pcie := [],
    failures := [], fwSlot := 0, recSeq := 0 }

/-- The management block at READY: BOOTSTEP.STEP is 10 (R416), nothing registered, nothing retired (log 3). -/
def Manager.ready : Manager :=
  { images := [], queue := [], wslots := [], qtail := [], qhead := [], cring := [], chead := 0, ctail := 0, cheld := [], oring := [],
    ohead := 0, otail := 0, w0 := [(0x0018, 10)], w2 := [], roots := [], inval := none, dir := [], nextPid := 1, relSeq := 0,
    relLog := [], retired := [], badRouters := [], diesOut := [], stacksOut := [], grades := [], linkMarks := [], linksOut := [], portsOut := [], framesOut := [], pcie := [], failures := [],
    fwSlot := 0, recSeq := 0, marked := [], noId := [], older := StartRecord.blank, starts := 0, sealSeq := 0, nextCopy := 0, markers := 0, haul := [], take := none, lastRead := 0, report := [], pfail := false, budget := 64, draws := [], boot := none, bootPid := 0 }

/-- The module at READY (R417): CYC 0 as at the start of the module (R95), no partition, zero memory. -/
def State.reset : State :=
  { tile := Tile.blank 0, rest := [], cyc := 0, net := [], outPort := [], qheld := [], quarry := [], qbad := [], qsoft := [], qparity := [], qrows := [], qscrub := [], walkers := [], copies := [], cxl := [], cap := [], partns := [],
    pairs := [], mgr := Manager.ready, agenda := [], todo := [], pick := 0, access := none, free := 0 }

end Sys2Proof.Machine
end

