-- ==== Sys2Proof/Machine/Mem.lean ====
section
/-! DEFINITION. Sparse memories in canonical form, bytes and wider accesses over them (R3), and bit-field helpers. -/

namespace Sys2Proof.Machine

open Sys2Proof

/-- The value of a cell; an unlisted cell reads as zero. -/
def cellGet {w : Nat} : Store w → Nat → BitVec w
  | [], _ => 0
  | (a, b) :: r, k => if a = k then b else if k < a then 0 else cellGet r k

/-- Sets a cell and keeps the keys strictly rising and every listed cell non-zero. What `cellGet` reads is right in any list: where the
keys do not rise, the entries that stood hidden behind an erased one are dropped with it. -/
def cellSet {w : Nat} : Store w → Nat → BitVec w → Store w
  | [], k, v => if v = 0 then [] else [(k, v)]
  | (a, b) :: r, k, v =>
    if a = k then (if v = 0 then r.dropWhile (fun p => decide (p.1 ≤ k)) else (k, v) :: r)
    else if k < a then (if v = 0 then (a, b) :: r else (k, v) :: (a, b) :: r)
    else (a, b) :: cellSet r k v

/-- The cells in order: each key above the bound, no cell zero. -/
def cellsFrom {w : Nat} : Nat → Store w → Bool
  | _, [] => true
  | lo, (a, b) :: r => decide (lo ≤ a) && decide (b ≠ 0) && cellsFrom (a + 1) r

/-- The canonical form of a sparse memory. -/
def cellWf {w : Nat} (m : Store w) : Bool := cellsFrom 0 m

/-- The canonical form of byte memory. -/
def Memory.wf (m : Memory) : Bool := cellWf m

/-- Sets several cells in order; a later one prevails. -/
def cellSets {w : Nat} (m : Store w) : List (Nat × BitVec w) → Store w
  | [] => m
  | (k, v) :: r => cellSets (cellSet m k v) r

/-- `n` bytes from address `a` on. -/
def readBytes (m : Memory) (a : Nat) : Nat → List Byte
  | 0 => []
  | n + 1 => cellGet m a :: readBytes m (a + 1) n

/-- Little-endian value of a byte string (R3). -/
def leNat : List Byte → Nat
  | [] => 0
  | b :: r => b.toNat + 256 * leNat r

/-- The `n` little-endian bytes of a number. -/
def leBytes (v : Nat) : Nat → List Byte
  | 0 => []
  | n + 1 => BitVec.ofNat 8 v :: leBytes (v / 256) n

/-- Little-endian read of `n` bytes. -/
def readLe (m : Memory) (a n : Nat) : Nat := leNat (readBytes m a n)

/-- Pairs a byte string with the addresses from `a` on. -/
def atAddr (a : Nat) : List Byte → List (Nat × Byte)
  | [] => []
  | b :: r => (a, b) :: atAddr (a + 1) r

/-- Writes a byte string at `a`. -/
def writeBytes (m : Memory) (a : Nat) (bs : List Byte) : Memory := cellSets m (atAddr a bs)

/-- Replaces the bytes from `a` on by a byte string, in one pass. -/
def blit (m : Memory) (a : Nat) (bs : List Byte) : Memory :=
  m.filter (fun p => decide (p.1 < a)) ++ (atAddr a bs).filter (fun p => decide (p.2 ≠ 0))
    ++ m.filter (fun p => decide (a + bs.length ≤ p.1))

/-- Sign extension of the low `w` bits of a number (R74). -/
def sextNat (v w : Nat) : W64 := BitVec.ofInt 64 (let m := v % 2 ^ w; if 2 ^ (w - 1) ≤ m then (m : Int) - 2 ^ w else m)

/-- Bits [lo + n − 1 : lo] of a doubleword as a number. -/
def bitsOf {w : Nat} (v : BitVec w) (lo n : Nat) : Nat := (v.toNat >>> lo) % 2 ^ n

/-- A word with bits [lo + n − 1 : lo] replaced. -/
def setBits {w : Nat} (v : BitVec w) (lo n : Nat) (x : Nat) : BitVec w :=
  let mask : BitVec w := BitVec.ofNat w ((2 ^ n - 1) <<< lo)
  (v &&& ~~~mask) ||| BitVec.ofNat w ((x % 2 ^ n) <<< lo)

/-- Element `i` of width `n` of packed bits (R50). -/
def elemOf {w : Nat} (v : BitVec w) (n i : Nat) : Nat := bitsOf v (n * i) n

/-- Packed elements, element 0 lowest (R50). -/
def packNat (n : Nat) : List Nat → Nat
  | [] => 0
  | x :: r => x % 2 ^ n + 2 ^ n * packNat n r

/-- The numbers below `n`. -/
def upto (n : Nat) : List Nat := List.range n

/-- The bytes of a bit vector, byte 0 lowest. -/
def bytesOf {w : Nat} (v : BitVec w) : List Byte := leBytes v.toNat (w / 8)

/-- Puts an element before the first one that it does not follow. -/
def insertBy {α : Type} (le : α → α → Bool) (x : α) : List α → List α
  | [] => [x]
  | y :: r => if le x y then x :: y :: r else y :: insertBy le x r

/-- A list in the order `le`; equal elements keep their order. -/
def sortBy {α : Type} (le : α → α → Bool) : List α → List α
  | [] => []
  | x :: r => insertBy le x (sortBy le r)

/-- Saturating addition for counters of `w` bits. -/
def satAdd {w : Nat} (v : BitVec w) (n : Nat) : BitVec w := BitVec.ofNat w (min (2 ^ w - 1) (v.toNat + n))

end Sys2Proof.Machine
end

