-- ==== Sys2Proof/Machine/Firmware.lean ====
section
/-! DEFINITION. The boot program as the manual prints it, laid out by the assembler's rules, and its layout entries (21 R430, R432, 02 R40). -/

namespace Sys2Proof.Machine

open Sys2Proof

/-! ## The assembler's layout of a bundle (R40) -/

/-- No guard: p0 is true (R25). -/
def always : Ctl := ⟨false, false, 0⟩

/-- The guard (pn) of the first window (R25). -/
def whenP (n : BitVec 3) : Ctl := ⟨false, false, n⟩

/-- The slots of a bundle in source order, no-operations until there are four, the stop bit in the last (R40). -/
def layBundle (is : List Instr) : List (BitVec 32) :=
  let ws := is.map (fun i => (encode i).getD 0x01000000)
  let ws := ws ++ List.replicate (4 - ws.length) 0x01000000
  ws.dropLast ++ (ws.getLast?.toList).map (fun w => w ||| 0x80000000)

/-- The bytes of a program, bundle after bundle. -/
def layCode (bs : List (List Instr)) : List Byte := ((bs.map layBundle).flatten.map bytesOfWord).flatten

/-- A branch from a bundle to another, both by their place in the listing; every bundle of the boot program holds four words (R99). -/
def hop (here there : Nat) : BitVec 21 := BitVec.ofInt 21 (4 * ((there : Int) - here))

/-! ## The listing (R430) -/

/-- From `start` to the posted receives: bundles 0 to 14. -/
def bootStart : List (List Instr) :=
  [ [.rdw always 3 0x007, .ldh1 always 4 1],
    [.addi always 5 4 0x100, .addi always 6 4 0x110],
    [.addi always 7 4 0x120, .addi always 8 4 0x130, .ltld always 0 5, .ltld always 1 6],
    [.addi always 5 4 0x140, .ldi always 26 0xFFFF, .ltld always 2 7, .ltld always 3 8],
    [.cmp always 4 3 10 0, .ldh3 always 26 0, .ltld always 4 5],
    [.ldh2 always 26 0x10, .ldi always 13 4096],
    [.add always 24 26 0, .add always 25 26 0],
    [.ldh2 always 24 0x30, .ldh2 always 25 0x31],
    [.add always 18 10 0, .ldh2 always 15 0x10],
    [.ldh2 always 18 0x11, .ldi always 29 1],
    [.br (whenP 4) (hop 10 32)],
    [.recv always 22 26 0],
    [.recv always 20 24 2],
    [.recv always 21 25 3],
    [.ld always 11 4 3 0 0, .ld always 8 4 3 0 1] ]

/-- To the end of `last`: bundles 15 to 31, with fwd at 19, probe at 20, after at 25 and last at 31. -/
def bootForward : List (List Instr) :=
  [ [], [], [],
    [.addi always 7 11 1],
    [.st always 7 4 3 2, .st always 8 4 3 3, .addi always 12 3 1],
    [.cmp always 1 12 13 5, .or always 14 12 15],
    [.br (whenP 1) (hop 21 31)],
    [.sendR always 16 14 0 1],
    [.cmpi always 2 16 2 0],
    [.addi (whenP 2) 12 12 1, .br (whenP 2) (hop 24 20)],
    [.br (whenP 4) (hop 25 39)],
    [.or always 9 20 21, .call always (hop 26 42)],
    [.cmp always 3 6 8 0],
    [.sel always 19 29 0 3, .st always 6 4 3 4],
    [.st always 19 4 3 5],
    [.exit always],
    [.send always 0 18 0 1, .br always (hop 31 25)] ]

/-- The boot tile's part: bundles 32 to 41, with boot at 32 and bootend at 39. -/
def bootRoot : List (List Instr) :=
  [ [.add always 23 26 0, .ldi always 27 1],
    [.ldh2 always 23 0x11, .ldi always 28 1],
    [.recv always 30 23 4, .ldh2 always 27 0x30, .ldh2 always 28 0x31],
    [.call always (hop 35 42)],
    [.msend always 0 27 2, .add always 8 6 0, .ldi always 7 1],
    [.msend always 0 28 3, .st always 0 4 3 0, .st always 6 4 3 1],
    [.br always (hop 38 19)],
    [.add always 9 30 0],
    [.st always 6 4 3 4, .st always 29 4 3 5],
    [.exit always] ]

/-- `csum`: bundles 42 to 61, with cend at 51. -/
def bootSum : List (List Instr) :=
  [ [.ldi always 5 0, .ldi always 7 64, .vxor always 0 0 0 0],
    [.ldh1 always 5 4],
    [.loop always 7 28],
    [.vld always 1 5 0, .addi always 5 5 256],
    [], [], [], [], [],
    [.viadd always 0 0 1 0],
    [],
    [.virsum always 2 0 0],
    [], [], [], [], [], [], [],
    [.vextr always 6 2 0, .jr always 1] ]

/-- The boot program, from local address 0. -/
def bootCode : List Byte := layCode (bootStart ++ bootForward ++ bootRoot ++ bootSum)

/-- An entry of the table of layout entries, low doubleword first: 16 bytes. -/
def entryBytes (lo hi : W64) : List Byte := bytesOf lo ++ bytesOf hi

/-- The data section: sixty-four zeros from 0x1_0000, and lt0 to lt4 at 0x1_0100. -/
def bootData : List (Nat × List Byte) :=
  [ (0x10000, List.replicate 64 0),
    (0x10100, entryBytes 0x0000001002610000 1 ++ entryBytes 0x0000001002610010 1 ++ entryBytes 0x0100020020640000 1 ++ entryBytes 0x0100020020642000 1
      ++ entryBytes 0x0000001002610030 1) ]

end Sys2Proof.Machine
end

