-- ==== Sys2Proof/Config.lean ====
section
/-! DEFINITION. What an implementation fixes and the manual leaves open. Every opaque constant is a free value: no proof
can see it, and every statement holds whatever it is. -/

namespace Sys2Proof.Config

open Sys2Proof

/-- A fresh free value for each number of the counter State.free: old or new word of an unfenced fetch (R134), bytes of a
removed receive (R307), what the routers did to the trace (R398) (log 5). -/
opaque freeWord : Nat → W64

/-- The bits of VEXP2, VLOG2, VSINP and VTANH in F32 where R145 fixes no value: fixed functions of the source bits (R144, log 6). -/
opaque vexp2 : BitVec 32 → BitVec 32
opaque vlog2 : BitVec 32 → BitVec 32
opaque vsinp : BitVec 32 → BitVec 32
opaque vtanh : BitVec 32 → BitVec 32

/-- Which of the values within one ulp VRCP and VRSQ give, as a fixed function of the source bits (R144, log 6). -/
opaque vrcpPick : BitVec 32 → BitVec 2
opaque vrsqPick : BitVec 32 → BitVec 2

/-- Whether a byte that a halo row is landing on, or has landed on since the latest bundle issued, is found or left as it was before (R119,
R244, log 89): by the counter of free values and the place among such bytes. -/
opaque oldByte : Nat → Nat → Bool

/-- Module serial number and firmware build (R407). -/
opaque serial : W64
opaque build : BitVec 16

/-- Expander memory behind the ports, as an implementation has it. -/
opaque expander : Nat

/-- Bytes of the capacity tier present (R216, R409): up to 16 TiB (R19). -/
def capBytes : Nat := min expander (2 ^ 44)

/-- Whether an access meets an error of the expander, by the counter of free values (R224, R341, log 50). -/
opaque expanderFails : Nat → Bool

/-- How many parts, besides one, the input queue of a die's CXL port proxy holds (R224, log 91). -/
opaque proxyQueue : Nat → Nat

/-- The DRAM row of a 64-byte block of a quarry tile (R212, log 30). -/
opaque dramRow : Nat → Nat

/-- Whether a walker still holds an entry that it has cached, by the counter of free values and the level (R214, log 90). -/
opaque walkHolds : Nat → Nat → Bool

/-- Power draw and temperature as sampled, by sample number (R421). -/
opaque draw : Nat → BitVec 16
opaque temp : Nat → BitVec 8

/-- The budget k of 64 that the power controller sets, by setting number (R422). -/
opaque budget : Nat → Nat

/-- The skew of a die's copy of CYC against die 0's, in −1 to 1 as offset 0 to 2, so that any two copies are within 2 (R7). -/
opaque skew : Nat → BitVec 2

/-- The LZ4 block that the haul engine makes of a page, and the bytes of a state-record page by the counter of free values, whose layout is
not visible to programs (R337, R342, log 33). -/
opaque lz4Block : List Byte → List Byte
opaque stateByte : Nat → Nat → Byte

/-- The highest speed grade of a stack (R417, R419). -/
opaque topGrade : BitVec 8

/-- SHA-256, the firmware of a slot, and the digests of the two public keys that are in fuses (R418). -/
opaque sha256 : List Byte → BitVec 256
opaque firmware : Nat → List Byte
opaque fuseDigest : Nat → BitVec 256

/-- What a start finds in a firmware slot, by the number of the start (R418): the public key that goes with each of its two signatures, 0 for
RSASSA-PSS and 1 for ML-DSA-87, and whether that signature verifies under it. -/
opaque slotKey : Nat → Nat → Nat → List Byte
opaque verifies : Nat → Nat → Nat → Bool

/-- What a start finds, by the number of the start: whether the self test of a unit at a step fails, and the speed grade at which a stack
trains, if any (R417). -/
opaque unitFails : Nat → Nat → Nat → Bool
opaque trains : Nat → Nat → Option (BitVec 8)

/-- The image that the boot program delivers (R430). -/
opaque bootDelivers : List Byte

/-- The bank retest of a poisoned line fails (R405), by the counter of free values. -/
opaque retestFails : Nat → Bool

/-- The bytes that a start reads from a copy of the start record that was written, by the number of the start and the copy: 0 the latest, 1 the one
before (R419, log 79). -/
opaque flashRead : Nat → Nat → List Byte → List Byte

/-- The two signatures over an attestation report's other bytes (R418, R419). -/
opaque signatures : List Byte → List Byte

end Sys2Proof.Config
end

