-- ==== Sys2Proof/Machine/Float.lean ====
section
/-! DEFINITION. Number formats, exact arithmetic and rounding (03 R45 to R65). -/

namespace Sys2Proof.Machine

open Sys2Proof

/-- The fields and limits of a floating-point format (R46, R53). -/
structure FloatFmt where
  exp : Nat
  frac : Nat
  bias : Nat
  /-- largest finite magnitude, as bits -/
  top : Nat
  /-- infinity, where the format has one -/
  inf : Option Nat
  /-- canonical NaN, where the format has one (R48) -/
  nan : Option Nat
deriving DecidableEq, Repr

def fF64 : FloatFmt := ⟨11, 52, 1023, 0x7FEFFFFFFFFFFFFF, some 0x7FF0000000000000, some 0x7FF8000000000000⟩
def fF32 : FloatFmt := ⟨8, 23, 127, 0x7F7FFFFF, some 0x7F800000, some 0x7FC00000⟩
def fF16 : FloatFmt := ⟨5, 10, 15, 0x7BFF, some 0x7C00, some 0x7E00⟩
def fBF16 : FloatFmt := ⟨8, 7, 127, 0x7F7F, some 0x7F80, some 0x7FC0⟩
def fE4M3 : FloatFmt := ⟨4, 3, 7, 0x7E, none, some 0x7F⟩
def fE5M2 : FloatFmt := ⟨5, 2, 15, 0x7B, some 0x7C, some 0x7E⟩
def fE2M1 : FloatFmt := ⟨2, 1, 1, 7, none, none⟩
def fFX96 : FloatFmt := ⟨15, 80, 16383, 0x7FFEFFFFFFFFFFFFFFFFFFFF, some 0x7FFF00000000000000000000, some 0x7FFF80000000000000000000⟩

/-- Width of a float format. -/
def FloatFmt.width (f : FloatFmt) : Nat := 1 + f.exp + f.frac

/-- The element width of a format code (R45). -/
def codeWidth (c : Nat) : Nat :=
  match c with
  | 0 => 32 | 1 => 16 | 2 => 16 | 3 => 8 | 4 => 8 | 5 => 8 | 6 => 4 | 7 => 8 | 8 => 4 | 9 => 8 | 10 => 4 | 11 => 64 | 12 => 32
  | 13 => 16 | 14 => 32 | _ => 0

/-- The float element format of a code; for the block-scaled codes that of the element (R51). -/
def codeFloat (c : Nat) : Option FloatFmt :=
  match c with
  | 0 => some fF32 | 1 => some fBF16 | 2 => some fF16 | 3 => some fE4M3 | 4 => some fE5M2 | 5 => some fE4M3 | 6 => some fE2M1
  | 11 => some fF64 | _ => none

/-- The integer formats: width and signedness (R49). -/
def codeInt (c : Nat) : Option (Nat × Bool) :=
  match c with
  | 9 => some (8, true) | 10 => some (4, true) | 12 => some (32, true) | 13 => some (16, true) | 14 => some (32, false) | _ => none

/-- The codes of the MX formats (R51). -/
def isMx (c : Nat) : Bool := c = 5 || c = 6

/-- The value of the bits of a float element (R47). -/
def floatVal (f : FloatFmt) (bits : Nat) : Num :=
  let b := bits % 2 ^ f.width
  let neg : Bool := decide (2 ^ (f.width - 1) ≤ b)
  let mag := b % 2 ^ (f.width - 1)
  if f.top < mag then
    (if f.inf = some mag then .inf neg else .nan)
  else
    let e := mag / 2 ^ f.frac
    let fr := mag % 2 ^ f.frac
    if e = 0 then .fin neg fr (1 - (f.bias : Int) - f.frac)
    else .fin neg (2 ^ f.frac + fr) ((e : Int) - f.bias - f.frac)

/-- The value of a two's-complement or unsigned integer of `w` bits (R49). -/
def intVal (w : Nat) (signed : Bool) (bits : Nat) : Int :=
  let b := bits % 2 ^ w
  if signed && decide (2 ^ (w - 1) ≤ b) then (b : Int) - 2 ^ w else b

/-- An integer as an exact number; zero is +0 (R64). -/
def numOfInt (i : Int) : Num := .fin (decide (i < 0)) i.natAbs 0

/-- The signed integer m × 2^e of a finite number with e ≥ 0. -/
def numToInt : Num → Int
  | .fin neg m e => let v : Int := (m : Int) * 2 ^ e.toNat; if neg then -v else v
  | _ => 0

/-- The sum of two exact numbers; `rdn` says that an exact zero sum of opposite signs is −0 (R68, R143). -/
def numAdd (rdn : Bool) : Num → Num → Num
  | .nan, _ => .nan
  | _, .nan => .nan
  | .inf s, .inf t => if s = t then .inf s else .nan
  | .inf s, _ => .inf s
  | _, .inf t => .inf t
  | .fin s m e, .fin t n g =>
    if m = 0 ∧ n = 0 then (if s = t then .fin s 0 0 else .fin rdn 0 0) else
    let lo := min e g
    let a : Int := (m : Int) * 2 ^ (e - lo).toNat
    let b : Int := (n : Int) * 2 ^ (g - lo).toNat
    let v := (if s then -a else a) + (if t then -b else b)
    if v = 0 then .fin rdn 0 0 else .fin (decide (v < 0)) v.natAbs lo

/-- The exact product (R68, R143). -/
def numMul : Num → Num → Num
  | .nan, _ => .nan
  | _, .nan => .nan
  | .inf s, .inf t => .inf (s != t)
  | .inf s, .fin t m _ => if m = 0 then .nan else .inf (s != t)
  | .fin s m _, .inf t => if m = 0 then .nan else .inf (s != t)
  | .fin s m e, .fin t n g => .fin (s != t) (m * n) (e + g)

def numNeg : Num → Num
  | .nan => .nan
  | .inf s => .inf (!s)
  | .fin s m e => .fin (!s) m e

def numIsNan : Num → Bool
  | .nan => true
  | _ => false

def numIsZero : Num → Bool
  | .fin _ m _ => m = 0
  | _ => false

/-- −1, 0 or 1 as the first number is below, equal to or above the second; neither is a NaN; −0 equals +0. -/
def numCmp (a b : Num) : Int :=
  match a, b with
  | .inf s, .inf t => if s = t then 0 else if s then -1 else 1
  | .inf s, _ => if s then -1 else 1
  | _, .inf t => if t then 1 else -1
  | .fin s m e, .fin t n g =>
    let lo := min e g
    let x : Int := (m : Int) * 2 ^ (e - lo).toNat
    let y : Int := (n : Int) * 2 ^ (g - lo).toNat
    let v := (if s then -x else x) - (if t then -y else y)
    if v < 0 then -1 else if v = 0 then 0 else 1
  | _, _ => 0

/-- The rounding modes of RMODE.MODE (R55). -/
inductive Rnd where
  | rne | rtz | rdn | rup | rna
  /-- stochastic, with its 16 random bits -/
  | sr (r : Nat)
deriving DecidableEq, Repr

/-- Rounds m × 2^(−s) to an integer; `neg` is the sign of the whole (R57). -/
def roundShift (mode : Rnd) (neg : Bool) (m s : Nat) : Nat :=
  let q := m >>> s
  let r := m % 2 ^ s
  if r = 0 then q else
  let half := 2 ^ (s - 1)
  match mode with
  | .rne => if half < r ∨ (half = r ∧ q % 2 = 1) then q + 1 else q
  | .rna => if half ≤ r then q + 1 else q
  | .rtz => q
  | .rdn => if neg then q + 1 else q
  | .rup => if neg then q else q + 1
  | .sr x => (m * 65536 + x * 2 ^ s) >>> (s + 16)

/-- Overflow of a float target (R60): magnitude bits and sign. -/
def overflowBits (f : FloatFmt) (mode : Rnd) (sat neg : Bool) : Nat :=
  let sign := if neg then 2 ^ (f.width - 1) else 0
  match f.inf with
  | none => match f.nan with
    | some n => if sat then sign + f.top else n
    | none => sign + f.top
  | some i =>
    if sat then sign + f.top else
    match mode with
    | .rtz => sign + f.top
    | .rdn => if neg then sign + i else f.top
    | .rup => if neg then sign + f.top else i
    | _ => sign + i

/-- The bits of an exact number rounded into a float format (R57, R60, R61). -/
def roundTo (f : FloatFmt) (mode : Rnd) (sat : Bool) : Num → Nat
  | .nan => f.nan.getD 0
  | .inf neg =>
    let sign := if neg then 2 ^ (f.width - 1) else 0
    match f.inf with
    | some i => sign + i
    | none => if sat then sign + f.top else f.nan.getD (sign + f.top)
  | .fin neg m e =>
    let sign := if neg then 2 ^ (f.width - 1) else 0
    if m = 0 then sign else
    let top : Int := (Nat.log2 m : Int) + e
    let q : Int := max top (1 - (f.bias : Int)) - f.frac
    let mag := if q ≤ e then m <<< (e - q).toNat else roundShift mode neg m (q - e).toNat
    let bits := mag + (q + f.frac + f.bias - 1).toNat * 2 ^ f.frac
    if f.top < bits then overflowBits f mode sat neg else sign + bits

/-- An exact finite number rounded to an integer (R57 with q = 1). -/
def roundInt (mode : Rnd) : Num → Int
  | .fin neg m e =>
    let v := if 0 ≤ e then m <<< e.toNat else roundShift mode neg m (-e).toNat
    if neg then -(v : Int) else v
  | _ => 0

/-- The ends of an integer format. -/
def intLo (w : Nat) (signed : Bool) : Int := if signed then -(2 ^ (w - 1) : Nat) else 0
def intHi (w : Nat) (signed : Bool) : Int := if signed then (2 ^ (w - 1) : Nat) - 1 else (2 ^ w : Nat) - 1

def clampInt (w : Nat) (signed : Bool) (i : Int) : Int := max (intLo w signed) (min (intHi w signed) i)

/-- The low `w` bits of an integer. -/
def intBits (w : Nat) (i : Int) : Nat := (i % (2 ^ w : Nat)).toNat

/-- A float to an integer target, always clamped (R62). -/
def toIntBits (w : Nat) (signed : Bool) (mode : Rnd) : Num → Nat
  | .nan => 0
  | .inf neg => intBits w (if neg then intLo w signed else intHi w signed)
  | n => intBits w (clampInt w signed (roundInt mode n))

/-- An integer to an integer target (R63). -/
def narrowInt (w : Nat) (signed sat : Bool) (i : Int) : Nat := intBits w (if sat then clampInt w signed i else i)

/-- A source value of a conversion: an exact float or an integer (R61 to R64). -/
inductive Src where
  | flt (n : Num)
  | int (i : Int)
deriving DecidableEq, Repr

/-- A conversion into a plain format code (R61 to R64). -/
def convert (code : Nat) (mode : Rnd) (sat : Bool) (s : Src) : Nat :=
  match codeInt code with
  | some (w, sg) => match s with
    | .flt n => toIntBits w sg mode n
    | .int i => narrowInt w sg sat i
  | none => match codeFloat code with
    | some f => match s with
      | .flt n => roundTo f mode sat n
      | .int i => roundTo f mode sat (numOfInt i)
    | none => 0

/-- The integer square root, bit by bit. -/
def isqrtFrom (m : Nat) : Nat → Nat → Nat
  | 0, r => r
  | i + 1, r => let r' := r + 2 ^ i; isqrtFrom m i (if r' * r' ≤ m then r' else r)

def isqrt (m : Nat) : Nat := isqrtFrom m (Nat.log2 m / 2 + 1) 0

/-- The quotient with a sticky bit below `k` bits of precision: it rounds as the exact quotient does. -/
def numDiv (k : Nat) : Num → Num → Num
  | .nan, _ => .nan
  | _, .nan => .nan
  | .inf _, .inf _ => .nan
  | .inf s, .fin t _ _ => .inf (s != t)
  | .fin s _ _, .inf t => .fin (s != t) 0 0
  | .fin s m e, .fin t n g =>
    if n = 0 then (if m = 0 then .nan else .inf (s != t)) else
    if m = 0 then .fin (s != t) 0 0 else
    let j := k + Nat.log2 n + 1
    let a := m <<< j
    .fin (s != t) (2 * (a / n) + (if a % n = 0 then 0 else 1)) (e - g - j - 1)

/-- The square root with a sticky bit (R145). -/
def numSqrt (k : Nat) : Num → Num
  | .nan => .nan
  | .inf s => if s then .nan else .inf false
  | .fin s m e =>
    if m = 0 then .fin s 0 0 else
    if s then .nan else
    let odd : Nat := (e % 2).toNat
    let a := (m <<< odd) <<< (2 * k)
    let r := isqrt a
    .fin false (2 * r + (if r * r = a then 0 else 1)) ((e - odd) / 2 - k - 1)

/-- One step of the stochastic-rounding generator: the new state and its 16 bits (R57). -/
def nextRandom (s : W64) : W64 × Nat :=
  let a := s ^^^ (s <<< 13)
  let b := a ^^^ (a >>> 7)
  let c := b ^^^ (b <<< 17)
  (c, bitsOf c 48 16)

/-- RMODE.MODE as a rounding mode; SR takes the bits given (R55). -/
def modeOf (rmode : W64) (r : Nat) : Rnd :=
  match bitsOf rmode 0 3 with
  | 0 => .rne | 1 => .rtz | 2 => .rdn | 3 => .rup | 4 => .rna | _ => .sr r

def isSr (rmode : W64) : Bool := bitsOf rmode 0 3 = 5

end Sys2Proof.Machine
end

