-- ==== Sys2Proof/Machine/Ops.lean ====
section
/-! DEFINITION. The named operations over registers, control words, SRAM, packets and records, the landing of results,
taking a trap and returning from one. -/

namespace Sys2Proof.Machine

open Sys2Proof

/-! ## The tile in focus -/

/-- Brings the tile of a site into focus; leaves the state as it is where no such tile exists. -/
def focus (site : Nat) (s : State) : State :=
  if s.tile.site = site then s else
  match s.rest.find? (fun t => t.site = site) with
  | some t => { s with tile := t, rest := s.tile :: s.rest.filter (fun u => u.site ≠ site) }
  | none => s

/-- The tile of a site. -/
def tileAt (s : State) (site : Nat) : Option Tile :=
  if s.tile.site = site then some s.tile else s.rest.find? (fun t => t.site = site)

/-- Changes the tile of a site, in focus or not. -/
def mapTile (s : State) (site : Nat) (f : Tile → Tile) : State :=
  if s.tile.site = site then { s with tile := f s.tile }
  else { s with rest := s.rest.map (fun t => if t.site = site then f t else t) }

/-- Changes every tile of a partition. -/
def mapPartn (s : State) (pid : Nat) (f : Tile → Tile) : State :=
  { s with tile := if s.tile.pid = pid then f s.tile else s.tile, rest := s.rest.map (fun t => if t.pid = pid then f t else t) }

def allTiles (s : State) : List Tile := s.tile :: s.rest

def partnTiles (s : State) (pid : Nat) : List Tile := (allTiles s).filter (fun t => t.pid = pid)

def partnOf (s : State) (pid : Nat) : Option Partn := s.partns.find? (fun p => p.pid = pid)

def mapPart (s : State) (pid : Nat) (f : Partn → Partn) : State :=
  { s with partns := s.partns.map (fun p => if p.pid = pid then f p else p) }

/-- A partition is halted as a whole: its gang stop has come (R250, R385). -/
def partnHalted (s : State) (pid : Nat) : Bool := match partnOf s pid with
  | some p => match p.halt with
    | some h => decide (h + 64 ≤ s.cyc)
    | none => false
  | none => false

/-! ## Registers (R71, R120, R135) -/

def xGet (th : Thread) (r : Reg) : W64 := if r = 0 then 0 else cellGet th.x r.toNat

/-- Writes a scalar register; x0 discards the write. `tok` says that the value is a completion word. -/
def xPut (th : Thread) (r : Reg) (v : W64) (tok : Bool) : Thread :=
  if r = 0 then th else
  { th with x := cellSet th.x r.toNat v, tokw := setBits th.tokw r.toNat 1 (if tok then 1 else 0) }

def pGet (th : Thread) (n : Nat) : Bool := n = 0 || th.p.getLsbD n

def pPut (th : Thread) (n : Nat) (v : Bool) : Thread :=
  if n = 0 then th else { th with p := setBits th.p n 1 (if v then 1 else 0) }

def vGet (th : Thread) (r : Reg) : BitVec 2048 := cellGet th.v r.toNat

def mGet (th : Thread) (r : BitVec 3) : W64 := if r = 0 then BitVec.allOnes 64 else cellGet th.m r.toNat

def ltGet (th : Thread) (n : Nat) : BitVec 128 := cellGet th.lt n

/-- A group of 64 predicates as PRDG reads it (R89); p0 reads as 1. -/
def pGroup (th : Thread) (g : Nat) : W64 :=
  BitVec.ofNat 64 (bitsOf th.p (64 * g) 64) ||| (if g = 0 then 1 else 0)

def isPend (th : Thread) (r : Nat) : Bool := decide (r ≠ 0) && th.pend.getLsbD r

/-! ## Control words (R91 to R95 and the maps of the class chapters) -/

/-- The words that belong to the task (R274, R279). -/
def cwOfTask (n : Nat) : Bool :=
  [0x000, 0x001, 0x002, 0x004, 0x006, 0x008, 0x020, 0x021, 0x040, 0x041, 0x070, 0x071, 0x111].contains n

/-- Access classes of R8. -/
inductive CwClass where
  | u | ur | s | d
deriving DecidableEq, Repr

/-- The class of an assigned control word. -/
def cwClass (n : Nat) : Option CwClass :=
  if [0x000, 0x001, 0x002, 0x008, 0x010, 0x020, 0x021, 0x032, 0x050, 0x051, 0x052, 0x053].contains n then some .u
  else if [0x003, 0x004, 0x005, 0x006, 0x007, 0x011, 0x012, 0x013, 0x014, 0x015, 0x016, 0x017, 0x022, 0x023, 0x030, 0x031, 0x033,
    0x034, 0x035, 0x040, 0x041, 0x060, 0x061, 0x062, 0x070, 0x071].contains n then some .ur
  else if [0x100, 0x101, 0x102, 0x103, 0x104, 0x105, 0x106, 0x107, 0x110, 0x111, 0x120].contains n then some .s
  else if 0x200 ≤ n ∧ n ≤ 0x20E then some .d
  else none

/-- The stored value of a control word. -/
def cwGet (t : Tile) (n : Nat) : W64 := if cwOfTask n then cellGet t.th.cw n else cellGet t.cw n

/-- Stores a control word as it stands, without its access rules. -/
def cwPut (t : Tile) (n : Nat) (v : W64) : Tile :=
  if cwOfTask n then { t with th := { t.th with cw := cellSet t.th.cw n v } } else { t with cw := cellSet t.cw n v }

/-- The die of a site (R13). -/
def dieOf (site : Nat) : Nat := (site % 128) / 16 + 8 * ((site / 128) / 16)

/-- The fabric cycle as the copy of a site's die counts it (R7, R95). -/
def dieCyc (s : State) (site : Nat) : Nat := s.cyc + (Config.skew (dieOf site)).toNat % 3

/-- CYC at a site. -/
def cycAt (s : State) (site : Nat) : W64 := BitVec.ofNat 64 (dieCyc s site)

/-- The cycle at the tile in focus. -/
def hereCyc (s : State) : Nat := dieCyc s s.tile.site

/-- The value that RDW reads (R91): views of state held elsewhere, else the stored word. -/
def cwRead (s : State) (n : Nat) : W64 :=
  let t := s.tile
  if n = 0x000 then cwGet t 0 ||| (if t.th.pfx.isSome then 1 else 0)
  else if n = 0x003 then cycAt s t.site
  else if n = 0x106 then BitVec.ofNat 64 t.ltsb.length
  else cwGet t n

/-- A word with the bits of `mask` taken from `v`. -/
def merge (old v mask : W64) : W64 := (old &&& ~~~mask) ||| (v &&& mask)

/-- The value a control word takes when `v` is written to it: read-only and reserved bits ignore the write, W1C bits clear
where `v` is 1 (R91, R4). -/
def cwWritten (old : W64) (n : Nat) (v : W64) : W64 :=
  match n with
  | 0x000 => merge (old &&& ~~~(v &&& 2)) v 0xFC
  | 0x001 => (v &&& 8) ||| (if bitsOf v 0 3 < 6 then v &&& 7 else 0)
  | 0x002 => if v = 0 then 0x5A17C3E90B6D2481 else v
  | 0x008 => v &&& 0x1FFFFFFFF
  | 0x010 => v &&& 0x1FF000
  | 0x020 => v &&& 0xFFFF
  | 0x021 => v &&& 0xFFFFFFFF
  | 0x032 => v
  | 0x050 => (old &&& ~~~v &&& 0x8000000000000000) ||| (v &&& 0xFFFFFFFF)
  | 0x051 => (old &&& ~~~v &&& 0x8000000000000000) ||| (v &&& 0xFFFFFFFF)
  | 0x052 => (old &&& ~~~v &&& 0x8000000000000000) ||| (v &&& 0xFFFFFFFF)
  | 0x053 => (old &&& ~~~v &&& 0x8000000000000000) ||| (v &&& 0xFFFFFFFF)
  | 0x100 => v &&& 0xFF
  | 0x101 => v &&& 0x1FFFFF
  | 0x102 => v
  | 0x103 => v &&& 0x1FFFFD
  | 0x104 => merge (old &&& ~~~(v &&& 0x80000)) v 0x600FC
  | 0x105 => v
  | 0x107 => v &&& 0xF
  | 0x110 => v &&& 0xFFFF0003
  | 0x111 => v &&& 0xFFFF
  | 0x120 => let w := v &&& 0xC0F0FFFFFFFF0000; if 6 ≤ bitsOf v 52 4 then w &&& 0x7FFFFFFFFFFFFFFF else w
  | _ => old

/-- The trace of a tile as its sink is to hold it, under TRCCTL `ctl` (R397). -/
def sinkOf (t : Tile) (ctl : W64) : Sink :=
  { ctl := ctl, words := t.dbg.queue, off := t.dbg.toff, wrap := t.dbg.twrap, base := t.dbg.tbase, full := t.dbg.tfull }

/-- A write to TRCCTL that sets EN resets the sink's position and opens the time base; one that clears it hands the records held to a flush into the
sink that they belong to (R395). -/
def traceOpen (t : Tile) (old new : W64) (now : Nat) : Tile :=
  if old.getLsbD 63 = false ∧ new.getLsbD 63 = true then
    { t with dbg := { t.dbg with toff := 64, twrap := 0, tfull := false, tbase := now, tlast := now, queue := [] } }
  else if old.getLsbD 63 = true ∧ new.getLsbD 63 = false then
    { t with dbg := { t.dbg with queue := [], flush := t.dbg.flush ++ [sinkOf t old] } }
  else t

/-- The effect of a control-word write, with what the owning chapter adds to it (R91). -/
def cwWrite (t : Tile) (n : Nat) (v : W64) (now : Nat) : Tile :=
  let old := cwGet t n
  let new := cwWritten old n v
  let t := cwPut t n new
  if n = 0x120 then traceOpen t old new now
  else if n = 0x104 ∧ old.getLsbD 18 = false ∧ new.getLsbD 18 = true then { t with disp := { t.disp with maskLeft := 4096 } }
  else t

def statusBit (t : Tile) (b : Nat) : Bool := (cwGet t 0).getLsbD b
/-- STATUS.OPT: the partition is optimistic (R93). -/
def isOpt (t : Tile) : Bool := statusBit t 8

/-! ## The SRAM map (R113 to R117) -/

def regionBase (t : Tile) (n : Nat) : Nat := bitsOf (cwGet t n) 0 21
def regionSize (t : Tile) (n : Nat) : Nat := bitsOf (cwGet t n) 32 22
/-- The reserved floor: the base of the hamper. -/
def floorOf (t : Tile) : Nat := regionBase t 0x012
def xbOf (t : Tile) : Nat := (cwGet t 0x010).toNat

/-- A range of `n` bytes passes the check of R117 for the mode given. -/
def rangeOk (t : Tile) (sup : Bool) (ea : Int) (n : Nat) : Bool :=
  n = 0 || (decide ((xbOf t : Int) ≤ ea) && decide (ea + n ≤ if sup then 0x200000 else (floorOf t : Int)))

/-! ## SRAM writes: trail, bench copy, poison, canonical bytes (R301, R337, R399) -/

def lineOf (a : Nat) : Nat := a / 64

/-- The 64 bytes of a line as one number (R301). -/
def lineGet (m : Memory) (l : Nat) : BitVec 512 := BitVec.ofNat 512 (readLe m (64 * l) 64)

/-- The number of the current segment, 0 before the first waymark (R299). -/
def curSeg (t : Tile) : Nat := match t.vt.segs with
  | [] => 0
  | g :: _ => g.no

/-- The bench copy of a line before its first change after the cut; a line under a held W span of a pre-cut operation takes the
changes (R337). -/
def benchLine (t : Tile) (l : Nat) : Tile :=
  match t.bench.cap with
  | none => t
  | some c =>
    if c.done ∨ l < c.sweep ∨ c.copied.any (fun p => p.1 = l)
      ∨ t.eng.ranges.any (fun r => c.pre.contains r.id && r.write && decide (r.first ≤ l) && decide (l ≤ r.last)) then t
    else { t with bench := { t.bench with cap := some { c with copied := (l, lineGet t.mem l) :: c.copied } } }

/-- Distinct lines of a list of byte writes, in order. -/
def linesOf (bs : List (Nat × Byte)) : List Nat := (bs.map (fun p => lineOf p.1)).dedup

/-- The aligned 8-byte words that a list of writes covers whole (R399). -/
def wholeWords (bs : List (Nat × Byte)) : List Nat :=
  ((bs.map (fun p => p.1 / 8)).dedup).filter (fun w => (upto 8).all (fun i => bs.any (fun p => p.1 = 8 * w + i)))

/-- Engine bytes written into a reserved region: no trail record (R301); words written whole lose their bad bits (R399). -/
def regionWrite (t : Tile) (a : Nat) (bs : List Byte) : Tile :=
  let t := ((upto (bs.length / 64 + 1)).map (fun i => lineOf a + i)).foldl benchLine t
  let whole (w : Nat) : Bool := decide (a ≤ 8 * w) && decide (8 * w + 8 ≤ a + bs.length)
  { t with mem := blit t.mem a bs, poison := t.poison.filter (fun w => !whole w), soft := t.soft.filter (fun p => !whole p.1) }

/-- The trail records of a waymark's frame (R301). -/
def frameRecords (m : Waymark) : Nat :=
  let v := cellGet m.th.cw 0x008
  7 + (if v.getLsbD 32 then 1 else 0) + 4 * (upto 32).countP (fun i => v.getLsbD i)

def segRecords (g : Segment) : Nat := g.lines.length + frameRecords g.mark

/-- The trail: its capacity in records of 80 bytes, the records held, and those free (R301). -/
def trailCap (t : Tile) : Nat := regionSize t 0x013 / 80
def trailUsed (t : Tile) : Nat := t.vt.segs.foldl (fun n g => n + segRecords g) 0
def trailFree (t : Tile) : Nat := trailCap t - trailUsed t

/-- Record `k` of those held is written into the ring (R301): its address or offset, its kind, its segment's number and its data. -/
def trailRecord (t : Tile) (k place kind seg : Nat) (data : List Byte) : Tile :=
  if trailCap t = 0 then t else regionWrite t (regionBase t 0x013 + 80 * ((t.vt.trailTail + k) % trailCap t))
    (leBytes place 4 ++ leBytes kind 2 ++ leBytes 0 2 ++ leBytes (seg % 2 ^ 32) 4 ++ leBytes 0 4 ++ data)

/-- The kind-1 record of a line's first change after the newest waymark (R301); poisoned words are copied with their poison (R399). -/
def trailLine (t : Tile) (l : Nat) : Tile :=
  match t.vt.segs with
  | [] => t
  | g :: r =>
    if g.lines.any (fun p => p.1 = l) then t
    else
      let old := lineGet t.mem l
      let t := trailRecord t (trailUsed t) (64 * l) 1 g.no (leBytes old.toNat 64)
      { t with vt := { t.vt with segs := { g with lines := (l, old) :: g.lines, bad := g.bad ++ t.poison.filter (fun w => w / 8 = l) } :: r } }

/-- Writes bytes of SRAM. `trail` makes trail records in an optimistic partition; bench copies are made always. The words `ws` are written
whole and lose their bad bits (R399); a byte of another poisoned word is written and the word stays poisoned. No load finds the value that a
halo row has overwritten there any more (R36). -/
def sramPut (t : Tile) (trail : Bool) (ws : List Nat) (bs : List (Nat × Byte)) : Tile :=
  let ls := linesOf bs
  let t := if trail && isOpt t then ls.foldl trailLine t else t
  let t := ls.foldl benchLine t
  { t with mem := cellSets t.mem bs,
           poison := if t.poison = [] then [] else t.poison.filter (fun w => !ws.contains w),
           soft := if t.soft = [] then [] else t.soft.filter (fun p => !ws.contains p.1),
           haloOld := if t.haloOld = [] then [] else t.haloOld.filter (fun h => !bs.any (fun b => b.1 = h.addr)) }

/-- One write: the words that its bytes cover are written whole. -/
def sramWrite (t : Tile) (trail : Bool) (bs : List (Nat × Byte)) : Tile := sramPut t trail (wholeWords bs) bs

/-! ## Completion words (R37, R126, R199, R274) -/

/-- The completion word of R199. -/
def compWord (err : Bool) (code : Nat) (trunc oob canc : Bool) (handle bytes : Nat) : W64 :=
  BitVec.ofNat 64 ((if err then 2 ^ 63 else 0) + (code % 128) * 2 ^ 56 + (if trunc then 2 ^ 55 else 0) + (if oob then 2 ^ 54 else 0)
    + (if canc then 2 ^ 53 else 0) + (handle % 65536) * 2 ^ 32 + bytes % 2 ^ 32)

def compOk (bytes : Nat) : W64 := compWord false 0 false false false 0 bytes
def compErr (code bytes : Nat) : W64 := compWord true code false false false 0 bytes

/-- A scalar result is in flight to the register. -/
def xFlying (fs : List Flight) (r : Reg) : Bool :=
  fs.any (fun f => match f.res with
    | .x q _ => q = r
    | _ => false)

/-- Writes the token register of a task's context: behind a fixed-latency result still in flight it waits (R37). -/
def tokPut (th : Thread) (r : Reg) (w : W64) (tok : Bool) : Thread :=
  if r = 0 then th
  else if xFlying th.flights r then { th with late := th.late ++ [(r, w, tok)] }
  else { xPut th r w tok with pend := setBits th.pend r.toNat 1 0 }

/-- Words whose fixed-latency result has landed are written (R37). -/
def settleLate (th : Thread) : Thread :=
  let ready := th.late.filter (fun p => !xFlying th.flights p.1)
  ready.foldl (fun a p => { xPut a p.1 p.2.1 p.2.2 with pend := setBits a.pend p.1.toNat 1 0 })
    { th with late := th.late.filter (fun p => xFlying th.flights p.1) }

def readyPri : Ready → Nat
  | .fresh r _ => r.pri
  | .parked _ p _ => p
  | .saved p _ => p

/-- Entries by priority, then by the cycle in which they became ready. -/
def insertReady (q : List Ready) (r : Ready) : List Ready :=
  q.takeWhile (fun x => decide (readyPri r ≤ readyPri x)) ++ [r] ++ q.dropWhile (fun x => decide (readyPri r ≤ readyPri x))

/-- The parked task that waits by SUSPEND for a register becomes ready (R291). -/
def wakeFrame (d : Dispatcher) (f : Frame) (r : Reg) (now : Nat) : Dispatcher :=
  if f.wait ≠ 0 ∧ f.wait = r then
    { d with ready := insertReady d.ready (.parked f.no (bitsOf (cellGet f.th.cw 6) 0 4) now),
             frames := d.frames.map (fun g => if g.no = f.no then { g with wait := 0 } else g) }
  else d

/-- A word for register `r` of a frame laid out as in R274 at `base`: the register's slot, and its bit of the pending mask, in the byte `rd`
reads, clears. -/
def frameCells (rd : Nat → Byte) (base : Nat) (r : Reg) (w : W64) : List (Nat × Byte) :=
  let mask := base + 0x18 + r.toNat / 8
  atAddr (base + 0x20 + 8 * r.toNat) (leBytes w.toNat 8) ++ [(mask, setBits (rd mask) (r.toNat % 8) 1 0)]

/-- A word written into a frame in SRAM (R274). -/
def framePoke (t : Tile) (base : Nat) (r : Reg) (w : W64) : Tile := sramWrite t false (frameCells (cellGet t.mem) base r w)

/-- The address of a parked frame in the deque region (R271), and of the frame in the context save area (R279). -/
def frameBase (t : Tile) (no : Nat) : Nat := regionBase t 0x014 + 0x2000 + 1024 * no
def csaFrame (t : Tile) : Nat := regionBase t 0x015 + 0x26000

/-- A line as the image of a capture holds it: copied by the sweep, copied before a change, or still the live one (R337). -/
def imageLine (m : Memory) (c : Capture) (l : Nat) : BitVec 512 :=
  if l < c.sweep then lineGet c.img l else match c.copied.find? (fun p => p.1 = l) with
    | some p => p.2
    | none => lineGet m l

def imageByte (m : Memory) (c : Capture) (a : Nat) : Byte := BitVec.ofNat 8 (bitsOf (imageLine m c (lineOf a)) (8 * (a % 64)) 8)

/-- Bytes written into the image only (R332). -/
def imagePut (m : Memory) (c : Capture) (bs : List (Nat × Byte)) : Capture :=
  (linesOf bs).foldl (fun c l =>
    let mine := bs.filter (fun p => lineOf p.1 = l)
    if l < c.sweep then { c with img := cellSets c.img mine }
    else
      let v := mine.foldl (fun v p => setBits v (8 * (p.1 % 64)) 8 p.2.toNat) (imageLine m c l)
      { c with copied := (l, v) :: c.copied.filter (fun p => p.1 ≠ l) }) c

/-- The completion word of a pre-cut operation in an image: in its running task, in a parked frame, whose task may become ready by it, or in
the saved context (R274, R291, R332). -/
def imageTok (t : Tile) (c : Capture) (uid : Nat) (r : Reg) (w : W64) (tok : Bool) (now : Nat) : Capture :=
  let poke (base : Nat) (c : Capture) : Capture := imagePut t.mem c (frameCells (imageByte t.mem c) base r w)
  if c.th.uid = uid then { c with th := tokPut c.th r w tok }
  else match c.disp.frames.find? (fun f => f.th.uid = uid) with
    | some f =>
      let d := { c.disp with frames := c.disp.frames.map (fun g => if g.no = f.no then { g with th := tokPut g.th r w tok } else g) }
      poke (frameBase t f.no) { c with disp := wakeFrame d f r now }
    | none => match c.disp.csa with
      | some (th, k) => if th.uid = uid then poke (csaFrame t) { c with disp := { c.disp with csa := some (tokPut th r w tok, k) } } else c
      | none => c

/-- The completion word of a pre-cut operation is written into the image too (R332). -/
def imageWord (t : Tile) (uid : Nat) (r : Reg) (w : W64) (tok : Bool) (now : Nat) : Tile :=
  match t.bench.cap with
  | none => t
  | some c =>
    if c.waitRegs.contains (uid, r) then
      { t with bench := { t.bench with cap := some (imageTok t { c with waitRegs := c.waitRegs.erase (uid, r) } uid r w tok now) } }
    else t

/-- An engine writes a completion word for register `r` of task `uid` (R199, R209, R274); a task that has exited leaves it
discarded (R292). `tok` is false for the words of PROBE, which are no completion words. -/
def complete (t : Tile) (uid : Nat) (r : Reg) (w : W64) (tok : Bool) (now : Nat) : Tile :=
  if r = 0 then t
  else
    let t := imageWord t uid r w tok now
    if t.th.uid = uid then { t with th := tokPut t.th r w tok }
    else
      match t.disp.frames.find? (fun f => f.th.uid = uid) with
      | some f =>
        let f' := { f with th := tokPut f.th r w tok }
        let d := { t.disp with frames := t.disp.frames.map (fun g => if g.no = f.no then f' else g) }
        framePoke { t with disp := wakeFrame d f r now } (frameBase t f.no) r w
      | none =>
        match t.disp.csa with
        | some (th, k) =>
          if th.uid = uid then framePoke { t with disp := { t.disp with csa := some (tokPut th r w tok, k) } } (csaFrame t) r w else t
        | none => t

/-! ## Landing of results (R34, R37) -/

/-- The cell of a row that an exact sum is added to, or the sum itself, rounded to nearest even or wrapped (R67). -/
def cellOf (int : Bool) (n : Num) : BitVec 96 :=
  if int then BitVec.ofInt 96 (numToInt n) else BitVec.ofNat 96 (roundTo fFX96 .rne false n)

def cellNum (int : Bool) (c : BitVec 96) : Num :=
  if int then numOfInt c.toInt else floatVal fFX96 c.toNat

/-- The 64 cells of a row. -/
def rowGet (th : Thread) (k : Nat) : List (BitVec 96) := (upto 64).map (fun n => cellGet th.acc (64 * k + n))

def rowPut (th : Thread) (k : Nat) (cells : List (BitVec 96)) : Thread :=
  { th with acc := cellSets th.acc (cells.zipIdx.map (fun p => (64 * k + p.2, p.1))) }

/-- A result of the scalar, control, matrix or vector kind lands in a context. -/
def landThread (th : Thread) (r : Res) : Thread :=
  match r with
  | .x d v => xPut th d v false
  | .p n v => pPut th n.toNat v
  | .pg g v => { th with p := setBits th.p (64 * g.toNat) 64 (if g = 0 then (v &&& ~~~1).toNat else v.toNat) }
  | .lt n mask v => { th with lt := cellSet th.lt n.toNat ((ltGet th n.toNat &&& ~~~mask) ||| (v &&& mask)) }
  | .v d mask v => { th with v := cellSet th.v d.toNat ((vGet th d &&& ~~~mask) ||| (v &&& mask)) }
  | .m d v => if d = 0 then th else { th with m := cellSet th.m d.toNat v }
  | .latch k v => { th with latch := cellSet th.latch k v }
  | .shift l v =>
    { th with latch := cellSets th.latch ((upto 63).map (fun i => (64 * l + i, cellGet th.latch (64 * l + i + 1))) ++ [(64 * l + 63, v)]) }
  | .side k v => { th with side := cellSet th.side k v }
  | .row k int cells => { rowPut th k cells with cmode := setBits th.cmode k 1 (if int then 1 else 0) }
  | .rowAdd k int sums =>
    { rowPut th k ((rowGet th k).zipWith (fun c n => cellOf int (numAdd false (cellNum int c) n)) sums) with
      cmode := setBits th.cmode k 1 (if int then 1 else 0) }
  | .rowClear k => rowPut th k (List.replicate 64 0)
  | .mst k => { th with cw := cellSet th.cw (0x040 + k / 64) (setBits (cellGet th.cw (0x040 + k / 64)) (k % 64) 1 1) }
  | .msclr b mask => { th with cw := cellSet th.cw (0x040 + b) (cellGet th.cw (0x040 + b) &&& ~~~mask) }
  | .cw _ _ => th
  | .bytes _ => th

/-- An asynchronous cause becomes pending: one flag for each cause (R357). DESIGN CHOICE (log 107): a second event of a cause that is pending
leaves the TVAL of the first. -/
def raiseAsync (t : Tile) (code : Nat) (tval : W64) : Tile :=
  if t.asyncs.any (fun p => p.1 = code) then t else { t with asyncs := t.asyncs ++ [(code, tval)] }

/-- New kind-1 records that writes to these addresses make (R301). -/
def trailNeed (t : Tile) (addrs : List Nat) : Nat :=
  match t.vt.segs with
  | [] => 0
  | g :: _ => (((addrs.map lineOf).dedup).filter (fun l => !g.lines.any (fun p => p.1 = l))).length

/-- No fossil collection can free an entry of the region for the current segment: no waymark is held, or the current segment's is the oldest
record of the trail, or the current segment has made every entry of the log or the queue (R303). -/
def neverFreed (t : Tile) (region : Nat) : Bool :=
  t.vt.segs.isEmpty || (match region with
    | 0 => decide (t.vt.segs.length ≤ 1)
    | 1 => t.vt.log.all (fun e => e.seg = curSeg t)
    | _ => t.vt.commits.all (fun c => c.seg = curSeg t))

/-- A shortage of a region (R303): an overflow rollback of the current segment with its count noted, or TRAIL when no
fossil collection can free space. -/
def shortAt (t : Tile) (region used : Nat) : Tile :=
  if neverFreed t region then raiseAsync t 0x1A (BitVec.ofNat 64 (region + used * 2 ^ 32))
  else { t with vt := { t.vt with due := t.vt.due ++ [(curSeg t, false)], noted := (region, used) :: t.vt.noted.filter (fun p => p.1 ≠ region) } }

/-- Records, log entries and commit entries that the current segment has used (R303). -/
def usedIn (t : Tile) (region : Nat) : Nat :=
  match region with
  | 0 => match t.vt.segs with
    | [] => 0
    | g :: _ => segRecords g
  | 1 => (t.vt.log.filter (fun e => e.seg = curSeg t)).length
  | _ => (t.vt.commits.filter (fun e => e.seg = curSeg t)).length

/-- Arrivals of the mailbox that were counted in the cycle given: their number, and whether one was bad. -/
def mbOf (t : Tile) (n now : Nat) : Nat × Bool := match t.mbLate.find? (fun x => x.1 = n && x.2.1 = now) with
  | some x => (x.2.2.1, x.2.2.2)
  | none => (0, false)

/-- A word of WRW lands in a mailbox: an arrival counted in the same cycle is added to it (R245). -/
def mbLand (t : Tile) (n : Nat) (v : W64) (now : Nat) : Tile :=
  let (k, bad) := mbOf t n now
  let t := cwWrite t n v now
  let w := cwGet t n
  cwPut t n (setBits w 0 32 (bitsOf w 0 32 + k) ||| (if bad then 0x8000000000000000 else 0))

/-- A result lands in the tile: control words and drained bytes at the tile, the rest in the context; a drain NaN under
STATUS.NANT makes NANDRAIN pending (R178). -/
def landTile (t : Tile) (r : Res) (now : Nat) : Tile :=
  match r with
  | .cw n v => if 0x050 ≤ n ∧ n ≤ 0x053 then mbLand t n v now else cwWrite t n v now
  | .bytes bs => sramWrite t true bs
  | .mst k =>
    let t' := { t with th := landThread t.th r }
    if statusBit t 3 then raiseAsync t' 0x17 (BitVec.ofNat 64 k) else t'
  | _ => { t with th := landThread t.th r }

/-- A result due lands; a drain that finds the trail short waits (R303). -/
def landDue (t : Tile) (f : Flight) (now : Nat) : Tile :=
  match f.res with
  | .bytes bs =>
    if isOpt t && decide (trailFree t < trailNeed t (bs.map (·.1))) then
      shortAt { t with th := { t.th with flights := t.th.flights ++ [{ f with left := 1 }] } } 0 (usedIn t 0)
    else landTile t f.res now
  | _ => landTile t f.res now

/-- The start of an issue cycle: every result in flight moves one cycle on, and those due land in issue order, then the
completion words that waited behind them (R34, R37). -/
def beginCycle (t : Tile) (now : Nat) : Tile :=
  if t.began then t else
  let fs := t.th.flights.map (fun f => { f with left := f.left - 1 })
  let due := fs.filter (fun f => f.left = 0)
  let t := { t with began := true, th := { t.th with flights := fs.filter (fun f => f.left ≠ 0) } }
  let t := due.foldl (fun a f => landDue a f now) t
  { t with th := settleLate t.th }

/-! ## Reliability records (R401 to R403) -/

/-- Ring words of W0. -/
def w0Get (s : State) (off : Nat) : W64 := cellGet s.mgr.w0 off
def w0Put (s : State) (off : Nat) (v : W64) : State := { s with mgr := { s.mgr with w0 := cellSet s.mgr.w0 off v } }

/-- MODIDX (R407). -/
def modIdx (s : State) : Nat := bitsOf (w0Get s 0x10) 0 16

/-- The key of a byte of quarry memory. -/
def qAddr (owner off : Nat) : Nat := owner * 2 ^ 32 + off

/-- An access opens a row and closes it (R212, log 30): the counter goes up, to 4095 at most, and one that reads 4095 then, or fails its parity, has the
neighbours refreshed and is cleared; whether it has failed its parity. The refreshes change no value. -/
def useRow (s : State) (owner row : Nat) : Bool × State :=
  let k := qAddr owner row
  let v := cellGet s.qrows k
  let v := if v = 4095 then v else v + 1
  if s.qparity.contains (owner, row) then (true, { s with qparity := s.qparity.filter (fun r => r ≠ (owner, row)), qrows := cellSet s.qrows k 0 })
  else (false, { s with qrows := cellSet s.qrows k (if v = 4095 then 0 else v) })

/-- The 64 bytes of a record go into the ring, a whole block, whose poison they clear (R211, R401); the row in which a parity failure was found. -/
def ringWrite (s : State) (owner off rec_ : Nat) : Option Nat × State :=
  let b := qAddr owner off / 64
  let row := Config.dramRow (off / 64)
  let (bad, s) := useRow s owner row
  (if bad then some row else none,
   { s with quarry := writeBytes s.quarry (qAddr owner off) (leBytes rec_ 64), qbad := s.qbad.filter (fun x => x ≠ b), qsoft := s.qsoft.filter (fun x => x ≠ b) })

/-- A record takes the next sequence number and is written at HEAD, or dropped with OVF set when the ring is full or of size 0; a parity failure that
its write finds is a record of its own (R212). DESIGN CHOICE (log 103): CYC of the event is the base count, since the manual does not say which
die's copy it is. -/
def relRecords : Nat → State → Nat → Nat → Nat → Nat → Nat → Nat → Nat → Nat → Nat → State
  | fuel, s, typ, sev, src, rank, addr, d1, d2, ltag, qasid =>
  let n := bitsOf (w0Get s 0x208) 0 24
  let head := bitsOf (w0Get s 0x210) 0 24
  let tail := bitsOf (w0Get s 0x218) 0 24
  let rec_ : Nat := typ + sev * 2 ^ 16 + src * 2 ^ 24 + (rank % 2 ^ 32) * 2 ^ 32 + (s.cyc % 2 ^ 64) * 2 ^ 64 + addr * 2 ^ 128
    + (d1 % 2 ^ 64) * 2 ^ 192 + (d2 % 2 ^ 64) * 2 ^ 256 + ltag * 2 ^ 320 + qasid * 2 ^ 336 + (s.mgr.relSeq % 2 ^ 32) * 2 ^ 352
  let s := { s with mgr := { s.mgr with relSeq := (s.mgr.relSeq + 1) % 2 ^ 32, relLog := BitVec.ofNat 512 rec_ :: s.mgr.relLog } }
  if n = 0 ∨ (head + 1) % n = tail % n then w0Put s 0x220 (w0Get s 0x220 ||| 0x8000000000000000)
  else
    let owner := bitsOf (w0Get s 0x200) 48 8
    let (row, s) := ringWrite s owner (bitsOf (w0Get s 0x200) 0 32 + 64 * head) rec_
    let s := w0Put s 0x210 (BitVec.ofNat 64 ((head + 1) % n))
    match fuel, row with
    | k + 1, some row => relRecords k s 0x12 1 1 (modIdx s * 8192 + 4096 + owner) 0 row 0 0 0
    | _, _ => s

def relRecord (s : State) (typ sev src rank : Nat) (addr d1 d2 : Nat) (ltag qasid : Nat) : State :=
  relRecords (s.qparity.length + 1) s typ sev src rank addr d1 d2 ltag qasid

def recField (r : LaunchRec) (off n : Nat) : Nat := bitsOf r (8 * off) (8 * n)
def ltagOf (s : State) (pid : Nat) : Nat := match partnOf s pid with
  | some p => recField p.rec_ 62 2
  | none => 0
def rankOf (t : Tile) : Nat := (cwGet t 0x007).toNat

/-! ## Containment and traps (R354 to R360, R371) -/

/-- The trigger of a containment: the partition is being contained from this cycle on (R372). The record of step 5 is
written by the step CONTAINMENT with the cause kept here, for DOUBLE with the cause that could not be taken, and with the
site of the tile in focus where it is the partition's. -/
def contain (s : State) (pid cause detail : Nat) : State :=
  let site := if s.tile.pid = pid then s.tile.site + 1 else 0
  mapPart s pid (fun p => if p.st = .running ∨ p.st = .preempting then
    { p with st := .containing, cause := cause + 2 ^ 16 * detail + 2 ^ 32 * site } else p)

def causeOf (p : Partn) : Nat := p.cause % 2 ^ 16
def causeDetail (p : Partn) : Nat := p.cause / 2 ^ 16 % 2 ^ 16
def causeSite (p : Partn) : Option Nat := if p.cause / 2 ^ 32 = 0 then none else some (p.cause / 2 ^ 32 - 1)

/-- A result of the S, C or L kind as LTSB entries (R355): of a layout entry the halves that the result writes. -/
def ltEntries (after : Nat) (f : Flight) : List LtEntry :=
  let half (mask v : BitVec 128) (n : Reg) (k : Nat) : List LtEntry :=
    if bitsOf mask (64 * k) 64 = 0 then [] else [⟨BitVec.ofNat 64 (bitsOf v (64 * k) 64), 4 + k, n.toNat, f.left, after⟩]
  match f.res with
  | .x r v => [⟨v, 1, r.toNat, f.left, after⟩]
  | .p n v => [⟨if v then 1 else 0, 2, n.toNat, f.left, after⟩]
  | .pg g v => [⟨v, 3, g.toNat, f.left, after⟩]
  | .lt n mask v => half mask v n 0 ++ half mask v n 1
  | _ => []

/-- The entries of results in issue order, each with the number of vector and matrix results before it: `k` are frozen already. -/
def ltCapture : Nat → List Flight → List LtEntry
  | _, [] => []
  | k, f :: r => if f.unit then ltCapture (k + 1) r else ltEntries k f ++ ltCapture k r

/-- The captured result is bound for a register that is also pending (R37). -/
def boundPending (th : Thread) (f : Flight) : Bool :=
  match f.res with
  | .x r _ => isPend th r.toNat
  | _ => false

/-- The context as a capture of it that lands nothing keeps it: a result bound for a pending token register is discarded, a completion word
behind it is written, and a cycle that had begun without issuing is counted from resumption again (R37, R278, R332). -/
def keptThread (t : Tile) : Thread :=
  let more := if t.began then 1 else 0
  settleLate { t.th with flights := (t.th.flights.filter (fun f => !boundPending t.th f)).map (fun f => { f with left := f.left + more }) }

/-- The 16 bytes of an LTSB entry (R355). -/
def ltBytes (e : LtEntry) : List Byte := leBytes e.val.toNat 8 ++ leBytes e.kind 1 ++ leBytes e.reg 1 ++ leBytes e.left 2 ++ leBytes 0 4

/-- Captures the results in flight: scalar ones into the LTSB, vector and matrix ones in place; a result bound for a pending
token register is discarded and a completion word behind it is written (R354 steps 1 and 2, R37). -/
def capture (t : Tile) : Tile :=
  let keep := t.th.flights.filter (fun f => !boundPending t.th f)
  let th := settleLate { t.th with flights := [] }
  { t with th := th,
           ltsb := t.ltsb ++ ltCapture t.frozen.length keep,
           frozen := t.frozen ++ keep.filter (fun f => f.unit) }

/-- Taking a trap (R354): TPC, TCAUSE and TVAL are written, SSTAT takes STATUS[7:2] and the mode, GWB, NANT and TE are
cleared, the tile enters supervisor mode and its handler's first bundle issues after two squashed cycles. A trap in a
handler with entries in the LTSB, or a DOUBLE, contains the partition (R359); so does a trap with TVEC.EN = 0 (R360). -/
def takeTrap (s : State) (code : Nat) (tval : W64) (tpc : LAddr) : State :=
  let t := s.tile
  if code = 0x12 then contain s t.pid 0x12 0
  else if t.sup ∧ t.ltsb ≠ [] then contain s t.pid 0x12 code
  else if (cwGet t 0x103).getLsbD 0 = false then contain s t.pid code 0
  else
    let nested := t.sup
    let t := capture t
    let status := cwGet t 0
    let sstat := setBits (setBits (cwGet t 0x104) 2 6 (bitsOf status 2 6)) 17 1 (if nested then 1 else 0)
    let t := cwPut (cwPut (cwPut (cwPut t 0x100 (BitVec.ofNat 64 code)) 0x101 (BitVec.ofNat 64 tpc.toNat)) 0x102 tval) 0x104 sstat
    let t := cwPut t 0 (status &&& ~~~(0xFC : W64))
    let t := { t with sup := true, began := true, idle := none, haloOld := [],
                      th := { t.th with pc := BitVec.ofNat 21 (4 * bitsOf (cwGet t 0x103) 2 19), squash := 2 } }
    { s with tile := t }

/-- The replay of the LTSB as results in flight, landing `left` cycles after resumption (R365). -/
def ltFlight (e : LtEntry) : Flight :=
  let r := BitVec.ofNat 5 e.reg
  { left := e.left, unit := false,
    res := match e.kind with
      | 1 => .x r e.val
      | 2 => .p (BitVec.ofNat 7 e.reg) (e.val.getLsbD 0)
      | 3 => .pg (BitVec.ofNat 1 e.reg) e.val
      | 4 => .lt r (BitVec.ofNat 128 (2 ^ 64 - 1)) (BitVec.ofNat 128 e.val.toNat)
      | _ => .lt r (BitVec.ofNat 128 ((2 ^ 64 - 1) * 2 ^ 64)) (BitVec.ofNat 128 (e.val.toNat * 2 ^ 64)) }

/-- The LTSB and the frozen results as results in flight, in the order in which their bundles issued (R37, R365). -/
def replay : Nat → List LtEntry → List Flight → List Flight
  | _, es, [] => es.map ltFlight
  | k, es, f :: r => (es.takeWhile (fun e => decide (e.after ≤ k))).map ltFlight ++ f :: replay (k + 1) (es.dropWhile (fun e => decide (e.after ≤ k))) r

/-- The return of RFE (R365) with the words TPC and SSTAT as the RFE reads them: STATUS[7:2] from SSTAT.SST, the pc from TPC, the mode from
SSTAT.PREV. In user mode a pending rollback discards the LTSB, a pending asynchronous cause leaves TPC and LTSB for the trap that follows;
else the frozen pipelines run again and the LTSB is replayed. Its two squashed cycles are no user issue cycles: they are counted in `squash`
and `unspent`, and the replayed results carry them in `left`. -/
def returnWith (t : Tile) (tpc sstat : W64) : Tile :=
  let t := cwPut t 0 (setBits (cwGet t 0) 2 6 (bitsOf sstat 2 6))
  let pc := BitVec.ofNat 21 (4 * bitsOf tpc 2 19)
  if sstat.getLsbD 17 then
    { t with ltsb := [], th := { t.th with pc := pc, squash := 2, flights := t.ltsb.map (fun e => { ltFlight e with left := e.left + 3 }) } }
  else if t.vt.due ≠ [] then
    { t with sup := false, began := true, ltsb := [], frozen := [], th := { t.th with pc := pc, flights := [] } }
  else if t.asyncs ≠ [] then
    { t with sup := false, began := true, ltsb := [],
             frozen := [], th := { t.th with pc := pc, flights := replay 0 t.ltsb t.frozen } }
  else
    { t with sup := false, ltsb := [], frozen := [],
             th := { t.th with pc := pc, squash := 2, unspent := 2,
                               flights := (replay 0 t.ltsb t.frozen).map (fun f => { f with left := f.left + 3 }) } }

/-- The return with the words as they stand. -/
def returnTrap (t : Tile) : Tile := returnWith t (cwGet t 0x101) (cwGet t 0x104)

/-! ## Ranges (R123, R124) -/

def overlaps (a b : Nat × Nat) : Bool := decide (a.1 ≤ b.2) && decide (b.1 ≤ a.2)

/-- Spans held by drains in flight or frozen, outside the 32 entries (R176). -/
def drainSpans (fs : List Flight) : List (Nat × Nat) :=
  fs.filterMap (fun f => match f.res with
    | .bytes bs => match (bs.map (fun p => lineOf p.1)) with
      | [] => none
      | l :: ls => some (ls.foldl min l, ls.foldl max l)
    | _ => none)

/-- An access of lines `span` conflicts with a held entry: a read with W entries, a write with all (R124). -/
def rangeHit (t : Tile) (write : Bool) (span : Nat × Nat) : Bool :=
  t.eng.ranges.any (fun r => (write || r.write) && overlaps (r.first, r.last) span)
    || (drainSpans t.th.flights ++ drainSpans t.frozen).any (fun d => overlaps d span)

def freeRanges (t : Tile) (ids : List Nat) : Tile :=
  { t with eng := { t.eng with ranges := t.eng.ranges.filter (fun r => !ids.contains r.id) } }

/-! ## Ranks and packets (R15, R181, R198) -/

/-- The logical id of a working site: sites below it less those that the latest start gave no id (R15). -/
def idOfSite (s : State) (site : Nat) : Nat :=
  if s.mgr.boot.isSome then site else site - (s.mgr.noId.filter (fun r => decide (r < site))).length

/-- The rank of a site's tile (R181). -/
def rankOfSite (s : State) (site : Nat) : Nat := if s.mgr.boot.isSome then site else modIdx s * 8192 + idOfSite s site

/-- Puts a tile at its site, in place of the one that stands there. -/
def putTile (s : State) (t : Tile) : State :=
  if s.tile.site = t.site then { s with tile := t } else { s with rest := s.rest.filter (fun u => u.site ≠ t.site) ++ [t] }

/-- The tile of a site is listed: one that no partition has used stands at its reset values, with its rank. -/
def listSite (s : State) (site : Nat) : State :=
  match tileAt s site with
  | some _ => s
  | none => putTile s { Tile.blank site with cw := cellSet (Tile.blank site).cw 0x007 (BitVec.ofNat 64 (rankOfSite s site)) }

/-- The working site of a logical id (R15). -/
def siteOfId (s : State) (id : Nat) : Nat :=
  if s.mgr.boot.isSome then id else
  (sortBy (fun a b => decide (a ≤ b)) s.mgr.noId).foldl (fun x r => if r ≤ x then x + 1 else x) id

def rankTile (rank : Nat) : Nat := rank % 8192
def rankMod (rank : Nat) : Nat := (rank / 8192) % 65536

/-- A rank of R181 that names a compute tile or a quarry tile of some module. -/
def isRank (rank : Nat) : Bool := decide (rank / 2 ^ 29 = 0) && decide (rankTile rank < 4352)

def hdrN (h : BitVec 512) (off n : Nat) : Nat := bitsOf h (8 * off) (8 * n)
def hdrDst (h : BitVec 512) : Nat := hdrN h 0 4
def hdrSrc (h : BitVec 512) : Nat := hdrN h 4 4
def hdrGrp (h : BitVec 512) : BitVec 16 := BitVec.ofNat 16 (hdrN h 8 2)
def hdrKind (h : BitVec 512) : Nat := bitsOf h 80 4
def hdrAnti (h : BitVec 512) : Bool := h.getLsbD 84
def hdrRound (h : BitVec 512) : Bool := h.getLsbD 85
def hdrBench (h : BitVec 512) : Bool := h.getLsbD 86
def hdrTag (h : BitVec 512) : BitVec 32 := BitVec.ofNat 32 (hdrN h 12 4)
def hdrRvt (h : BitVec 512) : Nat := hdrN h 16 8
def hdrSvt (h : BitVec 512) : Nat := hdrN h 24 8
def hdrIdx (h : BitVec 512) : Nat := hdrN h 32 4
def hdrLen (h : BitVec 512) : Nat := hdrN h 36 4
def hdrHandle (h : BitVec 512) : Nat := hdrN h 40 8

/-- The flags word of R198. -/
def flagsOf (kind plane pri : Nat) (anti round bench : Bool) : Nat :=
  kind + (if anti then 16 else 0) + (if round then 32 else 0) + (if bench then 64 else 0) + plane * 128 + pri * 512

/-- A header of R198 with its kind-specific bytes 48 to 63. -/
def mkHdr (dst src : Nat) (grp : BitVec 16) (flags : Nat) (tag : BitVec 32) (rvt svt idx len handle spec : Nat) : BitVec 512 :=
  BitVec.ofNat 512 (dst % 2 ^ 32 + (src % 2 ^ 32) * 2 ^ 32 + grp.toNat * 2 ^ 64 + flags * 2 ^ 80 + tag.toNat * 2 ^ 96
    + (rvt % 2 ^ 64) * 2 ^ 128 + (svt % 2 ^ 64) * 2 ^ 192 + (idx % 2 ^ 32) * 2 ^ 256 + (len % 2 ^ 32) * 2 ^ 288
    + (handle % 2 ^ 64) * 2 ^ 320 + (spec % 2 ^ 128) * 2 ^ 384)

/-- A rank names another module than this one: at the start every rank is provisional, of MODULE 0, and of this module (R430). -/
def otherModule (s : State) (rank : Nat) : Bool := decide (rankMod rank ≠ modIdx s) && s.mgr.boot.isNone

/-- The endpoint that a rank names: a compute tile's site, 4096 + owner, or the port of the die toward another module (R246). -/
def endOf (s : State) (rank die : Nat) : Nat :=
  if otherModule s rank then 4352 + die
  else if rankTile rank < 4096 then siteOfId s (rankTile rank)
  else rankTile rank

/-- The first tile of a die, D0:(0,0) of it (R13). -/
def dieSite (d : Nat) : Nat := 16 * (d % 8) + 128 * (16 * (d / 8))

/-- The site at which an endpoint meets the mesh: a quarry tile's edge tile (R14); the port 4352 + die at a tile of its own die, where the
manual gives it no place (log 84); 8192 + site the router of a site, which has delivered a multicast copy to its own tile (R242). -/
def endSite (e : Nat) : Nat :=
  if e < 4096 then e
  else if 8192 ≤ e then e - 8192
  else if 4352 ≤ e then dieSite (e - 4352)
  else
    let d := (e - 4096) / 16
    16 * (d % 8) + (e - 4096) % 16 + (if d < 8 then 0 else 128 * 31)

/-- The XY route from a site to another, along the row first, crosses the link between two dies (R13, R17). -/
def crosses (a b die other : Nat) : Bool :=
  let da := dieOf a
  let db := dieOf b
  let lo := min die other
  let hi := max die other
  if hi = lo + 1 ∧ lo / 8 = hi / 8 then
    decide (da / 8 = lo / 8) && decide (min (da % 8) (db % 8) ≤ lo % 8) && decide (hi % 8 ≤ max (da % 8) (db % 8))
  else decide (hi = lo + 8) && decide (db % 8 = lo % 8) && decide (da / 8 ≠ db / 8)

/-- A failed die-to-die link lies on the route (R200). -/
def linkDown (s : State) (a b : Nat) : Bool := s.mgr.linksOut.any (fun l => crosses a b l.1 l.2)

/-- XY routes turn at most once, at the router in the source's row and the destination's column (R17, R420). -/
def turnsAt (a b : Nat) : Nat := 128 * (a / 128) + b % 128

/-- A failed router stands where the route from a site to another turns or ends (R420). -/
def routerStops (s : State) (a b : Nat) : Bool :=
  s.mgr.badRouters.contains b || (s.mgr.badRouters.contains (turnsAt a b) && decide (turnsAt a b ≠ a))

/-- Kinds counted by HMSG (R382) and by the old-colour counts of R339. -/
def isMsgKind (k : Nat) : Bool := [0, 1, 9, 10, 11].contains k

/-- Puts a packet into the fabric, unless a failed router would have to turn or to deliver it (R420) or a failed link lies on its route, where it is lost (R371). One for another module leaves by the port 4352 + die and is counted for the port pair (R246, R247). -/
def sendPkt (s : State) (src dst plane : Nat) (p : Packet) : State :=
  if 4352 ≤ dst ∧ dst < 8192 then
    { s with outPort := s.outPort ++ [⟨src, dst, plane, p⟩],
             pairs := s.pairs.map (fun q => if q.1 = dst - 4352 ∧ q.2.1 = rankMod (hdrDst p.hdr) then (q.1, q.2.1, q.2.2.1, q.2.2.2.1 + 1, q.2.2.2.2) else q) }
  else if routerStops s (endSite src) (endSite dst) || linkDown s (endSite src) (endSite dst) then s
  else { s with net := s.net ++ [⟨src, dst, plane, p⟩] }

/-- A packet of the tile in focus leaves with the bench colour of the moment at which its header was formed (R331): its round colour is set
(R312), and it is counted. -/
def stampAs (colour : Bool) (s : State) (p : Packet) : Packet × State :=
  let t := s.tile
  let h := setBits (setBits p.hdr 85 1 (if t.vt.round then 1 else 0)) 86 1 (if colour then 1 else 0)
  let msg := isMsgKind (hdrKind h)
  let vt := { t.vt with newSent := t.vt.newSent + (if msg then 1 else 0),
                        minSent := if msg then some (min (hdrRvt p.hdr) (t.vt.minSent.getD (hdrRvt p.hdr))) else t.vt.minSent }
  let e := if msg then { t.eng with msgOut := t.eng.msgOut + 1 } else t.eng
  ({ p with hdr := h }, { s with tile := { t with vt := vt, eng := e } })

/-- The same for a header formed now. -/
def stampPkt (s : State) (p : Packet) : Packet × State := stampAs s.tile.bench.colour s p

def tileSendAs (colour : Bool) (s : State) (dst plane : Nat) (p : Packet) : State :=
  let (p, s) := stampAs colour s p
  sendPkt s s.tile.site dst plane p

def tileSend (s : State) (dst plane : Nat) (p : Packet) : State := tileSendAs s.tile.bench.colour s dst plane p

/-- The engine that handles a kind of packet: 0 the message and matching engines, 1 the quarry engine, 2 the deque engine, 3 the halo engine, 4 the
landing of rendezvous data (R187, R195, R218, R244, R286). Packets reach a tile in order (R17); engines that handle them keep no order among each other (R377). -/
def engineOf (kind : Nat) : Nat :=
  if kind = 5 ∨ kind = 6 then 1 else if kind = 7 ∨ kind = 8 then 2 else if kind = 9 then 3 else if kind = 3 then 4 else 0

/-- The first packet in flight from a source to a destination on a plane for an engine, and the fabric without it (R17). -/
def takeFor (s : State) (src dst plane eng : Nat) : Option (Packet × State) :=
  match s.net.find? (fun x => x.src = src ∧ x.dst = dst ∧ x.plane = plane ∧ engineOf (hdrKind x.pkt.hdr) = eng) with
  | some x => some (x.pkt, { s with net := s.net.erase x })
  | none => none

/-- The first packet in flight from a source to a destination on a plane, and the fabric without it (R17). -/
def takePkt (s : State) (src dst plane : Nat) : Option (Packet × State) :=
  match s.net.find? (fun x => x.src = src ∧ x.dst = dst ∧ x.plane = plane) with
  | some x => some (x.pkt, { s with net := s.net.erase x })
  | none => none

/-- A site lies in the rectangle of a launch record (R257). -/
def inRect (r : LaunchRec) (site : Nat) : Bool :=
  let x := site % 128
  let y := site / 128
  decide (recField r 4 1 ≤ x) && decide (x ≤ recField r 4 1 + recField r 6 1) && decide (recField r 5 1 ≤ y)
    && decide (y ≤ recField r 5 1 + recField r 7 1)

/-- The partition whose fence a site stands in (R263). -/
def fenceOf (s : State) (site : Nat) : Option Partn := s.partns.find? (fun p => !p.sites.isEmpty && inRect p.rec_ site)

/-! ## Checked reads of SRAM (R399, R405) -/

/-- The start record as it stands (R419). -/
def recordOf (m : Manager) : StartRecord :=
  { retired := m.retired, marked := m.marked, badRouters := m.badRouters, diesOut := m.diesOut, stacksOut := m.stacksOut, grades := m.grades,
    linkMarks := m.linkMarks, portsOut := m.portsOut, framesOut := m.framesOut, pcie := m.pcie, failures := m.failures, fwSlot := m.fwSlot, recSeq := m.recSeq }

/-- The start record is about to be written, into its other copy, with the next sequence number: the copy before stays (R419). -/
def saveRecord (s : State) : State := { s with mgr := { s.mgr with older := recordOf s.mgr, recSeq := s.mgr.recSeq + 1 } }

/-- A tile is marked for retirement in the start record with its reason; a site is marked once (R405). -/
def markTile (s : State) (site reason : Nat) : State :=
  if s.mgr.marked.contains site then s else
  let s := saveRecord s
  match tileAt s site with
  | some t => relRecord { s with mgr := { s.mgr with marked := s.mgr.marked ++ [site] } } 0x40 3 0 (rankOf t) 0 reason 0 (ltagOf s t.pid) 0
  | none => relRecord { s with mgr := { s.mgr with marked := s.mgr.marked ++ [site] } } 0x40 3 0 (modIdx s * 8192 + idOfSite s site) 0 reason 0 0 0

/-- One word as a read finds it: a single bad bit is corrected with a record of type 0x01 and counts towards 64 distinct
words; two or more poison it, with containment when the read consumes (R399). -/
def checkWord (s : State) (w reader : Nat) (consuming : Bool) : State :=
  let t := s.tile
  let bits := (t.soft.filter (fun p => p.1 = w)).map (·.2)
  let qasid := (cwGet t 0x023).toNat
  let old := t.poison.contains w
  if bits.length = 1 ∧ !old then
    let dbg := if t.dbg.cwords.contains w then t.dbg else { t.dbg with cwords := t.dbg.cwords ++ [w] }
    let s := { s with tile := { t with soft := t.soft.filter (fun p => p.1 ≠ w), dbg := dbg } }
    let s := relRecord s 0x01 1 0 (rankOf t) (8 * w) (bits.headD 0) 0 (ltagOf s t.pid) qasid
    if dbg.cwords.length = 64 ∧ t.dbg.cwords.length ≠ 64 then markTile s t.site 2 else s
  else if bits.length = 0 ∧ !old then s
  else
    let s := { s with tile := { t with soft := t.soft.filter (fun p => p.1 ≠ w), poison := if old then t.poison else t.poison ++ [w] } }
    if consuming then contain (relRecord s 0x03 3 0 (rankOf t) (8 * w) reader 0 (ltagOf s t.pid) qasid) t.pid 0x100 0
    else if old then s else relRecord s 0x02 2 0 (rankOf t) (8 * w) reader 0 (ltagOf s t.pid) qasid

/-- A read of the bytes at the addresses given, by the reader given (R403). -/
def checkRead (s : State) (addrs : List Nat) (reader : Nat) (consuming : Bool) : State :=
  if s.tile.poison = [] ∧ s.tile.soft = [] then s
  else ((addrs.map (fun a => a / 8)).dedup).foldl (fun s w => checkWord s w reader consuming) s

/-- The read of a store narrower than a word: a word with one bad bit is corrected, with a record of type 0x01, before the merge (R399); the
words `ws` are written whole. -/
def mergeRead (s : State) (ws : List Nat) (bs : List (Nat × Byte)) : State :=
  if s.tile.soft = [] then s
  else
    let part := ((bs.map (fun p => p.1 / 8)).dedup).filter (fun w => !ws.contains w && !s.tile.poison.contains w
      && decide (s.tile.soft.countP (fun p => p.1 = w) = 1))
    part.foldl (fun s w => checkWord s w 0 false) s

/-- The same for one write. -/
def storeRead (s : State) (bs : List (Nat × Byte)) : State := mergeRead s (wholeWords bs) bs

/-- The reads of the trail unit before a write that makes kind-1 records: it copies those lines and consumes nothing (R301, R399). -/
def trailRead (s : State) (bs : List (Nat × Byte)) : State :=
  match s.tile.vt.segs with
  | [] => s
  | g :: _ =>
    if isOpt s.tile then
      checkRead s ((((linesOf bs).filter (fun l => !g.lines.any (fun p => p.1 = l))).map (fun l => (upto 64).map (fun i => 64 * l + i))).flatten) 1 false
    else s

/-- The reads for the drains that land at the start of the next issue cycle, if it has not begun (R176, R399). -/
def drainRead (s : State) : State :=
  if s.tile.began ∨ (s.tile.soft = [] ∧ s.tile.poison = []) then s
  else
    (s.tile.th.flights.filterMap (fun f => match f.res with
      | .bytes bs => if f.left ≤ 1 then some bs else none
      | _ => none)).foldl (fun s bs => storeRead (trailRead s bs) bs) s

/-- A fresh free value (log 5). -/
def freshWord (s : State) : W64 × State := (Config.freeWord s.free, { s with free := s.free + 1 })

end Sys2Proof.Machine
end

