-- ==== Sys2Proof/Machine/Flags.lean ====
section
/-! DEFINITION. The conditions of compares, the drain NaN bits and the loop and signature state. -/

namespace Sys2Proof.Machine

open Sys2Proof

/-- The condition of CMP (R86). -/
def cmpCond (cc : BitVec 3) (a b : W64) : Bool :=
  match cc.toNat with
  | 0 => a = b
  | 1 => a ≠ b
  | 2 => a.slt b
  | 3 => !(a.slt b)
  | 4 => a.ult b
  | 5 => !(a.ult b)
  | 6 => a &&& b ≠ 0
  | _ => a &&& b = 0

/-- The condition of CMPI (R87): a compare with the sign-extended constant, or a bit test. -/
def cmpiCond (cc : BitVec 3) (a : W64) (k : BitVec 6) : Bool :=
  match cc.toNat with
  | 6 => a.getLsbD k.toNat
  | 7 => !(a.getLsbD k.toNat)
  | _ => cmpCond cc a (k.signExtend 64)

/-- One step of CRC-16/CCITT (R105). -/
def crcBit (c : BitVec 16) (bit : Bool) : BitVec 16 :=
  let fb := xor (c.getLsbD 15) bit
  let d := c <<< 1
  if fb then d ^^^ 0x1021 else d

/-- A word, most significant bit first (R105). -/
def crcWord (c : BitVec 16) (w : BitVec 32) : BitVec 16 :=
  (upto 32).foldl (fun a j => crcBit a (w.getLsbD (31 - j))) c

def crcWords (c : BitVec 16) (ws : List (BitVec 32)) : BitVec 16 := ws.foldl crcWord c

/-- The fields of LC0 and LC1 (R101). -/
def lcAct (v : W64) : Bool := v.getLsbD 63
def lcEnd (v : W64) : Nat := bitsOf v 44 19
def lcStart (v : W64) : Nat := bitsOf v 25 19
def lcCount (v : W64) : Nat := bitsOf v 0 25
def lcWord (fin start count : Nat) : W64 :=
  BitVec.ofNat 64 (2 ^ 63 + (fin / 4 % 2 ^ 19) * 2 ^ 44 + (start / 4 % 2 ^ 19) * 2 ^ 25 + count % 2 ^ 25)

/-- Loop-end processing (R103): the loop state after a bundle at `addr` and the back-edge it takes. Both loops may end at
one bundle; the inner one pops first. -/
def loopEnd (lc0 lc1 : W64) (addr : Nat) : W64 × W64 × Option Nat :=
  let hit (v : W64) : Bool := lcAct v && decide (addr = 4 * lcEnd v)
  let back (v : W64) : W64 := v - 1
  if hit lc0 then
    if 1 < lcCount lc0 then (back lc0, lc1, some (4 * lcStart lc0))
    else if hit lc1 then
      if 1 < lcCount lc1 then (back lc1, 0, some (4 * lcStart lc1)) else (0, 0, none)
    else (lc1, 0, none)
  else (lc0, lc1, none)

/-- The NaN bit of a drain (R70): a NaN cell, or a converted element that is a NaN. -/
def drainNan (code : Nat) (cells : List Num) (bits : List Nat) : Bool :=
  cells.any numIsNan ||
    (match codeFloat code with
     | some f => bits.any (fun b => numIsNan (floatVal f b))
     | none => false)

end Sys2Proof.Machine
end

