-- ==== Sys2Proof/Machine/Operands.lean ====
section
/-! DEFINITION. Operand forms: guards, register operands as read at issue, effective addresses and their checks, layout
entries, and what a slot adds to the issue group of its bundle. -/

namespace Sys2Proof.Machine

open Sys2Proof

/-- The outcome of a meaning. -/
abbrev Out := Host.Outcome State Fault Refusal

/-! ## The issue group -/

/-- Changes the issue group of the tile in focus. -/
def updIss (s : State) (f : Issue → Issue) : State := { s with tile := { s.tile with iss := f s.tile.iss } }

/-- The word of the slot being executed (R24). -/
def slotWord (s : State) : W64 := ((s.tile.iss.words.getD s.tile.iss.slot 0).setWidth 64)

/-- A cause of the bundle (R357). -/
def addCause (s : State) (code : Nat) (tval : W64) : State := updIss s (fun i => { i with causes := i.causes ++ [(code, i.slot, tval)] })

/-- ILLOP with the offending slot word (R356). -/
def illop (s : State) : State := addCause s 0x01 (slotWord s)

/-- DOUBLE (R353, R359). -/
def double (s : State) : State := addCause s 0x12 0

/-- A result of latency `n` (R34). -/
def addFlight (s : State) (n : Nat) (unit : Bool) (r : Res) : State :=
  updIss s (fun i => { i with flights := i.flights ++ [(i.slot, ⟨n, unit, r⟩)] })

/-- A scalar result of latency `n`; x0 discards it (R74). -/
def addX (s : State) (n : Nat) (d : Reg) (v : W64) : State := if d = 0 then s else addFlight s n false (.x d v)

def addP (s : State) (q : BitVec 7) (v : Bool) : State := if q = 0 then s else addFlight s 1 false (.p q v)

/-- Bytes stored by an L slot (R30), and the words that it covers whole (R399). -/
def addStores (s : State) (bs : List (Nat × Byte)) : State :=
  updIss s (fun i => { i with stores := i.stores ++ bs, whole := i.whole ++ wholeWords bs })

/-! ## Guards and modes (R25, R353) -/

/-- The guard of a slot, with STATUS.GWB and the predicates as they stand at issue (R25). -/
def guardOf (t : Tile) (c : Ctl) : Bool :=
  let g := if c.gi = 0 then true else pGet t.th (8 * bitsOf (cwGet t 0) 4 4 + c.gi.toNat)
  xor g c.gn

/-- An S-, C- or L-class slot issued in either mode. -/
def plain (c : Ctl) (s : State) (f : State → State) : Out := .next (if guardOf s.tile c then f s else s)

/-- A V- or M-class slot: DOUBLE in supervisor mode whatever its guard (R353). -/
def unitSlot (c : Ctl) (s : State) (f : State → State) : Out :=
  .next (if s.tile.sup then double s else if guardOf s.tile c then f s else s)

/-- An E-class slot: DOUBLE in supervisor mode whatever its guard, beside the causes of its own where its guard is true (R202, R249, R282,
R318, R348, R353). -/
def engSlot (c : Ctl) (s : State) (f : State → State) : Out :=
  let own := if guardOf s.tile c then f s else s
  .next (if s.tile.sup then double (updIss s (fun i => { i with causes := own.tile.iss.causes })) else own)

/-- PFX, LOOP, YIELD, SUSPEND, EXIT, TRAP and BRK: ILLOP in supervisor mode whatever the guard (R353). -/
def userSlot (c : Ctl) (s : State) (f : State → State) : Out :=
  .next (if s.tile.sup then illop s else if guardOf s.tile c then f s else s)

/-- RFE, SAVELT and RSTLT: PRIV in user mode, TVAL 0x1B (R363). -/
def supSlot (c : Ctl) (s : State) (f : State → State) : Out :=
  .next (if guardOf s.tile c then (if s.tile.sup then f s else addCause s 0x03 0x1B) else s)

/-! ## Register operands -/

def X (s : State) (r : Reg) : W64 := xGet s.tile.th r
def P (s : State) (n : BitVec 7) : Bool := pGet s.tile.th n.toNat
def V (s : State) (r : Reg) : BitVec 2048 := vGet s.tile.th r
def M (s : State) (r : BitVec 3) : W64 := mGet s.tile.th r
def LT (s : State) (n : Nat) : BitVec 128 := ltGet s.tile.th n

/-! ## SRAM accesses (R117) -/

/-- Loads and the bytes they read, for the watchpoints and the range scoreboard (R124, R390). -/
def addRead (s : State) (a n : Nat) : State := updIss s (fun i => { i with reads := i.reads ++ [(a, n)] })

/-- An engine access made as the bundle issues (R124). -/
def addQuiet (s : State) (a n : Nat) (w : Bool) : State := updIss s (fun i => { i with quiet := i.quiet ++ [(a, n, w)] })

/-- SRAM as a load finds it: a byte that a halo row has landed on since the latest bundle issued, with its new or its old value, as the line
may have been served before the row landed (R119, log 89). -/
def seen (s : State) : Memory :=
  if s.tile.haloOld = [] then s.tile.mem
  else cellSets s.tile.mem ((s.tile.haloOld.zipIdx.filter (fun p => Config.oldByte s.free p.2)).map (fun p => (p.1.addr, p.1.old)))

/-- SRAM with the stores of the bundle's L slots in place (R125); E slots are executed after them. -/
def memNow (s : State) : Memory := cellSets s.tile.mem s.tile.iss.stores

/-- The check of one access: XACCESS and ALIGN with the effective address (R117); both are reported as causes. -/
def checkAccess (s : State) (ea : Int) (n align : Nat) : State :=
  let s := if rangeOk s.tile s.tile.sup ea n then s else addCause s 0x05 (BitVec.ofInt 64 ea)
  if ea % align = 0 then s else addCause s 0x06 (BitVec.ofInt 64 ea)

def accessOk (s : State) (ea : Int) (n align : Nat) : Bool :=
  rangeOk s.tile s.tile.sup ea n && decide (ea % align = 0)

/-- The base register of an address is an unsigned 64-bit value; the sum is exact (R117). -/
def effAddr (base : W64) (off : Int) : Int := (base.toNat : Int) + off

/-- A load of `n` bytes with its checks; `k` takes the value (R127). -/
def loadWith (s : State) (ea : Int) (n align : Nat) (k : State → Nat → State) : State :=
  let ok := accessOk s ea n align
  let s := checkAccess s ea n align
  if ok then k (addRead s ea.toNat n) (readLe (seen s) ea.toNat n) else s

/-- A store of bytes with its checks (R128). -/
def storeWith (s : State) (ea : Int) (align : Nat) (bs : List Byte) : State :=
  let ok := accessOk s ea bs.length align
  let s := checkAccess s ea bs.length align
  if ok then addStores s (atAddr ea.toNat bs) else s

/-! ## Layout entries (R120 to R122) -/

def ltBase (e : BitVec 128) : Nat := bitsOf e 0 21
def ltEsize (e : BitVec 128) : Nat := bitsOf e 21 3
def ltElems (e : BitVec 128) : Nat := bitsOf e 24 12
def ltRows (e : BitVec 128) : Nat := bitsOf e 36 12
def ltRpitch (e : BitVec 128) : Nat := bitsOf e 48 16
def ltTiles (e : BitVec 128) : Nat := bitsOf e 64 12
def ltTpitch (e : BitVec 128) : Nat := bitsOf e 76 20
def ltRot (e : BitVec 128) : Nat := bitsOf e 96 4
def ltNj (e : BitVec 128) : Bool := e.getLsbD 100
def ltRo (e : BitVec 128) : Bool := e.getLsbD 101

/-- Bytes of an element, 1 for 4-bit elements (R122 condition 3). -/
def ltUnit (e : BitVec 128) : Nat := if ltEsize e = 6 then 1 else 2 ^ ltEsize e

/-- The row size RB (R120). -/
def ltRb (e : BitVec 128) : Nat := if ltEsize e = 6 then ltElems e / 2 else ltElems e * 2 ^ ltEsize e

def ltEmpty (e : BitVec 128) : Bool := ltElems e = 0 || ltRows e = 0 || ltTiles e = 0

/-- The bytes an entry names (R196). -/
def ltSize (e : BitVec 128) : Nat := if ltEmpty e then 0 else ltTiles e * ltRows e * ltRb e

/-- The first and the last byte of the span of a non-empty entry (R121). -/
def ltSpan (e : BitVec 128) : Nat × Nat :=
  (ltBase e, ltBase e + (ltTiles e - 1) * ltTpitch e + (ltRows e - 1) * ltRpitch e + ltRb e - 1)

/-- Byte b of row j of tile t (R121). -/
def addrOf (e : BitVec 128) (t j b : Nat) : Nat :=
  let n := ltRb e / 64
  let o := if ltRot e = 0 then b else 64 * ((b / 64 + j * ltRot e) % n) + b % 64
  ltBase e + t * ltTpitch e + j * ltRpitch e + o

/-- The addresses of an entry's bytes in their order (R121). -/
def ltAddrs (e : BitVec 128) : List Nat :=
  if ltEmpty e then [] else
  ((upto (ltTiles e)).map (fun t => ((upto (ltRows e)).map (fun j => (upto (ltRb e)).map (fun b => addrOf e t j b))).flatten)).flatten

/-- Reads the buffer of an entry. -/
def ltRead (m : Memory) (e : BitVec 128) : List Byte := (ltAddrs e).map (fun a => cellGet m a)

/-- Conditions 1 to 4 of R122. -/
def ltShapeOk (e : BitVec 128) : Bool :=
  decide (bitsOf e 102 26 = 0) && decide (ltEsize e ≠ 7) && !(ltEsize e = 6 && ltElems e % 2 = 1)
    && decide (ltBase e % ltUnit e = 0) && decide (ltRpitch e % ltUnit e = 0) && decide (ltTpitch e % ltUnit e = 0)
    && (ltRot e = 0 || [64, 128, 256, 512, 1024, 2048].contains (ltRb e))

/-- Condition 5: the span passes the user-mode check (R117). -/
def ltSpanOk (t : Tile) (e : BitVec 128) : Bool :=
  ltEmpty e || rangeOk t false (ltSpan e).1 ((ltSpan e).2 + 1 - (ltSpan e).1)

/-- Condition 7: rows and tiles of a destination do not overlap. -/
def ltApart (e : BitVec 128) : Bool :=
  !(decide (1 < ltRows e) && decide (ltRpitch e < ltRb e))
    && !(decide (1 < ltTiles e) && decide ((ltTpitch e : Int) < ((ltRows e : Int) - 1) * ltRpitch e + ltRb e))

/-- CheckLayout (R122). -/
def ltOk (t : Tile) (e : BitVec 128) (dest : Bool) : Bool :=
  ltShapeOk e && ltSpanOk t e && (!dest || (!ltRo e && ltApart e))

/-- LAYOUT with the entry number (R122). -/
def checkLt (s : State) (n : Nat) (dest : Bool) : State :=
  if ltOk s.tile (LT s n) dest then s else addCause s 0x08 (BitVec.ofNat 64 n)

/-- An engine operation takes a range entry for a non-empty entry (R123). -/
def addSpan (s : State) (e : BitVec 128) (write : Bool) : State :=
  if ltSize e = 0 then s
  else updIss s (fun i => { i with spans := i.spans ++ [(lineOf (ltSpan e).1, lineOf (ltSpan e).2, write)] })

/-- An engine operation of the running task, with what it reads at issue (R133, R183, R184, R295). -/
def engOp (s : State) (k : EngKind) (tok : Reg) (a b c : W64) (lts : List (BitVec 128)) : EngOp :=
  let t := s.tile
  { kind := k, word := s.tile.iss.words.getD s.tile.iss.slot 0, uid := t.th.uid, tok := tok, a := a, b := b, c := c, lts := lts, rng := [],
    grp := BitVec.ofNat 16 (bitsOf (cwGet t 0x020) 0 16), mask := BitVec.ofNat 32 (bitsOf (cwGet t 0x021) 0 32), lvt := cwGet t 0x030,
    six := t.vt.six, seg := curSeg t, cyc := s.cyc }

/-- Hands an operation to the engines and makes its token pending from the next bundle (R126). -/
def addOp (s : State) (o : EngOp) : State :=
  updIss s (fun i => { i with ops := i.ops ++ [o], toks := if o.tok = 0 then i.toks else i.toks ++ [o.tok] })

/-- The bundle has a cause so far. -/
def faulty (s : State) : Bool := s.tile.iss.causes ≠ []

end Sys2Proof.Machine
end

