-- ==== Sys2Proof/Machine/Message.lean ====
section
/-! DEFINITION. Messages: SEND, RECV and the MSGX forms, the sending and matching engines and their steps (09, 13 R295 to R297). -/

namespace Sys2Proof.Machine

open Sys2Proof

/-! ## Keys (R188, R294) -/

/-- Field-by-field comparison of keys. -/
def keyLt : List Nat → List Nat → Bool
  | a :: r, b :: q => if a = b then keyLt r q else decide (a < b)
  | _, _ => false

/-- The key of a message (R294). -/
def hdrKey (h : BitVec 512) : List Nat := [hdrRvt h, hdrSrc h, hdrSvt h, hdrIdx h]

/-- The hamper order (R188). -/
def hamKey (e : HamEntry) : List Nat := hdrKey e.hdr ++ [e.seq]

/-- The entry of lowest key. -/
def lowest : List HamEntry → Option HamEntry
  | [] => none
  | e :: r => match lowest r with
    | some f => if keyLt (hamKey f) (hamKey e) then some f else some e
    | none => some e

/-- A message has a key below the tile's current key (R297). -/
def isStraggler (t : Tile) (h : BitVec 512) : Bool :=
  isOpt t && (match t.vt.key with
    | some k => keyLt (hdrKey h) k
    | none => false)

/-! ## Matching (R185) -/

def acceptsHdr (rank tag mask : BitVec 32) (grp : BitVec 16) (h : BitVec 512) : Bool :=
  (rank = 0xFFFFFFFF || rank.toNat = hdrSrc h) && (tag = 0xFFFFFFFF || (tag ^^^ hdrTag h) &&& mask = 0) && decide (grp = hdrGrp h)

/-- The unconsumed positive entry that a receive would take (R185, R188). -/
def lowestAccepted (t : Tile) (rank tag mask : BitVec 32) (grp : BitVec 16) : Option HamEntry :=
  lowest (t.eng.hamper.filter (fun e => !e.neg && e.consumed.isNone && acceptsHdr rank tag mask grp e.hdr))

/-- The earliest posted receive that accepts a message (R187). -/
def firstPosted (t : Tile) (h : BitVec 512) : Option Posted :=
  t.eng.posted.find? (fun p => p.st = .posted && p.req.isNone && acceptsHdr p.rank p.tag p.mask p.grp h)

/-- Where a receive, a send or a waiting operation stands. -/
def isMatched (p : Posted) : Bool := match p.st with
  | .matched _ => true
  | _ => false
def isLandingRecv (p : Posted) : Bool := match p.st with
  | .landing _ => true
  | _ => false
def isStreaming (o : SendOp) : Bool := match o.st with
  | .streaming _ => true
  | _ => false
def isSteal (o : EngOp) : Bool := match o.kind with
  | .steal _ => true
  | _ => false

/-! ## Engine updates -/

def updEng (s : State) (f : Engine → Engine) : State := { s with tile := { s.tile with eng := f s.tile.eng } }

def updPosted (s : State) (id : Nat) (f : Posted → Posted) : State :=
  updEng s (fun e => { e with posted := e.posted.map (fun p => if p.id = id then f p else p) })

def dropPosted (s : State) (id : Nat) : State := updEng s (fun e => { e with posted := e.posted.filter (fun p => p.id ≠ id) })

def updSend (s : State) (h : Nat) (f : SendOp → SendOp) : State :=
  updEng s (fun e => { e with sends := e.sends.map (fun o => if o.handle = h then f o else o) })

def dropSend (s : State) (h : Nat) : State := updEng s (fun e => { e with sends := e.sends.filter (fun o => o.handle ≠ h) })

def dropRanges (s : State) (ids : List Nat) : State := { s with tile := freeRanges s.tile ids }

/-- The completion word of an operation of the tile in focus. -/
def finish (s : State) (uid : Nat) (tok : Reg) (w : W64) : State := { s with tile := complete s.tile uid tok w true s.cyc }

/-- The base of the hamper region's header area entries and payload cells (R190). -/
def headBase (t : Tile) (k : Nat) : Nat := regionBase t 0x012 + 0x4000 + 64 * k
def cellBase (t : Tile) (k : Nat) : Nat := regionBase t 0x012 + 0x8000 + 256 * k

/-- A number that names an engine object. -/
def freshId (s : State) : Nat × State := (s.tile.eng.nextId, updEng s (fun e => { e with nextId := e.nextId + 1 }))

/-- An engine write of an operation issued in segment `seg`: it makes trail records when the segment is current and the
entry has not NJ = 1 (R301). None is answered when a record is short (R303). -/
def engWrite (s : State) (seg : Nat) (nj : Bool) (bs : List (Nat × Byte)) : Option State :=
  let t := s.tile
  let rec_ := isOpt t && decide (seg = curSeg t) && !nj
  if rec_ && decide (trailFree t < trailNeed t (bs.map (·.1))) then none
  else
    let s := storeRead (if rec_ then trailRead s bs else s) bs
    some { s with tile := sramWrite s.tile rec_ bs }

/-! ## Destinations (R200, R420) -/

/-- The code that refuses a destination rank at the sender, if any (R200, R16, R420). DESIGN CHOICE (log 108): a retired or marked site with a failed
link or router on the way answers 0x07. A failed router on the way of the answers stands for one on the way of the message (log 72). -/
def refusedRank (s : State) (rank : Nat) : Option Nat :=
  let t := s.tile
  if !isRank rank || decide (4096 ≤ rankTile rank) then some 0x04
  else if otherModule s rank then
    (if s.pairs.any (fun p => p.1 = dieOf t.site && p.2.1 = rankMod rank && p.2.2.1) then none else some 0x07)
  else
    let site := siteOfId s (rankTile rank)
    match partnOf s t.pid with
    | none => some 0x04
    | some p =>
      if !inRect p.rec_ site then some 0x04
      else if linkDown s t.site site || routerStops s t.site site || routerStops s site t.site then some 0x07
      else if !p.sites.contains site then some 0x06
      else none

/-! ## Slot meanings -/

def tagOf (v : W64) : BitVec 32 := (v >>> 32).setWidth 32
def rankLow (v : W64) : BitVec 32 := v.setWidth 32
def eagerLimit (t : Tile) : Nat := bitsOf (cwGet t 0x022) 0 14

/-- The receive VT of a SEND in an optimistic partition, exact (R295). -/
def sendVt (lvt delta : W64) : Int := (lvt.toNat : Int) + delta.toInt

/-- A key with an exact receive VT is above another (R295). -/
def keyAbove (rvt : Int) (rest : List Nat) (k : List Nat) : Bool :=
  match k with
  | b :: q => if rvt = b then keyLt q rest else decide ((b : Int) < rvt)
  | [] => false

/-- R295: the send may be made. -/
def admissible (t : Tile) (delta : W64) : Bool :=
  let rvt := sendVt (cwGet t 0x030) delta
  (match t.vt.key with
   | some k => keyAbove rvt [rankOf t, (cwGet t 0x030).toNat, t.vt.six] k
   | none => decide (((cwGet t 0x030).toNat : Int) ≤ rvt)) && decide (rvt ≤ 0xFFFFFFFFFFFFFFFE)

/-- SEND and SEND.R at issue (R201, R296). -/
def sendSlot (forced : Bool) (t a b : Reg) (l : BitVec 5) (s : State) : State :=
  let e := LT s l.toNat
  let s1 := checkLt s l.toNat false
  let s2 := if isOpt s.tile && (forced || decide (eagerLimit s.tile < ltSize e)) then addCause s1 0x18 (BitVec.ofNat 64 (ltSize e)) else s1
  if isOpt s.tile && !admissible s.tile (X s b) then addOp s2 (engOp s .backSend t (X s a) (X s b) 0 [e])
  else addOp (addSpan s2 e false) (engOp s (.send forced) t (X s a) (X s b) 0 [e])

/-- SEND (R201). -/
def execSend (c : Ctl) (t a b : Reg) (l : BitVec 5) (s : State) : Out := engSlot c s (sendSlot false t a b l)
/-- SEND.R (R201). -/
def execSendR (c : Ctl) (t a b : Reg) (l : BitVec 5) (s : State) : Out := engSlot c s (sendSlot true t a b l)

/-- RECV (R203). -/
def execRecv (c : Ctl) (t a : Reg) (l : BitVec 5) (s : State) : Out :=
  engSlot c s (fun s =>
    let e := LT s l.toNat
    addOp (addSpan (checkLt s l.toNat true) e true) (engOp s .recv t (X s a) 0 0 [e]))

/-- TESTT (R204). -/
def execTestt (c : Ctl) (d a : Reg) (s : State) : Out :=
  engSlot c s (fun s => addX s 2 d (if isPend s.tile.th a.toNat then 1 else 0))

/-- PROBE (R205). -/
def execProbe (c : Ctl) (d a : Reg) (s : State) : Out := engSlot c s (fun s => addOp s (engOp s .probe d (X s a) 0 0 []))

/-- CANCEL (R206). -/
def execCancel (c : Ctl) (a : Reg) (s : State) : Out :=
  engSlot c s (fun s => if a = 0 then illop s else addOp s (engOp s (.cancel a) 0 0 0 0 []))

/-- The registers that WAITANY names (R207). -/
def anySet (v : W64) : List Nat := ((upto 32).filter (fun n => v.getLsbD n)).filter (fun n => n ≠ 0)

/-- WAITANY: the lowest register of the set that is not pending, 0 for an empty set (R207); the stall is made at issue. -/
def execWaitany (c : Ctl) (d a : Reg) (s : State) : Out :=
  engSlot c s (fun s => addX s 1 d (BitVec.ofNat 64 (((anySet (X s a)).find? (fun n => !isPend s.tile.th n)).getD 0)))

/-- ENVR (R208). -/
def execEnvr (c : Ctl) (d a b : Reg) (s : State) : Out :=
  engSlot c s (fun s =>
    let h := bitsOf (X s a) 0 16
    let slot := h % 256
    let ok := decide (h ≠ 0) && decide (h / 256 ≠ 0) && decide ((cellGet s.tile.eng.envGen slot).toNat = h / 256)
    addX s 2 d (if ok then BitVec.ofNat 64 (bitsOf (cellGet s.tile.eng.env slot) (64 * bitsOf (X s b) 0 3) 64) else BitVec.allOnes 64))

/-! ## The hamper (R190, R191, R302) -/

def isMulti (h : BitVec 512) : Bool := hdrKind h = 10

/-- Payload cells that a message takes. -/
def cellsNeed (len : Nat) : Nat := (64 + len + 255) / 256

def cellsTotal (t : Tile) : Nat := (regionSize t 0x012 - 0x8000) / 256
/-- Header-area entries in use, those of matched requests-to-send among them. -/
def headUsed (t : Tile) : Nat :=
  t.eng.hamper.countP (fun e => e.rdv || e.neg) + t.eng.posted.countP isMatched

/-- A message may take the cells below this one: the last eighth is kept for a key below every positive entry's in an optimistic partition
(R302). -/
def cellLimit (t : Tile) (h : BitVec 512) : Nat :=
  let low := t.eng.hamper.all (fun e => e.neg || keyLt (hdrKey h) (hdrKey e.hdr))
  if isOpt t && !low then cellsTotal t - cellsTotal t / 8 else cellsTotal t

/-- The answer of the receiving engine to a packet: its header names the sender and gives back the handle. -/
def answerHdr (t : Tile) (h : BitVec 512) (kind len : Nat) : BitVec 512 :=
  mkHdr (hdrSrc h) (rankOf t) (hdrGrp h) (flagsOf kind 2 0 false false false) (hdrTag h) 0 0 0 len (hdrHandle h) 0

def answer (s : State) (h : BitVec 512) (kind len : Nat) : State :=
  tileSend s (endOf s (hdrSrc h) (dieOf s.tile.site)) 2 ⟨answerHdr s.tile h kind len, []⟩

/-- A message is answered by an acceptance: eager ones of a SEND only (R191, R251, R240). -/
def acceptMsg (s : State) (h : BitVec 512) : State := if hdrKind h = 0 then answer s h 12 0 else s

def newEntry (s : State) (h : BitVec 512) (body : List Byte) (rdv neg : Bool) : HamEntry × State :=
  (⟨h, body, rdv, neg, s.tile.eng.seq, none, []⟩, updEng s (fun e => { e with seq := e.seq + 1 }))

/-- The lowest numbers below `n` that are not taken, `k` of them. -/
def freeNums (n k : Nat) (taken : List Nat) : List Nat := ((upto n).filter (fun i => !taken.contains i)).take k

/-- Entries of the header area and payload cells that are in use (R190). -/
def headsTaken (t : Tile) : List Nat :=
  ((t.eng.hamper.filter (fun e => e.rdv || e.neg)).map (·.cells)).flatten ++ (t.eng.posted.map (fun p => match p.st with
    | .matched e => e.cells
    | _ => [])).flatten
def cellsTaken (t : Tile) : List Nat := ((t.eng.hamper.filter (fun e => !(e.rdv || e.neg))).map (·.cells)).flatten

/-- Free cells that a message of the header given may take (R191, R302). -/
def cellsFor (t : Tile) (h : BitVec 512) : Nat := ((upto (cellLimit t h)).filter (fun i => !(cellsTaken t).contains i)).length

/-- An entry's bytes go into the hamper region: its header into the header area, or header and payload into cells, the lowest that are free
(R190, log 83). -/
def placeEntry (s : State) (x : HamEntry) : HamEntry × State :=
  let t := s.tile
  if x.rdv || x.neg then
    let ks := freeNums 256 1 (headsTaken t)
    ({ x with cells := ks }, { s with tile := ks.foldl (fun t k => regionWrite t (headBase t k) (leBytes x.hdr.toNat 64)) t })
  else
    let bs := leBytes x.hdr.toNat 64 ++ x.body
    let ks := freeNums (cellLimit t x.hdr) (cellsNeed x.body.length) (cellsTaken t)
    ({ x with cells := ks }, { s with tile := ks.zipIdx.foldl (fun t p => regionWrite t (cellBase t p.1) ((bs.drop (256 * p.2)).take 256)) t })

def addHamper (s : State) (x : HamEntry) : State :=
  let (x, s) := placeEntry s x
  updEng s (fun e => { e with hamper := e.hamper ++ [x] })

def setHamper (s : State) (seq : Nat) (f : HamEntry → HamEntry) : State :=
  updEng s (fun e => { e with hamper := e.hamper.map (fun x => if x.seq = seq then f x else x) })

def dropHamper (s : State) (seq : Nat) : State := updEng s (fun e => { e with hamper := e.hamper.filter (fun x => x.seq ≠ seq) })

/-- BKPM (R391, R392): a message is delivered to a receive; by DTRAP as it stands then, DEBUG becomes pending or a halt. -/
def bkpmHit (s : State) (h : BitVec 512) : State :=
  let t := s.tile
  let b := cellGet t.cw 0x20E
  if (cellGet t.cw 0x200).getLsbD 7 && acceptsHdr (rankLow b) (tagOf b) 0xFFFFFFFF (hdrGrp h) h then
    if (cellGet t.cw 0x200).getLsbD 6 then { s with tile := raiseAsync t 0x14 7 }
    else { s with tile := { t with dbg := { t.dbg with bkpm := true } } }
  else s

/-- A receive takes an entry: a plain partition removes it, an optimistic one keeps it marked consumed (R195, R302). A request-to-send keeps
its entry of the header area until its clear-to-send. -/
def takeEntry (s : State) (p : Posted) (x : HamEntry) : State :=
  let s := bkpmHit s x.hdr
  let s := if isOpt s.tile then setHamper s x.seq (fun y => { y with consumed := some p.seg }) else dropHamper s x.seq
  updPosted s p.id (fun q => { q with st := if x.rdv then .matched x else .landing x, since := s.cyc })

/-- The outcome of an arrival (R191): handled, or the input stops. -/
def admitMsg (s : State) (h : BitVec 512) (body : List Byte) : Option State :=
  let t := s.tile
  let rts := hdrKind h = 1
  let hit := if isStraggler t h || t.vt.due ≠ [] then none else firstPosted t h
  let fits := decide (cellsNeed body.length ≤ cellsFor t h)
  let headFree := decide (headUsed t < 256)
  if rts then
    match hit with
    | some p =>
      let (x, s) := newEntry s h [] true false
      let (x, s) := placeEntry s x
      some (takeEntry s p x)
    | none => if headFree then let (x, s) := newEntry s h [] true false; some (addHamper s x) else none
  else if isOpt t then
    (if fits then
      let (x, s) := newEntry s h body false false
      let s := acceptMsg (addHamper s x) h
      match hit with
      | some p => some (takeEntry s p x)
      | none => some s
     else none)
  else match hit with
    | some p => let (x, s) := newEntry s h body false false; some (acceptMsg (takeEntry s p x) h)
    | none =>
      if fits then let (x, s) := newEntry s h body false false; some (acceptMsg (addHamper s x) h)
      else if isMulti h || hdrKind h = 11 then none
      else if headFree then let (x, s) := newEntry s h [] true false; some (answer (addHamper s x) h 4 0)
      else none

/-- The earliest segment that holds an event of a key above the one given (R305). -/
def targetAbove (t : Tile) (k : List Nat) : Option Nat :=
  (t.vt.segs.reverse.find? (fun g => g.keys.any (fun e => keyLt k e))).map (·.no)

/-- The straggler test of an admitted message (R297): its rollback is due. -/
def stragglerDue (s : State) (h : BitVec 512) : State :=
  if isStraggler s.tile h then
    match targetAbove s.tile (hdrKey h) with
    | some n => { s with tile := { s.tile with vt := { s.tile.vt with due := s.tile.vt.due ++ [(n, false)] } } }
    | none => s
  else s

/-- Twins agree in source, tag, group, receive VT, send VT and send index (R308). -/
def twins (h k : BitVec 512) : Bool :=
  decide (hdrKey h = hdrKey k) && decide (hdrTag h = hdrTag k) && decide (hdrGrp h = hdrGrp k) && decide (hdrDst h = hdrDst k)

/-- ANTIS.ANNIH counts a pair (R309). -/
def countAnnih (s : State) : State :=
  let v := cwGet s.tile 0x034
  { s with tile := cwPut s.tile 0x034 (setBits v 32 32 (min 0xFFFFFFFF (bitsOf v 32 32 + 1))) }

/-- Those of some bytes on their way that have landed by now: which ones is free (R307, R309, log 66). -/
def landedSome (s : State) (bs : List (Nat × Byte)) : List (Nat × Byte) :=
  (bs.zipIdx.filter (fun p => (Config.freeWord (s.free + p.2)).getLsbD 0)).map (·.1)

/-- A receive of an optimistic partition whose message is annihilated ends with code 0x09; the bytes landed already stay (R309). -/
def annihilateRecv (s : State) (p : Posted) (x : HamEntry) : State :=
  let bs := (ltAddrs p.lt).zip x.body
  let s := { ((engWrite s p.seg (ltNj p.lt) (landedSome s bs)).getD s) with free := s.free + bs.length }
  countAnnih (finish (dropRanges (dropHamper (dropPosted s p.id) x.seq) p.rng) p.uid p.tok (compErr 0x09 0))

/-- An anti-message against the entries held (R309): `x` is its own entry when it already waits. -/
def antiMeet (s : State) (h : BitVec 512) : Option State :=
  match s.tile.eng.hamper.find? (fun e => !e.neg && twins e.hdr h) with
  | none => none
  | some e =>
    match e.consumed with
    | none => some (countAnnih (dropHamper s e.seq))
    | some seg =>
      match s.tile.eng.posted.find? (fun p => !p.ev && (match p.st with
          | .landing y => y.seq = e.seq
          | _ => false)) with
      | some p => some (annihilateRecv s p e)
      | none =>
        if s.tile.vt.segs.any (fun g => g.no = seg) then none
        else some (countAnnih (dropHamper s e.seq))

/-- The segment whose rollback an anti-message causes (R309). -/
def antiTarget (s : State) (h : BitVec 512) : Option Nat :=
  match s.tile.eng.hamper.find? (fun e => !e.neg && twins e.hdr h) with
  | some e => e.consumed
  | none => none

/-- The entries waiting after a rollback are handled in arrival order (R304, R309): pairs vanish, the rest are offered to the posted receives. No entry
is a straggler by now: each had its test as it arrived, and the rollback has gone back to the earliest segment that one names. -/
def settleOne (s : State) (x : HamEntry) : State :=
  match s.tile.eng.hamper.find? (fun e => e.seq = x.seq) with
  | none => s
  | some e =>
    if e.consumed.isSome then s
    else if e.neg then
      match antiMeet (dropHamper s e.seq) e.hdr with
      | some s' => s'
      | none => match antiTarget s e.hdr with
        | some seg => { s with tile := { s.tile with vt := { s.tile.vt with due := s.tile.vt.due ++ [(seg, true)] } } }
        | none => s
    else if s.tile.eng.hamper.any (fun n => n.neg && twins n.hdr e.hdr) then s
    else if s.tile.vt.due ≠ [] then s
    else match firstPosted s.tile e.hdr with
      | some p => takeEntry s p e
      | none => s

def settleHamper (s : State) : State :=
  (sortBy (fun a b => decide (a.seq ≤ b.seq)) s.tile.eng.hamper).foldl settleOne s

/-- A positive message that meets a waiting anti-message vanishes with it (R309); one whose own twin is held consumed waits unmatched for its
rollback (R304). -/
def meetNegative (s : State) (h : BitVec 512) : Option State :=
  match s.tile.eng.hamper.find? (fun e => e.neg && twins e.hdr h
      && !s.tile.eng.hamper.any (fun y => !y.neg && y.consumed.isSome && twins y.hdr e.hdr)) with
  | some e => some (countAnnih (dropHamper s e.seq))
  | none => none

/-! ## The sending engine (R194, R201) -/

/-- A send's head leaves; the send keeps the header with the colours that it left with (R312, R331). -/
def sendLeaves (s : State) (o : SendOp) (body : List Byte) : State :=
  let (p, s) := stampAs (hdrBench o.hdr) s ⟨o.hdr, body⟩
  sendPkt (updSend s o.handle (fun q => { q with hdr := p.hdr })) s.tile.site (endOf s (hdrDst o.hdr) (dieOf s.tile.site)) 1 p

/-- The header of a SEND, with the colour of the moment (R198, R201, R295, R331). -/
def sendHdr (s : State) (o : EngOp) (kind len handle : Nat) : BitVec 512 :=
  let opt := isOpt s.tile
  mkHdr (rankLow o.a).toNat (rankOf s.tile) o.grp (flagsOf kind 1 0 false false s.tile.bench.colour) (tagOf o.a) (if opt then (sendVt o.lvt o.b).toNat else 0)
    (if opt then o.lvt.toNat else 0) (if opt then o.six else 0) len handle 0

/-- A queued rendezvous send may announce itself: no earlier send to its destination is still to leave (R189). -/
def pumpFrom : List SendOp → List Nat → State → State
  | [], _, s => s
  | o :: r, held, s =>
    let d := hdrDst o.hdr
    if o.st = .queued ∧ !o.eager ∧ !held.contains d then
      pumpFrom r held (updSend (sendLeaves s o []) o.handle (fun q => { q with st := .waitCts }))
    else if o.st = .queued ∨ o.st = .reading then pumpFrom r (d :: held) s
    else pumpFrom r held s

def pump (s : State) : State := pumpFrom s.tile.eng.sends [] s

/-- The engine takes up a SEND (R201). -/
def runSend (forced : Bool) (o : EngOp) (s : State) : State :=
  let e := o.lts.headD 0
  let len := ltSize e
  if 0x200000 < len then finish (dropRanges s o.rng) o.uid o.tok (compErr 0x08 0)
  else match refusedRank s (rankLow o.a).toNat with
    | some code => finish (dropRanges s o.rng) o.uid o.tok (compErr code 0)
    | none =>
      let eager := !forced && decide (len ≤ eagerLimit s.tile)
      let (h, s) := freshId s
      let x : SendOp := { handle := h, uid := o.uid, tok := o.tok, lt := e, hdr := sendHdr s o (if eager then 0 else 1) len h, eager := eager,
                          st := .queued, data := [], rng := o.rng, pre := false }
      pump (updEng s (fun g => { g with sends := g.sends ++ [x] }))

/-- A refused SEND (R296). -/
def runBackSend (o : EngOp) (s : State) : State := finish s o.uid o.tok (compOk 0)

/-- The engine posts a receive (R187, R203). -/
def runRecv (o : EngOp) (s : State) : State :=
  let rank := rankLow o.a
  let bad := decide (rank ≠ 0xFFFFFFFF) && (match refusedRank s rank.toNat with
    | some c => decide (c = 0x04)
    | none => false)
  if bad then finish (dropRanges s o.rng) o.uid o.tok (compErr 0x04 0)
  else
    let (id, s) := freshId s
    let p : Posted := { id := id, uid := o.uid, tok := o.tok, rank := rank, tag := tagOf o.a, mask := o.mask, grp := o.grp, lt := o.lts.headD 0,
                        rng := o.rng, st := .posted, req := none, since := s.cyc, ev := false, seg := o.seg }
    let s := updEng s (fun g => { g with posted := g.posted ++ [p] })
    if s.tile.vt.due ≠ [] then s else
    match lowestAccepted s.tile rank (tagOf o.a) o.mask o.grp with
    | some x => takeEntry s p x
    | none => s

/-- PROBE (R205). -/
def runProbe (o : EngOp) (s : State) : State :=
  let w : W64 := match lowestAccepted s.tile (rankLow o.a) (tagOf o.a) o.mask o.grp with
    | some x => BitVec.ofNat 64 (2 ^ 63 + (if x.rdv then 2 ^ 62 else 0) + (hdrLen x.hdr % 2 ^ 22) * 2 ^ 32 + hdrSrc x.hdr)
    | none => 0
  { s with tile := complete s.tile o.uid o.tok w false s.cyc }

/-- The posted receive and the length n = min(length, size) of its clear-to-send (R195, R196). -/
def ctsLen (p : Posted) (e : HamEntry) : Nat := min (hdrLen e.hdr) (ltSize p.lt)

/-- The header of a completed receive goes to the next envelope slot, in the hamper region too (R190, R192); the handle it carries. -/
def envelope (s : State) (h : BitVec 512) : Nat × State :=
  let e := s.tile.eng
  let gen := e.envRound
  let slot := e.envNext
  let round := if slot = 255 then (if gen = 255 then 1 else gen + 1) else gen
  let s := { s with tile := regionWrite s.tile (regionBase s.tile 0x012 + 64 * slot) (leBytes h.toNat 64) }
  (256 * gen + slot, updEng s (fun g =>
    { g with env := cellSet g.env slot h, envGen := cellSet g.envGen slot (BitVec.ofNat 8 gen), envNext := (slot + 1) % 256, envRound := round }))

/-- A receive completes with `n` bytes delivered (R195, R196, R199). -/
def endRecv (s : State) (p : Posted) (e : HamEntry) (n : Nat) : State :=
  let (h, s) := envelope s e.hdr
  finish (dropRanges (dropPosted s p.id) p.rng) p.uid p.tok (compWord false 0 (decide (n < hdrLen e.hdr)) false false h n)

/-- A receive matched before the flip that the capture in progress follows: it is pre-cut (R332). -/
def preMatched (t : Tile) (p : Posted) : Bool := match t.bench.cap with
  | some c => isMatched p && !isOpt t && !c.done && decide (p.id < c.preId) && !c.eng.posted.any (fun q => q.id = p.id)
  | none => false

/-- The colour of a clear-to-send: its header is formed as the receive matches (R331, R332). -/
def ctsColour (t : Tile) (p : Posted) : Bool := if preMatched t p then !t.bench.colour else t.bench.colour

/-- The clear-to-send of a matched receive, its length n in bytes 36 to 39 (log 85); a length of 0 completes the receive at once
(R195, R428). -/
def ctsSend (s : State) (p : Posted) (e : HamEntry) : State :=
  let n := ctsLen p e
  let s := tileSendAs (ctsColour s.tile p) s (endOf s (hdrSrc e.hdr) (dieOf s.tile.site)) 2 ⟨answerHdr s.tile e.hdr 2 n, []⟩
  if n = 0 then endRecv s p e 0 else updPosted s p.id (fun q => { q with st := .streaming e n })

/-- The completion word of a cancelled receive (R197). -/
def cancelWord : W64 := compWord false 0 false false true 0 0

/-- Ends an unlanded receive: a matched request-to-send goes back and is offered again (R197). -/
def cancelRecv (s : State) (p : Posted) : State :=
  match p.st with
  | .posted => finish (dropRanges (dropPosted s p.id) p.rng) p.uid p.tok cancelWord
  | .matched e =>
    let s := finish (dropRanges (dropPosted s p.id) p.rng) p.uid p.tok cancelWord
    let s := addHamper s e
    match firstPosted s.tile e.hdr with
    | some q => takeEntry s q e
    | none => s
  | _ => s

/-- The clear-to-send of a matched receive is due: the fourth cycle after its match has come (R428). -/
def ctsDue (s : State) (p : Posted) : Bool := isMatched p && decide (p.since + 4 ≤ s.cyc)

/-- A receive is cancelled (R197): a clear-to-send that falls due in the same fabric cycle goes first, and the receive completes normally. -/
def cancelOne (s : State) (p : Posted) : State :=
  match p.st with
  | .matched e => if ctsDue s p then ctsSend s p e else cancelRecv s p
  | _ => cancelRecv s p

/-- CANCEL (R197, R206). -/
def runCancel (r : Reg) (o : EngOp) (s : State) : State :=
  match s.tile.eng.posted.find? (fun p => p.uid = o.uid && p.tok = r && p.req.isNone) with
  | some p => cancelOne s p
  | none => s

/-- The receives of a task that has exited are cancelled (R292). -/
def runQuit (o : EngOp) (s : State) : State := (s.tile.eng.posted.filter (fun p => p.uid = o.uid && p.req.isNone)).foldl cancelOne s

/-! ## Steps of the message engines -/

/-- Runs a step at a tile of a partition. -/
def atTile (s : State) (site : Nat) (f : State → State) : Out :=
  .next (match tileAt s site with
    | some _ => f (focus site s)
    | none => s)

/-- A step on the page of a site (R408): a working site that no partition has used has a tile at its reset values; a retired one ignores it. -/
def atPage (s : State) (site : Nat) (f : State → State) : Out :=
  .next (if s.mgr.retired.contains site ∨ 4096 ≤ site then s else f (focus site (listSite s site)))

/-- The packet at the head of a source's traffic to a destination on a plane for an engine, if the test holds for it (R17, R377, log 102). -/
def headFor (s : State) (src dst plane eng : Nat) (ok : BitVec 512 → Bool) : Option (Packet × State) :=
  match takeFor s src dst plane eng with
  | some (p, s') => if ok p.hdr then some (p, s') else none
  | none => none

/-- The same for the message and matching engines. -/
def headPkt (s : State) (src dst plane : Nat) (ok : BitVec 512 → Bool) : Option (Packet × State) := headFor s src dst plane 0 ok

/-- The same for a source whose packets one engine handles: a quarry tile (R17, R220). -/
def headAny (s : State) (src dst plane : Nat) (ok : BitVec 512 → Bool) : Option (Packet × State) :=
  match takePkt s src dst plane with
  | some (p, s') => if ok p.hdr then some (p, s') else none
  | none => none

/-- The matching engine has handled an arrival in this cycle: a posting that is still to be handled falls into a later one (R187). -/
def noteArrival (s : State) : State := updEng s (fun e => { e with arrived := some s.cyc })

/-- The partition of the tile takes packets: it is not being contained (R372). -/
def takes (s : State) : Bool := match partnOf s s.tile.pid with
  | some p => decide (p.st ≠ .containing) && decide (p.st ≠ .contained)
  | none => false

/-- The round and bench colours of an admitted packet are counted (R312, R331, R339). -/
def countIn (s : State) (h : BitVec 512) : State :=
  let t := s.tile
  let k := hdrKind h
  let vt := if isMsgKind k then (if hdrRound h = t.vt.round then { t.vt with newRecv := t.vt.newRecv + 1 } else { t.vt with oldRecv := t.vt.oldRecv + 1 }) else t.vt
  let e := if isMsgKind k then { t.eng with msgIn := t.eng.msgIn + 1 } else t.eng
  { s with tile := { t with vt := vt, eng := e } }

/-- A message that belongs to the channel record of the capture in progress enters it before it is handled: one of the old colour
after the flip (R333), or in an optimistic partition one sent below the cut time (R335). -/
def recordChannel (s : State) (p : Packet) : State :=
  match s.tile.bench.cap with
  | some c =>
    let mine := if isOpt s.tile then decide (hdrSvt p.hdr < (cellGet c.cw 0x031).toNat) else hdrBench p.hdr != s.tile.bench.colour
    if isMsgKind (hdrKind p.hdr) && mine then
      { s with tile := { s.tile with bench := { s.tile.bench with cap := some { c with channel := c.channel ++ [p] } } } }
    else s
  | none => s

/-- A packet of the new colour is handled only after its receiver has flipped (R331). -/
def colourOk (s : State) (h : BitVec 512) : Bool :=
  match partnOf s s.tile.pid with
  | some p => decide (hdrBench h ≠ p.colour) || decide (s.tile.bench.colour = p.colour)
  | none => false

/-- An eager message or request-to-send is admitted, and its place in a channel record is taken first (R333, R335); none when the input
stops. -/
def admitArrival (s : State) (p : Packet) : Option State :=
  let s := recordChannel s p
  match meetNegative s p.hdr with
  | some s' => some (countIn s' p.hdr)
  | none =>
    match admitMsg s p.hdr p.body with
    | some s' => some (stragglerDue (countIn s' p.hdr) p.hdr)
    | none => none

/-- The same for a quarry tile: it has flipped before it takes a packet of the new colour from a site (R331). -/
def ownerColourOk (s : State) (site owner : Nat) (h : BitVec 512) : Bool :=
  match tileAt s site with
  | none => true
  | some t => match partnOf s t.pid with
    | none => true
    | some p => hdrBench h != p.colour || p.benches.all (fun b => decide (b.st ≠ 1) || b.acks.contains owner || isOpt t)

def isArrivalKind (h : BitVec 512) : Bool := [0, 1, 10].contains (hdrKind h) && !hdrAnti h

/-- MESSAGE_ARRIVAL (R187, R191, R297, R333): the head packet of the request plane from `src`. The request-to-send of a large quarry reply on the
response plane matches the receive that its request posted (R220); its clear-to-send is due in the fourth cycle after (R428). -/
def execMessageArrival (src dst : Nat) (s : State) : Out :=
  atTile s dst (fun s =>
    if !takes s then s else
    if 4096 ≤ src ∧ src < 4352 then
      match headAny s src dst 2 (fun h => hdrKind h = 1 && colourOk s h) with
      | some (p, s') => updEng s' (fun e => { e with owed := e.owed ++ [⟨s.cyc, src, p.hdr, s.tile.bench.colour⟩] })
      | none => s
    else if s.tile.eng.stopped.isSome then s
    else match headPkt s src dst 1 (fun h => isArrivalKind h && colourOk s h) with
      | some (p, s') => match admitArrival s' p with
        | some s'' => noteArrival s''
        | none => updEng s (fun e => { e with stopped := some src })
      | none => s)

/-- An anti-message takes effect, or waits as a negative entry (R309); none when the header area has no entry for it (R191). -/
def admitAnti (s : State) (h : BitVec 512) : Option State :=
  match antiMeet s h with
  | some s' => some s'
  | none =>
    if 256 ≤ headUsed s.tile then none
    else
      let (x, s) := newEntry s h [] false true
      let s := addHamper s x
      some (match antiTarget s h with
        | some seg => { s with tile := { s.tile with vt := { s.tile.vt with due := s.tile.vt.due ++ [(seg, true)] } } }
        | none => s)

/-- A packet of a restored channel record is admitted again (R343 step 3). -/
def admitAgain (s : State) (p : Packet) : Option State :=
  if hdrAnti p.hdr then admitAnti s p.hdr
  else match meetNegative s p.hdr with
    | some s' => some s'
    | none => admitMsg s p.hdr p.body

/-- Packets of a restored channel record are admitted again in their order, up to one that finds no room: the input stands stopped before it
(R191, R343, log 115). -/
def readmitFrom (src : Nat) : List Packet → State → State
  | [], s => updEng s (fun e => { e with readmits := [], stopped := none })
  | p :: r, s => match admitAgain s p with
    | some s' => readmitFrom src r s'
    | none => updEng s (fun e => { e with readmits := p :: r, stopped := some src })

/-- HAMPER_INPUT_RESUME (R191): the waiting packet is admitted once it fits, and the input runs on. -/
def execHamperInputResume (site : Nat) (s : State) : Out :=
  atTile s site (fun s => match s.tile.eng.stopped with
    | none => s
    | some src =>
      if s.tile.eng.readmits ≠ [] then readmitFrom src s.tile.eng.readmits s else
      match headPkt s src site 1 (fun _ => true) with
      | none => updEng s (fun e => { e with stopped := none })
      | some (p, s') =>
        if hdrAnti p.hdr then
          (if headUsed s.tile < 256 then updEng s (fun e => { e with stopped := none }) else s)
        else match admitArrival (updEng s' (fun e => { e with stopped := none })) p with
          | some s'' => noteArrival s''
          | none => s)

def retained (t : Tile) : Nat := t.eng.sends.foldl (fun n o => if o.eager && decide (o.st ≠ .queued) then n + o.data.length else n) 0

/-- A send whose packet has not left yet. -/
def unsent (o : SendOp) : Bool := decide (o.st = .queued) || decide (o.st = .reading)

/-- The sends for which the test holds and before which no send to their destination is still to leave (R189): those to different destinations are
in no order (R375). -/
def firstUnsent (ok : SendOp → Bool) : List Nat → List SendOp → List SendOp
  | _, [] => []
  | held, o :: r =>
    let d := hdrDst o.hdr
    let q := firstUnsent ok (if unsent o then d :: held else held) r
    if ok o && !held.contains d then o :: q else q

/-- Queued eager sends that find the 16 KiB of retention free enough (R194). -/
def readable (t : Tile) : List SendOp :=
  firstUnsent (fun o => o.eager && decide (o.st = .queued) && decide (retained t + ltSize o.lt ≤ 0x4000)) [] t.eng.sends

/-- EAGER_READOUT_START (R194): one of the sends that may be read out, by the agenda's choice. -/
def execEagerReadoutStart (site : Nat) (s : State) : Out :=
  atTile s site (fun s => match (readable s.tile)[s.pick]? with
    | some o => updSend (checkRead s (ltAddrs o.lt) 6 true) o.handle (fun q => { q with st := .reading, data := ltRead s.tile.mem o.lt })
    | none => s)

/-- An eager send issued before the flip leaves after it: the image holds what it keeps for its answer (R332, log 86). -/
def imageSend (s : State) (o : SendOp) : State :=
  match s.tile.bench.cap with
  | some c =>
    if hdrBench o.hdr != s.tile.bench.colour && !isOpt s.tile then
      let e := { c.eng with sends := c.eng.sends ++ [{ o with st := .retained, tok := 0, rng := [], pre := false }] }
      { s with tile := { s.tile with bench := { s.tile.bench with cap := some { c with eng := e } } } }
    else s
  | none => s

/-- EAGER_READOUT_DONE (R194): a message, by the agenda's choice of those being read out, leaves, its R entry is freed and its token completed. -/
def execEagerReadoutDone (site : Nat) (s : State) : Out :=
  atTile s site (fun s => match (firstUnsent (fun o => decide (o.st = .reading)) [] s.tile.eng.sends)[s.pick]? with
    | some o =>
      let s := imageSend (sendLeaves s o o.data) o
      pump (finish (dropRanges (updSend s o.handle (fun q => { q with st := .retained, rng := [] })) o.rng) o.uid o.tok (compOk o.data.length))
    | none => s)

/-- An answer reaches a sender: the send that owns its handle. -/
def answered (src dst kind : Nat) (s : State) (f : SendOp → BitVec 512 → State → State) : Out :=
  atTile s dst (fun s => match headPkt s src dst 2 (fun h => hdrKind h = kind && colourOk s h) with
    | some (p, s') => match s'.tile.eng.sends.find? (fun o => o.handle = hdrHandle p.hdr) with
      | some o => f o p.hdr s'
      | none => s'
    | none => s)

/-- The completion word of a rendezvous send of which `n` bytes have been taken (R194, R196). -/
def rdvWord (o : SendOp) (n : Nat) : W64 := compWord false 0 (decide (n < hdrLen o.hdr)) false false 0 n

/-- ACCEPTANCE_ARRIVAL (R194): retention is freed; of a rendezvous toward another module it tells that the data has landed (R376, log 87). -/
def execAcceptanceArrival (src dst : Nat) (s : State) : Out :=
  answered src dst 12 s (fun o _ s => match o.st with
    | .sent n => finish (dropSend s o.handle) o.uid o.tok (rdvWord o n)
    | _ => dropSend s o.handle)

/-- REFUSAL_ARRIVAL (R194). -/
def execRefusalArrival (src dst : Nat) (s : State) : Out :=
  answered src dst 4 s (fun o _ s => updSend s o.handle (fun q => { q with st := .waitCts }))

/-- The first clear-to-send that is due leaves. -/
def ctsFirst (s : State) : State := match s.tile.eng.posted.find? (ctsDue s) with
  | some p => match p.st with
    | .matched e => ctsSend s p e
    | _ => s
  | none => s

/-- CTS_SEND (R195, R428). -/
def execCtsSend (site : Nat) (s : State) : Out := atTile s site (fun s => if takes s then ctsFirst s else s)

/-- A clear-to-send owed to a quarry tile is due (R428). -/
def owedDue (s : State) (o : OwedCts) : Bool := decide (o.since + 4 ≤ s.cyc)

/-- The clear-to-sends of quarry replies that are due leave (R220, R428). -/
def ctsOwed (s : State) : State :=
  (s.tile.eng.owed.filter (owedDue s)).foldl (fun s o => tileSendAs o.colour s o.dst 2 ⟨answerHdr s.tile o.hdr 2 (hdrLen o.hdr), []⟩)
    (updEng s (fun e => { e with owed := e.owed.filter (fun o => !owedDue s o) }))

/-- The clear-to-sends that fall due in the cycle that begins leave (R428). -/
def ctsAll (s : State) : State :=
  let here := s.tile.site
  let due := (allTiles s).filter (fun t => t.eng.posted.any (ctsDue s) || t.eng.owed.any (owedDue s))
  focus here (due.foldl (fun s t =>
    let s := focus t.site s
    if takes s then t.eng.posted.foldl (fun s _ => ctsFirst s) (ctsOwed s) else s) s)

/-- A rendezvous send that was waiting at the flip is recorded in the image as waiting still (R332). -/
def waitingSend (s : State) (o : SendOp) : State :=
  match s.tile.bench.cap with
  | some c =>
    let held := s.tile.eng.ranges.filter (fun r => o.rng.contains r.id)
    let e := { c.eng with sends := c.eng.sends ++ [{ o with pre := false }], ranges := c.eng.ranges ++ held }
    let c := { c with waitRegs := c.waitRegs.erase (o.uid, o.tok), pre := c.pre.filter (fun i => !o.rng.contains i), eng := e }
    { s with tile := { s.tile with bench := { s.tile.bench with cap := some c } } }
  | none => s

/-- CTS_ARRIVAL (R194, R332): at a sender, or at the quarry tile 4096 + owner that holds a large reply (R220). -/
def execCtsArrival (src dst : Nat) (s : State) : Out :=
  if 4096 ≤ dst ∧ dst < 4352 then
    match headPkt s src dst 2 (fun h => hdrKind h = 2 && ownerColourOk s src (dst - 4096) h) with
    | some (p, s') => match s'.qheld.find? (fun x => x.src = dst && x.dst = src && decide (hdrHandle x.pkt.hdr = hdrHandle p.hdr)) with
      | some x => .next (sendPkt { s' with qheld := s'.qheld.erase x } dst src 2 ⟨setBits x.pkt.hdr 80 4 3, x.pkt.body⟩)
      | none => .next s'
    | none => .next s
  else answered src dst 2 s (fun o h s =>
    if o.st = .waitCts then
      let s := if o.pre && hdrBench h == s.tile.bench.colour then waitingSend s o else s
      updSend s o.handle (fun q => { q with hdr := setBits q.hdr 86 1 (if hdrBench h then 1 else 0), st := .streaming (hdrLen h), pre := false })
    else s)

/-- The sends that stream, in issue order. -/
def streams (t : Tile) : List SendOp := t.eng.sends.filter isStreaming

/-- RENDEZVOUS_STREAM_DONE (R194): the first n bytes of streaming send `k` have left, and its R entry is freed. The completion word of a
rendezvous is written once its data has landed (R376, log 87). -/
def execRendezvousStreamDone (site : Nat) (s : State) : Out :=
  atTile s site (fun s => match (streams s.tile)[s.pick]? with
    | some o => match o.st with
      | .streaming n =>
        let s := if o.eager then s else checkRead s ((ltAddrs o.lt).take n) 6 true
        let body := (if o.eager then o.data else ltRead s.tile.mem o.lt).take n
        let s := if n = 0 then s else
          tileSendAs (hdrBench o.hdr) s (endOf s (hdrDst o.hdr) (dieOf site)) 1 ⟨setBits o.hdr 80 4 3, body⟩
        let s := dropRanges s o.rng
        if o.eager then dropSend s o.handle
        else if n ≠ 0 then updSend s o.handle (fun q => { q with st := .sent n, rng := [] })
        else finish (dropSend s o.handle) o.uid o.tok (rdvWord o 0)
      | _ => s
    | none => s)

/-- The data of a rendezvous has landed: the send that owns it completes at its tile (R376); to another module an acceptance tells it (log 87). -/
def sentLanded (s : State) (h : BitVec 512) : State :=
  if otherModule s (hdrSrc h) then answer s h 12 0 else
  mapTile s (siteOfId s (rankTile (hdrSrc h))) (fun t =>
    match t.eng.sends.find? (fun o => o.handle = hdrHandle h) with
    | some o => match o.st with
      | .sent n =>
        complete { t with eng := { t.eng with sends := t.eng.sends.filter (fun x => x.handle ≠ o.handle) } } o.uid o.tok (rdvWord o n) true s.cyc
      | _ => t
    | none => t)

/-- Lands bytes in a receive buffer and completes the receive; with a short trail the receive waits (R195, R303). -/
def landRecv (s : State) (p : Posted) (e : HamEntry) (bs : List Byte) : State :=
  match engWrite s p.seg (ltNj p.lt) ((ltAddrs p.lt).zip bs) with
  | some s' => endRecv s' p e (min bs.length (ltSize p.lt))
  | none => { s with tile := shortAt s.tile 0 (usedIn s.tile 0) }

/-- The data of a stream, which lands in no order with other traffic (R189, R377); none while the input is stopped (R191). -/
def streamData (s : State) (e : HamEntry) : Option (Packet × State) :=
  if s.tile.eng.stopped.isSome then none else
  match s.net.find? (fun x => x.dst = s.tile.site && x.plane = 1 && hdrKind x.pkt.hdr = 3 && hdrSrc x.pkt.hdr = hdrSrc e.hdr
      && decide (hdrHandle x.pkt.hdr = hdrHandle e.hdr)) with
  | some x => if colourOk s x.pkt.hdr then some (x.pkt, { s with net := s.net.erase x }) else none
  | none => none

/-- The receives whose last byte may land next, from a whole message or a rendezvous stream. -/
def landable (s : State) : List (Posted × HamEntry × Option (Packet × State)) :=
  s.tile.eng.posted.filterMap (fun p => match p.st with
    | .landing e => some (p, e, none)
    | .streaming e _ => (streamData s e).map (fun x => (p, e, some x))
    | _ => none)

/-- RECEIVE_COMPLETE (R195): a receive of those whose last byte may land, by the agenda's choice; their order is not governed (R189). -/
def execReceiveComplete (site : Nat) (s : State) : Out :=
  atTile s site (fun s => match (landable s)[s.pick]? with
    | some (p, e, none) => landRecv s p e e.body
    | some (p, e, some (q, s')) => sentLanded (landRecv s' p e q.body) q.hdr
    | none => s)

/-- ANTI_MESSAGE_ARRIVAL (R187, R309, R335). -/
def execAntiMessageArrival (src dst : Nat) (s : State) : Out :=
  atTile s dst (fun s =>
    if !takes s || s.tile.eng.stopped.isSome then s else
    match headPkt s src dst 1 (fun h => hdrKind h = 0 && hdrAnti h && colourOk s h) with
    | none => s
    | some (p, s') =>
      match admitAnti (noteArrival (countIn (recordChannel s' p) p.hdr)) p.hdr with
      | some s'' => s''
      | none => updEng s (fun e => { e with stopped := some src }))

end Sys2Proof.Machine
end

