-- ==== Sys2Proof/Machine/Quarry.lean ====
section
/-! DEFINITION. Quarry requests, translation, quarry tiles and their frozen pages (10, 14 R328 to R330, R340). -/

namespace Sys2Proof.Machine

open Sys2Proof

/-! ## Slot meanings (R225 to R233) -/

def qva (v : W64) : Nat := bitsOf v 0 48

/-- QXLATE: a bit of the address operand that must be zero (R226). -/
def qxlate (s : State) (atom : Bool) (xa : W64) (bad : Bool) : State :=
  if bitsOf xa 60 2 ≠ 0 ∨ bitsOf xa 48 7 ≠ 0 ∨ (!atom ∧ bitsOf xa 55 5 ≠ 0) ∨ bad then addCause s 0x0B xa else s

/-- QRANGE of a contiguous range of `n` bytes at `q`, aligned to `z` (R226). -/
def qrange (s : State) (q n z : Nat) (operand : W64) : State :=
  if q % z ≠ 0 ∨ (n ≠ 0 ∧ (2 ^ 48 < q + n ∨ q / 2 ^ 21 ≠ (q + n - 1) / 2 ^ 21)) then addCause s 0x0A operand else s

/-- All 256 trackers are held back (R218). -/
def allHeld (t : Tile) : Bool := (upto 256).all (fun n => t.eng.trackers.any (fun p => p.1 = n && p.2.held))

/-- QPERM and QTIMEOUT (R226). -/
def qcommon (s : State) : State :=
  let s1 := if cwGet s.tile 0x023 = 0 then addCause s 0x0C 0 else s
  if allHeld s.tile then addCause s1 0x0D 256 else s1

/-- MSGSIZE of a deferred payload (R310). -/
def qpayload (s : State) (n : Nat) : State :=
  if isOpt s.tile ∧ 192 < n then addCause s 0x18 (BitVec.ofNat 64 n) else s

def layoutIf (s : State) (bad : Bool) (n : Nat) : State := if bad then addCause s 0x08 (BitVec.ofNat 64 n) else s

/-- The next register of a pair. -/
def X1 (s : State) (b : Reg) : W64 := X s (b + 1)

/-- QGET (R228). -/
def execQget (c : Ctl) (t a : Reg) (l : BitVec 3) (s : State) : Out :=
  engSlot c s (fun s =>
    let e := LT s l.toNat
    let xa := X s a
    let s1 := qcommon (qxlate (qrange (checkLt s l.toNat true) (qva xa) (ltSize e) 1 xa) false xa false)
    addOp (addSpan s1 e true) (engOp s .qget t xa 0 0 [e]))

/-- QPUT (R228). -/
def execQput (c : Ctl) (t a : Reg) (l : BitVec 3) (s : State) : Out :=
  engSlot c s (fun s =>
    let e := LT s l.toNat
    let xa := X s a
    let s1 := qcommon (qxlate (qrange (checkLt s l.toNat false) (qva xa) (ltSize e) 1 xa) false xa false)
    addOp (addSpan (qpayload s1 (ltSize e)) e false) (engOp s .qput t xa 0 0 [e]))

/-- The row segments of a tensor request: row, first QVA and bytes (R229). -/
def segments (e : BitVec 128) (base : Nat) (xb xc : W64) : List (Nat × Nat × Nat) :=
  let z := ltUnit e
  let nrows := bitsOf xc 28 28
  let ncols := bitsOf xc 0 28
  let row0 := bitsOf xb 32 32
  let col0 := bitsOf xb 0 32
  let n := min (ltElems e) (ncols - col0)
  if n = 0 then [] else
  ((upto (ltRows e)).filter (fun y => decide (row0 + y < nrows))).map (fun y => (y, base + ((row0 + y) * ncols + col0) * z, n * z))

/-- The shared checks of QGETT and QPUTT (R229). -/
def qtensor (s : State) (a b : Reg) (l : BitVec 3) (dest : Bool) : State :=
  let e := LT s l.toNat
  let xa := X s a
  let s1 := checkLt s l.toNat dest
  let s2 := layoutIf s1 (decide (ltTiles e ≠ 1) || decide (3 < ltEsize e)) l.toNat
  let z := ltUnit e
  let s3 := (segments e (qva xa) (X s b) (X1 s b)).foldl (fun s g => qrange s g.2.1 g.2.2 1 xa) (qrange s2 (qva xa) 0 z xa)
  qcommon (qxlate s3 false xa false)

/-- QGETT (R229). -/
def execQgett (c : Ctl) (t a b : Reg) (l : BitVec 3) (s : State) : Out :=
  engSlot c s (fun s =>
    let e := LT s l.toNat
    addOp (addSpan (qtensor s a b l true) e true) (engOp s .qgett t (X s a) (X s b) (X1 s b) [e]))

/-- QPUTT (R229). -/
def execQputt (c : Ctl) (t a b : Reg) (l : BitVec 3) (s : State) : Out :=
  engSlot c s (fun s =>
    let e := LT s l.toNat
    addOp (addSpan (qpayload (qtensor s a b l false) (ltSize e)) e false) (engOp s .qputt t (X s a) (X s b) (X1 s b) [e]))

/-- QATOM (R230). -/
def execQatom (c : Ctl) (t a b : Reg) (l : BitVec 3) (s : State) : Out :=
  engSlot c s (fun s =>
    let e := LT s l.toNat
    let xa := X s a
    let aop := bitsOf xa 56 4
    let n := if xa.getLsbD 55 then 8 else 4
    let s1 := checkLt s l.toNat true
    let s2 := layoutIf s1 (isOpt s.tile && !ltEmpty e && !ltNj e) l.toNat
    let s3 := qrange s2 (qva xa) n n xa
    let s4 := qcommon (qxlate s3 true xa (decide (9 < aop) || (aop = 9 && xa.getLsbD 55) || (aop = 8 && b = 31)))
    addOp (addSpan s4 e true) (engOp s .qatom t xa (X s b) (if aop = 8 then X1 s b else 0) [e]))

/-- The shared checks of QGATH and QSCAT (R231). -/
def qindexed (s : State) (a : Reg) (l : BitVec 3) (dest : Bool) : State :=
  let e := LT s l.toNat
  let i := LT s (l.toNat + 8)
  let xa := X s a
  let count (e : BitVec 128) : Nat := ltTiles e * ltRows e * ltElems e
  let s1 := checkLt (checkLt s l.toNat dest) (l.toNat + 8) false
  let s2 := layoutIf s1 (decide (3 < ltEsize e)) l.toNat
  let s3 := layoutIf s2 (decide (ltEsize i ≠ 2) || decide (count i ≠ count e)) (l.toNat + 8)
  qcommon (qxlate (qrange s3 (qva xa) 0 (ltUnit e) xa) false xa false)

/-- QGATH (R231). -/
def execQgath (c : Ctl) (t a : Reg) (l : BitVec 3) (s : State) : Out :=
  engSlot c s (fun s =>
    let e := LT s l.toNat
    let i := LT s (l.toNat + 8)
    addOp (addSpan (addSpan (qindexed s a l true) i false) e true) (engOp s .qgath t (X s a) 0 0 [e, i]))

/-- QSCAT (R231). -/
def execQscat (c : Ctl) (t a : Reg) (l : BitVec 3) (s : State) : Out :=
  engSlot c s (fun s =>
    let e := LT s l.toNat
    let i := LT s (l.toNat + 8)
    addOp (addSpan (addSpan (qpayload (qindexed s a l false) (ltSize e + ltSize i)) i false) e false) (engOp s .qscat t (X s a) 0 0 [e, i]))

/-- QFILL (R232). -/
def execQfill (c : Ctl) (t a b : Reg) (s : State) : Out :=
  engSlot c s (fun s =>
    let xa := X s a
    let s1 := qcommon (qxlate (qrange s (qva xa) (X s b).toNat 1 xa) false xa false)
    addOp s1 (engOp s .qfill t xa (X s b) (X1 s b) []))

/-- QCOPY (R232). -/
def execQcopy (c : Ctl) (t a b : Reg) (s : State) : Out :=
  engSlot c s (fun s =>
    let xa := X s a
    let n := (X1 s b).toNat
    let s1 := qrange (qrange s (qva xa) n 1 xa) (qva (X s b)) n 1 (X s b)
    addOp (qcommon (qxlate s1 false xa (decide (bitsOf (X s b) 48 16 ≠ 0)))) (engOp s .qcopy t xa (X s b) (X1 s b) []))

/-- FENCE.Q (R233). -/
def execFenceQ (c : Ctl) (t : Reg) (s : State) : Out := engSlot c s (fun s => addOp s (engOp s .fenceQ t 0 0 0 []))

/-! ## Requests and parts (R218) -/

def blankPart (op q n at_ : Nat) : Part :=
  { op := op, sub := 0, qva := q, len := n, elems := [], body := [], src := 0, srcHome := none, at_ := at_, home := none, st := .wait,
    walking := false, old := false }

/-- The elements of a gather or scatter, element k at base + index × z; an address beyond 2^48 − 1 fails alone (R231). -/
def elemParts (op z base : Nat) (idx : List Nat) (data : List Byte) : List Part :=
  let all := idx.zipIdx.map (fun p => (base + p.1 * z, p.2))
  let bad := all.filter (fun p => decide (2 ^ 48 < p.1 + z))
  let good := all.filter (fun p => decide (p.1 + z ≤ 2 ^ 48))
  let pages := (good.map (fun p => p.1 / 2 ^ 21)).reverse.dedup.reverse
  let body (es : List (Nat × Nat)) : List Byte := (es.map (fun p => (data.drop (z * p.2)).take z)).flatten
  (bad.map (fun p => { blankPart op p.1 z p.2 with elems := [p], sub := Nat.log2 z, st := .done 3 })) ++
  pages.map (fun g =>
    let es := good.filter (fun p => p.1 / 2 ^ 21 = g)
    { blankPart op (g * 2 ^ 21) (z * es.length) ((es.map (·.2)).headD 0) with elems := es, sub := Nat.log2 z, body := body es })

/-- 32-bit elements of a byte string. -/
def words32 : Nat → List Byte → List Nat
  | 0, _ => []
  | n + 1, bs => leNat (bs.take 4) :: words32 n (bs.drop 4)

/-- What a request reads of SRAM as the engine takes it up: its payload, or what was copied at issue (R225, R310). -/
def qData (m : Memory) (o : EngOp) : List Byte :=
  match o.kind with
  | .qput => ltRead m (o.lts.headD 0)
  | .qputt => ltRead m (o.lts.headD 0)
  | .qscat => ltRead m (o.lts.headD 0) ++ ltRead m (o.lts.getD 1 0)
  | .qgath => ltRead m (o.lts.getD 1 0)
  | _ => []

/-- The parts of a request. -/
def qParts (o : EngOp) (data : List Byte) : List Part :=
  let e := o.lts.headD 0
  let q := qva o.a
  match o.kind with
  | .qget => if ltSize e = 0 then [] else [blankPart 0 q (ltSize e) 0]
  | .qput => if ltSize e = 0 then [] else [{ blankPart 1 q (ltSize e) 0 with body := data }]
  | .qgett => (segments e q o.b o.c).map (fun g => blankPart 0 g.2.1 g.2.2 (g.1 * ltRb e))
  | .qputt => (segments e q o.b o.c).map (fun g => { blankPart 1 g.2.1 g.2.2 (g.1 * ltRb e) with body := (data.drop (g.1 * ltRb e)).take g.2.2 })
  | .qatom =>
    let n := if o.a.getLsbD 55 then 8 else 4
    [{ blankPart 2 q n 0 with sub := bitsOf o.a 56 4 + (if n = 8 then 16 else 0), body := leBytes o.b.toNat 8 ++ leBytes o.c.toNat 8 }]
  | .qgath => elemParts 3 (ltUnit e) q (words32 (data.length / 4) data) []
  | .qscat =>
    let d := data.take (ltSize e)
    let i := data.drop (ltSize e)
    elemParts 4 (ltUnit e) q (words32 (i.length / 4) i) d
  | .qfill => if o.b = 0 then [] else [{ blankPart 5 q o.b.toNat 0 with body := leBytes o.c.toNat 8 }]
  | .qcopy => if o.c = 0 then [] else [{ blankPart 6 q o.c.toNat 0 with src := qva o.b }]
  | _ => []

def isDone (p : Part) : Bool := match p.st with
  | .done _ => true
  | _ => false

def partOk (p : Part) : Bool := p.st = .done 0

def updReq (s : State) (id : Nat) (f : QReq → QReq) : State :=
  updEng s (fun e => { e with reqs := e.reqs.map (fun r => if r.id = id then f r else r) })

/-- The completion word of a request (R227): the code of the failing part that comes first in byte or element order. -/
def reqWord (r : QReq) : W64 :=
  let failed := r.parts.filter (fun p => !partOk p)
  let first := failed.foldl (fun (a : Option Part) p => match a with
    | some b => if p.at_ < b.at_ then some p else some b
    | none => some p) none
  let okSum := (r.parts.filter partOk).foldl (fun n p => n + p.len) 0
  match first with
  | some p => compWord true (match p.st with
      | .done c => c
      | _ => 0) false r.oob false 0 okSum
  | none => compWord false 0 r.trunc r.oob false 0 (if r.kind = .qgett then ltSize r.lt else okSum)

/-- Fences with no request before them complete (R233). -/
def settleFences : Nat → State → State
  | 0, s => s
  | n + 1, s => match s.tile.eng.reqs with
    | r :: q => if r.kind = .fenceQ then
        settleFences n (finish (updEng s (fun e => { e with reqs := q })) r.uid r.tok (compOk 0))
      else s
    | [] => s

/-- A request whose parts have all completed ends: entries freed, word written, receive entry freed (R227, R123, R186). -/
def endReq (s : State) (id : Nat) : State :=
  match s.tile.eng.reqs.find? (fun r => r.id = id) with
  | some r =>
    if r.kind ≠ .fenceQ && r.parts.all isDone then
      let s := finish (dropRanges s r.rng) r.uid r.tok (reqWord r)
      let s := updEng s (fun e => { e with reqs := e.reqs.filter (fun x => x.id ≠ id), posted := e.posted.filter (fun p => p.req ≠ some id) })
      settleFences (s.tile.eng.reqs.length + 1) s
    else s
  | none => s

/-- The bytes outside the tensor that QGETT fills (R229). -/
def fillBytes (o : EngOp) : List (Nat × Byte) :=
  let e := o.lts.headD 0
  let segs := segments e (qva o.a) o.b o.c
  let inside (k : Nat) : Bool := segs.any (fun g => decide (g.1 * ltRb e ≤ k) && decide (k < g.1 * ltRb e + g.2.2))
  (((ltAddrs e).zipIdx).filter (fun p => !inside p.2)).map (fun p => (p.1, BitVec.ofNat 8 (bitsOf o.c 56 8)))

def takesPosted (k : EngKind) : Bool := [EngKind.qget, .qgett, .qatom, .qgath].contains k
def isWriteKind (k : EngKind) : Bool := [EngKind.qput, .qputt, .qatom, .qscat, .qfill, .qcopy].contains k

/-- The engine takes up a request (R221): reads its payload, frees its R entries, divides it into parts. None while a short
trail holds the fill of a QGETT. -/
def startReq (o : EngOp) (copied : Option (List Byte)) (s : State) : Option State :=
  let data := match copied with
    | some d => d
    | none => qData s.tile.mem o
  let s := if copied.isSome then s else checkRead s ((match o.kind with
    | .qput => ltAddrs (o.lts.headD 0)
    | .qputt => ltAddrs (o.lts.headD 0)
    | .qscat => ltAddrs (o.lts.headD 0) ++ ltAddrs (o.lts.getD 1 0)
    | .qgath => ltAddrs (o.lts.getD 1 0)
    | _ => [])) 6 true
  match (if o.kind = .qgett then engWrite s o.seg (ltNj (o.lts.headD 0)) (fillBytes o) else some s) with
  | none => none
  | some s =>
    let (id, s) := freshId s
    let e := o.lts.headD 0
    let readRanges := (s.tile.eng.ranges.filter (fun r => o.rng.contains r.id && !r.write)).map (·.id)
    let s := dropRanges s readRanges
    let oob := (o.kind = .qgett || o.kind = .qputt) &&
      decide ((segments e (qva o.a) o.b o.c).foldl (fun n g => n + g.2.2) 0 ≠ ltRows e * ltRb e)
    let r : QReq := { id := id, uid := o.uid, tok := o.tok, kind := o.kind, lt := e, rng := o.rng.filter (fun i => !readRanges.contains i),
                      acq := o.a.getLsbD 63 || o.kind = .fenceQ, rel := o.a.getLsbD 62 || o.kind = .fenceQ, parts := qParts o data, oob := oob,
                      okBytes := 0, trunc := o.kind = .qatom && !ltEmpty e && decide (ltSize e < (if o.a.getLsbD 55 then 8 else 4)),
                      posted := takesPosted o.kind, seg := o.seg, colour := s.tile.bench.colour }
    let p : Posted := { id := id, uid := o.uid, tok := o.tok, rank := 0, tag := 0, mask := 0, grp := 0, lt := e, rng := [], st := .posted,
                        req := some id, since := s.cyc, ev := false, seg := o.seg }
    let s := updEng s (fun g => { g with reqs := g.reqs ++ [r], posted := if takesPosted o.kind then g.posted ++ [p] else g.posted })
    some (if o.kind = .fenceQ then settleFences (s.tile.eng.reqs.length + 1) s else endReq s id)

/-! ## Homes (R210, R214) -/

/-- The bytes at a home: quarry tile or expander. -/
def homeGet (s : State) (cap : Bool) (owner a : Nat) : Byte := if cap then cellGet s.cap a else cellGet s.quarry (qAddr owner a)

def homeRead (s : State) (cap : Bool) (owner a n : Nat) : List Byte := (upto n).map (fun i => homeGet s cap owner (a + i))

def homeWrite (s : State) (cap : Bool) (owner a : Nat) (bs : List Byte) : State :=
  if cap then { s with cap := writeBytes s.cap a bs } else { s with quarry := writeBytes s.quarry (qAddr owner a) bs }

/-! ## DRAM and its blocks (R211, R212) -/

/-- The keys of the 64-byte blocks of a range; expander memory has none. -/
def blocksOf (cap : Bool) (owner a n : Nat) : List Nat :=
  if cap ∨ n = 0 then [] else (upto ((a + n - 1) / 64 - a / 64 + 1)).map (fun i => qAddr owner a / 64 + i)

def qrec (s : State) (typ sev owner block d1 qasid : Nat) : State :=
  relRecord s typ sev 1 (modIdx s * 8192 + 4096 + owner) ((block - qAddr owner 0 / 64) * 64) d1 0 0 qasid

/-- The rows of a set of blocks, each opened and closed once (R212, log 30); a counter that fails its parity writes a record. -/
def useRows (s : State) (owner : Nat) (bs : List Nat) : State :=
  ((bs.map (fun b => Config.dramRow (b - qAddr owner 0 / 64))).dedup).foldl (fun s r =>
    let (bad, s) := useRow s owner r
    if bad then relRecord s 0x12 1 1 (modIdx s * 8192 + 4096 + owner) 0 r 0 0 0 else s) s

/-- A block as a read of it finds it (R211): one or two bad bytes are corrected and written back with a record, three or more poison it, with a
record at each read. -/
def readBlock (qasid owner : Nat) (s : State) (b : Nat) : State :=
  let k := s.qsoft.count b
  if s.qbad.contains b || decide (3 ≤ k) then
    let bad := s.qbad ++ List.replicate k b
    qrec { s with qsoft := s.qsoft.filter (fun x => x ≠ b), qbad := bad } 0x11 2 owner b (max 3 (bad.count b)) qasid
  else if k = 0 then s
  else qrec { s with qsoft := s.qsoft.filter (fun x => x ≠ b) } 0x10 1 owner b k qasid

/-- The blocks of a range as they are read: whether one of them is poisoned, and the state after (R211). -/
def readBlocks (s : State) (qasid : Nat) (cap : Bool) (owner a n : Nat) : Bool × State :=
  let bs := blocksOf cap owner a n
  let s := bs.foldl (readBlock qasid owner) (useRows s owner bs)
  (bs.any (fun b => s.qbad.contains b), s)

/-- A write of bytes at a home: a block written whole loses its bad bytes; one written in part is read first, and a poisoned one is left with
code 0x05 (R211). -/
def writeHome (s : State) (qasid : Nat) (cap : Bool) (owner a : Nat) (bs : List Byte) : Nat × State :=
  let whole (b : Nat) : Bool := decide (a ≤ (b - qAddr owner 0 / 64) * 64) && decide ((b - qAddr owner 0 / 64) * 64 + 64 ≤ a + bs.length)
  let all := blocksOf cap owner a bs.length
  let full := all.filter whole
  let part := all.filter (fun b => !whole b)
  let s := part.foldl (readBlock qasid owner) (useRows s owner all)
  let s := { s with qbad := s.qbad.filter (fun b => !full.contains b), qsoft := s.qsoft.filter (fun b => !full.contains b) }
  let left := part.filter (fun b => s.qbad.contains b)
  if left = [] then (0, homeWrite s cap owner a bs)
  else (5, (bs.zipIdx.filter (fun p => !left.contains (qAddr owner (a + p.2) / 64))).foldl (fun s p => homeWrite s cap owner (a + p.2) [p.1]) s)

/-! ## Walks (R214 to R216) -/

/-- What a walk ends with: a leaf and the level it was read at, or a completion code (R216). -/
inductive Walk where
  | leaf (entry : W64) (level : Nat)
  | fail (code : Nat)
deriving DecidableEq, Repr

def entOwner (e : W64) : Nat := bitsOf e 48 8
def entAddr (e : W64) : Nat := bitsOf e 12 36 * 4096
def entCap (e : W64) : Bool := e.getLsbD 3
def entW (e : W64) : Bool := e.getLsbD 2

/-- A quarry tile, or the frames of a range, are out (R417). -/
def ownerOut (s : State) (owner : Nat) : Bool := s.mgr.diesOut.contains (owner / 16) || s.mgr.stacksOut.contains (owner / 16)
def frameOut (s : State) (owner off size : Nat) : Bool :=
  s.mgr.framesOut.any (fun p => p.1 = owner && decide (off ≤ p.2 * 2 ^ 21) && decide (p.2 * 2 ^ 21 < off + size))

/-- The last conditions of R216 on a leaf. -/
def leafOk (s : State) (e : W64) (level : Nat) : Bool :=
  let size := if level = 2 then 2 ^ 30 else 2 ^ 21
  decide (entAddr e % size = 0) &&
  (if entCap e then decide (entOwner e < 16) && decide (entAddr e + size ≤ Config.capBytes)
   else !ownerOut s (entOwner e) && !frameOut s (entOwner e) (entAddr e) size && decide (entAddr e + size ≤ 0xB4000000))

/-- An entry as a walk reads it; none where its block is poisoned (R211). -/
def readEntry (s : State) (qasid owner a : Nat) : Option W64 × State :=
  let (bad, s) := readBlocks s qasid false owner a 8
  (if bad then none else some (BitVec.ofNat 64 (leNat (homeRead s false owner a 8))), s)

/-- The QVA bits that select an entry of a level and all above it. -/
def walkSel (level q : Nat) : Nat := q / 2 ^ (48 - 9 * level)

/-- A table that does not lie wholly in the usable memory of its quarry tile: the manual gives no failure of its own for it; the walk fails with
0x03. DESIGN CHOICE (log 90). -/
def tableOut (off : Nat) : Bool := decide (0xB4000000 < off + 4096)

/-- The levels of a walk from the table at `owner`, `off` (R214, R216); `got` are the pointers read so far, which a successful walk leaves in
the walk cache. -/
def walkFrom (die qasid q : Nat) : Nat → State → Nat → Nat → Nat → List WalkEntry → Walk × State
  | 0, s, _, _, _, _ => (.fail 3, s)
  | fuel + 1, s, level, owner, off, got =>
    if tableOut off then (.fail 3, s) else
    match readEntry s qasid owner (off + 8 * (walkSel level q % 512)) with
    | (none, s) => (.fail 5, s)
    | (some e, s) =>
      if e.getLsbD 0 = false ∨ bitsOf e 56 8 ≠ 0 ∨ bitsOf e 4 8 ≠ 0 then (.fail 3, s)
      else if e.getLsbD 1 then
        (if level ≠ 1 && leafOk s e level then (.leaf e level, { s with walkers := got ++ s.walkers }) else (.fail 3, s))
      else if level = 3 ∨ entCap e ∨ entW e then (.fail 3, s)
      else walkFrom die qasid q fuel s (level + 1) (entOwner e) (entAddr e) (⟨die, qasid, level, walkSel level q, e⟩ :: got)

/-- The walk cache's entry of a level for a QVA. -/
def walkCached (s : State) (die qasid level q : Nat) : Option WalkEntry :=
  s.walkers.find? (fun w => w.die = die && w.qasid = qasid && w.level = level && w.sel = walkSel level q)

/-- The walk begins below the deepest pointer that the walker still holds; an entry that it no longer holds is gone (R214, log 90). -/
def walkHeld (s : State) (die qasid q : Nat) : Nat → Option WalkEntry × State
  | 0 => (none, s)
  | level + 1 => match walkCached s die qasid (level + 1) q with
    | none => walkHeld s die qasid q level
    | some w =>
      if Config.walkHolds s.free (level + 1) then (some w, { s with free := s.free + 1 })
      else walkHeld { s with walkers := s.walkers.erase w, free := s.free + 1 } die qasid q level

/-- A walk of a QVA under a QASID by a die's walker: the root table is the one the host has set (R214). -/
def walk (s : State) (die qasid q : Nat) : Walk × State :=
  match walkHeld s die qasid q 2 with
  | (some w, s) => walkFrom die qasid q 3 s (w.level + 1) (entOwner w.entry) (entAddr w.entry) []
  | (none, s) =>
    let r := cellGet s.mgr.roots qasid
    if r = 0 then (.fail 3, s) else walkFrom die qasid q 3 s 1 (entOwner r) (bitsOf r 0 32) []

/-- The home of a QVA under a leaf. -/
def leafHome (e : W64) (level q : Nat) : Bool × Nat × Nat :=
  let size := if level = 2 then 2 ^ 30 else 2 ^ 21
  (entCap e, entOwner e, entAddr e + q % size)

/-- The translation buffer's answer (R214). -/
def tlbFind (t : Tile) (q : Nat) : Option (W64 × Nat) :=
  (t.eng.tlb.find? (fun x => x.1 = q / (if x.2.1 = 2 then 2 ^ 30 else 2 ^ 21) && (x.2.1 = 2 || x.2.1 = 3))).map (fun x => (x.2.2, x.2.1))

/-- Part `k` of a request changes. -/
def updPart (s : State) (id k : Nat) (f : Part → Part) : State :=
  updReq s id (fun r => { r with parts := r.parts.zipIdx.map (fun p => if p.2 = k then f p.1 else p.1) })

/-- A write kind of part needs W on its page (R215, R216). -/
def partWrites (op : Nat) : Bool := [1, 2, 4, 5, 6].contains op

/-- A part under a leaf: its home, or code 0x04 (R216). -/
def placePart (e : W64) (level : Nat) (p : Part) : Part :=
  if partWrites p.op && !entW e then { p with st := .done 4 }
  else { p with home := some (leafHome e level p.qva), elems := p.elems.map (fun x => ((leafHome e level x.1).2.2, x.2)) }

/-- The first part that has not been sent, by issue order and byte order (R221). -/
def nextPart (t : Tile) : Option (QReq × Nat × Part) :=
  t.eng.reqs.findSome? (fun r => (r.parts.zipIdx.find? (fun p => p.1.st = .wait)).map (fun p => (r, p.2, p.1)))

/-- The address of a part that is still to be translated: of the source first for a COPY. -/
def toWalk (p : Part) : Option (Nat × Bool) :=
  if p.op = 6 ∧ p.srcHome.isNone then some (p.src, true) else if p.home.isNone then some (p.qva, false) else none

/-- A translation arrives for a part. -/
def walkDone (s : State) (id k : Nat) (second : Bool) (w : Walk) : State :=
  let s := updPart s id k (fun p => { p with walking := false })
  match w with
  | .fail c => endReq (updPart s id k (fun p => { p with st := .done c })) id
  | .leaf e level =>
    if second then updPart s id k (fun p => { p with srcHome := some (leafHome e level p.src) })
    else endReq (updPart s id k (placePart e level)) id

/-- The first part of a request that needs a translation: its number, the address, and whether it is a copy's source. -/
def untranslated (r : QReq) : Option (Nat × Nat × Bool) :=
  (r.parts.zipIdx.findSome? (fun p => if p.1.st = .wait then (toWalk p.1).map (fun w => (p.2, w.1, w.2)) else none))

/-- Walks in progress at the walker of a die, which serves 64 (R214). -/
def walksAt (s : State) (die : Nat) : Nat :=
  ((allTiles s).filter (fun t => dieOf t.site = die)).foldl (fun n t => t.eng.reqs.foldl (fun n r => n + r.parts.countP (·.walking)) n) 0

def isWalking (t : Tile) (id k : Nat) : Bool := t.eng.reqs.any (fun r => r.id = id && ((r.parts[k]?).map (·.walking)).getD false)

/-- QUARRY_WALK (R214, R216): the first part that needs a translation finds it in the translation buffer, or is taken up by the walker of its
die; a walk in progress ends, and a success enters the translation buffer. -/
def execQuarryWalk (site : Nat) (s : State) : Out :=
  atTile s site (fun s =>
    match s.tile.eng.reqs.findSome? (fun r => (untranslated r).map (fun u => (r.id, u))) with
    | none => s
    | some (id, k, q, second) =>
      match tlbFind s.tile q with
      | some (e, level) => walkDone s id k second (.leaf e level)
      | none =>
        if !isWalking s.tile id k then
          (if walksAt s (dieOf site) < 64 then updPart s id k (fun p => { p with walking := true }) else s)
        else
          match walk s (dieOf site) (cwGet s.tile 0x023).toNat q with
          | (.leaf e level, s) =>
            let x := (q / (if level = 2 then 2 ^ 30 else 2 ^ 21), level, e)
            walkDone (updEng s (fun g => { g with tlb := (x :: g.tlb).take 128 })) id k second (.leaf e level)
          | (.fail c, s) => walkDone s id k second (.fail c))

/-! ## Dispatch, replies and timeouts (R218 to R222) -/

/-- ACQ and REL hold a part back (R222). -/
def heldBack (t : Tile) (r : QReq) : Bool :=
  let before := t.eng.reqs.takeWhile (fun x => x.id ≠ r.id)
  before.any (fun x => x.acq) || (r.rel && !before.isEmpty)

def trackerOf (t : Tile) (n : Nat) : Tracker := match t.eng.trackers.find? (fun p => p.1 = n) with
  | some p => p.2
  | none => { gen := 0, use := none, since := 0, held := false }

def setTracker (s : State) (n : Nat) (k : Tracker) : State :=
  updEng s (fun e => { e with trackers := (n, k) :: e.trackers.filter (fun p => p.1 ≠ n) })

/-- The lowest free tracker. -/
def freeTracker (t : Tile) : Option Nat := (upto 256).find? (fun n => (trackerOf t n).use.isNone && !(trackerOf t n).held)

/-- The elements of two parts in ascending k, each with its data (R231). -/
def mergeElems (z : Nat) (p x : Part) : List (Nat × Nat) × List Byte :=
  let es (q : Part) : List ((Nat × Nat) × List Byte) := q.elems.zipIdx.map (fun e => (e.1, (q.body.drop (z * e.2)).take z))
  let all := sortBy (fun a b => decide (a.1.2 ≤ b.1.2)) (es p ++ es x)
  (all.map (·.1), (all.map (·.2)).flatten)

/-- Translated parts of a gather or scatter to one owner are one part (R218). -/
def joinOwners : List Part → List Part
  | [] => []
  | p :: r =>
    let q := joinOwners r
    if p.st = .wait && (p.op = 3 || p.op = 4) then
      match q.find? (fun x => x.st = .wait && x.home.map (fun h => (h.1, h.2.1)) = p.home.map (fun h => (h.1, h.2.1))) with
      | some x =>
        let m := mergeElems (2 ^ p.sub) p x
        { p with len := p.len + x.len, at_ := min p.at_ x.at_, old := p.old || x.old, elems := m.1, body := m.2 } :: q.erase x
      | none => p :: q
    else p :: q

/-- A part may leave once it is translated; one of a gather or scatter once all of its request's are, since its owner's elements may lie in any
of them (R218). -/
def partReady (r : QReq) (p : Part) : Bool :=
  if p.op = 3 ∨ p.op = 4 then (untranslated r).isNone else (toWalk p).isNone

/-- The packet of a part (R220). DESIGN CHOICE (log 12): offsets of a GATHER or SCATTER are 8-byte physical addresses before the data, the length
of the header counts the element bytes and not the offsets, the operands of an ATOMIC are 8 bytes each, the pattern of a FILL is 8 bytes, and a
COPY carries its source's home. -/
def partPkt (s : State) (p : Part) (handle : Nat) : Packet :=
  let (cap, owner, a) := p.home.getD (false, 0, 0)
  let rank := rankMod (rankOf s.tile) * 8192 + 4096 + (if cap then 16 * owner else owner)
  let body := match p.op with
    | 3 => (p.elems.map (fun x => leBytes x.1 8)).flatten
    | 4 => (p.elems.map (fun x => leBytes x.1 8)).flatten ++ p.body
    | 6 => match p.srcHome with
      | some (c, o, b) => leBytes (if c then 1 else 0) 1 ++ leBytes o 1 ++ leBytes b 8
      | none => []
    | _ => p.body
  ⟨mkHdr rank (rankOf s.tile) 0 (flagsOf 5 1 0 false false false) 0 0 0 0 p.len handle
    (p.op + p.sub * 2 ^ 8 + (a + (if cap then 2 ^ 63 else 0)) * 2 ^ 64), body⟩

/-- The quarry tile of a home, as an endpoint: the proxy of the capacity tier stands beside Qd.0 (R224). -/
def homeEnd (h : Bool × Nat × Nat) : Nat := 4096 + (if h.1 then 16 * h.2.1 else h.2.1)

/-- The ways of a part from the tile at `site`: of the request, of its reply, and of the data of a COPY (R220). -/
def partWays (site : Nat) (p : Part) : List (Nat × Nat) :=
  let e := endSite (homeEnd (p.home.getD (false, 0, 0)))
  [(site, e), (e, site)] ++ (match p.srcHome with
    | some h => [(endSite (homeEnd h), e)]
    | none => [])

/-- A failed link lies on a way, or a failed router stands where it turns or ends (R371, R420). -/
def wayOut (s : State) (w : Nat × Nat) : Bool := linkDown s w.1 w.2 || routerStops s w.1 w.2

/-- QUARRY_PART_DISPATCH (R218, R221, R222): the next part, once translated, takes a tracker and leaves; with a failed link or router
on a way of its own, of its reply or of its copy data it fails (R227, R420, log 72). -/
def execQuarryPartDispatch (site : Nat) (s : State) : Out :=
  atTile s site (fun s =>
    match nextPart s.tile with
    | none => s
    | some (r, _, first) =>
      if heldBack s.tile r || !partReady r first then s else
      let s := updReq s r.id (fun r => { r with parts := joinOwners r.parts })
      match nextPart s.tile, freeTracker s.tile with
      | some (r, k, p), some n =>
        let tr := trackerOf s.tile n
        if (partWays site p).any (wayOut s) then
          endReq (updPart s r.id k (fun p => { p with st := .done 7 })) r.id
        else
        let s := setTracker s n { tr with use := some (r.id, k), since := s.cyc }
        let s := updPart s r.id k (fun p => { p with st := .sent n })
        tileSendAs r.colour s (homeEnd (p.home.getD (false, 0, 0))) 1 (partPkt s p (n + 256 * tr.gen))
      | _, _ => s)

/-- A tracker is released: its generation advances (R218). -/
def releaseTracker (s : State) (n : Nat) (held : Bool) : State :=
  let tr := trackerOf s.tile n
  setTracker s n { gen := (tr.gen + 1) % 256, use := none, since := s.cyc, held := held }

/-- Saturating counters of a control word (R219). -/
def bumpCw (t : Tile) (n lo : Nat) : Tile :=
  let v := cwGet t n
  cwPut t n (setBits v lo 32 (min 0xFFFFFFFF (bitsOf v lo 32 + 1)))

/-- The bytes that a reply delivers, by their place in the destination buffer (R228 to R231). -/
def replyBytes (r : QReq) (p : Part) (body : List Byte) : List (Nat × Byte) :=
  let addrs := ltAddrs r.lt
  match p.op with
  | 0 => ((addrs.drop p.at_).take p.len).zip body
  | 2 => addrs.zip body
  | 3 =>
    let z := 2 ^ p.sub
    ((p.elems.zipIdx.map (fun x => ((addrs.drop (z * x.1.2)).take z).zip ((body.drop (z * x.2)).take z)))).flatten
  | _ => []

/-- QUARRY_REPLY (R218, R219, R227). -/
def execQuarryReply (owner dst : Nat) (s : State) : Out :=
  atTile s dst (fun s =>
    match headAny s (4096 + owner) dst 2 (fun h => (hdrKind h = 6 || hdrKind h = 3) && colourOk s h) with
    | none => s
    | some (pk, s') =>
      let n := hdrHandle pk.hdr % 256
      let tr := trackerOf s'.tile n
      if tr.gen ≠ hdrHandle pk.hdr / 256 % 256 ∨ tr.use.isNone then { s' with tile := bumpCw s'.tile 0x017 0 }
      else
        let (id, k) := tr.use.getD (0, 0)
        match s'.tile.eng.reqs.find? (fun r => r.id = id) with
        | none => releaseTracker s' n false
        | some r => match r.parts[k]? with
          | none => releaseTracker s' n false
          | some p =>
            let code := if hdrKind pk.hdr = 3 then 0 else hdrN pk.hdr 48 1
            match engWrite s' r.seg (ltNj r.lt) (if code = 0 then replyBytes r p pk.body else []) with
            | none => { s with tile := shortAt s.tile 0 (usedIn s.tile 0) }
            | some s2 => endReq (updPart (releaseTracker s2 n false) id k (fun p => { p with st := .done code })) id)

/-- QUARRY_PART_TIMEOUT (R218): no reply for 2^24 fabric cycles; those of a partition halt do not count. -/
def execQuarryPartTimeout (site tracker : Nat) (s : State) : Out :=
  atTile s site (fun s =>
    let tr := trackerOf s.tile tracker
    match tr.use with
    | none => s
    | some (id, k) =>
      if s.cyc < tr.since + 2 ^ 24 ∨ partnHalted s s.tile.pid then s else
      let s := releaseTracker s tracker true
      endReq (updPart { s with tile := bumpCw s.tile 0x017 32 } id k (fun p => { p with st := .done 2 })) id)

/-- TRACKER_HOLDBACK_END (R218). -/
def execTrackerHoldbackEnd (site tracker : Nat) (s : State) : Out :=
  atTile s site (fun s =>
    let tr := trackerOf s.tile tracker
    if tr.held ∧ tr.since + 2 ^ 24 ≤ s.cyc then setTracker s tracker { tr with held := false } else s)

/-! ## Frozen pages (R329, R330, R340) -/

/-- Pool pages of a quarry tile, of 16 KiB (R328, R415). -/
def poolPages (s : State) (owner : Nat) : Nat := 128 * (cellGet s.mgr.w2 (0x800 + 8 * owner)).toNat

/-- The benches of a partition that hold pool frames (R327). -/
def poolBenches (p : Partn) : List Bench := p.benches.filter (fun b => decide (1 ≤ b.st) && decide (b.st ≤ 4))

/-- Pool pages of a quarry tile that benches hold: frozen copies, each once for the generations that share it (R329), and the images of tiles by Qd.x (R337). -/
def poolUsed (s : State) (owner : Nat) : Nat :=
  s.partns.foldl (fun n p => (poolBenches p).foldl (fun n b =>
    n + b.imgs.foldl (fun k i => if 16 * dieOf i.1 + i.1 % 16 = owner then k + i.2 else k) 0)
      (n + ((((poolBenches p).map (fun b => b.frozen.filter (fun f => f.1 = owner))).flatten.map (·.2.2.1)).dedup).length)) 0

/-- Pool pages that a bench is charged with: those of its images, and the frozen copies that no newer bench shares with it (R329, R347, log 92). -/
def heldOf (p : Partn) (b : Bench) : Nat :=
  if b.st = 0 ∨ 5 ≤ b.st then 0 else
  let newer := ((poolBenches p).dropWhile (fun x => x.id ≠ b.id)).drop 1
  (b.imgs.map (·.2)).sum + b.frozen.countP (fun f => !newer.any (fun x => x.frozen.any (fun g => g.2.2.1 = f.2.2.1)))

def heldPages (p : Partn) : Nat := (p.benches.map (heldOf p)).sum

/-- BENCHCAP.LIMIT (R347). -/
def benchLimit (p : Partn) : Nat := let v := recField p.rec_ 50 2; if v = 0 then 0xFFFFFFFF else 1024 * v

def updBench (s : State) (pid id : Nat) (f : Bench → Bench) : State :=
  mapPart s pid (fun p => { p with benches := p.benches.map (fun b => if b.id = id then f b else b) })

/-- BENCH and BWAIT tokens of a bench complete (R349, R351). -/
def wakeTokens (s : State) (ws : List (Nat × Nat × Reg)) (w : W64) : State :=
  ws.foldl (fun s x => mapTile s x.1 (fun t => complete t x.2.1 x.2.2 w true s.cyc)) s

/-- BWAIT tokens of a bench complete (R351). -/
def wakeBwait (s : State) (pid id : Nat) (w : W64) : State :=
  mapPartn s pid (fun t =>
    let mine := t.eng.waits.filter (fun o => o.kind = .bwait && decide (bitsOf o.a 0 3 = id))
    mine.foldl (fun t o => complete t o.uid o.tok w true s.cyc) { t with eng := { t.eng with waits := t.eng.waits.filter (fun o => !mine.contains o) } })

/-- BENCHST.ID and CAPT, and the counts of pages held, follow a partition's benches (R346, R347, R350). -/
def showBench (s : State) (pid : Nat) : State :=
  let s := mapPart s pid (fun p => { p with benches := p.benches.map (fun b => { b with held := heldOf p b }) })
  let id := match partnOf s pid with
    | some p => match p.benches.find? (fun b => b.st = 1 || b.st = 2) with
      | some b => b.id
      | none => 0
    | none => 0
  let held := match partnOf s pid with
    | some p => heldPages p
    | none => 0
  mapPartn s pid (fun t =>
    let v := cwGet t 0x060
    let capt := match t.bench.cap with
      | some c => !c.done
      | none => false
    let t := cwPut t 0x060 (setBits (setBits v 0 3 id) 6 1 (if capt then 1 else 0))
    cwPut t 0x062 (setBits (cwGet t 0x062) 32 32 held))

/-- The haul engines let go of a bench's pages (R340, R352). -/
def stopHaul (s : State) (pid id : Nat) : State :=
  { s with mgr := { s.mgr with haul := s.mgr.haul.filter (fun g => !(g.pid = pid && g.id = id)) } }

/-- A bench is abandoned (R340): FAILED, its frames freed, its tokens completed with code 0x0A. -/
def abandon (s : State) (pid id : Nat) : State :=
  match partnOf s pid with
  | none => s
  | some p => match p.benches.find? (fun b => b.id = id) with
    | none => s
    | some b =>
      let s := stopHaul (wakeBwait (wakeTokens s b.waitB (compErr 0x0A 0)) pid id (compErr 0x0A 0)) pid id
      let s := updBench s pid id (fun b => { b with st := 6, images := [], frozen := [], shared := [], imgs := [], waitB := [] })
      showBench (mapPartn s pid (fun t => match t.bench.cap with
        | some c => if c.id = id then { t with bench := { t.bench with cap := none } } else t
        | none => t)) pid

/-- The 16 KiB pages that a range touches. -/
def pagesOf (a n : Nat) : List Nat := if n = 0 then [] else (upto ((a + n - 1) / 2 ^ 14 - a / 2 ^ 14 + 1)).map (fun i => a / 2 ^ 14 + i)

/-- `n` pool pages of a quarry tile are to be had: neither the partition's budget nor the pool stands against it (R340). -/
def poolRoom (s : State) (p : Partn) (owner n : Nat) : Bool :=
  decide (heldPages p + n ≤ benchLimit p) && decide (poolUsed s owner + n ≤ poolPages s owner)

/-- A sealed bench of the module is left to haul. -/
def haulLeft (s : State) : Bool := s.partns.any (fun q => q.benches.any (fun b => b.st = 3 || b.st = 4))

/-- A page that finds no room: over the budget, or with no sealed bench left to haul, the partition's newest bench not yet sealed is abandoned;
else, or where it has none, the page waits (R340). -/
def makeRoom (s : State) (p : Partn) (n : Nat) : Option State :=
  if decide (benchLimit p < heldPages p + n) || !haulLeft s then
    (p.benches.find? (fun b => b.st = 1 || b.st = 2)).map (fun b => abandon s p.pid b.id)
  else none

/-- A copy of a page becomes the frozen version of the benches for which the test holds (R329). -/
def copyPage (s : State) (pid owner page : Nat) (bytes : List Byte) (who : Bench → Bool) : State :=
  let n := s.mgr.nextCopy
  showBench (mapPart { s with mgr := { s.mgr with nextCopy := n + 1 } } pid (fun p => { p with benches := p.benches.map (fun b =>
    if who b then { b with shared := b.shared.filter (fun x => x ≠ (owner, page)),
                           frozen := (owner, page, n, bytes) :: b.frozen.filter (fun f => !(f.1 = owner && f.2.1 = page)) }
    else b) })) pid

/-- A range of a quarry tile as hardware that is no request reads it (R211, R212): quarry memory as it finds it. DESIGN CHOICE (log 114): the bytes of
a poisoned block, which are not delivered, are free values in what is made of them. -/
def found (s : State) (owner a n : Nat) : Memory × State :=
  let (bad, s1) := readBlocks s 0 false owner a n
  if bad then
    (((blocksOf false owner a n).filter (fun b => s1.qbad.contains b)).foldl (fun m b => writeBytes m (64 * b) ((upto 64).map (fun i =>
      Config.stateByte s.free (64 * b + i)))) s1.quarry, { s1 with free := s1.free + 1 })
  else (s1.quarry, s1)

/-- A page of 16 KiB as the bench hardware reads it. -/
def pageRead (s : State) (owner page : Nat) : List Byte × State :=
  let (m, s) := found s owner (page * 2 ^ 14) (2 ^ 14)
  (readBytes m (qAddr owner (page * 2 ^ 14)) (2 ^ 14), s)

/-- A page is copied where a bench still needs it: `need` reads the bytes. False while the write waits for a pool frame; a bench abandoned on the
way stays so (R329, R340). -/
def copyFor (need : Partn → Option (State → List Byte × State)) (who : Bench → Bool) (pid owner page : Nat) : Nat → State → State × Bool
  | 0, s => (s, false)
  | fuel + 1, s => match partnOf s pid with
    | none => (s, true)
    | some p => match need p with
      | none => (s, true)
      | some read =>
        if poolRoom s p owner 1 then
          let (bytes, s) := read s
          (copyPage s pid owner page bytes who, true)
        else match makeRoom s p 1 with
          | none => (s, false)
          | some s => copyFor need who pid owner page fuel s

/-- The copy of a page that a bench shares with another one (R329). -/
def sharedCopy (p : Partn) (id owner page : Nat) : Option (List Byte) :=
  match p.benches.find? (fun b => b.id = id) with
  | none => none
  | some b => match b.frozen.find? (fun f => f.1 = owner && f.2.1 = page) with
    | none => none
    | some f => if p.benches.any (fun x => decide (x.id ≠ id) && x.frozen.any (fun g => g.2.2.1 = f.2.2.1)) then some f.2.2.2 else none

/-- A write to a page in sight of a partition's benches: every generation that shares the page with the live version takes a copy first (R329);
for a write of the colour before a cut, not the bench of that cut, `keep`, whose version takes the write too and is its own (R330). -/
def freezeIn (s : State) (pid : Nat) (keep : Option Nat) (owner page : Nat) : State × Bool :=
  let who (b : Bench) : Bool := decide (keep ≠ some b.id) && b.shared.contains (owner, page)
  match copyFor (fun p => if p.benches.any who then some (fun s => pageRead s owner page) else none) who pid owner page 2 s, keep with
  | (s, true), some id => copyFor (fun p => (sharedCopy p id owner page).map (fun bytes s => (bytes, s))) (fun b => b.id = id) pid owner page 2 s
  | r, _ => r

/-- The generations of every partition are kept (R326, R329); `old` is the bench whose cut an old-colour write belongs to. -/
def freezePage (s : State) (old : Option (Nat × Nat)) (owner page : Nat) : State × Bool :=
  s.partns.foldl (fun a p => if !a.2 then a else freezeIn a.1 p.pid (match old with
    | some (i, id) => if i = p.pid then some id else none
    | none => none) owner page) (s, true)

/-- The same for a list of pages; false while the write waits (R340). -/
def freezeAll (s : State) (old : Option (Nat × Nat)) (owner : Nat) : List Nat → State × Bool
  | [] => (s, true)
  | g :: r => match freezePage s old owner g with
    | (s', true) => freezeAll s' old owner r
    | w => w

/-- The bench under capture at which a quarry tile has flipped. -/
def flippedBench (s : State) (pid owner : Nat) : Option Bench :=
  match partnOf s pid with
  | some p => p.benches.find? (fun b => (b.st = 1 || b.st = 2) && b.acks.contains owner)
  | none => none

/-- The 16 KiB pages of a quarry tile that the tables under one map, each with its QVA (R214, R328). -/
def leafPages (s : State) (owner : Nat) : Nat → Nat → Nat → Nat → Nat → List (Nat × Nat)
  | 0, _, _, _, _ => []
  | fuel + 1, level, o, off, q =>
    if tableOut off then [] else
    ((upto 512).map (fun i =>
      let e := BitVec.ofNat 64 (leNat (homeRead s false o (off + 8 * i) 8))
      let q := q + i * 2 ^ (48 - 9 * level)
      if e.getLsbD 0 = false ∨ bitsOf e 56 8 ≠ 0 ∨ bitsOf e 4 8 ≠ 0 then []
      else if e.getLsbD 1 then
        (if level ≠ 1 && leafOk s e level && !entCap e && decide (entOwner e = owner) then
          (pagesOf (entAddr e) (if level = 2 then 2 ^ 30 else 2 ^ 21)).zipIdx.map (fun p => (p.1, q + 2 ^ 14 * p.2)) else [])
      else if level = 3 then [] else leafPages s owner fuel (level + 1) (entOwner e) (entAddr e) q)).flatten

def pageMap (s : State) (qasid owner : Nat) : List (Nat × Nat) :=
  let r := cellGet s.mgr.roots qasid
  if r = 0 then [] else leafPages s owner 3 1 (entOwner r) (bitsOf r 0 32) 0

def mappedPages (s : State) (qasid owner : Nat) : List Nat := ((pageMap s qasid owner).map (·.1)).dedup

/-- The quarry tiles that hold a page of the partition's QASID (R339). -/
def benchOwners (s : State) (p : Partn) : List Nat :=
  let q := recField p.rec_ 16 2
  if q = 0 ∨ cellGet s.mgr.roots q = 0 then [] else (upto 256).filter (fun o => mappedPages s q o ≠ [])

/-- A plain bench passes to CAPTURING once every tile and quarry tile has flipped (R327). -/
def checkFlipped (s : State) (pid : Nat) : State :=
  match partnOf s pid with
  | none => s
  | some p =>
    if recField p.rec_ 3 1 % 2 = 0 && ((allTiles s).filter (fun t => p.sites.contains t.site)).all (fun t => t.bench.colour = p.colour) then
      mapPart s pid (fun q => { q with benches := q.benches.map (fun b =>
        if b.st = 1 && (benchOwners s p).all (fun o => b.acks.contains o) then { b with st := 2 } else b) })
    else s

/-- A quarry tile flips for the bench in progress (R329): every page of the QASID becomes shared. -/
def quarryFlip (s : State) (pid owner : Nat) : State :=
  match partnOf s pid with
  | none => s
  | some p => match p.benches.find? (fun b => ((b.st = 1 && recField p.rec_ 3 1 % 2 = 0) || b.st = 2) && !b.acks.contains owner) with
    | none => s
    | some b =>
      let qasid := recField p.rec_ 16 2
      let pages := if qasid = 0 then [] else mappedPages s qasid owner
      checkFlipped (updBench s pid b.id (fun b => { b with acks := b.acks ++ [owner], shared := b.shared ++ pages.map (fun g => (owner, g)) })) pid

/-- QUARRY_BENCH_FLIP (R329, R331). -/
def execQuarryBenchFlip (pid owner : Nat) (s : State) : Out := .next (quarryFlip s pid owner)

/-! ## Serving parts (R210, R211, R220, R221, R223, R224, R230, R330) -/

/-- The new value of an atomic (R230). -/
def atomNew (op n : Nat) (old v w : Nat) : Nat :=
  let sg (x : Nat) : Int := intVal n true x
  match op with
  | 0 => (old + v) % 2 ^ n
  | 1 => if sg old ≤ sg v then old else v
  | 2 => if sg old ≤ sg v then v else old
  | 3 => min old v
  | 4 => max old v
  | 5 => old &&& v
  | 6 => old ||| v
  | 7 => v
  | 8 => if old = v then w else old
  | _ => roundTo fF32 .rne false (numAdd false (floatVal fF32 old) (floatVal fF32 v))

/-- Reads from the frozen version of a page where it has a copy (R330). -/
def frozenByte (b : Bench) (s : State) (owner a : Nat) : Byte :=
  match b.frozen.find? (fun f => f.1 = owner && f.2.1 = a / 2 ^ 14) with
  | some f => f.2.2.2.getD (a % 2 ^ 14) 0
  | none => homeGet s false owner a

/-- Writes into the frozen copies of pages (R330). -/
def frozenWrite (b : Bench) (owner a : Nat) (bs : List Byte) : Bench :=
  { b with frozen := b.frozen.map (fun f =>
      if f.1 = owner then (f.1, f.2.1, f.2.2.1, f.2.2.2.zipIdx.map (fun q =>
        let x := f.2.1 * 2 ^ 14 + q.2
        if a ≤ x ∧ x < a + bs.length then bs.getD (x - a) 0 else q.1)) else f) }

/-- A byte as a part finds it: of the frozen version, where the part belongs before a cut (R330). -/
def partByte (s : State) (cap : Bool) (owner : Nat) (old : Option Bench) (a : Nat) : Byte :=
  match old with
  | some b => if cap then homeGet s cap owner a else frozenByte b s owner a
  | none => homeGet s cap owner a

/-- The same writes into the frozen version (R330); a bench covers no capacity-tier page (R328). -/
def alsoFrozen (s : State) (pid : Nat) (cap : Bool) (owner : Nat) (old : Option Bench) (ws : List (Nat × List Byte)) : State :=
  match old with
  | some b => if cap then s else updBench s pid b.id (fun b => ws.foldl (fun b p => frozenWrite b owner p.1 p.2) b)
  | none => s

/-- The ranges that a part writes at its home: address and bytes; `src` are the bytes a COPY reads. -/
def partWritten (h : BitVec 512) (body src : List Byte) (a : Nat) : List (Nat × List Byte) :=
  let len := hdrLen h
  match hdrN h 48 1 with
  | 1 => [(a, body)]
  | 4 =>
    let z := 2 ^ (hdrN h 49 1 % 4)
    let c := len / z
    (upto c).map (fun k => (leNat ((body.drop (8 * k)).take 8), (body.drop (8 * c + z * k)).take z))
  | 5 => [(a, (upto len).map (fun i => body.getD ((a + i) % 8) 0))]
  | 6 => [(a, src)]
  | _ => []

def writeParts (s : State) (qasid : Nat) (cap : Bool) (owner : Nat) : List (Nat × List Byte) → Nat × State
  | [] => (0, s)
  | (a, bs) :: r =>
    let (c, s) := writeHome s qasid cap owner a bs
    let (d, s) := writeParts s qasid cap owner r
    (if c ≠ 0 then c else d, s)

/-- A part performed at its home: code, bytes of the reply, and the state (R221, R230, R330). `old` is the bench whose frozen
version an old-colour request is served from; `src` are the bytes that a COPY has read. -/
def performPart (s : State) (pid qasid owner : Nat) (h : BitVec 512) (body src : List Byte) (old : Option Bench) : Nat × List Byte × State :=
  let spec := hdrN h 56 8
  let cap := decide (2 ^ 63 ≤ spec)
  let a := spec % 2 ^ 63
  let len := hdrLen h
  let byte (x : Nat) : Byte := partByte s cap owner old x
  match hdrN h 48 1 with
  | 0 =>
    let (bad, s) := readBlocks s qasid cap owner a len
    if bad then (5, [], s) else (0, (upto len).map (fun i => byte (a + i)), s)
  | 3 =>
    let z := 2 ^ (hdrN h 49 1 % 4)
    let addrs := (upto (len / z)).map (fun k => leNat ((body.drop (8 * k)).take 8))
    let (bad, s) := addrs.foldl (fun (q : Bool × State) x => let (b, s) := readBlocks q.2 qasid cap owner x z; (q.1 || b, s)) (false, s)
    if bad then (5, [], s) else (0, (addrs.map (fun x => (upto z).map (fun i => byte (x + i)))).flatten, s)
  | 2 =>
    let n := if len = 8 then 64 else 32
    let (bad, s) := readBlocks s qasid cap owner a len
    if bad then (5, [], s) else
    let v := leNat (body.take 8) % 2 ^ n
    let w := leNat ((body.drop 8).take 8) % 2 ^ n
    let aop := hdrN h 49 1 % 16
    let oldv := leNat ((upto len).map (fun i => byte (a + i)))
    let live := leNat (homeRead s cap owner a len)
    let s := homeWrite s cap owner a (leBytes (atomNew aop n live v w) len)
    (0, leBytes oldv len, alsoFrozen s pid cap owner old [(a, leBytes (atomNew aop n oldv v w) len)])
  | _ =>
    let ws := partWritten h body src a
    let (code, s) := writeParts s qasid cap owner ws
    (code, [], alsoFrozen s pid cap owner old ws)

/-- The expander port of a die (R12, R224) is out since the start (R417): its place in the list of ports out is 16 + d mod 8. -/
def cxlOut (s : State) (owner : Nat) : Bool := s.mgr.portsOut.contains (16 + owner / 16 % 8)

/-- The expander fails an access: the port is out, or by a free value (R224, log 50, log 91). -/
def expanderBad (s : State) (owner : Nat) : Bool := cxlOut s owner || Config.expanderFails s.free

/-- A part performed at its home or by the expander, whose own errors give code 0x05; whether a failed one was performed is free (R224). -/
def servePart (s : State) (pid qasid owner : Nat) (h : BitVec 512) (body src : List Byte) (old : Option Bench) : Nat × List Byte × State :=
  if decide (hdrN h 56 8 < 2 ^ 63) then performPart s pid qasid owner h body src old
  else
    let s' := { s with free := s.free + 2 }
    if expanderBad s owner then
      (5, [], if !cxlOut s owner && (Config.freeWord (s.free + 1)).getLsbD 0 then (performPart s' pid qasid owner h body src old).2.2 else s')
    else performPart s' pid qasid owner h body src old

/-- The pages that a part writes. -/
def writtenPages (h : BitVec 512) (body : List Byte) : List Nat :=
  let spec := hdrN h 56 8
  if 2 ^ 63 ≤ spec then [] else
  if hdrN h 48 1 = 2 then pagesOf spec (hdrLen h)
  else (((partWritten h body (List.replicate (hdrLen h) 0) spec).map (fun p => pagesOf p.1 p.2.length)).flatten).dedup

/-- The source of a COPY part, as its packet names it (log 12): capacity tier or not, owner, address. -/
def copySource (body : List Byte) : Bool × Nat × Nat :=
  let cap := decide (leNat (body.take 1) = 1)
  let o := leNat ((body.drop 1).take 1)
  (cap, if cap then 16 * o else o, leNat ((body.drop 2).take 8))

/-- The copy buffer of a part, once its data has arrived (R220). -/
def copyOf (s : State) (x : Transit) : Option (Nat × List Byte) := (s.copies.find? (fun c => c.1 = x)).map (·.2)

/-- A packet carries the data of a COPY part from the source owner to the destination owner; it names the requester in its tag (R220, log 12). -/
def copyDataOf (x y : Transit) : Bool :=
  y.dst = x.dst && decide (4096 ≤ y.src) && y.plane = 2 && hdrTag y.pkt.hdr = BitVec.ofNat 32 (hdrSrc x.pkt.hdr)
    && decide (hdrHandle y.pkt.hdr = hdrHandle x.pkt.hdr)

/-- The data of a COPY part on its way. -/
def copySent (s : State) (x : Transit) : Option Transit := s.net.find? (copyDataOf x)

/-- The bytes at homes that a part still has to touch: tier, owner, first address, length (R221, R375). -/
def partTouches (s : State) (x : Transit) : List (Bool × Nat × Nat × Nat) :=
  let h := x.pkt.hdr
  let spec := hdrN h 56 8
  let cap := decide (2 ^ 63 ≤ spec)
  let owner := x.dst - 4096
  let len := hdrLen h
  let whole := (cap, owner, spec % 2 ^ 63, len)
  let elems := (upto (len / 2 ^ (hdrN h 49 1 % 4))).map (fun k => (cap, owner, leNat ((x.pkt.body.drop (8 * k)).take 8), 2 ^ (hdrN h 49 1 % 4)))
  match hdrN h 48 1 with
  | 3 => elems
  | 4 => elems
  | 6 => let c := copySource x.pkt.body; whole :: (if (copyOf s x).isSome || (copySent s x).isSome then [] else [(c.1, c.2.1, c.2.2, len)])
  | _ => [whole]

/-- Two parts touch a common byte. -/
def meets (a b : List (Bool × Nat × Nat × Nat)) : Bool :=
  a.any (fun p => b.any (fun q => p.1 = q.1 && decide (p.2.1 = q.2.1) && decide (p.2.2.1 < q.2.2.1 + q.2.2.2) && decide (q.2.2.1 < p.2.2.1 + p.2.2.2)))

/-- The parts of a tile that a quarry tile may perform next: those that touch no byte of an earlier one (R221). -/
def readyFrom (s : State) (src owner : Nat) (before : List (List (Bool × Nat × Nat × Nat))) : List Transit → List Transit
  | [] => []
  | x :: r =>
    if x.src = src ∧ x.plane = 1 ∧ hdrKind x.pkt.hdr = 5 ∧ 4096 ≤ x.dst then
      let b := partTouches s x
      let q := readyFrom s src owner (before ++ [b]) r
      if decide (x.dst = 4096 + owner) && before.all (fun c => !meets b c) then x :: q else q
    else readyFrom s src owner before r

def readyParts (s : State) (src owner : Nat) : List Transit := readyFrom s src owner [] s.net

/-- A part at the CXL port proxy beside the quarry tile: it enters the proxy's input queue, and the port takes it while fewer than 1024 parts
are outstanding there; none once the port has it (R224). -/
def proxyStep (s : State) (owner : Nat) (x : Transit) : Option State :=
  let d := owner / 16
  let room := decide (s.cxl.countP (fun c => c.2.1 && decide (c.1 % 8 = d % 8)) < 1024)
  match s.cxl.find? (fun c => c.2.2 = x) with
  | some (_, true, _) => none
  | some c => some (if room then { s with cxl := s.cxl.map (fun y => if y = c then (d, true, x) else y) } else s)
  | none => some { s with cxl := s.cxl ++ [(d, room, x)] }

/-- The input queue of the proxy beside a quarry tile is full: its leaf link takes no request-plane traffic (R224). -/
def proxyFull (s : State) (owner : Nat) : Bool :=
  decide (owner % 16 = 0) && decide (Config.proxyQueue (owner / 16) < s.cxl.countP (fun c => !c.2.1 && decide (c.1 = owner / 16)))

/-- A part leaves the fabric, the copy buffers and the proxies. -/
def partGone (s : State) (x : Transit) : State :=
  { s with net := (s.net.erase x).filter (fun y => !copyDataOf x y), copies := s.copies.filter (fun c => c.1 ≠ x), cxl := s.cxl.filter (fun c => c.2.2 ≠ x) }

/-- The frozen version that an access of a partition, of the bench colour given, meets at a quarry tile where it belongs before a cut (R330). -/
def oldBench (s : State) (pid owner : Nat) (colour : Bool) : Option Bench :=
  match partnOf s pid with
  | some p => if colour = p.colour then none else flippedBench s pid owner
  | none => none

/-- A quarry tile flips at the first access of the new colour (R331). -/
def flipFor (s : State) (pid owner : Nat) (colour : Bool) : State :=
  match partnOf s pid with
  | some p => if colour = p.colour then quarryFlip s pid owner else s
  | none => s

/-- The data of a COPY part lands in the copy buffer: its code and its bytes (R220). -/
def copyLand (s : State) (x y : Transit) : State :=
  { s with net := s.net.erase y, copies := s.copies ++ [(x, hdrN y.pkt.hdr 48 1, y.pkt.body)] }

/-- The source owner of a COPY reads its bytes and sends them to the copy buffer that the destination owner has reserved, on the response plane;
where one quarry tile is both, they land at once. A part whose data cannot travel ends by its timeout (R220, log 12). -/
def copyRead (s : State) (t : Tile) (x : Transit) : State :=
  let (cap, owner, a) := copySource x.pkt.body
  let h := x.pkt.hdr
  let len := hdrLen h
  let s := if cap then s else flipFor s t.pid owner (hdrBench h)
  let (bad, s) := readBlocks s (cwGet t 0x023).toNat cap owner a len
  let bad := bad || (cap && expanderBad s owner)
  let bytes := if bad then [] else (upto len).map (fun i => partByte s cap owner (oldBench s t.pid owner (hdrBench h)) (a + i))
  let s := { s with free := s.free + (if cap then 1 else 0) }
  let y : Transit := ⟨4096 + owner, x.dst, 2, ⟨mkHdr (hdrDst h) (rankMod (hdrDst h) * 8192 + 4096 + owner) 0
    (flagsOf 6 2 0 false (hdrRound h) (hdrBench h)) (BitVec.ofNat 32 (hdrSrc h)) 0 0 0 bytes.length (hdrHandle h) (if bad then 5 else 0), bytes⟩⟩
  if y.src = y.dst then copyLand s x y
  else if wayOut s (endSite y.src, endSite y.dst) then partGone s x
  else sendPkt s y.src y.dst 2 y.pkt

/-- The reply of a part (R220): one larger than the requester's eager limit waits for its clear-to-send. -/
def partReply (s : State) (t : Tile) (owner : Nat) (h : BitVec 512) (code : Nat) (body : List Byte) : State :=
  let rank := rankMod (hdrSrc h) * 8192 + 4096 + owner
  let mk (kind : Nat) : BitVec 512 := mkHdr (hdrSrc h) rank 0 (flagsOf kind 2 0 false (hdrRound h) (hdrBench h)) 0 0 0 0
    body.length (hdrHandle h) (if kind = 6 then code else 0)
  if eagerLimit t < body.length then
    sendPkt { s with qheld := s.qheld ++ [⟨4096 + owner, t.site, 2, ⟨mk 6, body⟩⟩] } (4096 + owner) t.site 2 ⟨mk 1, []⟩
  else sendPkt s (4096 + owner) t.site 2 ⟨mk 6, body⟩

/-- A part is performed and answered; a write that must wait for a pool frame stays (R329, R330). -/
def partServed (s : State) (t : Tile) (owner : Nat) (x : Transit) : State :=
  let h := x.pkt.hdr
  let s1 := flipFor s t.pid owner (hdrBench h)
  let (sc, src) := (copyOf s1 x).getD (0, [])
  let old := oldBench s1 t.pid owner (hdrBench h)
  match freezeAll s1 (old.map (fun b => (t.pid, b.id))) owner (if sc = 0 then writtenPages h x.pkt.body else []) with
  | (s2, false) => s2
  | (s2, true) =>
    let s2 := partGone s2 x
    let (code, body, s3) := if sc ≠ 0 then (sc, [], s2)
      else servePart s2 t.pid (cwGet t 0x023).toNat owner h x.pkt.body src (oldBench s2 t.pid owner (hdrBench h))
    partReply s3 t owner h code body

/-- What a write of a partition's own hardware, of the bench colour given, finds at a home, as a QREQ part does: the quarry tile flips, and the pages
that it meets are kept; false while it waits for a pool frame (R329 to R331, R340). -/
def colouredRoom (s : State) (pid : Nat) (colour cap : Bool) (owner a n : Nat) : State × Bool :=
  if cap then (s, true)
  else
    let s := flipFor s pid owner colour
    freezeAll s ((oldBench s pid owner colour).map (fun b => (pid, b.id))) owner (pagesOf a n)

/-- Such a write: its code, none while it waits (R330, R397). -/
def colouredWrite (s : State) (pid qasid : Nat) (colour cap : Bool) (owner a : Nat) (bs : List Byte) : Option Nat × State :=
  match colouredRoom s pid colour cap owner a bs.length with
  | (s, false) => (none, s)
  | (s, true) =>
    let old := oldBench s pid owner colour
    let (code, s) := writeHome s qasid cap owner a bs
    (some code, alsoFrozen s pid cap owner old [(a, bs)])

/-- QUARRY_PART_SERVE (R221, R223, R224, R329, R330): a part of those that the quarry tile may perform next, by the agenda's choice. A part for the capacity tier
passes the proxy first; a COPY reads its source first, and its data comes over the fabric. -/
def execQuarryPartServe (src owner : Nat) (s : State) : Out :=
  .next (match (readyParts s src owner)[s.pick]? with
    | none => s
    | some x => match tileAt s src with
      | none => partGone s x
      | some t =>
        let cap := decide (2 ^ 63 ≤ hdrN x.pkt.hdr 56 8)
        match (if cap then proxyStep s owner x else none) with
        | some s' => if proxyFull s owner && !s.cxl.any (fun c => c.2.2 = x) then s else s'
        | none =>
          if !cap && proxyFull s owner then s
          else if hdrN x.pkt.hdr 48 1 = 6 ∧ (copyOf s x).isNone then
            match copySent s x with
            | some y => copyLand s x y
            | none => copyRead s t x
          else partServed s t owner x)

/-- The block that the scrubber of each quarry tile reads in a cycle: each of the 47185920 once in 2^36 fabric cycles, in ascending address (R400,
log 116). -/
def scrubBlock (cyc : Nat) : Nat := cyc % 2 ^ 36 * 47185920 / 2 ^ 36

/-- The scrubber of a quarry tile reads the block due, once (R400, R211, R212). -/
def scrubQuarry (s : State) (owner : Nat) : State :=
  let b := scrubBlock s.cyc
  if 256 ≤ owner ∨ ownerOut s owner ∨ s.qscrub.contains (owner, b) then s
  else let s := (readBlocks s 0 false owner (64 * b) 64).2
    { s with qscrub := s.qscrub ++ [(owner, b)] }

/-- QUARRY_SCRUB (R400): the quarry tile reads one block, the one due, with the outcomes of R211 and R212. -/
def execQuarryScrub (owner block : Nat) (s : State) : Out := .next (if block = scrubBlock s.cyc then scrubQuarry s owner else s)

end Sys2Proof.Machine
end

