-- ==== Sys2Proof/Machine/Fabric.lean ====
section
/-! DEFINITION. Fabric instructions, the scheduled plane, multicast, halo rows and fences (11). -/

namespace Sys2Proof.Machine

open Sys2Proof

/-! ## Slot meanings (R248 to R256) -/

/-- SENDT, MSEND and HALO: ILLOP in an optimistic partition (R249). -/
def fabSlot (c : Ctl) (s : State) (f : State → State) : Out := engSlot c s (fun s => if isOpt s.tile then illop s else f s)

/-- SENDT (R250). -/
def execSendt (c : Ctl) (t a b : Reg) (l : BitVec 3) (s : State) : Out :=
  fabSlot c s (fun s =>
    let e := LT s l.toNat
    let s1 := checkLt s l.toNat false
    let s2 := if 192 < ltSize e then addCause s1 0x18 (BitVec.ofNat 64 (ltSize e)) else s1
    addOp (addSpan s2 e false) (engOp s .sendt t (X s a) (X s b) 0 [e]))

/-- MSEND (R251). -/
def execMsend (c : Ctl) (t a : Reg) (l : BitVec 3) (s : State) : Out :=
  fabSlot c s (fun s =>
    let e := LT s l.toNat
    let s1 := checkLt s l.toNat false
    let s2 := if eagerLimit s.tile < ltSize e then addCause s1 0x18 (BitVec.ofNat 64 (ltSize e)) else s1
    addOp (addSpan s2 e false) (engOp s .msend t (X s a) 0 0 [e]))

/-- The directions that HALO names (R252). -/
def haloDirs (v : W64) : List Nat := (upto 4).filter (fun k => v.getLsbD k)

/-- Items 1 to 4 and 7 of R122 and RO = 0, for a landing entry (R252). -/
def landingOk (e : BitVec 128) : Bool := ltShapeOk e && !ltRo e && ltApart e

/-- HALO (R252). DESIGN CHOICE (log 109): where several entries fail, TVAL names the first by direction, of one direction its source entry, then its
landing entry, then their sizes. -/
def execHalo (c : Ctl) (t a : Reg) (e : BitVec 2) (s : State) : Out :=
  fabSlot c s (fun s =>
    let dirs := haloDirs (X s a)
    let src (k : Nat) : Nat := 4 * e.toNat + k
    let s1 := dirs.foldl (fun s k =>
      let s := checkLt s (src k) false
      let s := if landingOk (LT s (16 + src k)) then s else addCause s 0x08 (BitVec.ofNat 64 (16 + src k))
      if ltSize (LT s (src k)) = ltSize (LT s (16 + src k)) then s else addCause s 0x08 (BitVec.ofNat 64 (src k))) s
    let s2 := dirs.foldl (fun s k => addSpan s (LT s (src k)) false) s1
    addOp s2 (engOp s .halo t (X s a) 0 0 ((upto 4).map (fun k => LT s (src k)) ++ (upto 4).map (fun k => LT s (16 + src k)))))

/-- WAITMB changes no state; its wait is made before the bundle issues (R253). -/
def execWaitmb (c : Ctl) (_a : Reg) (_e : BitVec 2) (s : State) : Out := engSlot c s (fun s => s)

/-- The wait of WAITMB: COUNT has not reached the target in wrapping order (R253). -/
def mailboxShort (s : State) (a : Reg) (e : BitVec 2) : Bool :=
  let count := bitsOf (cwGet s.tile (0x050 + e.toNat)) 0 32
  decide (2 ^ 31 ≤ (count + 2 ^ 32 - bitsOf (X s a) 0 32) % 2 ^ 32)

/-- FENCEX (R254). -/
def execFencex (c : Ctl) (t a : Reg) (s : State) : Out := engSlot c s (fun s => addOp s (engOp s .fencex t (X s a) 0 0 []))

/-- MGSET (R255). -/
def execMgset (c : Ctl) (a b : Reg) (s : State) : Out :=
  engSlot c s (fun s => updIss s (fun i => { i with mgset := some (bitsOf (X s a) 0 6, bitsOf (X s b) 0 5) }))

/-- FSTAT (R256). -/
def execFstat (c : Ctl) (d a : Reg) (s : State) : Out :=
  engSlot c s (fun s =>
    let r := s.tile.rt
    addX s 2 d (if a = 4 then BitVec.ofNat 64 r.aside.length else (cellGet r.fstat a.toNat).setWidth 64))

/-! ## Engine operations -/

def updRt (t : Tile) (f : Router → Router) : Tile := { t with rt := f t.rt }

/-- A saturating counter of FSTAT (R256). -/
def countFstat (t : Tile) (n : Nat) : Tile := updRt t (fun r => { r with fstat := cellSet r.fstat n (satAdd (cellGet r.fstat n) 1) })

/-- An entry selects input `i` (select code i + 1) into some output (R237). -/
def selects (e : BitVec 16) (i : Nat) : Bool := (upto 5).any (fun o => bitsOf e (3 * o) 3 = i + 1)

/-- The first cycle from `c` on, within `n`, whose slot selects L and that is not taken (R250). -/
def departAt (slots : Store 16) (taken : List Nat) : Nat → Nat → Option Nat
  | 0, _ => none
  | n + 1, c => if selects (cellGet slots (c % 256)) 4 && !taken.contains c then some c else departAt slots taken n (c + 1)

/-- A rank names a working tile of the sender's partition (R250). -/
def timedPeer (s : State) (rank : Nat) : Bool :=
  isRank rank && !otherModule s rank && decide (rankTile rank < 4096) && (match partnOf s s.tile.pid with
    | some p => p.sites.contains (siteOfId s (rankTile rank))
    | none => false)

/-- The flit of a SENDT as its bundle issues: its bytes, and the cycles D0 and D in which it would and will leave (R250); none where the
destination or the slot table refuses it. -/
def timedFlit (o : EngOp) (s : State) : Option Timed :=
  let t := s.tile
  let start := o.b.toNat
  let ready := hereCyc s + 4
  let dst := (rankLow o.a).toNat
  match departAt t.rt.slots [] 256 start, departAt t.rt.slots (t.rt.buffer.map (·.d)) 4608 (max start ready) with
  | some d0, some d =>
    let body := ltRead t.mem (o.lts.headD 0)
    let hdr := mkHdr dst (rankOf t) o.grp (flagsOf 11 0 0 false false false) (tagOf o.a) 0 0 0 body.length 0
      (start + (d % 2 ^ 63 + (if d = d0 then 0 else 2 ^ 63)) * 2 ^ 64)
    if timedPeer s dst then some { uid := o.uid, tok := o.tok, pkt := ⟨hdr, body⟩, t := start, d0 := d0, d := d, rng := o.rng, ready := ready } else none
  | _, _ => none

/-- A SENDT that issues takes its place in the time buffer (R250); the engine answers one that is refused. -/
def timedSend (o : EngOp) (s : State) : Option State :=
  (timedFlit o s).map (fun f =>
    let s := checkRead s (ltAddrs (o.lts.headD 0)) 6 true
    { s with tile := updRt s.tile (fun r => { r with buffer := r.buffer ++ [f] }) })

/-- A refused SENDT in the engine (R250). -/
def runSendt (o : EngOp) (s : State) : State := finish (dropRanges s o.rng) o.uid o.tok (compErr 0x04 0)

/-- The R entries of flits whose bytes have been read are freed (R250). -/
def freeTimed (s : State) : State :=
  let done (f : Timed) : Bool := decide (f.ready ≤ hereCyc s)
  if s.tile.rt.buffer.all (fun f => f.rng = [] || !done f) then s
  else
    let s1 := dropRanges s ((s.tile.rt.buffer.filter done).map (·.rng)).flatten
    { s1 with tile := updRt s1.tile (fun r => { r with buffer := r.buffer.map (fun f => if done f then { f with rng := [] } else f) }) }

/-- A packet reaches a router: the group's entry is latched as its head flit arrives (R242). -/
def routerTake (t : Tile) (p : Packet) : Tile :=
  updRt t (fun r => { r with held := r.held ++ [(cellGet r.mcast (hdrN p.hdr 48 1), p)] })

/-- MSEND in the engine (R251). -/
def runMsend (o : EngOp) (s : State) : State :=
  let e := o.lts.headD 0
  let s := dropRanges s o.rng
  if bitsOf o.a 6 26 ≠ 0 then finish s o.uid o.tok (compErr 0x04 0) else
  let s := checkRead s (ltAddrs e) 6 true
  let body := ltRead s.tile.mem e
  let hdr := mkHdr 0xFFFFFFFF (rankOf s.tile) o.grp (flagsOf 10 1 0 false false false) (tagOf o.a) 0 0 0 body.length 0
    (bitsOf o.a 0 6 + 255 * 256)
  let (p, s) := stampPkt s ⟨hdr, body⟩
  finish { s with tile := routerTake s.tile p } o.uid o.tok (compOk body.length)

/-- The neighbour of a site in direction 0 N, 1 E, 2 S, 3 W, inside the module. -/
def neighbour (site k : Nat) : Option Nat :=
  let x := site % 128
  let y := site / 128
  match k with
  | 0 => if y = 0 then none else some (site - 128)
  | 1 => if x = 127 then none else some (site + 1)
  | 2 => if y = 31 then none else some (site + 128)
  | _ => if x = 0 then none else some (site - 1)

/-- The working tile of the partition beside this one (R252). -/
def halosTo (s : State) (k : Nat) : Option Nat :=
  match neighbour s.tile.site k, partnOf s s.tile.pid with
  | some n, some p => if p.sites.contains n then some n else none
  | _, _ => none

def rankAt (s : State) (site : Nat) : Nat := match tileAt s site with
  | some t => rankOf t
  | none => 0

/-- One direction of a HALO: a row of kind 9 with its landing entry (R244, R252). -/
def haloRow (o : EngOp) (acc : Nat × State) (k : Nat) : Nat × State :=
  let s := acc.2
  match halosTo s k with
  | none => acc
  | some n =>
    let e := o.lts.getD k 0
    let s := checkRead s (ltAddrs e) 6 true
    let body := ltRead s.tile.mem e
    let hdr := mkHdr (rankAt s n) (rankOf s.tile) o.grp (flagsOf 9 1 0 false false false) (BitVec.ofNat 32 ((k + 2) % 4)) 0 0 0 body.length 0
      (o.lts.getD (4 + k) 0).toNat
    (acc.1 + body.length, tileSend s n 1 ⟨hdr, body⟩)

/-- HALO in the engine (R252). -/
def runHalo (o : EngOp) (s : State) : State :=
  let (n, s) := (haloDirs o.a).foldl (haloRow o) (0, s)
  finish (dropRanges s o.rng) o.uid o.tok (compOk n)

/-- FENCEX in the engine: the marker leaves behind the packets that the port has taken, a packet of no kind whose length is the pair's sent count
(log 13), which is then reset (R247, R254). -/
def runFencex (o : EngOp) (s : State) : State :=
  let m := bitsOf o.a 0 16
  let die := dieOf s.tile.site
  if m = modIdx s then finish s o.uid o.tok (compErr 0x04 0)
  else match s.pairs.find? (fun p => p.1 = die && p.2.1 = m && p.2.2.1) with
    | none => finish s o.uid o.tok (compErr 0x07 0)
    | some p =>
      let sent := p.2.2.2.1
      let mark : Packet := ⟨mkHdr (m * 8192) (rankOf s.tile) 0 (flagsOf 15 1 1 false false false) 0 0 0 0 sent s.mgr.markers 0, []⟩
      let s := { s with pairs := s.pairs.map (fun q => if q.1 = die ∧ q.2.1 = m then (q.1, q.2.1, q.2.2.1, 0, q.2.2.2.2) else q),
                        outPort := s.outPort ++ [⟨s.tile.site, 4352 + die, 1, mark⟩], mgr := { s.mgr with markers := s.mgr.markers + 1 } }
      updEng s (fun g => { g with waits := g.waits ++ [{ o with b := BitVec.ofNat 64 sent, c := BitVec.ofNat 64 (s.mgr.markers - 1) }] })

/-! ## Steps of the scheduled plane (R238 to R240, R250) -/

/-- A flit of the time buffer whose departure cycle has come stands in input register L; its header is formed with the colours of that moment,
since a bench image holds the flits still in the buffer (R332, R343). A partition halted as a whole keeps its flits (R250). -/
def departFlit (s : State) : State :=
  if partnHalted s s.tile.pid then s else
  match s.tile.rt.buffer.find? (fun f => f.d = hereCyc s) with
  | none => s
  | some f =>
    let (p, s) := stampPkt s f.pkt
    let t := updRt s.tile (fun r => { r with buffer := r.buffer.erase f, inp := r.inp ++ [(4, f.d, p)] })
    let t := if f.d = f.d0 then t else countFstat t 3
    finish { s with tile := t } f.uid f.tok (compOk f.pkt.body.length)

/-- SENDT_DEPART (R250). -/
def execSendtDepart (site : Nat) (s : State) : Out := atTile s site departFlit

/-- A discarded copy or flit counts as admitted by the tile whose router discards it (R312). -/
def discard (s : State) (p : Packet) (n : Nat) : State := countIn { s with tile := countFstat s.tile n } p.hdr

/-- One output of a scheduled hop: the flit stands in the neighbour's facing register in the next cycle, over a die boundary in the fourth as the
receiving die counts (R239), or it reaches the timed-arrival queue in the next cycle; a tile that has no id has no rank that a flit could name
(R15, R238). -/
def schedOut (p : Packet) (s : State) (o : Nat) : State :=
  let site := s.tile.site
  let now := hereCyc s
  if o = 4 then
    (if hdrDst p.hdr = rankOf s.tile ∧ s.mgr.noId.contains site = false then { s with tile := updRt s.tile (fun r => { r with inp := r.inp ++ [(5, now + 1, p)] }) } else discard s p 1)
  else
    let inside := match neighbour site o, fenceOf s site with
      | some n, some q => if inRect q.rec_ n then some n else none
      | _, _ => none
    match inside with
    | some n =>
      let due := now + (if dieOf n = dieOf site then 1 else 4)
      let port := (o + 2) % 4
      mapTile s n (fun t => updRt t (fun r => { r with inp := (port, due, p) :: r.inp.filter (fun x => !(x.1 = port && decide (x.2.1 = due))) }))
    | none => discard s p 1

/-- The flit that stands in an input register in this cycle goes on by the slot-table entry of the cycle (R238). -/
def forwardFlit (port : Nat) (s : State) : State :=
  match s.tile.rt.inp.find? (fun x => x.1 = port && decide (port < 5) && decide (x.2.1 = hereCyc s)) with
  | none => s
  | some x =>
    let e := cellGet s.tile.rt.slots (hereCyc s % 256)
    let s := { s with tile := updRt s.tile (fun r => { r with inp := r.inp.erase x }) }
    let outs := (upto 5).filter (fun o => bitsOf e (3 * o) 3 = port + 1)
    if outs = [] then discard s x.2.2 1 else outs.foldl (schedOut x.2.2) s

/-- SCHEDULED_FLIT_FORWARD (R238). -/
def execScheduledFlitForward (site port : Nat) (s : State) : Out := atTile s site (forwardFlit port)

/-- A flit that output L delivers enters the timed-arrival queue of 16, or is discarded and counted (R240). -/
def queueFlit (s : State) : State :=
  match s.tile.rt.inp.find? (fun x => x.1 = 5 && decide (x.2.1 ≤ hereCyc s)) with
  | none => s
  | some x =>
    let s := { s with tile := updRt s.tile (fun r => { r with inp := r.inp.erase x }) }
    if s.tile.rt.queue.length < 16 then { s with tile := updRt s.tile (fun r => { r with queue := r.queue ++ [x.2.2] }) }
    else discard s x.2.2 0

/-- TIMED_ARRIVAL (R240). -/
def execTimedArrival (site : Nat) (s : State) : Out := atTile s site queueFlit

/-- The head of the timed-arrival queue enters the matching engine, one in a fabric cycle; one that finds no cell, or that a tile not yet
flipped must not take, waits in the queue (R240, R331); one that reaches a tile of a partition being contained is lost there, and counts as
admitted (R372). -/
def feedQueue (s : State) : State :=
  match s.tile.rt.queue with
  | [] => s
  | p :: r =>
    let s' := { s with tile := updRt s.tile (fun x => { x with queue := r, fed := some s.cyc }) }
    if takes s = false then countIn s' p.hdr
    else if s.tile.rt.fed = some s.cyc ∨ colourOk s p.hdr = false then s else
    match admitMsg (recordChannel s' p) p.hdr p.body with
    | some s'' => noteArrival (countIn s'' p.hdr)
    | none => s

/-- TIMED_QUEUE_DELIVER (R240). -/
def execTimedQueueDeliver (site : Nat) (s : State) : Out := atTile s site feedQueue

/-- A step at every tile for which the test holds. -/
def eachTile (s : State) (ok : Tile → Bool) (f : State → State) : State :=
  let here := s.tile.site
  focus here (((allTiles s).filter ok).foldl (fun s t => f (focus t.site s)) s)

/-- What the scheduled plane still has to do in a cycle as it ends: every flit in an input register goes on, every queue delivers (R238, R240). -/
def fabricEnd (s : State) : State :=
  eachTile s (fun t => !t.rt.inp.isEmpty || !t.rt.queue.isEmpty) (fun s => feedQueue ((upto 5).foldl (fun s k => forwardFlit k s) s))

/-! ## Multicast (R242, R243) -/

/-- The router that a copy reaches in a direction: failed routers pass it straight on (R420). -/
def nextRouter (s : State) (r : LaunchRec) : Nat → Nat → Nat → Option Nat
  | 0, _, _ => none
  | fuel + 1, site, k => match neighbour site k with
    | none => none
    | some n => if !inRect r n then none else if s.mgr.badRouters.contains n then nextRouter s r fuel n k else some n

/-- One output of a multicast copy: 0 to 3 a neighbour, 4 the tile. DESIGN CHOICE (log 110): the copy for the tile itself takes nothing from the
budget. -/
def mcastOut (p : Packet) (s : State) (o : Nat) : State :=
  let site := s.tile.site
  if o = 4 then
    (if s.tile.pid = 0 then discard s p 2 else sendPkt s (8192 + site) site 1 p)
  else
    let budget := hdrN p.hdr 49 1
    let next := match fenceOf s site with
      | some q => nextRouter s q.rec_ 128 site o
      | none => none
    match next with
    | some n => if budget = 0 then discard s p 2 else mapTile s n (fun t => routerTake t { p with hdr := setBits p.hdr (8 * 49) 8 (budget - 1) })
    | none => discard s p 2

/-- MULTICAST_FORWARD (R242, R243, R339): the oldest held packet is copied to each output of its latched entry. -/
def execMulticastForward (site : Nat) (s : State) : Out :=
  atTile s site (fun s => match s.tile.rt.held with
    | [] => s
    | (m, p) :: r =>
      let s := { s with tile := updRt s.tile (fun x => { x with held := r }) }
      let outs := (upto 5).filter (fun o => m.getLsbD o)
      if outs = [] then discard s p 2
      else
        let more := outs.length - 1
        let s := { s with tile := { s.tile with vt := { s.tile.vt with newSent := s.tile.vt.newSent + more } } }
        outs.foldl (mcastOut p) s)

/-! ## Halo rows (R244, R245) -/

/-- The landing entry of a halo row, and the bytes that it names (R244). -/
def haloEntry (p : Packet) : BitVec 128 := BitVec.ofNat 128 (hdrN p.hdr 48 16)
def haloBytes (p : Packet) : List (Nat × Byte) := (ltAddrs (haloEntry p)).zip p.body

/-- Bytes of a row land over what stands there; a line served before may still deliver that to a load (R119, log 89). -/
def haloBytesLand (src : Nat) (bs : List (Nat × Byte)) (s : State) : State :=
  if bs = [] then s else
  let s := storeRead s bs
  let old := s.tile.haloOld ++ bs.map (fun b => { addr := b.1, old := cellGet s.tile.mem b.1, src := src, counted := none })
  { s with tile := { sramWrite s.tile false bs with haloOld := old } }

/-- The bytes of a landing row that land at this moment: a free choice for each (R244, log 89). -/
def dripNow (free : Nat) (r : HaloRow) : List (Nat × Byte) := (r.left.zipIdx.filter (fun p => !Config.oldByte free p.2)).map (·.1)
def dripLater (free : Nat) (r : HaloRow) : List (Nat × Byte) := (r.left.zipIdx.filter (fun p => Config.oldByte free p.2)).map (·.1)

/-- Some bytes of the rows that are landing land: a load or an engine write that overlaps them meets each byte before or after (R244). -/
def haloDrip (s : State) : State :=
  if s.tile.eng.halos.all (fun r => r.left.isEmpty) then s
  else
    let s1 := s.tile.eng.halos.foldl (fun u r => haloBytesLand r.src (dripNow s.free r) u) s
    { updEng s1 (fun e => { e with halos := e.halos.map (fun r => { r with left := dripLater s.free r }) }) with free := s1.free + 1 }

/-- A row arrives: the engine checks its entry, with the XB in force, once (R244). Its bytes land from now on (`haloDrip`). -/
def haloLand (src : Nat) (p : Packet) (s : State) : State :=
  let good := ltSpanOk s.tile (haloEntry p)
  haloDrip (updEng s (fun e => { e with halos := e.halos ++ [⟨src, s.cyc, good, if good then haloBytes p else []⟩] }))

/-- A mailbox counts an arrival (R244, R245); a word of WRW that lands in the same cycle has it added. -/
def mbCount (t : Tile) (n now : Nat) (good : Bool) : Tile :=
  let v := cwGet t n
  let v := setBits v 0 32 (bitsOf v 0 32 + 1)
  let (k, bad) := mbOf t n now
  let t := { t with mbLate := (n, now, k + 1, bad || !good) :: t.mbLate.filter (fun x => x.2.1 = now && decide (x.1 ≠ n)) }
  cwPut t n (if good then v else v ||| 0x8000000000000000)

/-- The last bytes of the row land, and it is counted; what it has overwritten can from now on be found by no bundle that waits for the count
(R244, R253). -/
def haloCount (r : HaloRow) (p : Packet) (s' : State) : State :=
  let n := 0x050 + (hdrTag p.hdr).toNat % 4
  let s := haloBytesLand r.src r.left (countIn (recordChannel s' p) p.hdr)
  let s := updEng s (fun e => { e with halos := e.halos.filter (fun x => x.src ≠ r.src) })
  let old := s.tile.haloOld.map (fun h => if h.src = r.src ∧ h.counted.isNone then { h with counted := some n } else h)
  { s with tile := mbCount { s.tile with haloOld := old } n (hereCyc s) r.good }

/-- HALO_ARRIVAL (R244): the row lands, or BAD is to be set; in a later cycle the mailbox of its side counts it. -/
def execHaloArrival (src dst : Nat) (s : State) : Out :=
  atTile s dst (fun s =>
    if !takes s || s.tile.eng.stopped.isSome then s else
    match headFor s src dst 1 3 (fun h => hdrKind h = 9 && colourOk s h) with
    | none => s
    | some (p, s') => match s.tile.eng.halos.find? (fun x => x.src = src) with
      | none => haloLand src p s
      | some r => if r.since < s.cyc then haloCount r p s' else s)

/-! ## Congestion (R234, log 93) -/

/-- A number lies between two others. -/
def between (a b x : Nat) : Bool := decide (min a b ≤ x) && decide (x ≤ max a b)

/-- The output of a site's router that the XY route of a packet takes, if it passes there (R17): 4 to the tile; a quarry tile hangs beyond the
north or the south edge (R14). -/
def routeOut (x : Transit) (site : Nat) : Option Nat :=
  let a := endSite x.src
  let b := endSite x.dst
  let c := site % 128
  let r := site / 128
  if r = a / 128 ∧ between (a % 128) (b % 128) c ∧ c ≠ b % 128 then some (if a % 128 < b % 128 then 1 else 3)
  else if c = b % 128 ∧ between (a / 128) (b / 128) r then
    (if r ≠ b / 128 then some (if a / 128 < b / 128 then 2 else 0)
     else if 4096 ≤ x.dst ∧ x.dst < 4352 then some (if r = 0 then 0 else 2) else some 4)
  else none

/-- The input of a site's router that the route of a packet comes by. -/
def routeIn (x : Transit) (site : Nat) : Nat :=
  let a := endSite x.src
  let b := endSite x.dst
  if site = a then (if 4096 ≤ x.src ∧ x.src < 4352 then (if site / 128 = 0 then 0 else 2) else 4)
  else if site / 128 = a / 128 then (if a % 128 < b % 128 then 3 else 1)
  else if a / 128 < b / 128 then 0 else 2

/-- At each input port a free set-aside queue, of four for the port and plane, is assigned to a destination (R234). -/
def assignAside (t : Tile) (plane dst now : Nat) : Tile :=
  updRt t (fun r => { r with aside := (upto 5).foldl (fun a port =>
    let mine := a.filter (fun x => x.port = port && x.plane = plane)
    if mine.any (fun x => x.dst = dst) || decide (4 ≤ mine.length) then a else a ++ [⟨port, plane, dst, now, now⟩]) r.aside })

/-- Packets for a destination on a plane whose route leaves a site's router by an output. -/
def heading (s : State) (site port plane dst : Nat) : List Transit :=
  s.net.filter (fun x => x.dst = dst && x.plane = plane && decide (routeOut x site = some port))

/-- How many hops from its entry into the mesh a site lies on the route of a packet. -/
def hopsTo (x : Transit) (site : Nat) : Nat :=
  let a := endSite x.src
  let far (m n : Nat) : Nat := max m n - min m n
  far (a % 128) (site % 128) + far (a / 128) (site / 128)

/-- A packet is known to have come as far as a site, or further: it has stood at the head of a queue there (log 93). -/
def knownPast (s : State) (x : Transit) (site : Nat) : Bool :=
  (allTiles s).any (fun t => decide (hopsTo x site ≤ hopsTo x t.site) && t.rt.watch.any (fun w => w.2.1 = x))

/-- A packet comes to stand at the head of an output's queue: it stands nowhere else, and the packet that stood there has gone on (log 93: 8 + the
output for a packet that has left it). -/
def standAt (s : State) (site port : Nat) (x : Transit) : State :=
  let leave (t : Tile) : Tile := if t.rt.watch = [] then t else updRt t (fun r => { r with watch := r.watch.filter (fun w => w.2.1 ≠ x) })
  let s := { s with tile := leave s.tile, rest := s.rest.map leave }
  mapTile s site (fun t => updRt t (fun r =>
    { r with watch := r.watch.map (fun w => if w.1 = port ∧ w.2.1.plane = x.plane then (8 + port, w.2) else w) ++ [(port, x, s.cyc)] }))

/-- CONGESTION_DETECT (R234 items 1 and 2), by the agenda's choice: for 0 a packet that stands at the head of an output's queue, and has for 64
fabric cycles, has its destination given set-aside queues; for k + 1 the packet k of those that may stand there comes to the head (log 93). -/
def execCongestionDetect (site port plane dst : Nat) (s : State) : Out :=
  .next (match tileAt s site, s.pick with
    | none, _ => s
    | some t, 0 => match t.rt.watch.find? (fun w => w.1 = port && w.2.1.plane = plane && w.2.1.dst = dst && s.net.contains w.2.1) with
      | some w => if s.cyc < w.2.2 + 64 then s else mapTile s site (fun t => assignAside t plane dst s.cyc)
      | none => s
    | some _, k + 1 => match ((heading s site port plane dst).filter (fun x => !knownPast s x site))[k]? with
      | some x => standAt s site port x
      | none => s)

/-- CONGESTION_NOTICE (R234 item 3): a router whose output `port` leads to a router with a set-aside queue for the destination there, over a link that
may have carried a packet for it in the last 64 fabric cycles, does the same. -/
def execCongestionNotice (site port plane dst : Nat) (s : State) : Out :=
  .next (match neighbour site port with
    | none => s
    | some n => match tileAt s n with
      | none => s
      | some u =>
        if u.rt.aside.any (fun x => x.port = (port + 2) % 4 && x.plane = plane && x.dst = dst && decide (s.cyc ≤ x.carried + 64)) then
          mapTile s site (fun t => assignAside t plane dst s.cyc)
        else s)

/-- SETASIDE_RELEASE (R234 item 5): a queue that has stayed empty for 1024 fabric cycles is released. -/
def execSetasideRelease (site port plane dst : Nat) (s : State) : Out :=
  .next (mapTile s site (fun t => updRt t (fun r => { r with aside := r.aside.filter (fun x =>
    !(x.port = port && x.plane = plane && x.dst = dst && decide (x.held + 1024 ≤ s.cyc))) })))

/-- What is known of a set-aside queue as a cycle begins: a packet for its destination that came by its input stands at a head of the router, and
one may have come over its input link (R234, log 93). -/
def asideSeen (s : State) (x : Aside) : Aside :=
  let site := s.tile.site
  let by_ (y : Transit) : Bool := y.dst = x.dst && y.plane = x.plane && (routeOut y site).isSome && decide (routeIn y site = x.port)
  { x with held := if s.tile.rt.watch.any (fun w => decide (w.1 < 8) && by_ w.2.1) then s.cyc else x.held,
           carried := if s.net.any by_ then s.cyc else x.carried }

/-- The congestion state of a router as a cycle begins: packets that have left the fabric stand nowhere, and a queue that nothing can have reached for
1024 fabric cycles is released (R234). -/
def asideStart (s : State) : State :=
  let s := { s with tile := updRt s.tile (fun r => { r with watch := r.watch.filter (fun w => s.net.contains w.2.1) }) }
  let seen := s.tile.rt.aside.map (asideSeen s)
  { s with tile := updRt s.tile (fun r => { r with aside := seen.filter (fun x => !decide (max x.carried x.held + 1024 ≤ s.cyc)) }) }

/-- What begins with a fabric cycle at a router: entries of MGSET take effect (R255), timed flits depart and arrive (R238, R250), and what is known of
congestion follows (R234). -/
def fabricStart (s : State) : State :=
  eachTile s (fun t => !t.rt.mgnew.isEmpty || !t.rt.inp.isEmpty || !t.rt.buffer.isEmpty || !t.rt.aside.isEmpty || !t.rt.watch.isEmpty) (fun s =>
    let s := if s.tile.rt.aside = [] ∧ s.tile.rt.watch = [] then s else asideStart s
    let t := updRt s.tile (fun r => { r with mcast := r.mgnew.foldl (fun m e => cellSet m e.1 e.2) r.mcast, mgnew := [] })
    queueFlit (departFlit (freeTimed { s with tile := t })))

/-! ## Fences between modules (R247, R254) -/

/-- FENCE_MARKER (R247): this module is the peer: the port compares, resets its received count and returns its verdict, a
packet of no kind whose length is the received count (log 13). -/
def execFenceMarker (die peer count : Nat) (s : State) : Out :=
  .next (match s.pairs.find? (fun p => p.1 = die && p.2.1 = peer) with
    | none => s
    | some p =>
      let got := p.2.2.2.2
      let s := { s with pairs := s.pairs.map (fun q => if q.1 = die ∧ q.2.1 = peer then (q.1, q.2.1, q.2.2.1, q.2.2.2.1, 0) else q),
                        outPort := s.outPort ++ [⟨4352 + die, 4352 + die, 2, ⟨mkHdr (peer * 8192) (modIdx s * 8192) 0 (flagsOf 15 2 1 false false false) 0 0 0 0 got count 0, []⟩⟩] }
      if got = count then s else relRecord s 0x21 2 3 (16 * die) 0 count got 0 0)

/-- FENCE_VERDICT (R254): the verdict of the module that the agenda chooses completes the FENCEX of the pair's oldest marker (R247); a mismatch makes COUNTMM
pending. -/
def execFenceVerdict (site peerCount : Nat) (s : State) : Out :=
  atTile s site (fun s =>
    let mine (o : EngOp) : Bool := decide (o.kind = .fencex) && decide (bitsOf o.a 0 16 = s.pick)
    match s.tile.eng.waits.find? mine with
    | none => s
    | some o =>
      if (allTiles s).any (fun t => dieOf t.site = dieOf site && t.eng.waits.any (fun q => mine q && decide (q.c.toNat < o.c.toNat))) then s else
      let s := finish (updEng s (fun e => { e with waits := e.waits.erase o })) o.uid o.tok (compOk 0)
      if o.b.toNat % 2 ^ 32 = peerCount % 2 ^ 32 then s
      else { s with tile := raiseAsync s.tile 0x16 (BitVec.ofNat 64 (o.b.toNat % 2 ^ 32 + (peerCount % 2 ^ 32) * 2 ^ 32)) })

/-- LINK_CRC_RETRY (R221): replayed packets keep their place. -/
def execLinkCrcRetry (_die _other : Nat) (s : State) : Out := .next s

end Sys2Proof.Machine
end

