-- ==== Sys2Proof/Machine/Task.lean ====
section
/-! DEFINITION. Tasks: the deque, the dispatcher, switching and pre-emption of tasks (12 R265 to R293). -/

namespace Sys2Proof.Machine

open Sys2Proof

/-! ## Task records (R267) -/

def recBytes (r : TaskRec) : List Byte :=
  leBytes (r.pc.toNat + (r.pri % 16) * 2 ^ 24 + (if r.np then 2 ^ 28 else 0)) 8 ++ leBytes r.wid.toNat 8 ++ leBytes r.vt.toNat 8
    ++ ((upto 5).map (fun i => leBytes (r.args.getD i 0).toNat 8)).flatten

/-- The record at an address. -/
def recRead (m : Memory) (a : Nat) : TaskRec :=
  let w := BitVec.ofNat 64 (readLe m a 8)
  { np := w.getLsbD 28, pri := bitsOf w 24 4, pc := BitVec.ofNat 21 (bitsOf w 0 21), wid := BitVec.ofNat 64 (readLe m (a + 8) 8),
    vt := BitVec.ofNat 64 (readLe m (a + 16) 8), args := (upto 5).map (fun i => BitVec.ofNat 64 (readLe m (a + 24 + 8 * i) 8)) }

/-- The record checks of R283. -/
def recOk (t : Tile) (m : Memory) (a : Nat) : Bool :=
  let w := BitVec.ofNat 64 (readLe m a 8)
  decide (bitsOf w 29 35 = 0) && decide (bitsOf w 21 3 = 0) && decide (bitsOf w 24 4 ≤ 11) && decide (bitsOf w 0 2 = 0)
    && decide (bitsOf w 0 21 < xbOf t)

/-! ## Slot meanings (R281 to R288) -/

/-- SPAWN, SPAWNR, POP, STEAL and STEAL.X: ILLOP in an optimistic partition (R282). -/
def taskSlot (c : Ctl) (s : State) (f : State → State) : Out := engSlot c s (fun s => if isOpt s.tile then illop s else f s)

/-- ALIGN and XACCESS of a 64-byte engine access with TVAL X[a] (R283, R284). -/
def lineCheck (s : State) (a : W64) : State :=
  let s1 := if rangeOk s.tile false a.toNat 64 then s else addCause s 0x05 a
  if a.toNat % 64 = 0 then s1 else addCause s1 0x06 a

def lineOk (s : State) (a : W64) : Bool := rangeOk s.tile false a.toNat 64 && decide (a.toNat % 64 = 0)

/-- Fresh entries waiting in the ready queue (R269). -/
def freshReady (d : Dispatcher) : Nat := d.ready.countP (fun r => match r with
  | .fresh _ _ => true
  | _ => false)

/-- Records and reserved slots of the deque (R285, R287). -/
def dequeUsed (d : Dispatcher) : Nat := d.deque.length + d.reserved

/-- SPAWN and SPAWNR (R283). -/
def spawnSlot (ready : Bool) (d a : Reg) (s : State) : State :=
  let xa := X s a
  if lineOk s xa then
    let m := memNow s
    if recOk s.tile m xa.toNat then
      let room := if ready then decide (freshReady s.tile.disp < 16) else decide (dequeUsed s.tile.disp < 128)
      let s := addX (addQuiet s xa.toNat 64 false) 2 d (if room then 1 else 0)
      if room then updIss s (fun i => { i with spawn := some (ready, recRead m xa.toNat) }) else s
    else addCause s 0x07 xa
  else lineCheck s xa

/-- SPAWN (R283). -/
def execSpawn (c : Ctl) (d a : Reg) (s : State) : Out := taskSlot c s (spawnSlot false d a)
/-- SPAWNR (R283). -/
def execSpawnr (c : Ctl) (d a : Reg) (s : State) : Out := taskSlot c s (spawnSlot true d a)

/-- POP (R284). -/
def execPop (c : Ctl) (d a : Reg) (s : State) : Out :=
  taskSlot c s (fun s =>
    let xa := X s a
    if lineOk s xa then
      if s.tile.disp.deque = [] then addX s 2 d 0
      else updIss (addX (addQuiet s xa.toNat 64 true) 2 d 1) (fun i => { i with popped := some xa.toNat })
    else lineCheck s xa)

/-- STEAL and STEAL.X: one deque slot is reserved at issue, where one is free (R285). -/
def stealSlot (strict : Bool) (t a : Reg) (s : State) : State :=
  addOp s (engOp s (.steal strict) t (X s a) 0 (if dequeUsed s.tile.disp < 128 then 1 else 0) [])

/-- STEAL (R285). -/
def execSteal (c : Ctl) (t a : Reg) (s : State) : Out := taskSlot c s (stealSlot false t a)
/-- STEAL.X (R285). -/
def execStealX (c : Ctl) (t a : Reg) (s : State) : Out := taskSlot c s (stealSlot true t a)

/-- DQST (R287). -/
def execDqst (c : Ctl) (d : Reg) (s : State) : Out :=
  engSlot c s (fun s =>
    let q := s.tile.disp
    addX s 2 d (BitVec.ofNat 64 (dequeUsed q + freshReady q * 2 ^ 8 + q.frames.length * 2 ^ 16 + (if q.csa.isSome then 2 ^ 20 else 0))))

/-- Width and offset of a field of the work identifier (R265). -/
def widWidth (v : W64) (n : Nat) : Nat := bitsOf v (6 * n) 6
def widOff (v : W64) (n : Nat) : Nat := (upto n).foldl (fun o i => o + widWidth v i) 0

/-- WIDF (R288). -/
def execWidf (c : Ctl) (d a : Reg) (f : BitVec 3) (s : State) : Out :=
  engSlot c s (fun s =>
    let v := cwGet s.tile 0x005
    addX s 2 d (BitVec.ofNat 64 (bitsOf (X s a) (widOff v f.toNat) (widWidth v f.toNat))))

/-- WIDS (R288). -/
def execWids (c : Ctl) (d a b : Reg) (f : BitVec 3) (s : State) : Out :=
  engSlot c s (fun s =>
    let v := cwGet s.tile 0x005
    addX s 2 d (setBits (X s a) (widOff v f.toNat) (widWidth v f.toNat) (X s b).toNat))

/-! ## The deque engine (R271, R285, R286) -/

def updDisp (t : Tile) (f : Dispatcher → Dispatcher) : Tile := { t with disp := f t.disp }

/-- A record at the bottom of the deque; its ring slot follows those of the records held (R271). -/
def pushDeque (t : Tile) (r : TaskRec) : Tile :=
  let d := t.disp
  regionWrite (updDisp t (fun d => { d with deque := d.deque ++ [r] })) (regionBase t 0x014 + 64 * ((d.dqTop + d.deque.length) % 128)) (recBytes r)

/-- STEAL in the engine (R285). -/
def runSteal (strict : Bool) (o : EngOp) (s : State) : State :=
  let rank := (rankLow o.a).toNat
  let site := siteOfId s (rankTile rank)
  let working := isRank rank && decide (rankTile rank < 4096) && !otherModule s rank &&
    (match partnOf s s.tile.pid with
     | some p => p.sites.contains site
     | none => false)
  let back := if o.c = 1 then { s with tile := updDisp s.tile (fun d => { d with reserved := d.reserved - 1 }) } else s
  if !working then finish back o.uid o.tok (compErr 0x04 0)
  else if rank = rankOf s.tile ∨ o.c = 0 then finish back o.uid o.tok (compWord strict 0x0B false false false 0 0)
  else
    let (h, s) := freshId s
    let s := tileSend s site 1 ⟨mkHdr rank (rankOf s.tile) o.grp (flagsOf 7 1 0 false false false) 0 0 0 0 0 h 0, []⟩
    updEng s (fun g => { g with waits := g.waits ++ [{ o with b := BitVec.ofNat 64 h }] })

/-- The records that a steal handled in this cycle can take: an own push of the cycle is visible from the next one on (R283). -/
def openDeque (d : Dispatcher) (now : Nat) : List TaskRec := match d.pushed with
  | some (c, n) => if c = now then d.deque.take n else d.deque
  | none => d.deque

/-- The deque engine serves this request next: it has arrived in an earlier cycle, none that arrived before it or from a lower rank in the
same cycle waits, no steal has been served in this cycle, and the owner has had its turn, so that its pop of the cycle comes first (R286). -/
def stealDue (s : State) (src : Nat) : Bool :=
  let d := s.tile.disp
  match d.thefts.find? (fun x => x.2 = src) with
  | some (c, _) => decide (c < s.cyc) && d.thefts.all (fun x => decide (c < x.1) || (decide (c = x.1) && decide (src ≤ x.2)))
      && decide (d.served ≠ some s.cyc) && !s.todo.contains s.tile.site
  | none => false

/-- The deque of an image changes: its records and, from the ring slot of the first on, their bytes (R271, R332, R333). -/
def imageDeque (t : Tile) (rs : List TaskRec) (top : Nat) : Tile :=
  match t.bench.cap with
  | none => t
  | some c =>
    let bs := (rs.zipIdx.map (fun p => atAddr (regionBase t 0x014 + 64 * ((top + p.2) % 128)) (recBytes p.1))).flatten
    { t with bench := { t.bench with cap := some (imagePut t.mem { c with disp := { c.disp with deque := rs, dqTop := top } } bs) } }

/-- A record leaves the deque of the image (R333). -/
def imageStolen (t : Tile) (r : TaskRec) : Tile :=
  match t.bench.cap with
  | none => t
  | some c =>
    let d := c.disp
    if d.deque.contains r then imageDeque t (d.deque.erase r) (if d.deque.head? = some r then d.dqTop + 1 else d.dqTop) else t

/-- The record that a steal issued before the cut brings joins the deque of the image (R332). -/
def imageTaken (t : Tile) (handle : Nat) (r : TaskRec) : Tile :=
  match t.bench.cap with
  | none => t
  | some c => if handle < c.preId ∧ !c.done then imageDeque t (c.disp.deque ++ [r]) c.disp.dqTop else t

/-- A steal request is served: the oldest record, or an empty answer. An old-colour request served after the flip takes the record
from the image too (R333). -/
def serveSteal (src : Nat) (p : Packet) (s' : State) : State :=
      let rs := openDeque s'.tile.disp s'.cyc
      let body := match rs with
        | [] => []
        | r :: _ => recBytes r
      let t := updDisp s'.tile (fun d => { d with
        thefts := d.thefts.filter (fun x => x.2 ≠ src), served := some s'.cyc,
        deque := if rs = [] then d.deque else d.deque.drop 1, dqTop := if rs = [] then d.dqTop else d.dqTop + 1,
        pushed := d.pushed.map (fun x => (x.1, if rs = [] then x.2 else x.2 - 1)) })
      let t := match rs with
        | r :: _ => if hdrBench p.hdr != t.bench.colour then imageStolen t r else t
        | [] => t
      let h := setBits (answerHdr t p.hdr 8 body.length) 96 32 0
      tileSend { s' with tile := t } src 2 ⟨h, body⟩

/-- STEAL_SERVE (R286): a request that has not arrived yet arrives in this cycle; one that is due is served. -/
def execStealServe (src dst : Nat) (s : State) : Out :=
  atTile s dst (fun s =>
    if !takes s || s.tile.eng.stopped.isSome then s else
    match headFor s src dst 1 2 (fun h => hdrKind h = 7 && colourOk s h) with
    | none => s
    | some (p, s') =>
      if !s.tile.disp.thefts.any (fun x => x.2 = src) then
        { s with tile := updDisp s.tile (fun d => { d with thefts := d.thefts ++ [(s.cyc, src)] }) }
      else if stealDue s src then serveSteal src p s' else s)

/-- The record that 64 bytes hold. -/
def recOf (bs : List Byte) : TaskRec := recRead (writeBytes [] 0 bs) 0

/-- STEAL_ANSWER (R285). -/
def execStealAnswer (src dst : Nat) (s : State) : Out :=
  atTile s dst (fun s =>
    match headFor s src dst 2 2 (fun h => hdrKind h = 8 && colourOk s h) with
    | none => s
    | some (p, s') =>
      match s'.tile.eng.waits.find? (fun o => isSteal o && decide (o.b.toNat = hdrHandle p.hdr)) with
      | none => s'
      | some o =>
        let s1 := updEng s' (fun e => { e with waits := e.waits.erase o })
        let t := updDisp s1.tile (fun d => { d with reserved := d.reserved - 1 })
        let strict := o.kind = .steal true
        if p.body = [] then finish { s1 with tile := t } o.uid o.tok (compWord strict 0x0B false false false 0 0)
        else finish { s1 with tile := pushDeque (imageTaken t o.b.toNat (recOf p.body)) (recOf p.body) } o.uid o.tok (compOk 64))

/-! ## The ready queue (R269) -/

def addReady (t : Tile) (r : Ready) : Tile := updDisp t (fun d => { d with ready := insertReady d.ready r })

/-! ## Starting tasks (R72, R56, R93, R101, R108, R160, R266, R269, R270) -/

/-- The lowest stack slot that no parked or saved task holds. -/
def freeSlot (d : Dispatcher) : Nat :=
  ((upto 10).find? (fun k => !d.frames.any (fun f => f.slot = k) && !(match d.csa with
    | some (_, j) => decide (j = k)
    | none => false))).getD 0

/-- The context of a fresh task. -/
def freshThread (t : Tile) (r : TaskRec) (slot : Nat) (idle : Bool) : Thread :=
  let th := Thread.zero
  let x2 := BitVec.ofNat 64 (floorOf t - slot * t.disp.stack)
  let x := cellSets [] ((2, x2) :: (upto 5).map (fun i => (10 + i, r.args.getD i 0)))
  let cw := cellSets th.cw [(0x000, cwGet t 0 &&& 0x300), (0x002, cwGet t 0x007 + 1), (0x004, r.wid),
    (0x006, BitVec.ofNat 64 (r.pri % 16 + (if r.np then 16 else 0) + (if idle then 32 else 0)))]
  { th with uid := t.disp.nextUid, pc := r.pc, recVt := r.vt, x := x, cw := cw }

def startTask (t : Tile) (r : TaskRec) (idle : Bool) : Tile :=
  let slot := freeSlot t.disp
  let th := freshThread t r slot idle
  { t with th := th, sup := false, began := false, idle := none, iss := Issue.empty,
           disp := { t.disp with running := true, slot := slot, nextUid := t.disp.nextUid + 1 } }

/-- The words that a parked frame holds (R274). -/
def frameWords : List Nat := [0x000, 0x001, 0x002, 0x020, 0x021, 0x008, 0x070, 0x071, 0x111, 0x006]

/-- A parked task resumes: vectors, masks and matrix state, the pending format among it, are what the tile now holds (R275). -/
def resumeThread (now frame : Thread) : Thread :=
  { frame with v := now.v, m := now.m, latch := now.latch, side := now.side, latchOk := now.latchOk, acc := now.acc, tag := now.tag,
               cmode := now.cmode, rowOk := now.rowOk, pfx := now.pfx,
               cw := cellSets frame.cw [(0x040, cellGet now.cw 0x040), (0x041, cellGet now.cw 0x041)] }

/-- The dispatcher's choice for a tile with no running task (R269, R272); a tile with nothing left is finished (R264). -/
def dispatchTile (t : Tile) : Tile :=
  if t.disp.running ∨ t.disp.finished then t else
  match t.disp.ready with
  | .fresh r _ :: q => startTask (updDisp t (fun d => { d with ready := q })) r false
  | .parked no _ _ :: q =>
    match t.disp.frames.find? (fun f => f.no = no) with
    | some f =>
      { t with th := resumeThread t.th f.th, began := false, idle := none, iss := Issue.empty,
               disp := { t.disp with ready := q, frames := t.disp.frames.filter (fun g => g.no ≠ no), running := true, slot := f.slot } }
    | none => updDisp t (fun d => { d with ready := q })
  | .saved _ _ :: q =>
    match t.disp.csa with
    | some (th, k) => { t with th := th, began := false, idle := none, iss := Issue.empty,
                               disp := { t.disp with ready := q, csa := none, running := true, slot := k } }
    | none => updDisp t (fun d => { d with ready := q })
  | [] =>
    match t.disp.deque.getLast? with
    | some r => startTask (updDisp t (fun d => { d with deque := d.deque.dropLast })) r false
    | none =>
      if t.disp.idlePc ≠ 0 ∧ t.disp.idled = false then
        startTask t { np := false, pri := 0, pc := t.disp.idlePc, wid := t.disp.initial.wid, vt := t.disp.initial.vt, args := [] } true
      else if t.disp.frames = [] ∧ t.disp.csa.isNone then updDisp t (fun d => { d with finished := true })
      else t

/-- A partition lets its tiles work: no containment or pre-emption of it is on its way. -/
def partnRuns (s : State) (pid : Nat) : Bool := match partnOf s pid with
  | some p => decide (p.st = .running)
  | none => false

/-- The dispatcher's choice in a cycle: a record popped from the deque is the owner's pop of that cycle (R269, R286). -/
def dispatchAt (t : Tile) (now : Nat) : Tile :=
  let u := dispatchTile t
  if u.disp.deque.length < t.disp.deque.length then updDisp u (fun d => { d with popped := some now }) else u

/-- The deque engine has handled nothing in this cycle: no steal, no pop and no push (R286). -/
def dequeIdle (d : Dispatcher) (now : Nat) : Bool :=
  decide (d.served ≠ some now) && decide (d.popped ≠ some now) && !(d.pushed.any (fun p => p.1 = now))

/-- DISPATCH (R269) after the tile's own turn: not in a cycle in which the deque engine has handled something already, since it serves one
request a cycle (R286). -/
def execDispatch (site : Nat) (s : State) : Out :=
  atTile s site (fun s =>
    if partnRuns s s.tile.pid && !s.tile.dbg.halted && !s.todo.contains site && dequeIdle s.tile.disp s.cyc then { s with tile := dispatchAt s.tile s.cyc } else s)

/-! ## Parking, suspending, exiting (R273, R274, R290 to R292) -/

/-- STATUS as RDW reads it: PFP shows a pending prefix (R93, R167). -/
def statusOf (th : Thread) : W64 := cellGet th.cw 0x000 ||| (if th.pfx.isSome then 1 else 0)

/-- The bytes of a frame (R274). -/
def frameBytes (r : TaskRec) (th : Thread) (wait : Reg) : List Byte :=
  (recBytes { r with pc := th.pc }).take 24
    ++ leBytes (th.pend.toNat / 2 * 2 + wait.toNat * 2 ^ 32) 8
    ++ ((upto 32).map (fun n => leBytes (if n = 0 then 0 else (cellGet th.x n).toNat) 8)).flatten
    ++ leBytes (pGroup th 0).toNat 8 ++ leBytes (pGroup th 1).toNat 8
    ++ (frameWords.map (fun n => leBytes (if n = 0x000 then statusOf th else cellGet th.cw n).toNat 8)).flatten
    ++ List.replicate 128 0
    ++ ((upto 32).map (fun n => leBytes (ltGet th n).toNat 16)).flatten

/-- The first 24 bytes of a running task's record, from its words. -/
def recNow (th : Thread) : TaskRec :=
  let p := cellGet th.cw 0x006
  { np := p.getLsbD 4, pri := bitsOf p 0 4, pc := th.pc, wid := cellGet th.cw 0x004, vt := th.recVt, args := [] }

/-- The lowest-numbered free frame of eight. -/
def freeFrame (d : Dispatcher) : Option Nat := (upto 8).find? (fun n => !d.frames.any (fun f => f.no = n))

/-- A context without what a frame does not hold (R275). -/
def frameThread (th : Thread) : Thread :=
  { th with v := [], m := [], latch := [], side := [], latchOk := 0, acc := [], tag := 0, cmode := 0, rowOk := 0, pfx := none, flights := [], squash := 0 }

/-- Parks the running task in a frame (R274): from now on its completion words go there. -/
def parkTask (t : Tile) (no : Nat) (wait : Reg) : Tile :=
  let f : Frame := { no := no, th := frameThread t.th, wait := wait, slot := t.disp.slot }
  let t := regionWrite t (frameBase t no) (frameBytes (recNow t.th) t.th wait)
  updDisp { t with sup := false, th := { t.th with uid := 0 } } (fun d => { d with frames := d.frames ++ [f], running := false, maskLeft := 0 })

/-- YIELD, SUSPEND, EXIT and pre-emption clear SSTAT.PMASK (R362). -/
def clearMask (t : Tile) : Tile := cwPut t 0x104 (cwGet t 0x104 &&& ~~~(0x40000 : W64))

def taskPri (th : Thread) : Nat := bitsOf (cellGet th.cw 0x006) 0 4

/-- YIELD switches: a ready entry of at least the task's priority and a free frame (R290). -/
def yields (t : Tile) : Bool := t.disp.ready.any (fun r => decide (taskPri t.th ≤ readyPri r)) && (freeFrame t.disp).isSome

/-- SUSPEND switches: its register is pending and a frame is free (R291). -/
def suspends (t : Tile) (r : Reg) : Bool := isPend t.th r.toNat && (freeFrame t.disp).isSome

def doYield (t : Tile) (now : Nat) : Tile :=
  match freeFrame t.disp with
  | some no => addReady (clearMask (parkTask t no 0)) (.parked no (taskPri t.th) now)
  | none => t

/-- SUSPEND parks the task; one whose completion word has been written as its results landed is ready at once (R291). -/
def doSuspend (t : Tile) (r : Reg) (now : Nat) : Tile :=
  match freeFrame t.disp with
  | some no => if isPend t.th r.toNat then clearMask (parkTask t no r) else doYield t now
  | none => t

/-- Every result in flight lands, in as many inserted issue cycles as it takes (R273, R365). -/
def settleFlights : Nat → Tile → Nat → Tile
  | 0, t, _ => t
  | n + 1, t, now => if t.th.flights = [] then t else settleFlights n (beginCycle { t with began := false } now) now

/-- The running task ends: EXIT, or an idle task that gives way (R272, R277, R292). -/
def endTask (t : Tile) : Tile :=
  let idle := (cellGet t.th.cw 0x006).getLsbD 5
  clearMask { t with sup := false, iss := Issue.empty, idle := none, stall := none,
                     th := { t.th with uid := 0, flights := [], late := [], squash := 0, pend := 0, tokw := 0 },
                     disp := { t.disp with running := false, idled := idle, maskLeft := 0 } }

/-- What EXIT hands to the matching engine: the cancelling of the task's receives, after its earlier operations (R187, R292). -/
def quitOp (s : State) : EngOp :=
  { kind := .quit, word := 0, uid := s.tile.th.uid, tok := 0, a := 0, b := 0, c := 0, lts := [], rng := [], grp := 0, mask := 0, lvt := 0,
    six := 0, seg := curSeg s.tile, cyc := s.cyc }

/-- EXIT: the task's receives are cancelled, its other operations run on unobserved (R292). -/
def doExit (s : State) : State :=
  let s := updEng s (fun e => { e with ops := e.ops ++ [quitOp s] })
  { s with tile := endTask s.tile }

/-! ## Pre-emption of tasks (R276 to R279, R362, R368) -/

def pmasked (t : Tile) : Bool := (cwGet t 0x104).getLsbD 18

/-- Pre-emption is held back by MASKP (R368). -/
def maskHolds (t : Tile) : Bool := pmasked t && decide (0 < t.disp.maskLeft)

def isIdleTask (t : Tile) : Bool := (cwGet t 0x006).getLsbD 5

/-- R277: an entry pre-empts the running task. -/
def preempts (s : State) : Bool :=
  let t := s.tile
  let preemptible := match partnOf s t.pid with
    | some p => (recField p.rec_ 3 1).testBit 2
    | none => false
  t.disp.running && !isIdleTask t && preemptible && !isOpt t && !t.sup && t.disp.sync.isNone && t.disp.csa.isNone && !(cwGet t 0x006).getLsbD 4
    && !maskHolds t && t.disp.ready.any (fun r => decide (taskPri t.th < readyPri r) && decide (bitsOf (cwGet t 0x107) 0 4 ≤ readyPri r))

/-- R277: the idle task gives way to any ready entry. -/
def givesWay (s : State) : Bool :=
  let t := s.tile
  t.disp.running && isIdleTask t && !t.disp.ready.isEmpty && !t.sup && t.disp.sync.isNone && !maskHolds t

/-- A masked pre-emption taken as its budget has run out clears PMASK and sets PMX (R368). -/
def unmaskLate (t : Tile) : Tile :=
  if pmasked t then cwPut (updDisp t (fun d => { d with maskLeft := 0 })) 0x104 ((cwGet t 0x104 &&& ~~~(0x40000 : W64)) ||| 0x80000) else t

/-- A vector or matrix result in flight in the save area (log 14): its remaining cycles, its place and its value. -/
def flightBytes (f : Flight) : List Byte :=
  let item (kind place : Nat) (bs : List Byte) : List Byte := leBytes f.left 2 ++ leBytes kind 2 ++ leBytes place 4 ++ bs
  match f.res with
  | .v r mask v => item 1 r.toNat (leBytes mask.toNat 256 ++ leBytes v.toNat 256)
  | .m r v => item 2 r.toNat (leBytes v.toNat 8)
  | .latch k v => item 3 k (leBytes v.toNat 128)
  | .shift l v => item 4 l (leBytes v.toNat 128)
  | .side k v => item 5 k (leBytes v.toNat 128)
  | .row k int cells => item (if int then 7 else 6) k (cells.map (fun c => leBytes c.toNat 12)).flatten
  | .rowAdd k int sums => item (if int then 9 else 8) k (sums.map (fun n => leBytes (cellOf int n).toNat 12)).flatten
  | .rowClear k => item 10 k []
  | .bytes bs => item 11 ((bs.map (·.1)).headD 0) (bs.map (·.2))
  | .mst k => item 12 k []
  | .msclr b mask => item 13 b (leBytes mask.toNat 8)
  | .x r v => item 14 r.toNat (leBytes v.toNat 8)
  | .p _ _ => []
  | .pg _ _ => []
  | .lt _ _ _ => []
  | .cw _ _ => []

/-- The bytes of a context in the save area (R279); the part of R279 whose inner layout the manual leaves open holds the
masks, the row and latch bits, the status words, the LTSB and the results in flight in the order it lists them, as far as its 8 KiB reach
(log 14). -/
def csaBytes (th : Thread) : List Byte :=
  let cells (b : Nat) : List Byte := ((upto 4096).map (fun i => leBytes (cellGet th.acc (4096 * b + i)).toNat 12)).flatten
  let lines (st : Store 1024) (n : Nat) : List Byte := ((upto n).map (fun i => leBytes (cellGet st i).toNat 128)).flatten
  let misc := ((upto 7).map (fun i => leBytes (cellGet th.m (i + 1)).toNat 8)).flatten ++ leBytes th.tag.toNat 16 ++ leBytes th.cmode.toNat 16
    ++ leBytes th.rowOk.toNat 16 ++ leBytes th.latchOk.toNat 8 ++ leBytes (cellGet th.cw 0x040).toNat 8 ++ leBytes (cellGet th.cw 0x041).toNat 8
    ++ leBytes (match th.pfx with
      | some p => 1 + p.fa.toNat * 2 + p.fb.toNat * 32 + p.g.toNat * 512 + (if p.zp then 2048 else 0) + (if p.vec then 4096 else 0)
      | none => 0) 8
    ++ ((ltCapture 0 th.flights).map ltBytes).flatten ++ ((th.flights.filter (fun f => f.unit)).map flightBytes).flatten
  lines th.latch 256 ++ lines th.side 64 ++ cells 0 ++ cells 1 ++ ((upto 32).map (fun i => leBytes (cellGet th.v i).toNat 256)).flatten
    ++ (misc ++ List.replicate (0x2000 - misc.length) 0).take 0x2000 ++ frameBytes (recNow th) th 0

/-- Pre-emption at a bundle boundary whose landings are made (R278): the context with its results in flight goes into the save area, each with
its landing cycle less that of the next bundle (R355), and the task into the ready queue. -/
def preemptTask (t : Tile) (now : Nat) : Tile :=
  let t := unmaskLate t
  let pri := taskPri t.th
  let saved := keptThread t
  let t := regionWrite t (regionBase t 0x015) (csaBytes { saved with flights := saved.flights.map (fun f => { f with left := f.left - 1 }) })
  let d := t.disp
  addReady (clearMask { t with idle := none, stall := none, iss := Issue.empty, began := false, th := { t.th with uid := 0, flights := [], late := [], squash := 0, pend := 0 },
                               disp := { d with csa := some (saved, d.slot), running := false, maskLeft := 0 } }) (.saved pri now)

/-- A task is at a boundary at which nothing else is due (R357). -/
def quietBoundary (t : Tile) : Bool := decide (t.vt.due = []) && decide (t.asyncs = []) && t.th.trap.isNone && t.dbg.want.isNone && !t.dbg.halted

/-- The pre-emption or the giving way that is due is taken (R277), at a boundary at which the results due there have landed (R91, R278);
a landing that makes a trap or a rollback due comes before it (R357). An idle task that gives way ends as by EXIT. -/
def switchDue (s : State) : Option State :=
  let s1 := { s with tile := beginCycle s.tile (hereCyc s) }
  if !quietBoundary s1.tile then none
  else if preempts s then some { s1 with tile := preemptTask s1.tile s.cyc }
  else if givesWay s then some (doExit { s1 with tile := { settleFlights 24 (unmaskLate s1.tile) (hereCyc s) with began := false } })
  else none

/-- The latest attempt to issue found no trap: the tile stalls. A tile that does not stall takes its switch as it comes to issue (R357). -/
def noTrap (t : Tile) : Bool := t.stall.isSome || t.idle.isSome

/-- TASK_PREEMPT (R277, R278). -/
def execTaskPreempt (site : Nat) (s : State) : Out :=
  atTile s site (fun s => if quietBoundary s.tile && noTrap s.tile && partnRuns s s.tile.pid then (switchDue s).getD s else s)

/-- PMASK_EXPIRE (R368): the budget has run out and the masked pre-emption is taken. -/
def execPmaskExpire (site : Nat) (s : State) : Out :=
  atTile s site (fun s =>
    if pmasked s.tile && decide (s.tile.disp.maskLeft = 0) && quietBoundary s.tile && noTrap s.tile && partnRuns s s.tile.pid then (switchDue s).getD s else s)

/-! ## SYNC (R110 to R112) -/

/-- SYNC_RELEASE (R110): every working tile waits, and 64 cycles have passed since the last arrival. -/
def execSyncRelease (pid : Nat) (s : State) : Out :=
  .next (match partnOf s pid with
    | none => s
    | some p =>
      let ts := (allTiles s).filter (fun t => p.sites.contains t.site)
      let last := ts.foldl (fun n t => max n (t.disp.sync.getD 0)) 0
      let due := max (last + 64) ((ts.findSome? (fun t => t.disp.release)).getD 0)
      if p.st = .running ∧ !ts.any (fun t => t.dbg.gang) ∧ ts.all (fun t => t.disp.sync.isSome && t.disp.running) ∧ due ≤ s.cyc then
        mapPartn s pid (fun t => updDisp t (fun d => { d with sync := none, release := none }))
      else s)

end Sys2Proof.Machine
end

