-- ==== Sys2Proof/Machine/Trace.lean ====
section
/-! DEFINITION. The trace unit of a tile (17 R395 to R398). -/

namespace Sys2Proof.Machine

open Sys2Proof

def traceOn (t : Tile) : Bool := (cellGet t.cw 0x120).getLsbD 63

/-- A pending register waits for a quarry request and nothing else (R396). -/
def quarryToken (t : Tile) (r : Nat) : Bool :=
  let reg := BitVec.ofNat 5 r
  let uid := t.th.uid
  t.eng.reqs.any (fun q => q.uid = uid && q.tok = reg) || t.vt.commits.any (fun c => c.kind = 1 && c.op.uid = uid && c.op.tok = reg)
    || t.eng.ops.any (fun o => o.uid = uid && o.tok = reg && [EngKind.qget, .qput, .qgett, .qputt, .qatom, .qgath, .qscat, .qfill, .qcopy, .fenceQ].contains o.kind)

/-- The state that the trace shows (R396); registers that have completed since the latest attempt are waited for no more. -/
def traceState (t : Tile) : Nat :=
  if t.dbg.halted ∨ t.disp.running = false ∨ t.idle.isSome then 3
  else if t.disp.sync.isSome then 1
  else match t.stall with
    | none => 0
    | some (.token mask) =>
      let pend := (upto 32).filter (fun r => mask.getLsbD r && isPend t.th r)
      if pend = [] then 0 else if pend.all (quarryToken t) then 2 else 1
    | some (.any _) => 1
    | some (.mailbox _ _) => 1
    | some (.erecv _ _ _ _) => 1
    | some .window => 1
    | some .range => 5
    | some .other => 0

/-- The records among the words of the queue: the two words after a trace mark are none (R396). -/
def recordsIn (ws : List (BitVec 32)) : Nat :=
  (ws.foldl (fun (a : Nat × Nat) w => if a.2 ≠ 0 then (a.1, a.2 - 1) else (a.1 + 1, if bitsOf w 29 3 = 6 then 2 else 0)) (0, 0)).1

/-- Records lost are counted (R398). -/
def traceLose (t : Tile) (n : Nat) : Tile :=
  cwPut t 0x20B (BitVec.ofNat 64 (min 0xFFFFFFFF ((cwGet t 0x20B).toNat + n)))

/-- A record, with the extension that its delta needs and the words that follow it, joins the queue of 64 or is lost (R396, R397). -/
def tracePush (t : Tile) (st : Nat) (extra : List (BitVec 32)) (now : Nat) : Tile :=
  if !traceOn t then t else
  let delta := now - t.dbg.tlast
  let ext := if delta < 2 ^ 29 then [] else [BitVec.ofNat 32 (7 * 2 ^ 29 + delta / 2 ^ 29)]
  let ws := ext ++ [BitVec.ofNat 32 (st * 2 ^ 29 + delta % 2 ^ 29)] ++ extra
  if t.dbg.tfull ∨ 64 < recordsIn (t.dbg.queue ++ ws) then traceLose t 1
  else { t with dbg := { t.dbg with queue := t.dbg.queue ++ ws, tlast := now } }

/-- The tile is now in a state; a change makes a record (R396). -/
def traceTo (t : Tile) (st now : Nat) : Tile :=
  if st = t.dbg.tstate then t else tracePush { t with dbg := { t.dbg with tstate := st } } st [] now

def traceNote (t : Tile) (now : Nat) : Tile := traceTo t (traceState t) now

/-- A trace mark (R311, R396). -/
def traceMark (t : Tile) (v : W64) (now : Nat) : Tile := tracePush t 6 [v.setWidth 32, (v >>> 32).setWidth 32] now

end Sys2Proof.Machine
end

