-- ==== Sys2Proof/Machine/Vtime.lean ====
section
/-! DEFINITION. Virtual time: the VTIM forms, waymarks, event resources and rollback (13 R294 to R309, R318 to R324). -/

namespace Sys2Proof.Machine

open Sys2Proof

/-! ## Slot meanings (R318 to R324) -/

/-- Every VTIM form: ILLOP in a plain partition (R318). -/
def vtSlot (c : Ctl) (s : State) (f : State → State) : Out := engSlot c s (fun s => if isOpt s.tile then f s else illop s)

/-- The entry that an ERECV takes (R319). -/
def erecvEntry (t : Tile) (xa : W64) : Option HamEntry :=
  lowestAccepted t (rankLow xa) (tagOf xa) (BitVec.ofNat 32 (bitsOf (cwGet t 0x021) 0 32)) (BitVec.ofNat 16 (bitsOf (cwGet t 0x020) 0 16))

/-- ERECV and ERECV.NS at issue; the stalls of R319 are made before (R319, R320). -/
def erecvSlot (ns : Bool) (t a : Reg) (l : BitVec 3) (s : State) : State :=
  let e := LT s l.toNat
  let m := erecvEntry s.tile (X s a)
  let lvt := match m with
    | some x => BitVec.ofNat 64 (hdrRvt x.hdr)
    | none => cwGet s.tile 0x030
  let o := engOp s .recv t (X s a) 0 0 [e]
  let s1 := updIss (checkLt s l.toNat true) (fun i => { i with event := some (lvt, m, ns) })
  addOp (if m.isSome then addSpan s1 e true else s1) o

/-- ERECV (R319). -/
def execErecv (c : Ctl) (t a : Reg) (l : BitVec 3) (s : State) : Out := vtSlot c s (erecvSlot false t a l)
/-- ERECV.NS (R320). -/
def execErecvNs (c : Ctl) (t a : Reg) (l : BitVec 3) (s : State) : Out := vtSlot c s (erecvSlot true t a l)

/-- DEFER.H (R322). -/
def execDeferH (c : Ctl) (t a b : Reg) (s : State) : Out := vtSlot c s (fun s => addOp s (engOp s .deferH t (X s a) (X s b) 0 []))
/-- DEFER.T (R322). -/
def execDeferT (c : Ctl) (t a : Reg) (s : State) : Out := vtSlot c s (fun s => addOp s (engOp s .deferT t (X s a) 0 0 []))

/-- The pseudo-key of a local event (R321). -/
def localKey (t : Tile) (v : W64) : List Nat := [v.toNat, rankOf t, (cwGet t 0x030).toNat, t.vt.six]

/-- VTADV (R321). -/
def execVtadv (c : Ctl) (a : Reg) (s : State) : Out :=
  vtSlot c s (fun s =>
    let v := X s a
    let behind := match s.tile.vt.key with
      | some k => !keyLt k (localKey s.tile v)
      | none => false
    let s1 := if decide (v = BitVec.allOnes 64) || behind then addCause s 0x10 v else s
    updIss s1 (fun i => { i with event := some (v, none, false) }))

/-- SAVEM (R323). -/
def execSavem (c : Ctl) (d a : Reg) (s : State) : Out :=
  vtSlot c s (fun s => updIss (addX s 2 d (cwGet s.tile 0x008)) (fun i => { i with vsave := some (X s a &&& 0x1FFFFFFFF) }))

/-- GVTW (R324). -/
def execGvtw (c : Ctl) (t a : Reg) (s : State) : Out := vtSlot c s (fun s => addOp s (engOp s .gvtw t (X s a) 0 0 []))

/-- GVTW in the engine (R324). -/
def runGvtw (o : EngOp) (s : State) : State :=
  if min o.a.toNat o.lvt.toNat ≤ (cwGet s.tile 0x031).toNat then finish s o.uid o.tok (compOk 0)
  else updEng s (fun e => { e with waits := e.waits ++ [o] })

/-! ## Event resources (R302, R303) -/

/-- Entries of the send log and of the commit queue, a half of the LOGS region each (R302), and those free. -/
def logCap (t : Tile) : Nat := regionSize t 0x016 / 64
def commitCap (t : Tile) : Nat := regionSize t 0x016 / 512
def logFree (t : Tile) : Nat := logCap t - t.vt.log.length
def commitFree (t : Tile) : Nat := commitCap t - t.vt.commits.length

def notedOf (t : Tile) (region : Nat) : Nat := match t.vt.noted.find? (fun p => p.1 = region) with
  | some p => p.2 + 1
  | none => 0

/-- Records of the frame that the next waymark takes (R301). -/
def nextFrame (t : Tile) : Nat :=
  let v := cwGet t 0x008
  7 + (if v.getLsbD 32 then 1 else 0) + 4 * (upto 32).countP (fun i => v.getLsbD i)

/-- Stall condition 4 of R319 holds: an event may not be opened yet. -/
def eventShort (t : Tile) : Bool :=
  decide (trailFree t < nextFrame t + notedOf t 0) || decide (logFree t < notedOf t 1) || decide (commitFree t < notedOf t 2)

/-- The message is beyond the window of R314. -/
def beyondWindow (t : Tile) (h : BitVec 512) : Bool :=
  decide ((cwGet t 0x031).toNat + (cwGet t 0x032).toNat < hdrRvt h) && decide (cwGet t 0x032 ≠ BitVec.allOnes 64)

/-- The no-waymark form of ERECV.NS applies (R320). -/
def joinsSegment (t : Tile) (ns : Bool) : Bool := ns && !t.vt.segs.isEmpty

/-! ## Waymarks (R299, R300) -/

/-- The words of a frame that hold task state (R300, R306); SIGACC follows the eight. -/
def markWords : List Nat := [0x000, 0x001, 0x002, 0x020, 0x021, 0x008, 0x070, 0x071, 0x111]

/-- The bytes of a waymark's frame (R300); positions are counted as log 82 says. -/
def waymarkBytes (t : Tile) (m : Waymark) : List Byte :=
  let th := m.th
  let key : List Byte := match m.key with
    | some [rvt, src, svt, six] => leBytes rvt 8 ++ leBytes src 4 ++ leBytes six 4 ++ leBytes svt 8
    | _ => List.replicate 24 0xFF
  let v := cellGet th.cw 0x008
  ((upto 32).map (fun r => leBytes (if r = 0 ∨ isPend th r then 0 else (cellGet th.x r).toNat) 8)).flatten
    ++ leBytes (pGroup th 0).toNat 8 ++ leBytes (pGroup th 1).toNat 8
    ++ (markWords.map (fun n => leBytes (if n = 0x000 then statusOf th else cellGet th.cw n).toNat 8)).flatten
    ++ leBytes m.lvt.toNat 8 ++ key ++ leBytes (m.pc.toNat + m.six * 2 ^ 32) 8
    ++ leBytes m.sendPos 4 ++ leBytes m.commitPos 4 ++ leBytes (t.eng.hamper.countP (fun x => x.consumed.isSome)) 4 ++ leBytes (th.pend.toNat / 2 * 2) 4
    ++ List.replicate 48 0
    ++ (if v.getLsbD 32 then ((upto 7).map (fun i => leBytes (cellGet th.m (i + 1)).toNat 8)).flatten ++ leBytes 0 8 else [])
    ++ (((upto 32).filter (fun r => v.getLsbD r)).map (fun r => leBytes (cellGet th.v r).toNat 256)).flatten

/-- The frame's chunks of 64 bytes join the trail: the first of kind 2, the further ones of kind 3 (R300, R301). -/
def writeFrame (t : Tile) (seg : Nat) (m : Waymark) : Tile :=
  let bs := waymarkBytes t m
  let used := trailUsed t
  (upto (frameRecords m)).foldl (fun t k => trailRecord t (used + k) (64 * k) (if k = 0 then 2 else 3) seg ((bs.drop (64 * k)).take 64)) t

/-- Places a waymark before the effects of the bundle at `pc`. -/
def placeWaymark (t : Tile) (pc : LAddr) : Tile :=
  let v := t.vt
  let m : Waymark := { th := t.th, lvt := cwGet t 0x030, key := v.key, six := v.six, pc := pc, sendPos := v.log.length,
                       commitPos := v.commits.length }
  let t := writeFrame t v.nextSeg m
  let g : Segment := { no := v.nextSeg, mark := m, lines := [], bad := [], keys := [], freed := 0 }
  cwPut { t with vt := { v with segs := g :: v.segs, nextSeg := v.nextSeg + 1, noted := [] } } 0x035 (cwGet t 0x030)

/-- An event opens: LVT, SENDIX and the current key (R294, R295, R319, R321). -/
def enterEvent (t : Tile) (lvt : W64) (key : List Nat) : Tile :=
  let segs := match t.vt.segs with
    | g :: r => { g with keys := g.keys ++ [key] } :: r
    | [] => []
  cwPut { t with vt := { t.vt with segs := segs, key := some key, six := 0 } } 0x030 lvt

/-- The message of an ERECV is consumed and lands as the receive of the operation (R319, R302). -/
def consumeEvent (s : State) (o : EngOp) (m : HamEntry) : State :=
  let (id, s) := freshId s
  let seg := curSeg s.tile
  let s := setHamper (bkpmHit s m.hdr) m.seq (fun y => { y with consumed := some seg })
  let p : Posted := { id := id, uid := o.uid, tok := o.tok, rank := rankLow o.a, tag := tagOf o.a, mask := o.mask, grp := o.grp, lt := o.lts.headD 0,
                      rng := o.rng, st := .landing m, req := none, since := s.cyc, ev := true, seg := seg }
  updEng s (fun e => { e with posted := e.posted ++ [p] })

/-- The event of a bundle takes effect (R319 to R321): `o` is the operation of an ERECV, none for a VTADV. -/
def openEvent (s : State) (pc : LAddr) (ev : W64 × Option HamEntry × Bool) (o : Option EngOp) : State :=
  let (lvt, m, ns) := ev
  match m, o with
  | none, some o => finish s o.uid o.tok cancelWord
  | none, none => { s with tile := enterEvent (placeWaymark s.tile pc) lvt (localKey s.tile lvt) }
  | some x, some o =>
    let t := if joinsSegment s.tile ns then s.tile else placeWaymark s.tile pc
    consumeEvent { s with tile := enterEvent t lvt (hdrKey x.hdr) } o x
  | some _, none => s

/-! ## The send log (R302, R308) -/

/-- The log entry of a SEND (R302). -/
def logEntry (o : EngOp) : LogEntry :=
  { dst := rankLow o.a, tag := tagOf o.a, grp := o.grp, six := BitVec.ofNat 32 o.six, rvt := BitVec.ofInt 64 (sendVt o.lvt o.b),
    svt := o.lvt, seg := o.seg, slot := 0 }

/-- The first place of `n` from `next` on, in rotation, that is not taken. -/
def freePlace (n next : Nat) (taken : List Nat) : Nat := (((upto n).map (fun i => (next + i) % n)).find? (fun k => !taken.contains k)).getD 0

/-- A send-log entry is made: in the region too, in the next free place of its ring (R302). -/
def pushLog (t : Tile) (e : LogEntry) : Tile :=
  let k := freePlace (logCap t) t.vt.logNext (t.vt.log.map (·.slot))
  let t := regionWrite t (regionBase t 0x016 + 32 * k) (leBytes e.dst.toNat 4 ++ leBytes e.tag.toNat 4 ++ leBytes e.grp.toNat 2 ++ leBytes 0 2
    ++ leBytes e.six.toNat 4 ++ leBytes e.rvt.toNat 8 ++ leBytes e.svt.toNat 8)
  { t with vt := { t.vt with log := t.vt.log ++ [{ e with slot := k }], logNext := k + 1 } }

/-- The 256 bytes of a commit-queue entry (R310); those of BENCH and BDROP record X[a] and carry no payload. -/
def commitBytes (c : Commit) : List Byte :=
  let o := c.op
  let bare := decide (4 ≤ c.kind)
  leBytes c.kind 2 ++ leBytes o.tok.toNat 1 ++ leBytes 0 1 ++ leBytes o.word.toNat 4 ++ leBytes c.vt.toNat 8
    ++ leBytes o.a.toNat 8 ++ leBytes (if bare then 0 else o.b.toNat) 8 ++ leBytes (if bare then 0 else o.c.toNat) 8
    ++ leBytes (o.lts.headD 0).toNat 16 ++ leBytes c.payload.length 4 ++ leBytes 0 4 ++ c.payload.take 192 ++ List.replicate (192 - c.payload.length) 0

/-- A commit-queue entry is made: in the region too, in the next free place from that of the latest entry on (R302, R310). -/
def pushCommit (t : Tile) (c : Commit) : Tile :=
  let k := freePlace (commitCap t) t.vt.commitNext (t.vt.commits.map (·.slot))
  let c := { c with slot := k }
  let t := regionWrite t (regionBase t 0x016 + regionSize t 0x016 / 2 + 256 * k) (commitBytes c)
  { t with vt := { t.vt with commits := t.vt.commits ++ [c], commitNext := k + 1 } }

/-- The header of an anti-message (R308). -/
def antiHdr (t : Tile) (e : LogEntry) : BitVec 512 :=
  mkHdr e.dst.toNat (rankOf t) e.grp (flagsOf 0 1 0 true false false) e.tag e.rvt.toNat e.svt.toNat e.six.toNat 0 0 0

/-- A saturating count in a field of a control word. -/
def countCw (t : Tile) (n lo : Nat) : Tile := bumpCw t n lo

/-- An anti-message leaves (R308); one for another module is kept in mind for an error answer (R312, log 78); one to a destination that its twin never left for is not sent. -/
def sendAnti (s : State) (e : LogEntry) : State :=
  let s := { s with tile := countCw s.tile 0x034 0 }
  match refusedRank s e.dst.toNat with
  | some _ => s
  | none =>
    let s := tileSend s (endOf s e.dst.toNat (dieOf s.tile.site)) 1 ⟨antiHdr s.tile e, []⟩
    if otherModule s e.dst.toNat then
      { s with tile := { s.tile with vt := { s.tile.vt with antis := s.tile.vt.antis ++ [(e.dst.toNat, s.tile.vt.round)] } } }
    else s

/-- Whether a send was logged by an entry. -/
def loggedBy (h : BitVec 512) (e : LogEntry) : Bool :=
  decide (hdrDst h = e.dst.toNat) && decide (hdrTag h = e.tag) && decide (hdrRvt h = e.rvt.toNat) && decide (hdrSvt h = e.svt.toNat)
    && decide (hdrIdx h = e.six.toNat)

/-! ## Rollback (R304 to R307) -/

def isSendOp (o : EngOp) : Bool := match o.kind with
  | .send _ => true
  | .backSend => true
  | _ => false

/-- A queued eager send leaves at once. -/
def departNow (s : State) (o : SendOp) : State :=
  let data := if o.st = .reading then o.data else ltRead s.tile.mem o.lt
  let s := sendLeaves s o data
  finish (dropRanges (updSend s o.handle (fun q => { q with st := .retained, data := data, rng := [] })) o.rng) o.uid o.tok (compOk data.length)

/-- The sends issued so far have been delivered (R307): every send still queued leaves in order before SRAM is restored. -/
def flushSends (s : State) : State :=
  let ops := s.tile.eng.ops.filter isSendOp
  let s := updEng s (fun e => { e with ops := e.ops.filter (fun o => !isSendOp o) })
  let s := ops.foldl (fun s o => match o.kind with
    | .send f => runSend f o s
    | _ => runBackSend o s) s
  (s.tile.eng.sends.filter (fun o => o.eager && (decide (o.st = .queued) || decide (o.st = .reading)))).foldl departNow s

/-- The lines of the undone segments are written back, newest first (R305 step 2), poisoned words with their poison (R399). -/
def writeBack (t : Tile) (gs : List Segment) : Tile :=
  gs.foldl (fun t g => g.lines.foldl (fun t p =>
    let t := sramWrite t false (atAddr (64 * p.1) (leBytes p.2.toNat 64))
    { t with poison := t.poison ++ g.bad.filter (fun w => w / 8 = p.1) }) t) t

/-- The frame restored into a context (R306); `gone` are the tokens of undone operations. -/
def restoreFrame (now : Thread) (m : Waymark) (gone : List Reg) : Thread :=
  let keep (r : Nat) : Bool := m.th.pend.getLsbD r && !gone.contains (BitVec.ofNat 5 r)
  let x := (upto 32).foldl (fun st r => cellSet st r (if keep r then cellGet now.x r else if m.th.pend.getLsbD r then 0 else cellGet m.th.x r)) []
  let mask : BitVec 32 := BitVec.ofNat 32 ((upto 32).foldl (fun n r => if keep r then n + 2 ^ r else n) 0)
  let v := (upto 32).foldl (fun st r => if (cellGet m.th.cw 0x008).getLsbD r then cellSet st r (cellGet m.th.v r) else st) now.v
  let mm := if (cellGet m.th.cw 0x008).getLsbD 32 then m.th.m else now.m
  let cw := cellSets now.cw (markWords.map (fun n => (n, cellGet m.th.cw n)) ++ [(0x040, 0), (0x041, 0)])
  { now with uid := m.th.uid, pc := m.pc, x := x, p := m.th.p, v := v, m := mm, cw := cellSet cw 0x000 (setBits (cellGet cw 0x000) 1 1 1),
             pend := now.pend &&& mask, tokw := (now.tokw &&& mask) ||| (m.th.tokw &&& ~~~mask), late := now.late.filter (fun p => keep p.1.toNat),
             flights := [], squash := 0, unspent := 0, trap := none, pfx := none, latch := [], side := [], latchOk := 0, acc := [], tag := 0, cmode := 0, rowOk := 0 }

/-- The engine operations issued in segment `n` or later end (R307); the tokens they leave. -/
def dropUndone (s : State) (n : Nat) : List Reg × State :=
  let e := s.tile.eng
  let ops := e.ops.filter (fun o => decide (n ≤ o.seg))
  let waits := e.waits.filter (fun o => decide (n ≤ o.seg) && decide (o.kind ≠ .bench))
  let posted := e.posted.filter (fun p => decide (n ≤ p.seg) && !e.reqs.any (fun r => isWriteKind r.kind && decide (p.req = some r.id)))
  let reqs := e.reqs.filter (fun r => decide (n ≤ r.seg) && !isWriteKind r.kind)
  let rng := (ops.map (·.rng)).flatten ++ (waits.map (·.rng)).flatten ++ (posted.map (·.rng)).flatten ++ (reqs.map (·.rng)).flatten
  let toks := ops.map (·.tok) ++ waits.map (·.tok) ++ posted.map (·.tok) ++ reqs.map (·.tok)
  let s := updEng s (fun e => { e with ops := e.ops.filter (fun o => !ops.contains o), waits := e.waits.filter (fun o => !waits.contains o),
                                       posted := e.posted.filter (fun p => !posted.contains p), reqs := e.reqs.filter (fun r => !reqs.contains r) })
  (toks, dropRanges s rng)

/-- The bytes that the receives removed by a rollback to segment `n` may have landed without a trail record (R307): those of a message or
stream that was landing, when its own segment is not the current one or its entry has NJ = 1 (R301). -/
def looseBytes (s : State) (n : Nat) : List (Nat × Byte) :=
  ((s.tile.eng.posted.filter (fun p => decide (n ≤ p.seg) && (decide (p.seg ≠ curSeg s.tile) || ltNj p.lt))).map (fun p => match p.st with
    | .landing e => (ltAddrs p.lt).zip e.body
    | .streaming e _ => match s.net.find? (fun x => x.dst = s.tile.site && x.plane = 1 && hdrKind x.pkt.hdr = 3 && hdrSrc x.pkt.hdr = hdrSrc e.hdr
          && decide (hdrHandle x.pkt.hdr = hdrHandle e.hdr)) with
      | some x => (ltAddrs p.lt).zip x.pkt.body
      | none => []
    | _ => [])).flatten

/-- Each of those bytes holds its value at the waymark or what the removed receive landed; which of the two is free (R307, log 66). -/
def landLoose (s : State) (bs : List (Nat × Byte)) : State :=
  if bs = [] then s else
  let hit := landedSome s bs
  let s := { storeRead s hit with free := s.free + bs.length }
  { s with tile := sramWrite s.tile false hit }

/-- The target of the rollback that is due: the earliest segment held that a cause names; true when an anti-message names it. -/
def rollbackTarget (t : Tile) : Option (Segment × Bool) :=
  match t.vt.segs.reverse.find? (fun g => t.vt.due.any (fun d => d.1 = g.no)) with
  | some g => some (g, t.vt.due.any (fun d => d.1 = g.no && d.2))
  | none => none

/-- A rollback (R305). One to the segment whose first sends and actions R336 suppresses has them suppressed in its next execution too. -/
def doRollback (s : State) : State :=
  match rollbackTarget s.tile with
  | none => { s with tile := { s.tile with vt := { s.tile.vt with due := [] } } }
  | some (g, sec) =>
    let n := g.no
    let s := { s with tile := traceTo s.tile 4 (hereCyc s) }
    -- step 1
    let undone := s.tile.vt.log.filter (fun e => decide (n ≤ e.seg))
    let sent := s.tile.eng.sends.filter (fun o => undone.any (loggedBy o.hdr))
    let late := (s.tile.eng.ops.filter (fun o => isSendOp o && decide (n ≤ o.seg))).map (·.tok)
    let s := flushSends s
    let s := { s with tile := { s.tile with th := settleLate { s.tile.th with flights := [] } } }
    let loose := looseBytes s n
    let (toks, s) := dropUndone s n
    let cs := s.tile.vt.commits.filter (fun c => decide (n ≤ c.seg) && !c.released)
    let s := dropRanges s (cs.map (·.op.rng)).flatten
    let gone := toks ++ sent.map (·.tok) ++ late ++ cs.map (·.op.tok)
    -- steps 2 and 3
    let s := landLoose { s with tile := writeBack s.tile (s.tile.vt.segs.filter (fun h => decide (n ≤ h.no))) } loose
    let t := s.tile
    let segs := t.vt.segs.filter (fun h => decide (h.no < n))
    let wayvt : W64 := match segs with
      | h :: _ => h.mark.lvt
      | [] => BitVec.allOnes 64
    let b := t.bench
    let t := { t with th := restoreFrame t.th g.mark gone, began := true, idle := none, stall := none, iss := Issue.empty, haloOld := [],
                      bench := if b.skipSeg = n then { b with leftSends := b.skipSends, leftDefers := b.skipDefers, skipSeg := t.vt.nextSeg } else b,
                      disp := { t.disp with running := true, idled := false, finished := false, sync := none },
                      vt := { t.vt with segs := segs, key := g.mark.key, six := g.mark.six, due := [],
                                        log := t.vt.log.filter (fun e => decide (e.seg < n)), commits := t.vt.commits.filter (fun c => !cs.contains c) } }
    let t := cwPut (cwPut t 0x030 g.mark.lvt) 0x035 wayvt
    -- step 4
    let s := undone.foldl sendAnti { s with tile := t }
    -- step 6
    let s := updEng s (fun e => { e with hamper := e.hamper.map (fun x => match x.consumed with
      | some k => if n ≤ k then { x with consumed := none } else x
      | none => x) })
    -- step 7
    let t := countCw s.tile 0x033 0
    let s := settleHamper { s with tile := if sec then countCw t 0x033 32 else t }
    { s with tile := traceNote s.tile (hereCyc s) }

/-- A rollback is due and may be taken: user mode, not halted (R304). -/
def rollbackReady (s : State) : Bool :=
  !s.tile.vt.due.isEmpty && !s.tile.sup && !s.tile.dbg.halted && partnRuns s s.tile.pid

/-- The boundary before the next bundle is reached: what lands at the start of its issue cycle has landed (R34). -/
def reachBoundary (s : State) : State :=
  let s := drainRead s
  { s with tile := beginCycle s.tile (hereCyc s) }

end Sys2Proof.Machine
end

