-- ==== Sys2Proof/Machine/Bench.lean ====
section
/-! DEFINITION. Benches: the BENCH forms, the engines' operations, the cut, capture, sealing and haul (14). -/

namespace Sys2Proof.Machine

open Sys2Proof

/-! ## Slot meanings (R348 to R352) -/

/-- BENCH (R349). -/
def execBench (c : Ctl) (t a : Reg) (s : State) : Out := engSlot c s (fun s => addOp s (engOp s .bench t (X s a) 0 0 []))

/-- The bench of the tile's partition with an id. -/
def benchOf (s : State) (pid id : Nat) : Option Bench := match partnOf s pid with
  | some p => p.benches.find? (fun b => b.id = id && decide (id ≠ 0))
  | none => none

/-- BSTAT (R350). HELD's and STORED's bits as the table of R350 gives them: STORED is added from bit 32, HELD from bit 8 (24 bits). -/
def execBstat (c : Ctl) (d a : Reg) (s : State) : Out :=
  engSlot c s (fun s => addX s 2 d (match benchOf s s.tile.pid (bitsOf (X s a) 0 3) with
    | some b => BitVec.ofNat 64 (b.st + (if 1 ≤ b.st ∧ b.st ≤ 4 then b.gen * 2 ^ 4 else 0) + (b.held % 2 ^ 24) * 2 ^ 8 + (b.stored % 2 ^ 24) * 2 ^ 32)
    | none => 0))

/-- BWAIT (R351). -/
def execBwait (c : Ctl) (t a : Reg) (s : State) : Out := engSlot c s (fun s => addOp s (engOp s .bwait t (X s a) 0 0 []))

/-- BDROP (R352). -/
def execBdrop (c : Ctl) (a : Reg) (s : State) : Out := engSlot c s (fun s => addOp s (engOp s .bdrop 0 (X s a) 0 0 []))

/-! ## The bench store's directory (R341, R344, R415) -/

/-- The 128 bytes of a directory entry. -/
def dirBytes (e : DirEntry) : List Byte :=
  bytesOf e.rec_ ++ leBytes e.bench.id 1 ++ leBytes e.st 1 ++ leBytes e.pid 2 ++ leBytes 0 4 ++ leBytes e.bench.cut.toNat 8
    ++ leBytes e.bench.stored 8 ++ leBytes e.bench.first 8 ++ List.replicate 32 0

/-- Writes entry `i` of the directory into the bench store. -/
def dirWrite (s : State) (i : Nat) : State :=
  match s.mgr.dir[i]? with
  | some e => { s with cap := writeBytes s.cap ((cellGet s.mgr.w2 0).toNat + 128 * i) (dirBytes e) }
  | none => s

/-- A bench takes the first free entry of the directory, or a new one of its 256 (R415). -/
def dirAdd (s : State) (e : DirEntry) : State :=
  match s.mgr.dir.findIdx? (fun x => x.st = 0) with
  | some i => dirWrite { s with mgr := { s.mgr with dir := s.mgr.dir.set i e } } i
  | none => if s.mgr.dir.length < 256 then dirWrite { s with mgr := { s.mgr with dir := s.mgr.dir ++ [e] } } s.mgr.dir.length else s

/-- One of the 256 entries is free. -/
def dirRoom (s : State) : Bool := s.mgr.dir.any (fun e => e.st = 0) || decide (s.mgr.dir.length < 256)

/-- The entry of a hauled bench of a partition becomes free, unless it is kept: that one is freed only by DROP (R352, R415). -/
def dirFree (s : State) (pid : Nat) (b : Bench) : State :=
  let hit (e : DirEntry) : Bool := e.pid = pid && e.bench.id = b.id && e.bench.seq = b.seq && e.st = 5 && !e.kept
  let is := (s.mgr.dir.zipIdx.filter (fun p => hit p.1)).map (·.2)
  is.foldl dirWrite { s with mgr := { s.mgr with dir := s.mgr.dir.map (fun e => if hit e then { e with st := 0, kept := false } else e) } }

/-! ## Stored pages (R342) -/

def crc32Bit (c : BitVec 32) : BitVec 32 := if c.getLsbD 0 then (c >>> 1) ^^^ 0xEDB88320 else c >>> 1

/-- CRC-32 (R342): the IEEE 802.3 polynomial, reflected, initial value and final XOR all ones. -/
def crc32 (bs : List Byte) : BitVec 32 :=
  ~~~(bs.foldl (fun c b => (upto 8).foldl (fun c _ => crc32Bit c) (c ^^^ b.setWidth 32)) 0xFFFFFFFF)

/-- A length of an LZ4 block that goes on in further bytes, of which the last is not 255 (log 33). -/
def lz4Len : Nat → List Byte → Option (Nat × List Byte)
  | _, [] => none
  | n, b :: r => if b = 255 then lz4Len (n + 255) r else some (n + b.toNat, r)

/-- `n` bytes copied from `d` bytes before the end of the output, which is held last byte first. -/
def lz4Copy : Nat → Nat → List Byte → List Byte
  | 0, _, o => o
  | n + 1, d, o => lz4Copy n d (o.getD (d - 1) 0 :: o)

/-- What an LZ4 block decodes to, after the output `o` (R342, log 33): literals, then a copy of what stands an offset back, by sequences;
the last has only literals. -/
def unlz4 : Nat → List Byte → List Byte → Option (List Byte)
  | 0, _, _ => none
  | _, [], _ => none
  | fuel + 1, t :: r, o =>
    match (if t.toNat / 16 = 15 then lz4Len 15 r else some (t.toNat / 16, r)) with
    | none => none
    | some (l, r) =>
      if r.length < l then none else
      let o := (r.take l).reverse ++ o
      match r.drop l with
      | [] => some o.reverse
      | [_] => none
      | a :: b :: r =>
        let d := a.toNat + 256 * b.toNat
        if d = 0 ∨ o.length < d then none else
        match (if t.toNat % 16 = 15 then lz4Len 15 r else some (t.toNat % 16, r)) with
        | none => none
        | some (m, r) => unlz4 fuel r (lz4Copy (m + 4) d o)

/-- FORM and body of a page (R342): the LZ4 block that the engine makes where it decodes to the page and is shorter than the page, else
the page raw. -/
def pageBody (page : List Byte) : Nat × List Byte :=
  let z := Config.lz4Block page
  if z.length < 16384 ∧ unlz4 (z.length + 1) z [] = some page then (1, z) else (0, page)

/-- The header and the body of a stored page (R342). -/
def pageBytes (id kind origin : Nat) (page : List Byte) : List Byte :=
  let (form, body) := pageBody page
  leBytes form 2 ++ leBytes kind 1 ++ leBytes (id % 8) 1 ++ leBytes body.length 4 ++ leBytes origin 8 ++ bytesOf (crc32 page)
    ++ List.replicate 12 0 ++ body

/-! ## Requests (R326, R349, R351, R352) -/

def bpolMode (p : Partn) : Nat :=
  let m := recField p.rec_ 48 1 % 4
  if recField p.rec_ 52 4 = 0 ∨ m = 3 ∨ (m = 2 ∧ recField p.rec_ 3 1 % 2 = 0) then 0 else m

def isOptPartn (p : Partn) : Bool := decide (recField p.rec_ 3 1 % 2 = 1)

/-- The lowest id free in the partition, and the lowest generation free in the module (R326). -/
def freeBenchId (p : Partn) : Option Nat := ([1, 2, 3, 4, 5, 6, 7]).find? (fun i => !p.benches.any (fun b => b.id = i))
def freeGen (s : State) : Option Nat :=
  (upto 8).find? (fun g => !s.partns.any (fun p => p.benches.any (fun b => b.gen = g && decide (1 ≤ b.st) && decide (b.st ≤ 4))))

/-- A new bench in CUTTING with its cut VT: in a plain partition the marker is sent and the colour changes (R331, R334). -/
def newBench (s : State) (pid v : Nat) : Option (Nat × State) :=
  match partnOf s pid with
  | none => none
  | some p =>
    match freeBenchId p, freeGen s with
    | some id, some g =>
      let b : Bench := { Bench.zero with id := id, gen := g, st := 1, cutVt := v, cut := BitVec.ofNat 64 (if isOptPartn p then 0 else s.cyc) }
      let s := mapPart s pid (fun p => { p with benches := p.benches ++ [b], colour := if isOptPartn p then p.colour else !p.colour })
      some (id, showBench s pid)
    | _, _ => none

/-- Messages of the partition in flight for which the test holds, wherever they are (R264). -/
def flying (s : State) (pid : Nat) (f : BitVec 512 → Bool) : Bool :=
  let ofPid (x : Nat) : Bool := match tileAt s (if 8192 ≤ x then x - 8192 else x) with
    | some t => decide (t.pid = pid)
    | none => false
  s.net.any (fun x => (ofPid x.src || ofPid x.dst) && f x.pkt.hdr) ||
  (match partnOf s pid with
   | some p => (allTiles s).any (fun t => inRect p.rec_ t.site &&
      (t.rt.held.any (fun q => f q.2.hdr) || t.rt.inp.any (fun q => f q.2.2.hdr) || t.rt.queue.any (fun q => f q.hdr)))
   | none => false)

def roundTiles (s : State) (p : Partn) : List Tile := (allTiles s).filter (fun t => p.sites.contains t.site)

/-- Every tile has the bench colour of its plain partition. -/
def allFlipped (s : State) (p : Partn) : Bool := (roundTiles s p).all (fun t => t.bench.colour = p.colour)

/-- No trace of an earlier colour is left: a plain partition's next cut can begin (log 86). -/
def settled (s : State) (p : Partn) : Bool :=
  isOptPartn p || (allFlipped s p && !flying s p.pid (fun h => hdrBench h != p.colour)
    && (roundTiles s p).all (fun t => t.eng.sends.all (fun o => hdrBench o.hdr = p.colour || !(decide (o.st = .queued) || decide (o.st = .reading)))
      && t.eng.reqs.all (fun r => r.colour = p.colour)))

/-- Whether a bench is being captured, so that a request must wait (R349). -/
def capturing (p : Partn) : Bool := p.benches.any (fun b => b.st = 2)
def cutting (p : Partn) : Option Bench := p.benches.find? (fun b => b.st = 1)

/-- A request is handled by the partition manager (R349); `w` are the tokens that wait. None while it waits for a capture, or for the colours of
a bench that has been abandoned (log 86). -/
def acceptBench (s : State) (pid v : Nat) (w : List (Nat × Nat × Reg)) : Option State :=
  match partnOf s pid with
  | none => some s
  | some p =>
    match cutting p with
    | some b => some (updBench s pid b.id (fun b => { b with waitB := b.waitB ++ w }))
    | none =>
      if capturing p || !settled s p then none else
      match newBench s pid v with
      | some (id, s) => some (updBench s pid id (fun b => { b with waitB := w }))
      | none => some (wakeTokens s w (compErr 0x0A 0))

/-- BENCH in the engine: the request is on its way to the partition manager. -/
def runBench (o : EngOp) (s : State) : State := updEng s (fun e => { e with waits := e.waits ++ [o] })

/-! ## TAKE (R349, R415) -/

/-- A status word of the layout of CMDSTAT (R410, R415). -/
def statWord (busy err : Bool) (result code : Nat) : W64 :=
  BitVec.ofNat 64 ((if busy then 2 ^ 63 else 0) + (if err then 2 ^ 62 else 0) + (result % 256) * 2 ^ 8 + code % 256)

def w2Get (s : State) (off : Nat) : W64 := cellGet s.mgr.w2 off
def w2Put (s : State) (off : Nat) (v : W64) : State := { s with mgr := { s.mgr with w2 := cellSet s.mgr.w2 off v } }
def benchStat (s : State) (err : Bool) (result code : Nat) : State := w2Put s 0x28 (statWord false err result code)

/-- TAKE for a partition with cut VT `v`: it acts as BENCH; a request that must wait has BUSY = 1 (R349, R415, log 56). -/
def takeBench (s : State) (pid v : Nat) : State :=
  let s := { s with mgr := { s.mgr with take := none } }
  match partnOf s pid with
  | none => benchStat s true 0 3
  | some p =>
    if p.st ≠ .running then benchStat s true 0 4
    else match cutting p with
      | some b => benchStat s false b.id 0
      | none =>
        if capturing p || !settled s p then w2Put { s with mgr := { s.mgr with take := some (pid, v) } } 0x28 (statWord true false 0 0)
        else match newBench s pid v with
          | some (id, s) => benchStat s false id 0
          | none => benchStat s true 0 6

/-- BENCH_ACCEPT (R349): the first request of the partition that waits, one of a tile before one of the host. -/
def execBenchAccept (pid : Nat) (s : State) : Out :=
  .next (match (partnTiles s pid).findSome? (fun t => (t.eng.waits.find? (fun o => o.kind = .bench)).map (fun o => (t.site, o))) with
    | none => match s.mgr.take with
      | some (x, v) => if x = pid then takeBench s x v else s
      | none => s
    | some (site, o) =>
      match acceptBench s pid o.b.toNat (if o.tok = 0 then [] else [(site, o.uid, o.tok)]) with
      | some s => mapTile s site (fun t => { t with eng := { t.eng with waits := t.eng.waits.erase o } })
      | none => s)

/-- BWAIT in the engine (R351). -/
def runBwait (o : EngOp) (s : State) : State :=
  let id := bitsOf o.a 0 3
  match benchOf s s.tile.pid id with
  | none => finish s o.uid o.tok (compErr 0x04 0)
  | some b =>
    if b.st = 5 then finish s o.uid o.tok (compOk 0)
    else if b.st = 6 then finish s o.uid o.tok (compErr 0x0A 0)
    else updEng s (fun e => { e with waits := e.waits ++ [o] })

/-- A bench is dropped; the haul engines let go of its pages (R352). -/
def dropBench (s : State) (pid id : Nat) : State :=
  match benchOf s pid id with
  | none => s
  | some b =>
    let s := if b.st = 1 ∨ b.st = 2 then abandon s pid id else stopHaul (wakeBwait s pid id (compErr 0x0A 0)) pid id
    let s := if b.st = 5 then dirFree s pid b else s
    showBench (mapPart s pid (fun p => { p with benches := p.benches.filter (fun b => b.id ≠ id) })) pid

/-- BDROP in the engine (R352). -/
def runBdrop (o : EngOp) (s : State) : State := dropBench s s.tile.pid (bitsOf o.a 0 3)

/-! ## The engines take up an operation -/

/-- The oldest operation handed over may be taken up: its bundle issued in an earlier cycle, and no arrival has been handled before a
posting in this cycle (R187). -/
def opDue (s : State) (o : EngOp) : Bool := decide (o.cyc < s.cyc) && !(decide (o.kind = .recv) && decide (s.tile.eng.arrived = some s.cyc))

/-- The oldest operation handed over is taken up by its engine (R187, R201, R221, R250 to R254, R285, R324, R349). -/
def engineStep (s : State) : State :=
  match s.tile.eng.ops with
  | [] => s
  | o :: r =>
    if !opDue s o then s else
    let s' := updEng s (fun e => { e with ops := r })
    let req : State := match startReq o none s' with
      | some s2 => s2
      | none => { s with tile := shortAt s.tile 0 (usedIn s.tile 0) }
    match o.kind with
    | .send f => runSend f o s'
    | .backSend => runBackSend o s'
    | .recv => runRecv o s'
    | .probe => runProbe o s'
    | .cancel a => runCancel a o s'
    | .steal x => runSteal x o s'
    | .quit => runQuit o s'
    | .sendt => runSendt o s'
    | .msend => runMsend o s'
    | .halo => runHalo o s'
    | .fencex => runFencex o s'
    | .gvtw => runGvtw o s'
    | .bench => runBench o s'
    | .bwait => runBwait o s'
    | .bdrop => runBdrop o s'
    | .deferH => s'
    | .deferT => s'
    | .qget => req
    | .qput => req
    | .qgett => req
    | .qputt => req
    | .qatom => req
    | .qgath => req
    | .qscat => req
    | .qfill => req
    | .qcopy => req
    | .fenceQ => req

/-- The operations handed over in earlier cycles are taken up. -/
def drainOps (s : State) : State := (upto s.tile.eng.ops.length).foldl (fun s _ => engineStep s) s

/-! ## The image of a tile (R332, R335, R336) -/

/-- Receives that are posted and unmatched. -/
def unmatched (p : Posted) : Bool := p.req.isNone && decide (p.st = .posted)

/-- Operations that the image holds and a restored tile's engines take up again: BENCH not yet accepted, BWAIT and GVTW (log 86). -/
def isKeptOp (o : EngOp) : Bool := decide (o.kind = .bench) || decide (o.kind = .bwait) || decide (o.kind = .gvtw)

/-- The engine part of an image: what is posted and unmatched, the hamper, the sends that wait for an answer, and the waits kept. The
translation buffer is none of it: a tile translates anew after a restore (R217). -/
def imageEngine (e : Engine) (posted : List Posted) (hamper : List HamEntry) (sends : List SendOp) (waits : List EngOp) : Engine :=
  let keep := (posted.map (·.rng)).flatten
  { e with ops := (waits.filter isKeptOp).map (fun o => { o with cyc := 0 }), halos := [], arrived := none, sends := sends, reqs := [], waits := [],
           stopped := none, posted := posted, hamper := hamper, owed := [], tlb := [],
           ranges := e.ranges.filter (fun r => keep.contains r.id), trackers := e.trackers.map (fun p => (p.1, { p.2 with use := none, held := false })) }

/-- A send whose completion word is still to come; a rendezvous that waits for its clear-to-send is such a one until it is decided. -/
def liveSend (o : SendOp) : Bool := match o.st with
  | .retained => false
  | .waitCts => !o.eager
  | .streaming _ => !o.eager
  | _ => true

/-- The tokens of BENCH that a partition's manager has accepted for a tile: their words come with the sealing (R349). -/
def benchTokens (s : State) (t : Tile) : List (Nat × Reg) :=
  match partnOf s t.pid with
  | some p => (p.benches.map (fun b => b.waitB)).flatten.filterMap (fun w => if w.1 = t.site then some (w.2.1, w.2.2) else none)
  | none => []

/-- The tokens of operations outstanding that were issued before segment `n`. -/
def openTokens (s : State) (n : Nat) : List (Nat × Reg) :=
  let t := s.tile
  let later := t.vt.log.filter (fun e => decide (n ≤ e.seg))
  ((t.eng.sends.filter (fun o => liveSend o && !later.any (loggedBy o.hdr))).map (fun o => (o.uid, o.tok))
    ++ (t.eng.reqs.filter (fun r => decide (r.seg < n))).map (fun r => (r.uid, r.tok))
    ++ (t.eng.waits.filter (fun o => decide (o.seg < n) && !isKeptOp o)).map (fun o => (o.uid, o.tok)) ++ t.rt.buffer.map (fun f => (f.uid, f.tok))
    ++ (t.eng.posted.filter (fun p => !unmatched p && p.req.isNone && decide (p.seg < n))).map (fun p => (p.uid, p.tok))
    ++ benchTokens s t).filter (fun p => p.2 ≠ 0)

/-- The dispatcher of an image: steals under way belong to the live tile; those issued before the cut bring their records to the image too. -/
def imageDisp (d : Dispatcher) : Dispatcher := { d with thefts := [], served := none, pushed := none, reserved := 0 }

/-- The router of an image: flits and copies on their way are messages in flight; the flits of the time buffer have given their tokens back
(R332). -/
def imageRouter (r : Router) : Router :=
  { r with inp := [], held := [], queue := [], fed := none, mcast := r.mgnew.foldl (fun m e => cellSet m e.1 e.2) r.mcast, mgnew := [], aside := [], watch := [],
           buffer := r.buffer.map (fun f => { f with tok := 0, rng := [] }) }

/-- The capture of a plain tile at its flip, at the boundary before an issue cycle: results land as counted from there (R332, R343). -/
def plainCapture (s : State) (b : Bench) : Capture :=
  let t := s.tile
  let posted := t.eng.posted.filter unmatched
  let kept := t.eng.sends.filter (fun o => o.eager && (decide (o.st = .retained) || decide (o.st = .waitCts)))
  let keep := (posted.map (·.rng)).flatten
  { id := b.id, gen := b.gen, th := keptThread t, sup := t.sup, cw := t.cw, poison := t.poison, soft := t.soft, stale := t.stale, ltsb := t.ltsb,
    frozen := t.frozen, asyncs := t.asyncs, hold64 := t.hold64, idle := t.idle, eng := imageEngine t.eng posted t.eng.hamper kept t.eng.waits,
    rt := imageRouter t.rt, disp := imageDisp t.disp, vt := t.vt,
    cyc := s.cyc, pre := (t.eng.ranges.filter (fun r => !keep.contains r.id)).map (·.id), waitRegs := openTokens s (t.vt.nextSeg + 1),
    preId := t.eng.nextId, copied := [], sweep := 0, img := [], channel := [], done := false, seg := 0, skipSends := 0, skipDefers := 0 }

/-- The oldest record of each line made since segment `n` (R335). -/
def oldestLines (t : Tile) (n : Nat) : List (Nat × BitVec 512) :=
  (((t.vt.segs.filter (fun g => decide (n ≤ g.no))).map (·.lines)).flatten.reverse).foldl
    (fun a p => if a.any (fun q => q.1 = p.1) then a else a ++ [p]) []

/-- The tokens of operations issued in segment `n` or later: the image's task has not set them (R306). -/
def laterToks (t : Tile) (n : Nat) : List Reg :=
  let later := t.vt.log.filter (fun e => decide (n ≤ e.seg))
  (t.eng.waits.filter (fun o => decide (n ≤ o.seg))).map (·.tok) ++ (t.eng.posted.filter (fun p => decide (n ≤ p.seg))).map (·.tok)
    ++ (t.eng.reqs.filter (fun r => decide (n ≤ r.seg))).map (·.tok) ++ (t.eng.sends.filter (fun o => later.any (loggedBy o.hdr))).map (·.tok)
    ++ (t.vt.commits.filter (fun c => decide (n ≤ c.seg) && !c.released)).map (·.op.tok)

/-- The tile as a waymark placed now would find it: its results have landed; in a handler, the user's task as a return leaves it (R299, R335,
log 94). -/
def settledTile (t : Tile) (now : Nat) : Tile :=
  let t := { t with vt := { t.vt with segs := [] } }
  settleFlights 24 (if t.sup then { returnTrap t with sup := false } else t) now

/-- A waymark placed in a tile that holds what `t` holds. -/
def markHere (t : Tile) : Waymark :=
  { th := t.th, lvt := cwGet t 0x030, key := t.vt.key, six := t.vt.six, pc := t.th.pc, sendPos := 0, commitPos := 0 }

/-- The capture of an optimistic tile at its image waymark, for the cut time G (R335, R336): it resumes as a rollback does, in user mode with
nothing in flight (R343 step 5). -/
def optCapture (s : State) (b : Bench) : Capture :=
  let t := s.tile
  let g := b.cut.toNat
  let seg := t.vt.segs.reverse.find? (fun x => x.keys.any (fun k => decide (g ≤ k.headD 0)))
  let n := match seg with
    | some x => x.no
    | none => t.vt.nextSeg
  let base := plainCapture s b
  let t1 := settledTile t (hereCyc s)
  let mark := match seg with
    | some x => x.mark
    | none => markHere t1
  let th := match seg with
    | some x => restoreFrame t.th x.mark (laterToks t n)
    | none => restoreFrame t1.th mark []
  let lines := match seg with
    | some _ => oldestLines t n
    | none => ((drainSpans (t.th.flights ++ t.frozen)).map (fun d => (upto (d.2 - d.1 + 1)).map (fun i => d.1 + i))).flatten.dedup.map (fun l => (l, lineGet t1.mem l))
  let disp := match seg with
    | some _ => { base.disp with running := true, idled := false, finished := false, sync := none }
    | none => base.disp
  let posted := t.eng.posted.filter (fun p => unmatched p && decide (p.seg < n))
  let ham := (t.eng.hamper.filter (fun x => decide (hdrSvt x.hdr < g) && (match x.consumed with
    | some k => decide (n ≤ k)
    | none => true))).map (fun x => { x with consumed := none })
  let keep := ((t.eng.posted.filter (fun p => unmatched p || decide (n ≤ p.seg))).map (·.rng)).flatten
  { base with th := th, sup := false, ltsb := [], frozen := [], asyncs := [], hold64 := none, idle := none, disp := disp,
              cw := cellSets t.cw [(0x030, mark.lvt), (0x031, b.cut), (0x035, BitVec.allOnes 64)],
              eng := imageEngine { t.eng with readmits := t.eng.readmits.filter (fun x => decide (hdrSvt x.hdr < g)) } posted ham []
                (t.eng.waits.filter (fun o => decide (o.seg < n))),
              vt := { VTime.empty with key := mark.key, six := mark.six, nextSeg := t.vt.nextSeg }, waitRegs := openTokens s n,
              pre := base.pre.filter (fun i => !keep.contains i), copied := lines, seg := n,
              skipSends := (if t.bench.skipSeg = n then t.bench.skipSends else 0) + (t.vt.log.filter (fun e => e.seg = n && decide (e.svt.toNat < g))).length,
              skipDefers := (if t.bench.skipSeg = n then t.bench.skipDefers else 0) + (t.vt.commits.filter (fun e => e.seg = n && decide (e.vt.toNat < g))).length + (match seg with
                | some x => x.freed
                | none => 0) }

/-- A tile takes its capture: sends that wait for a clear-to-send stay undecided (R332). -/
def startCapture (s : State) (c : Capture) (colour : Bool) : State :=
  let t := s.tile
  let v := cwGet t 0x060
  let e := { t.eng with sends := t.eng.sends.map (fun o => { o with pre := (decide (o.st = .waitCts) || decide (o.st = .queued)) && !o.eager }) }
  { s with tile := cwPut { t with eng := e, bench := { t.bench with colour := colour, cap := some c } } 0x060 (setBits (setBits v 6 1 1) 7 1 (if colour then 1 else 0)) }

/-- BENCH_FLIP (R331, R332): operations handed over before it are with their engines first. -/
def execBenchFlip (site : Nat) (s : State) : Out :=
  atTile s site (fun s => match partnOf s s.tile.pid with
    | none => s
    | some p => match p.benches.find? (fun b => b.st = 1) with
      | some b =>
        if isOptPartn p || s.tile.bench.colour = p.colour then s else
        let s := drainOps s
        if !s.tile.eng.ops.isEmpty then s else
        checkFlipped (startCapture s (plainCapture s b) p.colour) p.pid
      | none =>
        -- a bench abandoned before this tile flipped leaves only its colour
        if isOptPartn p || s.tile.bench.colour = p.colour then s else
        let v := cwGet s.tile 0x060
        { s with tile := cwPut { s.tile with bench := { s.tile.bench with colour := p.colour } } 0x060 (setBits v 7 1 (if p.colour then 1 else 0)) })

/-- The cut of an optimistic bench, at the release of its round, whose GVT is its cut time (R327, R334). -/
def optCut (s : State) (pid : Nat) (b : Bench) : State :=
  let (sites, gvt) := match partnOf s pid with
    | some p => (p.sites, p.gvt)
    | none => ([], 0)
  let b := { b with st := 2, due := false, cut := BitVec.ofNat 64 gvt }
  let s := updBench s pid b.id (fun _ => b)
  let here := s.tile.site
  let s := sites.foldl (fun s x => let s := focus x s; startCapture s (optCapture s b) s.tile.bench.colour) s
  let owners := match partnOf s pid with
    | some p => benchOwners s p
    | none => []
  focus here (owners.foldl (fun s o => quarryFlip s pid o) s)

/-! ## Capture and sealing (R337 to R340) -/

/-- Pool pages for an image: none while they wait for haul, else the state, in which the bench may have been abandoned (R340). -/
def takePage (s : State) (pid id site n : Nat) : Option State :=
  match partnOf s pid with
  | none => some s
  | some p =>
    if poolRoom s p (16 * dieOf site + site % 16) n then
      some (showBench (updBench s pid id (fun b =>
        { b with imgs := if b.imgs.any (fun i => i.1 = site) then b.imgs.map (fun i => if i.1 = site then (site, i.2 + n) else i)
                         else b.imgs ++ [(site, n)] })) pid)
    else makeRoom s p n

def updCap (s : State) (f : Capture → Capture) : State :=
  { s with tile := { s.tile with bench := { s.tile.bench with cap := s.tile.bench.cap.map f } } }

/-- A pre-cut operation still holds the W span of a line. -/
def lineHeld (t : Tile) (c : Capture) (l : Nat) : Bool :=
  t.eng.ranges.any (fun r => c.pre.contains r.id && r.write && decide (r.first ≤ l) && decide (l ≤ r.last))

/-- R338 but for the channel record. -/
def captureOver (s : State) (t : Tile) (c : Capture) : Bool :=
  decide (0x8000 ≤ c.sweep) && c.waitRegs.all (fun w => (benchTokens s t).contains w) && !t.eng.ranges.any (fun r => c.pre.contains r.id)
    && (isOpt t || !(t.eng.reqs.any (fun r => decide (r.id < c.preId)) || t.eng.waits.any (fun o => isSteal o && decide (o.b.toNat < c.preId))))
    && !t.eng.sends.any (fun o => o.pre)

/-- No packet that R333 or R335 assigns to a channel record of the bench is still to be admitted, as the counts of R339 show. -/
def channelOver (s : State) (p : Partn) (b : Bench) : Bool :=
  let mine (h : BitVec 512) : Bool := isMsgKind (hdrKind h) &&
    (if isOptPartn p then decide (hdrSvt h < b.cut.toNat) else hdrBench h != p.colour)
  (isOptPartn p || allFlipped s p) && !flying s p.pid mine && (roundTiles s p).all (fun t => !t.eng.sends.any (fun o => unsent o && mine o.hdr))

/-- No old-colour clear-to-send is still owed to a send that was waiting at the flip: it is recorded as waiting (R332). -/
def decideSends (s : State) : State :=
  match partnOf s s.tile.pid with
  | none => s
  | some p =>
    if allFlipped s p && !flying s p.pid (fun h => hdrKind h = 2 && hdrBench h != p.colour) && (roundTiles s p).all (fun t => !t.eng.posted.any (preMatched t)) then
      (s.tile.eng.sends.filter (fun o => o.pre && decide (o.st = .waitCts))).foldl (fun s o => updSend (waitingSend s o) o.handle (fun q => { q with pre := false })) s
    else s

/-- The capture of the tile in focus is finished (R338). -/
def captureEnd (s : State) : Bool :=
  match s.tile.bench.cap, partnOf s s.tile.pid with
  | some c, some p => captureOver s s.tile c && p.benches.any (fun b => b.id = c.id && channelOver s p b)
  | _, _ => false

/-- BENCH_SWEEP (R337, R399): one line in ascending address; after the last, the end of the capture is noted. -/
def execBenchSweep (site : Nat) (s : State) : Out :=
  atTile s site (fun s => match s.tile.bench.cap with
    | none => s
    | some c =>
      if c.done then s
      else if 0x8000 ≤ c.sweep then
        let s := decideSends s
        if captureEnd s then showBench (updCap s (fun c => { c with done := true })) s.tile.pid
        else s
      else
        let l := c.sweep
        if lineHeld s.tile c l then s else
        match (if l % 256 = 0 then takePage s s.tile.pid c.id site (if l = 0 then 5 else 1) else some s) with
        | none => s
        | some s =>
          match s.tile.bench.cap with
          | none => s
          | some c =>
            match c.copied.find? (fun p => p.1 = l) with
            | some p => updCap s (fun c => { c with sweep := l + 1, copied := c.copied.filter (fun q => q.1 ≠ l), img := blit c.img (64 * l) (leBytes p.2.toNat 64) })
            | none =>
              let s := checkRead s ((upto 64).map (fun i => 64 * l + i)) 2 false
              updCap s (fun c => { c with sweep := l + 1, img := blit c.img (64 * l) (readBytes s.tile.mem (64 * l) 64) }))

/-- Pages of a channel record. -/
def channelPages (c : Capture) : Nat := (c.channel.foldl (fun n p => n + 64 + p.body.length) 0 + 16383) / 16384

/-- The conditions of R339 on a bench. -/
def sealable (s : State) (p : Partn) (b : Bench) : Bool :=
  b.st = 2 && (roundTiles s p).all (fun t => match t.bench.cap with
      | some c => c.id = b.id && c.done
      | none => false)
    && (benchOwners s p).all (fun o => b.acks.contains o)
    && channelOver s p b && (isOptPartn p || !flying s p.pid (fun h => hdrBench h != p.colour && (decide (hdrKind h = 2) || decide (hdrKind h = 5))))

/-- A bench is sealed: its tokens complete, in the images too, its images leave the tiles, LASTBENCH and BENCHST.LAST are written (R339, R345,
R349). -/
def sealBench (s : State) (pid id : Nat) : State :=
  match partnOf s pid, benchOf s pid id with
  | some p, some b =>
    let s := wakeTokens s b.waitB (compOk id)
    let images := ((allTiles s).filter (fun t => p.sites.contains t.site)).filterMap (fun t => t.bench.cap.map (fun c => (t.site, c)))
    let s := updBench s pid id (fun b => { b with st := 3, images := images, waitB := [], seq := s.mgr.sealSeq })
    let s := mapPartn { s with mgr := { s.mgr with sealSeq := s.mgr.sealSeq + 1 } } pid (fun t =>
      let t := { t with bench := { t.bench with cap := none } }
      cwPut (cwPut t 0x061 b.cut) 0x060 (setBits (cwGet t 0x060) 8 3 id))
    let s := showBench s pid
    if (recField p.rec_ 48 1).testBit 2 ∧ 7 ≤ p.benches.length then
      let old := (p.benches.filter (fun b => b.st = 5)).foldl (fun (a : Option Bench) b => match a with
        | some x => if b.seq < x.seq then some b else some x
        | none => some b) none
      match old with
      | some x => dropBench s pid x.id
      | none => s
    else s
  | _, _ => s

/-- BENCH_SEAL (R339): the channel records take their pages, all of them or none while one must wait, and the bench is SEALED. -/
def execBenchSeal (pid id : Nat) (s : State) : Out :=
  .next (match partnOf s pid, benchOf s pid id with
    | some p, some b =>
      if !sealable s p b then s else
      let need := ((allTiles s).filter (fun t => p.sites.contains t.site)).filterMap (fun t => t.bench.cap.map (fun c => (t.site, channelPages c)))
      match need.foldl (fun (a : Option State) n => a.bind (fun s => if n.2 = 0 then some s else takePage s pid id n.1 n.2)) (some s) with
      | none => s
      | some s => match benchOf s pid id with
        | some b => if b.st = 2 then sealBench s pid id else s
        | none => s
    | _, _ => s)

/-! ## Haul (R341, R342, R344) -/

/-- The haul engines may take a page of a bench: the store is there and no power fails; it is the one that its partition has on haul, or the
one sealed first of those that wait, and its partition has none on haul (R341). -/
def haulable (s : State) (p : Partn) (b : Bench) : Bool :=
  decide (cellGet s.mgr.w2 8 ≠ 0) && !s.mgr.pfail &&
    (b.st = 4 || (b.st = 3 && !p.benches.any (fun x => x.st = 4)
      && s.partns.all (fun q => q.benches.all (fun x => decide (x.st ≠ 3) || decide (b.seq ≤ x.seq)))))

/-- A bench is HAULED: its directory record is written and its waiting tokens complete (R341, R351); a directory without a free entry fails
it (log 33). -/
def endHaul (s : State) (p : Partn) (b : Bench) : State :=
  if !dirRoom s then abandon s p.pid b.id else
  let s := wakeBwait s p.pid b.id (compOk 0)
  let s := updBench s p.pid b.id (fun b => { b with st := 5, last := b.next })
  match benchOf s p.pid b.id with
  | some b => showBench (dirAdd s { rec_ := p.rec_, pid := p.pid, bench := b, st := 5, kept := p.keep }) p.pid
  | none => s

/-- The extents of the bench store in use: those of the benches on haul or hauled, and those of the directory (R341, R415). -/
def liveExtents (s : State) : List (Nat × Nat) :=
  ((s.partns.map (·.benches)).flatten.filter (fun b => b.st = 4 || b.st = 5) ++ (s.mgr.dir.filter (fun e => e.st = 5)).map (·.bench)).map
    (fun b => (b.first, b.last))

/-- The lowest place after the directory with room for `n` bytes beside the extents in use, below `lim` (log 33). -/
def roomAt (live : List (Nat × Nat)) (n lim : Nat) : Option Nat :=
  ((0x8000 :: live.map (·.2)).filter (fun c => decide (0x8000 ≤ c) && decide (c + n ≤ lim) && live.all (fun x => decide (x.2 ≤ c) || decide (c + n ≤ x.1)))).min?

/-- A bench with its extent: room for every page raw under its header, taken at its first page (log 33). None while there is no room. -/
def placeBench (s : State) (b : Bench) : Option Bench :=
  if b.first ≠ 0 then some b else
  let n := 16448 * ((b.imgs.map (·.2)).sum + b.frozen.length + b.shared.length)
  (roomAt (liveExtents s) n (cellGet s.mgr.w2 8).toNat).map (fun a => { b with first := a, next := a, last := a + n })

/-- The bytes of a channel record: each packet's header and body in the order of arrival (R333, R337). -/
def channelBytes (c : Capture) : List Byte := (c.channel.map (fun p => bytesOf p.hdr ++ p.body)).flatten

/-- A page of a tile's image when `left` of its pages are still to be hauled: KIND, index and bytes. First the state record, whose layout
is not visible to programs, then SRAM, then the channel record (R337, R342). -/
def imagePage (s : State) (c : Capture) (left : Nat) : Nat × Nat × List Byte :=
  let k := 132 + channelPages c - left
  if k < 4 then (2, k, (upto 16384).map (Config.stateByte s.free))
  else if k < 132 then (1, k - 4, readBytes c.img ((k - 4) * 16384) 16384)
  else
    let bs := (channelBytes c).drop ((k - 132) * 16384)
    (3, k - 132, bs.take 16384 ++ List.replicate (16384 - bs.length) 0)

/-- The QVA of a quarry page: the lowest that maps it (R342). -/
def pageQva (s : State) (p : Partn) (owner page : Nat) : Nat :=
  (((pageMap s (recField p.rec_ 16 2) owner).filter (fun x => x.1 = page)).map (·.2)).min?.getD 0

/-- The next page that the haul engines take, as its engine holds it, and the bench without it; none when every page has been taken (R329,
R340 to R342). -/
def nextPage (s : State) (p : Partn) (b : Bench) : Option (HaulPage × Bench × State) :=
  let page (die kind origin : Nat) (bs : List Byte) : HaulPage := { die := die, pid := p.pid, id := b.id, kind := kind, origin := origin, page := bs }
  match b.imgs.find? (fun i => decide (i.2 ≠ 0)), b.frozen, b.shared with
  | some i, _, _ => match b.images.find? (fun c => c.1 = i.1) with
    | none => none
    | some c =>
      let g := imagePage s c.2 i.2
      some (page (dieOf i.1) g.1 (rankAt s i.1 + 2 ^ 32 * g.2.1) g.2.2, { b with imgs := b.imgs.map (fun x => if x = i then (x.1, x.2 - 1) else x) }, { s with free := s.free + 1 })
  | none, f :: r, _ =>
    let q := pageQva s p f.1 f.2.1
    some (page (f.1 / 16) 0 q f.2.2.2, { b with frozen := r, store := (f.1, f.2.1, q) :: b.store }, s)
  | none, [], (o, g) :: r =>
    let q := pageQva s p o g
    let (bytes, s) := pageRead s o g
    some (page (o / 16) 0 q bytes, { b with shared := r, store := (o, g, q) :: b.store }, s)
  | none, [], [] => none

/-- The pages of a bench that haul engines hold. -/
def inHaul (s : State) (pid id : Nat) : List HaulPage := s.mgr.haul.filter (fun g => g.pid = pid && g.id = id)

/-- A haul engine reads the next page of a bench and frees its frame, where its die has one of its four engines free; after the last page has
been written the bench is HAULED (R12, R341). A store without room leaves the bench as it is (log 33). -/
def haulRead (s : State) (p : Partn) (b : Bench) : State :=
  if !haulable s p b then s
  else match placeBench s b with
    | none => s
    | some b => match nextPage s p b with
      | some (g, b', s') =>
        if s.mgr.haul.countP (fun x => x.die = g.die) < 4 then
          showBench (updBench { s' with mgr := { s'.mgr with haul := s'.mgr.haul ++ [g] } } p.pid b.id (fun _ => { b' with st := 4 })) p.pid
        else s
      | none => if (inHaul s p.pid b.id).isEmpty then endHaul s p b else s

/-- A page that an engine holds is written to the store, header and body, at its bench's place; the next header starts at the next multiple of
64 (R342). A write error of the expander fails the bench: which writes meet one is free, and every write to a store beyond the memory present
does (R341, log 50). -/
def haulWrite (s : State) (g : HaulPage) : State :=
  let s := { s with mgr := { s.mgr with haul := s.mgr.haul.erase g }, free := s.free + 1 }
  match benchOf s g.pid g.id with
  | none => s
  | some b =>
    if Config.expanderFails (s.free - 1) ∨ Config.capBytes < (cellGet s.mgr.w2 0).toNat + (cellGet s.mgr.w2 8).toNat then abandon s g.pid g.id
    else
      let bs := pageBytes b.id g.kind g.origin g.page
      let s := { s with cap := writeBytes s.cap ((cellGet s.mgr.w2 0).toNat + b.next) bs }
      showBench (updBench s g.pid g.id (fun b => { b with stored := b.stored + 1, next := (b.next + bs.length + 63) / 64 * 64 })) g.pid

/-- HAUL_PAGE (R341, R342): a haul engine reads the next page of a bench, or, as the agenda chooses, writes the page that it has held longest. -/
def execHaulPage (pid id : Nat) (s : State) : Out :=
  .next (match partnOf s pid, benchOf s pid id with
    | some p, some b =>
      if s.pick ≠ 0 then (match inHaul s pid id with
        | g :: _ => haulWrite s g
        | [] => s)
      else haulRead s p b
    | _, _ => s)

/-- PERIODIC_BENCH (R345): BPOL mode 1. -/
def execPeriodicBench (pid : Nat) (s : State) : Out :=
  .next (match partnOf s pid with
    | none => s
    | some p =>
      let period := recField p.rec_ 52 4 * 2 ^ 20
      if bpolMode p = 1 ∧ p.st = .running ∧ p.launched + (p.nextBench + 1) * period ≤ s.cyc then
        let s' := mapPart s pid (fun p => { p with nextBench := p.nextBench + 1 })
        if (cutting p).isSome || capturing p then s' else (acceptBench s' pid 0 []).getD s
      else s)

/-- The directory as a power failure leaves it: benches not yet hauled are marked incomplete (R344). -/
def writeIncomplete (s : State) : State :=
  s.partns.foldl (fun s p => (p.benches.filter (fun b => decide (1 ≤ b.st) && decide (b.st ≤ 4))).foldl (fun s b =>
    dirAdd s { rec_ := p.rec_, pid := p.pid, bench := b, st := 7, kept := false }) s) s

/-- PFAIL (R344): the writes in progress finish, no further page is taken, and the directory is written. -/
def powerFail (s : State) : State :=
  let s := writeIncomplete (s.mgr.haul.foldl haulWrite s)
  { s with mgr := { s.mgr with pfail := true } }

def execPfail (s : State) : Out := .next (powerFail s)

end Sys2Proof.Machine
end

