-- ==== Sys2Proof/Machine/Debug.lean ====
section
/-! DEFINITION. Halts, stepping, breakpoints, fault injection, the trace sink and the scrubber (17). -/

namespace Sys2Proof.Machine

open Sys2Proof

def updDbg (t : Tile) (f : Debug → Debug) : Tile := { t with dbg := f t.dbg }

/-! ## Halting (R383 to R386) -/

/-- HALTED and HCAUSE in DBGCTL. -/
def haltBits (t : Tile) (cause : Nat) (halted : Bool) : Tile :=
  cwPut t 0x200 (setBits (setBits (cwGet t 0x200) 16 1 (if halted then 1 else 0)) 32 8 cause)

/-- A tile halts: HCYC, HMSG and HCAUSE (R384); the debug events that stopped it before stop it no more (R392). -/
def haltTile (t : Tile) (cause now : Nat) : Tile :=
  if t.dbg.halted then t else
  let d := { t.dbg with halted := true, cause := cause, want := none, stepping := false, bkpm := false, passing := false, hits := [] }
  let t := haltBits { t with dbg := d } cause true
  cwPut (cwPut t 0x20C (BitVec.ofNat 64 now)) 0x20D (BitVec.ofNat 64 (t.eng.msgIn % 2 ^ 32 + (t.eng.msgOut % 2 ^ 32) * 2 ^ 32))

/-- A halt of the partition is requested: H is this cycle; one that comes while a resumption is pending has an H of its own (R385). -/
def askHalt (s : State) (pid : Nat) : State :=
  mapPart s pid (fun p => match p.halt with
    | none => { p with halt := some s.cyc }
    | some _ => if p.resume.isSome ∧ p.again.isNone then { p with again := some s.cyc } else p)

/-- A halt that arises at the tile in focus; with GANG = 1 it requests the halt of the partition (R385). -/
def haltHere (s : State) (cause : Nat) : State :=
  let t := s.tile
  let gang := (cwGet t 0x200).getLsbD 5
  let t' := traceNote (haltTile (updDbg t (fun d => { d with gang := d.gang || gang })) cause (cycAt s t.site).toNat) (dieCyc s t.site)
  let s := { s with tile := t' }
  if gang then askHalt s t.pid else s

/-- A halt is due at the boundary of the tile: its cause (R384, R391). -/
def haltWanted (t : Tile) : Option Nat :=
  if t.dbg.halted then none
  else match t.dbg.want with
    | some c => some c
    | none => if t.dbg.bkpm then some 5
      else if t.dbg.stepping && decide (cwGet t 0x209 = 0) then some 7 else none

/-! ## Breakpoints and watchpoints (R389 to R392) -/

/-- The breakpoints that match the bundle at the pc. -/
def bkptHits (t : Tile) : List Nat :=
  (upto 4).filterMap (fun i =>
    let w := cwGet t (0x202 + i)
    if w.getLsbD 63 && (!t.sup || w.getLsbD 62) && decide (4 * bitsOf w 2 19 = t.th.pc.toNat) then some (i + 1) else none)

/-- The watchpoints that the bytes read and written match: pairs of address and length. -/
def watchHits (t : Tile) (reads writes : List (Nat × Nat)) : List Nat :=
  (upto 2).filterMap (fun i =>
    let w := cwGet t (0x206 + i)
    let base := bitsOf w 0 21
    let len := bitsOf w 32 16
    let meet (p : Nat × Nat) : Bool := decide (p.1 < base + len) && decide (base < p.1 + p.2)
    if w.getLsbD 63 && ((w.getLsbD 62 && reads.any meet) || (w.getLsbD 61 && writes.any meet)) then some (5 + i) else none)

/-- A watchpoint is enabled. -/
def watching (t : Tile) : Bool := (cwGet t 0x206).getLsbD 63 || (cwGet t 0x207).getLsbD 63

/-- Events without those that this attempt passes (R392). -/
def unpassed (t : Tile) (hs : List Nat) : List Nat :=
  if t.dbg.passing && decide (t.dbg.hitPc = t.th.pc) then hs.filter (fun h => !t.dbg.hits.contains h) else hs

/-- A debug event may halt the tile before the bundle at the pc: its turn to issue decides (R384, R392). -/
def eventLooms (t : Tile) : Bool := !(cwGet t 0x200).getLsbD 6 && (!(unpassed t (bkptHits t)).isEmpty || watching t)

/-- TILE_HALT (R384): a message match waits for the next bundle, where the lowest cause is taken (R391, R392). -/
def execTileHalt (site : Nat) (s : State) : Out :=
  atTile s site (fun s => match haltWanted s.tile with
    | some c => if c = 5 && (eventLooms s.tile || decide (s.tile.th.squash ≠ 0)) then s else haltHere s c
    | none => s)

/-- STEP_DONE (R388). -/
def execStepDone (site : Nat) (s : State) : Out :=
  atTile s site (fun s =>
    if s.tile.dbg.stepping && !s.tile.dbg.halted && decide (cwGet s.tile 0x209 = 0) then haltHere s 7 else s)

/-- GANG_STOP (R385): in cycle H + 64 every tile of the partition that is not halted halts with HCAUSE 2; a tile that steps later is let be
(R388). -/
def execGangStop (pid : Nat) (s : State) : Out :=
  .next (match partnOf s pid with
    | some p => match p.halt with
      | some h =>
        if s.cyc ≠ h + 64 then s else
        mapPartn s pid (fun t => traceNote (updDbg (haltTile t 2 (cycAt s t.site).toNat) (fun d => { d with gang := true })) (dieCyc s t.site))
      | none => s
    | none => s)

/-- A timed flit whose times move on by `up` cycles (R250, R343). -/
def lateFlit (up : Nat) (f : Timed) : Timed :=
  let h := setBits (setBits f.pkt.hdr 384 64 (hdrN f.pkt.hdr 48 8 + up)) 448 63 (hdrN f.pkt.hdr 56 8 % 2 ^ 63 + up)
  { f with t := f.t + up, d0 := f.d0 + up, d := f.d + up, pkt := { f.pkt with hdr := h } }

/-- A halt from cycle `a` to cycle `b` passes for the trackers of parts that wait for a reply, of which it does not count the halted cycles
since their sending, for the timed sends and for a pending release (R112, R218, R250). -/
def shiftTimes (t : Tile) (a b : Nat) : Tile :=
  let len := b - a
  let up := (len + 255) / 256 * 256
  let e := { t.eng with trackers := t.eng.trackers.map (fun p => (p.1, if p.2.held then p.2 else { p.2 with since := p.2.since + (b - max a p.2.since) })) }
  let r := { t.rt with buffer := t.rt.buffer.map (lateFlit up) }
  let d := { t.disp with sync := t.disp.sync.map (fun c => c + len) }
  { t with eng := e, rt := r, disp := d }

/-- A tile issues again (R385): the first attempt passes what stopped it (R392). What it does is traced at that attempt. -/
def resumeTile (t : Tile) : Tile :=
  haltBits (updDbg t (fun d => { d with halted := false, gang := false, stepping := false, passing := !d.hits.isEmpty && decide (d.hitPc = t.th.pc) })) 0 false

/-- GANG_RESUME (R385): at R + 64 every tile of the gang-halted partition goes on; the halt's length is R − H. -/
def execGangResume (pid : Nat) (s : State) : Out :=
  .next (match partnOf s pid with
    | some p => match p.halt, p.resume with
      | some h, some r =>
        if s.cyc < r + 64 then s else
        mapPart (mapPartn s pid (fun t => resumeTile (shiftTimes t (h + 64) (r + 64)))) pid (fun p => { p with halt := p.again, resume := none, again := none })
      | _, _ => s
    | none => s)

/-- A partition halted as a whole resumes at R (R385). -/
def askResume (s : State) (pid : Nat) : State :=
  mapPart s pid (fun p => if p.halt.isSome && p.resume.isNone then { p with resume := some s.cyc } else p)

/-- DBGCTL_HALT (R384): without effect on a halted tile. -/
def execDbgctlHalt (site : Nat) (s : State) : Out :=
  atPage s site (fun s => if s.tile.dbg.halted then s else { s with tile := updDbg s.tile (fun d => { d with want := some 1 }) })

/-- DBGCTL_STEP (R388). -/
def execDbgctlStep (site : Nat) (s : State) : Out :=
  atTile s site (fun s =>
    let pending := match partnOf s s.tile.pid with
      | some p => p.resume.isSome
      | none => false
    if !s.tile.dbg.halted || decide (cwGet s.tile 0x209 = 0) || pending then s else
    let t := updDbg s.tile (fun d => { d with halted := false, stepping := true, passing := !d.hits.isEmpty && decide (d.hitPc = s.tile.th.pc) })
    { s with tile := haltBits t 0 false })

/-- DBGCTL_RESUME (R385). -/
def execDbgctlResume (site : Nat) (s : State) : Out :=
  atTile s site (fun s =>
    if s.tile.dbg.gang then askResume s s.tile.pid
    else if s.tile.dbg.halted then { s with tile := resumeTile s.tile }
    else s)

/-- DBGPC_WRITE (R382): only while the tile is halted. -/
def execDbgpcWrite (site : Nat) (v : W64) (s : State) : Out :=
  atTile s site (fun s => if s.tile.dbg.halted then { s with tile := { s.tile with th := { s.tile.th with pc := v.setWidth 21 } } } else s)

/-- STEPCNT_WRITE (R387): only while the tile is halted. -/
def execStepcntWrite (site : Nat) (v : W64) (s : State) : Out :=
  atTile s site (fun s => if s.tile.dbg.halted then { s with tile := cwPut s.tile 0x209 (v &&& 0xFFFF) } else s)

/-- ROLLBACK (R305), at a boundary: what lands there has landed, and a halt that may be due there comes first (R384). -/
def execRollback (site : Nat) (s : State) : Out :=
  atTile s site (fun s =>
    if rollbackReady s && decide (s.tile.th.squash = 0) && (haltWanted s.tile).isNone && !eventLooms s.tile then doRollback (reachBoundary s) else s)

/-! ## Fault injection (R393, R394) -/

/-- FINJ as stored: a refused injection has ARM = 0 (R393). -/
def finjStored (v : W64) : W64 :=
  let tgt := bitsOf v 60 3
  let loc := bitsOf v 10 30
  let bit := bitsOf v 0 10
  let lim := match tgt with
    | 0 => (18, 64)
    | 1 => (18, 8)
    | 2 => (5, 64)
    | 3 => (11, 32)
    | 4 => (13, 96)
    | 5 => (8, 1024)
    | _ => (0, 0)
  let ok := decide (tgt < 6) && decide (loc < 2 ^ lim.1) && decide (bit < lim.2) && !(v.getLsbD 58 && decide (lim.2 ≤ bit + 1))
  let w := v &&& 0xFC0000FFFFFFFFFF
  if ok then w else w &&& 0x7FFFFFFFFFFFFFFF

/-- One bad bit of a word appears or, inverted twice, is gone (R394, R399). -/
def flipSoft (l : List (Nat × Nat)) (w b : Nat) : List (Nat × Nat) := if l.contains (w, b) then l.erase (w, b) else (w, b) :: l

/-- A bit of a scalar, vector, accumulator or latch location is inverted. -/
def flipCell {w : Nat} (m : Store w) (k b : Nat) : Store w := cellSet m k (cellGet m k ^^^ BitVec.ofNat w (2 ^ b))

def injectBit (t : Tile) (tgt loc bit : Nat) : Tile :=
  match tgt with
  | 0 => { t with soft := flipSoft t.soft loc bit }
  | 1 => { t with soft := flipSoft t.soft loc (64 + bit) }
  | 2 => if loc = 0 then t else { t with th := { t.th with x := flipCell t.th.x loc bit } }
  | 3 => { t with th := { t.th with v := flipCell t.th.v (loc % 32) (32 * (loc / 32) + bit) } }
  | 4 => { t with th := { t.th with acc := flipCell t.th.acc ((64 * (loc % 2) + loc / 2 % 64) * 64 + loc / 128) bit } }
  | _ => { t with th := { t.th with latch := flipCell t.th.latch (64 * (loc % 4) + loc / 4) bit } }

/-- An armed injection is made: DONE is set and ARM cleared (R394). -/
def inject (t : Tile) : Tile :=
  let v := cwGet t 0x208
  if !v.getLsbD 63 then updDbg t (fun d => { d with inject := none }) else
  let t := injectBit t (bitsOf v 60 3) (bitsOf v 10 30) (bitsOf v 0 10)
  let t := if v.getLsbD 58 then injectBit t (bitsOf v 60 3) (bitsOf v 10 30) (bitsOf v 0 10 + 1) else t
  cwPut (updDbg t (fun d => { d with inject := none })) 0x208 (setBits (setBits v 63 1 0) 57 1 1)

/-- FINJ_WRITE (R393, R394): with WHEN = 0 the bits are inverted in the fabric cycle after the write. -/
def execFinjWrite (site : Nat) (v : W64) (s : State) : Out :=
  atPage s site (fun s =>
    let w := finjStored v
    { s with tile := updDbg (cwPut s.tile 0x208 w) (fun d => { d with inject := if w.getLsbD 63 && !w.getLsbD 59 then some s.cyc else none }) })

/-- An injection waits for the bundle at BKPD.ADDR, which is the next (R394). -/
def injectDue (t : Tile) : Bool :=
  let v := cwGet t 0x208
  v.getLsbD 63 && v.getLsbD 59 && decide (4 * bitsOf (cwGet t 0x205) 2 19 = t.th.pc.toNat)

/-- An injection into the bundle that issues: after the landings of its issue cycle; the bundle passes BKPD (R394). -/
def injectNow (s : State) : State :=
  let t := inject (beginCycle s.tile (hereCyc s))
  { s with tile := updDbg t (fun d => { d with hits := (if d.passing && decide (d.hitPc = t.th.pc) then d.hits else []) ++ [4], hitPc := t.th.pc, passing := true }) }

/-- FAULT_INJECT_DEFERRED (R394): a part of the issue of the bundle at BKPD.ADDR, and no turn of its own. -/
def execFaultInjectDeferred (site : Nat) (s : State) : Out :=
  atTile s site (fun s =>
    if s.tile.disp.running && !s.tile.dbg.halted && partnRuns s s.tile.pid && decide (s.tile.th.squash = 0) && injectDue s.tile then injectNow s else s)

/-! ## The trace sink (R395, R397) -/

def sinkSize (k : Sink) : Nat := 2 ^ 16 * 2 ^ bitsOf k.ctl 52 4
def sinkBase (k : Sink) : Nat := bitsOf k.ctl 16 32 * 2 ^ 16

/-- A flit of the trace leaves for an endpoint: TRDELAY counts the cycle if a packet of priority class 0 or 1 waited for the same output; whether one
that is on its way past this router waits in that cycle is free (R398, log 57). -/
def traceDelay (s : State) (e : Nat) : State :=
  let site := s.tile.site
  let out := routeOut ⟨site, e, 1, ⟨0, []⟩⟩ site
  if s.net.any (fun y => decide (routeOut y site = out) && decide (bitsOf y.pkt.hdr 89 2 < 2)) then
    { s with tile := cwPut s.tile 0x20A (BitVec.ofNat 64 (min 0xFFFFFFFF ((cwGet s.tile 0x20A).toNat + (if (Config.freeWord s.free).getLsbD 0 then 1 else 0)))),
             free := s.free + 1 }
  else s

/-- The home of a place of the sink, or the code with which a write there fails (R216, R227, R397, R420). -/
def sinkHome (s : State) (k : Sink) (off : Nat) : Except Nat (Bool × Nat × Nat) × State :=
  let q := sinkBase k + off
  match walk s (dieOf s.tile.site) (cwGet s.tile 0x023).toNat q with
  | (.fail c, s) => (.error c, s)
  | (.leaf e level, s) =>
    let h := leafHome e level q
    (if !entW e then .error 4 else if wayOut s (s.tile.site, endSite (homeEnd h)) then .error 7 else .ok h, s)

/-- The pages of a block of the sink are ready to be written; false while a pool frame is awaited (R340). -/
def sinkRoom (s : State) (k : Sink) (off : Nat) : State × Bool :=
  match sinkHome s k off with
  | (.error _, s) => (s, true)
  | (.ok (cap, owner, a), s) => colouredRoom s s.tile.pid s.tile.bench.colour cap owner a 64

/-- A quarry write of 64 bytes by the trace unit: its completion code, none while it waits for a pool frame (R397, R227). -/
def sinkWrite (s : State) (k : Sink) (off : Nat) (bs : List Byte) : Option Nat × State :=
  match sinkHome s k off with
  | (.error c, s) => (some c, s)
  | (.ok (cap, owner, a), s) =>
    let qasid := (cwGet s.tile 0x023).toNat
    match colouredRoom s s.tile.pid s.tile.bench.colour cap owner a 64 with
    | (s, false) => (none, s)
    | (s, true) =>
      let s := traceDelay s (homeEnd (cap, owner, a))
      if cap && expanderBad s (16 * owner) then (some 5, { s with free := s.free + 1 })
      else colouredWrite { s with free := s.free + (if cap then 1 else 0) } s.tile.pid qasid s.tile.bench.colour cap owner a bs

/-- The header of the sink (R397). -/
def sinkHeader (t : Tile) (k : Sink) : List Byte :=
  leBytes k.off 8 ++ leBytes k.wrap 8 ++ leBytes k.base 8 ++ leBytes (rankOf t) 4 ++ leBytes (if k.full then 1 else 0) 1 ++ List.replicate 35 0

/-- A failed trace write clears EN and writes a record of type 0x41 (R397). -/
def sinkFault (s : State) (code : Nat) : State :=
  let t := s.tile
  let t' := updDbg (cwPut t 0x120 (cwGet t 0x120 &&& 0x7FFFFFFFFFFFFFFF)) (fun d => { d with queue := [] })
  relRecord { s with tile := t' } 0x41 0 0 (rankOf t) 0 (compErr code 0).toNat 0 (ltagOf s t.pid) (cwGet t 0x023).toNat

/-- The words of the next batch, where it goes, and the sink after it: at its end the sink wraps, or is full and loses what it holds (R397). -/
def sinkNext (k : Sink) : List (BitVec 32) × Nat × Sink :=
  let ws := k.words.take 16
  let rest := { k with words := k.words.drop 16 }
  if k.off + 64 ≤ sinkSize k then (ws, k.off, { rest with off := k.off + 64 })
  else if k.ctl.getLsbD 62 then (ws, 64, { rest with off := 128, wrap := k.wrap + 1 })
  else ([], 0, { k with full := true, words := [] })

/-- What a step of the sink comes to: it waits for a pool frame, it fails with a code, or the sink as it then stands. -/
inductive SinkOut where
  | waits
  | fails (code : Nat)
  | done (k : Sink)
deriving DecidableEq, Repr

/-- A batch of 16 words, filled with zero words, and then the header go to the sink, or the header alone; neither while a frame is awaited (R397). -/
def sinkStep (s : State) (k : Sink) : SinkOut × State :=
  let (ws, off, k') := if k.words = [] then ([], 0, k) else sinkNext k
  let head (s : State) : SinkOut × State :=
    match sinkWrite s k' 0 (sinkHeader s.tile k') with
    | (none, s) => (.waits, s)
    | (some 0, s) => (.done k', s)
    | (some c, s) => (.fails c, s)
  match sinkRoom s k 0 with
  | (s, false) => (.waits, s)
  | (s, true) =>
    if ws = [] then (if k'.words = k.words then head s else head { s with tile := traceLose s.tile (recordsIn k.words) })
    else
      let body := (ws.map (fun w => leBytes w.toNat 4)).flatten
      match sinkWrite s k off (body ++ List.replicate (64 - body.length) 0) with
      | (none, s) => (.waits, s)
      | (some 0, s) => head s
      | (some c, s) => (.fails c, s)

/-- TRACE_BATCH_WRITE (R395, R397): the next step of the oldest flush, until it holds no word; else a batch of the trace that is on. -/
def execTraceBatchWrite (site : Nat) (s : State) : Out :=
  atTile s site (fun s =>
    let t := s.tile
    match t.dbg.flush with
    | k :: r =>
      let set (s : State) (l : List Sink) : State := { s with tile := updDbg s.tile (fun d => { d with flush := l }) }
      (match sinkStep s k with
       | (.waits, s) => s
       | (.fails c, s) => sinkFault (set s r) c
       | (.done k, s) => set s (if k.words = [] then r else k :: r))
    | [] =>
      if !traceOn t || decide (t.dbg.queue.length < 16) then s
      else match sinkStep s (sinkOf t (cwGet t 0x120)) with
       | (.waits, s) => s
       | (.fails c, s) => sinkFault s c
       | (.done k, s) => { s with tile := updDbg s.tile (fun d => { d with queue := k.words, toff := k.off, twrap := k.wrap, tfull := k.full }) })

/-! ## The scrubbers (R400) -/

/-- The line that the scrubber of each tile reads in a cycle: one in each run of 1024 fabric cycles, in ascending address (R400, log 116). -/
def scrubLine (cyc : Nat) : Nat := cyc / 1024 % 0x8000

/-- The scrubber of the tile in focus reads the line due, once; it consumes nothing (R399, R400). -/
def scrubTile (s : State) : State :=
  let k := s.cyc / 1024 + 1
  if s.tile.scrubbed = k then s
  else
    let s := checkRead s ((upto 64).map (fun i => 64 * scrubLine s.cyc + i)) 3 false
    { s with tile := { s.tile with scrubbed := k } }

/-- SRAM_SCRUB (R400): the scrubber reads a line, the one due. -/
def execSramScrub (site line : Nat) (s : State) : Out := atTile s site (fun s => if line = scrubLine s.cyc then scrubTile s else s)

/-- What the scrubbers still have to read as a cycle ends in which a line or a block is due for the last time (R400). -/
def scrubAll (s : State) : State :=
  let s := if (s.cyc + 1) / 1024 = s.cyc / 1024 then s
    else eachTile s (fun t => !(t.poison = [] && t.soft = []) && decide (t.scrubbed ≠ s.cyc / 1024 + 1)) scrubTile
  if scrubBlock (s.cyc + 1) = scrubBlock s.cyc then s
  else { (upto 256).foldl scrubQuarry s with qscrub := [] }

end Sys2Proof.Machine
end

