-- ==== Sys2Proof/Machine/Gvt.lean ====
section
/-! DEFINITION. The GVT engine: rounds, release, fossil collection and quiescence (13 R310 to R317, 14 R334, R345). -/

namespace Sys2Proof.Machine

open Sys2Proof

def mapSites (s : State) (p : Partn) (f : Tile → Tile) : State :=
  { s with tile := if p.sites.contains s.tile.site then f s.tile else s.tile, rest := s.rest.map (fun t => if p.sites.contains t.site then f t else t) }

/-- The tiles of the rectangle, retired sites among them: their routers count the copies that they make and discard (R312). -/
def rectTiles (s : State) (p : Partn) : List Tile := (allTiles s).filter (fun t => inRect p.rec_ t.site)

def mapRect (s : State) (p : Partn) (f : Tile → Tile) : State :=
  { s with tile := if inRect p.rec_ s.tile.site then f s.tile else s.tile, rest := s.rest.map (fun t => if inRect p.rec_ t.site then f t else t) }

def infVt : Nat := 2 ^ 64 - 1

/-! ## Reports (R312) -/

/-- LVT is left out of MINV: the tile is stalled in ERECV, finished or without a task. -/
def lvtIdle (t : Tile) : Bool :=
  !t.disp.running || t.disp.finished || (match t.stall with
    | some (.erecv _ _ _ _) => true
    | some .window => true
    | _ => false)

/-- MINV of a tile (R312). Sends that have issued and not yet left count with their receive VT (log 8). -/
def minvOf (t : Tile) : Nat :=
  let lvt := if lvtIdle t then infVt else (cwGet t 0x030).toNat
  let ham := (t.eng.hamper.filter (fun x => x.neg || x.consumed.isNone)).map (fun x => hdrRvt x.hdr)
  let sent := match t.vt.minSent with
    | some v => [v]
    | none => []
  let ops := (t.eng.ops.filter (fun o => match o.kind with
    | .send _ => true
    | _ => false)).map (fun o => (sendVt o.lvt o.b).toNat)
  let queued := (t.eng.sends.filter (fun o => decide (o.st = .queued) || decide (o.st = .reading))).map (fun o => hdrRvt o.hdr)
  (ham ++ sent ++ ops ++ queued).foldl min lvt

/-- BPOL mode 2: the multiple of BPER that the new GVT has reached, if it is a new one (R345). -/
def vtMultiple (p : Partn) (old new : Nat) : Option Nat :=
  let n := recField p.rec_ 52 4
  if bpolMode p = 2 ∧ old / n < new / n then some (new / n * n) else none

/-- The reports are combined (R312): the release begins when the sums agree; a bench whose cut VT the new GVT has reached is cut at that release
(R334). In a domain of several modules the others' reports are free values
(R316, log 15). -/
def combine (s : State) (pid : Nat) : State :=
  match partnOf s pid with
  | none => s
  | some p =>
    let ts := rectTiles s p
    let sent := ts.foldl (fun n t => n + t.vt.oldSent) 0
    let recv := ts.foldl (fun n t => n + t.vt.oldRecv) 0
    let joined : Bool := match p.domain with
      | some d => decide (2 ≤ d.2)
      | none => false
    let (w, s) := if joined then freshWord s else (BitVec.allOnes 64, s)
    let (agree, s) := if joined then (let (b, s) := freshWord s; (b.getLsbD 0, s)) else (true, s)
    if (!joined && decide (sent ≠ recv)) || !agree then mapPart s pid (fun p => { p with round := some 1, roundAt := s.cyc })
    else
      let minv := min (ts.foldl (fun n t => min n (minvOf t)) infVt) w.toNat
      let gvt := if isOptPartn p then max p.gvt minv else 0
      let s := mapPart s pid (fun p => { p with round := some 2, gvt := gvt, roundAt := s.cyc })
      let s := match vtMultiple p p.gvt gvt with
        | some v => if (cutting p).isSome || capturing p then s else (acceptBench s pid v []).getD s
        | none => s
      if isOptPartn p then
        mapPart s pid (fun p => { p with benches := p.benches.map (fun b => if b.st = 1 ∧ b.cutVt ≤ gvt then { b with due := true } else b) })
      else s

def gvtPeriod (p : Partn) : Nat := let v := recField p.rec_ 60 2; 1024 * (if v = 0 then 16 else v)

/-- A tile flips its round colour: the counts of the colour left behind are those it will report (R312). -/
def flipRound (t : Tile) : Tile :=
  let v := t.vt
  { t with vt := { v with round := !v.round, oldSent := v.newSent, oldRecv := v.newRecv, newSent := 0, newRecv := 0, minSent := none,
                          reported := false, relDone := false, antis := v.antis.filter (fun a => a.2 = v.round) } }

/-- GVT_ROUND_START (R312): every tile flips its round colour and reports. -/
def execGvtRoundStart (pid : Nat) (s : State) : Out :=
  .next (match partnOf s pid with
    | none => s
    | some p =>
      if p.round.isSome ∨ p.st ≠ .running ∨ s.cyc < p.launched + (p.rounds + 1) * gvtPeriod p then s
      else
        let s := mapRect s p flipRound
        combine (mapPart s pid (fun p => { p with rounds := p.rounds + 1 })) pid)

/-- GVT_REPORT_RETRY (R312): new reports 256 fabric cycles after unequal sums. -/
def execGvtReportRetry (pid : Nat) (s : State) : Out :=
  .next (match partnOf s pid with
    | some p => if p.round = some 1 ∧ p.roundAt + 256 ≤ s.cyc then combine s pid else s
    | none => s)

/-! ## Release (R310, R311, R313, R414) -/

/-- The host output ring is full (R414). -/
def outFull (s : State) : Bool := decide ((s.mgr.ohead + 1) % 1024 = s.mgr.otail % 1024)

/-- An entry of the host output ring (R414). -/
def pushOutput (s : State) (rank : Nat) (vt a b : W64) : State :=
  let e := BitVec.ofNat 256 (rank + vt.toNat * 2 ^ 64 + a.toNat * 2 ^ 128 + b.toNat * 2 ^ 192)
  { s with mgr := { s.mgr with oring := cellSet s.mgr.oring s.mgr.ohead e, ohead := (s.mgr.ohead + 1) % 1024 } }

def updCommit (s : State) (k : Nat) (f : Commit → Commit) : State :=
  { s with tile := { s.tile with vt := { s.tile.vt with commits := s.tile.vt.commits.zipIdx.map (fun p => if p.2 = k then f p.1 else p.1) } } }

/-- Entry `k` of the commit queue is released (R311); none while it must wait. A quarry write follows the requests that have issued before it to the
engine (R380). -/
def releaseOne (s : State) (k : Nat) (c : Commit) : Option State :=
  let o := c.op
  match c.kind with
  | 1 =>
    let s := drainOps s
    if s.tile.eng.ops.any (opDue s) then none else
    let s := updEng s (fun e => { e with posted := e.posted.filter (fun p => p.req.isNone || decide (p.req ≠ c.req)) })
    let id := s.tile.eng.nextId
    match startReq o (some c.payload) s with
    | some s => some (updCommit s k (fun c => { c with released := true, req := some id }))
    | none => none
  | 2 => if outFull s then none else
    some (updCommit (finish (pushOutput s (rankOf s.tile) c.vt o.a o.b) o.uid o.tok (compOk 16)) k (fun c => { c with released := true }))
  | 3 =>
    let s := finish { s with tile := traceMark s.tile o.a (hereCyc s) } o.uid o.tok (compOk 8)
    some (updCommit s k (fun c => { c with released := true }))
  | 4 =>
    let o' := { o with b := if o.a.ult c.vt then c.vt else o.a }
    some (updCommit (runBench o' s) k (fun c => { c with released := true, op := o' }))
  | _ => some (updCommit (runBdrop o s) k (fun c => { c with released := true }))

/-- Entries whose VT is below GVT are released in queue order, up to one that must wait. -/
def releaseFrom (gvt : Nat) : List (Commit × Nat) → State → State
  | [], s => s
  | (c, k) :: r, s =>
    if c.released then releaseFrom gvt r s
    else if c.vt.toNat < gvt then
      match releaseOne s k c with
      | some s' => releaseFrom gvt r s'
      | none => s
    else s

def releaseAll (s : State) : State := releaseFrom (cwGet s.tile 0x031).toNat s.tile.vt.commits.zipIdx s

/-- A released entry is applied (R311). -/
def isApplied (t : Tile) (c : Commit) : Bool :=
  c.released && (match c.kind with
    | 1 => !t.eng.reqs.any (fun r => some r.id = c.req)
    | 4 => !t.eng.waits.contains c.op
    | _ => true)

/-- Every entry of the tile below GVT is applied. -/
def allApplied (t : Tile) : Bool := t.vt.commits.all (fun c => isApplied t c || decide ((cwGet t 0x031).toNat ≤ c.vt.toNat))

/-- The first segment that fossil collection must keep for the capture in progress (R335). -/
def keptFrom (t : Tile) : Option Nat := match t.bench.cap with
  | some c => if c.done then none else some c.seg
  | none => none

/-- A segment is freed at the release of GVT (R315, R335). -/
def isFossil (t : Tile) (g : Segment) : Bool :=
  g.keys.all (fun k => decide (k.headD 0 < (cwGet t 0x031).toNat)) && (match keptFrom t with
    | some n => decide (g.no < n)
    | none => true)

/-- Fossil collection (R315); applied entries of the commit queue are freed. -/
def fossils (t : Tile) : Tile :=
  let gvt := (cwGet t 0x031).toNat
  let old := (t.vt.segs.reverse.takeWhile (isFossil t)).map (·.no)
  let segs := t.vt.segs.filter (fun g => !old.contains g.no)
  let ham := t.eng.hamper.filter (fun x => match x.consumed with
    | some n => !(old.contains n || (decide (n = 0) && decide (hdrRvt x.hdr < gvt)))
    | none => true)
  let wayvt : W64 := match segs with
    | g :: _ => g.mark.lvt
    | [] => BitVec.allOnes 64
  let freed := t.vt.segs.filter (fun g => old.contains g.no)
  let done := t.vt.commits.filter (isApplied t)
  let segs := segs.map (fun g => { g with freed := g.freed + done.countP (fun c => c.seg = g.no) })
  let v := { t.vt with segs := segs, trailTail := t.vt.trailTail + (freed.map segRecords).sum,
                       log := t.vt.log.filter (fun e => !old.contains e.seg), commits := t.vt.commits.filter (fun c => !done.contains c) }
  cwPut { t with vt := v, eng := { t.eng with hamper := ham } } 0x035 wayvt

/-- GVTWs that the tile's GVT satisfies complete (R324). -/
def wakeGvtw (s : State) : State :=
  let gvt := (cwGet s.tile 0x031).toNat
  let due := s.tile.eng.waits.filter (fun o => o.kind = .gvtw && decide (min o.a.toNat o.lvt.toNat ≤ gvt))
  due.foldl (fun s o => finish (updEng s (fun e => { e with waits := e.waits.erase o })) o.uid o.tok (compOk 0)) s

/-- The bench whose cut falls at this release and is still to be made (R334). -/
def cutDue (p : Partn) : Option Bench := if isOptPartn p then p.benches.find? (fun b => b.st = 1 && b.due) else none

/-- GVT_RELEASE (R311, R312, R315, R324, R334): a tile takes GVT_k and releases; once what it released is applied, and a cut due at this
release has been made with the entries of every tile applied, it collects fossils and reports done. -/
def execGvtRelease (site : Nat) (s : State) : Out :=
  atTile s site (fun s => match partnOf s s.tile.pid with
    | none => s
    | some p =>
      if p.round ≠ some 2 ∨ s.tile.vt.relDone = true then s else
      let s := if s.tile.vt.reported then releaseAll s
        else
          let t := if isOptPartn p then cwPut s.tile 0x031 (BitVec.ofNat 64 p.gvt) else s.tile
          wakeGvtw (releaseAll { s with tile := { t with vt := { t.vt with reported := true } } })
      if !allApplied s.tile then s else
      match cutDue p with
      | some b =>
        if (roundTiles s p).all (fun t => t.vt.reported && allApplied t && t.eng.ops.all (fun o => !opDue s o)) then
          let s := optCut s p.pid b
          { s with tile := { (fossils s.tile) with vt := { (fossils s.tile).vt with relDone := true } } }
        else s
      | none => { s with tile := { (fossils s.tile) with vt := { (fossils s.tile).vt with relDone := true } } })

/-! ## Quiescence (R317) -/

/-- No packet that counts as in flight: in the fabric, in a buffer with its header formed, or retained for its answer (R264). -/
def idleFabric (s : State) (p : Partn) : Bool :=
  !flying s p.pid (fun _ => true) && !s.qheld.any (fun x => p.sites.contains x.dst)
    && (roundTiles s p).all (fun t => t.eng.ops.isEmpty && t.rt.buffer.isEmpty && !t.eng.sends.any (fun o => match o.st with
      | .retained => true
      | .streaming _ => true
      | .sent _ => true
      | .reading => true
      | .queued => true
      | .waitCts => false))

/-- What the tile's thread is stalled in, by the code k of R317; none when it is not stalled. -/
def stalledIn (t : Tile) : Option Nat :=
  if !t.disp.running then (if t.disp.ready.isEmpty && t.disp.deque.isEmpty && t.disp.frames.any (fun f => decide (f.wait ≠ 0)) then some 4 else none)
  else match t.idle with
    | some m => if (anySet (m.setWidth 64)).all (fun r => isPend t.th r) then some 6 else none
    | none =>
      if t.disp.sync.isSome then some 3
      else match t.stall with
        | some (.token m) => if (upto 32).any (fun r => m.getLsbD r && isPend t.th r) then some 1 else none
        | some (.any m) => if (upto 32).all (fun r => !m.getLsbD r || isPend t.th r) then some 1 else none
        | some (.mailbox e target) => if 2 ^ 31 ≤ (bitsOf (cwGet t (0x050 + e.toNat)) 0 32 + 2 ^ 32 - target) % 2 ^ 32 then some 2 else none
        | some (.erecv r tg m g) => if (lowestAccepted t r tg m g).isNone then some 5 else none
        | _ => none

def isBlocked (t : Tile) : Bool := t.disp.finished || (stalledIn t).isSome

/-- TVAL of DEADLOCK (R317): the tag:rank of a receive that blocks, else the code k. DESIGN CHOICE (log 112): of several pending tokens the one in
the lowest register counts. -/
def deadVal (t : Tile) (k : Nat) : W64 :=
  let other : W64 := BitVec.ofNat 64 (0xFFFFFFFF00000000 + k)
  let recvOf (m : BitVec 32) : W64 :=
    match (upto 32).find? (fun r => m.getLsbD r && isPend t.th r) with
    | some r => match t.eng.posted.find? (fun q => q.uid = t.th.uid && q.tok = BitVec.ofNat 5 r && q.req.isNone) with
      | some q => q.tag ++ q.rank
      | none => other
    | none => other
  match t.stall with
  | some (.token m) => if k = 1 then recvOf m else other
  | some (.any m) => if k = 1 then recvOf m else other
  | _ => other

/-- DEADLOCK is raised in a tile with a stalled task (R317): a task parked by SUSPEND is resumed first. -/
def raiseDeadlock (now : Nat) (t : Tile) : Tile :=
  match stalledIn t with
  | none => t
  | some 4 =>
    match t.disp.frames.find? (fun f => decide (f.wait ≠ 0)) with
    | some f =>
      let t := updDisp t (fun d => { d with frames := d.frames.map (fun g => if g.no = f.no then { g with wait := 0 } else g) })
      raiseAsync (dispatchTile (addReady t (.parked f.no (bitsOf (cellGet f.th.cw 6) 0 4) now))) 0x15 (deadVal t 4)
    | none => t
  | some k => raiseAsync t 0x15 (deadVal t k)

/-- GVT_ROUND_END (R312, R317, R386): every tile has reported done; two consecutive rounds of quiescence raise DEADLOCK. -/
def execGvtRoundEnd (pid : Nat) (s : State) : Out :=
  .next (match partnOf s pid with
    | none => s
    | some p =>
      let ts := roundTiles s p
      let done (t : Tile) : Bool := t.vt.relDone || (!isOptPartn p)
      if p.round ≠ some 2 ∨ ts.all done = false then s else
      let halted := ts.any (fun t => t.dbg.gang)
      let quiet := !halted && ts.all isBlocked && ts.any (fun t => isBlocked t && !t.disp.finished) && idleFabric s p
      let s := mapPart s pid (fun p => { p with round := none, quiet := if halted then p.quiet else if quiet then p.quiet + 1 else 0 })
      if quiet && decide (1 ≤ p.quiet) then mapPart (mapSites s p (raiseDeadlock s.cyc)) pid (fun p => { p with quiet := 0 }) else s)

end Sys2Proof.Machine
end

