-- ==== Sys2Proof/Machine/Launch.lean ====
section
/-! DEFINITION. The partition manager: images, launch records, placement, pre-emption and the end of partitions (12 R257 to
R264, R280, 18 R411 to R413, 14 R343). -/

namespace Sys2Proof.Machine

open Sys2Proof

/-! ## Images (R411, R44) -/

/-- A registered image: the key of its first byte in quarry memory, and its length. -/
def imageAt (s : State) (n : Nat) : Option (Nat × Nat) :=
  (s.mgr.images.find? (fun p => p.1 = n)).map (fun p => (qAddr p.2.1 p.2.2.1, p.2.2.2))

/-- A 32-bit word of an image's header. -/
def imgHead (s : State) (a off : Nat) : Nat := readLe s.quarry (a + off) 4

def imgCode (s : State) (a : Nat) : List Byte := readBytes s.quarry (a + 64) (imgHead s a 12)

/-- The first `n` data chunks in `rem` bytes from a key on: local address and bytes. -/
def chunksFrom (m : Memory) : Nat → Nat → Nat → List (Nat × List Byte)
  | 0, _, _ => []
  | n + 1, rem, a =>
    let len := readLe m (a + 4) 4
    if rem < 8 + len then [] else (readLe m a 4 % 2 ^ 21, readBytes m (a + 8) len) :: chunksFrom m n (rem - 8 - len) (a + 8 + len)

/-- The data section of an image of `len` bytes: as many chunks as its header counts, of those that the image has room for. -/
def imgChunks (s : State) (a len : Nat) : List (Nat × List Byte) :=
  chunksFrom s.quarry (imgHead s a 16) (len - 64 - imgHead s a 12) (a + 64 + imgHead s a 12)

/-- Bytes of the chunks. -/
def chunkBytes (cs : List (Nat × List Byte)) : Nat := cs.foldl (fun n c => n + 8 + c.2.length) 0

/-- The slot-table entries, which the header counts: column and row from the rectangle's origin, slot, entry. -/
def imgSlots (s : State) (a len : Nat) : List (Nat × Nat × Nat × Nat) :=
  let b := a + 64 + imgHead s a 12 + chunkBytes (imgChunks s a len)
  (upto (min (imgHead s a 20) (len / 8))).map (fun i => let e := b + 8 * i
    (readLe s.quarry e 1, readLe s.quarry (e + 1) 1, readLe s.quarry (e + 2) 1, readLe s.quarry (e + 4) 2))

/-- Magic, version and lengths agree: the sections that the header names, in bytes of code and of the symbol table, in chunks, in entries of 8
bytes and in launch records of 64, make up the length (R411, log 41). -/
def imageOk (s : State) (a len : Nat) : Bool :=
  decide (imgHead s a 0 = 0x4B545349) && decide (readLe s.quarry (a + 4) 2 = 1)
    && decide ((imgChunks s a len).length = imgHead s a 16)
    && decide (64 + imgHead s a 12 + chunkBytes (imgChunks s a len) + 8 * imgHead s a 20 + 64 * imgHead s a 24 + imgHead s a 28 = len)

/-- The module with the image of a launch record as the manager reads it (R211, log 114), and the state after the read. -/
def imageView (s : State) (r : LaunchRec) : State × State :=
  match s.mgr.images.find? (fun p => p.1 = recField r 0 2) with
  | some p => let (m, s) := found s p.2.1 p.2.2.1 p.2.2.2; ({ s with quarry := m }, s)
  | none => (s, s)

/-! ## Fields of a launch record (R257, R258) -/

def fieldOr (v d : Nat) : Nat := if v = 0 then d else v

def lPrio (r : LaunchRec) : Nat := recField r 2 1 % 16
def lFlag (r : LaunchRec) (b : Nat) : Bool := (recField r 3 1).testBit b
def lXb (r : LaunchRec) : Nat := 4096 * fieldOr (recField r 18 2) 16
def lXbmax (r : LaunchRec) : Nat := 4096 * fieldOr (recField r 20 2) (lXb r / 4096)
def lEager (r : LaunchRec) : Nat := 256 * fieldOr (recField r 22 1) 4
def lHamper (r : LaunchRec) : Nat := 4096 * fieldOr (recField r 24 2) 64
def lTrail (r : LaunchRec) : Nat := if lFlag r 0 then 4096 * fieldOr (recField r 26 2) 64 else 0
def lLogs (r : LaunchRec) : Nat := 4096 * fieldOr (recField r 28 1) 16
def lStack (r : LaunchRec) : Nat := 256 * recField r 29 1
def lCsa (r : LaunchRec) : Nat := if lFlag r 2 then 0x28000 else 0
def lEntry (r : LaunchRec) : Nat := recField r 32 4
def lIdle (r : LaunchRec) : Nat := recField r 36 4
def lQasid (r : LaunchRec) : Nat := recField r 16 2
def lWidw (r : LaunchRec) : W64 := BitVec.ofNat 64 (recField r 8 8)

/-- The reserved regions together (R113). -/
def lReserved (r : LaunchRec) : Nat := lCsa r + lLogs r + 0x4000 + lTrail r + lHamper r

/-- The reserved floor (R113). -/
def lFloor (r : LaunchRec) : Nat := 0x200000 - lReserved r

/-- The sites of the rectangle. -/
def rectSites (r : LaunchRec) : List Nat :=
  ((upto (recField r 7 1 + 1)).map (fun j => (upto (recField r 6 1 + 1)).map (fun i =>
    128 * (recField r 5 1 + j) + recField r 4 1 + i))).flatten

/-- A site that a launch placed now treats as retired (R16, R405). -/
def isRetired (s : State) (site : Nat) : Bool := s.mgr.retired.contains site || s.mgr.marked.contains site

/-- The working sites of the rectangle (R262); a tile whose router has failed is not working (R430). -/
def workSites (s : State) (r : LaunchRec) : List Nat :=
  (rectSites r).filter (fun x => !isRetired s x && !s.mgr.badRouters.contains x)

def overlapRect (a b : LaunchRec) : Bool :=
  let cut (lo n lo' n' : Nat) : Bool := decide (lo ≤ lo' + n') && decide (lo' ≤ lo + n)
  cut (recField a 4 1) (recField a 6 1) (recField b 4 1) (recField b 6 1) && cut (recField a 5 1) (recField a 7 1) (recField b 5 1) (recField b 7 1)

/-! ## The checks of a launch (R260) -/

/-- The conditions of R260 in the order of their codes. -/
def launchBad (s : State) (r : LaunchRec) : List Bool :=
  let img := imageAt s (recField r 0 2)
  let (a, len) := img.getD (0, 0)
  let zero := [recField r 2 1 / 16, recField r 16 2 / 2 ^ 12, recField r 23 1, recField r 30 1 / 16, recField r 31 1, lEntry r / 2 ^ 21,
    lIdle r / 2 ^ 21, recField r 49 1]
  let inMesh := decide (recField r 4 1 + recField r 6 1 ≤ 127) && decide (recField r 5 1 + recField r 7 1 ≤ 31)
  let w := lWidw r
  let badPc (p : Nat) : Bool := decide (p % 4 ≠ 0) || decide (lXb r ≤ p)
  [ img.isNone,
    zero.any (fun v => decide (v ≠ 0)) || decide (11 < lPrio r),
    !inMesh || (workSites s r).isEmpty || (rectSites r).any (fun x => s.mgr.badRouters.contains x),
    decide (64 < widOff w 6) || decide (2 ^ widWidth w 0 ≤ recField r 6 1) || decide (2 ^ widWidth w 1 ≤ recField r 7 1)
      || decide (2 ^ widWidth w 2 ≤ modIdx s),
    decide (lHamper r < 0x10000) || decide (0x200000 < lXbmax r + lReserved r + 10 * lStack r),
    decide (0x80000 < lXbmax r) || decide (lFloor r < lXbmax r) || decide (lXbmax r < lXb r),
    decide (8192 < lEager r) || decide (lEager r < 256),
    decide (lXb r < (imgCode s a).length) || (imgChunks s a len).any (fun c => !c.2.isEmpty && (decide (c.1 < lXb r) || decide (lFloor r < c.1 + c.2.length)))
      || (imgSlots s a len).any (fun e => (upto 5).any (fun o => decide (6 ≤ e.2.2.2 / 2 ^ (3 * o) % 8))),
    decide (lQasid r ≠ 0) && decide (cellGet s.mgr.roots (lQasid r) = 0),
    badPc (lEntry r) || (decide (lIdle r ≠ 0) && badPc (lIdle r)) ]

/-- The reason code of a rejection: the lowest that applies (R260). -/
def launchCode (s : State) (r : LaunchRec) : Option Nat := ((launchBad s r).findIdx? (fun b => b)).map (fun k => k + 1)

/-! ## The completion ring (R413) -/

/-- A full ring keeps one entry free. -/
def ringFull (s : State) : Bool := decide ((s.mgr.chead + 1) % 256 = s.mgr.ctail % 256)

def ringPut (s : State) (e : BitVec 256) : State :=
  { s with mgr := { s.mgr with cring := cellSet s.mgr.cring s.mgr.chead e, chead := (s.mgr.chead + 1) % 256 } }

/-- A completion record is written, or held while the ring is full. -/
def complete1 (s : State) (kind prio ltag pid info ham : Nat) : State :=
  let e := BitVec.ofNat 256 (kind + prio * 2 ^ 8 + ltag * 2 ^ 16 + pid * 2 ^ 32 + (s.cyc % 2 ^ 64) * 2 ^ 64 + (info % 2 ^ 16) * 2 ^ 128
    + (ham % 2 ^ 32) * 2 ^ 160)
  if ringFull s || !s.mgr.cheld.isEmpty then { s with mgr := { s.mgr with cheld := s.mgr.cheld ++ [e] } } else ringPut s e

def completePart (s : State) (p : Partn) (kind info ham : Nat) : State := complete1 s kind (lPrio p.rec_) (recField p.rec_ 62 2) p.pid info ham

/-- Held records enter the ring as entries are freed. -/
def ringPump : Nat → State → State
  | 0, s => s
  | n + 1, s => match s.mgr.cheld with
    | [] => s
    | e :: r => if ringFull s then s else ringPump n (ringPut { s with mgr := { s.mgr with cheld := r } } e)

/-- The manager may place: it holds fewer than 64 records. -/
def mayPlace (s : State) : Bool := decide (s.mgr.cheld.length < 64)

/-! ## Tiles of a rectangle -/

/-- What stays with a site through launches: its correctable-error words, and where its scrubber is (R400, R405). -/
def siteTile (s : State) (site : Nat) : Tile :=
  let t := Tile.blank site
  match tileAt s site with
  | some u => { t with scrubbed := u.scrubbed, dbg := { t.dbg with cwords := u.dbg.cwords } }
  | none => t

/-- A tile leaves its partition: registers, control words and SRAM stand as they were until a launch takes the site, and so do the debug words and
the trace, with no halt (R264, R382); no operation, no record and no bench is left. -/
def leaveTile (t : Tile) : Tile :=
  let d := { t.dbg with halted := false, want := none, stepping := false, gang := false, bkpm := false, passing := false, hits := [], stops := [], inject := none }
  { t with pid := 0, began := false, hold64 := none, idle := none, stall := none, asyncs := [], ltsb := [], frozen := [], haloOld := [], mbLate := [],
           iss := Issue.empty, eng := Engine.empty, rt := Router.empty, disp := Dispatcher.empty, vt := VTime.empty, bench := BenchUnit.empty, dbg := d,
           cw := cellSet t.cw 0x200 (cellGet t.cw 0x200 &&& 0xF0) }

/-- The rectangle is freed: its sites belong to no partition. -/
def freeSites (s : State) (p : Partn) : State :=
  let gone := (allTiles s).filter (fun t => inRect p.rec_ t.site && (t.pid = p.pid || t.pid = 0))
  gone.foldl (fun s t => putTile s (leaveTile t)) s

/-- A base and a size as a region word (R114). -/
def regionWord (base size : Nat) : W64 := BitVec.ofNat 64 (base + size * 2 ^ 32)

/-- The word of the context save area (R113, R115); its BASE where there is none is a DESIGN CHOICE (log 98): 0. -/
def csaWord (base size : Nat) : W64 := if size = 0 then 0 else regionWord base size

/-- The control words that a launch sets (R262 step 3, R114, R115, R193, R213, R258, R265, R276, R298, R347, R361). -/
def launchWords (s : State) (r : LaunchRec) (site trapent : Nat) : List (Nat × W64) :=
  let csa := 0x200000 - lCsa r
  let logs := csa - lLogs r
  let deque := logs - 0x4000
  let trail := deque - lTrail r
  let bcap := recField r 50 2
  [(0x007, BitVec.ofNat 64 (rankOfSite s site)), (0x010, BitVec.ofNat 64 (lXb r)), (0x011, BitVec.ofNat 64 (lXbmax r)),
   (0x012, regionWord (lFloor r) (lHamper r)), (0x013, regionWord trail (lTrail r)), (0x014, regionWord deque 0x4000),
   (0x015, csaWord csa (lCsa r)), (0x016, regionWord logs (lLogs r)), (0x005, lWidw r &&& 0xFFFFFFFFF),
   (0x022, BitVec.ofNat 64 (lEager r)), (0x023, BitVec.ofNat 64 (lQasid r % 2 ^ 12)),
   (0x032, if recField r 56 4 = 0 then BitVec.allOnes 64 else BitVec.ofNat 64 (recField r 56 4)),
   (0x107, BitVec.ofNat 64 (recField r 30 1 % 16)), (0x103, BitVec.ofNat 64 trapent &&& 0x1FFFFD),
   (0x062, if bcap = 0 then 0xFFFFFFFF else BitVec.ofNat 64 (1024 * bcap))]

/-- The record of an initial task (R266). -/
def initialRec (s : State) (r : LaunchRec) (site : Nat) : TaskRec :=
  let w := lWidw r
  let x := site % 128 - recField r 4 1
  let y := site / 128 - recField r 5 1
  let put (v : W64) (n x : Nat) : W64 := setBits v (widOff w n) (widWidth w n) x
  { np := false, pri := lPrio r, pc := BitVec.ofNat 21 (lEntry r), wid := put (put (put 0 0 x) 1 y) 2 (modIdx s), vt := 0,
    args := [BitVec.ofNat 64 (recField r 40 8), 0, 0, 0, 0] }

/-- The slot table of a site. -/
def slotsOf (r : LaunchRec) (es : List (Nat × Nat × Nat × Nat)) (site : Nat) : Store 16 :=
  cellSets [] ((es.filter (fun e => recField r 4 1 + e.1 = site % 128 && decide (recField r 5 1 + e.2.1 = site / 128))).map (fun e =>
    (e.2.2.1, BitVec.ofNat 16 e.2.2.2)))

/-- A tile as placement leaves it: control words, SRAM of zeros, code and data, and its initial task started (R262). -/
def launchTile (s : State) (r : LaunchRec) (pid trapent : Nat) (code : List Byte) (data : List (Nat × List Byte)) (slots : Store 16) (site : Nat) : Tile :=
  let t := siteTile s site
  let rec_ := initialRec s r site
  let status : W64 := BitVec.ofNat 64 ((if lFlag r 0 then 2 ^ 8 else 0) + (if lFlag r 1 then 2 ^ 9 else 0))
  let t := { t with pid := pid, cw := cellSets t.cw (launchWords s r site trapent), th := { t.th with cw := cellSet t.th.cw 0x000 status },
                    mem := data.foldl (fun m c => blit m c.1 c.2) (blit [] 0 code), rt := { t.rt with slots := slots },
                    disp := { t.disp with stack := lStack r, idlePc := BitVec.ofNat 21 (lIdle r), initial := rec_ } }
  startTask t rec_ false

/-- A free partition number, 1 to 4095 (R413). -/
def freshPid (s : State) : Nat :=
  let used (n : Nat) : Bool := s.partns.any (fun p => p.pid = n)
  ((upto 4095).map (fun i => (s.mgr.nextPid - 1 + i) % 4095 + 1)).find? (fun n => !used n) |>.getD 1

/-- A partition as it is placed. -/
def newPartn (pid now : Nat) (r : LaunchRec) (sites : List Nat) : Partn :=
  { pid := pid, rec_ := r, st := .running, sites := sites, round := none, rounds := 0, gvt := 0, quiet := 0, roundAt := 0, domain := none,
    benches := [], nextBench := 0, keep := false, colour := false, halt := none, resume := none, again := none, cause := 0, launched := now, from_ := 0,
    restored := false }

/-- The routers of the sites that hold no tile of the partition take their slot tables too; a site without a logical id names none (R15, R16,
R262). -/
def routerSites (s : State) (r : LaunchRec) (slots : List (Nat × Nat × Nat × Nat)) (work : List Nat) : State :=
  ((rectSites r).filter (fun x => !work.contains x)).foldl (fun s x =>
    let t := siteTile s x
    putTile s { t with cw := cellSet t.cw 0x007 (if s.mgr.noId.contains x then 0 else BitVec.ofNat 64 (rankOfSite s x)), rt := { t.rt with slots := slotsOf r slots x } }) s

/-- Placement with given contents (R262). -/
def placeWith (s : State) (r : LaunchRec) (pid trapent : Nat) (code : List Byte) (data : List (Nat × List Byte)) (slots : List (Nat × Nat × Nat × Nat)) : State :=
  let work := workSites s r
  let s := { s with partns := s.partns ++ [newPartn pid s.cyc r work], mgr := { s.mgr with nextPid := pid % 4095 + 1 } }
  let s := routerSites s r slots work
  work.foldl (fun s x => putTile s (launchTile s r pid trapent code data (slotsOf r slots x) x)) s

/-- PSTATE follows the partitions and the cap (R421). -/
def powerState (s : State) : State :=
  if w0Get s 0x300 = 3 then s
  else w0Put s 0x300 (if s.partns.all (fun p => p.sites.isEmpty) then 2 else if w0Get s 0x308 = 0 then 0 else 1)

/-- A record is placed and its completion record written (R262, R413). -/
def placeRec (s : State) (r : LaunchRec) : State :=
  let (a, len) := (imageAt s (recField r 0 2)).getD (0, 0)
  let (v, s) := imageView s r
  let pid := freshPid s
  let s := placeWith s r pid (imgHead v a 8) (imgCode v a) (imgChunks v a len) (imgSlots v a len)
  powerState (complete1 s 1 (lPrio r) (recField r 62 2) pid 0 0)

/-! ## Resuming from a bench (R280, R343, R112) -/

/-- A stored page that can be read: KIND, origin, bytes, and the place of the next header. None where the block does not decode to 16,384
bytes or the CRC differs (R342). -/
def storedPage (m : Memory) (a : Nat) : Option (Nat × Nat × List Byte × Nat) :=
  let form := readLe m a 2
  let n := readLe m (a + 4) 4
  let body := readBytes m (a + 32) n
  let page := if 16384 < n then none else if form = 0 then some body else if form = 1 then unlz4 (n + 1) body [] else none
  match page with
  | some p =>
    if p.length = 16384 ∧ crc32 p = BitVec.ofNat 32 (readLe m (a + 16) 4) then some (readLe m (a + 2) 1, readLe m (a + 8) 8, p, (32 + n + 63) / 64 * 64)
    else none
  | none => none

/-- The pages of a bench in the store, `n` of them from an offset on; none where one cannot be read. -/
def storedPages (m : Memory) (base : Nat) : Nat → Nat → Option (List (Nat × Nat × List Byte))
  | 0, _ => some []
  | n + 1, off => match storedPage m (base + off) with
    | some (k, o, p, len) => (storedPages m base n (off + len)).map (fun r => (k, o, p) :: r)
    | none => none

/-- The pages of a bench that haul has taken: those in the store, and those that haul engines hold (R341, R343). -/
def takenPages (s : State) (b : Bench) : Option (List (Nat × Nat × List Byte)) :=
  let inEngine := (s.mgr.haul.filter (fun g => g.id = b.id && s.partns.any (fun p => p.pid = g.pid && p.benches.contains b))).map (fun g => (g.kind, g.origin, g.page))
  if b.first = 0 then some inEngine
  else (storedPages s.cap (cellGet s.mgr.w2 0).toNat b.stored b.first).map (fun ps => ps ++ inEngine)

/-- The quarry pages of a bench: stored, frozen, or shared and so live (R329, R341); a stored page goes to the home that its QVA had at haul. -/
def benchPages (s : State) (b : Bench) (taken : List (Nat × Nat × List Byte)) : List (Nat × Nat × List Byte) × State :=
  let (live, s) := b.shared.foldl (fun (a : List (Nat × Nat × List Byte) × State) g =>
    let (bytes, s) := pageRead a.2 g.1 g.2
    (a.1 ++ [(g.1, g.2, bytes)], s)) ([], s)
  ((taken.filter (fun g => g.1 = 0)).filterMap (fun g => (b.store.find? (fun x => x.2.2 = g.2.1)).map (fun x => (x.1, x.2.1, g.2.2)))
    ++ b.frozen.map (fun f => (f.1, f.2.1, f.2.2.2)) ++ live, s)

/-- Packets of a channel record from its bytes, `n` of them: a header, and the bytes that it announces, none for a request-to-send. -/
def channelOf : Nat → List Byte → List Packet
  | 0, _ => []
  | n + 1, bs =>
    let h := BitVec.ofNat 512 (leNat (bs.take 64))
    let len := if hdrKind h = 1 then 0 else hdrLen h
    ⟨h, (bs.drop 64).take len⟩ :: channelOf n (bs.drop (64 + len))

/-- An image with the pages that haul has taken of it in place of its own: SRAM pages, and pages of the channel record (R342, R343). The state
record is the model's own: only restore uses its layout (R337, log 33). -/
def imageOf (rank : Nat) (taken : List (Nat × Nat × List Byte)) (c : Capture) : Capture :=
  let mine (k : Nat) : List (Nat × List Byte) :=
    (taken.filter (fun g => g.1 = k && decide (g.2.1 % 2 ^ 32 = rank))).map (fun g => (g.2.1 / 2 ^ 32 % 2 ^ 16 * 16384, g.2.2))
  let bs := channelBytes c
  let ch := (mine 3).foldl (fun bs p => bs.take p.1 ++ p.2 ++ bs.drop (p.1 + 16384)) bs
  { c with img := (mine 1).foldl (fun m p => blit m p.1 p.2) c.img, channel := if mine 3 = [] then c.channel else channelOf c.channel.length ch }

/-- What a bench restores: its quarry pages and its images; none where a stored page cannot be read (R342, R343, log 95). -/
def benchWhole (s : State) (b : Bench) : Option (List (Nat × Nat × List Byte) × List (Nat × Capture) × State) :=
  (takenPages s b).map (fun taken =>
    let (pages, s) := benchPages s b taken
    (pages, b.images.map (fun i => (i.1, imageOf (cellGet i.2.cw 0x007).toNat taken i.2)), s))

/-- A channel record's packet is admitted again; one that finds no room stays where such a packet waits: a timed one in the timed-arrival queue,
another before the tile's input, which stands stopped, with those behind it (R191, R240, R343 step 3, log 115). -/
def readmit (s : State) (p : Packet) : State :=
  let src := endOf s (hdrSrc p.hdr) (dieOf s.tile.site)
  if hdrKind p.hdr = 9 then
    let e := BitVec.ofNat 128 (hdrN p.hdr 48 16)
    let n := 0x050 + (hdrTag p.hdr).toNat % 4
    let good := ltSpanOk s.tile e
    let s := if good then storeRead s ((ltAddrs e).zip p.body) else s
    let t := if good then sramWrite s.tile false ((ltAddrs e).zip p.body) else s.tile
    let v := setBits (cwGet t n) 0 32 (bitsOf (cwGet t n) 0 32 + 1)
    { s with tile := cwPut t n (if good then v else v ||| 0x8000000000000000) }
  else if hdrKind p.hdr = 11 then
    let wait : State := { s with tile := updRt s.tile (fun r => { r with queue := r.queue ++ [p] }) }
    if s.tile.rt.queue = [] then (admitAgain s p).getD wait else wait
  else if s.tile.eng.readmits = [] then readmitFrom src [p] s
  else updEng s (fun e => { e with readmits := e.readmits ++ [p] })

/-- What an image's eager send waits for: its message is in the receiver's channel record, or was converted and waits in its hamper; one that
the receiver took is over (R191, R343, log 86). -/
def sendKept (s : State) (images : List (Nat × Capture)) (o : SendOp) : Option SendOp :=
  let mine (h : BitVec 512) : Bool := hdrSrc h = hdrSrc o.hdr && decide (hdrHandle h = hdrHandle o.hdr)
  if !o.eager || otherModule s (hdrDst o.hdr) then some o
  else match images.find? (fun i => i.1 = siteOfId s (rankTile (hdrDst o.hdr))) with
    | none => none
    | some (_, c) =>
      if (c.eng.readmits ++ c.channel).any (fun p => mine p.hdr) then some { o with st := .retained }
      else if c.eng.hamper.any (fun x => x.rdv && mine x.hdr) then some { o with st := .waitCts }
      else none

/-- A tile as its image holds it (R343); TILEID is set anew (R95). The partition resumes in the cycle after this one, and the release of a barrier that
waits comes 64 cycles after that, or later (R112); timed sends move on by the cycles from the one cut of the bench to the resumption. -/
def imageTile (s : State) (pid site cut : Nat) (c : Capture) : Tile :=
  let t := siteTile s site
  let up := (s.cyc + 1 - cut + 255) / 256 * 256
  let colour := (cellGet c.cw 0x060).getLsbD 7
  haltBits { t with pid := pid, th := c.th, sup := c.sup, cw := cellSet c.cw 0x007 (BitVec.ofNat 64 (rankOfSite s site)), mem := c.img, poison := c.poison, soft := c.soft, stale := c.stale,
                    ltsb := c.ltsb, frozen := c.frozen, asyncs := c.asyncs, hold64 := none, idle := c.idle, eng := { c.eng with readmits := [] },
                    rt := { c.rt with buffer := c.rt.buffer.map (lateFlit up) },
                    disp := { c.disp with release := if c.disp.sync.isSome then some (s.cyc + 65) else none },
                    vt := { c.vt with round := false, oldSent := 0, oldRecv := 0, newSent := 0, newRecv := 0, minSent := none, reported := false,
                                      relDone := false, antis := [] },
                    bench := { BenchUnit.empty with colour := colour, skipSends := c.skipSends, skipDefers := c.skipDefers, skipSeg := c.vt.nextSeg,
                                                    leftSends := c.skipSends, leftDefers := c.skipDefers } }
    0 false

/-- A partition resumes from the bench that it waits for (R280, R343); `kind` is that of its completion record. One whose stored pages cannot be
read waits on (log 95). -/
def resumeFrom (s : State) (pid : Nat) : State :=
  match partnOf s pid with
  | none => s
  | some p => match p.benches.find? (fun b => b.id = p.from_) with
    | none => s
    | some b => match benchWhole s b with
      | none => s
      | some (pages, images, s) =>
        let s := pages.foldl (fun s g => (writeHome s 0 false g.1 (g.2.1 * 2 ^ 14) g.2.2).2) s
        let (v, s) := imageView s p.rec_
        let slots := match imageAt s (recField p.rec_ 0 2) with
          | some a => imgSlots v a.1 a.2
          | none => []
        let images := images.map (fun i => (i.1, { i.2 with eng := { i.2.eng with sends := i.2.eng.sends.filterMap (sendKept s images) } }))
        let s := routerSites s p.rec_ slots (images.map (·.1))
        let cut (c : Capture) : Nat := if isOptPartn p then c.cyc else b.cut.toNat
        let s := images.foldl (fun s i => putTile s (imageTile s pid i.1 (cut i.2) i.2)) s
        let here := s.tile.site
        let s := images.foldl (fun s i => settleHamper ((i.2.eng.readmits ++ i.2.channel).foldl readmit (focus i.1 s))) s
        let s := focus here s
        let colour := match images with
          | i :: _ => (cellGet i.2.cw 0x060).getLsbD 7
          | [] => false
        let kind := if p.restored then 1 else 6
        let s := mapPart s pid (fun p => { p with st := .running, sites := images.map (·.1), round := none, rounds := 0, gvt := if isOptPartn p then b.cut.toNat else 0, quiet := 0,
                                                  nextBench := 0, colour := colour, halt := none, resume := none, again := none, launched := s.cyc, restored := false })
        powerState (match partnOf s pid with
          | some p => completePart (showBench s pid) p kind 0 0
          | none => s)

/-! ## The placement pass (R261) -/

/-- A partition that holds its rectangle. -/
def holdsRect (p : Partn) : Bool := !p.sites.isEmpty

/-- A record fits (R261 rule 2); of the partitions that wait to resume, the pre-emptible ones of lower priority give way to the head
of a level (rule 4). -/
def fits (s : State) (r : LaunchRec) (head : Bool) : Bool :=
  s.partns.all (fun p => !overlapRect r p.rec_ || (!holdsRect p && (decide (p.st ≠ .waiting) || (head && lFlag p.rec_ 2 && decide (lPrio p.rec_ < lPrio r)))))

/-- The rectangle is occupied only by pre-emptible partitions of lower priority (R261 rule 4). -/
def canPreempt (s : State) (r : LaunchRec) : Bool :=
  s.partns.all (fun p => !overlapRect r p.rec_ || !(holdsRect p || decide (p.st = .waiting)) || (lFlag p.rec_ 2 && decide (lPrio p.rec_ < lPrio r)))

/-- Those partitions are pre-empted (R280): they stop at their next boundaries. -/
def startPreempt (s : State) (r : LaunchRec) : State :=
  { s with partns := s.partns.map (fun p => if overlapRect r p.rec_ && decide (p.st = .running) then { p with st := .preempting } else p) }

/-- A queue's head counter advances when a record is placed or rejected (R412). -/
def headOn (s : State) (q : Nat) : State := { s with mgr := { s.mgr with qhead := cellSet s.mgr.qhead q (cellGet s.mgr.qhead q + 1) } }

/-- The level of a record: the queue of its PRIO (R261); one whose PRIO names no queue is rejected from the queue it was written in
(log 51). -/
def levelOf (x : Nat × LaunchRec) : Nat := if lPrio x.2 < 12 then lPrio x.2 else x.1

/-- The records of a level in order of arrival, each with the queue of W1 it was written in, the first of them the head; the records that stay,
the rectangles waited for by pre-emption, and the state. -/
def levelPass : List (Nat × LaunchRec) → Bool → List LaunchRec → State → List (Nat × LaunchRec) × List LaunchRec × State
  | [], _, wait, s => ([], wait, s)
  | (q, r) :: rs, head, wait, s =>
    if !mayPlace s || (!head && !lFlag r 3) then let (k, w, s) := levelPass rs false wait s; ((q, r) :: k, w, s)
    else
      let (v, s) := imageView s r
      match launchCode v r with
      | some c =>
        if head then levelPass rs head wait (headOn (complete1 s 2 (lPrio r) (recField r 62 2) 0 c 0) q)
        else let (k, w, s) := levelPass rs false wait s; ((q, r) :: k, w, s)
      | none =>
        if wait.any (fun x => overlapRect x r) then let (k, w, s) := levelPass rs false wait s; ((q, r) :: k, w, s)
        else if fits s r head then levelPass rs head wait (headOn (placeRec s r) q)
        else if head && canPreempt s r then let (k, w, s) := levelPass rs false (r :: wait) (startPreempt s r); ((q, r) :: k, w, s)
        else let (k, w, s) := levelPass rs false wait s; ((q, r) :: k, w, s)

/-- Partitions of a level that wait to resume come before its records (R280). -/
def resumeLevel (q : Nat) (wait : List LaunchRec) (s : State) : State :=
  (s.partns.filter (fun p => p.st = .waiting && lPrio p.rec_ = q)).foldl (fun s p =>
    if mayPlace s && !wait.any (fun x => overlapRect x p.rec_) && !s.partns.any (fun o => holdsRect o && overlapRect o.rec_ p.rec_) then resumeFrom s p.pid
    else s) s

/-- Levels `n − 1` down to 0. -/
def passLevels : Nat → List LaunchRec → State → State
  | 0, _, s => s
  | n + 1, wait, s =>
    let s := resumeLevel n wait s
    let (keep, wait, s) := levelPass (s.mgr.queue.filter (fun x => levelOf x = n)) true wait s
    passLevels n wait { s with mgr := { s.mgr with queue := s.mgr.queue.filter (fun x => levelOf x ≠ n) ++ keep } }

/-- The pass of the partition manager (R261); a parked module places nothing (R421). -/
def placementPass (s : State) : State := if w0Get s 0x300 = 3 then s else passLevels 12 [] s

/-! ## Pre-emption of partitions (R280) -/

/-- Every packet of the partition has been taken and its engines are quiet; sends that wait for a clear-to-send stay. -/
def drained (s : State) (p : Partn) : Bool :=
  !flying s p.pid (fun _ => true) && !s.qheld.any (fun x => p.sites.contains x.dst)
    && (roundTiles s p).all (fun t => t.eng.ops.isEmpty && t.rt.buffer.isEmpty && t.eng.reqs.all (fun r => r.parts.all isDone)
      && t.eng.sends.all (fun o => decide (o.st = .waitCts)) && t.eng.posted.all (fun q => decide (q.st = .posted))
      && !t.eng.waits.any (fun o => match o.kind with
        | .steal _ => true
        | .fencex => true
        | _ => false))

/-- The image of a stopped tile, whole at once; sends that wait for a clear-to-send stay in it. -/
def wholeCapture (s : State) (b : Bench) : Capture :=
  let c := if isOpt s.tile then optCapture s b else plainCapture s b
  let mem := c.copied.foldl (fun m p => blit m (64 * p.1) (leBytes p.2.toNat 64)) s.tile.mem
  let held := s.tile.eng.ranges.filter (fun r => s.tile.eng.sends.any (fun o => o.rng.contains r.id))
  { c with img := mem, sweep := 0x8000, done := true, copied := [], waitRegs := [], pre := [],
           eng := { c.eng with sends := s.tile.eng.sends, ranges := c.eng.ranges ++ held.filter (fun r => !c.eng.ranges.contains r) } }

/-- The bench of a pre-empted partition: cut, captured and sealed in one step. -/
def preemptBench (s : State) (pid : Nat) : Option (Nat × State) :=
  match partnOf s pid with
  | none => none
  | some p => match newBench s pid 0 with
    | none => none
    | some (id, s) =>
      let s := updBench s pid id (fun b => { b with st := 2, cut := BitVec.ofNat 64 (if isOptPartn p then p.gvt else s.cyc) })
      match benchOf s pid id with
      | none => none
      | some b =>
        let here := s.tile.site
        let s := p.sites.foldl (fun s x => let s := focus x s; { s with tile := { s.tile with bench := { s.tile.bench with cap := some (wholeCapture s b) } } }) s
        let s := (benchOwners s p).foldl (fun s o => quarryFlip s pid o) (focus here s)
        let pages := p.sites.map (fun x => (x, match tileAt s x with
          | some t => match t.bench.cap with
            | some c => 132 + channelPages c
            | none => 0
          | none => 0))
        some (id, sealBench (updBench s pid id (fun b => { b with imgs := pages })) pid id)

/-- PREEMPTION_CAPTURED (R261, R280): the partition has drained; it is benched, its rectangle freed, and the pass repeated. -/
def execPreemptionCaptured (pid : Nat) (s : State) : Out :=
  .next (match partnOf s pid with
    | none => s
    | some p =>
      if p.st ≠ .preempting ∨ drained s p = false ∨ capturing p ∨ (cutting p).isSome then s else
      match preemptBench s pid with
      | none => s
      | some (id, s) => match partnOf s pid with
        | none => s
        | some p =>
          let s := freeSites (completePart s p 5 id 0) p
          placementPass (mapPart s pid (fun p => { p with st := .waiting, sites := [], from_ := id, round := none, halt := none, resume := none, again := none })))

/-! ## The end of a partition (R264) -/

/-- Hamper entries that the end discards. -/
def leftEntries (s : State) (p : Partn) : Nat := (roundTiles s p).foldl (fun n t => n + t.eng.hamper.countP (fun x => x.consumed.isNone)) 0

/-- The directory entries of a partition's benches become free, but for kept ones (R326, R415). -/
def dirEnd (s : State) (p : Partn) : State :=
  let hit (e : DirEntry) : Bool := decide (e.st = 5) && !e.kept && !p.keep && p.benches.any (fun b => decide (b.seq = e.bench.seq) && decide (b.st = 5))
  let is := (s.mgr.dir.zipIdx.filter (fun q => hit q.1)).map (·.2)
  is.foldl dirWrite { s with mgr := { s.mgr with dir := s.mgr.dir.map (fun e => if hit e then { e with st := 0 } else e) } }

/-- PARTITION_END (R264, R326); the haul engines let go of its benches' pages (R341). -/
def execPartitionEnd (pid : Nat) (s : State) : Out :=
  .next (match partnOf s pid with
    | none => s
    | some p =>
      if p.st ≠ .running ∨ (roundTiles s p).all (fun t => t.disp.finished) = false ∨ idleFabric s p = false then s else
      if s.mgr.boot.isSome then mapPart s pid (fun p => { p with st := .captured }) else
      let s := p.benches.foldl (fun s b => stopHaul s pid b.id) s
      let s := dirEnd (freeSites (completePart s p 3 0 (leftEntries s p)) p) p
      placementPass (powerState { s with partns := s.partns.filter (fun q => q.pid ≠ pid) }))

end Sys2Proof.Machine
end

