-- ==== Sys2Proof/Machine/Contain.lean ====
section
/-! DEFINITION. Containment, the answers of fenced tiles, and failed links (15 R371, R372, 09 R194, R200, 17 R405). -/

namespace Sys2Proof.Machine

open Sys2Proof

/-! ## Containment (R372) -/

/-- Lines that held a poisoned word are retested; one that fails marks the tile (R405). -/
def retest (s : State) (t : Tile) : State :=
  let lines := (t.poison.map (fun w => w / 8)).dedup
  let (bad, s) := lines.foldl (fun (a : Bool × State) _ => (a.1 || Config.retestFails a.2.free, { a.2 with free := a.2.free + 1 })) (false, s)
  if bad then markTile s t.site 1 else s

/-- A tile after the partition's reset: SRAM zero, no task, no operation; it keeps its rank and its partition until it is freed. -/
def resetTile (s : State) (t : Tile) : Tile :=
  let b := siteTile s t.site
  { b with pid := t.pid, cw := cellSet b.cw 0x007 (cwGet t 0x007), rt := { b.rt with inp := t.rt.inp, held := t.rt.held, slots := t.rt.slots, mcast := t.rt.mcast } }

/-- The rank that names the tile in the containment record: that of the tile that raised the trigger. -/
def causeRank (s : State) (p : Partn) : Nat := match causeSite p with
  | some x => rankAt s x
  | none => match p.sites with
    | x :: _ => rankAt s x
    | [] => 0

/-- CONTAINMENT (R372 steps 1, 3, 4 and the record of step 5): open benches fail, deferred actions and held replies are discarded,
and the tiles reset together. -/
def execContainment (pid : Nat) (s : State) : Out :=
  .next (match partnOf s pid with
    | none => s
    | some p =>
      if p.st ≠ .containing then s else
      let s := (p.benches.filter (fun b => b.st = 1 || b.st = 2)).foldl (fun s b => abandon s pid b.id) s
      let s := relRecord s 0x30 3 0 (causeRank s p) 0 (causeOf p) (causeDetail p) (recField p.rec_ 62 2) (lQasid p.rec_)
      let s := if causeOf p = 0x100 then (roundTiles s p).foldl retest s else s
      let s := (roundTiles s p).foldl (fun s t => putTile s (resetTile s t)) s
      let s := { s with qheld := s.qheld.filter (fun x => !p.sites.contains x.dst) }
      mapPart s pid (fun p => { p with st := .contained, round := none, halt := none, resume := none, again := none, colour := false }))

/-- CONTAINMENT_DRAINED (R372 step 5, R326): the rectangle is freed, failed benches give back their ids, and the completion record
names the cause. -/
def execContainmentDrained (pid : Nat) (s : State) : Out :=
  .next (match partnOf s pid with
    | none => s
    | some p =>
      if p.st ≠ .contained ∨ p.sites = [] ∨ flying s pid (fun _ => true) then s
      else if s.mgr.boot.isSome then mapPart s pid (fun p => { p with sites := [] })
      else
        let s := freeSites (completePart s p 4 (causeOf p) 0) p
        let s := mapPart s pid (fun p => { p with sites := [], benches := p.benches.filter (fun b => b.st ≠ 6) })
        let s := if p.benches.all (fun b => b.st = 6) then { s with partns := s.partns.filter (fun q => q.pid ≠ pid) } else s
        placementPass (powerState s))

/-! ## Answers with code 0x06 (R16, R194, R372) -/

/-- A site whose packets are answered with code 0x06: no tile of a partition that takes packets stands there. -/
def isFenced (s : State) (site : Nat) : Bool := match tileAt s site with
  | none => true
  | some t => match partnOf s t.pid with
    | none => true
    | some p => decide (p.st = .containing) || decide (p.st = .contained)

/-- The bytes of a send read out so far (R194): of one that is being read, up to where the engine has come, which is free (log 88). -/
def readOut (s : State) (o : SendOp) : Nat × State := match o.st with
  | .reading => let (w, s) := freshWord s; (w.toNat % (o.data.length + 1), s)
  | .streaming n => let (w, s) := freshWord s; (w.toNat % (n + 1), s)
  | .sent n => (n, s)
  | .queued => (0, s)
  | .retained => (0, s)
  | .waitCts => (0, s)

/-- A send fails with a code: its token completes with the count read out unless it has, and what it holds is freed (R194, R200). -/
def failSend (s : State) (o : SendOp) (code : Nat) : State :=
  let (n, s) := readOut s o
  let s := dropRanges (dropSend s o.handle) o.rng
  if o.eager && decide (o.st ≠ .queued) && decide (o.st ≠ .reading) then s else finish s o.uid o.tok (compErr code n)

/-- The operation of the tile in focus that owns a handle ends with a code: a send, a receive that has sent its clear-to-send, or a
steal, whose deque slot is given back. -/
def failOwner (s : State) (peer : Nat) (kind handle code : Nat) : State :=
  if kind = 2 then
    match s.tile.eng.posted.find? (fun q => match q.st with
        | .streaming e _ => decide (hdrHandle e.hdr = handle) && decide (hdrSrc e.hdr = peer)
        | _ => false) with
    | some q => finish (dropRanges (dropPosted s q.id) q.rng) q.uid q.tok (compErr code 0)
    | none => s
  else if kind = 7 then
    match s.tile.eng.waits.find? (fun o => isSteal o && decide (o.b.toNat = handle)) with
    | some o =>
      let s := updEng s (fun e => { e with waits := e.waits.erase o })
      finish { s with tile := updDisp s.tile (fun d => { d with reserved := d.reserved - 1 }) } o.uid o.tok (compErr code 0)
    | none => s
  else match s.tile.eng.sends.find? (fun o => decide (o.handle = handle) && decide (hdrDst o.hdr = peer)) with
    | some o => failSend s o code
    | none => s

/-- The kind that owns the handle an error answer names: a send's, else a receive's (R372). -/
def ownerKind (t : Tile) (handle : Nat) : Nat :=
  if t.eng.sends.any (fun o => o.handle = handle) then 0
  else if t.eng.waits.any (fun o => isSteal o && decide (o.b.toNat = handle)) then 7
  else 2

/-- The answer to a packet for a fenced site: kind 6 with the packet's handle, and 0x06 in byte 48 (R372). -/
def fencedHdr (h : BitVec 512) : BitVec 512 :=
  mkHdr (hdrSrc h) (hdrDst h) (hdrGrp h) (flagsOf 6 2 0 false false false) (hdrTag h) 0 0 0 0 (hdrHandle h) 6

/-- A packet of a round colour is admitted without being there (R312). -/
def countColour (s : State) (round : Bool) : State :=
  let v := s.tile.vt
  let v := if round = v.round then { v with newRecv := v.newRecv + 1 } else { v with oldRecv := v.oldRecv + 1 }
  { s with tile := { s.tile with vt := v, eng := { s.tile.eng with msgIn := s.tile.eng.msgIn + 1 } } }

/-- A message that another module has answered with an error counts as admitted, at its sender, under the colour that it carried (R312): a send's,
by its handle, else an anti-message's to that rank, the oldest that is kept in mind (log 78). -/
def countAnswered (s : State) (rank handle : Nat) : State :=
  match s.tile.eng.sends.find? (fun o => o.handle = handle && decide (hdrDst o.hdr = rank)) with
  | some o => if o.st = .retained ∨ o.st = .waitCts then countIn s o.hdr else s
  | none => match s.tile.vt.antis.find? (fun a => a.1 = rank) with
    | some a => if handle ≠ 0 then s else
      countColour { s with tile := { s.tile with vt := { s.tile.vt with antis := s.tile.vt.antis.erase a } } } a.2
    | none => s

/-- PEER_FENCED_ANSWER (R16, R200, R372): the head packet from `dst` to the fenced site `src`, of either plane, is answered, and the
operation that owns it ends with code 0x06, its message counted as admitted at the sender (R312); to a packet of another module, from the port
`dst`, the answer leaves by the port; or the answer of another module's fenced tile has reached `dst`. A packet that no operation
owns is discarded. -/
def execPeerFencedAnswer (src dst : Nat) (s : State) : Out :=
  .next (
    let own : Option (Packet × State) := if 4096 ≤ src ∨ isFenced s src = false then none else
      match takePkt s dst src 1 with
      | some q => some q
      | none => takePkt s dst src 2
    match own with
    | some (p, s) =>
      let s := { s with qheld := s.qheld.filter (fun x => !(x.src = dst && x.dst = src && decide (hdrHandle x.pkt.hdr = hdrHandle p.hdr))) }
      if 4352 ≤ dst ∧ dst < 4368 then (if hdrKind p.hdr = 6 then s else sendPkt s src (4352 + dieOf src) 2 ⟨fencedHdr p.hdr, []⟩)
      else if (tileAt s dst).isNone then s
      else
        let s := focus dst s
        failOwner (if isMsgKind (hdrKind p.hdr) then countIn s p.hdr else s) (hdrDst p.hdr) (hdrKind p.hdr) (hdrHandle p.hdr) 0x06
    | none =>
      if (tileAt s dst).isNone then s else
      match headFor (focus dst s) src dst 2 1 (fun h => hdrKind h = 6 && decide (hdrN h 48 1 = 6) && otherModule s (hdrSrc h)) with
      | some (p, s) => failOwner (countAnswered s (hdrSrc p.hdr) (hdrHandle p.hdr)) (hdrSrc p.hdr) (ownerKind s.tile (hdrHandle p.hdr)) (hdrHandle p.hdr) 0x06
      | none => s)

/-! ## Failed links and ports (R200, R254, R371) -/

/-- A partition has a route between two of its tiles over a link. -/
def spansLink (p : Partn) (die other : Nat) : Bool :=
  let dies := ((p.sites.map dieOf).dedup)
  let at_ (d : Nat) : Nat := 16 * (d % 8) + 128 * (16 * (d / 8))
  dies.any (fun a => dies.any (fun b => crosses (at_ a) (at_ b) die other))

/-- The parts of a tile's requests that are out over the link, or have their reply or copy data come over it, fail with code 0x07 (R227). -/
def failParts (s : State) (die other : Nat) : State :=
  s.tile.eng.reqs.foldl (fun s r => r.parts.zipIdx.foldl (fun s q =>
    match q.1.st with
    | .sent n =>
      if (partWays s.tile.site q.1).any (fun w => crosses w.1 w.2 die other) then
        endReq (updPart (releaseTracker s n false) r.id q.2 (fun p => { p with st := .done 7 })) r.id
      else s
    | _ => s) s) s

/-- The operations of a tile that go through its die's port to a module for which the test holds: sends and fences (R254). -/
def failPort (mine : Nat → Bool) (s : State) : State :=
  let s := (s.tile.eng.sends.filter (fun o => otherModule s (hdrDst o.hdr) && mine (rankMod (hdrDst o.hdr)))).foldl (fun s o => failSend s o 0x07) s
  (s.tile.eng.waits.filter (fun o => o.kind = .fencex && mine (bitsOf o.a 0 16))).foldl (fun s o =>
    finish (updEng s (fun e => { e with waits := e.waits.erase o })) o.uid o.tok (compErr 0x07 0)) s

/-- LINK_FAIL (R200, R254, R371): the link between two dies; with `other` not another die the port of `die`; with `other` 17 + m its peer port on
module m. What is on the link is lost, and with the data of a COPY its part; a record of type 0x20 is written; partitions whose tiles' routes use the link are contained. -/
def execLinkFail (die other : Nat) (s : State) : Out :=
  .next (
    if other < 16 ∧ other ≠ die then
      let s := relRecord s 0x20 3 2 (16 * die + other) 0 7 0 0 0
      let lost := s.net.filter (fun y => decide (4096 ≤ y.src) && decide (4096 ≤ y.dst) && crosses (endSite y.src) (endSite y.dst) die other)
      let s := (s.net.filter (fun x => lost.any (copyDataOf x))).foldl partGone s
      let s := { s with mgr := { s.mgr with linksOut := s.mgr.linksOut ++ [(die, other)] },
                        net := s.net.filter (fun x => !crosses (endSite x.src) (endSite x.dst) die other),
                        copies := s.copies.filter (fun c => !crosses (endSite c.1.src) (endSite c.1.dst) die other),
                        cxl := s.cxl.filter (fun c => !crosses (endSite c.2.2.src) (endSite c.2.2.dst) die other) }
      let s := (s.partns.filter (fun p => spansLink p die other)).foldl (fun s p => contain s p.pid 0x101 0) s
      eachTile s (fun t => !t.eng.reqs.isEmpty) (fun s => failParts s die other)
    else
      let mine (m : Nat) : Bool := decide (other < 17) || decide (m = other - 17)
      let s := relRecord s 0x20 3 3 (16 * die) 0 7 0 0 0
      let s := { s with pairs := s.pairs.map (fun q => if q.1 = die ∧ mine q.2.1 then (q.1, q.2.1, false, q.2.2.2) else q) }
      eachTile s (fun t => dieOf t.site = die) (failPort mine))

end Sys2Proof.Machine
end

