-- ==== Sys2Proof/Machine/Host.lean ====
section
/-! DEFINITION. The host windows, commands and bench commands (18 R406 to R422, 17 R382, R388, R408). -/

namespace Sys2Proof.Machine

open Sys2Proof

/-! ## Status words (R410, R415) -/

def cmdDone (s : State) : State := w0Put s 0x128 (statWord false false 0 0)
def cmdFail (s : State) (code : Nat) : State := w0Put s 0x128 (statWord false true 0 code)
def cmdBusy (s : State) : Bool := (w0Get s 0x128).getLsbD 63

/-- A CMD write: refused with CODE 1 while a command runs. -/
def command (op : Nat) (s : State) (f : State → State) : Out :=
  .next (if cmdBusy s then w0Put s 0x128 (statWord true true 0 1) else f (w0Put s 0x100 (BitVec.ofNat 64 op)))

def arg0 (s : State) : W64 := w0Get s 0x108
def arg1 (s : State) : W64 := w0Get s 0x110
def arg2 (s : State) : W64 := w0Get s 0x118

/-- The partition that ARG0 names, with its tiles in place. -/
def argPartn (s : State) : Option Partn := match partnOf s (arg0 s).toNat with
  | some p => if p.sites.isEmpty then none else some p
  | none => none

/-- A partition exists: it holds a rectangle or waits to resume (R411). -/
def existsNow (p : Partn) : Bool := !p.sites.isEmpty || decide (p.st = .waiting)

/-! ## Commands (R410) -/

/-- HALTP (R385). -/
def execHaltp (s : State) : Out :=
  command 0x01 s (fun s => match argPartn s with
    | none => cmdFail s 3
    | some p => cmdDone (askHalt s p.pid))

/-- RESUMEP (R385). -/
def execResumep (s : State) : Out :=
  command 0x02 s (fun s => match argPartn s with
    | none => cmdFail s 3
    | some p => if p.halt.isNone then cmdFail s 4 else cmdDone (askResume s p.pid))

/-- CONTAIN (R371): cause 0x102. -/
def execContain (s : State) : Out :=
  command 0x03 s (fun s => match argPartn s with
    | none => cmdFail s 3
    | some p => cmdDone (mapPart s p.pid (fun p => if p.st = .running ∨ p.st = .preempting then { p with st := .containing, cause := 0x102 } else p)))

/-- A location as QROOT gives it: OWNER and offset. -/
def rootOf (v : W64) : W64 := if bitsOf v 0 32 = 0 then 0 else v &&& 0x00FF0000FFFFFFFF

/-- QROOT (R410, R214). -/
def execQroot (s : State) : Out :=
  command 0x04 s (fun s =>
    let q := (arg0 s).toNat
    if q = 0 ∨ 4096 ≤ q then cmdFail s 3
    else if s.partns.any (fun p => !p.sites.isEmpty && decide (lQasid p.rec_ = q)) then cmdFail s 4
    else cmdDone { s with mgr := { s.mgr with roots := cellSet s.mgr.roots q (rootOf (arg1 s)) } })

/-- The tiles that translate under a QASID. -/
def usesQasid (q : Nat) (t : Tile) : Bool := decide (t.pid ≠ 0) && decide ((cwGet t 0x023).toNat = q)

/-- A tile discards its translations; a part whose walks are not complete is walked again, and one translated before keeps its home and is
waited for (R217). -/
def dropTlb (t : Tile) : Tile :=
  { t with eng := { t.eng with tlb := [], reqs := t.eng.reqs.map (fun r => { r with parts := r.parts.map (fun p =>
      if p.home.isNone then { p with srcHome := none, walking := false } else { p with old := p.old || !isDone p }) }) } }

/-- QINVAL (R217): the translation buffers and the walkers drop the QASID's entries; BUSY until the acknowledgement. -/
def execQinval (s : State) : Out :=
  command 0x05 s (fun s =>
    let q := (arg0 s).toNat
    if q = 0 ∨ 4096 ≤ q then cmdFail s 3
    else
      let f (t : Tile) : Tile := if usesQasid q t then dropTlb t else t
      w0Put { s with tile := f s.tile, rest := s.rest.map f, walkers := s.walkers.filter (fun w => w.qasid ≠ q), mgr := { s.mgr with inval := some q } } 0x128
        (statWord true false 0 0))

/-- QINVAL_ACKNOWLEDGE (R217): every part translated before the invalidation has completed or timed out. -/
def execQinvalAcknowledge (s : State) : Out :=
  .next (match s.mgr.inval with
    | none => s
    | some q =>
      if ((allTiles s).filter (usesQasid q)).all (fun t => t.eng.reqs.all (fun r => r.parts.all (fun p => !p.old || isDone p))) then
        cmdDone { s with mgr := { s.mgr with inval := none } }
      else s)

/-- RETIRE (R405). -/
def execRetire (s : State) : Out :=
  command 0x06 s (fun s =>
    let x := bitsOf (arg0 s) 0 7
    let y := bitsOf (arg0 s) 8 5
    if s.mgr.retired.contains (128 * y + x) then cmdFail s 4 else cmdDone (markTile s (128 * y + x) 3))

/-- PORTPAIR (R246, R247). -/
def execPortpair (s : State) : Out :=
  command 0x07 s (fun s =>
    let d := (arg0 s).toNat
    let m := (arg1 s).toNat
    if 16 ≤ d ∨ 2 ^ 16 ≤ m ∨ m = modIdx s then cmdFail s 3
    else if s.mgr.portsOut.contains d then cmdFail s 4
    else cmdDone { s with pairs := s.pairs.filter (fun p => !(p.1 = d && p.2.1 = m)) ++ [(d, m, true, 0, 0)] })

/-- GVTDOM (R316): before the first round of an optimistic partition. -/
def execGvtdom (s : State) : Out :=
  command 0x08 s (fun s => match argPartn s with
    | none => cmdFail s 3
    | some p =>
      if !isOptPartn p then cmdFail s 3
      else if p.rounds ≠ 0 then cmdFail s 4
      else cmdDone (mapPart s p.pid (fun p => { p with domain := some ((arg1 s).toNat, (arg2 s).toNat) })))

/-- A partition of an image exists (R410). -/
def imageUsed (s : State) (n : Nat) : Bool := s.partns.any (fun p => existsNow p && decide (recField p.rec_ 0 2 = n))

/-- IMGREG (R411): the manager reads the image where it lies (R211); one beyond the usable memory has no length that agrees (log 41). -/
def execImgreg (s : State) : Out :=
  command 0x09 s (fun s =>
    let n := (arg0 s).toNat
    let owner := bitsOf (arg1 s) 48 8
    let off := bitsOf (arg1 s) 0 32
    let len := (arg2 s).toNat
    if n = 0 ∨ 64 < n then cmdFail s 3
    else if imageUsed s n then cmdFail s 4
    else if 0xB4000000 < off + len then cmdFail s 3
    else
    let (m, s) := found s owner off len
    if !imageOk { s with quarry := m } (qAddr owner off) len then cmdFail s 3
    else cmdDone { s with mgr := { s.mgr with images := (n, owner, off, len) :: s.mgr.images.filter (fun p => p.1 ≠ n) } })

/-- IMGDEL (R410). -/
def execImgdel (s : State) : Out :=
  command 0x0A s (fun s =>
    let n := (arg0 s).toNat
    if imageUsed s n then cmdFail s 4
    else if !s.mgr.images.any (fun p => p.1 = n) then cmdFail s 3
    else cmdDone { s with mgr := { s.mgr with images := s.mgr.images.filter (fun p => p.1 ≠ n) } })

/-- IDENT (R407): part, variant, stepping, firmware 3.2, build. -/
def ident : W64 := 0x160001B003020000 ||| Config.build.setWidth 64

/-- What the start record holds, as a list of numbers, each list behind its length (R419, log 79). -/
def recordNats (r : StartRecord) : List Nat :=
  (([r.retired, r.marked, r.badRouters, r.diesOut, r.stacksOut, r.grades.map (fun p => 256 * p.1 + p.2.toNat), r.linkMarks, r.portsOut,
      r.framesOut.map (fun p => 2048 * p.1 + p.2), r.pcie.map (fun p => 256 * p.1 + p.2.toNat), r.failures.map (·.toNat), [r.fwSlot, r.recSeq]]).map
    (fun l => l.length :: l)).flatten

/-- The bytes of a copy of the start record but for its CRC-32: 16 for each number (log 79). -/
def recordBytes (r : StartRecord) : List Byte := ((recordNats r).map (fun n => leBytes n 16)).flatten

/-- ATTEST (R419): the report over the nonce, kept whole (log 16). -/
def execAttest (s : State) : Out :=
  command 0x0B s (fun s =>
    if arg1 s ≠ 32 then cmdFail s 3 else
    let (m, s) := found s (bitsOf (arg0 s) 48 8) (bitsOf (arg0 s) 0 32) 32
    let nonce := readBytes m (qAddr (bitsOf (arg0 s) 48 8) (bitsOf (arg0 s) 0 32)) 32
    let body := bytesOf ident ++ bytesOf Config.serial ++ nonce ++ bytesOf (Config.sha256 (Config.firmware s.mgr.fwSlot)) ++ bytesOf (Config.sha256 (recordBytes (recordOf s.mgr)))
    cmdDone { s with mgr := { s.mgr with report := body ++ Config.signatures body } })

/-- PCAP_WRITE (R421): values outside the bounds are stored as the nearer one; the samples of the draw before it do not count against it. -/
def execPcapWrite (v : W64) (s : State) : Out :=
  let w := bitsOf v 0 16
  let s := w0Put s 0x308 (BitVec.ofNat 64 (if w = 0 then 0 else max 4000 (min 13500 w)))
  .next (powerState { s with mgr := { s.mgr with draws := [] } })

/-! ## Launch queues and rings (R412 to R414) -/

/-- QTAIL_WRITE (R412, R261): the record of slot QTAIL mod 16 is taken, and the pass is made; QTAIL has 32 bits, and those above are ignored
(R4). -/
def execQtailWrite (q : Nat) (v : W64) (s : State) : Out :=
  .next (
    let v : BitVec 32 := v.setWidth 32
    let tail := (cellGet s.mgr.qtail q).toNat
    let head := (cellGet s.mgr.qhead q).toNat
    if 12 ≤ q ∨ v.toNat ≠ (tail + 1) % 2 ^ 32 ∨ 16 < (v.toNat + 2 ^ 32 - head) % 2 ^ 32 then s
    else
      let r := cellGet s.mgr.wslots (16 * q + tail % 16)
      placementPass { s with mgr := { s.mgr with qtail := cellSet s.mgr.qtail q v, queue := s.mgr.queue ++ [(q, r)] } })

/-- CTAIL_WRITE (R413). -/
def execCtailWrite (v : W64) (s : State) : Out :=
  .next (
    let stopped := !mayPlace s
    let s := ringPump 256 { s with mgr := { s.mgr with ctail := v.toNat % 256 } }
    if stopped then placementPass s else s)

/-- OTAIL_WRITE (R414). -/
def execOtailWrite (v : W64) (s : State) : Out := .next { s with mgr := { s.mgr with otail := v.toNat % 1024 } }

/-! ## Bench commands (R415) -/

/-- A bench command: refused with CODE 1 while one runs. -/
def benchCommand (op : Nat) (s : State) (f : State → State) : Out :=
  .next (if (w2Get s 0x28).getLsbD 63 then w2Put s 0x28 (statWord true true 0 1) else f (w2Put s 0x10 (BitVec.ofNat 64 op)))

/-- BENCH_TAKE (R415). -/
def execBenchTake (s : State) : Out := benchCommand 1 s (fun s => takeBench s (w2Get s 0x18).toNat (w2Get s 0x20).toNat)

/-- A partition that waits to resume from a copy of a bench: its pages decompressed from the store, or as they stand (R343). A bench with a
stored page that cannot be read is refused with CODE 4 (log 95). -/
def restorePartn (s : State) (r : LaunchRec) (b : Bench) : State :=
  match benchWhole s b with
  | none => benchStat s true 0 4
  | some (pages, images, s) =>
    let pid := freshPid s
    let b' := { b with st := 5, images := images, frozen := pages.map (fun g => (g.1, g.2.1, 0, g.2.2)), store := [], shared := [], held := 0, imgs := [], waitB := [],
                       acks := [], first := 0, next := 0, last := 0 }
    let p := { newPartn pid s.cyc r [] with st := .waiting, benches := [b'], from_ := b.id, restored := true }
    benchStat (placementPass { s with partns := s.partns ++ [p], mgr := { s.mgr with nextPid := pid % 4095 + 1 } }) false 0 0

/-- BENCH_RESTORE (R343, R415): a hauled bench by its directory index, or a live one by PID and id. -/
def execBenchRestore (s : State) : Out :=
  benchCommand 2 s (fun s =>
    let i := (w2Get s 0x18).toNat
    let a := w2Get s 0x20
    if a.getLsbD 63 then
      match partnOf s i, benchOf s i (bitsOf a 0 3) with
      | some p, some b => if 3 ≤ b.st ∧ b.st ≤ 5 then restorePartn s p.rec_ b else benchStat s true 0 4
      | _, _ => benchStat s true 0 3
    else match s.mgr.dir[i]? with
      | some e => if e.st = 5 then restorePartn s e.rec_ e.bench else benchStat s true 0 4
      | none => benchStat s true 0 3)

/-- BENCH_DROP (R352, R415): by directory index; a live partition's bench is dropped too. -/
def execBenchDrop (s : State) : Out :=
  benchCommand 3 s (fun s =>
    let i := (w2Get s 0x18).toNat
    match s.mgr.dir[i]? with
    | none => benchStat s true 0 3
    | some e =>
      if e.st = 0 then benchStat s true 0 4 else
      let s := match benchOf s e.pid e.bench.id with
        | some b => if b.seq = e.bench.seq then dropBench s e.pid e.bench.id else s
        | none => s
      benchStat (dirWrite { s with mgr := { s.mgr with dir := s.mgr.dir.set i { e with st := 0, kept := false } } } i) false 0 0)

/-- BENCH_KEEP (R326, R415). -/
def execBenchKeep (s : State) : Out :=
  benchCommand 4 s (fun s =>
    let pid := (w2Get s 0x18).toNat
    match partnOf s pid with
    | none => benchStat s true 0 3
    | some _ =>
      let s := mapPart s pid (fun p => { p with keep := true })
      benchStat { s with mgr := { s.mgr with dir := s.mgr.dir.map (fun e => if e.pid = pid && e.st = 5 then { e with kept := true } else e) } } false 0 0)

/-! ## Registers (R406 to R409, R382, R415) -/

/-- The value that a W0 register stores when the host writes `v`; none where a write is ignored or has a step of its own. RINGBASE.OFF stores
the multiple of 64 at or below the value written: DESIGN CHOICE, since R8 does not say what another value stores (log 97). -/
def w0Stored (s : State) (off : Nat) (v : W64) : Option W64 :=
  match off with
  | 0x0010 => if s.partns.any existsNow then none else some (v &&& 0xFFFF)
  | 0x0030 => some (v &&& 0x80FFFFFF00000000)
  | 0x0108 => some v
  | 0x0110 => some v
  | 0x0118 => some v
  | 0x0120 => some v
  | 0x0200 => some (v &&& 0x00FF0000FFFFFFC0)
  | 0x0208 => some (v &&& 0xFFFFFF)
  | 0x0218 => some (v &&& 0xFFFFFF)
  | 0x0220 => some ((w0Get s 0x220 &&& 0x8000000000000000 &&& ~~~v) ||| (v &&& 1))
  | _ => none

/-- A debug word as the host writes it, for the words without a step of their own (R382, R383, R389 to R391, R398). -/
def debugStored (old : W64) (n : Nat) (v : W64) : W64 :=
  match n with
  | 0x200 => (old &&& 0xFF00010000) ||| (v &&& 0xF0)
  | 0x202 => v &&& 0xC0000000001FFFFC
  | 0x203 => v &&& 0xC0000000001FFFFC
  | 0x204 => v &&& 0xC0000000001FFFFC
  | 0x205 => v &&& 0xC0000000001FFFFC
  | 0x206 => v &&& 0xE000FFFF001FFFFF
  | 0x207 => v &&& 0xE000FFFF001FFFFF
  | 0x20A => v &&& 0xFFFFFFFF
  | 0x20B => v &&& 0xFFFFFFFF
  | 0x20C => v
  | 0x20D => v
  | 0x20E => v
  | _ => old

/-- A write to a tile page (R408), of a site that no partition has used as well: the halt, step and resume bits of DBGCTL, DBGPC, FINJ and
STEPCNT have steps of their own. -/
def writePage (s : State) (off : Nat) (v : W64) : State :=
  let site := (off - 0x1000000) / 0x1000
  let n := 0x200 + off % 0x1000 / 8
  if s.mgr.retired.contains site then s
  else mapTile (listSite s site) site (fun t => cwPut t n (debugStored (cwGet t n) n v))

/-- A write of a doubleword of the launch slots (R412). -/
def writeSlot (s : State) (off : Nat) (v : W64) : State :=
  let q := off / 0x1000
  let k := 16 * q + off % 0x1000 / 64
  if 12 ≤ q ∨ 0x400 ≤ off % 0x1000 then s
  else { s with mgr := { s.mgr with wslots := cellSet s.mgr.wslots k (setBits (cellGet s.mgr.wslots k) (8 * (off % 64)) 64 v.toNat) } }

/-- A write of W2 (R415); a bench command is a row of its own, and BCMD knows no other (log 67). DESIGN CHOICE, since R8 and R415 do not say
what a value outside the bounds stores (log 97): BSBASE stores the multiple of 2 MiB at or below it, and POOL q stores 1440 for a larger one. -/
def writeW2 (s : State) (off : Nat) (v : W64) : State :=
  if off = 0 then w2Put s 0 (v &&& 0xFFFFFFFFFFE00000)
  else if off = 8 ∨ off = 0x18 ∨ off = 0x20 then w2Put s off v
  else if off = 0x10 then
    (if 1 ≤ bitsOf v 0 8 ∧ bitsOf v 0 8 ≤ 4 then s
     else if (w2Get s 0x28).getLsbD 63 then w2Put s 0x28 (statWord true true 0 1) else benchStat (w2Put s 0x10 (v &&& 0xFF)) true 0 2)
  else if 0x800 ≤ off ∧ off < 0x1000 then
    (if s.partns.any existsNow then s else w2Put s off (BitVec.ofNat 64 (min 1440 (bitsOf v 0 11))))
  else s

/-- The commands that CMD knows. -/
def isCommand (v : W64) : Bool := decide (1 ≤ bitsOf v 0 8) && decide (bitsOf v 0 8 ≤ 0x0C)

/-- The next access of the host has been made (R406). -/
def accessed (s : State) : State := { s with access := none }

/-- HOST_REGISTER_WRITE (R406): naturally aligned doublewords only; a write of another size is ignored. -/
def execHostRegisterWrite (win off : Nat) (v : W64) (s : State) : Out :=
  .next (
    if off % 8 ≠ 0 ∨ s.access.isSome then accessed s
    else match win with
      | 0 =>
        if 0x1000000 ≤ off ∧ off < 0x2000000 then writePage s off v
        else if off = 0x100 then (if isCommand v then s else if cmdBusy s then w0Put s 0x128 (statWord true true 0 1) else cmdFail (w0Put s 0x100 (v &&& 0xFF)) 2)
        else match w0Stored s off v with
          | some w => w0Put s off w
          | none => s
      | 1 => writeSlot s off v
      | _ => writeW2 s off v)

/-! ## Reads (R406 to R408, R388) -/

/-- An entry of the pending list (R408). -/
structure PendEntry where
  value : W64
  kind : Nat
  reg : Nat
  left : Nat
  extra : Nat
deriving DecidableEq, Repr

/-- The list entries of a result in flight (R408): the value as it would land, which a control word masks or clears by its access rules and p0 leaves
out. -/
def pendOf (t : Tile) (left : Nat) (r : Res) : List PendEntry :=
  let th := t.th
  let lanes (d : Reg) (mask v : BitVec 2048) : List PendEntry :=
    let new := (vGet th d &&& ~~~mask) ||| (v &&& mask)
    ((upto 64).filter (fun i => elemOf mask 32 i ≠ 0)).map (fun i => ⟨BitVec.ofNat 64 (elemOf new 32 i), 6, d.toNat, left, i⟩)
  let row (k : Nat) : List PendEntry := [⟨0, 7, 0, left, k⟩]
  match r with
  | .x d v => [⟨v, 1, d.toNat, left, 0⟩]
  | .p n v => [⟨if v then 1 else 0, 2, n.toNat, left, 0⟩]
  | .pg g v => [⟨if g = 0 then v &&& ~~~1 else v, 3, g.toNat, left, 0⟩]
  | .lt n mask v =>
    let new := (ltGet th n.toNat &&& ~~~mask) ||| (v &&& mask)
    ((upto 2).filter (fun k => decide (bitsOf mask (64 * k) 64 ≠ 0))).map (fun k => ⟨BitVec.ofNat 64 (bitsOf new (64 * k) 64), 4 + k, n.toNat, left, 0⟩)
  | .v d mask v => lanes d mask v
  | .m d v => [⟨v, 8, d.toNat, left, 0⟩]
  | .cw n v => [⟨cwWritten (cwGet t n) n v, 9, 0, left, n⟩]
  | .row k _ _ => row k
  | .rowAdd k _ _ => row k
  | .rowClear k => row k
  | .mst k => let n := 0x040 + k / 64; [⟨setBits (cellGet th.cw n) (k % 64) 1 1, 9, 0, left, n⟩]
  | .msclr b mask => [⟨cellGet th.cw (0x040 + b) &&& ~~~mask, 9, 0, left, 0x040 + b⟩]
  | .latch _ _ => []
  | .shift _ _ => []
  | .side _ _ => []
  | .bytes _ => []

/-- The pending list of a halted tile: results in flight, the LTSB and the frozen results (R388). -/
def pendList (t : Tile) : List PendEntry :=
  let more := if t.began then 1 else 0
  (t.th.flights.map (fun f => pendOf t (f.left + more) f.res)).flatten
    ++ t.ltsb.map (fun e => ⟨if e.kind = 3 ∧ e.reg = 0 then e.val &&& ~~~1 else e.val, e.kind, e.reg, e.left, 0⟩)
    ++ (t.frozen.map (fun f => pendOf t f.left f.res)).flatten

/-- The 16 bytes of an entry. -/
def pendWord (e : PendEntry) (high : Bool) : W64 :=
  if high then BitVec.ofNat 64 (e.kind + e.reg * 2 ^ 8 + e.left * 2 ^ 16 + e.extra * 2 ^ 32) else e.value

/-- What a host read of a tile page gives (R382, R408); an unassigned offset reads as all ones (R406). -/
def readPage (s : State) (off : Nat) : W64 :=
  let site := (off - 0x1000000) / 0x1000
  let o := off % 0x1000
  if s.mgr.retired.contains site then 0
  else if 0xE00 ≤ o then BitVec.allOnes 64
  else match tileAt s site with
  | none => 0
  | some t =>
    if 0x800 ≤ o then
      (if t.dbg.halted then match (pendList t)[(o - 0x800) / 16]? with
        | some e => pendWord e (o % 16 = 8)
        | none => 0
       else 0)
    else if o = 8 then t.th.pc.setWidth 64
    else if o / 8 ≤ 0xE then cwGet t (0x200 + o / 8) else 0

/-- What a host read of `n` bytes of W0, W1 or W2 answers: of naturally aligned doublewords the register (R406, R407, R412 to R415). -/
def hostRead (s : State) (n win off : Nat) : W64 :=
  let ones : W64 := BitVec.allOnes 64
  if n ≠ 8 ∨ off % 8 ≠ 0 then ones
  else match win with
    | 0 =>
      if off = 0 then ident
      else if off = 8 then Config.serial
      else if [0x10, 0x18, 0x30, 0x100, 0x108, 0x110, 0x118, 0x120, 0x128, 0x200, 0x208, 0x210, 0x218, 0x220, 0x300, 0x308, 0x310, 0x318].contains off then w0Get s off
      else if 0x1000000 ≤ off ∧ off < 0x2000000 then readPage s off
      else ones
    | 1 =>
      if off < 0xC000 then
        (if off % 0x1000 < 0x400 then BitVec.ofNat 64 (bitsOf (cellGet s.mgr.wslots (16 * (off / 0x1000) + off % 0x1000 / 64)) (8 * (off % 64)) 64)
         else if off % 0x1000 = 0x400 then (cellGet s.mgr.qtail (off / 0x1000)).setWidth 64
         else if off % 0x1000 = 0x408 then (cellGet s.mgr.qhead (off / 0x1000)).setWidth 64
         else ones)
      else if off < 0xE000 then BitVec.ofNat 64 (bitsOf (cellGet s.mgr.cring ((off - 0xC000) / 32)) (8 * (off % 32)) 64)
      else if off = 0xE000 then BitVec.ofNat 64 s.mgr.chead
      else if off = 0xE008 then BitVec.ofNat 64 s.mgr.ctail
      else if 0x10000 ≤ off ∧ off < 0x18000 then BitVec.ofNat 64 (bitsOf (cellGet s.mgr.oring ((off - 0x10000) / 32)) (8 * (off % 32)) 64)
      else if off = 0x18000 then BitVec.ofNat 64 s.mgr.ohead
      else if off = 0x18008 then BitVec.ofNat 64 s.mgr.otail
      else ones
    | _ => if off = 0 ∨ off = 8 ∨ off = 0x10 ∨ off = 0x18 ∨ off = 0x20 ∨ off = 0x28 ∨ (0x800 ≤ off ∧ off < 0x1000) then w2Get s off else ones

/-! ## The aperture (R409) -/

/-- Where an aperture offset leads: the capacity tier or not, owner, address, and the first address that does not exist. -/
def w3Home (s : State) (off : Nat) : Bool × Nat × Nat × Nat :=
  let v := w0Get s 0x30
  if v.getLsbD 63 then (true, 0, bitsOf v 32 16 * 2 ^ 32 + off, Config.capBytes) else (false, bitsOf v 48 8, off, 0xB4000000)

/-- The size of the host's access: a doubleword, or as the agenda has set it, up to 64 bytes (R406, R409). -/
def accessSize (s : State) : Nat := match s.access with
  | some (n, _) => min n 64
  | none => 8

/-- W3_READ (R409, R211): bytes that do not exist, and a read of a poisoned block, give all ones. -/
def execW3Read (off : Nat) (s : State) : Out :=
  .next (
    let (cap, owner, a, lim) := w3Home s off
    let n := accessSize s
    let m := min n (lim - a)
    let (bad, s) := readBlocks (accessed s) 0 cap owner a m
    let bytes := if bad then List.replicate n 0xFF else homeRead s cap owner a m ++ List.replicate (n - m) 0xFF
    { s with mgr := { s.mgr with lastRead := BitVec.ofNat 512 (leNat bytes) } })

/-- A page is shared by a bench that is being cut or captured (R409). -/
def sharedNow (s : State) (owner page : Nat) : Bool :=
  s.partns.any (fun p => p.benches.any (fun b => (b.st = 1 || b.st = 2) && b.shared.contains (owner, page)))

/-- W3_WRITE (R409): a doubleword, or the bytes that the agenda has set; those that do not exist are ignored. -/
def execW3Write (off : Nat) (v : W64) (s : State) : Out :=
  .next (
    let (cap, owner, a, lim) := w3Home s off
    let bytes := match s.access with
      | some (_, d) => leBytes d.toNat (accessSize s)
      | none => leBytes v.toNat 8
    let bytes := bytes.take (lim - a)
    let s := accessed s
    if !cap && (pagesOf a bytes.length).any (fun g => sharedNow s owner g) then s
    else (writeHome s 0 cap owner a bytes).2)

/-! ## Power (R421, R422) -/

/-- The draw of the latest millisecond: under a cap its average with the nine before stays at or below the cap (R422). -/
def drawNow (s : State) (n : Nat) : Nat :=
  let w := (Config.draw n).toNat
  let cap := (w0Get s 0x308).toNat
  if cap = 0 then w else min w (10 * cap - (s.mgr.draws.take 9).sum)

/-- The budget of issue cycles for a sample of draw and temperature (R422): all 64 without a cap and up to 100 °C; fewer above 100 °C or with more drawn
than the cap; else what the power controller sets. -/
def budgetNow (s : State) (n draw temp : Nat) : Nat :=
  let cap := (w0Get s 0x308).toNat
  if 100 < temp ∨ (cap ≠ 0 ∧ cap < draw) then min 63 (Config.budget n)
  else if cap = 0 then 64 else min 64 (Config.budget n)

/-- ISSUE_BUDGET_UPDATE (R421, R422): the samples of the latest millisecond, and the budget; at 110 °C the module shuts down. -/
def execIssueBudgetUpdate (s : State) : Out :=
  .next (
    let n := s.free
    let temp := (Config.temp n).toNat
    let draw := drawNow s n
    let budget := budgetNow s n draw temp
    let s := w0Put (w0Put { s with free := n + 1 } 0x310 (BitVec.ofNat 64 draw)) 0x318 (BitVec.ofNat 64 temp)
    let s := { s with mgr := { s.mgr with budget := budget, draws := draw :: s.mgr.draws.take 8 } }
    if 110 ≤ temp then powerFail s else s)

/-- THERMAL_SHUTDOWN (R422, R344): a junction has reached 110 °C. -/
def execThermalShutdown (s : State) : Out :=
  .next (powerFail (w0Put { s with free := s.free + 1 } 0x318 (BitVec.ofNat 64 (max 110 (Config.temp s.free).toNat))))

/-! ## Results and traps at a tile (R34, R357, R116, R36) -/

/-- RESULT_LAND (R34): the start of the tile's next issue cycle. -/
def execResultLand (site : Nat) (s : State) : Out :=
  atTile s site (fun s => if partnRuns s s.tile.pid && s.tile.disp.running && !s.tile.dbg.halted then let s := drainRead s; { s with tile := beginCycle s.tile (hereCyc s) } else s)

/-- The lowest asynchronous cause pending. -/
def lowestAsync (t : Tile) : Option (Nat × W64) :=
  t.asyncs.foldl (fun (a : Option (Nat × W64)) p => match a with
    | some q => if p.1 < q.1 then some p else some q
    | none => some p) none

/-- The lowest pending asynchronous cause is taken at a boundary in user mode (R357, R354); DEADLOCK withdraws the arrival of a SYNC (R112). -/
def takeAsync (s : State) : State :=
  match lowestAsync s.tile with
  | none => s
  | some (c, v) =>
    let t := { s.tile with asyncs := s.tile.asyncs.filter (fun p => p.1 ≠ c), stall := none }
    let t := updDisp t (fun d => { d with sync := none })
    takeTrap { s with tile := t } c v t.th.pc

/-- A tile at a boundary in user mode takes its traps here: the squashed cycles are over, and of a SYNC's wait only DEADLOCK ends it (R112). -/
def atBoundary (s : State) : Bool :=
  partnRuns s s.tile.pid && s.tile.disp.running && !s.tile.dbg.halted && !s.tile.sup && decide (s.tile.th.squash = 0)
    && (s.tile.disp.sync.isNone || s.tile.asyncs.any (fun p => p.1 = 0x15))

/-- ASYNC_TRAP (R357): a pending rollback comes first, and a halt before both. -/
def execAsyncTrap (site : Nat) (s : State) : Out :=
  atTile s site (fun s =>
    if atBoundary s && decide (s.tile.vt.due = []) && s.tile.th.trap.isNone && (haltWanted s.tile).isNone && !eventLooms s.tile then
      takeAsync (reachBoundary s)
    else s)

/-- The write of a control word of the task in focus lands at the start of its next issue cycle (R36). -/
def landWord (n : Nat) (v : W64) (s : State) : Out := .next { s with tile := cwWrite s.tile n v (hereCyc s) }

/-- XB_WRITE (R116): BOUND, or the new boundary. -/
def execXbWrite (v : W64) (s : State) : Out :=
  let b := bitsOf v 12 9 * 4096
  if b < 0x1000 ∨ (cwGet s.tile 0x011).toNat < b then .next (takeTrap s 0x07 v s.tile.th.pc) else landWord 0x010 v s

/-- STATUS_WRITE (R93). -/
def execStatusWrite (v : W64) (s : State) : Out := landWord 0x000 v s
/-- RMODE_WRITE (R55). -/
def execRmodeWrite (v : W64) (s : State) : Out := landWord 0x001 v s
/-- RSEED_WRITE (R56). -/
def execRseedWrite (v : W64) (s : State) : Out := landWord 0x002 v s
/-- MAILBOX_WRITE (R245): an arrival counted in the same cycle is added to the word. -/
def execMailboxWrite (side : Nat) (v : W64) (s : State) : Out := .next { s with tile := mbLand s.tile (0x050 + side % 4) v (hereCyc s) }
/-- TRCCTL_WRITE (R395). -/
def execTrcctlWrite (v : W64) (s : State) : Out := landWord 0x120 v s

end Sys2Proof.Machine
end

