-- ==== Sys2Proof/Machine/Boot.lean ====
section
/-! DEFINITION. The start sequence, the boot partition and the parked state (18 R416 to R421, 21 R430, R431). -/

namespace Sys2Proof.Machine

open Sys2Proof

/-! ## BOOTSTEP and the start record (R416, R417, R419) -/

def bootWord (fail : Bool) (unit cause step : Nat) : W64 :=
  BitVec.ofNat 64 ((if fail then 2 ^ 63 else 0) + (unit % 256) * 2 ^ 16 + (cause % 256) * 2 ^ 8 + step % 16)

def setStep (s : State) (step : Nat) : State := w0Put s 0x18 (bootWord false 0 0 step)

/-- The start stops at a step (R416). -/
def stopAt (s : State) (step unit cause : Nat) : State := w0Put s 0x18 (bootWord true unit cause step)

/-- A failure enters the log of the latest 256 (R417, R419): step, unit, cause and CYC. -/
def logFailure (s : State) (step unit cause : Nat) : State :=
  let e : BitVec 96 := BitVec.ofNat 96 (step + unit * 2 ^ 8 + cause * 2 ^ 24 + (s.cyc % 2 ^ 64) * 2 ^ 32)
  let s := saveRecord s
  { s with mgr := { s.mgr with failures := (e :: s.mgr.failures).take 256 } }

def fails (s : State) (step unit : Nat) : Bool := Config.unitFails s.mgr.starts step unit

/-- Sites of a die (R13). -/
def dieSites (d : Nat) : List Nat := (upto 256).map (fun i => 128 * (16 * (d / 8) + i / 16) + 16 * (d % 8) + i % 16)

/-- A die out counts as 256 retired tiles with failed routers (R417). -/
def dieOut (s : State) (d : Nat) : State :=
  if s.mgr.diesOut.contains d then s else
  { s with mgr := { s.mgr with diesOut := s.mgr.diesOut ++ [d], retired := (s.mgr.retired ++ dieSites d).dedup,
                               badRouters := (s.mgr.badRouters ++ dieSites d).dedup } }

/-- The boundaries between dies: 14 within the rows, then 8 between them; the die that is out when too few of the 16 links are left is the
one of higher number (log 17). -/
def boundaryDie (b : Nat) : Nat := if b < 7 then b + 1 else if b < 14 then b + 2 else b - 6

/-- Step 4 (R417): the links that the record marks are skipped, and a boundary to which they leave fewer than 12 marks its outer die out; a link that fails
now is marked out. -/
def startLinks (s : State) : State :=
  let old := s.mgr.linkMarks
  let s := ((upto 22).filter (fun b => decide (4 < old.countP (fun k => k / 16 = b)))).foldl (fun s b => dieOut s (boundaryDie b)) s
  let new := (upto 352).filter (fun k => !old.contains k && fails s 4 k)
  let s := new.foldl (fun s k => logFailure s 4 (boundaryDie (k / 16)) 0) s
  { s with mgr := { s.mgr with linkMarks := old ++ new } }

/-- The grade at which a stack starts: the recorded one, or the highest where the record names none (R417, R419). -/
def startGrade (s : State) (d : Nat) : BitVec 8 :=
  let g := cellGet s.mgr.grades d
  if g = 0 then Config.topGrade else g

/-- Step 5 (R417): a stack starts at its grade and is retrained lower, down to grade 2, until it trains, each failed training being logged; the grade is
recorded. One that starts at a recorded grade 2 and fails is out with its die's quarry tiles (log 17). -/
def startStacks (s : State) : State :=
  ((upto 16).filter (fun d => !s.mgr.stacksOut.contains d)).foldl (fun s d =>
    match Config.trains s.mgr.starts d with
    | some g =>
      let top := (startGrade s d).toNat
      let g := max 2 (min top g.toNat)
      if top ≤ g then s else
      let s := (upto (top - g)).foldl (fun s _ => logFailure s 5 d 0) s
      { s with mgr := { s.mgr with grades := cellSet s.mgr.grades d (BitVec.ofNat 8 g) } }
    | none =>
      let last := decide (cellGet s.mgr.grades d = 2)
      let s := (upto (max 1 ((startGrade s d).toNat - 1))).foldl (fun s _ => logFailure s 5 d 0) s
      if last then { s with mgr := { s.mgr with stacksOut := s.mgr.stacksOut ++ [d] } }
      else { s with mgr := { s.mgr with grades := cellSet s.mgr.grades d 2 } }) s

/-- Step 6 (R417): frames that are out already are skipped, and those that cannot be initialized are out; quarry memory is zero. -/
def startFrames (s : State) : State :=
  let bad := (upto (256 * 1440)).filter (fun k => !s.mgr.framesOut.contains (k / 1440, k % 1440) && fails s 6 k)
  let s := bad.foldl (fun s k => logFailure s 6 (k / 1440 / 16) 0) s
  { s with quarry := [], qbad := [], qsoft := [], qparity := [], qrows := [], walkers := [], copies := [], cxl := [], mgr := { s.mgr with framesOut := s.mgr.framesOut ++ bad.map (fun k => (k / 1440, k % 1440)) } }

/-- Step 7 (R417): tiles that fail their self test are retired, and marks made since the last start become retirements (R16). -/
def startTiles (s : State) : State :=
  let bad := (upto 4096).filter (fun k => !isRetired s k && fails s 7 k)
  let s := bad.foldl (fun s k => logFailure s 7 (k % 128) 0) s
  let s := if s.mgr.marked = [] then s else saveRecord s
  { s with mgr := { s.mgr with retired := (s.mgr.retired ++ s.mgr.marked ++ bad).dedup, marked := [] } }

/-- Step 9 (R417): ports that fail are out: the 16 of Ultra Ethernet, and as units 16 to 23 the 8 of CXL, which serve the expander (R12, R224). The two of
PCIe, units 24 and 25, start at their recorded setting, and one that fails at it goes on at the next lower speed or width, which is recorded
(log 17). -/
def startPorts (s : State) : State :=
  let bad := (upto 26).filter (fun d => !s.mgr.portsOut.contains d && fails s 9 d)
  bad.foldl (fun s d =>
    let s := logFailure s 9 d 0
    if d < 24 then { s with mgr := { s.mgr with portsOut := s.mgr.portsOut ++ [d] } }
    else { s with mgr := { s.mgr with pcie := cellSet s.mgr.pcie (d - 24) (cellGet s.mgr.pcie (d - 24) + 1) } }) s

/-! ## The boot partition (R430) -/

/-- Working sites in (Y, X) order. -/
def workingAll (s : State) : List Nat := (upto 4096).filter (fun x => !isRetired s x && !s.mgr.badRouters.contains x)

/-- The record of the boot partition (R430). -/
def bootRec (boot : Nat) : LaunchRec :=
  BitVec.ofNat 512 (11 * 2 ^ 16 + 127 * 2 ^ 48 + 31 * 2 ^ 56 + (7 + 5 * 64) * 2 ^ 64 + 32 * 2 ^ 176 + boot * 2 ^ 320)

/-- The boot tree's mask at a position, for the boot tile at (xb, yb) (R430). -/
def bootMask (xb yb x y : Nat) (retired : Bool) : Nat :=
  let south := if yb < 31 then 4 else 0
  let leaf := if retired then 0 else 16
  if y = yb then
    if x = xb then (if x < 127 then 2 else 0) + (if 0 < x then 8 else 0) + south
    else if xb < x then leaf + (if x < 127 then 2 else 0) + south
    else leaf + (if 0 < x then 8 else 0) + south
  else if y < yb then 0
  else if y ≤ 30 then leaf + 4
  else leaf

/-- The bit by which a router beside a failed spine router feeds its column from the row below (R430). -/
def bootBypass (bad : List Nat) (xb yb x y : Nat) : Nat :=
  if y ≠ yb + 1 then 0
  else (if xb ≤ x ∧ bad.contains (128 * yb + x + 1) = true ∧ x < 127 then 2 else 0)
    + (if x ≤ xb ∧ 0 < x ∧ bad.contains (128 * yb + x - 1) = true then 8 else 0)

/-- Step 8 stops (R431): no boot partition is left, and an unparking that waits for the step fails with CODE 4 (log 96). -/
def bootStops (s : State) (unit cause : Nat) : State :=
  let s := stopAt (logFailure s 8 unit cause) 8 unit cause
  let s := { s with mgr := { s.mgr with boot := none } }
  if w0Get s 0x300 = 3 then cmdFail s 4 else s

/-- Step 8 (R430): the boot partition is placed, under a partition number that is free, the trees are preset, and the delivered image lies in the
boot tile. CAUSE 3 where no tile can run it (R431). -/
def startBoot (s : State) : State :=
  match workingAll s with
  | [] => bootStops s 0 3
  | b :: _ =>
    let pid := freshPid s
    let next := s.mgr.nextPid
    let s := setStep { s with mgr := { s.mgr with boot := some b, bootPid := pid } } 8
    let s := placeWith s (bootRec b) pid 0 bootCode bootData []
    let s := { s with mgr := { s.mgr with nextPid := next } }
    let entry (t : Tile) : Tile :=
      let x := t.site % 128
      let y := t.site / 128
      let m := bootMask (b % 128) (b / 128) x y (isRetired s t.site) ||| bootBypass s.mgr.badRouters (b % 128) (b / 128) x y
      updRt t (fun r => { r with mcast := cellSet r.mcast 1 (BitVec.ofNat 5 m) })
    let s := { s with tile := entry s.tile, rest := s.rest.map entry }
    mapTile s b (fun t => { t with mem := blit t.mem 0x40000 (Config.bootDelivers.take 0x4000) })

/-- The first list, which its length precedes, and what follows it. -/
def takeList : List Nat → List Nat × List Nat
  | [] => ([], [])
  | n :: r => (r.take n, r.drop n)

/-- Numbers of 16 bytes each, at most `n` of them. -/
def natsOf : Nat → List Byte → List Nat
  | 0, _ => []
  | n + 1, bs => if bs.length < 16 then [] else leNat (bs.take 16) :: natsOf n (bs.drop 16)

/-- The record that numbers stand for (R419, log 79). -/
def recordFrom (ns : List Nat) : StartRecord :=
  let (retired, ns) := takeList ns
  let (marked, ns) := takeList ns
  let (routers, ns) := takeList ns
  let (dies, ns) := takeList ns
  let (hbm, ns) := takeList ns
  let (grades, ns) := takeList ns
  let (links, ns) := takeList ns
  let (ports, ns) := takeList ns
  let (frames, ns) := takeList ns
  let (pcie, ns) := takeList ns
  let (failures, ns) := takeList ns
  let (last, _) := takeList ns
  { retired := retired, marked := marked, badRouters := routers, diesOut := dies, stacksOut := hbm,
    grades := cellSets [] (grades.map (fun n => (n / 256, BitVec.ofNat 8 n))), linkMarks := links, portsOut := ports,
    framesOut := frames.map (fun n => (n / 2048, n % 2048)), pcie := cellSets [] (pcie.map (fun n => (n / 256, BitVec.ofNat 8 n))),
    failures := failures.map (BitVec.ofNat 96), fwSlot := last.headD 0, recSeq := last.getD 1 0 }

/-- A copy of the start record as a start finds it: its bytes and the CRC-32 that closes them; none where the two do not agree (R419, log 79). -/
def copyFound (start copy : Nat) (r : StartRecord) : Option StartRecord :=
  let written := recordBytes r ++ bytesOf (crc32 (recordBytes r))
  let got := Config.flashRead start copy written
  let body := got.take (got.length - 4)
  if got = written then some r
  else if 4 ≤ got.length ∧ leNat (got.drop (got.length - 4)) = (crc32 body).toNat then some (recordFrom (natsOf body.length body))
  else none

/-- The start record that a start uses: the valid copy with the higher sequence number; with no valid copy everything is in service (R419). -/
def startRecord (s : State) : StartRecord :=
  match copyFound s.mgr.starts 0 (recordOf s.mgr), copyFound s.mgr.starts 1 s.mgr.older with
  | some a, some b => if a.recSeq < b.recSeq then b else a
  | some a, none => a
  | none, some b => b
  | none, none => StartRecord.blank

/-- The module without power keeps the start record, the expander's memory with the bench store's directory, and nothing else. -/
def poweredUp (s : State) : State :=
  let m := s.mgr
  let r := startRecord s
  let keep := { Manager.ready with w0 := [], dir := m.dir, retired := r.retired, badRouters := r.badRouters, diesOut := r.diesOut,
                                   stacksOut := r.stacksOut, grades := r.grades, linkMarks := r.linkMarks, portsOut := r.portsOut, pcie := r.pcie,
                                   framesOut := r.framesOut, failures := r.failures, fwSlot := r.fwSlot, recSeq := r.recSeq, marked := r.marked,
                                   older := m.older, starts := m.starts + 1, sealSeq := m.sealSeq }
  { State.reset with cap := s.cap, mgr := keep, agenda := s.agenda, outPort := s.outPort, free := s.free }

/-- A firmware slot passes when each of its two signatures verifies, under a public key whose digest is in fuses (R418). -/
def fwPasses (start slot : Nat) : Bool :=
  [0, 1].all (fun k => decide (Config.sha256 (Config.slotKey start slot k) = Config.fuseDigest k) && Config.verifies start slot k)

/-- START_SEQUENCE (R417): steps 1 to 8; the boot program's end leads to BOOT_CHECK. -/
def execStartSequence (s : State) : Out :=
  .next (
    let s := poweredUp s
    if fails s 1 0 then stopAt (logFailure s 1 0 0) 1 0 0
    else if fails s 2 0 then stopAt (logFailure s 2 0 0) 2 0 0
    else
      let good (k : Nat) : Bool := fwPasses s.mgr.starts k
      let first := s.mgr.fwSlot % 2
      let s := if good first then s else logFailure s 3 first 0
      if !good first && !good (1 - first) then stopAt (logFailure s 3 (1 - first) 0) 3 (1 - first) 0
      else
        let s := { s with mgr := { s.mgr with fwSlot := if good first then first else 1 - first } }
        startBoot (startTiles (startFrames (startStacks (startLinks s)))))

/-! ## The end of step 8 (R431) -/

/-- Step 9 and READY: the placement pass is made, and an unparking ends, with which BUSY falls (R261, R410, R421). -/
def reachReady (s : State) : State :=
  let s := setStep (startPorts { s with mgr := { s.mgr with boot := none } }) 10
  placementPass (if w0Get s 0x300 = 3 then powerState (cmdDone (w0Put s 0x300 2)) else s)

/-- A router is marked failed; its tile does not work from the next launch on. -/
def routerOut (s : State) (site : Nat) : State := { s with mgr := { s.mgr with badRouters := (s.mgr.badRouters ++ [site]).dedup } }

/-- BOOT_CHECK (R431): from here on the ids are those that the boot program gave: a site retired, or whose router it could not reach, has none
(R15). The tiles keep what the program left them, the delivered image too. -/
def execBootCheck (s : State) : Out :=
  .next (match s.mgr.boot, partnOf s s.mgr.bootPid with
    | some b, some p =>
      if p.st = .contained ∧ p.sites = [] then
        let unit := match causeSite p with
          | some x => dieOf x
          | none => 0
        bootStops { s with partns := s.partns.filter (fun q => q.pid ≠ p.pid) } unit 4
      else if p.st ≠ .captured then s
      else
        let word (site a : Nat) : Nat := match tileAt s site with
          | some t => readLe t.mem a 8
          | none => 0
        let ids := p.sites.map (fun x => (x, word x 0x10000))
        let dead := (s.mgr.retired ++ s.mgr.badRouters).dedup
        let gap := ids.find? (fun q => decide (q.2 ≠ q.1 - (dead.filter (fun r => decide (r < q.1))).length))
        let total := word b 0x10030
        let blank := (p.sites.filter (fun x => decide (word x 0x10028 = 0)))
        let s' := ids.foldl (fun s q => mapTile s q.1 (fun t => cwPut t 0x007 (BitVec.ofNat 64 q.2))) s
        let s' := freeSites { s' with partns := s'.partns.filter (fun q => q.pid ≠ p.pid) } p
        let s' := if total ≠ p.sites.length then (match gap with
            | some q => routerOut (logFailure s' 8 (q.1 % 128) 1) q.1
            | none => logFailure s' 8 0 1) else s'
        let s' := blank.foldl (fun s x => routerOut (logFailure s 8 (x % 128) 2) x) s'
        let out := if total ≠ p.sites.length then (gap.map (·.1)).toList else []
        reachReady { s' with mgr := { s'.mgr with noId := dead ++ out } }
    | _, _ => s)

/-! ## Parking (R421) -/

/-- PSET (R421): 3 parks while no partition exists, tiles and links losing their contents; 0 unparks by steps 7 to 9. DESIGN CHOICE (log 96):
unparking counts as a start for R16, and the marks become retirements; PSTATE stays 3 and BUSY 1 until the module is READY. -/
def execPset (s : State) : Out :=
  command 0x0C s (fun s =>
    let v := (arg0 s).toNat
    let parked := decide (w0Get s 0x300 = 3)
    if v = 3 then
      if s.partns.any existsNow then cmdFail s 4
      else cmdDone (w0Put { s with tile := Tile.blank 0, rest := [], net := [], qheld := [], copies := [], cxl := [], pairs := [] } 0x300 3)
    else if v = 0 then
      if parked then startBoot (startTiles (w0Put { s with mgr := { s.mgr with starts := s.mgr.starts + 1 } } 0x128 (statWord true false 0 0))) else cmdDone s
    else cmdFail s 3)

end Sys2Proof.Machine
end

