-- ==== Sys2Proof/Machine/Control.lean ====
section
/-! DEFINITION. Control flow, loops, signatures, the SYS functions and the format word (05, 12 R289 to R292, 15 R363 to
R369, 08 R166). A SYS slot leaves its action in the issue group; the commit of its bundle performs it. -/

namespace Sys2Proof.Machine

open Sys2Proof

/-! ## Fetching words (R27, R29, R134) -/

/-- The word that a fetch of address `a` returns: the memory's, or for a word written since the last IFENCE its old or new
value by a free choice made for each word (R134). -/
def fetchWord (t : Tile) (free a : Nat) : BitVec 32 :=
  match t.stale.find? (fun p => p.1 = a) with
  | some p => if (Config.freeWord (free + a / 4 % 8)).getLsbD 0 then p.2 else BitVec.ofNat 32 (readLe t.mem a 4)
  | none => BitVec.ofNat 32 (readLe t.mem a 4)

/-- The scan for a stop slot among the first eight words of a bundle (R28, R29). -/
inductive Scan where
  | words (ws : List (BitVec 32))
  | noStop
  | xfetch (a : Nat)
deriving DecidableEq, Repr

def scanFrom (t : Tile) (free : Nat) : Nat → Nat → List (BitVec 32) → Scan
  | 0, _, _ => .noStop
  | k + 1, a, ws =>
    if xbOf t ≤ a then .xfetch a else
    let w := fetchWord t free a
    if w.getLsbD 31 then .words (ws ++ [w]) else scanFrom t free k (a + 4) (ws ++ [w])

def scanBundle (s : State) (a : LAddr) : Scan := scanFrom s.tile s.free 8 a.toNat []

/-! ## Transfers (R97 to R100) -/

/-- A taken transfer to a 21-bit target (R98). -/
def addJump (s : State) (a : LAddr) : State := updIss s (fun i => { i with jump := some a })

/-- The address of the bundle that follows this one. -/
def nextAddr (s : State) : LAddr := s.tile.iss.addr + BitVec.ofNat 21 (4 * s.tile.iss.words.length)

/-- The target of BR and CALL, from the bundle address (R99). -/
def relTarget (s : State) (k : BitVec 21) : LAddr := s.tile.iss.addr + (k <<< 2)

/-- BR (R99). -/
def execBr (c : Ctl) (k : BitVec 21) (s : State) : Out := plain c s (fun s => addJump s (relTarget s k))

/-- CALL (R99). -/
def execCall (c : Ctl) (k : BitVec 21) (s : State) : Out :=
  plain c s (fun s => addJump (addX s 1 1 ((nextAddr s).setWidth 64)) (relTarget s k))

/-- A jump to a register's value: ALIGN when it is no word address (R100). -/
def jumpReg (s : State) (v : W64) : State :=
  if v &&& 3 = 0 then addJump s (v.setWidth 21) else addCause s 0x06 v

/-- JR (R100). -/
def execJr (c : Ctl) (a : Reg) (s : State) : Out := plain c s (fun s => jumpReg s (X s a))

/-- JALR (R100). -/
def execJalr (c : Ctl) (d a : Reg) (s : State) : Out :=
  plain c s (fun s => jumpReg (addX s 1 d ((nextAddr s).setWidth 64)) (X s a))

/-- The skip of a LOOP with a trip count of zero: past the bundle at `fin` (R102). -/
def loopSkip (s : State) (fin : Nat) : State :=
  match scanBundle s (BitVec.ofNat 21 fin) with
  | .words ws => addJump s (BitVec.ofNat 21 (fin + 4 * ws.length))
  | .noStop => addCause s 0x02 1
  | .xfetch a => addCause s 0x04 (BitVec.ofNat 64 a)

/-- LOOP (R102). -/
def execLoop (c : Ctl) (r : Reg) (k : BitVec 16) (s : State) : Out :=
  userSlot c s (fun s =>
    let start := s.tile.iss.addr.toNat + 4 * s.tile.iss.words.length
    let fin := s.tile.iss.addr.toNat + 4 * k.toNat
    let lc0 := cwGet s.tile 0x070
    let lc1 := cwGet s.tile 0x071
    let t := X s r
    if fin < start ∨ 0x200000 ≤ fin then illop s
    else if lcAct lc1 ∧ lcAct lc0 then illop s
    else if 2 ^ 25 ≤ t.toNat then addCause s 0x07 t
    else if t = 0 then loopSkip s fin
    else updIss s (fun i => { i with loops := some (lcWord fin start t.toNat, if lcAct lc0 then lc0 else lc1) }))

/-- LPOP (R104): it suppresses the loop-end processing of its bundle at LC0.END. -/
def execLpop (c : Ctl) (s : State) : Out :=
  plain c s (fun s => updIss s (fun i => { i with loops := some (cwGet s.tile 0x071, 0), lpop := true }))

/-! ## Signatures (R105, R106) -/

/-- The computed value of a SIG slot: the running check over the bundle's words with the slot's own k taken as zero. -/
def sigValue (s : State) : BitVec 16 :=
  let i := s.tile.iss
  crcWords (BitVec.ofNat 16 (bitsOf (cwGet s.tile 0x111) 0 16)) (i.words.zipIdx.map (fun p => if p.2 = i.slot then p.1 &&& 0xFFFF0000 else p.1))

/-- SIG (R105): SIGFAULT on a mismatch while SIGCTL.EN is 1 and SKIP 0; without effect in supervisor mode (R353). -/
def execSig (c : Ctl) (k : BitVec 16) (s : State) : Out :=
  plain c s (fun s =>
    if s.tile.sup then s else
    let v := sigValue s
    let ctl := cwGet s.tile 0x110
    let s := updIss s (fun i => { i with sig := some k })
    if ctl.getLsbD 0 && !(ctl.getLsbD 1) && v != k then addCause s 0x19 (BitVec.ofNat 64 (k.toNat + 65536 * v.toNat)) else s)

/-! ## SYS (R363) -/

/-- Leaves a system action, by its function number and operand. -/
def addSys (s : State) (fn : Nat) (v : W64) : State := updIss s (fun i => { i with sys := some (fn, v) })

/-- TRAP: SYSCALL with TVAL X[a], as a completing trap (R364). -/
def execTrap (c : Ctl) (a : Reg) (s : State) : Out :=
  userSlot c s (fun s => updIss s (fun i => { i with completing := some (0x13, X s a) }))

/-- BRK: DEBUG as a completing trap, or a halt when DBGCTL.BRKH is 1 (R364). -/
def execBrk (c : Ctl) (s : State) : Out :=
  userSlot c s (fun s => updIss s (fun i => { i with completing := some (0x14, 0) }))

/-- RFE (R365). -/
def execRfe (c : Ctl) (s : State) : Out := supSlot c s (fun s => addSys s 0x01 0)

/-- IDLE (R366). -/
def execIdle (c : Ctl) (a : Reg) (s : State) : Out := plain c s (fun s => addSys s 0x03 (X s a))

/-- IFENCE (R367). -/
def execIfence (c : Ctl) (s : State) : Out := plain c s (fun s => addSys s 0x04 0)

/-- MASKP (R368). -/
def execMaskp (c : Ctl) (s : State) : Out := plain c s (fun s => addSys s 0x05 0)

/-- UNMASKP (R368). -/
def execUnmaskp (c : Ctl) (s : State) : Out := plain c s (fun s => addSys s 0x06 0)

/-- SAVELT: the 64 entries, 1024 bytes, and LTSBN becomes 0 (R369). -/
def execSavelt (c : Ctl) (a : Reg) (s : State) : Out :=
  supSlot c s (fun s =>
    let es := s.tile.ltsb.map ltBytes ++ List.replicate (64 - s.tile.ltsb.length) (leBytes 0 16)
    addSys (storeWith s (effAddr (X s a) 0) 64 es.flatten) 0x07 0)

/-- The entry of 16 bytes, as RSTLT reads it: its place beside frozen results is not stored, it counts as older than all of them (log 80). -/
def ltParse (m : Memory) (a : Nat) : LtEntry :=
  { val := BitVec.ofNat 64 (readLe m a 8), kind := readLe m (a + 8) 1, reg := readLe m (a + 9) 1, left := readLe m (a + 10) 2, after := 0 }

/-- Kinds and register numbers of R355. -/
def ltValid (e : LtEntry) : Bool :=
  match e.kind with
  | 1 => decide (e.reg < 32)
  | 2 => decide (e.reg < 128)
  | 3 => decide (e.reg < 2)
  | 4 => decide (e.reg < 32)
  | 5 => decide (e.reg < 32)
  | _ => false

/-- The entries that RSTLT loads: up to the first of kind 0 (R369). -/
def ltLoad (m : Memory) : Nat → Nat → List LtEntry
  | 0, _ => []
  | k + 1, a => let e := ltParse m a; if e.kind = 0 then [] else e :: ltLoad m k (a + 16)

/-- RSTLT: DOUBLE while LTSBN is not 0 (R359); ILLOP with TVAL X[a] on an entry that R355 refuses (R369). -/
def execRstlt (c : Ctl) (a : Reg) (s : State) : Out :=
  supSlot c s (fun s =>
    if s.tile.ltsb ≠ [] then double s else
    loadWith s (effAddr (X s a) 0) 1024 64 (fun s _ =>
      let es := ltLoad (seen s) 64 (X s a).toNat
      if es.all ltValid then updIss (addSys s 0x08 (X s a)) (fun i => { i with ltLoaded := es }) else addCause s 0x01 (X s a)))

/-- SYNC (R110). -/
def execSync (c : Ctl) (s : State) : Out := plain c s (fun s => addSys s 0x10 0)

/-- YIELD: ILLOP in an optimistic partition (R289, R290). -/
def execYield (c : Ctl) (s : State) : Out := userSlot c s (fun s => if isOpt s.tile then illop s else addSys s 0x18 0)

/-- SUSPEND: no effect on a register that is not pending as the bundle issues (R126, R291). -/
def execSuspend (c : Ctl) (a : Reg) (s : State) : Out :=
  userSlot c s (fun s => if isOpt s.tile then illop s else if isPend s.tile.th a.toNat then addSys s 0x19 (a.setWidth 64) else s)

/-- EXIT (R292). -/
def execExit (c : Ctl) (s : State) : Out := userSlot c s (fun s => addSys s 0x1A 0)

/-- NOP (R26). -/
def execNop (s : State) : Out := .next s

/-! ## The format word (R166) -/

def setPfx (s : State) (fa fb : BitVec 4) (g : BitVec 2) (zp : BitVec 1) (vec : Bool) : State :=
  updIss s (fun i => { i with pfx := some ⟨fa, fb, g, zp = 1, vec⟩ })

/-- PFX.M (R166). -/
def execPfxM (c : Ctl) (fa fb : BitVec 4) (g : BitVec 2) (zp : BitVec 1) (s : State) : Out :=
  userSlot c s (fun s => setPfx s fa fb g zp false)

/-- PFX.V (R166). -/
def execPfxV (c : Ctl) (fa fb : BitVec 4) (g : BitVec 2) (zp : BitVec 1) (s : State) : Out :=
  userSlot c s (fun s => setPfx s fa fb g zp true)

end Sys2Proof.Machine
end

