-- ==== Sys2Proof/Machine/Local.lean ====
section
/-! DEFINITION. Local memory instructions (06). -/

namespace Sys2Proof.Machine

open Sys2Proof

/-- The value of a load of width code `w`, sign- or zero-extended (R127). -/
def loadVal (w : BitVec 2) (sx : BitVec 1) (v : Nat) : W64 :=
  if sx = 1 then sextNat v (8 * 2 ^ w.toNat) else BitVec.ofNat 64 v

/-- The shared body of LD and LDX (R127, R129). -/
def loadX (s : State) (d : Reg) (ea : Int) (w : BitVec 2) (sx : BitVec 1) : State :=
  loadWith s ea (2 ^ w.toNat) (2 ^ w.toNat) (fun s v => addX s 4 d (loadVal w sx v))

/-- The shared body of ST and STX (R128, R129). -/
def storeX (s : State) (d : Reg) (ea : Int) (w : BitVec 2) : State :=
  storeWith s ea (2 ^ w.toNat) (leBytes (X s d).toNat (2 ^ w.toNat))

/-- The address of LD and ST (R127). -/
def lsAddr (s : State) (a : Reg) (w : BitVec 2) (k : BitVec 8) : Int := effAddr (X s a) (k.toInt * 2 ^ w.toNat)

/-- The address of LDX and STX: vb is signed, scaled when sc is 1 (R129). -/
def lsxAddr (s : State) (a b : Reg) (sc : BitVec 1) (w : BitVec 2) : Int :=
  effAddr (X s a) ((X s b).toInt * (if sc = 1 then 2 ^ w.toNat else 1))

/-- LD (R127). -/
def execLd (c : Ctl) (d a : Reg) (w : BitVec 2) (x : BitVec 1) (k : BitVec 8) (s : State) : Out :=
  plain c s (fun s => loadX s d (lsAddr s a w k) w x)

/-- ST (R128). -/
def execSt (c : Ctl) (d a : Reg) (w : BitVec 2) (k : BitVec 8) (s : State) : Out :=
  plain c s (fun s => storeX s d (lsAddr s a w k) w)

/-- LDX (R129). -/
def execLdx (c : Ctl) (d a b : Reg) (sc x : BitVec 1) (w : BitVec 2) (s : State) : Out :=
  plain c s (fun s => loadX s d (lsxAddr s a b sc w) w x)

/-- STX (R129). -/
def execStx (c : Ctl) (d a b : Reg) (sc : BitVec 1) (w : BitVec 2) (s : State) : Out :=
  plain c s (fun s => storeX s d (lsxAddr s a b sc w) w)

/-! ## Vector loads and stores (R130) -/

def vlsAddr (s : State) (a : Reg) (k : BitVec 9) : Int := effAddr (X s a) (k.toInt * 128)

/-- Bits [lo + n − 1 : lo] of a vector register. -/
def vMask (lo n : Nat) : BitVec 2048 := BitVec.ofNat 2048 ((2 ^ n - 1) * 2 ^ lo)

/-- A vector load of `n` bytes into the bits from `lo` on; the other bits keep what they hold at the landing (R130). -/
def loadV (s : State) (d : Reg) (ea : Int) (n lo : Nat) : State :=
  loadWith s ea n 128 (fun s v => addFlight s 6 true (.v d (vMask lo (8 * n)) (BitVec.ofNat 2048 (v * 2 ^ lo))))

/-- VLD (R130). -/
def execVld (c : Ctl) (d a : Reg) (k : BitVec 9) (s : State) : Out := plain c s (fun s => loadV s d (vlsAddr s a k) 256 0)
/-- VLDL (R130). -/
def execVldl (c : Ctl) (d a : Reg) (k : BitVec 9) (s : State) : Out := plain c s (fun s => loadV s d (vlsAddr s a k) 128 0)
/-- VLDU (R130). -/
def execVldu (c : Ctl) (d a : Reg) (k : BitVec 9) (s : State) : Out := plain c s (fun s => loadV s d (vlsAddr s a k) 128 1024)
/-- VST (R130). -/
def execVst (c : Ctl) (d a : Reg) (k : BitVec 9) (s : State) : Out :=
  plain c s (fun s => storeWith s (vlsAddr s a k) 128 (bytesOf (V s d)))

/-! ## Gathers, scatters and masked transfers (R131, R132) -/

/-- The enabled lanes with their addresses: base plus the scaled index lane, or lane × 4 for VLDM and VSTM. -/
def laneAddrs (s : State) (a : Reg) (idx : Option Reg) (z : Nat) (mk : BitVec 3) : List (Nat × Int) :=
  ((upto 64).filter (fun i => (M s mk).getLsbD i)).map (fun i =>
    (i, effAddr (X s a) (match idx with
      | some b => (z * elemOf (V s b) 32 i : Nat)
      | none => (4 * i : Nat))))

/-- The lowest lane that the reported check refuses gives TVAL; XACCESS comes before ALIGN (R117). DESIGN CHOICE (log 99): where XACCESS is
reported, a lower lane that is only misaligned does not count as faulting. -/
def checkLanes (s : State) (ls : List (Nat × Int)) (z : Nat) : State :=
  let s1 := match ls.find? (fun p => !rangeOk s.tile s.tile.sup p.2 z) with
    | some p => addCause s 0x05 (BitVec.ofInt 64 p.2)
    | none => s
  match ls.find? (fun p => decide (p.2 % (z : Int) ≠ 0)) with
  | some p => addCause s1 0x06 (BitVec.ofInt 64 p.2)
  | none => s1

def lanesOk (s : State) (ls : List (Nat × Int)) (z : Nat) : Bool := ls.all (fun p => accessOk s p.2 z z)

/-- A gather of latency 12: enabled lanes take their zero-extended elements (R131). -/
def gather (s : State) (d a : Reg) (idx : Option Reg) (z : Nat) (mk : BitVec 3) : State :=
  let ls := laneAddrs s a idx z mk
  if lanesOk s ls z then
    let s := ls.foldl (fun s p => addRead s p.2.toNat z) s
    let mem := seen s
    let val := ls.foldl (fun v p => v + readLe mem p.2.toNat z * 2 ^ (32 * p.1)) 0
    let mask := ls.foldl (fun v p => v + (2 ^ 32 - 1) * 2 ^ (32 * p.1)) 0
    addFlight s 12 true (.v d (BitVec.ofNat 2048 mask) (BitVec.ofNat 2048 val))
  else checkLanes s ls z

/-- A scatter: enabled lanes store their low bytes in ascending order, so the highest lane's are kept (R131, R132). -/
def scatter (s : State) (d a : Reg) (idx : Option Reg) (z : Nat) (mk : BitVec 3) : State :=
  let ls := laneAddrs s a idx z mk
  if lanesOk s ls z then
    addStores s ((ls.map (fun p => atAddr p.2.toNat (leBytes (elemOf (V s d) 32 p.1) z))).flatten)
  else checkLanes s ls z

/-- VGTH.32 (R131). -/
def execVgth32 (c : Ctl) (d a b : Reg) (m : BitVec 3) (s : State) : Out := plain c s (fun s => gather s d a (some b) 4 m)
/-- VGTH.16 (R131). -/
def execVgth16 (c : Ctl) (d a b : Reg) (m : BitVec 3) (s : State) : Out := plain c s (fun s => gather s d a (some b) 2 m)
/-- VGTH.8 (R131). -/
def execVgth8 (c : Ctl) (d a b : Reg) (m : BitVec 3) (s : State) : Out := plain c s (fun s => gather s d a (some b) 1 m)
/-- VLDM (R131). -/
def execVldm (c : Ctl) (d a : Reg) (m : BitVec 3) (s : State) : Out := plain c s (fun s => gather s d a none 4 m)
/-- VSCT.32 (R131). -/
def execVsct32 (c : Ctl) (d a b : Reg) (m : BitVec 3) (s : State) : Out := plain c s (fun s => scatter s d a (some b) 4 m)
/-- VSCT.16 (R131). -/
def execVsct16 (c : Ctl) (d a b : Reg) (m : BitVec 3) (s : State) : Out := plain c s (fun s => scatter s d a (some b) 2 m)
/-- VSCT.8 (R131). -/
def execVsct8 (c : Ctl) (d a b : Reg) (m : BitVec 3) (s : State) : Out := plain c s (fun s => scatter s d a (some b) 1 m)
/-- VSTM (R131). -/
def execVstm (c : Ctl) (d a : Reg) (m : BitVec 3) (s : State) : Out := plain c s (fun s => scatter s d a none 4 m)

/-! ## The layout table (R133) -/

def ltAll : BitVec 128 := BitVec.allOnes 128

/-- LTLD (R133). -/
def execLtld (c : Ctl) (d a : Reg) (s : State) : Out :=
  plain c s (fun s => loadWith s (effAddr (X s a) 0) 16 16 (fun s v => addFlight s 4 false (.lt d ltAll (BitVec.ofNat 128 v))))
/-- LTST (R133). -/
def execLtst (c : Ctl) (d a : Reg) (s : State) : Out :=
  plain c s (fun s => storeWith s (effAddr (X s a) 0) 16 (bytesOf (LT s d.toNat)))
/-- LTW (R133). -/
def execLtw (c : Ctl) (d a b : Reg) (s : State) : Out :=
  plain c s (fun s => addFlight s 1 false (.lt d ltAll (X s b ++ X s a)))
/-- LTRL (R133). -/
def execLtrl (c : Ctl) (d a : Reg) (s : State) : Out := plain c s (fun s => addX s 1 d ((LT s a.toNat).setWidth 64))
/-- LTRH (R133). -/
def execLtrh (c : Ctl) (d a : Reg) (s : State) : Out := plain c s (fun s => addX s 1 d ((LT s a.toNat >>> 64).setWidth 64))
/-- LTBASE (R133). -/
def execLtbase (c : Ctl) (d a : Reg) (s : State) : Out :=
  plain c s (fun s => addFlight s 1 false (.lt d 0x1FFFFF ((X s a).setWidth 128 &&& 0x1FFFFF)))

/-! ## Code writes (R134) -/

/-- Bytes written below XB: XACCESS unless every byte lies below XB, ALIGN unless aligned. -/
def codeStore (s : State) (ea : Nat) (align : Nat) (bs : List Byte) : State :=
  let inside := decide (ea + bs.length ≤ xbOf s.tile)
  let s1 := if inside then s else addCause s 0x05 (BitVec.ofNat 64 ea)
  let s2 := if ea % align = 0 then s1 else addCause s1 0x06 (BitVec.ofNat 64 ea)
  if inside ∧ ea % align = 0 then
    updIss s2 (fun i => { i with whole := i.whole ++ wholeWords (atAddr ea bs), codes := i.codes ++ (upto (bs.length / 4)).map (fun j => (ea + 4 * j, BitVec.ofNat 32 (leNat ((bs.drop (4 * j)).take 4)))) })
  else s2

/-- ISTW (R134). -/
def execIstw (c : Ctl) (a b : Reg) (s : State) : Out := plain c s (fun s => codeStore s (X s a).toNat 4 (leBytes (X s b).toNat 4))
/-- ISTV (R134). -/
def execIstv (c : Ctl) (a b : Reg) (s : State) : Out := plain c s (fun s => codeStore s (X s a).toNat 256 (bytesOf (V s b)))

end Sys2Proof.Machine
end

