-- ==== Sys2Proof/Machine/Scalar.lean ====
section
/-! DEFINITION. Scalar, address and predicate instructions (04). -/

namespace Sys2Proof.Machine

open Sys2Proof

def low32 (v : W64) : BitVec 32 := v.setWidth 32
def sext32 (v : BitVec 32) : W64 := v.signExtend 64

/-- Bits [127:64] of an exact product (R77). -/
def mulHigh (a b : Int) : W64 := BitVec.ofInt 64 ((a * b) / (2 ^ 64 : Nat))

/-- Signed quotient, truncated toward zero; all ones for a zero divisor; the dividend when −2^(w−1) is divided by −1 (R78). -/
def divS {w : Nat} (a b : BitVec w) : BitVec w := if b = 0 then BitVec.allOnes w else BitVec.ofInt w (a.toInt.tdiv b.toInt)
/-- Signed remainder with the sign of the dividend (R78). -/
def remS {w : Nat} (a b : BitVec w) : BitVec w := if b = 0 then a else BitVec.ofInt w (a.toInt.tmod b.toInt)
/-- Unsigned quotient (R78). -/
def divU {w : Nat} (a b : BitVec w) : BitVec w := if b = 0 then BitVec.allOnes w else a / b
/-- Unsigned remainder (R78). -/
def remU {w : Nat} (a b : BitVec w) : BitVec w := if b = 0 then a else a % b

def leadZeros {w : Nat} (v : BitVec w) : Nat := if v = 0 then w else w - 1 - Nat.log2 v.toNat
def trailZeros {w : Nat} (v : BitVec w) : Nat := ((upto w).find? (fun i => v.getLsbD i)).getD w
def popCount {w : Nat} (v : BitVec w) : Nat := (upto w).countP (fun i => v.getLsbD i)

/-- The field extracts of R80: position vb[5:0], length vb[14:8]. -/
def bitField (signed : Bool) (va vb : W64) : W64 :=
  let pos := bitsOf vb 0 6
  let len := min (bitsOf vb 8 7) 64
  if len = 0 then 0
  else if signed then
    sextNat ((va.sshiftRight pos).toNat) len
  else BitVec.ofNat 64 (bitsOf va pos len)

/-- A two-operand S slot of latency `lat`: the shape of SALU, SMUL and SBIT (R74). -/
def binX (lat : Nat) (f : W64 → W64 → W64) (c : Ctl) (d a b : Reg) (s : State) : Out :=
  plain c s (fun s => addX s lat d (f (X s a) (X s b)))

/-- A one-operand S slot of latency 1. -/
def unX (f : W64 → W64) (c : Ctl) (d a : Reg) (s : State) : Out := plain c s (fun s => addX s 1 d (f (X s a)))

/-- ADD (R75). -/
def execAdd (c : Ctl) (d a b : Reg) (s : State) : Out := binX 1 (fun va vb => va + vb) c d a b s

/-- SUB (R75). -/
def execSub (c : Ctl) (d a b : Reg) (s : State) : Out := binX 1 (fun va vb => va - vb) c d a b s

/-- AND (R75). -/
def execAnd (c : Ctl) (d a b : Reg) (s : State) : Out := binX 1 (fun va vb => va &&& vb) c d a b s

/-- OR (R75). -/
def execOr (c : Ctl) (d a b : Reg) (s : State) : Out := binX 1 (fun va vb => va ||| vb) c d a b s

/-- XOR (R75). -/
def execXor (c : Ctl) (d a b : Reg) (s : State) : Out := binX 1 (fun va vb => va ^^^ vb) c d a b s

/-- ANDN (R75). -/
def execAndn (c : Ctl) (d a b : Reg) (s : State) : Out := binX 1 (fun va vb => va &&& ~~~vb) c d a b s

/-- ORN (R75). -/
def execOrn (c : Ctl) (d a b : Reg) (s : State) : Out := binX 1 (fun va vb => va ||| ~~~vb) c d a b s

/-- XNOR (R75). -/
def execXnor (c : Ctl) (d a b : Reg) (s : State) : Out := binX 1 (fun va vb => ~~~(va ^^^ vb)) c d a b s

/-- SLL (R75). -/
def execSll (c : Ctl) (d a b : Reg) (s : State) : Out := binX 1 (fun va vb => va <<< bitsOf vb 0 6) c d a b s

/-- SRL (R75). -/
def execSrl (c : Ctl) (d a b : Reg) (s : State) : Out := binX 1 (fun va vb => va >>> bitsOf vb 0 6) c d a b s

/-- SRA (R75). -/
def execSra (c : Ctl) (d a b : Reg) (s : State) : Out := binX 1 (fun va vb => va.sshiftRight (bitsOf vb 0 6)) c d a b s

/-- ROR (R75). -/
def execRor (c : Ctl) (d a b : Reg) (s : State) : Out := binX 1 (fun va vb => va.rotateRight (bitsOf vb 0 6)) c d a b s

/-- ROL (R75). -/
def execRol (c : Ctl) (d a b : Reg) (s : State) : Out := binX 1 (fun va vb => va.rotateLeft (bitsOf vb 0 6)) c d a b s

/-- SLT (R75). -/
def execSlt (c : Ctl) (d a b : Reg) (s : State) : Out := binX 1 (fun va vb => if va.slt vb then 1 else 0) c d a b s

/-- SLTU (R75). -/
def execSltu (c : Ctl) (d a b : Reg) (s : State) : Out := binX 1 (fun va vb => if va.ult vb then 1 else 0) c d a b s

/-- MIN (R75). -/
def execMin (c : Ctl) (d a b : Reg) (s : State) : Out := binX 1 (fun va vb => if vb.slt va then vb else va) c d a b s

/-- MAX (R75). -/
def execMax (c : Ctl) (d a b : Reg) (s : State) : Out := binX 1 (fun va vb => if va.slt vb then vb else va) c d a b s

/-- MINU (R75). -/
def execMinu (c : Ctl) (d a b : Reg) (s : State) : Out := binX 1 (fun va vb => if vb.ult va then vb else va) c d a b s

/-- MAXU (R75). -/
def execMaxu (c : Ctl) (d a b : Reg) (s : State) : Out := binX 1 (fun va vb => if va.ult vb then vb else va) c d a b s

/-- ADDW (R75). -/
def execAddw (c : Ctl) (d a b : Reg) (s : State) : Out := binX 1 (fun va vb => sext32 (low32 va + low32 vb)) c d a b s

/-- SUBW (R75). -/
def execSubw (c : Ctl) (d a b : Reg) (s : State) : Out := binX 1 (fun va vb => sext32 (low32 va - low32 vb)) c d a b s

/-- SLLW (R75). -/
def execSllw (c : Ctl) (d a b : Reg) (s : State) : Out := binX 1 (fun va vb => sext32 (low32 va <<< bitsOf vb 0 5)) c d a b s

/-- SRLW (R75). -/
def execSrlw (c : Ctl) (d a b : Reg) (s : State) : Out := binX 1 (fun va vb => sext32 (low32 va >>> bitsOf vb 0 5)) c d a b s

/-- SRAW (R75). -/
def execSraw (c : Ctl) (d a b : Reg) (s : State) : Out := binX 1 (fun va vb => sext32 ((low32 va).sshiftRight (bitsOf vb 0 5))) c d a b s

/-- MUL (R77). -/
def execMul (c : Ctl) (d a b : Reg) (s : State) : Out := binX 4 (fun va vb => va * vb) c d a b s

/-- MULH (R77). -/
def execMulh (c : Ctl) (d a b : Reg) (s : State) : Out := binX 4 (fun va vb => mulHigh va.toInt vb.toInt) c d a b s

/-- MULHU (R77). -/
def execMulhu (c : Ctl) (d a b : Reg) (s : State) : Out := binX 4 (fun va vb => mulHigh va.toNat vb.toNat) c d a b s

/-- MULHSU (R77). -/
def execMulhsu (c : Ctl) (d a b : Reg) (s : State) : Out := binX 4 (fun va vb => mulHigh va.toInt vb.toNat) c d a b s

/-- MULW (R77). -/
def execMulw (c : Ctl) (d a b : Reg) (s : State) : Out := binX 4 (fun va vb => sext32 (low32 va * low32 vb)) c d a b s

/-- DIV (R77, R78). -/
def execDiv (c : Ctl) (d a b : Reg) (s : State) : Out := binX 20 (fun va vb => divS va vb) c d a b s

/-- DIVU (R77, R78). -/
def execDivu (c : Ctl) (d a b : Reg) (s : State) : Out := binX 20 (fun va vb => divU va vb) c d a b s

/-- REM (R77, R78). -/
def execRem (c : Ctl) (d a b : Reg) (s : State) : Out := binX 20 (fun va vb => remS va vb) c d a b s

/-- REMU (R77, R78). -/
def execRemu (c : Ctl) (d a b : Reg) (s : State) : Out := binX 20 (fun va vb => remU va vb) c d a b s

/-- DIVW (R77, R78). -/
def execDivw (c : Ctl) (d a b : Reg) (s : State) : Out := binX 20 (fun va vb => sext32 (divS (low32 va) (low32 vb))) c d a b s

/-- DIVUW (R77, R78). -/
def execDivuw (c : Ctl) (d a b : Reg) (s : State) : Out := binX 20 (fun va vb => sext32 (divU (low32 va) (low32 vb))) c d a b s

/-- REMW (R77, R78). -/
def execRemw (c : Ctl) (d a b : Reg) (s : State) : Out := binX 20 (fun va vb => sext32 (remS (low32 va) (low32 vb))) c d a b s

/-- REMUW (R77, R78). -/
def execRemuw (c : Ctl) (d a b : Reg) (s : State) : Out := binX 20 (fun va vb => sext32 (remU (low32 va) (low32 vb))) c d a b s

/-- CLZ (R79). -/
def execClz (c : Ctl) (d a : Reg) (s : State) : Out := unX (fun va => BitVec.ofNat 64 (leadZeros va)) c d a s

/-- CTZ (R79). -/
def execCtz (c : Ctl) (d a : Reg) (s : State) : Out := unX (fun va => BitVec.ofNat 64 (trailZeros va)) c d a s

/-- POPC (R79). -/
def execPopc (c : Ctl) (d a : Reg) (s : State) : Out := unX (fun va => BitVec.ofNat 64 (popCount va)) c d a s

/-- BREV (R79). -/
def execBrev (c : Ctl) (d a : Reg) (s : State) : Out := unX (fun va => va.reverse) c d a s

/-- BSWAP (R79). -/
def execBswap (c : Ctl) (d a : Reg) (s : State) : Out := unX (fun va => BitVec.ofNat 64 (leNat (bytesOf va).reverse)) c d a s

/-- SEXTB (R79). -/
def execSextb (c : Ctl) (d a : Reg) (s : State) : Out := unX (fun va => sextNat va.toNat 8) c d a s

/-- SEXTH (R79). -/
def execSexth (c : Ctl) (d a : Reg) (s : State) : Out := unX (fun va => sextNat va.toNat 16) c d a s

/-- ZEXTB (R79). -/
def execZextb (c : Ctl) (d a : Reg) (s : State) : Out := unX (fun va => va &&& 0xFF) c d a s

/-- ZEXTH (R79). -/
def execZexth (c : Ctl) (d a : Reg) (s : State) : Out := unX (fun va => va &&& 0xFFFF) c d a s

/-- ZEXTW (R79). -/
def execZextw (c : Ctl) (d a : Reg) (s : State) : Out := unX (fun va => va &&& 0xFFFFFFFF) c d a s

/-- CLZW (R79). -/
def execClzw (c : Ctl) (d a : Reg) (s : State) : Out := unX (fun va => BitVec.ofNat 64 (leadZeros (low32 va))) c d a s

/-- BEXT (R79, R80). -/
def execBext (c : Ctl) (d a b : Reg) (s : State) : Out := binX 1 (fun va vb => BitVec.ofNat 64 (bitsOf va (bitsOf vb 0 6) 1)) c d a b s

/-- BSET (R79, R80). -/
def execBset (c : Ctl) (d a b : Reg) (s : State) : Out := binX 1 (fun va vb => va ||| ((1 : W64) <<< bitsOf vb 0 6)) c d a b s

/-- BCLR (R79, R80). -/
def execBclr (c : Ctl) (d a b : Reg) (s : State) : Out := binX 1 (fun va vb => va &&& ~~~((1 : W64) <<< bitsOf vb 0 6)) c d a b s

/-- BINV (R79, R80). -/
def execBinv (c : Ctl) (d a b : Reg) (s : State) : Out := binX 1 (fun va vb => va ^^^ ((1 : W64) <<< bitsOf vb 0 6)) c d a b s

/-- BFXU (R79, R80). -/
def execBfxu (c : Ctl) (d a b : Reg) (s : State) : Out := binX 1 (fun va vb => bitField false va vb) c d a b s

/-- BFXS (R79, R80). -/
def execBfxs (c : Ctl) (d a b : Reg) (s : State) : Out := binX 1 (fun va vb => bitField true va vb) c d a b s

/-- ADDI (R81). -/
def execAddi (c : Ctl) (d a : Reg) (k : BitVec 11) (s : State) : Out :=
  let kk : W64 := k.signExtend 64
  unX (fun va => va + kk) c d a s

/-- ANDI (R81). -/
def execAndi (c : Ctl) (d a : Reg) (k : BitVec 11) (s : State) : Out :=
  let kk : W64 := k.signExtend 64
  unX (fun va => va &&& kk) c d a s

/-- ORI (R81). -/
def execOri (c : Ctl) (d a : Reg) (k : BitVec 11) (s : State) : Out :=
  let kk : W64 := k.signExtend 64
  unX (fun va => va ||| kk) c d a s

/-- XORI (R81). -/
def execXori (c : Ctl) (d a : Reg) (k : BitVec 11) (s : State) : Out :=
  let kk : W64 := k.signExtend 64
  unX (fun va => va ^^^ kk) c d a s

/-- SLLI (R82). -/
def execSlli (c : Ctl) (d a : Reg) (n : BitVec 6) (s : State) : Out := unX (fun va => va <<< n.toNat) c d a s

/-- SRLI (R82). -/
def execSrli (c : Ctl) (d a : Reg) (n : BitVec 6) (s : State) : Out := unX (fun va => va >>> n.toNat) c d a s

/-- SRAI (R82). -/
def execSrai (c : Ctl) (d a : Reg) (n : BitVec 6) (s : State) : Out := unX (fun va => va.sshiftRight n.toNat) c d a s

/-- RORI (R82). -/
def execRori (c : Ctl) (d a : Reg) (n : BitVec 6) (s : State) : Out := unX (fun va => va.rotateRight n.toNat) c d a s

/-- SLLIW (R82). -/
def execSlliw (c : Ctl) (d a : Reg) (n : BitVec 5) (s : State) : Out := unX (fun va => sext32 (low32 va <<< n.toNat)) c d a s

/-- SRLIW (R82). -/
def execSrliw (c : Ctl) (d a : Reg) (n : BitVec 5) (s : State) : Out := unX (fun va => sext32 (low32 va >>> n.toNat)) c d a s

/-- SRAIW (R82). -/
def execSraiw (c : Ctl) (d a : Reg) (n : BitVec 5) (s : State) : Out := unX (fun va => sext32 ((low32 va).sshiftRight n.toNat)) c d a s

/-- LDI (R83). -/
def execLdi (c : Ctl) (d : Reg) (k : BitVec 16) (s : State) : Out := plain c s (fun s => addX s 1 d (k.signExtend 64))

/-- LDHn: one 16-bit field of the register read at issue is replaced (R84). -/
def ldh (n : Nat) (c : Ctl) (d : Reg) (k : BitVec 16) (s : State) : Out :=
  plain c s (fun s => addX s 1 d (setBits (X s d) (16 * n) 16 k.toNat))

/-- LDH1 (R84). -/
def execLdh1 (c : Ctl) (d : Reg) (k : BitVec 16) (s : State) : Out := ldh 1 c d k s
/-- LDH2 (R84). -/
def execLdh2 (c : Ctl) (d : Reg) (k : BitVec 16) (s : State) : Out := ldh 2 c d k s
/-- LDH3 (R84). -/
def execLdh3 (c : Ctl) (d : Reg) (k : BitVec 16) (s : State) : Out := ldh 3 c d k s

/-- SEL (R90). -/
def execSel (c : Ctl) (d a b : Reg) (p : BitVec 6) (s : State) : Out :=
  plain c s (fun s => addX s 1 d (if P s (p.setWidth 7) then X s a else X s b))

/-- ADDSC (R85). -/
def execAddsc (c : Ctl) (d a b : Reg) (h : BitVec 3) (s : State) : Out := binX 1 (fun va vb => va + (vb <<< h.toNat)) c d a b s

/-- LADD: a local address that wraps within 21 bits (R85). -/
def execLadd (c : Ctl) (d a b : Reg) (h : BitVec 3) (s : State) : Out :=
  binX 1 (fun va vb => (va + (vb <<< h.toNat)) &&& 0x1FFFFF) c d a b s

/-- CHKU: BOUND with TVAL va unless va is below vb (R85). -/
def execChku (c : Ctl) (a b : Reg) (s : State) : Out :=
  plain c s (fun s => if (X s a).ult (X s b) then s else addCause s 0x07 (X s a))

/-- CMP (R86). -/
def execCmp (c : Ctl) (q : BitVec 7) (a b : Reg) (cc : BitVec 3) (s : State) : Out :=
  plain c s (fun s => addP s q (cmpCond cc (X s a) (X s b)))

/-- CMPI (R87). -/
def execCmpi (c : Ctl) (q : BitVec 7) (a : Reg) (cc : BitVec 3) (k : BitVec 6) (s : State) : Out :=
  plain c s (fun s => addP s q (cmpiCond cc (X s a) k))

/-- PAND (R88). -/
def execPand (c : Ctl) (q a b : BitVec 7) (s : State) : Out := plain c s (fun s => addP s q (P s a && P s b))
/-- POR (R88). -/
def execPor (c : Ctl) (q a b : BitVec 7) (s : State) : Out := plain c s (fun s => addP s q (P s a || P s b))
/-- PXOR (R88). -/
def execPxor (c : Ctl) (q a b : BitVec 7) (s : State) : Out := plain c s (fun s => addP s q (xor (P s a) (P s b)))
/-- PANDN (R88). -/
def execPandn (c : Ctl) (q a b : BitVec 7) (s : State) : Out := plain c s (fun s => addP s q (P s a && !(P s b)))

/-- PRDG (R89). -/
def execPrdg (c : Ctl) (d : Reg) (g : BitVec 1) (s : State) : Out := plain c s (fun s => addX s 1 d (pGroup s.tile.th g.toNat))
/-- PWRG (R89). -/
def execPwrg (c : Ctl) (g : BitVec 1) (b : Reg) (s : State) : Out := plain c s (fun s => addFlight s 1 false (.pg g (X s b)))

/-- The checks of R92 before a control word is accessed: the cause, if any, with the number in TVAL. -/
def cwCause (n : Nat) (write sup : Bool) : Option Nat :=
  if 0x200 ≤ n then some 0x03
  else if 0x100 ≤ n ∧ sup = false then some 0x03
  else match cwClass n with
    | none => some 0x01
    | some .ur => if write && !sup then some 0x03 else none
    | some _ => none

/-- RDW (R91, R92). -/
def execRdw (c : Ctl) (d : Reg) (n : BitVec 12) (s : State) : Out :=
  plain c s (fun s => match cwCause n.toNat false s.tile.sup with
    | some code => addCause s code (n.setWidth 64)
    | none => addX s 2 d (cwRead s n.toNat))

/-- A write of a word that R116 refuses: XB below 0x1000 or above XBMAX. -/
def xbRefused (t : Tile) (n : Nat) (v : W64) : Bool :=
  decide (n = 0x010) && (decide ((v &&& 0x1FF000).toNat < 0x1000) || decide ((cwGet t 0x011).toNat < (v &&& 0x1FF000).toNat))

/-- WRW (R91, R92, R116): the word takes the value for every bundle issued after this one; a read-only word in supervisor
mode ignores it. -/
def execWrw (c : Ctl) (d : Reg) (n : BitVec 12) (s : State) : Out :=
  plain c s (fun s => match cwCause n.toNat true s.tile.sup with
    | some code => addCause s code (n.setWidth 64)
    | none =>
      if xbRefused s.tile n.toNat (X s d) then addCause s 0x07 (X s d)
      else if cwClass n.toNat = some .ur then s
      else addFlight s 1 false (.cw n.toNat (X s d)))

end Sys2Proof.Machine
end

