-- ==== Sys2Proof/Machine/Vector.lean ====
section
/-! DEFINITION. Vector instructions (07). -/

namespace Sys2Proof.Machine

open Sys2Proof

/-! ## Working format, elements and masks (R135 to R138) -/

/-- The pending format that a V slot of the bundle consumes (R137, R167). -/
def vPfx (s : State) : Option Pfx :=
  match s.tile.th.pfx with
  | some p => if p.vec then some p else none
  | none => none

/-- The working format: the pending fa, or the default (R137). -/
def workFmt (s : State) (dflt : Nat) : Nat := match vPfx s with
  | some p => p.fa.toNat
  | none => dflt

/-- A pending V-target format with g or zp set is refused (R137). -/
def pfxPlain (s : State) : Bool := match vPfx s with
  | some p => decide (p.g = 0) && !p.zp
  | none => true

/-- A V slot. An F64 form of VEC0 or VEC1 holds the float datapath whatever its guard (R140). -/
def vSlot (fp : Bool) (c : Ctl) (s : State) (f : State → State) : Out :=
  unitSlot c (if fp && decide (workFmt s 0 = 11) then updIss s (fun i => { i with hold64 := true }) else s)
    (fun s => if pfxPlain s then f s else illop s)

/-- A V slot with a working format among those its form accepts; any other raises ILLOP (R137). -/
def vFmt (fp : Bool) (dflt : Nat) (ok : List Nat) (c : Ctl) (s : State) (f : Nat → State → State) : Out :=
  vSlot fp c s (fun s => if ok.contains (workFmt s dflt) then f (workFmt s dflt) s else illop s)

/-- The elements of a mask: those whose lane's bit is 1; for F64 bit 2j (R138). -/
def enabled (w : Nat) (mk : W64) : List Nat := (upto (2048 / w)).filter (fun e => mk.getLsbD (w * e / 32))

/-- The bits that elements of width `w` occupy. -/
def elemMask (w : Nat) (es : List Nat) : BitVec 2048 := BitVec.ofNat 2048 (es.foldl (fun v e => v + (2 ^ w - 1) * 2 ^ (w * e)) 0)

/-- A vector result of latency `n` that writes the elements listed and no other bit (R138). -/
def addV (s : State) (n : Nat) (d : Reg) (w : Nat) (els : List (Nat × Nat)) : State :=
  addFlight s n true (.v d (elemMask w (els.map (·.1)))
    (BitVec.ofNat 2048 (els.foldl (fun v p => v + (p.2 % 2 ^ w) * 2 ^ (w * p.1)) 0)))

/-- A merging form: each enabled element takes the value of `f` (R138). -/
def mapV (s : State) (n : Nat) (d : Reg) (w : Nat) (mk : BitVec 3) (f : Nat → Nat) : State :=
  addV s n d w ((enabled w (M s mk)).map (fun e => (e, f e)))

def rmode (s : State) : W64 := cwGet s.tile 0x001
/-- RMODE.SAT (R55). -/
def rsat (s : State) : Bool := (rmode s).getLsbD 3
/-- The generator's state: as the bundle's earlier elements left it (R58). -/
def seedOf (s : State) : W64 := s.tile.iss.seed.getD (cwGet s.tile 0x002)
def setSeed (s : State) (v : W64) : State := updIss s (fun i => { i with seed := some v })

/-- Elements rounded in ascending order; under SR each advances the generator once (R58). -/
def roundList (s : State) : List Nat → (Rnd → Nat → Nat) → W64 → List (Nat × Nat) × W64
  | [], _, g => ([], g)
  | e :: r, f, g =>
    let (g', x) := if isSr (rmode s) then nextRandom g else (g, 0)
    let (l, g'') := roundList s r f g'
    ((e, f (modeOf (rmode s) x) e) :: l, g'')

/-- A merging form that rounds each element it writes (R142). -/
def roundV (s : State) (n : Nat) (d : Reg) (w : Nat) (mk : BitVec 3) (f : Rnd → Nat → Nat) : State :=
  let (els, g) := roundList s (enabled w (M s mk)) f (seedOf s)
  addV (if isSr (rmode s) then setSeed s g else s) n d w els

/-- RMODE.MODE with SR taken as RNE (R59). -/
def rneMode (s : State) : Rnd := modeOf (rmode s) 0 |> fun m => match m with
  | .sr _ => .rne
  | m => m

def isRdn (s : State) : Bool := bitsOf (rmode s) 0 3 = 2

/-- The float format of a working format. -/
def fmtOf (code : Nat) : FloatFmt := (codeFloat code).getD fF32

/-! ## Float arithmetic: VEC0 (R142, R143) -/

/-- The arithmetic forms of VEC0: one rounding of an exact value. -/
def vecFloat (n : Nat) (x : Bool → Num → Num → Num → Num) (c : Ctl) (d a b : Reg) (mk : BitVec 3) (s : State) : Out :=
  vFmt true 0 [0, 11, 1, 2] c s (fun code s =>
    let f := fmtOf code
    let at_ (v : BitVec 2048) (e : Nat) : Num := floatVal f (elemOf v f.width e)
    roundV s n d f.width mk (fun mode e => roundTo f mode false (x (isRdn s) (at_ (V s a) e) (at_ (V s b) e) (at_ (V s d) e))))

/-- The lesser or greater of two elements, as bits: canonical NaN for a NaN source, −0 below +0 (R143). -/
def minMaxBits (f : FloatFmt) (greater : Bool) (p q : Nat) : Nat :=
  let x := floatVal f p
  let y := floatVal f q
  if numIsNan x || numIsNan y then f.nan.getD 0 else
  let pneg := decide (2 ^ (f.width - 1) ≤ p)
  let less := if numIsZero x && numIsZero y then pneg else decide (numCmp x y ≤ 0)
  if greater then (if less then q else p) else (if less then p else q)

def vecMinMax (greater : Bool) (c : Ctl) (d a b : Reg) (mk : BitVec 3) (s : State) : Out :=
  vFmt true 0 [0, 11, 1, 2] c s (fun code s =>
    let f := fmtOf code
    mapV s 4 d f.width mk (fun e => minMaxBits f greater (elemOf (V s a) f.width e) (elemOf (V s b) f.width e)))

/-- VADD (R142, R143). -/
def execVadd (c : Ctl) (d a b : Reg) (m : BitVec 3) (s : State) : Out := vecFloat 4 (fun r x y _ => numAdd r x y) c d a b m s

/-- VSUB (R142, R143). -/
def execVsub (c : Ctl) (d a b : Reg) (m : BitVec 3) (s : State) : Out := vecFloat 4 (fun r x y _ => numAdd r x (numNeg y)) c d a b m s

/-- VMUL (R142, R143). -/
def execVmul (c : Ctl) (d a b : Reg) (m : BitVec 3) (s : State) : Out := vecFloat 4 (fun _ x y _ => numMul x y) c d a b m s

/-- VFMA (R142, R143). -/
def execVfma (c : Ctl) (d a b : Reg) (m : BitVec 3) (s : State) : Out := vecFloat 5 (fun r x y z => numAdd r (numMul x y) z) c d a b m s

/-- VFNMA (R142, R143). -/
def execVfnma (c : Ctl) (d a b : Reg) (m : BitVec 3) (s : State) : Out := vecFloat 5 (fun r x y z => numAdd r z (numNeg (numMul x y))) c d a b m s

/-- VFMS (R142, R143). -/
def execVfms (c : Ctl) (d a b : Reg) (m : BitVec 3) (s : State) : Out := vecFloat 5 (fun r x y z => numAdd r (numMul x y) (numNeg z)) c d a b m s

/-- VMIN (R142, R143). -/
def execVmin (c : Ctl) (d a b : Reg) (m : BitVec 3) (s : State) : Out := vecMinMax false c d a b m s

/-- VMAX (R142, R143). -/
def execVmax (c : Ctl) (d a b : Reg) (m : BitVec 3) (s : State) : Out := vecMinMax true c d a b m s

/-! ## Special functions: VEC1 (R144, R145) -/

/-- A F32 value within one ulp of an exact number, chosen by `k` among those that are; the exact number is not zero (R144). -/
def withinUlp (exact : Num) (k : Nat) : Nat :=
  let lo := roundTo fF32 .rtz false exact
  let sign := lo / 2 ^ 31 * 2 ^ 31
  let mag := lo % 2 ^ 31
  let ulp : Num := match exact with
    | .fin _ m e => .fin false 1 (max ((Nat.log2 m : Int) + e) (-126) - 23)
    | _ => .fin false 0 0
  let cand := sign + (mag + k % 4 - 2)
  let v := floatVal fF32 cand
  let near := decide (numCmp exact (numAdd false v ulp) ≤ 0) && decide (0 ≤ numCmp exact (numAdd false v (numNeg ulp)))
  if near && decide (mag + k % 4 - 2 ≤ fF32.top) then cand else lo

/-- The exact number exceeds the range of F32 (R145). -/
def beyondF32 (exact : Num) : Bool := match exact with
  | .fin _ m e => decide (0 < numCmp (.fin false m e) (floatVal fF32 fF32.top))
  | _ => false

/-- 1 / x in F32 (R144, R145). -/
def rcpF32 (bits : Nat) : Nat :=
  match floatVal fF32 bits with
  | .nan => 0x7FC00000
  | .inf neg => if neg then 0x80000000 else 0
  | .fin neg m e =>
    if m = 0 then (if neg then 0xFF800000 else 0x7F800000) else
    let x := numDiv 64 (.fin false 1 0) (.fin neg m e)
    if beyondF32 x then (if neg then 0xFF800000 else 0x7F800000) else withinUlp x (Config.vrcpPick (BitVec.ofNat 32 bits)).toNat

/-- 1 / √x in F32 (R144, R145). -/
def rsqF32 (bits : Nat) : Nat :=
  match floatVal fF32 bits with
  | .nan => 0x7FC00000
  | .inf neg => if neg then 0x7FC00000 else 0
  | .fin neg m e =>
    if m = 0 then (if neg then 0xFF800000 else 0x7F800000)
    else if neg then 0x7FC00000
    else withinUlp (numDiv 64 (.fin false 1 0) (numSqrt 64 (.fin false m e))) (Config.vrsqPick (BitVec.ofNat 32 bits)).toNat

/-- The integer value of a number, where it has one. -/
def integral : Num → Option Int
  | .fin neg m e =>
    if m = 0 then some 0
    else if 0 ≤ e then some (numToInt (.fin neg m e))
    else if m % 2 ^ (-e).toNat = 0 then some (if neg then -((m >>> (-e).toNat : Nat) : Int) else ((m >>> (-e).toNat : Nat) : Int)) else none
  | _ => none

/-! The exact values of 2^x, log2 x, sin(π x) and tanh x are worked out in fixed point, 320 bits behind the point: enough to tell on which side of
a bound of R144 they lie. A result is a free value within that bound (log 6). -/

/-- A magnitude in fixed point. -/
def fixOf (m : Nat) (e : Int) : Nat := if 0 ≤ e + 320 then m <<< (e + 320).toNat else m >>> (-(e + 320)).toNat

/-- ln 2 and π in fixed point. -/
def fixLn2 : Nat := 0xb17217f7d1cf79abc9e3b39803f2f6af40f343267298b62d8a0d175b8baafa2be7b876206debac98
def fixPi : Nat := 0x3243f6a8885a308d313198a2e03707344a4093822299f31d0082efa98ec4e6c89452821e638d01377

/-- t + t·y/k + t·y²/(k·(k + 1)) + … in fixed point. -/
def expTail (y : Nat) : Nat → Nat → Nat → Nat
  | 0, _, _ => 0
  | fuel + 1, k, t => t + expTail y fuel (k + 1) (t * y / 2 ^ 320 / k)

/-- 2^f in fixed point, 0 ≤ f < 1. -/
def fixExp2 (f : Nat) : Nat := expTail (f * fixLn2 / 2 ^ 320) 80 1 (2 ^ 320)

/-- The first digits behind the point of log2 y, 1 ≤ y < 2. -/
def logDigits : Nat → Nat → Nat
  | 0, _ => 0
  | k + 1, y =>
    let z := y * y / 2 ^ 320
    if 2 ^ 321 ≤ z then 2 ^ k + logDigits k (z / 2) else logDigits k z

/-- 1 − q/(2k·(2k + 1))·(1 − …) in fixed point. -/
def sinTail (q : Nat) : Nat → Nat → Nat
  | 0, _ => 2 ^ 320
  | fuel + 1, k => 2 ^ 320 - q * sinTail q fuel (k + 1) / 2 ^ 320 / (2 * k * (2 * k + 1))

/-- `n` times the weight of the least significant bit of F32 at a number (R144). -/
def ulps (n : Nat) : Num → Num
  | .fin _ m e => .fin false n (max ((Nat.log2 m : Int) + e) (-126) - 23)
  | x => x

/-- An absolute bound of 2^−n (R144). -/
def apart (n : Nat) : Num := .fin false 1 (-(n : Int))

/-- The F32 value `cand` where it lies within `tol` of `x`, else the nearest one (R144, log 6). -/
def within (x tol : Num) (cand : Nat) : Nat :=
  match floatVal fF32 cand with
  | .fin neg m e =>
    let v : Num := .fin neg m e
    if numCmp x (numAdd false v tol) ≤ 0 ∧ 0 ≤ numCmp x (numAdd false v (numNeg tol)) then cand else roundTo fF32 .rne false x
  | _ => roundTo fF32 .rne false x

/-- 2^x for a finite x between −200 and 128. -/
def exp2Num (neg : Bool) (m : Nat) (e : Int) : Num :=
  let v : Int := if neg then -(fixOf m e : Int) else fixOf m e
  .fin false (fixExp2 (v % 2 ^ 320).toNat) (v / 2 ^ 320 - 320)

/-- 2^x in F32: exact for integral x that F32 can give; +∞ from 128 on; below 2^−126 a subnormal or +0; else within 2 ulp (R144, R145). -/
def exp2F32 (bits : Nat) : Nat :=
  let pick := (Config.vexp2 (BitVec.ofNat 32 bits)).toNat % 2 ^ 31
  match floatVal fF32 bits with
  | .nan => 0x7FC00000
  | .inf neg => if neg then 0 else 0x7F800000
  | .fin neg m e =>
    let x : Num := .fin neg m e
    if 0 ≤ numCmp x (.fin false 128 0) then 0x7F800000
    else if numCmp x (.fin true 200 0) ≤ 0 then within (.fin false 0 0) (ulps 2 (.fin false 1 (-149))) pick
    else
      let y := exp2Num neg m e
      match integral x with
      | some n => if -149 ≤ n then roundTo fF32 .rne false (.fin false 1 n) else within y (ulps 2 y) pick
      | none => if numCmp x (.fin true 126 0) < 0 then min 0x7FFFFF (within y (ulps 2 y) pick) else within y (ulps 2 y) pick

/-- log2 of a positive number, to 256 digits behind the point. -/
def log2Num (m : Nat) (e : Int) : Num :=
  let k := Nat.log2 m
  let l : Int := ((k : Int) + e) * 2 ^ 256 + logDigits 256 (m <<< 320 >>> k)
  .fin (decide (l < 0)) l.natAbs (-256)

/-- log2 x in F32: exact for x = 2^n; within 2 ulp outside [0.5, 2], within 2^−22 inside (R144, R145). -/
def log2F32 (bits : Nat) : Nat :=
  match floatVal fF32 bits with
  | .nan => 0x7FC00000
  | .inf neg => if neg then 0x7FC00000 else 0x7F800000
  | .fin neg m e =>
    if m = 0 then 0xFF800000
    else if neg then 0x7FC00000
    else if m = 2 ^ Nat.log2 m then roundTo fF32 .rne false (numOfInt ((Nat.log2 m : Int) + e))
    else
      let y := log2Num m e
      let n : Int := (Nat.log2 m : Int) + e
      within y (if n = 0 ∨ n = -1 then apart 22 else ulps 2 y) (Config.vlog2 (BitVec.ofNat 32 bits)).toNat

/-- sin(π x) for a number that is no integer. -/
def sinpNum (neg : Bool) (m : Nat) (e : Int) : Num :=
  let r := fixOf m e % 2 ^ 321
  let a := r % 2 ^ 320
  let y := min a (2 ^ 320 - a) * fixPi / 2 ^ 320
  .fin (neg != decide (2 ^ 320 ≤ r)) (y * sinTail (y * y / 2 ^ 320) 40 1 / 2 ^ 320) (-320)

/-- sin(π x) in F32: a zero of the sign of x for integral x; else within 2^−22 (R144, R145). -/
def sinpF32 (bits : Nat) : Nat :=
  match floatVal fF32 bits with
  | .nan => 0x7FC00000
  | .inf _ => 0x7FC00000
  | .fin neg m e => match integral (.fin neg m e) with
    | some _ => bits / 2 ^ 31 * 2 ^ 31
    | none => within (sinpNum neg m e) (apart 22) (Config.vsinp (BitVec.ofNat 32 bits)).toNat

/-- tanh x for a finite x other than 0: below 2^−30 a little less than x in magnitude, from 24 on a little less than 1, between them
(E − 1)/(E + 1) with E = 2^(2x/ln 2). -/
def tanhNum (neg : Bool) (m : Nat) (e : Int) : Num :=
  if numCmp (.fin false m e) (.fin false 1 (-30)) < 0 then numAdd false (.fin neg m e) (.fin (!neg) (m ^ 3) (3 * e - 2))
  else if 0 ≤ numCmp (.fin false m e) (.fin false 24 0) then .fin neg (2 ^ 68 - 1) (-68)
  else
    let t := 2 * fixOf m e * 2 ^ 320 / fixLn2
    let E := fixExp2 (t % 2 ^ 320) <<< (t / 2 ^ 320)
    .fin neg ((E - 2 ^ 320) * 2 ^ 320 / (E + 2 ^ 320)) (-320)

/-- tanh x in F32: within 2 ulp or within 2^−24, whichever is smaller (R144, R145). -/
def tanhF32 (bits : Nat) : Nat :=
  match floatVal fF32 bits with
  | .nan => 0x7FC00000
  | .inf neg => if neg then 0xBF800000 else 0x3F800000
  | .fin neg m e =>
    if m = 0 then bits else
    let y := tanhNum neg m e
    let two := ulps 2 y
    within y (if numCmp two (apart 24) ≤ 0 then two else apart 24) (Config.vtanh (BitVec.ofNat 32 bits)).toNat

/-- Functions 0 to 5: the F32 result of the widened source, converted by RNE (R144). -/
def vecSpecial (g : Nat → Nat) (c : Ctl) (d a : Reg) (mk : BitVec 3) (s : State) : Out :=
  vFmt true 0 [0, 1, 2] c s (fun code s =>
    let f := fmtOf code
    mapV s 8 d f.width mk (fun e =>
      roundTo f .rne false (floatVal fF32 (g (roundTo fF32 .rne false (floatVal f (elemOf (V s a) f.width e)))))))

/-- VRCP (R144, R145). -/
def execVrcp (c : Ctl) (d a : Reg) (m : BitVec 3) (s : State) : Out := vecSpecial rcpF32 c d a m s

/-- VRSQ (R144, R145). -/
def execVrsq (c : Ctl) (d a : Reg) (m : BitVec 3) (s : State) : Out := vecSpecial rsqF32 c d a m s

/-- VEXP2 (R144, R145). -/
def execVexp2 (c : Ctl) (d a : Reg) (m : BitVec 3) (s : State) : Out := vecSpecial exp2F32 c d a m s

/-- VLOG2 (R144, R145). -/
def execVlog2 (c : Ctl) (d a : Reg) (m : BitVec 3) (s : State) : Out := vecSpecial log2F32 c d a m s

/-- VSINP (R144, R145). -/
def execVsinp (c : Ctl) (d a : Reg) (m : BitVec 3) (s : State) : Out := vecSpecial sinpF32 c d a m s

/-- VTANH (R144, R145). -/
def execVtanh (c : Ctl) (d a : Reg) (m : BitVec 3) (s : State) : Out := vecSpecial tanhF32 c d a m s

/-- VDIV (R144, R145): one rounding by RMODE, SR taken as RNE. -/
def execVdiv (c : Ctl) (d a b : Reg) (m : BitVec 3) (s : State) : Out :=
  vFmt true 0 [0, 1, 2, 11] c s (fun code s =>
    let f := fmtOf code
    mapV s 8 d f.width m (fun e => roundTo f (rneMode s) false
      (numDiv 128 (floatVal f (elemOf (V s a) f.width e)) (floatVal f (elemOf (V s b) f.width e)))))

/-- VSQRT (R144, R145). -/
def execVsqrt (c : Ctl) (d a : Reg) (m : BitVec 3) (s : State) : Out :=
  vFmt true 0 [0, 1, 2, 11] c s (fun code s =>
    let f := fmtOf code
    mapV s 8 d f.width m (fun e => roundTo f (rneMode s) false (numSqrt 128 (floatVal f (elemOf (V s a) f.width e)))))

/-! ## Integer arithmetic: VEC2 (R146) -/

/-- Width and signedness of an integer working format. -/
def intOf (code : Nat) : Nat × Bool := (codeInt code).getD (32, true)

def vecInt (g : Nat → Bool → Int → Int → Int) (c : Ctl) (d a b : Reg) (mk : BitVec 3) (s : State) : Out :=
  vFmt false 12 [12, 13, 9, 14] c s (fun code s =>
    let (w, sg) := intOf code
    mapV s 2 d w mk (fun e => intBits w (g w sg (intVal w sg (elemOf (V s a) w e)) (intVal w sg (elemOf (V s b) w e)))))

/-- VIADD (R146). -/
def execViadd (c : Ctl) (d a b : Reg) (m : BitVec 3) (s : State) : Out := vecInt (fun _ _ x y => x + y) c d a b m s

/-- VISUB (R146). -/
def execVisub (c : Ctl) (d a b : Reg) (m : BitVec 3) (s : State) : Out := vecInt (fun _ _ x y => x - y) c d a b m s

/-- VIMUL (R146). -/
def execVimul (c : Ctl) (d a b : Reg) (m : BitVec 3) (s : State) : Out := vecInt (fun _ _ x y => x * y) c d a b m s

/-- VIMULH (R146). -/
def execVimulh (c : Ctl) (d a b : Reg) (m : BitVec 3) (s : State) : Out := vecInt (fun w _ x y => (x * y) / (2 ^ w : Nat)) c d a b m s

/-- VIADDS (R146). -/
def execViadds (c : Ctl) (d a b : Reg) (m : BitVec 3) (s : State) : Out := vecInt (fun w g x y => clampInt w g (x + y)) c d a b m s

/-- VISUBS (R146). -/
def execVisubs (c : Ctl) (d a b : Reg) (m : BitVec 3) (s : State) : Out := vecInt (fun w g x y => clampInt w g (x - y)) c d a b m s

/-- VIMIN (R146). -/
def execVimin (c : Ctl) (d a b : Reg) (m : BitVec 3) (s : State) : Out := vecInt (fun _ _ x y => min x y) c d a b m s

/-- VIMAX (R146). -/
def execVimax (c : Ctl) (d a b : Reg) (m : BitVec 3) (s : State) : Out := vecInt (fun _ _ x y => max x y) c d a b m s

/-! ## Logic and shifts: VEC3 (R147) -/

/-- The codes of widths 8, 16, 32 and 64 that are neither block-scaled nor group-scaled. -/
def wideFmts : List Nat := [0, 1, 2, 3, 4, 9, 11, 12, 13, 14]

/-- Logic on whole elements; V[d] is the third source of VBSL. -/
def vecLogic (g : Nat → Nat → Nat → Nat → Nat) (ok : List Nat) (c : Ctl) (d a b : Reg) (mk : BitVec 3) (s : State) : Out :=
  vFmt false 12 ok c s (fun code s =>
    let w := codeWidth code
    mapV s 2 d w mk (fun e => g w (elemOf (V s a) w e) (elemOf (V s b) w e) (elemOf (V s d) w e)))

/-- VAND (R147). -/
def execVand (c : Ctl) (d a b : Reg) (m : BitVec 3) (s : State) : Out := vecLogic (fun _ x y _ => x &&& y) wideFmts c d a b m s

/-- VOR (R147). -/
def execVor (c : Ctl) (d a b : Reg) (m : BitVec 3) (s : State) : Out := vecLogic (fun _ x y _ => x ||| y) wideFmts c d a b m s

/-- VXOR (R147). -/
def execVxor (c : Ctl) (d a b : Reg) (m : BitVec 3) (s : State) : Out := vecLogic (fun _ x y _ => x ^^^ y) wideFmts c d a b m s

/-- VANDN (R147). -/
def execVandn (c : Ctl) (d a b : Reg) (m : BitVec 3) (s : State) : Out := vecLogic (fun w x y _ => x &&& (2 ^ w - 1 - y)) wideFmts c d a b m s

/-- VSLL (R147). -/
def execVsll (c : Ctl) (d a b : Reg) (m : BitVec 3) (s : State) : Out := vecLogic (fun w x y _ => x <<< (y % w)) [12, 14, 13, 9] c d a b m s

/-- VSRL (R147). -/
def execVsrl (c : Ctl) (d a b : Reg) (m : BitVec 3) (s : State) : Out := vecLogic (fun w x y _ => x >>> (y % w)) [12, 14, 13, 9] c d a b m s

/-- VSRA (R147). -/
def execVsra (c : Ctl) (d a b : Reg) (m : BitVec 3) (s : State) : Out := vecLogic (fun w x y _ => intBits w (intVal w true x / (2 ^ (y % w) : Nat))) [12, 13, 9] c d a b m s

/-- VBSL (R147). -/
def execVbsl (c : Ctl) (d a b : Reg) (m : BitVec 3) (s : State) : Out := vecLogic (fun w x y z => (z &&& x) ||| ((2 ^ w - 1 - z) &&& y)) wideFmts c d a b m s

/-! ## Compares to masks: VEC4 (R148) -/

/-- Every bit of M[d] takes its lane's condition, 0 where the mask bit is 0; for F64 both bits of an element take bit 2j's. -/
def vecCmp (g : Num → Num → Bool) (h : Int → Int → Bool) (dflt : Nat) (ok : List Nat) (c : Ctl) (d : BitVec 3) (a b : Reg)
    (mk : BitVec 3) (s : State) : Out :=
  vFmt false dflt ok c s (fun code s =>
    let w := codeWidth code
    let cond (e : Nat) : Bool := match codeInt code with
      | some (_, sg) => h (intVal w sg (elemOf (V s a) w e)) (intVal w sg (elemOf (V s b) w e))
      | none => g (floatVal (fmtOf code) (elemOf (V s a) w e)) (floatVal (fmtOf code) (elemOf (V s b) w e))
    let on := (enabled w (M s mk)).filter cond
    addFlight s 2 true (.m d (BitVec.ofNat 64 (on.foldl (fun v e => v + (2 ^ (w / 32) - 1) * 2 ^ (w / 32 * e)) 0))))

def numOrdered (x y : Num) : Bool := !(numIsNan x) && !(numIsNan y)

/-- VCEQ (R148). -/
def execVceq (c : Ctl) (d : BitVec 3) (a b : Reg) (m : BitVec 3) (s : State) : Out := vecCmp (fun x y => numOrdered x y && decide (numCmp x y = 0)) (fun x y => decide (x = y)) 0 [0, 11, 12, 14] c d a b m s

/-- VCNE (R148). -/
def execVcne (c : Ctl) (d : BitVec 3) (a b : Reg) (m : BitVec 3) (s : State) : Out := vecCmp (fun x y => !(numOrdered x y) || decide (numCmp x y ≠ 0)) (fun x y => decide (x ≠ y)) 0 [0, 11, 12, 14] c d a b m s

/-- VCLT (R148). -/
def execVclt (c : Ctl) (d : BitVec 3) (a b : Reg) (m : BitVec 3) (s : State) : Out := vecCmp (fun x y => numOrdered x y && decide (numCmp x y < 0)) (fun x y => decide (x < y)) 0 [0, 11, 12, 14] c d a b m s

/-- VCLE (R148). -/
def execVcle (c : Ctl) (d : BitVec 3) (a b : Reg) (m : BitVec 3) (s : State) : Out := vecCmp (fun x y => numOrdered x y && decide (numCmp x y ≤ 0)) (fun x y => decide (x ≤ y)) 0 [0, 11, 12, 14] c d a b m s

/-- VCUN (R148). -/
def execVcun (c : Ctl) (d : BitVec 3) (a b : Reg) (m : BitVec 3) (s : State) : Out := vecCmp (fun x y => !(numOrdered x y)) (fun _ _ => false) 0 [0, 11] c d a b m s

/-- VCTST (R148). -/
def execVctst (c : Ctl) (d : BitVec 3) (a b : Reg) (m : BitVec 3) (s : State) : Out := vecCmp (fun _ _ => false) (fun x y => decide (intBits 32 x &&& intBits 32 y ≠ 0)) 12 [12, 14] c d a b m s

/-! ## Conversions: VEC5 (R149 to R151) -/

/-- The codes VCVT accepts on either side (R149). -/
def cvtFmts : List Nat := [0, 1, 2, 3, 4, 5, 6, 9, 10, 11, 12, 13, 14]

/-- The value of a source element, an MX element with its scale byte (R51). -/
def srcElem (code : Nat) (bits scale : Nat) : Src :=
  match codeInt code with
  | some (w, sg) => .int (intVal w sg bits)
  | none =>
    let v := floatVal (fmtOf code) bits
    if isMx code then .flt (if scale = 255 then .nan else numMul v (.fin false 1 ((scale : Int) - 127))) else .flt v

def srcNum : Src → Num
  | .flt n => n
  | .int i => numOfInt i

/-- Floor(Log2) of a non-zero finite magnitude. -/
def numLog : Num → Int
  | .fin _ m e => (Nat.log2 m : Int) + e
  | _ => 0

/-- A number divided by 2^k. -/
def numScale (x : Num) (k : Int) : Num := match x with
  | .fin neg m e => .fin neg m (e - k)
  | y => y

/-- A block into an MX format: its scale byte and the function that gives each element, before rounding (R65). -/
def mxBlock (code : Nat) (xs : List Num) : Nat × (Rnd → Num → Nat) :=
  let f := fmtOf code
  if xs.any (fun x => match x with
      | .fin _ _ _ => false
      | _ => true) then (255, fun _ _ => 0)
  else if xs.all numIsZero then (0, fun _ x => match x with
      | .fin neg _ _ => if neg then 2 ^ (f.width - 1) else 0
      | _ => 0)
  else
    let top := (xs.filter (fun x => !numIsZero x)).foldl (fun (a : Option Int) x => some (match a with
      | some b => max b (numLog x)
      | none => numLog x)) none
    let e := max (-127) (min 127 (top.getD 0 - (if code = 5 then 8 else 2)))
    ((e + 127).toNat, fun mode x => roundTo f mode true (numScale x e))

/-- VCVT (R149, R150): the source code is the pending fa, the destination code its fb; the part is b. DESIGN CHOICE (log 100): where the MX
side is the wider one, whose elements R149 keeps at 0 to 63 in every part, each element has the scale of the block that it stands in. -/
def execVcvt (c : Ctl) (d a : Reg) (part : BitVec 5) (m : BitVec 3) (s : State) : Out :=
  vSlot false c s (fun s => match vPfx s with
    | none => illop s
    | some p =>
      let src := p.fa.toNat
      let dst := p.fb.toNat
      let n := if src = 11 ∨ dst = 11 then 32 else 64
      let ws := codeWidth src
      let wd := codeWidth dst
      let wn := min ws wd
      let k := part.toNat
      if !(cvtFmts.contains src) || !(cvtFmts.contains dst) || decide (2048 / (n * wn) ≤ k) || (isMx src && decide (a = 31))
          || (isMx dst && (decide (d = 31) || decide (m ≠ 0))) then illop s
      else
        let srcAt (j : Nat) := j + if ws = wn then k * n else 0
        let dstAt (j : Nat) := j + if wd = wn then k * n else 0
        let val (j : Nat) : Src := srcElem src (elemOf (V s a) ws (srcAt j)) (elemOf (V s (a + 1)) 8 (srcAt j / 32))
        if isMx dst then
          let blocks := (upto (n / 32)).map (fun q => mxBlock dst ((upto 32).map (fun j => srcNum (val (32 * q + j)))))
          let (els, g) := roundList s (upto n) (fun mode j => (blocks.getD (j / 32) (0, fun _ _ => 0)).2 mode (srcNum (val j))) (seedOf s)
          let s := if isSr (rmode s) then setSeed s g else s
          let s := addV s 4 d wd (els.map (fun q => (dstAt q.1, q.2)))
          addV s 4 (d + 1) 8 (blocks.zipIdx.map (fun q => (dstAt 0 / 32 + q.2, q.1.1)))
        else
          let on := (upto n).filter (fun j => (M s m).getLsbD (wd * dstAt j / 32))
          let (els, g) := roundList s on (fun mode j => convert dst mode (rsat s) (val j)) (seedOf s)
          addV (if isSr (rmode s) then setSeed s g else s) 4 d wd (els.map (fun q => (dstAt q.1, q.2))))

/-- An element rounded to an integral value of its format (R151). -/
def rintBits (f : FloatFmt) (mode : Rnd) (bits : Nat) : Nat :=
  match floatVal f bits with
  | .nan => f.nan.getD 0
  | .inf _ => bits
  | .fin neg m e =>
    let i := roundInt mode (.fin neg m e)
    if i = 0 then (if neg then 2 ^ (f.width - 1) else 0) else roundTo f .rne false (numOfInt i)

/-- VRINT (R151). -/
def execVrint (c : Ctl) (d a : Reg) (m : BitVec 3) (s : State) : Out :=
  vFmt false 0 [0, 11, 1, 2] c s (fun code s =>
    let f := fmtOf code
    roundV s 4 d f.width m (fun mode e => rintBits f mode (elemOf (V s a) f.width e)))

/-! ## Moves and selects: VEC6 (R152) -/

/-- VMOV (R152). -/
def execVmov (c : Ctl) (d a : Reg) (m : BitVec 3) (s : State) : Out :=
  vFmt false 12 (wideFmts ++ [5]) c s (fun code s => mapV s 2 d (codeWidth code) m (fun e => elemOf (V s a) (codeWidth code) e))

/-- VSEL: every element is written (R152). -/
def execVsel (c : Ctl) (d a b : Reg) (m : BitVec 3) (s : State) : Out :=
  vFmt false 12 (wideFmts ++ [5]) c s (fun code s =>
    let w := codeWidth code
    addV s 2 d w ((upto (2048 / w)).map (fun e => (e, if (M s m).getLsbD (w * e / 32) then elemOf (V s a) w e else elemOf (V s b) w e))))

/-- VABS and VNEG: the sign bit of a float, the value of an integer (R152). -/
def vecSign (g : Nat → Nat → Nat) (h : Int → Int) (c : Ctl) (d a : Reg) (mk : BitVec 3) (s : State) : Out :=
  vFmt false 0 [0, 11, 1, 2, 12, 13, 9] c s (fun code s =>
    let w := codeWidth code
    mapV s 2 d w mk (fun e => match codeInt code with
      | some (_, sg) => intBits w (h (intVal w sg (elemOf (V s a) w e)))
      | none => g w (elemOf (V s a) w e)))

/-- VABS (R152). -/
def execVabs (c : Ctl) (d a : Reg) (m : BitVec 3) (s : State) : Out :=
  vecSign (fun w x => x % 2 ^ (w - 1)) (fun i => if i < 0 then -i else i) c d a m s
/-- VNEG (R152). -/
def execVneg (c : Ctl) (d a : Reg) (m : BitVec 3) (s : State) : Out :=
  vecSign (fun w x => x ^^^ 2 ^ (w - 1)) (fun i => -i) c d a m s

/-- VCPYS (R152). -/
def execVcpys (c : Ctl) (d a b : Reg) (m : BitVec 3) (s : State) : Out :=
  vFmt false 0 [0, 11, 1, 2] c s (fun code s =>
    let w := codeWidth code
    mapV s 2 d w m (fun e => elemOf (V s a) w e % 2 ^ (w - 1) + elemOf (V s b) w e / 2 ^ (w - 1) * 2 ^ (w - 1)))

/-! ## Reductions and scans: VEC7 (R153 to R155) -/

/-- One level of the pairwise tree. -/
def pairUp (node : Nat → Nat → Nat) : List Nat → List Nat
  | x :: y :: r => node x y :: pairUp node r
  | l => l

/-- The pairwise tree over a power of two of elements (R154). -/
def treeFold (node : Nat → Nat → Nat) : Nat → List Nat → List Nat
  | 0, l => l
  | k + 1, l => treeFold node k (pairUp node l)

/-- Element values with the identity for disabled elements. -/
def withIdentity (s : State) (a : Reg) (w : Nat) (mk : BitVec 3) (ident : Nat) : List Nat :=
  (upto (2048 / w)).map (fun e => if (M s mk).getLsbD (w * e / 32) then elemOf (V s a) w e else ident)

/-- A node of a float sum: one rounding, SR taken as RNE (R154). -/
def sumNode (s : State) (f : FloatFmt) (x y : Nat) : Nat := roundTo f (rneMode s) false (numAdd (isRdn s) (floatVal f x) (floatVal f y))

/-- A float reduction: element 0 and zero everywhere else (R154). -/
def vecReduceF (ident : FloatFmt → Nat) (node : State → FloatFmt → Nat → Nat → Nat) (c : Ctl) (d a : Reg) (mk : BitVec 3)
    (s : State) : Out :=
  vFmt false 0 [0, 11, 1, 2] c s (fun code s =>
    let f := fmtOf code
    let r := (treeFold (node s f) 11 (withIdentity s a f.width mk (ident f))).headD 0
    addFlight s 8 true (.v d (BitVec.allOnes 2048) (BitVec.ofNat 2048 r)))

def negZero (f : FloatFmt) : Nat := 2 ^ (f.width - 1)

/-- VFRSUM (R154). -/
def execVfrsum (c : Ctl) (d a : Reg) (m : BitVec 3) (s : State) : Out := vecReduceF negZero sumNode c d a m s
/-- VFRMAX (R154). -/
def execVfrmax (c : Ctl) (d a : Reg) (m : BitVec 3) (s : State) : Out :=
  vecReduceF (fun f => negZero f + f.inf.getD 0) (fun _ f => minMaxBits f true) c d a m s
/-- VFRMIN (R154). -/
def execVfrmin (c : Ctl) (d a : Reg) (m : BitVec 3) (s : State) : Out :=
  vecReduceF (fun f => f.inf.getD 0) (fun _ f => minMaxBits f false) c d a m s

/-- Inclusive prefixes in element order (R155). -/
def scanList (node : Nat → Nat → Nat) : Option Nat → List Nat → List Nat
  | _, [] => []
  | none, x :: r => x :: scanList node (some x) r
  | some p, x :: r => let y := node p x; y :: scanList node (some y) r

/-- The scan's results at the enabled elements (R155). -/
def addScan (s : State) (d : Reg) (w : Nat) (mk : BitVec 3) (l : List Nat) : State :=
  addV s 8 d w ((l.zipIdx.map (fun p => (p.2, p.1))).filter (fun p => (M s mk).getLsbD (w * p.1 / 32)))

/-- VFSCAN (R155): rounded at every step; element 0 is that of the source, a NaN as the canonical one (R48). -/
def execVfscan (c : Ctl) (d a : Reg) (m : BitVec 3) (s : State) : Out :=
  vFmt false 0 [0, 11, 1, 2] c s (fun code s =>
    let f := fmtOf code
    addScan s d f.width m (scanList (sumNode s f) none ((withIdentity s a f.width m (negZero f)).map
      (fun x => if numIsNan (floatVal f x) then f.nan.getD 0 else x))))

/-- VISCAN (R155). -/
def execViscan (c : Ctl) (d a : Reg) (m : BitVec 3) (s : State) : Out :=
  vFmt false 12 [12, 13, 9, 14] c s (fun code s =>
    let (w, _) := intOf code
    addScan s d w m (scanList (fun x y => (x + y) % 2 ^ w) none (withIdentity s a w m 0)))

/-- An integer reduction: an exact result as a 32-bit element 0 (R154). -/
def vecReduceI (ident : Nat → Bool → Int) (node : Int → Int → Int) (c : Ctl) (d a : Reg) (mk : BitVec 3) (s : State) : Out :=
  vFmt false 12 [12, 13, 9, 14] c s (fun code s =>
    let (w, sg) := intOf code
    let r := ((enabled w (M s mk)).map (fun e => intVal w sg (elemOf (V s a) w e))).foldl node (ident w sg)
    addFlight s 8 true (.v d (BitVec.allOnes 2048) (BitVec.ofNat 2048 (intBits 32 r))))

/-- VIRSUM (R154). -/
def execVirsum (c : Ctl) (d a : Reg) (m : BitVec 3) (s : State) : Out := vecReduceI (fun _ _ => 0) (· + ·) c d a m s
/-- VIRMAX (R154). -/
def execVirmax (c : Ctl) (d a : Reg) (m : BitVec 3) (s : State) : Out := vecReduceI intLo max c d a m s
/-- VIRMIN (R154). -/
def execVirmin (c : Ctl) (d a : Reg) (m : BitVec 3) (s : State) : Out := vecReduceI intHi min c d a m s

/-! ## Scalar and vector exchange: VSCL (R156) -/

def vsclFmts : List Nat := wideFmts ++ [5]

/-- VBCST (R156). -/
def execVbcst (c : Ctl) (d a : Reg) (m : BitVec 3) (s : State) : Out :=
  vFmt false 12 vsclFmts c s (fun code s => mapV s 2 d (codeWidth code) m (fun _ => (X s a).toNat))

/-- VBCSTI (R156). -/
def execVbcsti (c : Ctl) (d : Reg) (k : BitVec 5) (m : BitVec 3) (s : State) : Out :=
  vFmt false 12 vsclFmts c s (fun code s => mapV s 2 d (codeWidth code) m (fun _ => (k.signExtend 64).toNat))

/-- VEXTR (R156). -/
def execVextr (c : Ctl) (d a b : Reg) (s : State) : Out :=
  vFmt false 12 vsclFmts c s (fun code s =>
    let w := codeWidth code
    if d = 0 then s else addFlight s 3 true (.x d (BitVec.ofNat 64 (elemOf (V s a) w ((X s b).toNat % (2048 / w))))))

/-- VINS (R156). -/
def execVins (c : Ctl) (d a b : Reg) (s : State) : Out :=
  vFmt false 12 vsclFmts c s (fun code s =>
    let w := codeWidth code
    addV s 2 d w [((X s b).toNat % (2048 / w), (X s a).toNat)])

/-- VIOTA (R156). -/
def execViota (c : Ctl) (d : Reg) (m : BitVec 3) (s : State) : Out :=
  vFmt false 12 [12, 14, 13, 9] c s (fun code s => mapV s 2 d (codeWidth code) m (fun e => e))

/-! ## Permutes and active lists: VPRM (R157) -/

/-- VPERM (R157). -/
def execVperm (c : Ctl) (d a b : Reg) (m : BitVec 3) (s : State) : Out :=
  vFmt false 12 vsclFmts c s (fun code s =>
    let w := codeWidth code
    mapV s 3 d w m (fun e => elemOf (V s a) w (elemOf (V s b) w e % (2048 / w))))

/-- VCOMP (R157). -/
def execVcomp (c : Ctl) (d a : Reg) (m : BitVec 3) (s : State) : Out :=
  vFmt false 12 [12, 0, 14] c s (fun _ s =>
    let on := (enabled 32 (M s m)).map (fun e => elemOf (V s a) 32 e)
    addV s 3 d 32 ((upto 64).map (fun i => (i, on.getD i 0))))

/-- Number of mask bits below bit i. -/
def bitsBelow (mk : W64) (i : Nat) : Nat := (upto i).countP (fun j => mk.getLsbD j)

/-- VEXPD (R157). -/
def execVexpd (c : Ctl) (d a : Reg) (m : BitVec 3) (s : State) : Out :=
  vFmt false 12 [12, 0, 14] c s (fun _ s => mapV s 3 d 32 m (fun i => elemOf (V s a) 32 (bitsBelow (M s m) i)))

/-- VCPOS (R157). -/
def execVcpos (c : Ctl) (d : Reg) (m : BitVec 3) (s : State) : Out :=
  vFmt false 12 [12, 0, 14] c s (fun _ s => addV s 3 d 32 ((upto 64).map (fun i => (i, bitsBelow (M s m) i))))

/-- VSLDN (R157). -/
def execVsldn (c : Ctl) (d a b : Reg) (m : BitVec 3) (s : State) : Out :=
  vFmt false 12 vsclFmts c s (fun code s =>
    let w := codeWidth code
    let k := (X s b).toNat
    mapV s 3 d w m (fun i => if i + k < 2048 / w then elemOf (V s a) w (i + k) else 0))

/-- VSLUP (R157). -/
def execVslup (c : Ctl) (d a b : Reg) (m : BitVec 3) (s : State) : Out :=
  vFmt false 12 vsclFmts c s (fun code s =>
    let w := codeWidth code
    let k := (X s b).toNat
    mapV s 3 d w m (fun i => if k ≤ i then elemOf (V s a) w (i - k) else 0))

/-! ## Mask operations: VMSK (R158) -/

def maskOp (g : W64 → W64 → W64) (c : Ctl) (d a b : BitVec 3) (s : State) : Out :=
  vSlot false c s (fun s => addFlight s 2 true (.m d (g (M s a) (M s b))))

/-- MAND (R158). -/
def execMand (c : Ctl) (d a b : BitVec 3) (s : State) : Out := maskOp (· &&& ·) c d a b s
/-- MOR (R158). -/
def execMor (c : Ctl) (d a b : BitVec 3) (s : State) : Out := maskOp (· ||| ·) c d a b s
/-- MXOR (R158). -/
def execMxor (c : Ctl) (d a b : BitVec 3) (s : State) : Out := maskOp (· ^^^ ·) c d a b s
/-- MANDN (R158). -/
def execMandn (c : Ctl) (d a b : BitVec 3) (s : State) : Out := maskOp (fun x y => x &&& ~~~y) c d a b s
/-- MFROMX (R158). -/
def execMfromx (c : Ctl) (d : BitVec 3) (a : Reg) (s : State) : Out := vSlot false c s (fun s => addFlight s 2 true (.m d (X s a)))

/-- A mask form that writes a scalar register (R158). -/
def maskX (g : W64 → W64) (c : Ctl) (d : Reg) (a : BitVec 3) (s : State) : Out :=
  vSlot false c s (fun s => if d = 0 then s else addFlight s 2 true (.x d (g (M s a))))

/-- MTOX (R158). -/
def execMtox (c : Ctl) (d : Reg) (a : BitVec 3) (s : State) : Out := maskX (fun v => v) c d a s
/-- MPOPC (R158). -/
def execMpopc (c : Ctl) (d : Reg) (a : BitVec 3) (s : State) : Out := maskX (fun v => BitVec.ofNat 64 (popCount v)) c d a s
/-- MFFS (R158). -/
def execMffs (c : Ctl) (d : Reg) (a : BitVec 3) (s : State) : Out := maskX (fun v => BitVec.ofNat 64 (trailZeros v)) c d a s

end Sys2Proof.Machine
end

