-- ==== Sys2Proof/Machine/Matrix.lean ====
section
/-! DEFINITION. Matrix beats, drains and matrix control (08, 03 R66 to R70). -/

namespace Sys2Proof.Machine

open Sys2Proof

/-! ## The consumed format (R167 to R169) -/

/-- The pending format an M slot of the bundle consumes, or the default BF16, BF16 (R168). -/
def mPfx (s : State) : Pfx :=
  match s.tile.th.pfx with
  | some p => if p.vec then ⟨1, 1, 0, false, false⟩ else p
  | none => ⟨1, 1, 0, false, false⟩

/-- The row mode of an operand pair: INT96 is true; none for a pair that R66 does not allow. -/
def rowMode (fa fb : Nat) : Option Bool :=
  if [1, 2].contains fa && [1, 2].contains fb then some false
  else if [3, 4, 5].contains fa && [3, 4, 5].contains fb then some false
  else if fa = 6 ∧ fb = 6 then some false
  else if (fa = 9 ∧ fb = 9) ∨ (fa = 10 ∧ fb = 10) then some true
  else if ([7, 9].contains fa && [7, 9].contains fb) || ([8, 10].contains fa && [8, 10].contains fb) then some false
  else none

def isGroup (code : Nat) : Bool := code = 7 || code = 8

/-- Checks 1 and 2 of R169. -/
def fmtsOk (p : Pfx) (beat : Bool) : Bool :=
  (rowMode p.fa.toNat p.fb.toNat).isSome && !(beat && (isGroup p.fa.toNat || isGroup p.fb.toNat) && decide (p.g = 0))

/-- Elements of a group or block along K; g counts for group-scaled formats alone (R165, R169). -/
def groupLen (p : Pfx) : Nat :=
  if (isGroup p.fa.toNat || isGroup p.fb.toNat) && decide (p.g ≠ 0) then 32 * 2 ^ (p.g.toNat - 1) else 32

/-- The element width of an operand format and K (R165). -/
def opWidth (code : Nat) : Nat := if code = 7 then 8 else if code = 8 then 4 else codeWidth code
def opK (code : Nat) : Nat := 1024 / opWidth code

/-! ## SRAM rows (R162, R163) -/

/-- The row base of MatAddr. -/
def matBase (xa xb : W64) : Nat :=
  let idx := bitsOf xa 32 16
  bitsOf xa 0 21 + idx / 64 * bitsOf xb 16 16 + idx % 64 * bitsOf xb 0 16

/-- MatAddr (R163). -/
def matAddr (xa xb : W64) (rb b : Nat) : Nat :=
  matBase xa xb + 64 * ((b / 64 + bitsOf xa 32 16 % 64 * bitsOf xb 32 4) % (rb / 64)) + b % 64

/-- SideAddr (R163). -/
def sideAddr (xa xb : W64) : Nat := matBase xa xb + bitsOf xb 40 16

/-- The checks of an access to a row of `rb` bytes and to `side` bytes of side data: XACCESS, with the address of the first line of the row, in
the order of MatAddr, that fails, and ALIGN (R163, log 36). -/
def matCheck (s : State) (xa xb : W64) (rb side : Nat) : State :=
  let s := match ((upto (rb / 64)).map (fun k => matAddr xa xb rb (64 * k))).find? (fun a : Nat => !rangeOk s.tile false a 64) with
    | none => s
    | some a => addCause s 0x05 (BitVec.ofNat 64 a)
  let s := if matBase xa xb % 64 = 0 then s else addCause s 0x06 (BitVec.ofNat 64 (matBase xa xb))
  if side = 0 then s else
  let s := if rangeOk s.tile false (sideAddr xa xb) side then s else addCause s 0x05 (BitVec.ofNat 64 (sideAddr xa xb))
  if sideAddr xa xb % 4 = 0 then s else addCause s 0x06 (BitVec.ofNat 64 (sideAddr xa xb))

/-- The post-increment of IDX when AINC is 1 (R163). -/
def matInc (s : State) (r : Reg) : State :=
  if (X s (r + 1)).getLsbD 36 ∧ r ≠ 0 then addFlight s 1 true (.x r (setBits (X s r) 32 16 (bitsOf (X s r) 32 16 + 1))) else s

/-- Checks and marks the source of a beat. -/
def srcCheck (s : State) (r : Reg) (p : BitVec 1) (side : Nat) : State :=
  if p = 0 then s else
  let xa := X s r
  let xb := X s (r + 1)
  let s := matCheck s xa xb 128 side
  let s := addRead s (matBase xa xb) 128
  let s := if side = 0 then s else addRead s (sideAddr xa xb) side
  matInc s r

/-- The 1024 source bits (R162). -/
def srcBits (s : State) (r : Reg) (h p : BitVec 1) : BitVec 1024 :=
  if p = 0 then BitVec.ofNat 1024 (bitsOf (V s r) (1024 * h.toNat) 1024)
  else
    let xa := X s r
    let xb := X s (r + 1)
    let mem := seen s
    BitVec.ofNat 1024 (leNat ((upto 128).map (fun b => cellGet mem (matAddr xa xb 128 b))))

/-! ## Beat sums (R67, R68, R165) -/

/-- An element as an exact number: an integer code less its zero point, a float element without its scale. -/
def beatElem (code bits : Nat) (z : Int) : Num :=
  if code = 7 ∨ code = 9 then numOfInt (intVal 8 true bits - z)
  else if code = 8 ∨ code = 10 then numOfInt (intVal 4 true bits - z)
  else floatVal (fmtOf code) bits

/-- The scale of a group or block from its side word, 1 for a format without scales (R51, R52). -/
def beatScale (code word : Nat) : Num :=
  if isMx code then (if word % 256 = 255 then .nan else .fin false 1 ((word % 256 : Nat) - 127 : Int))
  else if isGroup code then floatVal fF16 (word % 65536)
  else .fin false 1 0

def beatZero (code : Nat) (zp : Bool) (word : Nat) : Int := if zp && isGroup code then intVal 8 true (word / 65536) else 0

/-- Bytes of side data that an A row in SRAM has (R163). -/
def sideLen (p : Pfx) : Nat :=
  let k := opK p.fa.toNat
  if isMx p.fa.toNat then k / 32 else if isGroup p.fa.toNat then 4 * k / groupLen p else 0

/-- The side word of group `g` of the A row (R165). -/
def sideA (s : State) (p : Pfx) (r : Reg) (h sp : BitVec 1) (g : Nat) : Nat :=
  let fa := p.fa.toNat
  if sp = 0 then
    let e := h.toNat * opK fa + g * groupLen p
    if isMx fa then elemOf (V s (r + 1)) 8 (e / 32) else if isGroup fa then elemOf (V s (r + 1)) 32 (e / groupLen p) else 0
  else
    let a := sideAddr (X s r) (X s (r + 1))
    if isMx fa then readLe (seen s) (a + g) 1 else if isGroup fa then readLe (seen s) (a + 4 * g) 4 else 0

/-- The side word of group `g`, column `n` of a latch (R165). -/
def sideB (s : State) (l : Nat) (g n : Nat) : Nat := elemOf (cellGet s.tile.th.side (16 * l + 2 * g + n / 32)) 32 (n % 32)

/-- Latch element (k, n) for elements of width `w` (R165). -/
def latchElem (s : State) (l w k n : Nat) : Nat :=
  elemOf (cellGet s.tile.th.latch (64 * l + k / (16 / w))) w (k % (16 / w) * 64 + n)

/-- The exact sum of numbers, of no first term (R67, R68). -/
def sumNums : List Num → Num
  | [] => .fin false 0 0
  | x :: r => r.foldl (numAdd false) x

/-- The product of two elements: that of two integers is an integer, whose zero is +0 (R64, R68, the example of 08). -/
def elemMul (fa : Nat) (x y : Num) : Num :=
  let p := numMul x y
  if (isGroup fa || (codeInt fa).isSome) && numIsZero p then .fin false 0 0 else p

/-- The exact sum of column `n` (R67, R68). DESIGN CHOICE (log 104): a zero of integer elements takes the sign of the group's scales, so that under one
negative F16 scale it is −0. -/
def beatSum (s : State) (p : Pfx) (a : BitVec 1024) (sa : List Nat) (l n : Nat) : Num :=
  let fa := p.fa.toNat
  let fb := p.fb.toNat
  let w := opWidth fa
  let g := groupLen p
  sumNums ((upto (opK fa / g)).map (fun i =>
    let wa := sa.getD i 0
    let wb := sideB s l i n
    let sc := numMul (beatScale fa wa) (beatScale fb wb)
    (upto g).map (fun j =>
      let k := i * g + j
      numMul sc (elemMul fa (beatElem fa (elemOf a w k) (beatZero fa p.zp wa)) (beatElem fb (latchElem s l w k n) (beatZero fb p.zp wb)))))).flatten

/-! ## Beats (R170 to R174) -/

def rowIdx (b : BitVec 1) (r : BitVec 6) : Nat := 64 * b.toNat + r.toNat

/-- The MLATCH trap for a row (R172). -/
def badRow (s : State) (k : Nat) : State := addCause s 0x11 (BitVec.ofNat 64 (256 + 128 * (k / 64) + k % 64))
/-- The MLATCH trap for a latch (R172). DESIGN CHOICE (log 106): TVAL[7], which is a bank beside a row, is 0 beside a latch. -/
def badLatch (s : State) (l : BitVec 2) : State := addCause s 0x11 (l.setWidth 64)

/-- MZERO (R171). -/
def execMzero (c : Ctl) (b : BitVec 1) (r : BitVec 6) (s : State) : Out :=
  unitSlot c s (fun s =>
    let p := mPfx s
    if fmtsOk p false then
      let mode := (rowMode p.fa.toNat p.fb.toNat).getD false
      let s := updIss s (fun i => { i with rows := i.rows ++ [(rowIdx b r, mode)] })
      addFlight s 8 true (.row (rowIdx b r) mode (List.replicate 64 0))
    else illop s)

/-- The shared body of MPUSH and MACC (R172): every check is made, then the sums are formed from what stands at issue. -/
def beat (acc : Bool) (b : BitVec 1) (r : BitVec 6) (l : BitVec 2) (src : Reg) (h sp : BitVec 1) (s : State) : State :=
  let p := mPfx s
  let th := s.tile.th
  let k := rowIdx b r
  let mode := (rowMode p.fa.toNat p.fb.toNat).getD false
  let bad := !(fmtsOk p true) || (acc && (th.tag.getLsbD k != mode))
    || ((isMx p.fa.toNat || isGroup p.fa.toNat) && decide (sp = 0) && decide (src = 31))
  let s1 := if bad then illop s else s
  let s2 := srcCheck s1 src sp (sideLen p)
  let s3 := if th.latchOk.getLsbD l.toNat then s2 else badLatch s2 l
  let s4 := if acc && !(th.rowOk.getLsbD k) then badRow s3 k else s3
  if bad || faulty s4 then s4 else
  let a := srcBits s src h sp
  let sa := (upto (opK p.fa.toNat / groupLen p)).map (fun g => sideA s p src h sp g)
  let sums := (upto 64).map (fun n => beatSum s p a sa l.toNat n)
  let s5 := updIss s4 (fun i => { i with rows := i.rows ++ [(k, mode)] })
  addFlight s5 8 true (if acc then .rowAdd k mode sums else .row k mode (sums.map (cellOf mode)))

/-- MPUSH (R172). -/
def execMpush (c : Ctl) (b : BitVec 1) (r : BitVec 6) (l : BitVec 2) (src : Reg) (h p : BitVec 1) (s : State) : Out :=
  unitSlot c s (beat false b r l src h p)

/-- MACC (R172). -/
def execMacc (c : Ctl) (b : BitVec 1) (r : BitVec 6) (l : BitVec 2) (src : Reg) (h p : BitVec 1) (s : State) : Out :=
  unitSlot c s (beat true b r l src h p)

/-- A copy of the 1024 source bits that lands after 2 issue cycles (R173, R174). -/
def copyBeat (src : Reg) (h p : BitVec 1) (res : BitVec 1024 → Res) (s : State) : State :=
  addFlight (srcCheck s src p 0) 2 true (res (srcBits s src h p))

/-- MSHIFT (R173). -/
def execMshift (c : Ctl) (l : BitVec 2) (src : Reg) (h p : BitVec 1) (s : State) : Out :=
  unitSlot c s (fun s => updIss (copyBeat src h p (.shift l.toNat) s) (fun i => { i with latches := i.latches ++ [l.toNat] }))

/-- MLATCH (R173). -/
def execMlatch (c : Ctl) (r : BitVec 6) (l : BitVec 2) (src : Reg) (h p : BitVec 1) (s : State) : Out :=
  unitSlot c s (fun s =>
    updIss (copyBeat src h p (.latch (64 * l.toNat + r.toNat)) s) (fun i => { i with latches := i.latches ++ [l.toNat] }))

/-- MLSIDE (R174). -/
def execMlside (c : Ctl) (r : BitVec 4) (l : BitVec 2) (src : Reg) (h p : BitVec 1) (s : State) : Out :=
  unitSlot c s (copyBeat src h p (.side (16 * l.toNat + r.toNat)))

/-! ## Drains (R175 to R178) -/

/-- The 64 converted elements of a row with the generator's state after them (R58, R70). -/
def drainRow (s : State) (k fmt : Nat) (sat : Bool) : List (Nat × Nat) × W64 :=
  let int := s.tile.th.cmode.getLsbD k
  let src (n : Nat) : Src :=
    let v := cellGet s.tile.th.acc (64 * k + n)
    if int then .int v.toInt else .flt (floatVal fFX96 v.toNat)
  roundList s (upto 64) (fun mode n => convert fmt mode (sat || rsat s) (src n)) (seedOf s)

/-- MDRAIN (R175, R176). -/
def execMdrain (c : Ctl) (b : BitVec 1) (r : BitVec 6) (d : Reg) (p h clr : BitVec 1) (fmt : BitVec 4) (sat : BitVec 1) (s : State) : Out :=
  unitSlot c s (fun s =>
    let k := rowIdx b r
    let w := codeWidth fmt.toNat
    let th := s.tile.th
    let xa := X s d
    let xb := X s (d + 1)
    let s1 := if p = 1 then matCheck s xa xb (8 * w) 0 else s
    let s2 := if th.rowOk.getLsbD k then s1 else badRow s1 k
    if faulty s2 then s2 else
    let (els, g) := drainRow s k fmt.toNat (sat = 1)
    let s3 := if isSr (rmode s) then setSeed s2 g else s2
    let bits := packNat w (els.map (·.2))
    let s4 := if p = 0 then
        addFlight s3 6 true (.v d (vMask (8 * w * (8 * h.toNat)) (64 * w)) (BitVec.ofNat 2048 (bits * 2 ^ (64 * w * h.toNat))))
      else
        let bs := leBytes bits (8 * w)
        matInc (addFlight s3 6 true (.bytes (bs.zipIdx.map (fun q => (matAddr xa xb (8 * w) q.2, q.1))))) d
    let cells := (rowGet th k).map (fun v => cellNum (th.cmode.getLsbD k) v)
    let s5 := if drainNan fmt.toNat cells (els.map (·.2)) then addFlight s4 4 true (.mst k) else s4
    if clr = 1 then addFlight s5 8 true (.rowClear k) else s5)

/-! ## Matrix control (R179) -/

/-- MSCLR.A (R179). -/
def execMsclrA (c : Ctl) (a : Reg) (s : State) : Out := unitSlot c s (fun s => addFlight s 1 true (.msclr 0 (X s a)))
/-- MSCLR.B (R179). -/
def execMsclrB (c : Ctl) (a : Reg) (s : State) : Out := unitSlot c s (fun s => addFlight s 1 true (.msclr 1 (X s a)))

/-- MRDS (R179): the word that `sel` names, as it stands at issue. -/
def execMrds (c : Ctl) (d a : Reg) (s : State) : Out :=
  unitSlot c s (fun s =>
    let th := s.tile.th
    let v : Nat := match a.toNat with
      | 0 => bitsOf th.tag 0 64
      | 1 => bitsOf th.tag 64 64
      | 2 => bitsOf th.rowOk 0 64
      | 3 => bitsOf th.rowOk 64 64
      | _ => th.latchOk.toNat
    if d = 0 then s else addFlight s 2 true (.x d (BitVec.ofNat 64 v)))

end Sys2Proof.Machine
end

