-- ==== Sys2Proof/Machine/Dispatch.lean ====
section
/-! DEFINITION. The meaning of every instruction: one direct call for each constructor. -/

namespace Sys2Proof.Machine

open Sys2Proof

def exec (i : Instr) (s : State) : Host.Outcome State Fault Refusal :=
  match i with
  | .nop _ _ _ => Sys2Proof.Machine.execNop s
  | .add c d a b => Sys2Proof.Machine.execAdd c d a b s
  | .sub c d a b => Sys2Proof.Machine.execSub c d a b s
  | .and c d a b => Sys2Proof.Machine.execAnd c d a b s
  | .or c d a b => Sys2Proof.Machine.execOr c d a b s
  | .xor c d a b => Sys2Proof.Machine.execXor c d a b s
  | .andn c d a b => Sys2Proof.Machine.execAndn c d a b s
  | .orn c d a b => Sys2Proof.Machine.execOrn c d a b s
  | .xnor c d a b => Sys2Proof.Machine.execXnor c d a b s
  | .sll c d a b => Sys2Proof.Machine.execSll c d a b s
  | .srl c d a b => Sys2Proof.Machine.execSrl c d a b s
  | .sra c d a b => Sys2Proof.Machine.execSra c d a b s
  | .ror c d a b => Sys2Proof.Machine.execRor c d a b s
  | .rol c d a b => Sys2Proof.Machine.execRol c d a b s
  | .slt c d a b => Sys2Proof.Machine.execSlt c d a b s
  | .sltu c d a b => Sys2Proof.Machine.execSltu c d a b s
  | .min c d a b => Sys2Proof.Machine.execMin c d a b s
  | .max c d a b => Sys2Proof.Machine.execMax c d a b s
  | .minu c d a b => Sys2Proof.Machine.execMinu c d a b s
  | .maxu c d a b => Sys2Proof.Machine.execMaxu c d a b s
  | .addw c d a b => Sys2Proof.Machine.execAddw c d a b s
  | .subw c d a b => Sys2Proof.Machine.execSubw c d a b s
  | .sllw c d a b => Sys2Proof.Machine.execSllw c d a b s
  | .srlw c d a b => Sys2Proof.Machine.execSrlw c d a b s
  | .sraw c d a b => Sys2Proof.Machine.execSraw c d a b s
  | .mul c d a b => Sys2Proof.Machine.execMul c d a b s
  | .mulh c d a b => Sys2Proof.Machine.execMulh c d a b s
  | .mulhu c d a b => Sys2Proof.Machine.execMulhu c d a b s
  | .mulhsu c d a b => Sys2Proof.Machine.execMulhsu c d a b s
  | .mulw c d a b => Sys2Proof.Machine.execMulw c d a b s
  | .div c d a b => Sys2Proof.Machine.execDiv c d a b s
  | .divu c d a b => Sys2Proof.Machine.execDivu c d a b s
  | .rem c d a b => Sys2Proof.Machine.execRem c d a b s
  | .remu c d a b => Sys2Proof.Machine.execRemu c d a b s
  | .divw c d a b => Sys2Proof.Machine.execDivw c d a b s
  | .divuw c d a b => Sys2Proof.Machine.execDivuw c d a b s
  | .remw c d a b => Sys2Proof.Machine.execRemw c d a b s
  | .remuw c d a b => Sys2Proof.Machine.execRemuw c d a b s
  | .clz c d a => Sys2Proof.Machine.execClz c d a s
  | .ctz c d a => Sys2Proof.Machine.execCtz c d a s
  | .popc c d a => Sys2Proof.Machine.execPopc c d a s
  | .brev c d a => Sys2Proof.Machine.execBrev c d a s
  | .bswap c d a => Sys2Proof.Machine.execBswap c d a s
  | .sextb c d a => Sys2Proof.Machine.execSextb c d a s
  | .sexth c d a => Sys2Proof.Machine.execSexth c d a s
  | .zextb c d a => Sys2Proof.Machine.execZextb c d a s
  | .zexth c d a => Sys2Proof.Machine.execZexth c d a s
  | .zextw c d a => Sys2Proof.Machine.execZextw c d a s
  | .clzw c d a => Sys2Proof.Machine.execClzw c d a s
  | .bext c d a b => Sys2Proof.Machine.execBext c d a b s
  | .bset c d a b => Sys2Proof.Machine.execBset c d a b s
  | .bclr c d a b => Sys2Proof.Machine.execBclr c d a b s
  | .binv c d a b => Sys2Proof.Machine.execBinv c d a b s
  | .bfxu c d a b => Sys2Proof.Machine.execBfxu c d a b s
  | .bfxs c d a b => Sys2Proof.Machine.execBfxs c d a b s
  | .addi c d a k => Sys2Proof.Machine.execAddi c d a k s
  | .andi c d a k => Sys2Proof.Machine.execAndi c d a k s
  | .ori c d a k => Sys2Proof.Machine.execOri c d a k s
  | .xori c d a k => Sys2Proof.Machine.execXori c d a k s
  | .slli c d a n => Sys2Proof.Machine.execSlli c d a n s
  | .srli c d a n => Sys2Proof.Machine.execSrli c d a n s
  | .srai c d a n => Sys2Proof.Machine.execSrai c d a n s
  | .rori c d a n => Sys2Proof.Machine.execRori c d a n s
  | .slliw c d a n => Sys2Proof.Machine.execSlliw c d a n s
  | .srliw c d a n => Sys2Proof.Machine.execSrliw c d a n s
  | .sraiw c d a n => Sys2Proof.Machine.execSraiw c d a n s
  | .ldi c d k => Sys2Proof.Machine.execLdi c d k s
  | .ldh1 c d k => Sys2Proof.Machine.execLdh1 c d k s
  | .ldh2 c d k => Sys2Proof.Machine.execLdh2 c d k s
  | .ldh3 c d k => Sys2Proof.Machine.execLdh3 c d k s
  | .sel c d a b p => Sys2Proof.Machine.execSel c d a b p s
  | .addsc c d a b h => Sys2Proof.Machine.execAddsc c d a b h s
  | .ladd c d a b h => Sys2Proof.Machine.execLadd c d a b h s
  | .chku c a b => Sys2Proof.Machine.execChku c a b s
  | .rdw c d n => Sys2Proof.Machine.execRdw c d n s
  | .wrw c d n => Sys2Proof.Machine.execWrw c d n s
  | .br c k => Sys2Proof.Machine.execBr c k s
  | .call c k => Sys2Proof.Machine.execCall c k s
  | .jr c a => Sys2Proof.Machine.execJr c a s
  | .jalr c d a => Sys2Proof.Machine.execJalr c d a s
  | .loop c r k => Sys2Proof.Machine.execLoop c r k s
  | .cmp c q a b cc => Sys2Proof.Machine.execCmp c q a b cc s
  | .cmpi c q a cc k => Sys2Proof.Machine.execCmpi c q a cc k s
  | .pand c q a b => Sys2Proof.Machine.execPand c q a b s
  | .por c q a b => Sys2Proof.Machine.execPor c q a b s
  | .pxor c q a b => Sys2Proof.Machine.execPxor c q a b s
  | .pandn c q a b => Sys2Proof.Machine.execPandn c q a b s
  | .prdg c d g => Sys2Proof.Machine.execPrdg c d g s
  | .pwrg c g b => Sys2Proof.Machine.execPwrg c g b s
  | .trap c a => Sys2Proof.Machine.execTrap c a s
  | .rfe c => Sys2Proof.Machine.execRfe c s
  | .brk c => Sys2Proof.Machine.execBrk c s
  | .idle c a => Sys2Proof.Machine.execIdle c a s
  | .ifence c => Sys2Proof.Machine.execIfence c s
  | .maskp c => Sys2Proof.Machine.execMaskp c s
  | .unmaskp c => Sys2Proof.Machine.execUnmaskp c s
  | .savelt c a => Sys2Proof.Machine.execSavelt c a s
  | .rstlt c a => Sys2Proof.Machine.execRstlt c a s
  | .sync c => Sys2Proof.Machine.execSync c s
  | .lpop c => Sys2Proof.Machine.execLpop c s
  | .yield c => Sys2Proof.Machine.execYield c s
  | .suspend c a => Sys2Proof.Machine.execSuspend c a s
  | .exit c => Sys2Proof.Machine.execExit c s
  | .sig c k => Sys2Proof.Machine.execSig c k s
  | .pfxM c fa fb g zp => Sys2Proof.Machine.execPfxM c fa fb g zp s
  | .pfxV c fa fb g zp => Sys2Proof.Machine.execPfxV c fa fb g zp s
  | .ld c d a w x k => Sys2Proof.Machine.execLd c d a w x k s
  | .st c d a w k => Sys2Proof.Machine.execSt c d a w k s
  | .ldx c d a b sc x w => Sys2Proof.Machine.execLdx c d a b sc x w s
  | .stx c d a b sc w => Sys2Proof.Machine.execStx c d a b sc w s
  | .vld c d a k => Sys2Proof.Machine.execVld c d a k s
  | .vst c d a k => Sys2Proof.Machine.execVst c d a k s
  | .vldl c d a k => Sys2Proof.Machine.execVldl c d a k s
  | .vldu c d a k => Sys2Proof.Machine.execVldu c d a k s
  | .vgth32 c d a b m => Sys2Proof.Machine.execVgth32 c d a b m s
  | .vsct32 c d a b m => Sys2Proof.Machine.execVsct32 c d a b m s
  | .vgth16 c d a b m => Sys2Proof.Machine.execVgth16 c d a b m s
  | .vsct16 c d a b m => Sys2Proof.Machine.execVsct16 c d a b m s
  | .vgth8 c d a b m => Sys2Proof.Machine.execVgth8 c d a b m s
  | .vsct8 c d a b m => Sys2Proof.Machine.execVsct8 c d a b m s
  | .vldm c d a m => Sys2Proof.Machine.execVldm c d a m s
  | .vstm c d a m => Sys2Proof.Machine.execVstm c d a m s
  | .ltld c d a => Sys2Proof.Machine.execLtld c d a s
  | .ltst c d a => Sys2Proof.Machine.execLtst c d a s
  | .ltw c d a b => Sys2Proof.Machine.execLtw c d a b s
  | .ltrl c d a => Sys2Proof.Machine.execLtrl c d a s
  | .ltrh c d a => Sys2Proof.Machine.execLtrh c d a s
  | .ltbase c d a => Sys2Proof.Machine.execLtbase c d a s
  | .istw c a b => Sys2Proof.Machine.execIstw c a b s
  | .istv c a b => Sys2Proof.Machine.execIstv c a b s
  | .vadd c d a b m => Sys2Proof.Machine.execVadd c d a b m s
  | .vsub c d a b m => Sys2Proof.Machine.execVsub c d a b m s
  | .vmul c d a b m => Sys2Proof.Machine.execVmul c d a b m s
  | .vfma c d a b m => Sys2Proof.Machine.execVfma c d a b m s
  | .vfnma c d a b m => Sys2Proof.Machine.execVfnma c d a b m s
  | .vmin c d a b m => Sys2Proof.Machine.execVmin c d a b m s
  | .vmax c d a b m => Sys2Proof.Machine.execVmax c d a b m s
  | .vfms c d a b m => Sys2Proof.Machine.execVfms c d a b m s
  | .vrcp c d a m => Sys2Proof.Machine.execVrcp c d a m s
  | .vrsq c d a m => Sys2Proof.Machine.execVrsq c d a m s
  | .vexp2 c d a m => Sys2Proof.Machine.execVexp2 c d a m s
  | .vlog2 c d a m => Sys2Proof.Machine.execVlog2 c d a m s
  | .vsinp c d a m => Sys2Proof.Machine.execVsinp c d a m s
  | .vtanh c d a m => Sys2Proof.Machine.execVtanh c d a m s
  | .vdiv c d a b m => Sys2Proof.Machine.execVdiv c d a b m s
  | .vsqrt c d a m => Sys2Proof.Machine.execVsqrt c d a m s
  | .viadd c d a b m => Sys2Proof.Machine.execViadd c d a b m s
  | .visub c d a b m => Sys2Proof.Machine.execVisub c d a b m s
  | .vimul c d a b m => Sys2Proof.Machine.execVimul c d a b m s
  | .vimulh c d a b m => Sys2Proof.Machine.execVimulh c d a b m s
  | .viadds c d a b m => Sys2Proof.Machine.execViadds c d a b m s
  | .visubs c d a b m => Sys2Proof.Machine.execVisubs c d a b m s
  | .vimin c d a b m => Sys2Proof.Machine.execVimin c d a b m s
  | .vimax c d a b m => Sys2Proof.Machine.execVimax c d a b m s
  | .vand c d a b m => Sys2Proof.Machine.execVand c d a b m s
  | .vor c d a b m => Sys2Proof.Machine.execVor c d a b m s
  | .vxor c d a b m => Sys2Proof.Machine.execVxor c d a b m s
  | .vandn c d a b m => Sys2Proof.Machine.execVandn c d a b m s
  | .vsll c d a b m => Sys2Proof.Machine.execVsll c d a b m s
  | .vsrl c d a b m => Sys2Proof.Machine.execVsrl c d a b m s
  | .vsra c d a b m => Sys2Proof.Machine.execVsra c d a b m s
  | .vbsl c d a b m => Sys2Proof.Machine.execVbsl c d a b m s
  | .vceq c d a b m => Sys2Proof.Machine.execVceq c d a b m s
  | .vcne c d a b m => Sys2Proof.Machine.execVcne c d a b m s
  | .vclt c d a b m => Sys2Proof.Machine.execVclt c d a b m s
  | .vcle c d a b m => Sys2Proof.Machine.execVcle c d a b m s
  | .vcun c d a b m => Sys2Proof.Machine.execVcun c d a b m s
  | .vctst c d a b m => Sys2Proof.Machine.execVctst c d a b m s
  | .vcvt c d a part m => Sys2Proof.Machine.execVcvt c d a part m s
  | .vrint c d a m => Sys2Proof.Machine.execVrint c d a m s
  | .vmov c d a m => Sys2Proof.Machine.execVmov c d a m s
  | .vsel c d a b m => Sys2Proof.Machine.execVsel c d a b m s
  | .vabs c d a m => Sys2Proof.Machine.execVabs c d a m s
  | .vneg c d a m => Sys2Proof.Machine.execVneg c d a m s
  | .vcpys c d a b m => Sys2Proof.Machine.execVcpys c d a b m s
  | .vfrsum c d a m => Sys2Proof.Machine.execVfrsum c d a m s
  | .vfrmax c d a m => Sys2Proof.Machine.execVfrmax c d a m s
  | .vfrmin c d a m => Sys2Proof.Machine.execVfrmin c d a m s
  | .vfscan c d a m => Sys2Proof.Machine.execVfscan c d a m s
  | .virsum c d a m => Sys2Proof.Machine.execVirsum c d a m s
  | .virmax c d a m => Sys2Proof.Machine.execVirmax c d a m s
  | .virmin c d a m => Sys2Proof.Machine.execVirmin c d a m s
  | .viscan c d a m => Sys2Proof.Machine.execViscan c d a m s
  | .vbcst c d a m => Sys2Proof.Machine.execVbcst c d a m s
  | .vbcsti c d k m => Sys2Proof.Machine.execVbcsti c d k m s
  | .vextr c d a b => Sys2Proof.Machine.execVextr c d a b s
  | .vins c d a b => Sys2Proof.Machine.execVins c d a b s
  | .viota c d m => Sys2Proof.Machine.execViota c d m s
  | .vperm c d a b m => Sys2Proof.Machine.execVperm c d a b m s
  | .vcomp c d a m => Sys2Proof.Machine.execVcomp c d a m s
  | .vexpd c d a m => Sys2Proof.Machine.execVexpd c d a m s
  | .vcpos c d m => Sys2Proof.Machine.execVcpos c d m s
  | .vsldn c d a b m => Sys2Proof.Machine.execVsldn c d a b m s
  | .vslup c d a b m => Sys2Proof.Machine.execVslup c d a b m s
  | .mand c d a b => Sys2Proof.Machine.execMand c d a b s
  | .mor c d a b => Sys2Proof.Machine.execMor c d a b s
  | .mxor c d a b => Sys2Proof.Machine.execMxor c d a b s
  | .mandn c d a b => Sys2Proof.Machine.execMandn c d a b s
  | .mfromx c d a => Sys2Proof.Machine.execMfromx c d a s
  | .mtox c d a => Sys2Proof.Machine.execMtox c d a s
  | .mpopc c d a => Sys2Proof.Machine.execMpopc c d a s
  | .mffs c d a => Sys2Proof.Machine.execMffs c d a s
  | .mzero c b r => Sys2Proof.Machine.execMzero c b r s
  | .mpush c b r l src h p => Sys2Proof.Machine.execMpush c b r l src h p s
  | .macc c b r l src h p => Sys2Proof.Machine.execMacc c b r l src h p s
  | .mshift c l src h p => Sys2Proof.Machine.execMshift c l src h p s
  | .mlatch c r l src h p => Sys2Proof.Machine.execMlatch c r l src h p s
  | .mlside c r l src h p => Sys2Proof.Machine.execMlside c r l src h p s
  | .mdrain c b r d p h clr fmt sat => Sys2Proof.Machine.execMdrain c b r d p h clr fmt sat s
  | .msclrA c a => Sys2Proof.Machine.execMsclrA c a s
  | .msclrB c a => Sys2Proof.Machine.execMsclrB c a s
  | .mrds c d a => Sys2Proof.Machine.execMrds c d a s
  | .send c t a b l => Sys2Proof.Machine.execSend c t a b l s
  | .sendR c t a b l => Sys2Proof.Machine.execSendR c t a b l s
  | .recv c t a l => Sys2Proof.Machine.execRecv c t a l s
  | .testt c d a => Sys2Proof.Machine.execTestt c d a s
  | .probe c d a => Sys2Proof.Machine.execProbe c d a s
  | .cancel c a => Sys2Proof.Machine.execCancel c a s
  | .waitany c d a => Sys2Proof.Machine.execWaitany c d a s
  | .envr c d a b => Sys2Proof.Machine.execEnvr c d a b s
  | .qget c t a l => Sys2Proof.Machine.execQget c t a l s
  | .qput c t a l => Sys2Proof.Machine.execQput c t a l s
  | .qgett c t a b l => Sys2Proof.Machine.execQgett c t a b l s
  | .qputt c t a b l => Sys2Proof.Machine.execQputt c t a b l s
  | .qatom c t a b l => Sys2Proof.Machine.execQatom c t a b l s
  | .qgath c t a l => Sys2Proof.Machine.execQgath c t a l s
  | .qscat c t a l => Sys2Proof.Machine.execQscat c t a l s
  | .qfill c t a b => Sys2Proof.Machine.execQfill c t a b s
  | .qcopy c t a b => Sys2Proof.Machine.execQcopy c t a b s
  | .fenceQ c t => Sys2Proof.Machine.execFenceQ c t s
  | .spawn c d a => Sys2Proof.Machine.execSpawn c d a s
  | .spawnr c d a => Sys2Proof.Machine.execSpawnr c d a s
  | .pop c d a => Sys2Proof.Machine.execPop c d a s
  | .steal c t a => Sys2Proof.Machine.execSteal c t a s
  | .stealX c t a => Sys2Proof.Machine.execStealX c t a s
  | .dqst c d => Sys2Proof.Machine.execDqst c d s
  | .widf c d a f => Sys2Proof.Machine.execWidf c d a f s
  | .wids c d a b f => Sys2Proof.Machine.execWids c d a b f s
  | .sendt c t a b l => Sys2Proof.Machine.execSendt c t a b l s
  | .msend c t a l => Sys2Proof.Machine.execMsend c t a l s
  | .halo c t a e => Sys2Proof.Machine.execHalo c t a e s
  | .waitmb c a e => Sys2Proof.Machine.execWaitmb c a e s
  | .fencex c t a => Sys2Proof.Machine.execFencex c t a s
  | .mgset c a b => Sys2Proof.Machine.execMgset c a b s
  | .fstat c d a => Sys2Proof.Machine.execFstat c d a s
  | .erecv c t a l => Sys2Proof.Machine.execErecv c t a l s
  | .erecvNs c t a l => Sys2Proof.Machine.execErecvNs c t a l s
  | .deferH c t a b => Sys2Proof.Machine.execDeferH c t a b s
  | .deferT c t a => Sys2Proof.Machine.execDeferT c t a s
  | .vtadv c a => Sys2Proof.Machine.execVtadv c a s
  | .savem c d a => Sys2Proof.Machine.execSavem c d a s
  | .gvtw c t a => Sys2Proof.Machine.execGvtw c t a s
  | .bench c t a => Sys2Proof.Machine.execBench c t a s
  | .bstat c d a => Sys2Proof.Machine.execBstat c d a s
  | .bwait c t a => Sys2Proof.Machine.execBwait c t a s
  | .bdrop c a => Sys2Proof.Machine.execBdrop c a s
  | .resultLand site => Sys2Proof.Machine.execResultLand site s
  | .asyncTrap site => Sys2Proof.Machine.execAsyncTrap site s
  | .syncRelease pid => Sys2Proof.Machine.execSyncRelease pid s
  | .scheduledFlitForward site port => Sys2Proof.Machine.execScheduledFlitForward site port s
  | .sendtDepart site => Sys2Proof.Machine.execSendtDepart site s
  | .timedArrival site => Sys2Proof.Machine.execTimedArrival site s
  | .timedQueueDeliver site => Sys2Proof.Machine.execTimedQueueDeliver site s
  | .multicastForward site => Sys2Proof.Machine.execMulticastForward site s
  | .haloArrival src dst => Sys2Proof.Machine.execHaloArrival src dst s
  | .congestionDetect site port plane dst => Sys2Proof.Machine.execCongestionDetect site port plane dst s
  | .congestionNotice site port plane dst => Sys2Proof.Machine.execCongestionNotice site port plane dst s
  | .setasideRelease site port plane dst => Sys2Proof.Machine.execSetasideRelease site port plane dst s
  | .fenceMarker die peer count => Sys2Proof.Machine.execFenceMarker die peer count s
  | .fenceVerdict site peerCount => Sys2Proof.Machine.execFenceVerdict site peerCount s
  | .messageArrival src dst => Sys2Proof.Machine.execMessageArrival src dst s
  | .hamperInputResume site => Sys2Proof.Machine.execHamperInputResume site s
  | .eagerReadoutStart site => Sys2Proof.Machine.execEagerReadoutStart site s
  | .eagerReadoutDone site => Sys2Proof.Machine.execEagerReadoutDone site s
  | .acceptanceArrival src dst => Sys2Proof.Machine.execAcceptanceArrival src dst s
  | .refusalArrival src dst => Sys2Proof.Machine.execRefusalArrival src dst s
  | .ctsSend site => Sys2Proof.Machine.execCtsSend site s
  | .ctsArrival src dst => Sys2Proof.Machine.execCtsArrival src dst s
  | .rendezvousStreamDone site => Sys2Proof.Machine.execRendezvousStreamDone site s
  | .receiveComplete site => Sys2Proof.Machine.execReceiveComplete site s
  | .antiMessageArrival src dst => Sys2Proof.Machine.execAntiMessageArrival src dst s
  | .peerFencedAnswer src dst => Sys2Proof.Machine.execPeerFencedAnswer src dst s
  | .linkFail die other => Sys2Proof.Machine.execLinkFail die other s
  | .quarryPartDispatch site => Sys2Proof.Machine.execQuarryPartDispatch site s
  | .quarryWalk site => Sys2Proof.Machine.execQuarryWalk site s
  | .quarryPartServe src owner => Sys2Proof.Machine.execQuarryPartServe src owner s
  | .quarryReply owner dst => Sys2Proof.Machine.execQuarryReply owner dst s
  | .quarryPartTimeout site tracker => Sys2Proof.Machine.execQuarryPartTimeout site tracker s
  | .trackerHoldbackEnd site tracker => Sys2Proof.Machine.execTrackerHoldbackEnd site tracker s
  | .stealServe src dst => Sys2Proof.Machine.execStealServe src dst s
  | .stealAnswer src dst => Sys2Proof.Machine.execStealAnswer src dst s
  | .dispatch site => Sys2Proof.Machine.execDispatch site s
  | .taskPreempt site => Sys2Proof.Machine.execTaskPreempt site s
  | .pmaskExpire site => Sys2Proof.Machine.execPmaskExpire site s
  | .rollback site => Sys2Proof.Machine.execRollback site s
  | .gvtRoundStart pid => Sys2Proof.Machine.execGvtRoundStart pid s
  | .gvtReportRetry pid => Sys2Proof.Machine.execGvtReportRetry pid s
  | .gvtRelease site => Sys2Proof.Machine.execGvtRelease site s
  | .gvtRoundEnd pid => Sys2Proof.Machine.execGvtRoundEnd pid s
  | .benchAccept pid => Sys2Proof.Machine.execBenchAccept pid s
  | .benchFlip site => Sys2Proof.Machine.execBenchFlip site s
  | .quarryBenchFlip pid owner => Sys2Proof.Machine.execQuarryBenchFlip pid owner s
  | .benchSweep site => Sys2Proof.Machine.execBenchSweep site s
  | .benchSeal pid id => Sys2Proof.Machine.execBenchSeal pid id s
  | .haulPage pid id => Sys2Proof.Machine.execHaulPage pid id s
  | .periodicBench pid => Sys2Proof.Machine.execPeriodicBench pid s
  | .pfail => Sys2Proof.Machine.execPfail s
  | .containment pid => Sys2Proof.Machine.execContainment pid s
  | .containmentDrained pid => Sys2Proof.Machine.execContainmentDrained pid s
  | .preemptionCaptured pid => Sys2Proof.Machine.execPreemptionCaptured pid s
  | .partitionEnd pid => Sys2Proof.Machine.execPartitionEnd pid s
  | .tileHalt site => Sys2Proof.Machine.execTileHalt site s
  | .gangStop pid => Sys2Proof.Machine.execGangStop pid s
  | .gangResume pid => Sys2Proof.Machine.execGangResume pid s
  | .stepDone site => Sys2Proof.Machine.execStepDone site s
  | .dbgctlHalt site => Sys2Proof.Machine.execDbgctlHalt site s
  | .dbgctlStep site => Sys2Proof.Machine.execDbgctlStep site s
  | .dbgctlResume site => Sys2Proof.Machine.execDbgctlResume site s
  | .dbgpcWrite site v => Sys2Proof.Machine.execDbgpcWrite site v s
  | .stepcntWrite site v => Sys2Proof.Machine.execStepcntWrite site v s
  | .finjWrite site v => Sys2Proof.Machine.execFinjWrite site v s
  | .faultInjectDeferred site => Sys2Proof.Machine.execFaultInjectDeferred site s
  | .traceBatchWrite site => Sys2Proof.Machine.execTraceBatchWrite site s
  | .sramScrub site line => Sys2Proof.Machine.execSramScrub site line s
  | .quarryScrub owner block => Sys2Proof.Machine.execQuarryScrub owner block s
  | .xbWrite v => Sys2Proof.Machine.execXbWrite v s
  | .statusWrite v => Sys2Proof.Machine.execStatusWrite v s
  | .rmodeWrite v => Sys2Proof.Machine.execRmodeWrite v s
  | .rseedWrite v => Sys2Proof.Machine.execRseedWrite v s
  | .mailboxWrite side v => Sys2Proof.Machine.execMailboxWrite side v s
  | .trcctlWrite v => Sys2Proof.Machine.execTrcctlWrite v s
  | .hostRegisterWrite win off v => Sys2Proof.Machine.execHostRegisterWrite win off v s
  | .w3Read off => Sys2Proof.Machine.execW3Read off s
  | .w3Write off v => Sys2Proof.Machine.execW3Write off v s
  | .qtailWrite q v => Sys2Proof.Machine.execQtailWrite q v s
  | .ctailWrite v => Sys2Proof.Machine.execCtailWrite v s
  | .otailWrite v => Sys2Proof.Machine.execOtailWrite v s
  | .haltp => Sys2Proof.Machine.execHaltp s
  | .resumep => Sys2Proof.Machine.execResumep s
  | .contain => Sys2Proof.Machine.execContain s
  | .qroot => Sys2Proof.Machine.execQroot s
  | .qinval => Sys2Proof.Machine.execQinval s
  | .qinvalAcknowledge => Sys2Proof.Machine.execQinvalAcknowledge s
  | .retire => Sys2Proof.Machine.execRetire s
  | .portpair => Sys2Proof.Machine.execPortpair s
  | .gvtdom => Sys2Proof.Machine.execGvtdom s
  | .imgreg => Sys2Proof.Machine.execImgreg s
  | .imgdel => Sys2Proof.Machine.execImgdel s
  | .attest => Sys2Proof.Machine.execAttest s
  | .pset => Sys2Proof.Machine.execPset s
  | .pcapWrite v => Sys2Proof.Machine.execPcapWrite v s
  | .benchTake => Sys2Proof.Machine.execBenchTake s
  | .benchRestore => Sys2Proof.Machine.execBenchRestore s
  | .benchDrop => Sys2Proof.Machine.execBenchDrop s
  | .benchKeep => Sys2Proof.Machine.execBenchKeep s
  | .issueBudgetUpdate => Sys2Proof.Machine.execIssueBudgetUpdate s
  | .thermalShutdown => Sys2Proof.Machine.execThermalShutdown s
  | .startSequence => Sys2Proof.Machine.execStartSequence s
  | .bootCheck => Sys2Proof.Machine.execBootCheck s
  | .linkCrcRetry die other => Sys2Proof.Machine.execLinkCrcRetry die other s

end Sys2Proof.Machine
end

