-- ==== Sys2Proof/Machine/Info.lean ====
section
/-! DEFINITION. What the encoding of a slot alone decides: its unit class, the scalar registers it reads, the destinations and the
token it names (R28, R36, R126, R139, R163). -/

namespace Sys2Proof.Machine

open Sys2Proof

/-- The unit classes (R28). -/
inductive UnitClass where
  | none | scalar | control | format | memory | vector | matrix | engine
deriving DecidableEq, Repr

/-- A destination with its latency: scalar, predicates from a first one on, vector, mask, layout entry (R28 condition 4, R36). -/
inductive Dest where
  | x (r : Reg) (lat : Nat)
  | p (first count lat : Nat)
  | v (r : Reg) (lat : Nat)
  | m (r : BitVec 3) (lat : Nat)
  | lt (r : Reg) (lat : Nat)
deriving DecidableEq, Repr

/-- `reads` are the scalar sources that stall and raise TOKERR; `cas` says that the second register is read when X[first] asks for a
compare-and-swap (R226, R230); `mxd` is the destination of a VCVT (R150); `event` marks ERECV, ERECV.NS and VTADV (R299), `floats`
a slot of VEC0, VEC1, VEC5 or VEC7 (R140). -/
structure SlotInfo where
  cls : UnitClass
  ctl : Ctl
  reads : List Reg
  dests : List Dest
  tok : Option Reg
  word : Option Nat
  cas : Option (Reg × Reg)
  mxd : Option Reg
  sig : Bool
  event : Bool
  floats : Bool
deriving DecidableEq, Repr

/-- A no-operation, or a step without encoding: no class (R26). -/
def SlotInfo.none : SlotInfo :=
  { cls := .none, ctl := ⟨false, true, 0⟩, reads := [], dests := [], tok := Option.none, word := Option.none, cas := Option.none,
    mxd := Option.none, sig := false, event := false, floats := false }

/-- A slot with its class, sources and destinations. -/
def SlotInfo.of (k : UnitClass) (c : Ctl) (rs : List Reg) (ds : List Dest) : SlotInfo :=
  { SlotInfo.none with cls := k, ctl := c, reads := rs, dests := ds }

/-- A beat or drain: with sp = 1 it reads the pair of registers and names the first as a destination (R163). -/
def SlotInfo.pair (k : UnitClass) (c : Ctl) (r : Reg) (sp : BitVec 1) (ds : List Dest) : SlotInfo :=
  if sp = 1 then SlotInfo.of k c [r, r + 1] [.x r 1] else SlotInfo.of k c [] ds

/-- The facts of every instruction (R28, R36, R126). -/
def slotInfo : Instr → SlotInfo
  | .nop _ _ _ => .none
  | .add c d a b => .of .scalar c [a, b] [.x d 1]
  | .sub c d a b => .of .scalar c [a, b] [.x d 1]
  | .and c d a b => .of .scalar c [a, b] [.x d 1]
  | .or c d a b => .of .scalar c [a, b] [.x d 1]
  | .xor c d a b => .of .scalar c [a, b] [.x d 1]
  | .andn c d a b => .of .scalar c [a, b] [.x d 1]
  | .orn c d a b => .of .scalar c [a, b] [.x d 1]
  | .xnor c d a b => .of .scalar c [a, b] [.x d 1]
  | .sll c d a b => .of .scalar c [a, b] [.x d 1]
  | .srl c d a b => .of .scalar c [a, b] [.x d 1]
  | .sra c d a b => .of .scalar c [a, b] [.x d 1]
  | .ror c d a b => .of .scalar c [a, b] [.x d 1]
  | .rol c d a b => .of .scalar c [a, b] [.x d 1]
  | .slt c d a b => .of .scalar c [a, b] [.x d 1]
  | .sltu c d a b => .of .scalar c [a, b] [.x d 1]
  | .min c d a b => .of .scalar c [a, b] [.x d 1]
  | .max c d a b => .of .scalar c [a, b] [.x d 1]
  | .minu c d a b => .of .scalar c [a, b] [.x d 1]
  | .maxu c d a b => .of .scalar c [a, b] [.x d 1]
  | .addw c d a b => .of .scalar c [a, b] [.x d 1]
  | .subw c d a b => .of .scalar c [a, b] [.x d 1]
  | .sllw c d a b => .of .scalar c [a, b] [.x d 1]
  | .srlw c d a b => .of .scalar c [a, b] [.x d 1]
  | .sraw c d a b => .of .scalar c [a, b] [.x d 1]
  | .mul c d a b => .of .scalar c [a, b] [.x d 4]
  | .mulh c d a b => .of .scalar c [a, b] [.x d 4]
  | .mulhu c d a b => .of .scalar c [a, b] [.x d 4]
  | .mulhsu c d a b => .of .scalar c [a, b] [.x d 4]
  | .mulw c d a b => .of .scalar c [a, b] [.x d 4]
  | .div c d a b => .of .scalar c [a, b] [.x d 20]
  | .divu c d a b => .of .scalar c [a, b] [.x d 20]
  | .rem c d a b => .of .scalar c [a, b] [.x d 20]
  | .remu c d a b => .of .scalar c [a, b] [.x d 20]
  | .divw c d a b => .of .scalar c [a, b] [.x d 20]
  | .divuw c d a b => .of .scalar c [a, b] [.x d 20]
  | .remw c d a b => .of .scalar c [a, b] [.x d 20]
  | .remuw c d a b => .of .scalar c [a, b] [.x d 20]
  | .clz c d a => .of .scalar c [a] [.x d 1]
  | .ctz c d a => .of .scalar c [a] [.x d 1]
  | .popc c d a => .of .scalar c [a] [.x d 1]
  | .brev c d a => .of .scalar c [a] [.x d 1]
  | .bswap c d a => .of .scalar c [a] [.x d 1]
  | .sextb c d a => .of .scalar c [a] [.x d 1]
  | .sexth c d a => .of .scalar c [a] [.x d 1]
  | .zextb c d a => .of .scalar c [a] [.x d 1]
  | .zexth c d a => .of .scalar c [a] [.x d 1]
  | .zextw c d a => .of .scalar c [a] [.x d 1]
  | .clzw c d a => .of .scalar c [a] [.x d 1]
  | .bext c d a b => .of .scalar c [a, b] [.x d 1]
  | .bset c d a b => .of .scalar c [a, b] [.x d 1]
  | .bclr c d a b => .of .scalar c [a, b] [.x d 1]
  | .binv c d a b => .of .scalar c [a, b] [.x d 1]
  | .bfxu c d a b => .of .scalar c [a, b] [.x d 1]
  | .bfxs c d a b => .of .scalar c [a, b] [.x d 1]
  | .addi c d a _ => .of .scalar c [a] [.x d 1]
  | .andi c d a _ => .of .scalar c [a] [.x d 1]
  | .ori c d a _ => .of .scalar c [a] [.x d 1]
  | .xori c d a _ => .of .scalar c [a] [.x d 1]
  | .slli c d a _ => .of .scalar c [a] [.x d 1]
  | .srli c d a _ => .of .scalar c [a] [.x d 1]
  | .srai c d a _ => .of .scalar c [a] [.x d 1]
  | .rori c d a _ => .of .scalar c [a] [.x d 1]
  | .slliw c d a _ => .of .scalar c [a] [.x d 1]
  | .srliw c d a _ => .of .scalar c [a] [.x d 1]
  | .sraiw c d a _ => .of .scalar c [a] [.x d 1]
  | .ldi c d _ => .of .scalar c [] [.x d 1]
  | .ldh1 c d _ => .of .scalar c [d] [.x d 1]
  | .ldh2 c d _ => .of .scalar c [d] [.x d 1]
  | .ldh3 c d _ => .of .scalar c [d] [.x d 1]
  | .sel c d a b _ => .of .scalar c [a, b] [.x d 1]
  | .addsc c d a b _ => .of .scalar c [a, b] [.x d 1]
  | .ladd c d a b _ => .of .scalar c [a, b] [.x d 1]
  | .chku c a b => .of .scalar c [a, b] []
  | .rdw c d _ => .of .scalar c [] [.x d 2]
  | .wrw c d n => { SlotInfo.of .scalar c [d] [] with word := some n.toNat }
  | .br c _ => .of .control c [] []
  | .call c _ => .of .control c [] [.x 1 1]
  | .jr c a => .of .control c [a] []
  | .jalr c d a => .of .control c [a] [.x d 1]
  | .loop c r _ => .of .control c [r] []
  | .cmp c q a b _ => .of .scalar c [a, b] [.p q.toNat 1 1]
  | .cmpi c q a _ _ => .of .scalar c [a] [.p q.toNat 1 1]
  | .pand c q _ _ => .of .scalar c [] [.p q.toNat 1 1]
  | .por c q _ _ => .of .scalar c [] [.p q.toNat 1 1]
  | .pxor c q _ _ => .of .scalar c [] [.p q.toNat 1 1]
  | .pandn c q _ _ => .of .scalar c [] [.p q.toNat 1 1]
  | .prdg c d _ => .of .scalar c [] [.x d 1]
  | .pwrg c g b => .of .scalar c [b] [.p (64 * g.toNat) 64 1]
  | .trap c a => .of .control c [a] []
  | .rfe c => .of .control c [] []
  | .brk c => .of .control c [] []
  | .idle c a => .of .control c [a] []
  | .ifence c => .of .control c [] []
  | .maskp c => .of .control c [] []
  | .unmaskp c => .of .control c [] []
  | .savelt c a => .of .control c [a] []
  | .rstlt c a => .of .control c [a] []
  | .sync c => .of .control c [] []
  | .lpop c => .of .control c [] []
  | .yield c => .of .control c [] []
  | .suspend c _ => .of .control c [] []
  | .exit c => .of .control c [] []
  | .sig c _ => { SlotInfo.of .scalar c [] [] with sig := true }
  | .pfxM c _ _ _ _ => .of .format c [] []
  | .pfxV c _ _ _ _ => .of .format c [] []
  | .ld c d a _ _ _ => .of .memory c [a] [.x d 4]
  | .st c d a _ _ => .of .memory c [a, d] []
  | .ldx c d a b _ _ _ => .of .memory c [a, b] [.x d 4]
  | .stx c d a b _ _ => .of .memory c [a, b, d] []
  | .vld c d a _ => .of .memory c [a] [.v d 6]
  | .vst c _ a _ => .of .memory c [a] []
  | .vldl c d a _ => .of .memory c [a] [.v d 6]
  | .vldu c d a _ => .of .memory c [a] [.v d 6]
  | .vgth32 c d a _ _ => .of .memory c [a] [.v d 12]
  | .vsct32 c _ a _ _ => .of .memory c [a] []
  | .vgth16 c d a _ _ => .of .memory c [a] [.v d 12]
  | .vsct16 c _ a _ _ => .of .memory c [a] []
  | .vgth8 c d a _ _ => .of .memory c [a] [.v d 12]
  | .vsct8 c _ a _ _ => .of .memory c [a] []
  | .vldm c d a _ => .of .memory c [a] [.v d 12]
  | .vstm c _ a _ => .of .memory c [a] []
  | .ltld c d a => .of .memory c [a] [.lt d 4]
  | .ltst c _ a => .of .memory c [a] []
  | .ltw c d a b => .of .memory c [a, b] [.lt d 1]
  | .ltrl c d _ => .of .memory c [] [.x d 1]
  | .ltrh c d _ => .of .memory c [] [.x d 1]
  | .ltbase c d a => .of .memory c [a] [.lt d 1]
  | .istw c a b => .of .memory c [a, b] []
  | .istv c a _ => .of .memory c [a] []
  | .vadd c d _ _ _ => { SlotInfo.of .vector c [] [.v d 4] with floats := true }
  | .vsub c d _ _ _ => { SlotInfo.of .vector c [] [.v d 4] with floats := true }
  | .vmul c d _ _ _ => { SlotInfo.of .vector c [] [.v d 4] with floats := true }
  | .vfma c d _ _ _ => { SlotInfo.of .vector c [] [.v d 5] with floats := true }
  | .vfnma c d _ _ _ => { SlotInfo.of .vector c [] [.v d 5] with floats := true }
  | .vmin c d _ _ _ => { SlotInfo.of .vector c [] [.v d 4] with floats := true }
  | .vmax c d _ _ _ => { SlotInfo.of .vector c [] [.v d 4] with floats := true }
  | .vfms c d _ _ _ => { SlotInfo.of .vector c [] [.v d 5] with floats := true }
  | .vrcp c d _ _ => { SlotInfo.of .vector c [] [.v d 8] with floats := true }
  | .vrsq c d _ _ => { SlotInfo.of .vector c [] [.v d 8] with floats := true }
  | .vexp2 c d _ _ => { SlotInfo.of .vector c [] [.v d 8] with floats := true }
  | .vlog2 c d _ _ => { SlotInfo.of .vector c [] [.v d 8] with floats := true }
  | .vsinp c d _ _ => { SlotInfo.of .vector c [] [.v d 8] with floats := true }
  | .vtanh c d _ _ => { SlotInfo.of .vector c [] [.v d 8] with floats := true }
  | .vdiv c d _ _ _ => { SlotInfo.of .vector c [] [.v d 8] with floats := true }
  | .vsqrt c d _ _ => { SlotInfo.of .vector c [] [.v d 8] with floats := true }
  | .viadd c d _ _ _ => .of .vector c [] [.v d 2]
  | .visub c d _ _ _ => .of .vector c [] [.v d 2]
  | .vimul c d _ _ _ => .of .vector c [] [.v d 2]
  | .vimulh c d _ _ _ => .of .vector c [] [.v d 2]
  | .viadds c d _ _ _ => .of .vector c [] [.v d 2]
  | .visubs c d _ _ _ => .of .vector c [] [.v d 2]
  | .vimin c d _ _ _ => .of .vector c [] [.v d 2]
  | .vimax c d _ _ _ => .of .vector c [] [.v d 2]
  | .vand c d _ _ _ => .of .vector c [] [.v d 2]
  | .vor c d _ _ _ => .of .vector c [] [.v d 2]
  | .vxor c d _ _ _ => .of .vector c [] [.v d 2]
  | .vandn c d _ _ _ => .of .vector c [] [.v d 2]
  | .vsll c d _ _ _ => .of .vector c [] [.v d 2]
  | .vsrl c d _ _ _ => .of .vector c [] [.v d 2]
  | .vsra c d _ _ _ => .of .vector c [] [.v d 2]
  | .vbsl c d _ _ _ => .of .vector c [] [.v d 2]
  | .vceq c d _ _ _ => .of .vector c [] [.m d 2]
  | .vcne c d _ _ _ => .of .vector c [] [.m d 2]
  | .vclt c d _ _ _ => .of .vector c [] [.m d 2]
  | .vcle c d _ _ _ => .of .vector c [] [.m d 2]
  | .vcun c d _ _ _ => .of .vector c [] [.m d 2]
  | .vctst c d _ _ _ => .of .vector c [] [.m d 2]
  | .vcvt c d _ _ _ => { SlotInfo.of .vector c [] [.v d 4] with mxd := some d, floats := true }
  | .vrint c d _ _ => { SlotInfo.of .vector c [] [.v d 4] with floats := true }
  | .vmov c d _ _ => .of .vector c [] [.v d 2]
  | .vsel c d _ _ _ => .of .vector c [] [.v d 2]
  | .vabs c d _ _ => .of .vector c [] [.v d 2]
  | .vneg c d _ _ => .of .vector c [] [.v d 2]
  | .vcpys c d _ _ _ => .of .vector c [] [.v d 2]
  | .vfrsum c d _ _ => { SlotInfo.of .vector c [] [.v d 8] with floats := true }
  | .vfrmax c d _ _ => { SlotInfo.of .vector c [] [.v d 8] with floats := true }
  | .vfrmin c d _ _ => { SlotInfo.of .vector c [] [.v d 8] with floats := true }
  | .vfscan c d _ _ => { SlotInfo.of .vector c [] [.v d 8] with floats := true }
  | .virsum c d _ _ => { SlotInfo.of .vector c [] [.v d 8] with floats := true }
  | .virmax c d _ _ => { SlotInfo.of .vector c [] [.v d 8] with floats := true }
  | .virmin c d _ _ => { SlotInfo.of .vector c [] [.v d 8] with floats := true }
  | .viscan c d _ _ => { SlotInfo.of .vector c [] [.v d 8] with floats := true }
  | .vbcst c d a _ => .of .vector c [a] [.v d 2]
  | .vbcsti c d _ _ => .of .vector c [] [.v d 2]
  | .vextr c d _ b => .of .vector c [b] [.x d 3]
  | .vins c d a b => .of .vector c [a, b] [.v d 2]
  | .viota c d _ => .of .vector c [] [.v d 2]
  | .vperm c d _ _ _ => .of .vector c [] [.v d 3]
  | .vcomp c d _ _ => .of .vector c [] [.v d 3]
  | .vexpd c d _ _ => .of .vector c [] [.v d 3]
  | .vcpos c d _ => .of .vector c [] [.v d 3]
  | .vsldn c d _ b _ => .of .vector c [b] [.v d 3]
  | .vslup c d _ b _ => .of .vector c [b] [.v d 3]
  | .mand c d _ _ => .of .vector c [] [.m d 2]
  | .mor c d _ _ => .of .vector c [] [.m d 2]
  | .mxor c d _ _ => .of .vector c [] [.m d 2]
  | .mandn c d _ _ => .of .vector c [] [.m d 2]
  | .mfromx c d a => .of .vector c [a] [.m d 2]
  | .mtox c d _ => .of .vector c [] [.x d 2]
  | .mpopc c d _ => .of .vector c [] [.x d 2]
  | .mffs c d _ => .of .vector c [] [.x d 2]
  | .mzero c _ _ => .of .matrix c [] []
  | .mpush c _ _ _ src _ p => .pair .matrix c src p []
  | .macc c _ _ _ src _ p => .pair .matrix c src p []
  | .mshift c _ src _ p => .pair .matrix c src p []
  | .mlatch c _ _ src _ p => .pair .matrix c src p []
  | .mlside c _ _ src _ p => .pair .matrix c src p []
  | .mdrain c _ _ d p _ _ _ _ => .pair .matrix c d p [.v d 6]
  | .msclrA c a => .of .matrix c [a] []
  | .msclrB c a => .of .matrix c [a] []
  | .mrds c d _ => .of .matrix c [] [.x d 2]
  | .send c t a b _ => { SlotInfo.of .engine c [a, b] [] with tok := some t }
  | .sendR c t a b _ => { SlotInfo.of .engine c [a, b] [] with tok := some t }
  | .recv c t a _ => { SlotInfo.of .engine c [a] [] with tok := some t }
  | .testt c d _ => .of .engine c [] [.x d 2]
  | .probe c d a => { SlotInfo.of .engine c [a] [] with tok := some d }
  | .cancel c _ => .of .engine c [] []
  | .waitany c d a => .of .engine c [a] [.x d 1]
  | .envr c d a b => .of .engine c [a, b] [.x d 2]
  | .qget c t a _ => { SlotInfo.of .engine c [a] [] with tok := some t }
  | .qput c t a _ => { SlotInfo.of .engine c [a] [] with tok := some t }
  | .qgett c t a b _ => { SlotInfo.of .engine c [a, b, b + 1] [] with tok := some t }
  | .qputt c t a b _ => { SlotInfo.of .engine c [a, b, b + 1] [] with tok := some t }
  | .qatom c t a b _ => { SlotInfo.of .engine c [a, b] [] with tok := some t, cas := some (a, b + 1) }
  | .qgath c t a _ => { SlotInfo.of .engine c [a] [] with tok := some t }
  | .qscat c t a _ => { SlotInfo.of .engine c [a] [] with tok := some t }
  | .qfill c t a b => { SlotInfo.of .engine c [a, b, b + 1] [] with tok := some t }
  | .qcopy c t a b => { SlotInfo.of .engine c [a, b, b + 1] [] with tok := some t }
  | .fenceQ c t => { SlotInfo.of .engine c [] [] with tok := some t }
  | .spawn c d a => .of .engine c [a] [.x d 2]
  | .spawnr c d a => .of .engine c [a] [.x d 2]
  | .pop c d a => .of .engine c [a] [.x d 2]
  | .steal c t a => { SlotInfo.of .engine c [a] [] with tok := some t }
  | .stealX c t a => { SlotInfo.of .engine c [a] [] with tok := some t }
  | .dqst c d => .of .engine c [] [.x d 2]
  | .widf c d a _ => .of .engine c [a] [.x d 2]
  | .wids c d a b _ => .of .engine c [a, b] [.x d 2]
  | .sendt c t a b _ => { SlotInfo.of .engine c [a, b] [] with tok := some t }
  | .msend c t a _ => { SlotInfo.of .engine c [a] [] with tok := some t }
  | .halo c t a _ => { SlotInfo.of .engine c [a] [] with tok := some t }
  | .waitmb c a _ => .of .engine c [a] []
  | .fencex c t a => { SlotInfo.of .engine c [a] [] with tok := some t }
  | .mgset c a b => .of .engine c [a, b] []
  | .fstat c d _ => .of .engine c [] [.x d 2]
  | .erecv c t a _ => { SlotInfo.of .engine c [a] [] with tok := some t, event := true }
  | .erecvNs c t a _ => { SlotInfo.of .engine c [a] [] with tok := some t, event := true }
  | .deferH c t a b => { SlotInfo.of .engine c [a, b] [] with tok := some t }
  | .deferT c t a => { SlotInfo.of .engine c [a] [] with tok := some t }
  | .vtadv c a => { SlotInfo.of .engine c [a] [] with event := true }
  | .savem c d a => .of .engine c [a] [.x d 2]
  | .gvtw c t a => { SlotInfo.of .engine c [a] [] with tok := some t }
  | .bench c t a => { SlotInfo.of .engine c [a] [] with tok := some t }
  | .bstat c d a => .of .engine c [a] [.x d 2]
  | .bwait c t a => { SlotInfo.of .engine c [a] [] with tok := some t }
  | .bdrop c a => .of .engine c [a] []
  | .resultLand _ => .none
  | .asyncTrap _ => .none
  | .syncRelease _ => .none
  | .scheduledFlitForward _ _ => .none
  | .sendtDepart _ => .none
  | .timedArrival _ => .none
  | .timedQueueDeliver _ => .none
  | .multicastForward _ => .none
  | .haloArrival _ _ => .none
  | .congestionDetect _ _ _ _ => .none
  | .congestionNotice _ _ _ _ => .none
  | .setasideRelease _ _ _ _ => .none
  | .fenceMarker _ _ _ => .none
  | .fenceVerdict _ _ => .none
  | .messageArrival _ _ => .none
  | .hamperInputResume _ => .none
  | .eagerReadoutStart _ => .none
  | .eagerReadoutDone _ => .none
  | .acceptanceArrival _ _ => .none
  | .refusalArrival _ _ => .none
  | .ctsSend _ => .none
  | .ctsArrival _ _ => .none
  | .rendezvousStreamDone _ => .none
  | .receiveComplete _ => .none
  | .antiMessageArrival _ _ => .none
  | .peerFencedAnswer _ _ => .none
  | .linkFail _ _ => .none
  | .quarryPartDispatch _ => .none
  | .quarryWalk _ => .none
  | .quarryPartServe _ _ => .none
  | .quarryReply _ _ => .none
  | .quarryPartTimeout _ _ => .none
  | .trackerHoldbackEnd _ _ => .none
  | .stealServe _ _ => .none
  | .stealAnswer _ _ => .none
  | .dispatch _ => .none
  | .taskPreempt _ => .none
  | .pmaskExpire _ => .none
  | .rollback _ => .none
  | .gvtRoundStart _ => .none
  | .gvtReportRetry _ => .none
  | .gvtRelease _ => .none
  | .gvtRoundEnd _ => .none
  | .benchAccept _ => .none
  | .benchFlip _ => .none
  | .quarryBenchFlip _ _ => .none
  | .benchSweep _ => .none
  | .benchSeal _ _ => .none
  | .haulPage _ _ => .none
  | .periodicBench _ => .none
  | .pfail => .none
  | .containment _ => .none
  | .containmentDrained _ => .none
  | .preemptionCaptured _ => .none
  | .partitionEnd _ => .none
  | .tileHalt _ => .none
  | .gangStop _ => .none
  | .gangResume _ => .none
  | .stepDone _ => .none
  | .dbgctlHalt _ => .none
  | .dbgctlStep _ => .none
  | .dbgctlResume _ => .none
  | .dbgpcWrite _ _ => .none
  | .stepcntWrite _ _ => .none
  | .finjWrite _ _ => .none
  | .faultInjectDeferred _ => .none
  | .traceBatchWrite _ => .none
  | .sramScrub _ _ => .none
  | .quarryScrub _ _ => .none
  | .xbWrite _ => .none
  | .statusWrite _ => .none
  | .rmodeWrite _ => .none
  | .rseedWrite _ => .none
  | .mailboxWrite _ _ => .none
  | .trcctlWrite _ => .none
  | .hostRegisterWrite _ _ _ => .none
  | .w3Read _ => .none
  | .w3Write _ _ => .none
  | .qtailWrite _ _ => .none
  | .ctailWrite _ => .none
  | .otailWrite _ => .none
  | .haltp => .none
  | .resumep => .none
  | .contain => .none
  | .qroot => .none
  | .qinval => .none
  | .qinvalAcknowledge => .none
  | .retire => .none
  | .portpair => .none
  | .gvtdom => .none
  | .imgreg => .none
  | .imgdel => .none
  | .attest => .none
  | .pset => .none
  | .pcapWrite _ => .none
  | .benchTake => .none
  | .benchRestore => .none
  | .benchDrop => .none
  | .benchKeep => .none
  | .issueBudgetUpdate => .none
  | .thermalShutdown => .none
  | .startSequence => .none
  | .bootCheck => .none
  | .linkCrcRetry _ _ => .none

end Sys2Proof.Machine
end

