-- ==== Sys2Proof/Machine/Issue.lean ====
section
/-! DEFINITION. The issue of a bundle: fetch, the bundle rules, stalls, traps, and the effects of its slots at its commit (R25 to R37, R123 to
R126, R140, R299 to R303, R354 to R360, R389 to R394). -/

namespace Sys2Proof.Machine

open Sys2Proof

noncomputable section

/-! ## Decoding a bundle (R27, R28) -/

/-- A slot of a bundle: its place, its word, the instruction it decodes to, and what its encoding decides. -/
structure Slot where
  idx : Nat
  word : BitVec 32
  ins : Instr
  info : SlotInfo
deriving DecidableEq, Repr

/-- The slots before the first word that is no instruction (R356). -/
def decodePrefix : Nat → List (BitVec 32) → List Slot
  | _, [] => []
  | n, w :: r => match decodeWord w with
    | .error _ => []
    | .ok i => ⟨n, w, i, slotInfo i⟩ :: decodePrefix (n + 1) r

/-- The slots of a bundle, or the first word that is no instruction (R33, R356). -/
def decodeSlots : Nat → List (BitVec 32) → Except (BitVec 32) (List Slot)
  | _, [] => .ok []
  | n, w :: r => match decodeWord w with
    | .error _ => .error w
    | .ok i => match decodeSlots (n + 1) r with
      | .ok l => .ok (⟨n, w, i, slotInfo i⟩ :: l)
      | .error e => .error e

/-- The slot executes (R25, R26). -/
def slotOn (t : Tile) (x : Slot) : Bool := decide (x.info.cls ≠ .none) && guardOf t x.info.ctl

/-- The scalar registers that a slot reads at issue; a QATOM reads X[b + 1] for a compare-and-swap only (R226). -/
def readsOf (t : Tile) (x : Slot) : List Reg :=
  x.info.reads ++ (match x.info.cas with
    | some (a, r) => if bitsOf (xGet t.th a) 56 4 = 8 then [r] else []
    | none => [])

/-- The destinations of a slot; the prefix that the bundle consumes adds V[d + 1] to a VCVT into an MX format (R28, R150). -/
def destsOf (t : Tile) (x : Slot) : List Dest :=
  x.info.dests ++ (match x.info.mxd, t.th.pfx with
    | some d, some p => if p.vec && isMx p.fb.toNat && decide (d ≠ 31) && !t.sup then [.v (d + 1) 4] else []
    | _, _ => [])

/-- Two destinations are the same register with the same latency; x0, p0 and m0 are exempt (R28 condition 4). -/
def sameDest : Dest → Dest → Bool
  | .x r n, .x q m => decide (r = q) && decide (n = m) && decide (r ≠ 0)
  | .p a k n, .p b j m => decide (n = m) && decide (max (max a b) 1 < min (a + k) (b + j))
  | .v r n, .v q m => decide (r = q) && decide (n = m)
  | .m r n, .m q m => decide (r = q) && decide (n = m) && decide (r ≠ 0)
  | .lt r n, .lt q m => decide (r = q) && decide (n = m)
  | _, _ => false

/-- Some pair of different slots meets. -/
def anyPair (f : Slot → Slot → Bool) (l : List Slot) : Bool := l.any (fun x => l.any (fun y => decide (x.idx ≠ y.idx) && f x y))

def classCount (l : List Slot) (k : UnitClass) : Nat := l.countP (fun x => x.info.cls = k)

/-- The first condition of R28 that a decoded bundle breaks; condition 1 is the scan's. -/
def bundleBad (t : Tile) (l : List Slot) : Option Nat :=
  if l.length < 4 then some 2
  else if 2 < classCount l .scalar ∨ 2 < classCount l .memory ∨ [UnitClass.control, .format, .vector, .matrix, .engine].any (fun k => decide (1 < classCount l k))
    then some 3
  else if anyPair (fun x y => (destsOf t x).any (fun d => (destsOf t y).any (sameDest d))) l then some 4
  else if anyPair (fun x y => x.info.dests.any (fun d => match d with
      | .x r _ => decide (y.info.tok = some r)
      | _ => false)) l then some 5
  else if anyPair (fun x y => x.info.word.isSome && decide (x.info.word = y.info.word)) l then some 6
  else if 1 < l.countP (fun x => x.info.sig) then some 7
  else none

/-! ## What is decided before the slots execute (R73, R126, R140) -/

/-- The registers that a slot's stall does not count: those that WAITANY or IDLE names by its mask, WAITANY's own, and the one that TESTT
tests (R204, R366). -/
def exemptRegs (t : Tile) (x : Slot) : BitVec 32 := match x.ins with
  | .waitany _ _ a => setBits ((xGet t.th a).setWidth 32) a.toNat 1 1
  | .idle _ a => (xGet t.th a).setWidth 32
  | .testt _ _ a => setBits 0 a.toNat 1 1
  | _ => 0

/-- The registers that a slot reads, writes or names as a token, and that stall it while they are pending (R126). -/
def namedRegs (t : Tile) (x : Slot) : List Reg :=
  (readsOf t x ++ x.info.dests.filterMap (fun d => match d with
    | .x r _ => some r
    | _ => none) ++ x.info.tok.toList).filter (fun r => !(exemptRegs t x).getLsbD r.toNat)

/-- Those of them that are pending, as a mask. -/
def pendingMask (t : Tile) (l : List Slot) : BitVec 32 :=
  let rs := (l.map (namedRegs t)).flatten
  BitVec.ofNat 32 (((upto 32).filter (fun r => isPend t.th r && rs.any (fun q => q.toNat = r))).foldl (fun n r => n + 2 ^ r) 0)

/-- TOKERR: the word in the lowest register that an executing slot reads, that holds a completion word with E = 1 (R73, R356). -/
def tokErr (t : Tile) (l : List Slot) : Option W64 :=
  let rs := ((l.filter (slotOn t)).map (readsOf t)).flatten
  if statusBit t 2 then
    ((upto 32).find? (fun r => rs.any (fun q => q.toNat = r) && decide (r ≠ 0) && t.th.tokw.getLsbD r && (cellGet t.th.x r).getLsbD 63)).map (cellGet t.th.x)
  else none

/-- The causes known before the slots execute, with the slot that they stand for. -/
def earlyCauses (t : Tile) (l : List Slot) (hits : List Nat) : List (Nat × Nat × W64) :=
  (match bundleBad t l with
    | some n => [(0x02, 0, BitVec.ofNat 64 n)]
    | none => [])
  ++ (match tokErr t l with
    | some w => [(0x09, 0, w)]
    | none => [])
  ++ (match hits.min? with
    | some h => [(0x14, 0, BitVec.ofNat 64 h)]
    | none => [])

/-! ## Executing the slots (R30, R58, R125) -/

/-- M slots come first, for the order of the generator (R58), then the others by address, the E slot last (R125). -/
def inOrder (l : List Slot) : List Slot :=
  l.filter (fun x => x.info.cls = .matrix) ++ l.filter (fun x => decide (x.info.cls ≠ .matrix) && decide (x.info.cls ≠ .engine))
    ++ l.filter (fun x => x.info.cls = .engine)

/-- Each slot executes on the state as it stood before the bundle; what it does gathers in the issue group (R30). -/
def runSlots : List Slot → State → Out
  | [], s => .next s
  | x :: r, s => match exec x.ins (updIss s (fun i => { i with slot := x.idx })) with
    | .next s' => runSlots r s'
    | .fault f => .fault f
    | .refused f => .refused f

/-- The bundle's words at the pc, with its early causes. -/
def openBundle (s : State) (ws : List (BitVec 32)) (pre : List (Nat × Nat × W64)) : State :=
  updIss s (fun _ => { Issue.empty with addr := s.tile.th.pc, words := ws, causes := pre })

/-- The words that an executed WAITMB of the bundle makes visible: no load of the bundle finds what a counted row of that side has overwritten
(R253). -/
def mailboxSeen (t : Tile) (l : List Slot) : Tile :=
  if t.haloOld = [] then t else
  let sides := (l.filter (slotOn t)).filterMap (fun x => match x.ins with
    | .waitmb _ _ e => some (0x050 + e.toNat)
    | _ => none)
  { t with haloOld := t.haloOld.filter (fun h => match h.counted with
    | some n => !sides.contains n
    | none => true) }

/-- The lowest code, and of one code the first offending slot (R356, R357). -/
def lowestCause : List (Nat × Nat × W64) → Option (Nat × Nat × W64)
  | [] => none
  | c :: r => match lowestCause r with
    | some d => if d.1 < c.1 ∨ (d.1 = c.1 ∧ d.2.1 < c.2.1) then some d else some c
    | none => some c

/-! ## Debug events before a bundle (R389 to R392) -/

def spanLen (bs : List (Nat × Byte)) : List (Nat × Nat) := bs.map (fun p => (p.1, 1))

/-- The bytes that drains of the group will write. -/
def drainBytes (fs : List Flight) : List (Nat × Byte) := (fs.filterMap (fun f => match f.res with
  | .bytes bs => some bs
  | _ => none)).flatten

/-- The watchpoints that the bundle at the pc would match as it issues. -/
def watchDue (s : State) : List Nat :=
  if !watching s.tile then [] else
  match scanBundle s s.tile.th.pc with
  | .words ws => match decodeSlots 0 ws with
    | .ok l =>
      if pendingMask s.tile l ≠ 0 ∨ (bundleBad s.tile l).isSome then [] else
      (match runSlots (inOrder l) (openBundle s ws []) with
       | .next s' => watchHits s.tile s'.tile.iss.reads
         (spanLen (s'.tile.iss.stores ++ drainBytes (s'.tile.iss.flights.map (·.2))) ++ s'.tile.iss.codes.map (fun p => (p.1, 4)))
       | _ => [])
    | .error _ => []
  | _ => []

/-- The debug events of the bundle at the pc, less those that this attempt passes and BKPD while it arms an injection (R392, R394). -/
def debugHits (s : State) : List Nat :=
  let t := s.tile
  unpassed t (((bkptHits t).filter (fun h => !(decide (h = 4) && injectDue t))) ++ watchDue s)

/-- A debug event halts the tile with the lowest HCAUSE (R392). -/
def debugHalt (s : State) (hits : List Nat) : State :=
  let s := haltHere s (if hits.any (fun h => decide (h < 5)) then 3 else 4)
  { s with tile := updDbg s.tile (fun d => { d with hits := hits, hitPc := s.tile.th.pc }) }

/-! ## Traps of a bundle (R106, R354 to R360, R404) -/

/-- SIGCTL.MISS and the record of a mismatch (R106, R403). -/
def missSig (s : State) (v : W64) : State :=
  let old := cwGet s.tile 0x110
  let s := { s with tile := cwPut s.tile 0x110 (setBits old 16 16 (min 0xFFFF (bitsOf old 16 16 + 1))) }
  relRecord s 0x31 2 0 (rankOf s.tile) 0 (bitsOf v 0 16) (bitsOf v 16 16) (ltagOf s s.tile.pid) (cwGet s.tile 0x023).toNat

/-- SIGPOL (R404, R407). -/
def sigContains (s : State) : Bool := (w0Get s 0x220).getLsbD 0

/-- The bundle at the pc traps and has no effect (R354); a debug event is remembered for the attempt after RFE (R392). -/
def trapBundle (s : State) (hits : List Nat) (code : Nat) (tval : W64) : State :=
  let pc := s.tile.th.pc
  let t := { s.tile with iss := Issue.empty, stall := none }
  let t := updDbg t (fun d => { d with passing := false, hits := [], stops := if code = 0x14 then (pc, hits) :: d.stops else d.stops })
  let s := { s with tile := t }
  if code = 0x19 then
    let s := missSig s tval
    if sigContains s then contain s t.pid 0x19 0 else takeTrap s code tval pc
  else takeTrap s code tval pc

/-! ## Stalls (R34, R123, R124, R186, R207, R250, R253, R319) -/

/-- The tile stalls before its bundle: what lands at the start of the bundle's issue cycle has landed, and nothing moves on (R34, log 101); a
task switch that is due is taken (R277). -/
def stallAt (s : State) (k : Stall) : State :=
  let s := { s with tile := traceNote { s.tile with stall := some k } (hereCyc s) }
  if quietBoundary s.tile then (switchDue s).getD s else s

/-- A user issue cycle without a bundle counts towards a masked pre-emption's budget (R368). -/
def spendCycle (t : Tile) : Tile := if t.sup then t else updDisp t (fun d => { d with maskLeft := d.maskLeft - 1 })

/-- An issue cycle of the tile counts in the run of 64 fabric cycles that it falls in (R422). -/
def spendBudget (t : Tile) (now : Nat) : Tile :=
  let win := now / 64
  { t with budgetAt := win, budgetUsed := if t.budgetAt = win then t.budgetUsed + 1 else 1 }

/-- An inserted issue cycle in which no bundle issues: results advance through it (R34, R299). -/
def insertCycle (s : State) (k : Stall) : State :=
  { s with tile := traceNote (spendBudget (spendCycle { s.tile with began := false, iss := Issue.empty, stall := some k }) s.cyc) (hereCyc s) }

/-- The lines of an access of `n` bytes. -/
def lineSpan (p : Nat × Nat) : Nat × Nat := (lineOf p.1, lineOf (p.1 + (p.2 - 1)))

/-- The accesses of the group: write, first and last line (R124). -/
def accesses (i : Issue) : List (Bool × Nat × Nat) :=
  i.reads.map (fun p => (false, lineSpan p)) ++ (linesOf i.stores).map (fun l => (true, l, l))
    ++ i.spans.map (fun p => (p.2.2, p.1, p.2.1)) ++ i.quiet.map (fun p => (p.2.2, lineSpan (p.1, p.2.1)))

/-- A held entry stops an access or a drain of the group. -/
def rangeBlocked (t : Tile) (i : Issue) : Bool :=
  let stop (w : Bool) (p : Nat × Nat) : Bool := t.eng.ranges.any (fun r => (w || r.write) && overlaps (r.first, r.last) p)
  (accesses i).any (fun a => stop a.1 a.2) || (linesOf (drainBytes (i.flights.map (·.2)))).any (fun l => stop true (l, l))

/-- A drain in flight, or a frozen one, stops an access of the group (R176, R359). -/
def drainBlocked (t : Tile) (i : Issue) : Bool :=
  (accesses i).any (fun a => (drainSpans t.th.flights ++ drainSpans t.frozen).any (fun d => overlaps d a.2))

def entriesShort (t : Tile) (i : Issue) : Bool := decide (32 < t.eng.ranges.length + i.spans.length)

/-- Receives and read requests of the group and of the engines' queue find the posted list full (R186, R225). -/
def postedShort (t : Tile) (i : Issue) : Bool :=
  let posts (o : EngOp) : Bool := decide (o.kind = .recv) || takesPosted o.kind
  decide (0 < i.ops.countP posts) && decide (32 < t.eng.posted.length + t.eng.ops.countP posts + i.ops.countP posts)

/-- The timed-send buffer of 16 entries is full (R250). -/
def timedShort (t : Tile) (i : Issue) : Bool :=
  decide (0 < i.ops.countP (fun o => o.kind = .sendt))
    && decide (16 ≤ t.rt.buffer.length)

/-- The wait of a slot of its own: WAITMB and WAITANY (R253, R207). -/
def slotWait (s : State) (x : Slot) : Option Stall :=
  if !slotOn s.tile x then none else
  match x.ins with
  | .waitmb _ a e => if mailboxShort s a e then some (.mailbox e (bitsOf (X s a) 0 32)) else none
  | .waitany _ _ a =>
    let set := anySet (X s a)
    if !set.isEmpty && set.all (fun n => isPend s.tile.th n) then some (.any (BitVec.ofNat 32 (set.foldl (fun n r => n + 2 ^ r) 0))) else none
  | _ => none

/-! ## Events and their resources (R299, R303, R319 to R321) -/

/-- The bundle opens an event with a waymark (R299, R320). -/
def opensMark (t : Tile) (i : Issue) : Bool := match i.event with
  | some (_, m, ns) => (m.isSome && !joinsSegment t ns) || i.ops.isEmpty
  | none => false

/-- Why a bundle that opens an event may not issue yet: a rollback, or a stall (R319, R321). -/
inductive EventHold where
  | go
  | roll (s : State)
  | stall (k : Stall)
deriving DecidableEq, Repr

/-- Stall condition 4 of R319, with the records that the bundle's own stores need beside the frame (R303). -/
def markShort (t : Tile) (i : Issue) : Bool :=
  opensMark t i && (eventShort t || decide (trailFree t < nextFrame t + notedOf t 0 + (linesOf i.stores).length))

def eventHold (s : State) : EventHold :=
  let t := s.tile
  let i := t.iss
  match i.event with
  | none => .go
  | some (_, m, _) =>
    match m, i.ops with
    | some x, _ =>
      if isStraggler t x.hdr then .roll (stragglerDue s x.hdr)
      else if beyondWindow t x.hdr || markShort t i then .stall .window else .go
    | none, o :: _ => if cwGet t 0x031 = BitVec.allOnes 64 then .go else .stall (.erecv (rankLow o.a) (tagOf o.a) o.mask o.grp)
    | none, [] => if i.causes = [] && markShort t i then .stall .other else .go

/-- The bundle waits for its results in flight to land before it places a waymark, and before its operands are judged (R299); an ERECV that
finds no entry under GVT = ∞ and an ERECV.NS that joins its segment place none (R319, R320). -/
def drainsFirst (t : Tile) (i : Issue) : Bool :=
  isOpt t && !t.sup && decide (t.th.flights ≠ []) && (match i.event with
    | some (_, m, ns) => !joinsSegment t ns && (m.isSome || i.ops.isEmpty || decide (cwGet t 0x031 ≠ BitVec.allOnes 64))
    | none => false)

/-- The commit-queue kind of a deferred action (R310). -/
def deferKind (k : EngKind) : Option Nat :=
  if isWriteKind k then some 1 else match k with
  | .deferH => some 2
  | .deferT => some 3
  | .bench => some 4
  | .bdrop => some 5
  | _ => none

def isSend (o : EngOp) : Bool := match o.kind with
  | .send _ => true
  | _ => false

/-- Sends and deferred actions that a restored tile still has to suppress (R336). -/
def skipsSend (t : Tile) (o : EngOp) : Bool := isSend o && decide (0 < t.bench.leftSends) && decide (curSeg t = t.bench.skipSeg)
def skipsDefer (t : Tile) (o : EngOp) : Bool := (deferKind o.kind).isSome && decide (0 < t.bench.leftDefers) && decide (curSeg t = t.bench.skipSeg)

/-- The region that a bundle opening no event finds short before it issues (R303). -/
def shortBefore (t : Tile) (i : Issue) : Option Nat :=
  if !isOpt t then none
  else if decide (trailFree t < trailNeed t (i.stores.map (·.1))) && !opensMark t i then some 0
  else if i.ops.any (fun o => isSend o && !skipsSend t o) && decide (logFree t = 0) then some 1
  else if i.ops.any (fun o => (deferKind o.kind).isSome && !skipsDefer t o) && decide (commitFree t = 0) then some 2
  else none

/-! ## The commit of a bundle -/

/-- A token register becomes pending (R36, R126). -/
def pendTok (s : State) (r : Reg) : State :=
  if r = 0 then s else
  let th := s.tile.th
  { s with tile := { s.tile with th := { th with pend := setBits th.pend r.toNat 1 1, tokw := setBits th.tokw r.toNat 1 0 } } }

/-- Range entries of the group's spans, and their numbers (R123). -/
def takeRanges : List (Nat × Nat × Bool) → State → List Nat × State
  | [], s => ([], s)
  | p :: r, s =>
    let (id, s) := freshId s
    let (ids, s) := takeRanges r (updEng s (fun e => { e with ranges := e.ranges ++ [⟨id, p.1, p.2.1, p.2.2⟩] }))
    (id :: ids, s)

/-- The entry of the posted list that a deferred request with a reply takes at its issue (R225). -/
def reservePosted (s : State) (o : EngOp) : Option Nat × State :=
  if takesPosted o.kind then
    let (id, s) := freshId s
    let p : Posted := { id := id, uid := o.uid, tok := o.tok, rank := 0, tag := 0, mask := 0, grp := 0, lt := o.lts.headD 0, rng := [], st := .posted,
                        req := some id, since := s.cyc, ev := false, seg := o.seg }
    (some id, updEng s (fun e => { e with posted := e.posted ++ [p] }))
  else (none, s)

/-- A deferred action enters the commit queue with its payload copied, and its R entries are freed (R310). -/
def deferOp (s : State) (o : EngOp) (kind : Nat) : State :=
  let s := checkRead s (match o.kind with
    | .qput => ltAddrs (o.lts.headD 0)
    | .qputt => ltAddrs (o.lts.headD 0)
    | .qscat => ltAddrs (o.lts.headD 0) ++ ltAddrs (o.lts.getD 1 0)
    | _ => []) 6 true
  let held := (s.tile.eng.ranges.filter (fun r => o.rng.contains r.id && !r.write)).map (·.id)
  let (id, s) := reservePosted s o
  let c : Commit := { kind := kind, op := { o with rng := o.rng.filter (fun i => !held.contains i) }, vt := o.lvt, payload := qData s.tile.mem o,
                      seg := o.seg, released := false, slot := 0, req := id }
  let s := dropRanges s held
  { s with tile := pushCommit s.tile c }

/-- The bytes that a suppressed action would report (log 40). -/
def skipBytes (o : EngOp) : Nat := match o.kind with
  | .deferH => 16
  | .deferT => 8
  | _ => ltSize (o.lts.headD 0)

/-- An operation is handed to the engines, a timed send to the time buffer (R250); in an optimistic partition a send is logged and the actions of R310 are deferred; a
send or action that R336 suppresses completes at once. -/
def issueOp (s : State) (o : EngOp) : State :=
  let queue (s : State) : State := updEng s (fun e => { e with ops := e.ops ++ [o] })
  let t := s.tile
  let six (s : State) : State := { s with tile := { s.tile with vt := { s.tile.vt with six := s.tile.vt.six + 1 } } }
  let skip (s : State) (f : BenchUnit → BenchUnit) : State :=
    finish (dropRanges { s with tile := { s.tile with bench := f s.tile.bench } } o.rng) o.uid o.tok (compOk (skipBytes o))
  if isOpt t then
    match o.kind with
    | .send _ =>
      if skipsSend t o then skip (six s) (fun b => { b with leftSends := b.leftSends - 1 })
      else queue (six { s with tile := pushLog t (logEntry o) })
    | .backSend => queue { s with tile := raiseAsync t 0x10 o.b }
    | k => match deferKind k with
      | some n => if skipsDefer t o then skip s (fun b => { b with leftDefers := b.leftDefers - 1 }) else deferOp s o n
      | none => queue s
  else
    match o.kind with
    | .sendt => (timedSend o s).getD (queue s)
    | .steal _ => queue (if o.c = 1 then { s with tile := updDisp t (fun d => { d with reserved := d.reserved + 1 }) } else s)
    | _ => queue s

/-- The event of the bundle opens before any other effect: its waymark saves the state as it stands (R299). -/
def commitEvent (i : Issue) (s : State) : State :=
  match i.event with
  | none => s
  | some ev =>
    match i.ops with
    | [] => openEvent s i.addr ev none
    | o :: _ =>
      match ev.2.1 with
      | none => openEvent (pendTok s o.tok) i.addr ev (some o)
      | some _ =>
        let (ids, s) := takeRanges i.spans s
        pendTok (openEvent s i.addr ev (some { o with rng := ids })) o.tok

/-- The bytes of the group's code writes. -/
def codeBytes (i : Issue) : List (Nat × Byte) := (i.codes.map (fun p => atAddr p.1 (leBytes p.2.toNat 4))).flatten

/-- Stores and code writes (R30, R134). DESIGN CHOICE (log 105): of a code word written more than once since the last IFENCE the old value is
that before the first write. -/
def commitStores (i : Issue) (s : State) : State :=
  let s := mergeRead (trailRead s i.stores) i.whole (i.stores ++ codeBytes i)
  let t := if i.stores = [] then s.tile else sramPut s.tile true i.whole i.stores
  let old := i.codes.foldl (fun l p => if l.any (fun q => q.1 = p.1) then l else l ++ [(p.1, BitVec.ofNat 32 (readLe t.mem p.1 4))]) t.stale
  let t := if i.codes = [] then t else sramPut { t with stale := old } false i.whole (codeBytes i)
  { s with tile := t }

/-- The operation of the E slot, unless it has opened an event (R123, R126). -/
def commitOp (i : Issue) (s : State) : State :=
  match i.event, i.ops with
  | none, o :: _ =>
    let (ids, s) := takeRanges i.spans s
    issueOp (pendTok s o.tok) { o with rng := ids }
  | _, _ => s

/-- Bits of a mask set at the places given. -/
def setAll {w : Nat} (v : BitVec w) (l : List Nat) (b : Nat) : BitVec w := l.foldl (fun v k => setBits v k 1 b) v

/-- Results by ascending slot address (R355). -/
def slotOrder (l : List (Nat × Flight)) : List Flight := (sortBy (fun a b => decide (a.1 ≤ b.1)) l).map (·.2)

/-- The results of the bundle join those in flight; tags, valid bits, the prefix and the generator change at issue (R58, R167, R171 to R173). -/
def commitUnits (i : Issue) (t : Tile) : Tile :=
  let th := t.th
  let th := { th with flights := th.flights ++ slotOrder i.flights, rowOk := setAll th.rowOk (i.rows.map (·.1)) 1,
                      tag := i.rows.foldl (fun v p => setBits v p.1 1 (if p.2 then 1 else 0)) th.tag, latchOk := setAll th.latchOk i.latches 1,
                      pfx := if t.sup then th.pfx else i.pfx }
  let t := { t with th := th }
  let t := match i.seed with
    | some v => cwPut t 0x002 v
    | none => t
  let t := match i.vsave with
    | some v => cwPut t 0x008 v
    | none => t
  match i.mgset with
  | some (g, v) => updRt t (fun r => { r with mgnew := r.mgnew ++ [(g, BitVec.ofNat 5 v)] })
  | none => t

/-- SPAWN, SPAWNR and POP (R283, R284). -/
def commitTask (i : Issue) (t : Tile) (now : Nat) : Tile :=
  let t := match i.spawn with
    | some (true, r) => addReady t (.fresh r now)
    | some (false, r) => updDisp (pushDeque t r) (fun d => { d with pushed := some (now, t.disp.deque.length) })
    | none => t
  match i.popped, t.disp.deque.getLast? with
  | some a, some r => updDisp (sramWrite t false (atAddr a (recBytes r))) (fun d => { d with deque := d.deque.dropLast, popped := some now })
  | _, _ => t

/-- The switch that a SYS action makes: YIELD, SUSPEND or EXIT that switches is a taken transfer (R273). -/
def switching (t : Tile) (i : Issue) : Bool := match i.sys with
  | some (0x18, _) => yields t
  | some (0x19, a) => suspends t (a.setWidth 5)
  | some (0x1A, _) => true
  | _ => false

/-- SIGACC and SIGCTL.SKIP after a user bundle (R105). -/
def commitSig (i : Issue) (taken : Bool) (t : Tile) : Tile :=
  match i.sig with
  | some _ => cwPut (cwPut t 0x110 (cwGet t 0x110 &&& ~~~(2 : W64))) 0x111 0xFFFF
  | none =>
    let c := crcWords (BitVec.ofNat 16 (bitsOf (cwGet t 0x111) 0 16)) i.words
    cwPut t 0x111 ((if taken then crcBit c true else c).setWidth 64)

/-- The loop state, the running check and the address of the next bundle (R97 to R105). The loop state that LOOP writes governs the bundles
after it, so the loop end of its own bundle is decided by the state before it. The bundle of a completing trap takes the back-edge but makes
no taken transfer, and only its trap's squashed cycles follow it (R354, R363). -/
def commitFlow (i : Issue) (t : Tile) : Tile :=
  let user := !t.sup
  let own := i.jump.isSome || switching t i
  let lc0 := cwGet t 0x070
  let lc1 := cwGet t 0x071
  let (l0, l1, back) := if user && !own && !i.lpop then loopEnd lc0 lc1 i.addr.toNat else (lc0, lc1, none)
  let (l0, l1) := match i.loops with
    | some (a, b) => if i.lpop then (a, b) else (a, if lcAct l0 then l0 else l1)
    | none => (l0, l1)
  let taken := own || (back.isSome && i.completing.isNone)
  let t := cwPut (cwPut t 0x070 l0) 0x071 l1
  let t := if user then commitSig i taken t else t
  let next : LAddr := match i.jump, back with
    | some a, _ => a
    | none, some a => BitVec.ofNat 21 a
    | none, none => i.addr + BitVec.ofNat 21 (4 * i.words.length)
  { t with th := { t.th with pc := next, squash := if i.jump.isSome || (back.isSome && i.completing.isNone) then 2 else 0 } }

/-- MASKP: the budget starts as PMASK leaves 0 (R368). -/
def maskTasks (t : Tile) : Tile :=
  if pmasked t then t else cwPut (updDisp t (fun d => { d with maskLeft := 4096 })) 0x104 (cwGet t 0x104 ||| 0x40000)

/-- The attempt that follows an RFE passes the debug events for which the bundle that it returns to has trapped (R392). -/
def passStop (t : Tile) : Tile :=
  let left := t.dbg.stops.dropWhile (fun p => decide (p.1 ≠ t.th.pc))
  match left with
  | p :: r => updDbg t (fun d => { d with passing := true, hits := p.2, hitPc := p.1, stops := if t.sup then r else [] })
  | [] => updDbg t (fun d => { d with passing := false, hits := [], stops := if t.sup then d.stops else [] })

/-- RFE: the supervisor's results land, then the handler returns (R365). It reads TPC and SSTAT as the bundles before its own leave them, since
its bundle's slots read before any of them writes (R30). -/
def doRfe (i : Issue) (t : Tile) (now : Nat) : Tile :=
  let earlier := settleFlights 24 { t with th := { t.th with flights := t.th.flights.take (t.th.flights.length - i.flights.length) } } now
  passStop (returnWith { settleFlights 24 t now with began := false } (cwGet earlier 0x101) (cwGet earlier 0x104))

/-- The system action of the bundle (R110, R290 to R292, R363 to R369). -/
def commitSys (i : Issue) (s : State) : State :=
  let t := s.tile
  let gone : Tile := { settleFlights 24 t (hereCyc s) with began := false }
  match i.sys with
  | some (0x01, _) => { s with tile := doRfe i t (hereCyc s) }
  | some (0x03, v) => { s with tile := { t with idle := some (v.setWidth 32) } }
  | some (0x04, _) => { s with tile := { t with stale := [], th := { t.th with squash := 2 } } }
  | some (0x05, _) => { s with tile := maskTasks t }
  | some (0x06, _) => { s with tile := clearMask t }
  | some (0x07, _) => { s with tile := { t with ltsb := [] } }
  | some (0x08, _) => { s with tile := { t with ltsb := i.ltLoaded } }
  | some (0x10, _) => { s with tile := updDisp t (fun d => { d with sync := some s.cyc }) }
  | some (0x18, _) => if yields t then { s with tile := doYield gone s.cyc } else s
  | some (0x19, v) => if suspends t (v.setWidth 5) then { s with tile := doSuspend gone (v.setWidth 5) s.cyc } else s
  | some (0x1A, _) => doExit { s with tile := gone }
  | _ => s

/-- A completing trap: the bundle has taken effect and the trap is taken before the next (R354, R364), after a halt that is due there (R384);
BRK with BRKH halts instead. -/
def commitTrap (i : Issue) (s : State) : State :=
  match i.completing with
  | none => s
  | some (code, v) =>
    if code = 0x14 && (cwGet s.tile 0x200).getLsbD 4 then { s with tile := updDbg s.tile (fun d => { d with want := some (d.want.getD 6) }) }
    else if (haltWanted s.tile).isSome then { s with tile := { s.tile with th := { s.tile.th with trap := some (code, v) } } }
    else
      let t := beginCycle s.tile (hereCyc s)
      takeTrap { s with tile := t } code v t.th.pc

/-- The accounts of an issue: the power budget, the step count, the masked pre-emption's budget, the debug attempt (R422, R388, R368, R392). -/
def commitCounts (i : Issue) (t : Tile) (now : Nat) : Tile :=
  let t := spendBudget { t with began := false, stall := none, hold64 := if i.hold64 then some (now + 1) else none, iss := Issue.empty, haloOld := [] } now
  let t := updDbg t (fun d => { d with passing := false, hits := [], stops := if t.sup then d.stops else [] })
  let t := spendCycle t
  if t.dbg.stepping then cwPut t 0x209 (cwGet t 0x209 - 1) else t

/-- The bundle issues: every effect that its slots have gathered is made (R30, R125, R354). `beats` counts the reads of its M slot. DESIGN CHOICE
(log 111): a YIELD finds the ready entry that a SPAWNR of its own bundle adds. -/
def commitBundle (s : State) (beats : Nat) : State :=
  let i := s.tile.iss
  let s := checkRead s (((i.reads.take beats).map (fun p => (upto p.2).map (fun k => p.1 + k))).flatten) 7 true
  let s := checkRead s (((i.reads.drop beats).map (fun p => (upto p.2).map (fun k => p.1 + k))).flatten) 5 true
  let s := commitOp i (commitStores i (commitEvent i s))
  let s := { s with tile := commitFlow i (commitTask i (commitUnits i s.tile) s.cyc) }
  let s := { s with tile := commitCounts i s.tile s.cyc }
  let s := commitTrap i (commitSys i s)
  { s with tile := traceNote s.tile (hereCyc s) }

/-! ## One attempt to issue -/

/-- The power controller lets the tile issue in this cycle (R422). -/
def budgetLeft (s : State) : Bool :=
  decide ((if s.tile.budgetAt = s.cyc / 64 then s.tile.budgetUsed else 0) < s.mgr.budget)

/-- The stalls on spans and entries (R123, R124, R176, R186, R250); `s1` is the state after the landings, to which a stall returns. DESIGN
CHOICE (log 27): an access that meets the span of a drain waits by inserted issue cycles, through which the drain comes to land. -/
def heldUp (s1 s2 : State) : Option State :=
  let t := s2.tile
  let i := t.iss
  if drainBlocked t i then some (insertCycle s1 .range)
  else if rangeBlocked t i then some (stallAt s1 .range)
  else if entriesShort t i || postedShort t i || timedShort t i then some (stallAt s1 .other)
  else none

/-- What comes before the causes of a bundle that opens an event: once nothing of condition 1 stalls it, a straggler's rollback at once; then the
drain of the results in flight; then its stalls (R299, R319, R321; log 81). -/
def eventWait (s1 s2 : State) : Option State :=
  if s2.tile.iss.event.isNone then none
  else match heldUp s1 s2, eventHold s2 with
    | none, .roll s3 => some (doRollback { s3 with tile := { s3.tile with iss := Issue.empty } })
    | held, hold =>
      if drainsFirst s2.tile s2.tile.iss then some (insertCycle s1 .other)
      else match held, hold with
        | some s', _ => some s'
        | none, .stall k => some (stallAt s1 k)
        | _, _ => none

/-- The trap that a bundle's causes give: the lowest code (R357); none where its completing trap has a lower one, with which the bundle takes
effect. DESIGN CHOICE (log 113): of a fault and a completing trap of one code the fault is taken. -/
def faultOf (s : State) (i : Issue) : Option (Nat × Nat × W64) :=
  match lowestCause i.causes, i.completing with
  | some c, some (k, _) => if c.1 ≤ k ∨ (sigContains s ∧ i.causes.any (fun d => d.1 = 0x19)) then some (if c.1 ≤ k then c else (0x19, c.2)) else none
  | c, _ => c

/-- The effects of a bundle whose completing trap has the lowest code: a SEND or action that MSGSIZE refuses has none, and a signature mismatch
leaves its record (R404, log 113). -/
def completed (s : State) : State :=
  let i := s.tile.iss
  let s := match i.causes.find? (fun c => c.1 = 0x19) with
    | some c => missSig s c.2.2
    | none => s
  updIss s (fun i => if i.causes.any (fun c => c.1 = 0x18) then { i with causes := [], ops := [], spans := [], toks := [] } else { i with causes := [] })

/-- The verdict on an executed bundle with no fault. -/
def settle (s1 : State) (l : List Slot) (beats : Nat) (s2 : State) : State :=
  let t := s2.tile
  let i := t.iss
  if t.sup && drainBlocked t i then trapBundle s1 [] 0x12 0
  else match heldUp s1 s2 with
    | some s' => s'
    | none => match l.findSome? (slotWait s2) with
      | some k => stallAt s1 k
      | none =>
        match shortBefore t i with
        | none => commitBundle s2 beats
        | some region =>
          if t.sup || (i.completing.isSome && neverFreed t region) then
            let s3 := commitBundle s2 beats
            { s3 with tile := shortAt s3.tile region (usedIn t region) }
          else if neverFreed t region then trapBundle s1 [] 0x1A (BitVec.ofNat 64 (region + usedIn t region * 2 ^ 32))
          else doRollback { s1 with tile := shortAt s1.tile region (usedIn t region) }

/-- A decoded bundle: its stalls on tokens and on the float datapath, then its slots, then its lowest cause or its verdict. -/
def tryBundle (s1 : State) (held : Bool) (hits : List Nat) (ws : List (BitVec 32)) (l : List Slot) : Out :=
  let s1 := { s1 with tile := mailboxSeen s1.tile l }
  let t := s1.tile
  if pendingMask t l ≠ 0 then .next (stallAt s1 (.token (pendingMask t l)))
  else if held && l.any (fun x => x.info.floats) then .next (stallAt s1 .other)
  else match runSlots (inOrder l) (openBundle s1 ws (earlyCauses t l hits)) with
    | .fault f => .fault f
    | .refused f => .refused f
    | .next s2 =>
      let early := s2.tile.iss.causes.any (fun c => decide (c.1 ≤ 0x02))
      match (if early || t.sup then none else eventWait s1 s2), faultOf s2 s2.tile.iss with
      | some s', _ => .next s'
      | none, some (code, _, v) => .next (trapBundle { s1 with free := s2.free } hits code v)
      | none, none =>
        match switchDue s1 with
        | some s' => .next s'
        | none =>
          let beats := match runSlots (l.filter (fun x => x.info.cls = .matrix)) (openBundle s1 ws []) with
            | .next s3 => s3.tile.iss.reads.length
            | _ => 0
          .next (settle s1 l beats (if s2.tile.iss.causes = [] then s2 else completed s2))

/-- The first word that is no instruction. -/
def badWord (ws : List (BitVec 32)) : Option (BitVec 32) := match decodeSlots 0 ws with
  | .error w => some w
  | .ok _ => none

/-- The word of the first slot that raises ILLOP: of the slots before the first undecodable word one that does as it executes, else that
word, if there is one (R356). -/
def firstIllop (s : State) (ws : List (BitVec 32)) (bad : Option (BitVec 32)) : Option W64 :=
  let early := match runSlots (inOrder (decodePrefix 0 ws)) (openBundle s ws []) with
    | .next s' => lowestCause (s'.tile.iss.causes.filter (fun c => c.1 = 0x01))
    | _ => none
  (early.map (·.2.2)) <|> (bad.map (·.setWidth 64))

/-- The bytes that a scan from an address has fetched. -/
def scanBytes (x : Scan) (pc : Nat) : Nat := match x with
  | .words ws => 4 * ws.length
  | .noStop => 32
  | .xfetch a => a - pc

/-- The bundle at the pc is fetched and tried (R27 to R29, R134, R399). -/
def fetchBundle (s1 : State) (held : Bool) (hits : List Nat) : Out :=
  let pc := s1.tile.th.pc
  let scan := scanBundle s1 pc
  let s1 := checkRead s1 ((upto (scanBytes scan pc.toNat)).map (fun k => pc.toNat + k)) 4 true
  if !partnRuns s1 s1.tile.pid then .next s1 else
  match scan with
  | .xfetch a => .next (trapBundle s1 [] 0x04 (BitVec.ofNat 64 a))
  | .noStop =>
    let ws := (upto 8).map (fun k => fetchWord s1.tile s1.free (pc.toNat + 4 * k))
    match firstIllop s1 ws (badWord ws) with
    | some w => .next (trapBundle s1 [] 0x01 w)
    | none => .next (trapBundle s1 [] 0x02 1)
  | .words ws =>
    match decodeSlots 0 ws with
    | .error w => .next (trapBundle s1 [] 0x01 ((firstIllop s1 ws (some w)).getD (w.setWidth 64)))
    | .ok l => tryBundle s1 held hits ws l

/-- The next state of an outcome, else the state before. -/
def outState (s : State) : Out → State
  | .next t => t
  | _ => s

/-- The attempt has issued its bundle: it has spent a cycle of the budget and does not stall. -/
def issued (t u : Tile) : Bool := u.stall.isNone && decide ((u.budgetAt, u.budgetUsed) ≠ (t.budgetAt, t.budgetUsed))

/-- An injection that waits for this bundle is made as it issues: the bundle is tried again with the inverted bits (R394). -/
def withInjection (s1 : State) (held : Bool) (hits : List Nat) : Out :=
  match fetchBundle s1 held hits with
  | .next s' =>
    if injectDue s1.tile && issued s1.tile s'.tile then fetchBundle (outState s1 (execFaultInjectDeferred s1.tile.site s1)) held hits else .next s'
  | o => o

/-- The IDLE wait is over: a register of its set is not pending (R366). -/
def idleOver (t : Tile) : Bool := match t.idle with
  | some m => (upto 32).any (fun r => decide (r ≠ 0) && m.getLsbD r && !isPend t.th r) || (t.sup && decide (t.asyncs ≠ []))
  | none => true

/-- An injection of WHEN = 0 is due in this cycle (R394). -/
def lateInject (t : Tile) (now : Nat) : Bool := match t.dbg.inject with
  | some c => decide (c < now)
  | none => false

/-- A squashed issue cycle (R35): results advance through it; of those after an RFE none is a user issue cycle (R365). -/
def squashCycle (t : Tile) (now : Nat) : Tile :=
  let u := spendBudget { t with began := false, th := { t.th with squash := t.th.squash - 1, unspent := t.th.unspent - 1 } } now
  if t.th.unspent = 0 then spendCycle u else u

/-- A boundary at which no halt is due, with what lands there landed: the rollback that is due (R304), a completing trap that a halt has held
back (R384), asynchronous traps (R357), the waits of SYNC and IDLE, and the bundle. -/
def atTurn (s s1 : State) (waits held : Bool) (hits : List Nat) : Out :=
  if rollbackReady s1 then .next (doRollback s1)
  else match s1.tile.th.trap with
    | some (c, v) => .next (takeTrap { s1 with tile := { s1.tile with th := { s1.tile.th with trap := none } } } c v s1.tile.th.pc)
    | none =>
      if atBoundary s1 && decide (s1.tile.asyncs ≠ []) then .next (takeAsync s1)
      else if waits then .next (if quietBoundary s1.tile then (switchDue s1).getD s1 else s1)
      else
        let go (x : State) : State := { x with tile := { x.tile with idle := none } }
        if budgetLeft s then withInjection (go s1) held hits else .next (stallAt (go s1) .other)

/-- One issue cycle of the tile in focus, or a stall: halts come first (R384), then squashed cycles (R35), the landings (R34), debug halts of
which the lowest cause counts (R392), and what is due at the boundary. -/
def attempt (s : State) : Out :=
  let s := haloDrip s
  let s := { s with free := if s.tile.stale = [] ∧ s.tile.haloOld = [] then s.free else s.free + 8 }
  let held := decide (s.tile.hold64 = some s.cyc)
  let want := haltWanted s.tile
  match want.filter (fun c => c ≠ 5) with
  | some c => .next (haltHere s c)
  | none =>
    let late := lateInject s.tile s.cyc
    let s0 := if late then { s with tile := inject s.tile } else s
    let s := drainRead s
    let s1 := { s with tile := if late then inject (beginCycle s.tile (hereCyc s)) else beginCycle s.tile (hereCyc s) }
    if s.tile.th.squash ≠ 0 then
      .next (if budgetLeft s then { s1 with tile := squashCycle s1.tile s.cyc } else { s0 with tile := { s0.tile with stall := some .other } })
    else
      let waits := s.tile.disp.sync.isSome || !idleOver s.tile
      let hits := if waits then [] else debugHits s1
      if !hits.isEmpty && !(cwGet s.tile 0x200).getLsbD 6 then .next (debugHalt s0 hits)
      else if want.isSome then .next (haltHere s0 5)
      else atTurn s s1 waits held hits

/-- What the manual ties to one fabric cycle of a partition happens as that cycle begins: the stop of a halt at H + 64 and the
resumption at R + 64 (R385), the release of SYNC at A + 64 (R110). -/
def clockEvents (s : State) : State :=
  (s.partns.map (·.pid)).foldl (fun s pid =>
    let s := outState s (execGangStop pid s)
    let s := outState s (execGangResume pid s)
    outState s (execSyncRelease pid s)) s

/-- The turn of a tile in the fabric cycle: a tile with no running task takes one (R269), a running one tries to issue. -/
def issueTurn (s : State) : Out :=
  if !partnRuns s s.tile.pid || s.tile.dbg.halted then .next s
  else if s.tile.disp.running then match attempt s with
    | .next u => .next { u with tile := traceNote u.tile (hereCyc u) }
    | o => o
  else .next { s with tile := traceNote (dispatchAt s.tile s.cyc) (hereCyc s) }

end

end Sys2Proof.Machine
end

