-- ==== Sys2Proof/Machine/Step.lean ====
section
/-! DEFINITION. One step of the machine: the turn that the agenda names, else the next tile of the fabric cycle, else the end of the cycle
(R7, R34; log 4), and the placing of a first instruction. -/

namespace Sys2Proof.Machine

open Sys2Proof

noncomputable section

/-! ## Turns -/

/-- The rows that are a part of another step and have no turn of their own: those that a landing of WRW performs (R91), an injection made as a
bundle issues (R394), and the stop and the resumption of a partition, which its cycle brings (R385). -/
def isLanding : Instr → Bool
  | .xbWrite _ => true
  | .statusWrite _ => true
  | .rmodeWrite _ => true
  | .rseedWrite _ => true
  | .mailboxWrite _ _ => true
  | .trcctlWrite _ => true
  | .faultInjectDeferred _ => true
  | .gangStop _ => true
  | .gangResume _ => true
  | _ => false

/-- A row of the opcode table that happens by itself: it has no encoding and is no landing. -/
def isEvent (i : Instr) : Bool := (encode i).isNone && !isLanding i

/-- The tile of a site comes into focus and takes its turn to issue. -/
def turnOf (site : Nat) (s : State) : Out :=
  match tileAt s site with
  | none => .next s
  | some _ => issueTurn (focus site s)

/-- The same after its engines have taken up what was handed to them. -/
def fullTurn (site : Nat) (s : State) : Out :=
  match tileAt s site with
  | none => .next s
  | some _ => issueTurn (drainOps (focus site s))

/-- The sites whose tiles take a turn in a fabric cycle, in rising order. -/
def turnSites (s : State) : List Nat :=
  sortBy (fun a b => decide (a ≤ b)) (((allTiles s).filter (fun t => partnRuns s t.pid && !t.dbg.halted)).map (·.site))

/-- A tile that takes no turn makes an injection armed in an earlier cycle as the cycle ends (R394). -/
def tickTile (s : State) (t : Tile) : Tile :=
  if lateInject t s.cyc && (t.dbg.halted || !partnRuns s t.pid || !t.disp.running) then inject t else t

/-- An arrival from the fabric may be waiting for a tile's matching engine (R187). -/
def arrivalWaits (s : State) (t : Tile) : Bool :=
  s.net.any (fun x => decide (x.dst = t.site) && decide (engineOf (hdrKind x.pkt.hdr) = 0)) || !t.eng.readmits.isEmpty

/-- As a cycle ends, every E operation whose bundle issued in an earlier one has been handled, where no arrival is waiting (R187, R428). -/
def opsEnd (s : State) : State := eachTile s (fun t => !t.eng.ops.isEmpty && !arrivalWaits s t) drainOps

/-- The end of a fabric cycle: the engines, the scheduled plane and the scrubbers do what the cycle still asks of them (R238, R400, R428), CYC
advances (R7, R95) and every tile that runs is due a turn. -/
def tick (s : State) : State :=
  let t := tickTile s s.tile
  let r := s.rest.map (tickTile s)
  let s := scrubAll (fabricEnd (opsEnd { s with tile := t, rest := r }))
  let s := fabricStart (ctsAll (clockEvents { s with cyc := s.cyc + 1 }))
  { s with todo := turnSites s }

/-- The next tile of the cycle takes its turn, or the cycle ends. -/
def nextTurn (s : State) : Out :=
  match s.todo with
  | site :: r => fullTurn site { s with todo := r }
  | [] => .next (tick s)

/-- A packet that another module may send here: by the port of a die for which the pair is up, to a compute tile, of a kind that travels between
modules (R14, R246). -/
def fromOutside (s : State) (src dst plane : Nat) (p : Packet) : Bool :=
  decide (4352 ≤ src) && decide (src < 4368) && (plane = 1 || plane = 2) && decide (dst < 4096)
    && decide (rankMod (hdrDst p.hdr) = modIdx s) && decide (rankTile (hdrDst p.hdr) < 4096) && decide (dst = siteOfId s (rankTile (hdrDst p.hdr)))
    && s.pairs.any (fun q => q.1 = src - 4352 && decide (q.2.1 = rankMod (hdrSrc p.hdr)) && q.2.2.1)
    && [0, 1, 2, 3, 4, 6, 12].contains (hdrKind p.hdr)

/-- A packet of another module comes in by a port, which counts it for the pair (R246, R247); any other is no input of the module. -/
def comeIn (s : State) (src dst plane : Nat) (p : Packet) : State :=
  if fromOutside s src dst plane p then
    { s with net := s.net ++ [⟨src, dst, plane, p⟩],
             pairs := s.pairs.map (fun q => if q.1 = src - 4352 ∧ q.2.1 = rankMod (hdrSrc p.hdr) then (q.1, q.2.1, q.2.2.1, q.2.2.2.1, q.2.2.2.2 + 1) else q) }
  else s

/-- A turn of the agenda. A tile takes at most one turn to issue in a cycle; a `tick` waits until every tile has had its turn. -/
def takeTurn (a : Turn) (r : List Turn) (s : State) : Out :=
  match a with
  | .ev i => if isEvent i then exec i { s with agenda := r } else .next { s with agenda := r }
  | .issue site =>
    if s.todo.contains site then turnOf site { s with agenda := r, todo := s.todo.erase site } else .next { s with agenda := r }
  | .engine site => match tileAt s site with
    | none => .next { s with agenda := r }
    | some _ => .next (engineStep (focus site { s with agenda := r }))
  | .tick => if s.todo = [] then .next (tick { s with agenda := r }) else nextTurn s
  | .inject src dst plane p => .next (comeIn { s with agenda := r } src dst plane p)
  | .pick k => .next { s with agenda := r, pick := k }
  | .access n data => .next { s with agenda := r, access := some (n, data) }

/-- One step. After a power failure only a start sequence happens (R344, R416). -/
def step (s : State) : Out :=
  if s.mgr.pfail && !(s.agenda.head? = some (.ev .startSequence)) then .fault .poweredDown
  else match s.agenda with
    | a :: r => takeTurn a r s
    | [] => nextTurn s

/-! ## Placing a first instruction -/

/-- A bundle that holds a word: NOP slots beside it make it whole (R26 to R28). A word with the stop bit stands last. -/
def bundleAround (w : BitVec 32) : List (BitVec 32) :=
  if w.getLsbD 31 then [0x01000000, 0x01000000, 0x01000000, w] else [w, 0x01000000, 0x01000000, 0x81000000]

/-- A tile of partition 1 about to issue the bundle at address 0 in user mode, with code space up to 0x1000. -/
def readyTile (t : Tile) (ws : List (BitVec 32)) : Tile :=
  let th := { t.th with pc := 0, pend := 0, flights := [], late := [], squash := 0, unspent := 0, trap := none }
  let bs := (ws.map (fun w => leBytes w.toNat 4)).flatten
  { t with pid := 1, th := th, sup := false, cw := cellSet t.cw 0x010 0x1000, mem := writeBytes t.mem 0 bs, poison := [], soft := [], stale := [], haloOld := [],
           asyncs := [], began := false, hold64 := none, idle := none, stall := none, budgetUsed := 0, iss := Issue.empty,
           eng := { t.eng with ranges := [] }, disp := { t.disp with running := true, ready := [], sync := none },
           vt := { t.vt with due := [] }, dbg := Debug.empty }

/-- The state with a word as the next instruction: a program loaded from outside into a tile of a plain partition (log 7). -/
def State.withFetchWord (s : State) (nbits w : Nat) : State :=
  if nbits = 32 then
    let t := readyTile s.tile (bundleAround (BitVec.ofNat 32 w))
    { s with tile := t, partns := newPartn 1 s.cyc 0 [s.tile.site] :: s.partns.filter (fun p => p.pid ≠ 1),
             mgr := { s.mgr with pfail := false, budget := 64 }, agenda := [], todo := [s.tile.site] }
  else s

end

end Sys2Proof.Machine
end

