-- ==== Sys2Proof/Safety.lean ====
section
/-! DEFINITION. What a claim calls a safe run: memories in canonical form, and a module that has power. -/

namespace Sys2Proof

open Sys2Proof.Machine

/-- The image that a capture holds so far is in canonical form (R332). -/
def captureWf (c : Capture) : Bool := c.img.wf

/-- The images of a bench are in canonical form. -/
def benchWf (b : Bench) : Bool := b.images.all (fun i => captureWf i.2)

/-- The SRAM of a tile, and its capture in progress, are in canonical form. -/
def tileWf (t : Tile) : Bool :=
  t.mem.wf && (match t.bench.cap with
    | some c => captureWf c
    | none => true)

/-- Every memory of the module is in canonical form: quarry memory, expander memory, the SRAM of every tile, and the images of
the benches of partitions and of the directory. -/
def memoryWf (s : State) : Bool :=
  s.quarry.wf && s.cap.wf && (allTiles s).all tileWf && s.partns.all (fun p => p.benches.all benchWf) && s.mgr.dir.all (fun e => benchWf e.bench)

/-- The module has power: PFAIL has not been signalled (R344). -/
def powered (s : State) : Prop := s.mgr.pfail = false

/-- A step that stops nowhere. -/
def goesOn (s : State) : Prop := ∃ t, step s = .next t

/-- The value of a finite number (R47, R57). -/
def numVal : Num → ℚ
  | .fin neg m e => (if neg then -1 else 1) * (m : ℚ) * (2 : ℚ) ^ e
  | _ => 0

/-- A number lies within a tolerance of another. -/
def nearTo (v x tol : Num) : Prop := numCmp x (numAdd false v tol) ≤ 0 ∧ 0 ≤ numCmp x (numAdd false v (numNeg tol))

/-- Rounding of a negative number is that of its magnitude with RDN and RUP exchanged (R57). -/
def mirror : Rnd → Rnd
  | .rdn => .rup
  | .rup => .rdn
  | r => r

/-! ## What a slot adds to its bundle

A slot's meaning gathers in the issue group of its tile; the commit of the bundle makes the effects. The statements give the
whole next state as the state before with these additions, so that each of them says what is left unchanged as well. -/

/-- Results on their way to their landings (R34). -/
def emit (s : State) (fs : List Flight) : State := updIss s (fun i => { i with flights := i.flights ++ fs.map (fun f => (i.slot, f)) })

/-- Causes of the slot with their TVAL (R356). -/
def raise (s : State) (cs : List (Nat × W64)) : State :=
  updIss s (fun i => { i with causes := i.causes ++ cs.map (fun p => (p.1, i.slot, p.2)) })

/-- A scalar result; x0 discards it (R74). -/
def xOut (lat : Nat) (unit : Bool) (d : Reg) (v : W64) : List Flight := if d = 0 then [] else [⟨lat, unit, .x d v⟩]

/-- A predicate result of latency 1; p0 discards it (R74). -/
def pOut (q : BitVec 7) (v : Bool) : List Flight := if q = 0 then [] else [⟨1, false, .p q v⟩]

/-- Bytes read and bytes stored by an L slot. -/
def reading (s : State) (a n : Nat) : State := updIss s (fun i => { i with reads := i.reads ++ [(a, n)] })
def storing (s : State) (bs : List (Nat × Byte)) : State :=
  updIss s (fun i => { i with stores := i.stores ++ bs, whole := i.whole ++ wholeWords bs })

/-- The guard is true (R25). -/
def runs (s : State) (c : Ctl) : Prop := guardOf s.tile c = true

/-- The guard is true in user mode. -/
def runsUser (s : State) (c : Ctl) : Prop := s.tile.sup = false ∧ guardOf s.tile c = true

/-- A state that differs from another in the issue group of the tile in focus at most. -/
def issueOnly (s t : State) : Prop := t = { s with tile := { s.tile with iss := t.tile.iss } }

/-! ## Accesses to SRAM (R117) -/

/-- The byte at an exact address is permitted: not below XB, below 2 MiB, and in user mode below the reserved floor. -/
def byteOk (t : Tile) (a : Int) : Bool :=
  decide ((xbOf t : Int) ≤ a) && decide (a < 0x200000) && (t.sup || decide (a < (floorOf t : Int)))

/-- Every byte of an access is permitted. -/
def spanOk (t : Tile) (a : Int) (n : Nat) : Bool := (upto n).all (fun k => byteOk t (a + k))

/-- The causes of an access: XACCESS and ALIGN, with the effective address in TVAL. -/
def accessFaults (t : Tile) (a : Int) (n align : Nat) : List (Nat × W64) :=
  (if spanOk t a n then [] else [(0x05, BitVec.ofInt 64 a)]) ++ (if a % align = 0 then [] else [(0x06, BitVec.ofInt 64 a)])

/-! ## Vector elements (R138) -/

/-- A vector result changes exactly the elements to which `g` gives a value, and gives them that value modulo 2^w. -/
def writesElems (w : Nat) (mask val : BitVec 2048) (g : Nat → Option Nat) : Prop :=
  ∀ e, e < 2048 / w → match g e with
    | some x => elemOf mask w e = 2 ^ w - 1 ∧ elemOf val w e = x % 2 ^ w
    | none => elemOf mask w e = 0

/-- The state after a slot whose only effect is a vector result of a latency, element by element. -/
def vectorOut (s t : State) (lat w : Nat) (d : Reg) (g : Nat → Option Nat) : Prop :=
  ∃ mask val, t = emit s [⟨lat, true, .v d mask val⟩] ∧ writesElems w mask val g

/-- Element `e` is enabled by a mask register: the bit of its lane, bit 2e for 64-bit elements (R138). -/
def laneOn (s : State) (m : BitVec 3) (w e : Nat) : Bool := (M s m).getLsbD (e * w / 32)

/-- The value of `f` at the enabled elements. -/
def onLanes (s : State) (m : BitVec 3) (w : Nat) (f : Nat → Nat) (e : Nat) : Option Nat := if laneOn s m w e then some (f e) else none

/-- The working format of a V slot is `code`: the pending V-target format, which has g and zp clear, or else the default (R137). -/
def worksIn (s : State) (dflt code : Nat) : Prop :=
  match s.tile.th.pfx with
  | some p => if p.vec then p.fa.toNat = code ∧ p.g = 0 ∧ p.zp = false else code = dflt
  | none => code = dflt

/-- An F64 form of VEC0 or VEC1 holds the float datapath for the next cycle (R140). -/
def heldFor (s : State) (code : Nat) : State := if code = 11 then updIss s (fun i => { i with hold64 := true }) else s

/-- The forms of VEC0 and VEC1 (R142, R144). -/
def isFloatForm : Instr → Bool
  | .vadd .. | .vsub .. | .vmul .. | .vfma .. | .vfnma .. | .vfms .. | .vmin .. | .vmax .. => true
  | .vrcp .. | .vrsq .. | .vexp2 .. | .vlog2 .. | .vsinp .. | .vtanh .. | .vdiv .. | .vsqrt .. => true
  | _ => false

/-- What a slot leaves of the float datapath whatever its guard and the mode: held by a form of VEC0 or VEC1 under the F64 format (R140). -/
def floatHeld (i : Instr) (s : State) : State :=
  match s.tile.th.pfx with
  | some p => if isFloatForm i && p.vec then heldFor s p.fa.toNat else s
  | none => s

/-- The slots that raise ILLOP in supervisor mode (R353). -/
def userOnly : Instr → Bool
  | .pfxM .. | .pfxV .. | .loop .. | .yield .. | .suspend .. | .exit .. | .trap .. | .brk .. => true
  | _ => false

/-- The state in user mode. -/
def asUser (s : State) : State := { s with tile := { s.tile with sup := false } }

/-- The generator's state after `n` elements (R58). -/
def seedAfter (g : W64) : Nat → W64
  | 0 => g
  | n + 1 => seedAfter (nextRandom g).1 n

/-- The rounding mode of the k-th element that a bundle rounds: under SR with the bits of the (k + 1)-th advance (R57, R58). -/
def roundAt (s : State) (k : Nat) : Rnd := modeOf (rmode s) (if isSr (rmode s) then (nextRandom (seedAfter (seedOf s) k)).2 else 0)

/-- Under SR the generator has advanced once for each of `n` elements. -/
def seeded (s : State) (n : Nat) : State :=
  if isSr (rmode s) then updIss s (fun i => { i with seed := some (seedAfter (seedOf s) n) }) else s

/-- Enabled elements below `e`. -/
def lanesBelow (s : State) (m : BitVec 3) (w e : Nat) : Nat := (upto e).countP (fun i => laneOn s m w i)

/-- The word of the slot, as ILLOP reports it (R356). -/
def slotBits (s : State) : W64 := (s.tile.iss.words.getD s.tile.iss.slot 0).setWidth 64

/-- The slot raises ILLOP and nothing else. -/
def refusedAs (s : State) : State := raise s [(0x01, slotBits s)]

/-- A pending V-target format with g not 0 or zp = 1 makes the slot ILLOP, whatever the format (R137); an F64 form of VEC0 or VEC1 holds the
float datapath all the same (R140). -/
def oddPrefix (c : Ctl) (s : State) (i : Instr) (fp : Bool) : Prop :=
  ∀ p, runsUser s c → s.tile.th.pfx = some p → p.vec = true → (p.g ≠ 0 ∨ p.zp = true) →
    exec i s = .next (refusedAs (if fp then heldFor s p.fa.toNat else s))

/-- A V slot over its working format (R136 to R138): in a format that the form accepts, the element values that `g` gives for the format
code, with the latency; in any other, or with g or zp set, ILLOP. A form of VEC0 or VEC1 holds the float datapath in either case. -/
def elementForm (c : Ctl) (s : State) (i : Instr) (fp : Bool) (dflt : Nat) (ok : List Nat) (lat : Nat) (d : Reg)
    (g : Nat → Nat → Option Nat) : Prop :=
  oddPrefix c s i fp ∧ ∀ code, runsUser s c → worksIn s dflt code →
    let s' := if fp then heldFor s code else s
    if code ∈ ok then ∃ t, exec i s = .next t ∧ vectorOut s' t lat (codeWidth code) d (g code) else exec i s = .next (refusedAs s')

/-- The merging forms: the elements that the mask enables (R138). -/
def mergingForm (c : Ctl) (s : State) (i : Instr) (fp : Bool) (dflt : Nat) (ok : List Nat) (lat : Nat) (d : Reg) (m : BitVec 3)
    (f : Nat → Nat → Nat) : Prop :=
  elementForm c s i fp dflt ok lat d (fun code => onLanes s m (codeWidth code) (f code))

/-- The merging forms that round once for each element they write: the rounding that the enabled elements below leave to this one (R57,
R58, R142). -/
def roundingForm (c : Ctl) (s : State) (i : Instr) (fp : Bool) (lat : Nat) (d : Reg) (m : BitVec 3) (f : FloatFmt → Rnd → Nat → Nat) :
    Prop :=
  oddPrefix c s i fp ∧ ∀ code, runsUser s c → worksIn s 0 code →
    let s' := if fp then heldFor s code else s
    let w := codeWidth code
    if code ∈ [0, 11, 1, 2] then ∃ t, exec i s = .next t
      ∧ vectorOut (seeded s' (lanesBelow s m w (2048 / w))) t lat w d
          (onLanes s m w (fun e => f (fmtOf code) (roundAt s (lanesBelow s m w e)) e))
    else exec i s = .next (refusedAs s')

/-- The lesser of two elements: canonical NaN for a NaN, −0 below +0, else the chosen source unchanged (R143). -/
def lesserOf (f : FloatFmt) (p q : Nat) : Nat :=
  let x := floatVal f p
  let y := floatVal f q
  if numIsNan x ∨ numIsNan y then f.nan.getD 0
  else if numCmp x y < 0 ∨ (numCmp x y = 0 ∧ (numIsZero x → 2 ^ (f.width - 1) ≤ p)) then p else q
def greaterOf (f : FloatFmt) (p q : Nat) : Nat :=
  let x := floatVal f p
  let y := floatVal f q
  if numIsNan x ∨ numIsNan y then f.nan.getD 0
  else if numCmp x y < 0 ∨ (numCmp x y = 0 ∧ (numIsZero x → 2 ^ (f.width - 1) ≤ p)) then q else p

/-- A compare: every bit of M[d], by the element of its lane; for F64 both bits of an element take the result under bit 2j (R148). -/
def compareForm (c : Ctl) (s : State) (i : Instr) (dflt : Nat) (ok : List Nat) (d m : BitVec 3) (cond : Nat → Nat → Bool) : Prop :=
  oddPrefix c s i false ∧ ∀ code, runsUser s c → worksIn s dflt code →
    if code ∈ ok then ∃ v : W64, exec i s = .next (emit s [⟨2, true, .m d v⟩])
      ∧ ∀ k, k < 64 → v.getLsbD k = (laneOn s m (codeWidth code) (32 * k / codeWidth code) && cond code (32 * k / codeWidth code))
    else exec i s = .next (refusedAs s)

/-- The pairwise tree of R154: level `k`, position `i`. -/
def treeAt (node : Nat → Nat → Nat) (leaf : Nat → Nat) : Nat → Nat → Nat
  | 0, i => leaf i
  | k + 1, i => node (treeAt node leaf k (2 * i)) (treeAt node leaf k (2 * i + 1))

/-- The inclusive prefix of R155. -/
def prefixAt (node : Nat → Nat → Nat) (leaf : Nat → Nat) : Nat → Nat
  | 0 => leaf 0
  | i + 1 => node (prefixAt node leaf i) (leaf (i + 1))

/-- An element of a reduction or scan: the identity where the mask disables it. -/
def leafOf (s : State) (a : Reg) (m : BitVec 3) (w ident e : Nat) : Nat := if laneOn s m w e then elemOf (V s a) w e else ident

/-- A reduction: one value in element 0 and zero in every other bit, with latency 8 (R154). -/
def reduceForm (c : Ctl) (s : State) (i : Instr) (dflt : Nat) (ok : List Nat) (d : Reg) (r : Nat → Nat) : Prop :=
  oddPrefix c s i false ∧ ∀ code, runsUser s c → worksIn s dflt code →
    exec i s = .next (if code ∈ ok then emit s [⟨8, true, .v d (BitVec.allOnes 2048) (BitVec.ofNat 2048 (r code))⟩] else refusedAs s)

/-! ## Matrix rows in SRAM (R162, R163) -/

/-- The base of a row that a register pair names. -/
def rowBase (s : State) (r : Reg) : Nat :=
  let xa := (X s r).toNat
  let xb := (X s (r + 1)).toNat
  let idx := xa / 2 ^ 32 % 2 ^ 16
  xa % 2 ^ 21 + idx / 64 * (xb / 2 ^ 16 % 2 ^ 16) + idx % 64 * (xb % 2 ^ 16)

/-- Byte `b` of a row of `rb` bytes, its chunks of 64 bytes rotated by the row number. -/
def rowByte (s : State) (r : Reg) (rb b : Nat) : Nat :=
  let rot := (X s (r + 1)).toNat / 2 ^ 32 % 16
  let idx := (X s r).toNat / 2 ^ 32 % 2 ^ 16
  rowBase s r + 64 * ((b / 64 + idx % 64 * rot) % (rb / 64)) + b % 64

/-- The causes of an SRAM row: the first of its 64-byte lines that may not be accessed (the address is the model's choice, log 36), a
misaligned base, and then its side data. -/
def rowFaults (s : State) (r : Reg) (p : BitVec 1) (rb side : Nat) : List (Nat × W64) :=
  if p = 0 then [] else
    (match ((List.range (rb / 64)).map (fun k => rowByte s r rb (64 * k))).find? (fun a : Nat => !spanOk s.tile a 64) with
      | none => []
      | some a => [(0x05, BitVec.ofNat 64 a)])
    ++ (if rowBase s r % 64 = 0 then [] else [(0x06, BitVec.ofNat 64 (rowBase s r))])
    ++ (if side = 0 then [] else accessFaults s.tile (rowBase s r + (X s (r + 1)).toNat / 2 ^ 40 % 2 ^ 16 : Nat) side 4)

/-- The post-increment of the row number, where AINC asks for it. -/
def rowStep (s : State) (r : Reg) (p : BitVec 1) : List Flight :=
  let xa := (X s r).toNat
  let idx := xa / 2 ^ 32 % 2 ^ 16
  if p = 1 ∧ (X s (r + 1)).getLsbD 36 = true ∧ r ≠ 0
  then [⟨1, true, .x r (BitVec.ofNat 64 (xa - idx * 2 ^ 32 + (idx + 1) % 2 ^ 16 * 2 ^ 32))⟩] else []

/-- The 1024 source bits: half `h` of a vector register, or the bytes of the row. -/
def sourceRow (s : State) (r : Reg) (h p : BitVec 1) (bits : BitVec 1024) : Prop :=
  if p = 0 then bits = ((V s r) >>> (1024 * h.toNat)).setWidth 1024
  else ∀ b, b < 128 → elemOf bits 8 b = (cellGet (seen s) (rowByte s r 128 b)).toNat

/-- The row and the side data are marked as read. -/
def sourceRead (s : State) (r : Reg) (p : BitVec 1) (side : Nat) : State :=
  if p = 0 then s else updIss s (fun i => { i with reads := i.reads ++ [(rowBase s r, 128)]
    ++ (if side = 0 then [] else [(rowBase s r + (X s (r + 1)).toNat / 2 ^ 40 % 2 ^ 16, side)]) })

/-- A slot that raises causes and hands on no beat. -/
def faultsWith (s : State) (i : Instr) (cs : List (Nat × W64)) : Prop :=
  ∃ t, exec i s = .next t ∧ issueOnly s t ∧ t.tile.iss.causes = s.tile.iss.causes ++ cs.map (fun p => (p.1, s.tile.iss.slot, p.2))
    ∧ t.tile.iss.rows = s.tile.iss.rows

/-! ## Engine operations -/

/-- An operation handed to the engines with what it read at issue; its token register is pending from the next bundle. -/
def handed (s : State) (o : EngOp) : State :=
  updIss s (fun i => { i with ops := i.ops ++ [o], toks := if o.tok = 0 then i.toks else i.toks ++ [o.tok] })

/-- A range entry over the span of a non-empty layout entry (R121, R123). -/
def spanning (s : State) (e : BitVec 128) (write : Bool) : State :=
  if ltSize e = 0 then s else updIss s (fun i => { i with spans := i.spans ++ [((ltSpan e).1 / 64, (ltSpan e).2 / 64, write)] })

/-- An E-class slot: its causes, its range entries and the operation it hands on. Where there is a cause the bundle traps, and nothing of it
reaches the engines (R357). -/
def engineForm (c : Ctl) (s : State) (i : Instr) (causes : List (Nat × W64)) (spans : List (BitVec 128 × Bool)) (o : EngOp) : Prop :=
  runsUser s c → exec i s = .next (handed (spans.foldl (fun s p => spanning s p.1 p.2) (raise s causes)) o)

/-- LAYOUT with the entry number (R122). -/
def layoutFault (s : State) (n : Nat) (dest : Bool) : List (Nat × W64) := if ltOk s.tile (LT s n) dest then [] else [(0x08, BitVec.ofNat 64 n)]

/-- The checks of a quarry address operand (R226). -/
def rangeFault (q n z : Nat) (v : W64) : List (Nat × W64) :=
  if q % z = 0 ∧ (n = 0 ∨ (q + n ≤ 2 ^ 48 ∧ q / 2 ^ 21 = (q + n - 1) / 2 ^ 21)) then [] else [(0x0A, v)]
def xlateFault (atom : Bool) (v : W64) (bad : Bool) : List (Nat × W64) :=
  if v.toNat / 2 ^ 60 % 4 = 0 ∧ v.toNat / 2 ^ 48 % 2 ^ 7 = 0 ∧ (atom = true ∨ v.toNat / 2 ^ 55 % 2 ^ 5 = 0) ∧ bad = false then [] else [(0x0B, v)]

/-- QPERM without an address space, QTIMEOUT while every tracker is held back. -/
def quarryFaults (s : State) : List (Nat × W64) :=
  (if cwGet s.tile 0x023 = 0 then [(0x0C, 0)] else []) ++ (if allHeld s.tile then [(0x0D, 256)] else [])

/-- MSGSIZE of a deferred payload (R310). -/
def payloadFault (s : State) (n : Nat) : List (Nat × W64) := if isOpt s.tile = true ∧ 192 < n then [(0x18, BitVec.ofNat 64 n)] else []

/-- The checks of a 64-byte record address (R283, R284). -/
def recordFaults (s : State) (a : W64) : List (Nat × W64) :=
  (if spanOk s.tile a.toNat 64 then [] else [(0x05, a)]) ++ (if a.toNat % 64 = 0 then [] else [(0x06, a)])

/-! ## Steps without an encoding -/

/-- A working tile of the site comes into focus. -/
def atSite (s : State) (site : Nat) (u : State) : Prop := (tileAt s site).isSome = true ∧ u = focus site s

/-! ## Shapes of results

Each shape says of every form of a slot, for every state in which its guard is true (and, for a unit, in user mode), the whole next
state: what the slot adds and that nothing else changes. -/

/-- A slot of two source registers whose result is `f` of their values. -/
def binaryResult (op : Ctl → Reg → Reg → Reg → Instr) (lat : Nat) (f : W64 → W64 → W64) : Prop :=
  ∀ (c : Ctl) (d a b : Reg) (s : State), runs s c → exec (op c d a b) s = .next (emit s (xOut lat false d (f (X s a) (X s b))))

/-- The same, with the result given by a relation that determines it. -/
def binaryWhere (op : Ctl → Reg → Reg → Reg → Instr) (lat : Nat) (rel : W64 → W64 → W64 → Prop) : Prop :=
  ∀ (c : Ctl) (d a b : Reg) (s : State), runs s c →
    ∃ v, rel (X s a) (X s b) v ∧ exec (op c d a b) s = .next (emit s (xOut lat false d v))

/-- A slot of one source register. -/
def unaryResult (op : Ctl → Reg → Reg → Instr) (lat : Nat) (f : W64 → W64) : Prop :=
  ∀ (c : Ctl) (d a : Reg) (s : State), runs s c → exec (op c d a) s = .next (emit s (xOut lat false d (f (X s a))))

def unaryWhere (op : Ctl → Reg → Reg → Instr) (lat : Nat) (rel : W64 → W64 → Prop) : Prop :=
  ∀ (c : Ctl) (d a : Reg) (s : State), runs s c → ∃ v, rel (X s a) v ∧ exec (op c d a) s = .next (emit s (xOut lat false d v))

/-- The low 32 bits of a register, unsigned and signed, and a 32-bit result sign-extended. -/
def lowU (x : W64) : Nat := x.toNat % 2 ^ 32
def lowS (x : W64) : Int := Int.bmod x.toInt (2 ^ 32)
def wrap32 (n : Int) : W64 := BitVec.ofInt 64 (Int.bmod n (2 ^ 32))

/-- Quotient and remainder of R78, signed at width `w` and unsigned. -/
def divQuot (w : Nat) (a b : Int) : Int := if b = 0 then -1 else if a = -2 ^ (w - 1) ∧ b = -1 then -2 ^ (w - 1) else a.tdiv b
def divRem (w : Nat) (a b : Int) : Int := if b = 0 then a else if a = -2 ^ (w - 1) ∧ b = -1 then 0 else a - a.tdiv b * b
def divQuotU (w a b : Nat) : Nat := if b = 0 then 2 ^ w - 1 else a / b
def divRemU (a b : Nat) : Nat := if b = 0 then a else a - a / b * b

/-- The field extract of R80, bit by bit. -/
def fieldRel (signed : Bool) (x y v : W64) : Prop :=
  let pos := y.toNat % 64
  let len := min (y.toNat / 256 % 128) 64
  let f (i : Nat) : Bool := if pos + i ≤ 63 then x.getLsbD (pos + i) else signed && x.getLsbD 63
  if len = 0 then v = 0 else ∀ i, i < 64 → v.getLsbD i = (if i < len then f i else signed && f (len - 1))

/-- A relation between two words of one bit position: the bit that `y` names is replaced by `g` of what it was. -/
def bitRel (g : Bool → Bool) (x y v : W64) : Prop :=
  ∀ i, i < 64 → v.getLsbD i = (if i = y.toNat % 64 then g (x.getLsbD i) else x.getLsbD i)

/-- The number of leading or trailing zero bits of the low `w` bits. -/
def leadRel (w : Nat) (x v : W64) : Prop :=
  ∃ n, v = BitVec.ofNat 64 n ∧ n ≤ w ∧ (∀ i, w - n ≤ i → i < w → x.getLsbD i = false) ∧ (n < w → x.getLsbD (w - 1 - n) = true)
def trailRel (x v : W64) : Prop :=
  ∃ n, v = BitVec.ofNat 64 n ∧ n ≤ 64 ∧ (∀ i, i < n → x.getLsbD i = false) ∧ (n < 64 → x.getLsbD n = true)

/-- A predicate slot of two sources, by their values. -/
def predResult (op : Ctl → BitVec 7 → BitVec 7 → BitVec 7 → Instr) (f : Bool → Bool → Bool) : Prop :=
  ∀ (c : Ctl) (q a b : BitVec 7) (s : State), runs s c → exec (op c q a b) s = .next (emit s (pOut q (f (P s a) (P s b))))

/-- A taken transfer, a system action, the loop state for the bundles that follow (R97, R102, R363). -/
def jumping (s : State) (a : LAddr) : State := updIss s (fun i => { i with jump := some a })
def acting (s : State) (fn : Nat) (v : W64) : State := updIss s (fun i => { i with sys := some (fn, v) })

/-! ## Issuing a bundle -/

/-- The last byte that a list of stores leaves at an address, if any (R30). -/
def lastStored : List (Nat × Byte) → Nat → Option Byte
  | [], _ => none
  | p :: r, a => match lastStored r a with
    | some b => some b
    | none => if p.1 = a then some p.2 else none

/-- The tile in focus is next to issue and nothing comes before its bundle: the module has power and no turn of the agenda waits; the tile
runs a task of a running partition, is not halted, squashed, waiting or armed for a debug event, an injection, a rollback or an
asynchronous trap, at the start of its issue cycle (`s1` is the state after the landings); its engines have taken up what they were
handed; no bit of its SRAM is bad and no halo row is landing there; and the issue budget lets it issue. -/
def clearToIssue (s s1 : State) : Prop :=
  s.mgr.pfail = false ∧ s.agenda = [] ∧ s.todo.head? = some s.tile.site
  ∧ partnRuns s s.tile.pid = true ∧ s.tile.dbg.halted = false ∧ s.tile.disp.running = true ∧ s.tile.eng.ops = []
  ∧ haltWanted s.tile = none ∧ s.tile.hold64 ≠ some s.cyc ∧ s.tile.stale = [] ∧ s.tile.haloOld = [] ∧ s.tile.eng.halos = [] ∧ s.tile.poison = [] ∧ s.tile.soft = []
  ∧ s.tile.dbg.inject = none ∧ (cwGet s.tile 0x208).getLsbD 63 = false ∧ s.tile.th.squash = 0 ∧ s.tile.th.trap = none
  ∧ s.tile.disp.sync = none ∧ s.tile.idle = none ∧ budgetLeft s = true
  ∧ s1 = { s with tile := beginCycle s.tile (hereCyc s), todo := s.todo.tail }
  ∧ debugHits s1 = [] ∧ s.tile.vt.due = [] ∧ s1.tile.vt.due = [] ∧ s1.tile.asyncs = [] ∧ (cwGet s1.tile 0x208).getLsbD 63 = false

/-- A bundle that has left nothing for the engines, the code, the dispatcher or the events, and takes no trap or system action. -/
def plainGroup (i : Issue) : Prop :=
  i.ops = [] ∧ i.codes = [] ∧ i.event = none ∧ i.sys = none ∧ i.completing = none ∧ i.spawn = none ∧ i.popped = none

/-! ## Gathers and scatters (R131, R132) -/

/-- The lanes that a mask register enables, ascending. -/
def laneList (s : State) (m : BitVec 3) : List Nat := (upto 64).filter (fun i => (M s m).getLsbD i)

/-- The address of a lane: the base and the unsigned index lane scaled by the access size, exact. -/
def laneAddr (s : State) (a b : Reg) (z i : Nat) : Int := ((X s a).toNat : Int) + (z * elemOf (V s b) 32 i : Nat)

/-- The address of a lane of VLDM and VSTM. -/
def rowAddr (s : State) (a : Reg) (i : Nat) : Int := ((X s a).toNat : Int) + (4 * i : Nat)

/-- The causes of a gather or scatter: the lowest lane that touches a byte it may not, and the lowest misaligned lane. -/
def laneFaults (s : State) (addr : Nat → Int) (z : Nat) (m : BitVec 3) : List (Nat × W64) :=
  (match (laneList s m).find? (fun i => !spanOk s.tile (addr i) z) with
    | some i => [(0x05, BitVec.ofInt 64 (addr i))]
    | none => [])
  ++ (match (laneList s m).find? (fun i => decide (addr i % (z : Int) ≠ 0)) with
    | some i => [(0x06, BitVec.ofInt 64 (addr i))]
    | none => [])

/-- A gather of `z` bytes a lane: without a fault, each enabled lane takes its zero-extended bytes with latency 12; else the
causes. -/
def gatherForm (op : Ctl → Instr) (s : State) (c : Ctl) (addr : Nat → Int) (z : Nat) (d : Reg) (m : BitVec 3) : Prop :=
  (laneFaults s addr z m = [] → ∃ mask val, exec (op c) s
      = .next (emit (updIss s (fun i => { i with reads := i.reads ++ (laneList s m).map (fun l => ((addr l).toNat, z)) }))
          [⟨12, true, .v d mask val⟩])
      ∧ writesElems 32 mask val (fun i => if i ∈ laneList s m then some (readLe (seen s) (addr i).toNat z) else none))
  ∧ (laneFaults s addr z m ≠ [] → exec (op c) s = .next (raise s (laneFaults s addr z m)))

/-- A scatter of `z` bytes a lane: without a fault, the low bytes of each enabled lane, in ascending lanes. -/
def scatterForm (op : Ctl → Instr) (s : State) (c : Ctl) (addr : Nat → Int) (z : Nat) (d : Reg) (m : BitVec 3) : Prop :=
  exec (op c) s = .next (if laneFaults s addr z m = [] then
      storing s ((laneList s m).map (fun l => atAddr (addr l).toNat (leBytes (elemOf (V s d) 32 l) z))).flatten
    else raise s (laneFaults s addr z m))

/-- A load of `n` bytes: without a fault the results that `out` makes of the little-endian value, and the bytes read. -/
def loadForm (i : Instr) (s : State) (ea : Int) (n align : Nat) (out : Nat → List Flight) : Prop :=
  exec i s = .next (if accessFaults s.tile ea n align = [] then emit (reading s ea.toNat n) (out (readLe (seen s) ea.toNat n))
    else raise s (accessFaults s.tile ea n align))

/-- A store of bytes: without a fault they are stored from the effective address on. -/
def storeForm (i : Instr) (s : State) (ea : Int) (align : Nat) (bs : List Byte) : Prop :=
  exec i s = .next (if accessFaults s.tile ea bs.length align = [] then storing s (atAddr ea.toNat bs)
    else raise s (accessFaults s.tile ea bs.length align))

/-- A write of code below XB: words that the bundle writes, which it covers whole in the sense of R399, or its causes (R134). -/
def codeForm (i : Instr) (s : State) (ea n align : Nat) (ws : List (Nat × BitVec 32)) : Prop :=
  exec i s = .next (if ea + n ≤ (cwGet s.tile 0x010).toNat ∧ ea % align = 0 then updIss s (fun i => { i with
      whole := i.whole ++ wholeWords ((upto n).map (fun k => (ea + k, (0 : Byte)))), codes := i.codes ++ ws })
    else raise s ((if ea + n ≤ (cwGet s.tile 0x010).toNat then [] else [(0x05, BitVec.ofNat 64 ea)])
      ++ (if ea % align = 0 then [] else [(0x06, BitVec.ofNat 64 ea)])))

end Sys2Proof
end

