-- ==== Sys2Proof/Certificates/Slice0/Obligations.lean ====
section
/-! DEFINITION. The statements for the provers. Each formalises the rule of spec/ that its docstring names; where a clause rests on a
choice of the model, the docstring names the log entry. -/

open Sys2Proof Sys2Proof.Machine

/-! ## Encodings -/

/-- The words that the chapters print beside their examples, and words written out from the encoding tables, decode to the
instructions they stand for (R24, R31, R33, R84, R90, R100, R103, R128, R131, R133). -/
def Obligations.PrintedWordsDecode : Prop :=
  decodeWord 0x10055678 = .ok (.ldi ⟨false, false, 0⟩ 5 0x5678)
  ∧ decodeWord 0x12051234 = .ok (.ldh1 ⟨false, false, 0⟩ 5 0x1234)
  ∧ decodeWord 0x16050020 = .ok (.ldh3 ⟨false, false, 0⟩ 5 0x0020)
  ∧ decodeWord 0x28024642 = .ok (.cmp ⟨false, false, 0⟩ 9 3 4 2)
  ∧ decodeWord 0x18061909 = .ok (.sel ⟨false, false, 0⟩ 6 3 4 9)
  ∧ decodeWord 0x06273801 = .ok (.addi ⟨false, false, 1⟩ 7 7 1)
  ∧ decodeWord 0x26050004 = .ok (.loop ⟨false, false, 0⟩ 5 4)
  ∧ decodeWord 0x24000800 = .ok (.jr ⟨false, false, 0⟩ 1)
  ∧ decodeWord 0x36000010 = .ok (.sync ⟨false, false, 0⟩)
  ∧ decodeWord 0x36000011 = .ok (.lpop ⟨false, false, 0⟩)
  ∧ decodeWord 0x42075200 = .ok (.st ⟨false, false, 0⟩ 7 10 1 0)
  ∧ decodeWord 0x48044991 = .ok (.vsct32 ⟨false, false, 0⟩ 4 9 6 2)
  ∧ decodeWord 0x4A034000 = .ok (.ltld ⟨false, false, 0⟩ 3 8)
  ∧ decodeWord 0x81000000 = .ok (.nop ⟨true, true, 0⟩ 0 0)

/-- Decoding the encoding of a well-formed instruction gives it back, with every operand at every value (R24, R31, R32). -/
def Obligations.DecodeOfEncode : Prop :=
  ∀ (i : Instr) (w : BitVec 32), i.wf = true → encode i = some w → decodeWord w = .ok i

/-- A word that the decoder accepts is the encoding of the instruction it gives, which is well formed: no bit of a word is
dropped, and no ill-formed instruction is ever decoded (R32, R33). -/
def Obligations.EncodeOfDecode : Prop :=
  ∀ (w : BitVec 32) (i : Instr), decodeWord w = .ok i → encode i = some w ∧ i.wf = true

/-! ## The machine as a whole -/

/-- After the start (R95, R417): CYC is 0, no partition exists, no packet is in flight, quarry memory and SRAM read as zero;
BOOTSTEP shows step 10; a tile's registers have the reset values that R55, R56, R93, R107, R108, R183, R298 and R362 give. Of STATUS the bits
OPT and BANKSLOT, which a launch sets, are the model's 0 (log 1), and RSEED, the site number and 1, is that of a module with no retired tile and
MODIDX 0 (log 3). -/
def Obligations.ResetValues : Prop :=
  State.reset.cyc = 0 ∧ State.reset.partns = [] ∧ State.reset.net = [] ∧ (∀ a, cellGet State.reset.quarry a = 0)
  ∧ w0Get State.reset 0x18 = 10
  ∧ ∀ site, (∀ a, cellGet (Tile.blank site).mem a = 0) ∧ (Tile.blank site).sup = false
      ∧ cwGet (Tile.blank site) 0x000 = 0 ∧ cwGet (Tile.blank site) 0x001 = 0
      ∧ cwGet (Tile.blank site) 0x002 = BitVec.ofNat 64 (site + 1)
      ∧ cwGet (Tile.blank site) 0x021 = 0xFFFFFFFF ∧ cwGet (Tile.blank site) 0x111 = 0xFFFF
      ∧ cwGet (Tile.blank site) 0x110 = 1 ∧ cwGet (Tile.blank site) 0x035 = BitVec.allOnes 64
      ∧ cwGet (Tile.blank site) 0x070 = 0 ∧ cwGet (Tile.blank site) 0x104 = 0

/-- Every memory of the module is in canonical form after the start. -/
def Obligations.ResetMemoryCanonical : Prop := memoryWf State.reset = true

/-- From every state whose memories are in canonical form, a step leads to one whose memories are, whatever the step: the issue of a
bundle, an engine, the fabric, a bench, a launch, the host, the start sequence. -/
def Obligations.StepKeepsMemoryCanonical : Prop :=
  ∀ s t : State, memoryWf s = true → step s = .next t → memoryWf t = true

/-- No step is ever refused, and a step faults exactly when the module has no power and no start sequence comes next (R344, R422). -/
def Obligations.StepStopsOnlyWithoutPower : Prop :=
  ∀ s : State,
    (∀ r, step s ≠ .refused r)
    ∧ ((∃ f, step s = .fault f) ↔ (s.mgr.pfail = true ∧ s.agenda.head? ≠ some (.ev .startSequence)))

/-- Every instruction with an encoding answers a next state, from every state, and that state differs from the one before in the
issue group of the tile in focus at most: no register, no memory, no other tile and no packet
changes before the bundle commits (R30). -/
def Obligations.SlotsOnlyGather : Prop :=
  ∀ (i : Instr) (w : BitVec 32) (s : State), encode i = some w → ∃ t, exec i s = .next t ∧ issueOnly s t

/-! ## Issuing a bundle -/

/-- A step runs the decoded bundle (R25, R27, R30, R357). Where the tile in focus is clear to issue and the words at its pc decode to
well-formed slots, none of them naming a pending register, and those slots executed in order answer a state, what an event asks for first
comes first (its rollback, its drain, its wait: R299, R319, log 81); else the step takes the lowest cause that they raise as a trap, before any
stall (log 11), or else gives the bundle's verdict: its commit, or the stall that a resource asks for (its drains and kinds are logs 18 and 27),
unless the task gives way before it (R277); the trace unit records the change of state (R396). A completing trap of a lower code than every
cause takes its bundle's effects with it, and of one code the fault is taken (log 113). A bundle without an event waits for none. Running the slots
in order is running `exec` of each. -/
def Obligations.StepRunsDecodedBundle : Prop :=
  (∀ (s s1 s2 : State) (ws : List (BitVec 32)) (l : List Slot), clearToIssue s s1 → scanBundle s1 s1.tile.th.pc = .words ws →
    decodeSlots 0 ws = .ok l → pendingMask s1.tile l = 0 →
    runSlots (inOrder l) (openBundle s1 ws (earlyCauses s1.tile l [])) = .next s2 →
    let goesTo (u : State) : Prop := step s = .next { u with tile := traceNote u.tile (hereCyc u) }
    let early := s2.tile.iss.causes.any (fun c => decide (c.1 ≤ 0x02))
    let first := if early || s1.tile.sup then none else eventWait s1 s2
    let fault := faultOf s2 s2.tile.iss
    (s2.tile.iss.event = none → first = none)
    ∧ (∀ s', first = some s' → goesTo s')
    ∧ (first = none → ∀ code k v, fault = some (code, k, v) → goesTo (trapBundle { s1 with free := s2.free } [] code v))
    ∧ (first = none → fault = none → ∀ s', switchDue s1 = some s' → goesTo s')
    ∧ (first = none → fault = none → switchDue s1 = none → ∃ beats,
        goesTo (settle s1 l beats (if s2.tile.iss.causes = [] then s2 else completed s2))))
  ∧ (∀ (s : State) (i : Issue) (c : Nat × Nat × W64), lowestCause i.causes = some c →
      c ∈ i.causes ∧ (∀ d ∈ i.causes, c.1 ≤ d.1)
      ∧ (i.completing = none → faultOf s i = some c)
      ∧ (∀ k v, i.completing = some (k, v) → c.1 ≤ k → faultOf s i = some c)
      ∧ ∀ k v, i.completing = some (k, v) → k < c.1 → sigContains s = false → faultOf s i = none)
  ∧ (∀ (s : State) (i : Issue), i.causes = [] → faultOf s i = none)
  ∧ (∀ (x : Slot) (r : List Slot) (s t : State),
      runSlots (x :: r) s = .next t ↔ ∃ u, exec x.ins (updIss s (fun i => { i with slot := x.idx })) = .next u ∧ runSlots r u = .next t)
  ∧ ∀ s : State, runSlots [] s = .next s

/-- What the commit of a bundle changes when its slots have only produced results, stores and a transfer (R30, R34, R98): every address
reads as before, but those stored to, which hold the byte stored last, and in an optimistic partition those of the trail region, which takes
the old lines (R301); no register changes before its result lands; no control word
changes but RSEED, VSAVE, LC0, LC1, SIGCTL, SIGACC, STEPCNT and TRDROP; other tiles, quarry memory, packets, partitions and the
management block are unchanged; and the next bundle is at the transfer's target after two squashed cycles, or the one that follows. -/
def Obligations.CommitFrame : Prop :=
  ∀ (s : State) (beats : Nat), plainGroup s.tile.iss → s.tile.poison = [] → s.tile.soft = [] →
    let i := s.tile.iss
    let t := commitBundle s beats
    let trail := regionBase s.tile 0x013
    (∀ a b, lastStored i.stores a = some b → cellGet t.tile.mem a = b)
    ∧ (∀ a, lastStored i.stores a = none →
        (isOpt s.tile = true → s.tile.mem.wf = true ∧ ¬(trail ≤ a ∧ a < trail + regionSize s.tile 0x013)) →
        cellGet t.tile.mem a = cellGet s.tile.mem a)
    ∧ t.tile.th.x = s.tile.th.x ∧ t.tile.th.p = s.tile.th.p ∧ t.tile.th.v = s.tile.th.v ∧ t.tile.th.m = s.tile.th.m
    ∧ t.tile.th.lt = s.tile.th.lt ∧ t.tile.th.acc = s.tile.th.acc ∧ t.tile.th.latch = s.tile.th.latch ∧ t.tile.th.side = s.tile.th.side
    ∧ t.tile.th.flights = s.tile.th.flights ++ (sortBy (fun a b => decide (a.1 ≤ b.1)) i.flights).map (·.2)
    ∧ (∀ n, n ∉ [0x002, 0x008, 0x070, 0x071, 0x110, 0x111, 0x209, 0x20B] → cwGet t.tile n = cwGet s.tile n)
    ∧ t.tile.sup = s.tile.sup ∧ t.rest = s.rest ∧ t.quarry = s.quarry ∧ t.cap = s.cap ∧ t.net = s.net ∧ t.partns = s.partns
    ∧ t.mgr = s.mgr ∧ t.cyc = s.cyc
    ∧ (∀ a, i.jump = some a → t.tile.th.pc = a ∧ t.tile.th.squash = 2)
    ∧ (i.jump = none → (s.tile.sup = true ∨ lcAct (cwGet s.tile 0x070) = false) →
        t.tile.th.pc = i.addr + BitVec.ofNat 21 (4 * i.words.length) ∧ t.tile.th.squash = 0)

/-- Results land in their registers and nowhere else (R34, R71, R74, R89, R130, R133): a scalar result in X[d], which reads as it at once,
with x0 still zero; a predicate in P[q]; a group of predicates but for p0; the bits of a layout entry or of a vector register that
the slot writes, the others keeping what they hold at the landing; a vector mask, with m0 still all ones. -/
def Obligations.ResultsLand : Prop :=
  (∀ (th : Thread) (d r : Reg) (v : W64), xGet (landThread th (.x d v)) r = if r = d ∧ d ≠ 0 then v else xGet th r)
  ∧ (∀ (th : Thread) (q : BitVec 7) (v : Bool) (n : Nat), n < 128 →
      pGet (landThread th (.p q v)) n = if n = q.toNat ∧ q ≠ 0 then v else pGet th n)
  ∧ (∀ (th : Thread) (g : BitVec 1) (v : W64) (n : Nat), n < 128 →
      pGet (landThread th (.pg g v)) n = if n = 0 then true else if n / 64 = g.toNat then v.getLsbD (n % 64) else pGet th n)
  ∧ (∀ (th : Thread) (n k : Reg) (mask v : BitVec 128) (b : Nat), b < 128 →
      (ltGet (landThread th (.lt n mask v)) k.toNat).getLsbD b
        = if k = n ∧ mask.getLsbD b = true then v.getLsbD b else (ltGet th k.toNat).getLsbD b)
  ∧ (∀ (th : Thread) (d r : Reg) (mask v : BitVec 2048) (b : Nat), b < 2048 →
      (vGet (landThread th (.v d mask v)) r).getLsbD b
        = if r = d ∧ mask.getLsbD b = true then v.getLsbD b else (vGet th r).getLsbD b)
  ∧ (∀ (th : Thread) (d r : BitVec 3) (v : W64), mGet (landThread th (.m d v)) r = if r = d ∧ d ≠ 0 then v else mGet th r)
  ∧ ∀ (th : Thread) (r : Res), (landThread th r).pc = th.pc ∧ (landThread th r).pend = th.pend ∧ (landThread th r).flights = th.flights

/-- The guard of a slot, and a slot whose guard is false (R25): in user mode, exec of every instruction with an encoding whose guard is false
answers the state it was given, but for the float datapath that a form of VEC0 or VEC1 holds, whatever its guard, under a pending V-target
format F64 (R140 to R142). Such a slot raises nothing where its form does not accept the format (log 26). In supervisor mode the same holds of
every slot that R353 refuses in neither its class nor its form. -/
def Obligations.GuardedOffDoesNothing : Prop :=
  (∀ (t : Tile) (c : Ctl),
    let g := if c.gi = 0 then true else pGet t.th (8 * ((cwGet t 0).toNat / 16 % 16) + c.gi.toNat)
    guardOf t c = (g != c.gn))
  ∧ ∀ (i : Instr) (w : BitVec 32) (s : State), encode i = some w → guardOf s.tile (slotInfo i).ctl = false →
      (s.tile.sup = false → exec i s = .next (floatHeld i s))
      ∧ (s.tile.sup = true → (slotInfo i).cls ∉ [UnitClass.vector, .matrix, .engine] → userOnly i = false → exec i s = .next s)

/-- The mode checks of R353, whatever the guard: in supervisor mode every V- or M-class slot raises DOUBLE and nothing else, a form of VEC0 or VEC1
holding the float datapath as ever (R140, log 26); every E-class slot raises DOUBLE after the causes that it raises in user mode, none where its
guard is false; and PFX, LOOP, YIELD, SUSPEND, EXIT, TRAP and BRK raise ILLOP with the slot word. None of them gathers anything else. -/
def Obligations.SupervisorModeChecks : Prop :=
  (∀ (i : Instr) (s : State), s.tile.sup = true → (slotInfo i).cls ∈ [UnitClass.vector, .matrix] →
    exec i s = .next (raise (floatHeld i s) [(0x12, 0)]))
  ∧ (∀ (i : Instr) (s : State), s.tile.sup = true → (slotInfo i).cls = UnitClass.engine →
      ∃ own t, exec i s = .next (raise s (own ++ [(0x12, 0)])) ∧ exec i (asUser s) = .next t
        ∧ t.tile.iss.causes = s.tile.iss.causes ++ own.map (fun p => (p.1, s.tile.iss.slot, p.2))
        ∧ (guardOf s.tile (slotInfo i).ctl = false → own = []))
  ∧ ∀ (c : Ctl) (r : Reg) (k : BitVec 16) (fa fb : BitVec 4) (g : BitVec 2) (z : BitVec 1) (s : State), s.tile.sup = true →
      ∀ i ∈ [Instr.pfxM c fa fb g z, .pfxV c fa fb g z, .loop c r k, .yield c, .suspend c r, .exit c, .trap c r, .brk c],
        exec i s = .next (raise s [(0x01, (s.tile.iss.words.getD s.tile.iss.slot 0).setWidth 64)])

/-! ## Scalar instructions (04) -/

/-- The results of SALU (R75), latency 1, as arithmetic on unsigned and signed values; a shift count is taken modulo 64, or 32 for the W
forms, and a 32-bit result is sign-extended. -/
def Obligations.ScalarArithmetic : Prop :=
  binaryResult .add 1 (fun x y => BitVec.ofNat 64 (x.toNat + y.toNat))
  ∧ binaryResult .sub 1 (fun x y => BitVec.ofInt 64 (x.toNat - y.toNat))
  ∧ binaryWhere .and 1 (fun x y v => ∀ i, i < 64 → v.getLsbD i = (x.getLsbD i && y.getLsbD i))
  ∧ binaryWhere .or 1 (fun x y v => ∀ i, i < 64 → v.getLsbD i = (x.getLsbD i || y.getLsbD i))
  ∧ binaryWhere .xor 1 (fun x y v => ∀ i, i < 64 → v.getLsbD i = (x.getLsbD i != y.getLsbD i))
  ∧ binaryWhere .andn 1 (fun x y v => ∀ i, i < 64 → v.getLsbD i = (x.getLsbD i && !y.getLsbD i))
  ∧ binaryWhere .orn 1 (fun x y v => ∀ i, i < 64 → v.getLsbD i = (x.getLsbD i || !y.getLsbD i))
  ∧ binaryWhere .xnor 1 (fun x y v => ∀ i, i < 64 → v.getLsbD i = (x.getLsbD i == y.getLsbD i))
  ∧ binaryResult .sll 1 (fun x y => BitVec.ofNat 64 (x.toNat * 2 ^ (y.toNat % 64)))
  ∧ binaryResult .srl 1 (fun x y => BitVec.ofNat 64 (x.toNat / 2 ^ (y.toNat % 64)))
  ∧ binaryResult .sra 1 (fun x y => BitVec.ofInt 64 (x.toInt / 2 ^ (y.toNat % 64)))
  ∧ binaryWhere .ror 1 (fun x y v => ∀ i, i < 64 → v.getLsbD i = x.getLsbD ((i + y.toNat) % 64))
  ∧ binaryWhere .rol 1 (fun x y v => ∀ i, i < 64 → v.getLsbD ((i + y.toNat) % 64) = x.getLsbD i)
  ∧ binaryResult .slt 1 (fun x y => if x.toInt < y.toInt then 1 else 0)
  ∧ binaryResult .sltu 1 (fun x y => if x.toNat < y.toNat then 1 else 0)
  ∧ binaryResult .min 1 (fun x y => BitVec.ofInt 64 (min x.toInt y.toInt))
  ∧ binaryResult .max 1 (fun x y => BitVec.ofInt 64 (max x.toInt y.toInt))
  ∧ binaryResult .minu 1 (fun x y => BitVec.ofNat 64 (min x.toNat y.toNat))
  ∧ binaryResult .maxu 1 (fun x y => BitVec.ofNat 64 (max x.toNat y.toNat))
  ∧ binaryResult .addw 1 (fun x y => wrap32 (x.toInt + y.toInt))
  ∧ binaryResult .subw 1 (fun x y => wrap32 (x.toInt - y.toInt))
  ∧ binaryResult .sllw 1 (fun x y => wrap32 (lowU x * 2 ^ (y.toNat % 32) : Nat))
  ∧ binaryResult .srlw 1 (fun x y => wrap32 (lowU x / 2 ^ (y.toNat % 32) : Nat))
  ∧ binaryResult .sraw 1 (fun x y => wrap32 (lowS x / 2 ^ (y.toNat % 32)))

/-- The products of SMUL (R77), latency 4, and the quotients and remainders of R78, its two exceptional cases among them, without a trap; latency
20 (R77). -/
def Obligations.MultipliesAndDivides : Prop :=
  binaryResult .mul 4 (fun x y => BitVec.ofInt 64 (x.toInt * y.toInt))
  ∧ binaryResult .mulh 4 (fun x y => BitVec.ofInt 64 (x.toInt * y.toInt / 2 ^ 64))
  ∧ binaryResult .mulhu 4 (fun x y => BitVec.ofNat 64 (x.toNat * y.toNat / 2 ^ 64))
  ∧ binaryResult .mulhsu 4 (fun x y => BitVec.ofInt 64 (x.toInt * y.toNat / 2 ^ 64))
  ∧ binaryResult .mulw 4 (fun x y => wrap32 (lowS x * lowS y))
  ∧ binaryResult .div 20 (fun x y => BitVec.ofInt 64 (divQuot 64 x.toInt y.toInt))
  ∧ binaryResult .rem 20 (fun x y => BitVec.ofInt 64 (divRem 64 x.toInt y.toInt))
  ∧ binaryResult .divu 20 (fun x y => BitVec.ofNat 64 (divQuotU 64 x.toNat y.toNat))
  ∧ binaryResult .remu 20 (fun x y => BitVec.ofNat 64 (divRemU x.toNat y.toNat))
  ∧ binaryResult .divw 20 (fun x y => wrap32 (divQuot 32 (lowS x) (lowS y)))
  ∧ binaryResult .remw 20 (fun x y => wrap32 (divRem 32 (lowS x) (lowS y)))
  ∧ binaryResult .divuw 20 (fun x y => wrap32 (divQuotU 32 (lowU x) (lowU y) : Nat))
  ∧ binaryResult .remuw 20 (fun x y => wrap32 (divRemU (lowU x) (lowU y) : Nat))
  ∧ BitVec.ofInt 64 (divQuot 64 (-7) 2) = (-3 : W64) ∧ BitVec.ofInt 64 (divRem 64 (-7) 2) = (-1 : W64)
  ∧ BitVec.ofInt 64 (divQuot 64 (-7) 0) = 0xFFFFFFFFFFFFFFFF#64 ∧ BitVec.ofInt 64 (divRem 64 (-7) 0) = (-7 : W64)
  ∧ BitVec.ofInt 64 (divQuot 64 (-2 ^ 63) (-1)) = 0x8000000000000000#64 ∧ BitVec.ofInt 64 (divRem 64 (-2 ^ 63) (-1)) = 0#64

/-- The results of SBIT but for the field extracts (R79), latency 1. -/
def Obligations.BitManipulation : Prop :=
  unaryWhere .clz 1 (leadRel 64) ∧ unaryWhere .ctz 1 trailRel ∧ unaryWhere .clzw 1 (leadRel 32)
  ∧ unaryResult .popc 1 (fun x => BitVec.ofNat 64 ((upto 64).filter (fun i => x.getLsbD i)).length)
  ∧ unaryWhere .brev 1 (fun x v => ∀ i, i < 64 → v.getLsbD (63 - i) = x.getLsbD i)
  ∧ unaryWhere .bswap 1 (fun x v => ∀ i b, i < 8 → b < 8 → v.getLsbD (8 * (7 - i) + b) = x.getLsbD (8 * i + b))
  ∧ unaryResult .sextb 1 (fun x => BitVec.ofInt 64 (Int.bmod x.toInt (2 ^ 8)))
  ∧ unaryResult .sexth 1 (fun x => BitVec.ofInt 64 (Int.bmod x.toInt (2 ^ 16)))
  ∧ unaryResult .zextb 1 (fun x => BitVec.ofNat 64 (x.toNat % 2 ^ 8))
  ∧ unaryResult .zexth 1 (fun x => BitVec.ofNat 64 (x.toNat % 2 ^ 16))
  ∧ unaryResult .zextw 1 (fun x => BitVec.ofNat 64 (x.toNat % 2 ^ 32))
  ∧ binaryResult .bext 1 (fun x y => if x.getLsbD (y.toNat % 64) then 1 else 0)
  ∧ binaryWhere .bset 1 (bitRel (fun _ => true))
  ∧ binaryWhere .bclr 1 (bitRel (fun _ => false))
  ∧ binaryWhere .binv 1 (bitRel (fun b => !b))

/-- BFXU and BFXS (R80): position vb[5:0], length vb[14:8] up to 64, the bits beyond bit 63 zero or the sign. -/
def Obligations.FieldExtracts : Prop := binaryWhere .bfxu 1 (fieldRel false) ∧ binaryWhere .bfxs 1 (fieldRel true)

/-- The immediate forms of R81: each takes the sign-extended k. -/
def Obligations.ImmediateForms : Prop :=
  ∀ k : BitVec 11,
    unaryResult (fun c d a => .addi c d a k) 1 (fun x => BitVec.ofInt 64 (x.toInt + k.toInt))
    ∧ unaryWhere (fun c d a => .andi c d a k) 1 (fun x v => ∀ i, i < 64 → v.getLsbD i = (x.getLsbD i && k.getLsbD (min i 10)))
    ∧ unaryWhere (fun c d a => .ori c d a k) 1 (fun x v => ∀ i, i < 64 → v.getLsbD i = (x.getLsbD i || k.getLsbD (min i 10)))
    ∧ unaryWhere (fun c d a => .xori c d a k) 1 (fun x v => ∀ i, i < 64 → v.getLsbD i = (x.getLsbD i != k.getLsbD (min i 10)))

/-- The shifts by a constant of R82, and the constants of R83 and R84: LDI writes the sign-extended constant, LDHn replaces one 16-bit field of
the register read at issue. -/
def Obligations.ShiftsAndConstants : Prop :=
  (∀ n : BitVec 6,
    unaryResult (fun c d a => .slli c d a n) 1 (fun x => BitVec.ofNat 64 (x.toNat * 2 ^ n.toNat))
    ∧ unaryResult (fun c d a => .srli c d a n) 1 (fun x => BitVec.ofNat 64 (x.toNat / 2 ^ n.toNat))
    ∧ unaryResult (fun c d a => .srai c d a n) 1 (fun x => BitVec.ofInt 64 (x.toInt / 2 ^ n.toNat))
    ∧ unaryWhere (fun c d a => .rori c d a n) 1 (fun x v => ∀ i, i < 64 → v.getLsbD i = x.getLsbD ((i + n.toNat) % 64)))
  ∧ (∀ n : BitVec 5,
    unaryResult (fun c d a => .slliw c d a n) 1 (fun x => wrap32 (lowU x * 2 ^ n.toNat : Nat))
    ∧ unaryResult (fun c d a => .srliw c d a n) 1 (fun x => wrap32 (lowU x / 2 ^ n.toNat : Nat))
    ∧ unaryResult (fun c d a => .sraiw c d a n) 1 (fun x => wrap32 (lowS x / 2 ^ n.toNat)))
  ∧ (∀ (c : Ctl) (d : Reg) (k : BitVec 16) (s : State), runs s c →
      ∀ p ∈ [(1, Instr.ldh1 c d k), (2, .ldh2 c d k), (3, .ldh3 c d k)],
        ∃ v : W64, exec p.2 s = .next (emit s (xOut 1 false d v))
          ∧ ∀ i, i < 64 → v.getLsbD i = (if i / 16 = p.1 then k.getLsbD (i % 16) else (X s d).getLsbD i))
  ∧ ∀ (c : Ctl) (d : Reg) (k : BitVec 16) (s : State), runs s c → exec (.ldi c d k) s = .next (emit s (xOut 1 false d (BitVec.ofInt 64 k.toInt)))

/-- SEL (R90) and the address forms of R85: ADDSC, LADD within 21 bits, and CHKU, which raises BOUND with va unless va is below vb; and
compares, predicate logic and predicate groups (R86 to R89), latency 1. -/
def Obligations.SelectsComparesAndPredicates : Prop :=
  (∀ (c : Ctl) (d a b : Reg) (p : BitVec 6) (s : State), runs s c →
    exec (.sel c d a b p) s = .next (emit s (xOut 1 false d (if pGet s.tile.th p.toNat then X s a else X s b))))
  ∧ (∀ h : BitVec 3, binaryResult (fun c d a b => .addsc c d a b h) 1 (fun x y => BitVec.ofNat 64 (x.toNat + y.toNat * 2 ^ h.toNat))
      ∧ binaryResult (fun c d a b => .ladd c d a b h) 1 (fun x y => BitVec.ofNat 64 ((x.toNat + y.toNat * 2 ^ h.toNat) % 2 ^ 21)))
  ∧ (∀ (c : Ctl) (a b : Reg) (s : State), runs s c →
      exec (.chku c a b) s = .next (if (X s a).toNat < (X s b).toNat then s else raise s [(0x07, X s a)]))
  ∧ (∀ (c : Ctl) (q : BitVec 7) (a b : Reg) (s : State), runs s c →
    let x := X s a
    let y := X s b
    exec (.cmp c q a b 0) s = .next (emit s (pOut q (decide (x = y))))
    ∧ exec (.cmp c q a b 1) s = .next (emit s (pOut q (decide (x ≠ y))))
    ∧ exec (.cmp c q a b 2) s = .next (emit s (pOut q (decide (x.toInt < y.toInt))))
    ∧ exec (.cmp c q a b 3) s = .next (emit s (pOut q (decide (y.toInt ≤ x.toInt))))
    ∧ exec (.cmp c q a b 4) s = .next (emit s (pOut q (decide (x.toNat < y.toNat))))
    ∧ exec (.cmp c q a b 5) s = .next (emit s (pOut q (decide (y.toNat ≤ x.toNat))))
    ∧ exec (.cmp c q a b 6) s = .next (emit s (pOut q ((upto 64).any (fun i => x.getLsbD i && y.getLsbD i))))
    ∧ exec (.cmp c q a b 7) s = .next (emit s (pOut q (!(upto 64).any (fun i => x.getLsbD i && y.getLsbD i)))))
  ∧ (∀ (c : Ctl) (q : BitVec 7) (a : Reg) (k : BitVec 6) (s : State), runs s c →
    let x := X s a
    exec (.cmpi c q a 0 k) s = .next (emit s (pOut q (decide (x.toInt = k.toInt))))
    ∧ exec (.cmpi c q a 1 k) s = .next (emit s (pOut q (decide (x.toInt ≠ k.toInt))))
    ∧ exec (.cmpi c q a 2 k) s = .next (emit s (pOut q (decide (x.toInt < k.toInt))))
    ∧ exec (.cmpi c q a 3 k) s = .next (emit s (pOut q (decide (k.toInt ≤ x.toInt))))
    ∧ exec (.cmpi c q a 4 k) s = .next (emit s (pOut q (decide ((x.toNat : Int) < k.toInt % 2 ^ 64))))
    ∧ exec (.cmpi c q a 5 k) s = .next (emit s (pOut q (decide (k.toInt % 2 ^ 64 ≤ (x.toNat : Int)))))
    ∧ exec (.cmpi c q a 6 k) s = .next (emit s (pOut q (x.getLsbD k.toNat)))
    ∧ exec (.cmpi c q a 7 k) s = .next (emit s (pOut q (!x.getLsbD k.toNat))))
  ∧ predResult .pand (fun x y => x && y) ∧ predResult .por (fun x y => x || y) ∧ predResult .pxor (fun x y => x != y)
  ∧ predResult .pandn (fun x y => x && !y)
  ∧ (∀ (c : Ctl) (d : Reg) (g : BitVec 1) (s : State), runs s c →
      ∃ v : W64, exec (.prdg c d g) s = .next (emit s (xOut 1 false d v)) ∧ ∀ i, i < 64 → v.getLsbD i = pGet s.tile.th (64 * g.toNat + i))
  ∧ ∀ (c : Ctl) (b : Reg) (g : BitVec 1) (s : State), runs s c → exec (.pwrg c g b) s = .next (emit s [⟨1, false, .pg g (X s b)⟩])

/-- RDW (R91, R92): the first row of R92 that applies decides; a read gives the stored word with latency 2, CYC as the tile's die counts
it (R95), STATUS with PFP in bit 0 (R93) and the number of LTSB entries (R362). -/
def Obligations.ControlWordReads : Prop :=
  ∀ (c : Ctl) (d : Reg) (n : BitVec 12) (s : State), runs s c →
    (0x200 ≤ n.toNat → exec (.rdw c d n) s = .next (raise s [(0x03, BitVec.ofNat 64 n.toNat)]))
    ∧ (0x100 ≤ n.toNat → s.tile.sup = false → exec (.rdw c d n) s = .next (raise s [(0x03, BitVec.ofNat 64 n.toNat)]))
    ∧ (n.toNat < 0x200 → (0x100 ≤ n.toNat → s.tile.sup = true) →
        (cwClass n.toNat = none → exec (.rdw c d n) s = .next (raise s [(0x01, BitVec.ofNat 64 n.toNat)]))
        ∧ (cwClass n.toNat ≠ none → ∃ v : W64, exec (.rdw c d n) s = .next (emit s (xOut 2 false d v))
            ∧ (n = 0x003 → v = cycAt s s.tile.site)
            ∧ (n = 0x106 → v = BitVec.ofNat 64 s.tile.ltsb.length)
            ∧ (n = 0x000 → ∀ i, i < 64 → v.getLsbD i = ((cwGet s.tile 0).getLsbD i || (decide (i = 0) && s.tile.th.pfx.isSome)))
            ∧ (n ≠ 0x003 → n ≠ 0x106 → n ≠ 0x000 → v = cwGet s.tile n.toNat)))

/-- WRW (R91, R92, R116): the first row of R92 that applies decides; XB below 0x1000 or above XBMAX raises BOUND with the value;
a read-only word in supervisor mode is left as it is; else the word is written before the next bundle. -/
def Obligations.ControlWordWrites : Prop :=
  ∀ (c : Ctl) (d : Reg) (n : BitVec 12) (s : State), runs s c →
    (0x200 ≤ n.toNat → exec (.wrw c d n) s = .next (raise s [(0x03, BitVec.ofNat 64 n.toNat)]))
    ∧ (0x100 ≤ n.toNat → s.tile.sup = false → exec (.wrw c d n) s = .next (raise s [(0x03, BitVec.ofNat 64 n.toNat)]))
    ∧ (n.toNat < 0x200 → (0x100 ≤ n.toNat → s.tile.sup = true) →
        (cwClass n.toNat = none → exec (.wrw c d n) s = .next (raise s [(0x01, BitVec.ofNat 64 n.toNat)]))
        ∧ (cwClass n.toNat = some .ur →
            exec (.wrw c d n) s = .next (if s.tile.sup then s else raise s [(0x03, BitVec.ofNat 64 n.toNat)]))
        ∧ (cwClass n.toNat ≠ none → cwClass n.toNat ≠ some .ur →
            let b := (X s d).toNat / 4096 % 512 * 4096
            exec (.wrw c d n) s = .next
              (if n = 0x010 ∧ (b < 0x1000 ∨ (cwGet s.tile 0x011).toNat < b) then raise s [(0x07, X s d)]
               else emit s [⟨1, false, .cw n.toNat (X s d)⟩])))

/-! ## Control flow and traps (05, 15) -/

/-- BR, CALL, JR and JALR (R98 to R100): the target is computed within 21 bits from the bundle address or taken from va, whose two low bits
raise ALIGN with va; the link is the address of the next bundle. -/
def Obligations.TransfersAndLinks : Prop :=
  ∀ (c : Ctl) (d a : Reg) (k : BitVec 21) (s : State), runs s c →
    let base : Nat := s.tile.iss.addr.toNat
    let next : W64 := BitVec.ofNat 64 ((base + 4 * s.tile.iss.words.length) % 2 ^ 21)
    let va := X s a
    exec (.br c k) s = .next (jumping s (BitVec.ofInt 21 (base + 4 * k.toInt)))
    ∧ exec (.call c k) s = .next (jumping (emit s [⟨1, false, .x 1 next⟩]) (BitVec.ofInt 21 (base + 4 * k.toInt)))
    ∧ (va.toNat % 4 = 0 → exec (.jr c a) s = .next (jumping s (BitVec.ofNat 21 va.toNat))
        ∧ exec (.jalr c d a) s = .next (jumping (emit s (xOut 1 false d next)) (BitVec.ofNat 21 va.toNat)))
    ∧ (va.toNat % 4 ≠ 0 → exec (.jr c a) s = .next (raise s [(0x06, va)])
        ∧ exec (.jalr c d a) s = .next (raise (emit s (xOut 1 false d next)) [(0x06, va)]))

/-- LOOP and LPOP in user mode (R102, R104): the checks in their order, the skip past the bundle at the end for a count of zero, else the
loop state for the bundles that follow, the enclosing loop kept in LC1; LPOP pops one loop. -/
def Obligations.LoopForms : Prop :=
  (∀ (c : Ctl) (r : Reg) (k : BitVec 16) (s : State), runsUser s c →
    let start := s.tile.iss.addr.toNat + 4 * s.tile.iss.words.length
    let fin := s.tile.iss.addr.toNat + 4 * k.toNat
    let lc0 := cwGet s.tile 0x070
    let lc1 := cwGet s.tile 0x071
    let t := X s r
    (fin < start ∨ 0x200000 ≤ fin ∨ (lc0.getLsbD 63 = true ∧ lc1.getLsbD 63 = true) →
      exec (.loop c r k) s = .next (raise s [(0x01, (s.tile.iss.words.getD s.tile.iss.slot 0).setWidth 64)]))
    ∧ (start ≤ fin → fin < 0x200000 → ¬(lc0.getLsbD 63 = true ∧ lc1.getLsbD 63 = true) →
        (2 ^ 25 ≤ t.toNat → exec (.loop c r k) s = .next (raise s [(0x07, t)]))
        ∧ (t.toNat = 0 → ∀ ws, scanBundle s (BitVec.ofNat 21 fin) = .words ws →
            exec (.loop c r k) s = .next (jumping s (BitVec.ofNat 21 (fin + 4 * ws.length))))
        ∧ (t.toNat = 0 → scanBundle s (BitVec.ofNat 21 fin) = .noStop → exec (.loop c r k) s = .next (raise s [(0x02, 1)]))
        ∧ (t.toNat = 0 → ∀ a, scanBundle s (BitVec.ofNat 21 fin) = .xfetch a →
            exec (.loop c r k) s = .next (raise s [(0x04, BitVec.ofNat 64 a)]))
        ∧ (0 < t.toNat → t.toNat < 2 ^ 25 → s.tile.iss.addr.toNat % 4 = 0 → ∃ v : W64,
            exec (.loop c r k) s = .next (updIss s (fun i => { i with loops := some (v, if lc0.getLsbD 63 then lc0 else lc1) }))
            ∧ v.getLsbD 63 = true ∧ 4 * bitsOf v 44 19 = fin ∧ 4 * bitsOf v 25 19 = start ∧ bitsOf v 0 25 = t.toNat)))
  ∧ ∀ (c : Ctl) (s : State), runs s c →
      exec (.lpop c) s = .next (updIss s (fun i => { i with loops := some (cwGet s.tile 0x071, 0), lpop := true }))

/-- Loop-end processing (R103) and the loop state at the commit of a bundle (R101 to R104): at the end of the inner loop with iterations left, one is counted off and fetch goes back; in the last
iteration the loop is popped, and the outer loop, if it ends at the same bundle, is then handled in the same step; elsewhere nothing
happens. A user bundle without a transfer or LPOP of its own is handled so by LC0 and LC1 as it issues; then LOOP or LPOP writes the state for the
bundles that follow. -/
def Obligations.LoopEndProcessing : Prop :=
  ∀ (lc0 lc1 : W64) (a : Nat),
    let ends (v : W64) : Prop := v.getLsbD 63 = true ∧ a = 4 * bitsOf v 44 19
    let n (v : W64) : Nat := v.toNat % 2 ^ 25
    (¬ends lc0 → loopEnd lc0 lc1 a = (lc0, lc1, none))
    ∧ (ends lc0 → 1 < n lc0 → ∃ v : W64, loopEnd lc0 lc1 a = (v, lc1, some (4 * bitsOf lc0 25 19))
        ∧ v.getLsbD 63 = true ∧ bitsOf v 44 19 = bitsOf lc0 44 19 ∧ bitsOf v 25 19 = bitsOf lc0 25 19 ∧ n v = n lc0 - 1)
    ∧ (ends lc0 → n lc0 ≤ 1 → ¬ends lc1 → loopEnd lc0 lc1 a = (lc1, 0, none))
    ∧ (ends lc0 → n lc0 ≤ 1 → ends lc1 → 1 < n lc1 → ∃ v : W64, loopEnd lc0 lc1 a = (v, 0, some (4 * bitsOf lc1 25 19))
        ∧ v.getLsbD 63 = true ∧ bitsOf v 44 19 = bitsOf lc1 44 19 ∧ bitsOf v 25 19 = bitsOf lc1 25 19 ∧ n v = n lc1 - 1)
    ∧ (ends lc0 → n lc0 ≤ 1 → ends lc1 → n lc1 ≤ 1 → loopEnd lc0 lc1 a = (0, 0, none))
    ∧ ∀ (s : State) (beats : Nat), plainGroup s.tile.iss → s.tile.poison = [] → s.tile.soft = [] →
        let i := s.tile.iss
        let t := (commitBundle s beats).tile
        let e := if s.tile.sup = false ∧ i.jump = none ∧ i.lpop = false then loopEnd (cwGet s.tile 0x070) (cwGet s.tile 0x071) i.addr.toNat
          else (cwGet s.tile 0x070, cwGet s.tile 0x071, none)
        (i.loops = none → cwGet t 0x070 = e.1 ∧ cwGet t 0x071 = e.2.1)
        ∧ (∀ x y, i.loops = some (x, y) → cwGet t 0x070 = x
            ∧ cwGet t 0x071 = if i.lpop = true then y else if e.1.getLsbD 63 = true then e.1 else e.2.1)
        ∧ (∀ b, i.jump = none → e.2.2 = some b → t.th.pc = BitVec.ofNat 21 b ∧ t.th.squash = 2)
        ∧ (i.jump = none → e.2.2 = none → t.th.pc = i.addr + BitVec.ofNat 21 (4 * i.words.length) ∧ t.th.squash = 0)

/-- SIG, the format words and the no-operation (R26, R105, R106, R166): SIG compares its constant with the running check over the bundle's words, its own
constant taken as zero, while SIGCTL.EN is 1 and SKIP 0; PFX sets the pending format. In supervisor mode SIG does nothing (R353). At the commit of a
user bundle an executed SIG clears SKIP and starts the check anew; any other bundle feeds its words, and a taken transfer, its own or the loop's,
one bit more; a supervisor bundle feeds nothing. -/
def Obligations.SignaturesAndFormats : Prop :=
  (∀ (c : Ctl) (k : BitVec 16) (s : State), runs s c →
    let i := s.tile.iss
    let v := crcWords ((cwGet s.tile 0x111).setWidth 16) (i.words.zipIdx.map (fun p => if p.2 = i.slot then p.1 &&& 0xFFFF0000 else p.1))
    let t := updIss s (fun i => { i with sig := some k })
    (s.tile.sup = true → exec (.sig c k) s = .next s)
    ∧ (s.tile.sup = false → ((cwGet s.tile 0x110).getLsbD 0 = false ∨ (cwGet s.tile 0x110).getLsbD 1 = true ∨ v = k) →
        exec (.sig c k) s = .next t)
    ∧ (s.tile.sup = false → (cwGet s.tile 0x110).getLsbD 0 = true → (cwGet s.tile 0x110).getLsbD 1 = false → v ≠ k →
        exec (.sig c k) s = .next (raise t [(0x19, BitVec.ofNat 64 (k.toNat + 65536 * v.toNat))])))
  ∧ (∀ (c : Ctl) (fa fb : BitVec 4) (g : BitVec 2) (z : BitVec 1) (s : State), runsUser s c →
      exec (.pfxM c fa fb g z) s = .next (updIss s (fun i => { i with pfx := some ⟨fa, fb, g, decide (z = 1), false⟩ }))
      ∧ exec (.pfxV c fa fb g z) s = .next (updIss s (fun i => { i with pfx := some ⟨fa, fb, g, decide (z = 1), true⟩ })))
  ∧ (∀ (c : Ctl) (o : BitVec 6) (z : BitVec 21) (s : State), exec (.nop c o z) s = .next s)
  ∧ (∀ (c : BitVec 16) (b : Bool), (crcBit c b).toNat = if c.getLsbD 15 = b then c.toNat * 2 % 2 ^ 16 else (c.toNat * 2 % 2 ^ 16) ^^^ 0x1021)
  ∧ (∀ (c : BitVec 16) (ws : List (BitVec 32)),
      crcWords c ws = (ws.map (fun w => (upto 32).map (fun j => w.getLsbD (31 - j)))).flatten.foldl crcBit c)
  ∧ ∀ (s : State) (beats : Nat), plainGroup s.tile.iss → s.tile.poison = [] → s.tile.soft = [] →
      let i := s.tile.iss
      let t := (commitBundle s beats).tile
      let fed := crcWords ((cwGet s.tile 0x111).setWidth 16) i.words
      let taken : Prop := i.jump ≠ none ∨ (i.lpop = false ∧ (loopEnd (cwGet s.tile 0x070) (cwGet s.tile 0x071) i.addr.toNat).2.2 ≠ none)
      (s.tile.sup = true → cwGet t 0x110 = cwGet s.tile 0x110 ∧ cwGet t 0x111 = cwGet s.tile 0x111)
      ∧ (s.tile.sup = false → i.sig ≠ none → cwGet t 0x111 = 0xFFFF
          ∧ ∀ b, b < 64 → (cwGet t 0x110).getLsbD b = ((cwGet s.tile 0x110).getLsbD b && decide (b ≠ 1)))
      ∧ (s.tile.sup = false → i.sig = none → cwGet t 0x110 = cwGet s.tile 0x110
          ∧ (taken → cwGet t 0x111 = (crcBit fed true).setWidth 64) ∧ (¬taken → cwGet t 0x111 = fed.setWidth 64))

/-- The SYS functions of either mode and their effects at the commit of the bundle (R110, R366 to R368): IDLE waits for the set, IFENCE makes the code
writes visible and inserts two cycles, MASKP and UNMASKP set and clear SSTAT.PMASK, with 4096 cycles from the first MASKP, SYNC
raises the tile's arrival in the cycle of its issue. -/
def Obligations.SystemFormsOfBothModes : Prop :=
  ∀ (c : Ctl) (a : Reg) (s : State), runs s c →
    exec (.idle c a) s = .next (acting s 0x03 (X s a)) ∧ exec (.ifence c) s = .next (acting s 0x04 0)
    ∧ exec (.maskp c) s = .next (acting s 0x05 0) ∧ exec (.unmaskp c) s = .next (acting s 0x06 0)
    ∧ exec (.sync c) s = .next (acting s 0x10 0)
    ∧ ∀ (i : Issue) (u : State),
        (∀ v, i.sys = some (0x03, v) → commitSys i u = { u with tile := { u.tile with idle := some (v.setWidth 32) } })
        ∧ (∀ v, i.sys = some (0x04, v) → commitSys i u = { u with tile := { u.tile with stale := [], th := { u.tile.th with squash := 2 } } })
        ∧ (∀ v, i.sys = some (0x05, v) → (cwGet (commitSys i u).tile 0x104).getLsbD 18 = true
            ∧ (commitSys i u).tile.disp.maskLeft = if (cwGet u.tile 0x104).getLsbD 18 then u.tile.disp.maskLeft else 4096)
        ∧ (∀ v, i.sys = some (0x06, v) → ∀ b, b < 64 →
            (cwGet (commitSys i u).tile 0x104).getLsbD b = (decide (b ≠ 18) && (cwGet u.tile 0x104).getLsbD b))
        ∧ (∀ v, i.sys = some (0x10, v) → (commitSys i u).tile.disp.sync = some u.cyc)

/-- The forms of user mode (R289 to R292, R364): TRAP and BRK leave a completing trap; YIELD and SUSPEND raise ILLOP in an optimistic partition and else
switch when they can, SUSPEND only on a register that is pending as its bundle issues: the task is parked in the lowest free frame with its registers, not running; EXIT ends the task. -/
def Obligations.SystemFormsOfUserMode : Prop :=
  ∀ (c : Ctl) (a : Reg) (s : State), runsUser s c →
    exec (.trap c a) s = .next (updIss s (fun i => { i with completing := some (0x13, X s a) }))
    ∧ exec (.brk c) s = .next (updIss s (fun i => { i with completing := some (0x14, 0) }))
    ∧ (isOpt s.tile = false → exec (.yield c) s = .next (acting s 0x18 0)
        ∧ exec (.suspend c a) s = .next (if a ≠ 0 ∧ s.tile.th.pend.getLsbD a.toNat = true then acting s 0x19 (a.setWidth 64) else s))
    ∧ (isOpt s.tile = true → ∀ i ∈ [Instr.yield c, .suspend c a],
        exec i s = .next (raise s [(0x01, (s.tile.iss.words.getD s.tile.iss.slot 0).setWidth 64)]))
    ∧ exec (.exit c) s = .next (acting s 0x1A 0)
    ∧ ∀ (i : Issue) (u : State), u.tile.th.flights = [] →
        (∀ v, i.sys = some (0x18, v) → yields u.tile = false → commitSys i u = u)
        ∧ (∀ v, i.sys = some (0x18, v) → yields u.tile = true → ∃ f, freeFrame u.tile.disp = some f.no
            ∧ (commitSys i u).tile.disp.frames = u.tile.disp.frames ++ [f] ∧ f.th.x = u.tile.th.x ∧ f.th.p = u.tile.th.p
            ∧ f.th.pc = u.tile.th.pc ∧ f.th.uid = u.tile.th.uid ∧ (commitSys i u).tile.th.uid = 0 ∧ f.wait = 0 ∧ (commitSys i u).tile.disp.running = false
            ∧ (cwGet (commitSys i u).tile 0x104).getLsbD 18 = false)
        ∧ (∀ v : W64, i.sys = some (0x19, v) → suspends u.tile (v.setWidth 5) = false → commitSys i u = u)
        ∧ (∀ v : W64, i.sys = some (0x19, v) → suspends u.tile (v.setWidth 5) = true → ∃ f, freeFrame u.tile.disp = some f.no
            ∧ (commitSys i u).tile.disp.frames = u.tile.disp.frames ++ [f] ∧ f.th.x = u.tile.th.x ∧ f.th.uid = u.tile.th.uid ∧ (commitSys i u).tile.th.uid = 0 ∧ f.wait = v.setWidth 5
            ∧ (commitSys i u).tile.disp.running = false)
        ∧ (∀ v, i.sys = some (0x1A, v) → (commitSys i u).tile.disp.running = false ∧ (commitSys i u).tile.sup = false)

/-- The forms of supervisor mode (R363, R369): PRIV with TVAL 0x1B in user mode; RFE; SAVELT stores the 64 entries of 16 bytes and empties the LTSB;
RSTLT, while the LTSB is empty, loads the entries up to the first of kind 0 as SRAM holds them before the bundle, or raises ILLOP with X[a] on an entry that R355 refuses;
each raises the causes of a span that fails its checks. At its commit RFE lands its own bundle's results and returns with TPC and SSTAT as they stood before its bundle (R30, R365). -/
def Obligations.SystemFormsOfSupervisorMode : Prop :=
  ∀ (c : Ctl) (a : Reg) (s : State), runs s c →
    (s.tile.sup = false → ∀ i ∈ [Instr.rfe c, .savelt c a, .rstlt c a], exec i s = .next (raise s [(0x03, 0x1B)]))
    ∧ (s.tile.sup = true →
        exec (.rfe c) s = .next (acting s 0x01 0)
        ∧ (s.tile.ltsb.length ≤ 64 → accessFaults s.tile (X s a).toNat 1024 64 = [] → ∃ bs : List Byte, bs.length = 1024
            ∧ exec (.savelt c a) s = .next (acting (storing s (atAddr (X s a).toNat bs)) 0x07 0)
            ∧ (∀ k e, s.tile.ltsb[k]? = some e → (bs.drop (16 * k)).take 16 = ltBytes e)
            ∧ (∀ k, 16 * s.tile.ltsb.length ≤ k → k < 1024 → bs[k]? = some 0))
        ∧ (accessFaults s.tile (X s a).toNat 1024 64 ≠ [] →
            (s.tile.ltsb.length ≤ 64 → exec (.savelt c a) s = .next (acting (raise s (accessFaults s.tile (X s a).toNat 1024 64)) 0x07 0))
            ∧ (s.tile.ltsb = [] → exec (.rstlt c a) s = .next (raise s (accessFaults s.tile (X s a).toNat 1024 64))))
        ∧ (s.tile.ltsb ≠ [] → exec (.rstlt c a) s = .next (raise s [(0x12, 0)]))
        ∧ (s.tile.ltsb = [] → accessFaults s.tile (X s a).toNat 1024 64 = [] →
            exec (.rstlt c a) s = .next (let u := reading s (X s a).toNat 1024
              let es := ltLoad (seen s) 64 (X s a).toNat
              if es.all ltValid then updIss (acting u 0x08 (X s a)) (fun i => { i with ltLoaded := es }) else raise u [(0x01, X s a)])))
    ∧ ∀ (i : Issue) (u : State) (v : W64),
        (i.sys = some (0x07, v) → commitSys i u = { u with tile := { u.tile with ltsb := [] } })
        ∧ (i.sys = some (0x08, v) → commitSys i u = { u with tile := { u.tile with ltsb := i.ltLoaded } })
        ∧ (i.sys = some (0x01, v) → u.tile.th.flights.length = i.flights.length →
            let w := commitSys i u
            let prev := (cwGet u.tile 0x104).getLsbD 17
            w = { u with tile := w.tile } ∧ w.tile.th.pc.toNat = 4 * bitsOf (cwGet u.tile 0x101) 2 19
            ∧ bitsOf (cwGet w.tile 0) 2 6 = bitsOf (cwGet u.tile 0x104) 2 6 ∧ w.tile.ltsb = []
            ∧ (prev = true → w.tile.sup = u.tile.sup) ∧ (prev = false → w.tile.sup = false)
            ∧ (i.flights = [] → let r := returnTrap { u.tile with began := false }
                w.tile.th = r.th ∧ w.tile.cw = r.cw ∧ w.tile.frozen = r.frozen ∧ w.tile.began = r.began ∧ w.tile.mem = u.tile.mem))

/-- Taking a trap (R354 steps 1 to 5), for a cause other than DOUBLE, with TVEC.EN = 1, that does not arise in a handler with entries in the LTSB:
TCAUSE, TPC and TVAL; SSTAT.SST and PREV; STATUS with bits 7 to 2 clear; supervisor mode at the handler after two squashed cycles; the scalar
results in flight in the LTSB and the vector and matrix ones frozen, vector loads among these (log 10), less those of registers that are pending
tokens; nothing else of the tile's SRAM or registers, the matrix state and the pending format among them, and nothing outside the tile. -/
def Obligations.TrapEntry : Prop :=
  ∀ (s : State) (code : Nat) (tval : W64) (tpc : LAddr), code ≠ 0x12 → (cwGet s.tile 0x103).getLsbD 0 = true →
    ¬(s.tile.sup = true ∧ s.tile.ltsb ≠ []) → s.tile.th.late = [] →
    let t := takeTrap s code tval tpc
    let keep := s.tile.th.flights.filter (fun f => !boundPending s.tile.th f)
    cwGet t.tile 0x100 = BitVec.ofNat 64 code ∧ cwGet t.tile 0x101 = BitVec.ofNat 64 tpc.toNat ∧ cwGet t.tile 0x102 = tval
    ∧ bitsOf (cwGet t.tile 0x104) 2 6 = bitsOf (cwGet s.tile 0) 2 6 ∧ (cwGet t.tile 0x104).getLsbD 17 = s.tile.sup
    ∧ (∀ b, b < 64 → (cwGet t.tile 0).getLsbD b = ((cwGet s.tile 0).getLsbD b && !(decide (2 ≤ b) && decide (b ≤ 7))))
    ∧ t.tile.sup = true ∧ t.tile.th.pc.toNat = 4 * bitsOf (cwGet s.tile 0x103) 2 19 ∧ t.tile.th.squash = 2
    ∧ t.tile.th.flights = []
    ∧ t.tile.ltsb.map ltBytes = (s.tile.ltsb ++ ((keep.filter (fun f => !f.unit)).map (ltEntries 0)).flatten).map ltBytes
    ∧ t.tile.frozen = s.tile.frozen ++ keep.filter (fun f => f.unit)
    ∧ (∀ n, n ∉ [0x000, 0x100, 0x101, 0x102, 0x104] → cwGet t.tile n = cwGet s.tile n)
    ∧ t.tile.mem = s.tile.mem ∧ t.tile.th.x = s.tile.th.x ∧ t.tile.th.p = s.tile.th.p ∧ t.tile.th.v = s.tile.th.v ∧ t.tile.th.lt = s.tile.th.lt
    ∧ t.tile.th.m = s.tile.th.m ∧ t.tile.th.acc = s.tile.th.acc ∧ t.tile.th.latch = s.tile.th.latch ∧ t.tile.th.side = s.tile.th.side
    ∧ t.tile.th.tag = s.tile.th.tag ∧ t.tile.th.cmode = s.tile.th.cmode ∧ t.tile.th.rowOk = s.tile.th.rowOk ∧ t.tile.th.latchOk = s.tile.th.latchOk
    ∧ t.tile.th.pfx = s.tile.th.pfx ∧ t.tile.th.pend = s.tile.th.pend ∧ t.tile.th.tokw = s.tile.th.tokw ∧ t = { s with tile := t.tile }

/-- A trap that cannot be taken contains the partition, which runs or is being pre-empted, with the cause kept for its record (R359, R360): DOUBLE, a
trap in a handler with entries in the LTSB, and any trap with TVEC.EN = 0. -/
def Obligations.TrapContains : Prop :=
  ∀ (s : State) (code : Nat) (tval : W64) (tpc : LAddr) (p : Partn), code < 2 ^ 16 → partnOf s s.tile.pid = some p →
    (p.st = .running ∨ p.st = .preempting) →
    let t := takeTrap s code tval tpc
    ((code = 0x12 ∨ (s.tile.sup = true ∧ s.tile.ltsb ≠ [])) →
      ∃ q, partnOf t s.tile.pid = some q ∧ q.st = .containing ∧ causeOf q = 0x12 ∧ (code ≠ 0x12 → causeDetail q = code) ∧ t.tile = s.tile)
    ∧ (code ≠ 0x12 → ¬(s.tile.sup = true ∧ s.tile.ltsb ≠ []) → (cwGet s.tile 0x103).getLsbD 0 = false →
      ∃ q, partnOf t s.tile.pid = some q ∧ q.st = .containing ∧ causeOf q = code ∧ t.tile = s.tile)

/-- The return of RFE (R365): the pc from TPC with its low bits zero, STATUS[7:2] from SSTAT.SST, the mode from SSTAT.PREV. To supervisor mode
the LTSB is replayed and the vector and matrix pipelines stay frozen; to user mode with a rollback pending the LTSB is discarded; else, with no
asynchronous cause pending, the frozen results run on and the LTSB is replayed, each landing its remaining cycles after the two squashed
ones and the landing cycle of the first bundle, in the order in which their bundles had issued them (R37, log 80). -/
def Obligations.TrapReturn : Prop :=
  ∀ t : Tile,
    let u := returnTrap t
    let prev := (cwGet t 0x104).getLsbD 17
    u.th.pc.toNat = 4 * bitsOf (cwGet t 0x101) 2 19 ∧ bitsOf (cwGet u 0) 2 6 = bitsOf (cwGet t 0x104) 2 6 ∧ u.ltsb = []
    ∧ (prev = true → u.sup = t.sup ∧ u.frozen = t.frozen ∧ u.th.squash = 2
        ∧ u.th.flights = t.ltsb.map (fun e => { ltFlight e with left := e.left + 3 }))
    ∧ (prev = false → u.sup = false ∧ u.frozen = [])
    ∧ (prev = false → t.vt.due ≠ [] → u.th.flights = [])
    ∧ (prev = false → t.vt.due = [] → t.asyncs = [] → (∀ f ∈ t.frozen, f.unit = true) → u.th.squash = 2
        ∧ u.th.flights.filter (fun f => !f.unit) = (t.ltsb.map ltFlight).map (fun f => { f with left := f.left + 3 })
        ∧ u.th.flights.filter (fun f => f.unit) = t.frozen.map (fun f => { f with left := f.left + 3 })
        ∧ (∀ e r, t.ltsb = e :: r → e.after = 0 → u.th.flights.head? = some { ltFlight e with left := e.left + 3 })
        ∧ (∀ f r, t.frozen = f :: r → (∀ e ∈ t.ltsb, 0 < e.after) → u.th.flights.head? = some { f with left := f.left + 3 }))
    ∧ u.mem = t.mem ∧ u.th.x = t.th.x ∧ u.th.p = t.th.p ∧ u.th.v = t.th.v ∧ (∀ n, n ≠ 0 → cwGet u n = cwGet t n)

/-! ## Local memory instructions (06) -/

/-- LD and LDX (R117, R127, R129): the exact address, the checks with the effective address in TVAL, and the little-endian value, zero- or
sign-extended, with latency 4. SRAM is as it stands, but for bytes that a halo row is landing on or has just landed on, which a load may find
as they were (R119, R244, log 89). -/
def Obligations.Loads : Prop :=
  (∀ (s : State) (a : Nat), (∀ x ∈ s.tile.haloOld, x.addr ≠ a) → cellGet (seen s) a = cellGet s.tile.mem a)
  ∧ (∀ (s : State) (a : Nat) (x : HaloByte), s.tile.haloOld = [x] → x.addr = a →
      cellGet (seen s) a = cellGet s.tile.mem a ∨ cellGet (seen s) a = x.old)
  ∧ ∀ (c : Ctl) (d a b : Reg) (w : BitVec 2) (x sc : BitVec 1) (k : BitVec 8) (s : State), runs s c →
    let n : Nat := 2 ^ w.toNat
    let out (v : Nat) : List Flight :=
      xOut 4 false d (if x = 1 then BitVec.ofInt 64 (Int.bmod v (2 ^ (8 * n))) else BitVec.ofNat 64 v)
    loadForm (.ld c d a w x k) s ((X s a).toNat + k.toInt * (n : Int)) n n out
    ∧ loadForm (.ldx c d a b sc x w) s ((X s a).toNat + (X s b).toInt * (if sc = 1 then (n : Int) else 1)) n n out

/-- ST and STX (R117, R128, R129): the low 2^w bytes of X[d], the least significant at the effective address. -/
def Obligations.Stores : Prop :=
  ∀ (c : Ctl) (d a b : Reg) (w : BitVec 2) (sc : BitVec 1) (k : BitVec 8) (s : State), runs s c →
    let n : Nat := 2 ^ w.toNat
    let bs : List Byte := (upto n).map (fun i => ((X s d) >>> (8 * i)).setWidth 8)
    storeForm (.st c d a w k) s ((X s a).toNat + k.toInt * (n : Int)) n bs
    ∧ storeForm (.stx c d a b sc w) s ((X s a).toNat + (X s b).toInt * (if sc = 1 then (n : Int) else 1)) n bs

/-- VLD, VLDL, VLDU and VST (R117, R130): 256 bytes, or 128 bytes into the lower or the upper 32 lanes while the other half keeps its
value, with latency 6 and alignment 128; a store of all 256 bytes. That a load's result counts as one of the vector pipeline, frozen at a trap
and not in the LTSB, is log 10. -/
def Obligations.VectorLoadsAndStores : Prop :=
  ∀ (c : Ctl) (d a : Reg) (k : BitVec 9) (s : State), runs s c →
    let ea : Int := (X s a).toNat + k.toInt * 128
    (accessFaults s.tile ea 256 128 = [] →
      exec (.vst c d a k) s = .next (storing s (atAddr ea.toNat ((upto 256).map (fun i => ((V s d) >>> (8 * i)).setWidth 8))))
      ∧ ∃ mask val, exec (.vld c d a k) s = .next (emit (reading s ea.toNat 256) [⟨6, true, .v d mask val⟩])
          ∧ writesElems 8 mask val (fun i => some (cellGet (seen s) (ea.toNat + i)).toNat))
    ∧ (accessFaults s.tile ea 256 128 ≠ [] → ∀ i ∈ [Instr.vst c d a k, .vld c d a k],
        exec i s = .next (raise s (accessFaults s.tile ea 256 128)))
    ∧ (accessFaults s.tile ea 128 128 = [] → ∀ p ∈ [(Instr.vldl c d a k, 0), (.vldu c d a k, 128)],
        ∃ mask val, exec p.1 s = .next (emit (reading s ea.toNat 128) [⟨6, true, .v d mask val⟩])
          ∧ writesElems 8 mask val (fun i => if p.2 ≤ i ∧ i < p.2 + 128 then some (cellGet (seen s) (ea.toNat + i - p.2)).toNat else none))
    ∧ (accessFaults s.tile ea 128 128 ≠ [] → ∀ i ∈ [Instr.vldl c d a k, .vldu c d a k],
        exec i s = .next (raise s (accessFaults s.tile ea 128 128)))

/-- Gathers, scatters and masked transfers (R117, R131, R132). Where lanes fail both checks, the lane that TVAL names is the model's choice (log 99),
and a gather's result counts as one of the vector pipeline (log 10). -/
def Obligations.GathersAndScatters : Prop :=
  ∀ (c : Ctl) (d a b : Reg) (m : BitVec 3) (s : State), runs s c →
    gatherForm (fun c => .vgth32 c d a b m) s c (laneAddr s a b 4) 4 d m
    ∧ gatherForm (fun c => .vgth16 c d a b m) s c (laneAddr s a b 2) 2 d m
    ∧ gatherForm (fun c => .vgth8 c d a b m) s c (laneAddr s a b 1) 1 d m
    ∧ gatherForm (fun c => .vldm c d a m) s c (rowAddr s a) 4 d m
    ∧ scatterForm (fun c => .vsct32 c d a b m) s c (laneAddr s a b 4) 4 d m
    ∧ scatterForm (fun c => .vsct16 c d a b m) s c (laneAddr s a b 2) 2 d m
    ∧ scatterForm (fun c => .vsct8 c d a b m) s c (laneAddr s a b 1) 1 d m
    ∧ scatterForm (fun c => .vstm c d a m) s c (rowAddr s a) 4 d m

/-- The layout table instructions (R117, R133) and the code writes (R134). -/
def Obligations.LayoutTableAndCode : Prop :=
  ∀ (c : Ctl) (d a b : Reg) (s : State), runs s c →
    loadForm (.ltld c d a) s (X s a).toNat 16 16 (fun v => [⟨4, false, .lt d (BitVec.allOnes 128) (BitVec.ofNat 128 v)⟩])
    ∧ storeForm (.ltst c d a) s (X s a).toNat 16 ((upto 16).map (fun i => ((ltGet s.tile.th d.toNat) >>> (8 * i)).setWidth 8))
    ∧ exec (.ltw c d a b) s
        = .next (emit s [⟨1, false, .lt d (BitVec.allOnes 128) (BitVec.ofNat 128 ((X s b).toNat * 2 ^ 64 + (X s a).toNat))⟩])
    ∧ exec (.ltrl c d a) s = .next (emit s (xOut 1 false d (BitVec.ofNat 64 (ltGet s.tile.th a.toNat).toNat)))
    ∧ exec (.ltrh c d a) s = .next (emit s (xOut 1 false d (BitVec.ofNat 64 ((ltGet s.tile.th a.toNat).toNat / 2 ^ 64))))
    ∧ exec (.ltbase c d a) s
        = .next (emit s [⟨1, false, .lt d (BitVec.ofNat 128 (2 ^ 21 - 1)) (BitVec.ofNat 128 ((X s a).toNat % 2 ^ 21))⟩])
    ∧ codeForm (.istw c a b) s (X s a).toNat 4 4 [((X s a).toNat, (X s b).setWidth 32)]
    ∧ codeForm (.istv c a b) s (X s a).toNat 256 256
        ((upto 64).map (fun j => ((X s a).toNat + 4 * j, BitVec.ofNat 32 (elemOf (V s b) 32 j))))

/-! ## Vector instructions (07) -/

/-- VEC0 and VRINT (R57, R58, R142, R143, R151): one rounding of the exact value by RMODE, not saturating; under SR each element written
advances the generator, in ascending elements; the special values of exact arithmetic with NaN and infinities; VMIN and VMAX choose a
source and never round. -/
def Obligations.FloatArithmetic : Prop :=
  ∀ (c : Ctl) (d a b : Reg) (m : BitVec 3) (s : State),
    let A (f : FloatFmt) (e : Nat) : Sys2Proof.Num := floatVal f (elemOf (V s a) f.width e)
    let B (f : FloatFmt) (e : Nat) : Sys2Proof.Num := floatVal f (elemOf (V s b) f.width e)
    let D (f : FloatFmt) (e : Nat) : Sys2Proof.Num := floatVal f (elemOf (V s d) f.width e)
    let down : Bool := decide ((rmode s).toNat % 8 = 2)
    roundingForm c s (.vadd c d a b m) true 4 d m (fun f r e => roundTo f r false (numAdd down (A f e) (B f e)))
    ∧ roundingForm c s (.vsub c d a b m) true 4 d m (fun f r e => roundTo f r false (numAdd down (A f e) (numNeg (B f e))))
    ∧ roundingForm c s (.vmul c d a b m) true 4 d m (fun f r e => roundTo f r false (numMul (A f e) (B f e)))
    ∧ roundingForm c s (.vfma c d a b m) true 5 d m (fun f r e => roundTo f r false (numAdd down (numMul (A f e) (B f e)) (D f e)))
    ∧ roundingForm c s (.vfnma c d a b m) true 5 d m
        (fun f r e => roundTo f r false (numAdd down (D f e) (numNeg (numMul (A f e) (B f e)))))
    ∧ roundingForm c s (.vfms c d a b m) true 5 d m
        (fun f r e => roundTo f r false (numAdd down (numMul (A f e) (B f e)) (numNeg (D f e))))
    ∧ mergingForm c s (.vmin c d a b m) true 0 [0, 11, 1, 2] 4 d m
        (fun code e => lesserOf (fmtOf code) (elemOf (V s a) (codeWidth code) e) (elemOf (V s b) (codeWidth code) e))
    ∧ mergingForm c s (.vmax c d a b m) true 0 [0, 11, 1, 2] 4 d m
        (fun code e => greaterOf (fmtOf code) (elemOf (V s a) (codeWidth code) e) (elemOf (V s b) (codeWidth code) e))
    ∧ roundingForm c s (.vrint c d a m) false 4 d m (fun f r e => match A f e with
        | .nan => f.nan.getD 0
        | .inf neg => f.inf.getD 0 + (if neg then 2 ^ (f.width - 1) else 0)
        | .fin neg k x =>
          let i := roundInt r (.fin neg k x)
          if i = 0 then (if neg then 2 ^ (f.width - 1) else 0) else roundTo f .rne false (numOfInt i))

/-- The rounding of an exact number into a float format (R57): of a number that is not negative RTZ and RDN give the neighbour of smaller magnitude,
RUP its successor unless the number is representable, RNE and RNA the nearer of the two, on a tie the one whose least significant bit is 0 and
the successor, and SR the successor where the fraction between them and the 16 random bits come to at least 1. Beyond the largest finite value,
in a format with infinities, the successor stands for the infinity. A negative number rounds as its magnitude does, RDN and RUP exchanged. -/
def Obligations.RoundingNeighbours : Prop :=
  ∀ f ∈ [fF32, fF64, fF16, fBF16, fE5M2, fFX96, fE4M3, fE2M1], ∀ (m : Nat) (e : Int) (mode : Rnd),
    let x : Sys2Proof.Num := .fin false m e
    let k (n : Nat) : Sys2Proof.Num := .fin false n 0
    let lo := roundTo f .rtz false x
    let hi := roundTo f mode false x
    let A := floatVal f lo
    let gap := if lo < f.top then numAdd false (floatVal f (lo + 1)) (numNeg A) else numAdd false A (numNeg (floatVal f (lo - 1)))
    let past := numAdd false x (numNeg A)
    (∀ r, mode = .sr r → r < 65536) → (f.inf = none → lo < f.top) →
    lo ≤ f.top ∧ numCmp A x ≤ 0 ∧ (lo < f.top → numCmp past gap < 0)
    ∧ (mode = .rtz ∨ mode = .rdn → hi = lo)
    ∧ (mode = .rup → hi = if numCmp A x < 0 then lo + 1 else lo)
    ∧ (mode = .rne → hi = if 0 < numCmp (numMul (k 2) past) gap ∨ (numCmp (numMul (k 2) past) gap = 0 ∧ lo % 2 = 1) then lo + 1 else lo)
    ∧ (mode = .rna → hi = if 0 ≤ numCmp (numMul (k 2) past) gap then lo + 1 else lo)
    ∧ (∀ r, mode = .sr r → hi
        = if 0 ≤ numCmp (numAdd false (numMul (k 65536) past) (numMul (k r) gap)) (numMul (k 65536) gap) then lo + 1 else lo)
    ∧ roundTo f mode false (.fin true m e) = 2 ^ (f.width - 1) + roundTo f (mirror mode) false x

/-- Conversions (R47, R51, R57, R60 to R65): the value of the bits of an element; a representable number converts to its own bits; overflow, infinities,
NaNs and zeros by the target and SAT; a number into an integer rounded and clamped, an integer into an integer wrapped or clamped, an
integer into a float as its exact value; and the scale and the elements of an MX block. -/
def Obligations.NumberConversions : Prop :=
  let floats : List (Nat × FloatFmt) := [(0, fF32), (1, fBF16), (2, fF16), (3, fE4M3), (4, fE5M2), (11, fF64)]
  let ints : List (Nat × Nat × Bool) := [(9, 8, true), (10, 4, true), (12, 32, true), (13, 16, true), (14, 32, false)]
  let all : List FloatFmt := [fF32, fF64, fF16, fBF16, fE4M3, fE5M2, fE2M1, fFX96]
  -- the value of an element
  (∀ f ∈ all, ∀ (neg : Bool) (x fr : Nat), x < 2 ^ f.exp → fr < 2 ^ f.frac →
    let mag := x * 2 ^ f.frac + fr
    let bits := (if neg then 2 ^ (f.width - 1) else 0) + mag
    let v := floatVal f bits
    (f.top < mag → v = if f.inf = some mag then .inf neg else .nan)
    ∧ (mag ≤ f.top → (∃ m e, v = .fin neg m e) ∧ numVal v = (if neg then -1 else 1)
        * (if x = 0 then (fr : ℚ) * 2 ^ (1 - (f.bias : Int) - f.frac) else (2 ^ f.frac + fr : ℚ) * 2 ^ ((x : Int) - f.bias - f.frac)))
    -- a representable number converts exactly
    ∧ (mag ≤ f.top → ∀ mode sat m e, 0 < m → numCmp (.fin neg m e) v = 0 → roundTo f mode sat (.fin neg m e) = bits))
  ∧ (∀ f ∈ all, ∀ (mode : Rnd) (sat neg : Bool) (m : Nat) (e : Int),
    let sign := if neg then 2 ^ (f.width - 1) else 0
    let hi := roundTo f mode false (.fin neg m e)
    roundTo f mode sat .nan = f.nan.getD 0 ∧ roundTo f mode sat (.fin neg 0 e) = sign
    ∧ (∀ i, f.inf = some i → roundTo f mode sat (.inf neg) = sign + i)
    ∧ (f = fE4M3 → roundTo f mode sat (.inf neg) = if sat then sign + 0x7E else 0x7F)
    ∧ roundTo f mode true (.fin neg m e) = (if hi % 2 ^ (f.width - 1) ≤ f.top then hi else sign + f.top)
    -- twice the largest value and more
    ∧ (0 ≤ numCmp (.fin false m e) (numAdd false (floatVal f f.top) (floatVal f f.top)) →
        roundTo f mode true (.fin neg m e) = sign + f.top
        ∧ (f = fE2M1 → hi = sign + f.top) ∧ (f = fE4M3 → hi = 0x7F)
        ∧ ∀ i, f.inf = some i → hi = match mode with
          | .rtz => sign + f.top
          | .rdn => if neg then sign + i else f.top
          | .rup => if neg then sign + f.top else i
          | _ => sign + i))
  -- the kinds of conversion
  ∧ (∀ p ∈ floats, ∀ mode sat x i, convert p.1 mode sat (.flt x) = roundTo p.2 mode sat x
      ∧ convert p.1 mode sat (.int i) = roundTo p.2 mode sat (.fin (decide (i < 0)) i.natAbs 0))
  ∧ (∀ p ∈ ints, ∀ mode sat (neg : Bool) (m : Nat) (e : Int) (i : Int),
    let w := p.2.1
    let low : Int := if p.2.2 then -2 ^ (w - 1) else 0
    let high : Int := if p.2.2 then 2 ^ (w - 1) - 1 else 2 ^ w - 1
    let bits (v : Int) : Nat := (v % ((2 ^ w : Nat) : Int)).toNat
    let clamp (v : Int) : Int := max low (min high v)
    convert p.1 mode sat (.flt .nan) = 0 ∧ convert p.1 mode sat (.flt (.inf neg)) = bits (if neg then low else high)
    ∧ convert p.1 mode sat (.flt (.fin neg m e)) = bits (clamp (roundInt mode (.fin neg m e)))
    ∧ convert p.1 mode sat (.int i) = bits (if sat then clamp i else i))
  -- rounding to an integer
  ∧ (∀ (mode : Rnd) (m : Nat) (e : Int), (∀ r, mode = .sr r → r < 65536) →
    let v : ℚ := numVal (.fin false m e)
    let lo := roundInt .rtz (.fin false m e)
    let hi := roundInt mode (.fin false m e)
    0 ≤ lo ∧ (lo : ℚ) ≤ v ∧ v < lo + 1 ∧ (mode = .rdn → hi = lo) ∧ (mode = .rup → hi = if (lo : ℚ) < v then lo + 1 else lo)
    ∧ (mode = .rne → hi = if (1 : ℚ) / 2 < v - lo ∨ (v - lo = 1 / 2 ∧ lo % 2 = 1) then lo + 1 else lo)
    ∧ (mode = .rna → hi = if (1 : ℚ) / 2 ≤ v - lo then lo + 1 else lo)
    ∧ (∀ r, mode = .sr r → hi = if 1 ≤ v - lo + (r : ℚ) / 65536 then lo + 1 else lo)
    ∧ roundInt mode (.fin true m e) = -roundInt (mirror mode) (.fin false m e))
  -- MX elements and blocks
  ∧ (∀ p ∈ [(5, fE4M3), (6, fE2M1)], ∀ (bits scale : Nat), srcElem p.1 bits scale
      = .flt (if scale = 255 then .nan else numMul (floatVal p.2 bits) (.fin false 1 ((scale : Int) - 127))))
  ∧ (∀ p ∈ [(5, fE4M3, 8), (6, fE2M1, 2)], ∀ xs : List Sys2Proof.Num,
    let b := mxBlock p.1 xs
    ((∃ x ∈ xs, ∀ neg m e, x ≠ .fin neg m e) → b.1 = 255 ∧ ∀ mode x, b.2 mode x = 0)
    ∧ ((∀ x ∈ xs, ∃ neg e, x = .fin neg 0 e) → b.1 = 0 ∧ ∀ mode neg e, b.2 mode (.fin neg 0 e) = if neg then 2 ^ (p.2.1.width - 1) else 0)
    ∧ ((∀ x ∈ xs, ∃ neg m e, x = .fin neg m e) → (∃ x ∈ xs, numIsZero x = false) → ∃ L : Int,
        let E := max (-127) (min 127 (L - p.2.2))
        (∀ x ∈ xs, |numVal x| < 2 ^ (L + 1)) ∧ (∃ x ∈ xs, (2 : ℚ) ^ L ≤ |numVal x|) ∧ (b.1 : Int) = E + 127
        ∧ ∀ mode neg m e, b.2 mode (.fin neg m e) = roundTo p.2.1 mode true (.fin neg m (e - E))))

/-- VEC1 (R144, R145): functions 0 to 5 are fixed functions of the source bits, taken in F32 and converted by RNE, with the results of
R145 for special sources; VDIV and VSQRT round the exact quotient and root once by RMODE, SR taken as RNE. 2^x below 2^−126 is a subnormal
or +0. -/
def Obligations.SpecialFunctions : Prop :=
  let special : List Nat := [0x00000000, 0x80000000, 0x7F800000, 0xFF800000, 0x7FC00000]
  special.map rcpF32 = [0x7F800000, 0xFF800000, 0x00000000, 0x80000000, 0x7FC00000]
  ∧ special.map rsqF32 = [0x7F800000, 0xFF800000, 0x00000000, 0x7FC00000, 0x7FC00000]
  ∧ special.map exp2F32 = [0x3F800000, 0x3F800000, 0x7F800000, 0x00000000, 0x7FC00000]
  ∧ special.map log2F32 = [0xFF800000, 0xFF800000, 0x7F800000, 0x7FC00000, 0x7FC00000]
  ∧ special.map sinpF32 = [0x00000000, 0x80000000, 0x7FC00000, 0x7FC00000, 0x7FC00000]
  ∧ special.map tanhF32 = [0x00000000, 0x80000000, 0x3F800000, 0xBF800000, 0x7FC00000]
  ∧ (∀ x, 0x80000001 ≤ x → x < 0xFF800000 → rsqF32 x = 0x7FC00000 ∧ log2F32 x = 0x7FC00000)
  ∧ (∀ x, 0 < x → x ≤ 0x00200000 → rcpF32 x = 0x7F800000 ∧ rcpF32 (0x80000000 + x) = 0xFF800000)
  ∧ (∀ n : Int, -149 ≤ n → n ≤ 127 → exp2F32 (roundTo fF32 .rne false (numOfInt n)) = roundTo fF32 .rne false (.fin false 1 n)
      ∧ log2F32 (roundTo fF32 .rne false (.fin false 1 n)) = roundTo fF32 .rne false (numOfInt n))
  ∧ (∀ x, 0xC2FC0001 ≤ x → x < 0xFF800000 → exp2F32 x < 0x00800000)
  ∧ (∀ x, 0x43000000 ≤ x → x < 0x7F800000 → exp2F32 x = 0x7F800000)
  ∧ (∀ n : Int, -2 ^ 24 ≤ n → n ≤ 2 ^ 24 → sinpF32 (roundTo fF32 .rne false (numOfInt n)) = if n < 0 then 0x80000000 else 0)
  ∧ (∀ (c : Ctl) (d a : Reg) (m : BitVec 3) (s : State),
      ∀ p ∈ [(Instr.vrcp c d a m, rcpF32), (.vrsq c d a m, rsqF32), (.vexp2 c d a m, exp2F32), (.vlog2 c d a m, log2F32), (.vsinp c d a m, sinpF32),
        (.vtanh c d a m, tanhF32)],
        mergingForm c s p.1 true 0 [0, 1, 2] 8 d m (fun code e => roundTo (fmtOf code) .rne false (floatVal fF32
          (p.2 (roundTo fF32 .rne false (floatVal (fmtOf code) (elemOf (V s a) (codeWidth code) e)))))))
  ∧ ∀ (c : Ctl) (d a b : Reg) (m : BitVec 3) (s : State),
      let r : Rnd := if isSr (rmode s) then .rne else rneMode s
      mergingForm c s (.vdiv c d a b m) true 0 [0, 11, 1, 2] 8 d m (fun code e => roundTo (fmtOf code) r false
        (numDiv 128 (floatVal (fmtOf code) (elemOf (V s a) (codeWidth code) e)) (floatVal (fmtOf code) (elemOf (V s b) (codeWidth code) e))))
      ∧ mergingForm c s (.vsqrt c d a m) true 0 [0, 11, 1, 2] 8 d m (fun code e => roundTo (fmtOf code) r false
          (numSqrt 128 (floatVal (fmtOf code) (elemOf (V s a) (codeWidth code) e))))

/-- The error bounds of R144, of the F32 results of functions 0 to 5 for sources that are finite and not zero: VRCP and VRSQ within 1 ulp of the exact
value, which ∞ stands for where 1/x exceeds the range; VEXP2 within 2 ulp; VLOG2 within 2 ulp, and within 2^−22 for a source between 0.5 and 2;
VSINP within 2^−22; VTANH within 2 ulp or 2^−24, the smaller of the two. The values of 2^x, log2 x, sin(π x) and tanh x are those of the model's own
fixed-point arithmetic, 256 digits behind the point or more; what the functions give within the bounds is free (log 6). -/
def Obligations.SpecialFunctionBounds : Prop :=
  ∀ (bits : Nat) (neg : Bool) (m : Nat) (e : Int), bits < 2 ^ 32 → floatVal fF32 bits = .fin neg m e → 0 < m →
    let x : Sys2Proof.Num := .fin neg m e
    let mag : ℚ := numVal (.fin false m e)
    let top : ℚ := numVal (floatVal fF32 fF32.top)
    let ulp (k : Int) : ℚ := 2 ^ (max k (-126) - 23)
    let val (f : Nat → Nat) : Sys2Proof.Num := floatVal fF32 (f bits)
    (1 ≤ top * mag → ∃ k : Int, 2 ^ k * mag ≤ 1 ∧ 1 < 2 ^ (k + 1) * mag ∧ (∃ n g, val rcpF32 = .fin neg n g)
        ∧ |numVal (val rcpF32) * numVal x - 1| ≤ ulp k * mag)
    ∧ (top * mag < 1 → rcpF32 bits = if neg then 0xFF800000 else 0x7F800000)
    ∧ (neg = false → ∃ k : Int, let v := numVal (val rsqF32)
        (2 ^ k) ^ 2 * mag ≤ 1 ∧ 1 < (2 ^ (k + 1)) ^ 2 * mag ∧ ulp k ≤ v ∧ (v - ulp k) ^ 2 * mag ≤ 1 ∧ 1 ≤ (v + ulp k) ^ 2 * mag)
    ∧ (-200 < numVal x → numVal x < 128 → nearTo (val exp2F32) (exp2Num neg m e) (ulps 2 (exp2Num neg m e)))
    ∧ (numVal x ≤ -200 → nearTo (val exp2F32) (.fin false 0 0) (.fin false 2 (-149)))
    ∧ (neg = false → (∀ k : Int, mag ≠ 2 ^ k) → nearTo (val log2F32) (log2Num m e)
        (if 1 / 2 ≤ mag ∧ mag ≤ 2 then .fin false 1 (-22) else ulps 2 (log2Num m e)))
    ∧ ((∀ k : Int, mag ≠ k) → nearTo (val sinpF32) (sinpNum neg m e) (.fin false 1 (-22)))
    ∧ nearTo (val tanhF32) (tanhNum neg m e) (ulps 2 (tanhNum neg m e))
    ∧ nearTo (val tanhF32) (tanhNum neg m e) (.fin false 1 (-24))

/-- VEC2 and VEC3 (R146, R147): exact integer arithmetic, signed but for N32, wrapped or clamped; logic on bits; shifts modulo the width. -/
def Obligations.IntegerVectors : Prop :=
  ∀ (c : Ctl) (d a b : Reg) (m : BitVec 3) (s : State),
    let ints : List Nat := [12, 13, 9, 14]
    let wide : List Nat := [0, 1, 2, 3, 4, 9, 11, 12, 13, 14]
    let val (code : Nat) (x : Nat) : Int := if code = 14 then (x : Int) else Int.bmod x (2 ^ codeWidth code)
    let wrap (code : Nat) (x : Int) : Nat := (x % ((2 ^ codeWidth code : Nat) : Int)).toNat
    let clamp (code : Nat) (x : Int) : Int :=
      if code = 14 then max 0 (min (2 ^ 32 - 1) x) else max (-2 ^ (codeWidth code - 1)) (min (2 ^ (codeWidth code - 1) - 1) x)
    let A (code e : Nat) : Nat := elemOf (V s a) (codeWidth code) e
    let B (code e : Nat) : Nat := elemOf (V s b) (codeWidth code) e
    let D (code e : Nat) : Nat := elemOf (V s d) (codeWidth code) e
    (∀ p ∈ [(Instr.viadd c d a b m, fun (_ : Nat) (x y : Int) => x + y), (.visub c d a b m, fun _ x y => x - y),
        (.vimul c d a b m, fun _ x y => x * y), (.vimulh c d a b m, fun code x y => x * y / ((2 ^ codeWidth code : Nat) : Int)),
        (.viadds c d a b m, fun code x y => clamp code (x + y)), (.visubs c d a b m, fun code x y => clamp code (x - y)),
        (.vimin c d a b m, fun _ x y => if x ≤ y then x else y), (.vimax c d a b m, fun _ x y => if x ≤ y then y else x)],
      mergingForm c s p.1 false 12 ints 2 d m (fun code e => wrap code (p.2 code (val code (A code e)) (val code (B code e)))))
    ∧ (∀ p ∈ [(Instr.vand c d a b m, fun (x y _z : Bool) => x && y), (.vor c d a b m, fun x y _ => x || y),
        (.vxor c d a b m, fun x y _ => x != y), (.vandn c d a b m, fun x y _ => x && !y),
        (.vbsl c d a b m, fun x y z => if z then x else y)],
      ∃ r : Nat → Nat → Nat, mergingForm c s p.1 false 12 wide 2 d m r
        ∧ ∀ code e k, code ∈ wide → k < codeWidth code → (r code e).testBit k = p.2 ((A code e).testBit k) ((B code e).testBit k)
            ((D code e).testBit k))
    ∧ mergingForm c s (.vsll c d a b m) false 12 ints 2 d m
        (fun code e => A code e * 2 ^ (B code e % codeWidth code) % 2 ^ codeWidth code)
    ∧ mergingForm c s (.vsrl c d a b m) false 12 ints 2 d m (fun code e => A code e / 2 ^ (B code e % codeWidth code))
    ∧ mergingForm c s (.vsra c d a b m) false 12 [12, 13, 9] 2 d m
        (fun code e => wrap code (val code (A code e) / ((2 ^ (B code e % codeWidth code) : Nat) : Int)))

/-- VEC4 and VMSK (R148, R158). -/
def Obligations.ComparesAndMasks : Prop :=
  (∀ (c : Ctl) (d m : BitVec 3) (a b : Reg) (s : State),
    let A (code e : Nat) : Sys2Proof.Num := floatVal (fmtOf code) (elemOf (V s a) (codeWidth code) e)
    let B (code e : Nat) : Sys2Proof.Num := floatVal (fmtOf code) (elemOf (V s b) (codeWidth code) e)
    let i (code : Nat) (r : Reg) (e : Nat) : Int :=
      if code = 14 then (elemOf (V s r) 32 e : Int) else Int.bmod (elemOf (V s r) 32 e) (2 ^ 32)
    let nan (code e : Nat) : Bool := numIsNan (A code e) || numIsNan (B code e)
    let int (code : Nat) : Bool := decide (code = 12 ∨ code = 14)
    compareForm c s (.vceq c d a b m) 0 [0, 11, 12, 14] d m (fun code e =>
      if int code then decide (i code a e = i code b e) else !nan code e && decide (numCmp (A code e) (B code e) = 0))
    ∧ compareForm c s (.vcne c d a b m) 0 [0, 11, 12, 14] d m (fun code e =>
        if int code then decide (i code a e ≠ i code b e) else nan code e || decide (numCmp (A code e) (B code e) ≠ 0))
    ∧ compareForm c s (.vclt c d a b m) 0 [0, 11, 12, 14] d m (fun code e =>
        if int code then decide (i code a e < i code b e) else !nan code e && decide (numCmp (A code e) (B code e) < 0))
    ∧ compareForm c s (.vcle c d a b m) 0 [0, 11, 12, 14] d m (fun code e =>
        if int code then decide (i code a e ≤ i code b e) else !nan code e && decide (numCmp (A code e) (B code e) ≤ 0))
    ∧ compareForm c s (.vcun c d a b m) 0 [0, 11] d m (fun code e => nan code e)
    ∧ compareForm c s (.vctst c d a b m) 12 [12, 14] d m (fun _ e => decide (elemOf (V s a) 32 e &&& elemOf (V s b) 32 e ≠ 0)))
  ∧ (∀ (c : Ctl) (d a b : BitVec 3) (r : Reg) (s : State),
      ∀ i ∈ [Instr.mand c d a b, .mor c d a b, .mxor c d a b, .mandn c d a b, .mfromx c d r, .mtox c r a, .mpopc c r a, .mffs c r a], oddPrefix c s i false)
  ∧ ∀ (c : Ctl) (d a b : BitVec 3) (r : Reg) (code : Nat) (s : State), runsUser s c → worksIn s 12 code →
      exec (.mand c d a b) s = .next (emit s [⟨2, true, .m d (M s a &&& M s b)⟩])
      ∧ exec (.mor c d a b) s = .next (emit s [⟨2, true, .m d (M s a ||| M s b)⟩])
      ∧ exec (.mxor c d a b) s = .next (emit s [⟨2, true, .m d (M s a ^^^ M s b)⟩])
      ∧ exec (.mandn c d a b) s = .next (emit s [⟨2, true, .m d (M s a &&& ~~~(M s b))⟩])
      ∧ exec (.mfromx c d r) s = .next (emit s [⟨2, true, .m d (X s r)⟩])
      ∧ exec (.mtox c r a) s = .next (emit s (xOut 2 true r (M s a)))
      ∧ exec (.mpopc c r a) s = .next (emit s (xOut 2 true r (BitVec.ofNat 64 ((upto 64).countP (fun k => (M s a).getLsbD k)))))
      ∧ ∃ v, trailRel (M s a) v ∧ exec (.mffs c r a) s = .next (emit s (xOut 2 true r v))

/-- VEC6, VSCL and VPRM (R152, R156, R157). -/
def Obligations.MovesAndPermutes : Prop :=
  ∀ (c : Ctl) (d a b : Reg) (k : BitVec 5) (m : BitVec 3) (s : State),
    let any : List Nat := [0, 1, 2, 3, 4, 5, 9, 11, 12, 13, 14]
    let A (code e : Nat) : Nat := elemOf (V s a) (codeWidth code) e
    let B (code e : Nat) : Nat := elemOf (V s b) (codeWidth code) e
    let below (i : Nat) : Nat := (upto i).countP (fun j => (M s m).getLsbD j)
    let count (code : Nat) : Nat := 2048 / codeWidth code
    let half (code : Nat) : Nat := 2 ^ (codeWidth code - 1)
    let neg (code e : Nat) : Nat := (2 ^ codeWidth code - A code e) % 2 ^ codeWidth code
    mergingForm c s (.vmov c d a m) false 12 any 2 d m A
    ∧ elementForm c s (.vsel c d a b m) false 12 any 2 d (fun code e =>
        some (if laneOn s m (codeWidth code) e then A code e else B code e))
    ∧ mergingForm c s (.vabs c d a m) false 0 [0, 11, 1, 2, 12, 13, 9] 2 d m (fun code e =>
        if code ∈ [12, 13, 9] then (if half code ≤ A code e then neg code e else A code e) else A code e % half code)
    ∧ mergingForm c s (.vneg c d a m) false 0 [0, 11, 1, 2, 12, 13, 9] 2 d m (fun code e =>
        if code ∈ [12, 13, 9] then neg code e else (A code e + half code) % 2 ^ codeWidth code)
    ∧ mergingForm c s (.vcpys c d a b m) false 0 [0, 11, 1, 2] 2 d m (fun code e =>
        A code e % half code + (if half code ≤ B code e then half code else 0))
    ∧ mergingForm c s (.vbcst c d a m) false 12 any 2 d m (fun _ _ => (X s a).toNat)
    ∧ mergingForm c s (.vbcsti c d k m) false 12 any 2 d m (fun code _ => (k.toInt % ((2 ^ codeWidth code : Nat) : Int)).toNat)
    ∧ oddPrefix c s (.vextr c d a b) false
    ∧ (∀ code, runsUser s c → worksIn s 12 code → exec (.vextr c d a b) s
        = .next (if code ∈ any then emit s (xOut 3 true d (BitVec.ofNat 64 (A code ((X s b).toNat % count code)))) else refusedAs s))
    ∧ elementForm c s (.vins c d a b) false 12 any 2 d (fun code e =>
        if e = (X s b).toNat % count code then some (X s a).toNat else none)
    ∧ mergingForm c s (.viota c d m) false 12 [12, 14, 13, 9] 2 d m (fun _ e => e)
    ∧ mergingForm c s (.vperm c d a b m) false 12 any 3 d m (fun code e => A code (B code e % count code))
    ∧ elementForm c s (.vcomp c d a m) false 12 [12, 0, 14] 3 d (fun code i =>
        some (match (upto 64).find? (fun j => (M s m).getLsbD j && decide (below j = i)) with
          | some j => A code j
          | none => 0))
    ∧ mergingForm c s (.vexpd c d a m) false 12 [12, 0, 14] 3 d m (fun code i => A code (below i))
    ∧ elementForm c s (.vcpos c d m) false 12 [12, 0, 14] 3 d (fun _ i => some (below i))
    ∧ mergingForm c s (.vsldn c d a b m) false 12 any 3 d m (fun code i =>
        if i + (X s b).toNat < count code then A code (i + (X s b).toNat) else 0)
    ∧ mergingForm c s (.vslup c d a b m) false 12 any 3 d m (fun code i =>
        if (X s b).toNat ≤ i then A code (i - (X s b).toNat) else 0)

/-- VEC7 (R153 to R155): the pairwise tree and the prefix in element order, a disabled element as the identity; the float nodes round by
RMODE with SR taken as RNE, or choose as VMIN and VMAX do; the integer forms are exact. -/
def Obligations.ReductionsAndScans : Prop :=
  ∀ (c : Ctl) (d a : Reg) (m : BitVec 3) (s : State),
    let floats : List Nat := [0, 11, 1, 2]
    let ints : List Nat := [12, 13, 9, 14]
    let r : Rnd := if isSr (rmode s) then .rne else rneMode s
    let down : Bool := decide ((rmode s).toNat % 8 = 2)
    let sum (code : Nat) (x y : Nat) : Nat :=
      roundTo (fmtOf code) r false (numAdd down (floatVal (fmtOf code) x) (floatVal (fmtOf code) y))
    let minus (code : Nat) : Nat := 2 ^ (codeWidth code - 1)
    let leaf (code ident e : Nat) : Nat := leafOf s a m (codeWidth code) ident e
    let top (code : Nat) : Nat := Nat.log2 (2048 / codeWidth code)
    let val (code e : Nat) : Int := if code = 14 then (elemOf (V s a) 32 e : Int) else Int.bmod (elemOf (V s a) (codeWidth code) e) (2 ^ codeWidth code)
    let low (code : Nat) : Int := if code = 14 then 0 else -2 ^ (codeWidth code - 1)
    let high (code : Nat) : Int := if code = 14 then 2 ^ 32 - 1 else 2 ^ (codeWidth code - 1) - 1
    let fold (code : Nat) (ident : Int) (g : Int → Int → Int) : Nat :=
      (((upto (2048 / codeWidth code)).foldl (fun v e => g v (if laneOn s m (codeWidth code) e then val code e else ident)) ident)
        % ((2 ^ 32 : Nat) : Int)).toNat
    reduceForm c s (.vfrsum c d a m) 0 floats d (fun code => treeAt (sum code) (leaf code (minus code)) (top code) 0)
    ∧ reduceForm c s (.vfrmax c d a m) 0 floats d (fun code =>
        treeAt (greaterOf (fmtOf code)) (leaf code (minus code + (fmtOf code).inf.getD 0)) (top code) 0)
    ∧ reduceForm c s (.vfrmin c d a m) 0 floats d (fun code =>
        treeAt (lesserOf (fmtOf code)) (leaf code ((fmtOf code).inf.getD 0)) (top code) 0)
    ∧ mergingForm c s (.vfscan c d a m) false 0 floats 8 d m (fun code e => prefixAt (sum code) (fun e =>
        if numIsNan (floatVal (fmtOf code) (leaf code (minus code) e)) then (fmtOf code).nan.getD 0 else leaf code (minus code) e) e)
    ∧ reduceForm c s (.virsum c d a m) 12 ints d (fun code => fold code 0 (fun x y => x + y))
    ∧ reduceForm c s (.virmax c d a m) 12 ints d (fun code => fold code (low code) (fun x y => if x ≤ y then y else x))
    ∧ reduceForm c s (.virmin c d a m) 12 ints d (fun code => fold code (high code) (fun x y => if x ≤ y then x else y))
    ∧ mergingForm c s (.viscan c d a m) false 12 ints 8 d m (fun code e =>
        prefixAt (fun x y => (x + y) % 2 ^ codeWidth code) (leaf code 0) e)

/-- VCVT (R149, R150): without a pending V-target format, or with operands that the formats do not admit, g not 0 or zp = 1 among them, ILLOP;
else part b of the conversion, element by element, each source element once; into an MX format, the scale bytes of the part's blocks as well. Where
the MX side is the wider one, its elements keep the scales of the blocks that they stand in (log 100). The value of an element is `convert`, and that
of an MX block `mxBlock`, which the statement NumberConversions pins to R61 to R65. -/
def Obligations.Conversions : Prop :=
  ∀ (c : Ctl) (d a part : Reg) (m : BitVec 3) (s : State), runsUser s c →
    ((∀ p, s.tile.th.pfx = some p → p.vec = false) → exec (.vcvt c d a part m) s = .next (refusedAs s))
    ∧ ∀ p, s.tile.th.pfx = some p → p.vec = true →
        let src := p.fa.toNat
        let dst := p.fb.toNat
        let n : Nat := if src = 11 ∨ dst = 11 then 32 else 64
        let ws := codeWidth src
        let wd := codeWidth dst
        let from_ : Nat := if ws ≤ wd then part.toNat * n else 0
        let to_ : Nat := if wd ≤ ws then part.toNat * n else 0
        let val (j : Nat) : Src := srcElem src (elemOf (V s a) ws (j + from_)) (elemOf (V s (a + 1)) 8 ((j + from_) / 32))
        let legal : Prop := p.g = 0 ∧ p.zp = false ∧ src ∉ [7, 8, 15] ∧ dst ∉ [7, 8, 15] ∧ part.toNat < 2048 / (n * min ws wd)
          ∧ (isMx src = true → a ≠ 31) ∧ (isMx dst = true → d ≠ 31 ∧ m = 0)
        let on (j : Nat) : Bool := laneOn s m wd (j + to_)
        let block (q : Nat) : Nat × (Rnd → Sys2Proof.Num → Nat) := mxBlock dst ((upto 32).map (fun j => srcNum (val (32 * q + j))))
        (¬legal → exec (.vcvt c d a part m) s = .next (refusedAs s))
        ∧ (legal → isMx dst = false → ∃ t, exec (.vcvt c d a part m) s = .next t
            ∧ vectorOut (seeded s ((upto n).countP on)) t 4 wd d (fun e =>
                if to_ ≤ e ∧ e < to_ + n ∧ on (e - to_) = true
                then some (convert dst (roundAt s ((upto (e - to_)).countP on)) (rsat s) (val (e - to_))) else none))
        ∧ (legal → isMx dst = true → ∃ mask bits scaleMask scales, exec (.vcvt c d a part m) s
              = .next (emit (seeded s n) [⟨4, true, .v d mask bits⟩, ⟨4, true, .v (d + 1) scaleMask scales⟩])
            ∧ writesElems wd mask bits (fun e => if to_ ≤ e ∧ e < to_ + n
                then some ((block ((e - to_) / 32)).2 (roundAt s (e - to_)) (srcNum (val (e - to_)))) else none)
            ∧ writesElems 8 scaleMask scales (fun k => if to_ / 32 ≤ k ∧ k < to_ / 32 + n / 32
                then some (block (k - to_ / 32)).1 else none))

/-! ## Matrix instructions (08) -/

/-- The copies into a latch, MZERO and matrix control (R163, R168 to R171, R173, R174, R179): the source as it stands at issue lands after
2 cycles; a row in SRAM that fails its checks raises them; MZERO takes the row mode of the pending M-target format, or of BF16 by BF16.
Which address TVAL takes where part of a row may not be accessed is the model's choice (log 36). -/
def Obligations.LatchesAndMatrixControl : Prop :=
  (∀ (c : Ctl) (l : BitVec 2) (r : BitVec 6) (q : BitVec 4) (src : Reg) (h p : BitVec 1) (s : State), runsUser s c →
    (rowFaults s src p 128 0 = [] → ∃ bits, sourceRow s src h p bits
      ∧ exec (.mshift c l src h p) s = .next (updIss (emit (sourceRead s src p 0) (rowStep s src p ++ [⟨2, true, .shift l.toNat bits⟩]))
          (fun i => { i with latches := i.latches ++ [l.toNat] }))
      ∧ exec (.mlatch c r l src h p) s
          = .next (updIss (emit (sourceRead s src p 0) (rowStep s src p ++ [⟨2, true, .latch (64 * l.toNat + r.toNat) bits⟩]))
              (fun i => { i with latches := i.latches ++ [l.toNat] }))
      ∧ exec (.mlside c q l src h p) s
          = .next (emit (sourceRead s src p 0) (rowStep s src p ++ [⟨2, true, .side (16 * l.toNat + q.toNat) bits⟩])))
    ∧ (rowFaults s src p 128 0 ≠ [] → ∀ i ∈ [Instr.mshift c l src h p, .mlatch c r l src h p, .mlside c q l src h p],
        faultsWith s i (rowFaults s src p 128 0)))
  ∧ ∀ (c : Ctl) (b : BitVec 1) (r : BitVec 6) (d a : Reg) (s : State), runsUser s c →
      let k := 64 * b.toNat + r.toNat
      exec (.mzero c b r) s = .next (match rowMode (mPfx s).fa.toNat (mPfx s).fb.toNat with
        | some mode => emit (updIss s (fun i => { i with rows := i.rows ++ [(k, mode)] })) [⟨8, true, .row k mode (List.replicate 64 0)⟩]
        | none => refusedAs s)
      ∧ exec (.msclrA c a) s = .next (emit s [⟨1, true, .msclr 0 (X s a)⟩])
      ∧ exec (.msclrB c a) s = .next (emit s [⟨1, true, .msclr 1 (X s a)⟩])
      ∧ exec (.mrds c d a) s = .next (emit s (xOut 2 true d (BitVec.ofNat 64 (match a.toNat with
          | 0 => s.tile.th.tag.toNat % 2 ^ 64
          | 1 => s.tile.th.tag.toNat / 2 ^ 64
          | 2 => s.tile.th.rowOk.toNat % 2 ^ 64
          | 3 => s.tile.th.rowOk.toNat / 2 ^ 64
          | _ => s.tile.th.latchOk.toNat))))

/-- MPUSH and MACC (R163, R168, R169, R172): every check, lowest cause to be taken by the bundle; without one, the row takes the mode at
issue and the exact sums land after 8 cycles, formed as R67 and R68 give them, rounded or wrapped, or added to the cells held then.
The address of a row that fails its checks is the model's choice (log 36), and so is TVAL[7] of an invalid latch (log 106). -/
def Obligations.MatrixBeats : Prop :=
  ∀ (c : Ctl) (b : BitVec 1) (r : BitVec 6) (l : BitVec 2) (src : Reg) (h sp : BitVec 1) (acc : Bool) (s : State), runsUser s c →
    s.tile.iss.causes = [] →
    let p := mPfx s
    let i : Instr := if acc then .macc c b r l src h sp else .mpush c b r l src h sp
    let k := 64 * b.toNat + r.toNat
    let scaled : Bool := isMx p.fa.toNat || isGroup p.fa.toNat
    let mode := (rowMode p.fa.toNat p.fb.toNat).getD false
    let refused : Prop := rowMode p.fa.toNat p.fb.toNat = none
      ∨ ((isGroup p.fa.toNat = true ∨ isGroup p.fb.toNat = true) ∧ p.g = 0)
      ∨ (acc = true ∧ s.tile.th.tag.getLsbD k ≠ mode) ∨ (scaled = true ∧ sp = 0 ∧ src = 31)
    let late : List (Nat × W64) := (if s.tile.th.latchOk.getLsbD l.toNat then [] else [(0x11, BitVec.ofNat 64 l.toNat)])
      ++ (if acc = true ∧ s.tile.th.rowOk.getLsbD k = false then [(0x11, BitVec.ofNat 64 (256 + 128 * b.toNat + r.toNat))] else [])
    let faults := rowFaults s src sp 128 (sideLen p) ++ late
    (refused → faultsWith s i ((0x01, slotBits s) :: faults))
    ∧ (¬refused → faults ≠ [] → faultsWith s i faults)
    ∧ (¬refused → faults = [] → ∃ bits, sourceRow s src h sp bits ∧
        let side := (upto (opK p.fa.toNat / groupLen p)).map (fun g => sideA s p src h sp g)
        let sums := (upto 64).map (fun n => beatSum s p bits side l.toNat n)
        exec i s = .next (emit (updIss (sourceRead s src sp (sideLen p)) (fun j => { j with rows := j.rows ++ [(k, mode)] }))
          (rowStep s src sp ++ [⟨8, true, if acc then .rowAdd k mode sums else .row k mode (sums.map (cellOf mode))⟩])))

/-- MDRAIN (R70, R163, R175, R176): an invalid row raises the MLATCH trap, an SRAM destination its checks; else the 64 cells as they stand
at issue are converted in ascending order by RMODE, saturating by the slot's bit or RMODE.SAT, and land after 6 cycles in their part of
the vector register or in the row's bytes; a NaN sets the row's status bit after 4, and CLR clears the cells after 8.
The address of a row that fails its checks is the model's choice (log 36). -/
def Obligations.MatrixDrains : Prop :=
  ∀ (c : Ctl) (b : BitVec 1) (r : BitVec 6) (d : Reg) (p h clr : BitVec 1) (fmt : BitVec 4) (sat : BitVec 1) (s : State),
    (Instr.mdrain c b r d p h clr fmt sat).wf = true → runsUser s c → s.tile.iss.causes = [] →
    let k := 64 * b.toNat + r.toNat
    let w := codeWidth fmt.toNat
    let faults := rowFaults s d p (8 * w) 0
      ++ (if s.tile.th.rowOk.getLsbD k then [] else [(0x11, BitVec.ofNat 64 (256 + 128 * b.toNat + r.toNat))])
    let cell (n : Nat) : BitVec 96 := cellGet s.tile.th.acc (64 * k + n)
    let val (n : Nat) : Src := if s.tile.th.cmode.getLsbD k then .int (cell n).toInt else .flt (floatVal fFX96 (cell n).toNat)
    let y (n : Nat) : Nat := convert fmt.toNat (roundAt s n) (sat = 1 || rsat s) (val n)
    let nan : Bool := (upto 64).any (fun n => numIsNan (srcNum (val n)) || (match codeFloat fmt.toNat with
      | some f => numIsNan (floatVal f (y n))
      | none => false))
    let rest : List Flight := (if nan then [⟨4, true, .mst k⟩] else []) ++ (if clr = 1 then [⟨8, true, .rowClear k⟩] else [])
    (faults ≠ [] → faultsWith s (.mdrain c b r d p h clr fmt sat) faults)
    ∧ (faults = [] → p = 0 → ∃ mask bits, exec (.mdrain c b r d p h clr fmt sat) s
          = .next (emit (seeded s 64) (⟨6, true, .v d mask bits⟩ :: rest))
        ∧ writesElems w mask bits (fun e => if 64 * h.toNat ≤ e ∧ e < 64 * h.toNat + 64 then some (y (e - 64 * h.toNat)) else none))
    ∧ (faults = [] → p = 1 → ∃ bs : List Byte, bs.length = 8 * w
        ∧ (∀ n, n < 64 → elemOf (BitVec.ofNat 2048 (leNat bs)) w n = y n % 2 ^ w)
        ∧ exec (.mdrain c b r d p h clr fmt sat) s = .next (emit (seeded s 64)
            (⟨6, true, .bytes (bs.zipIdx.map (fun q => (rowByte s d (8 * w) q.2, q.1)))⟩ :: (rowStep s d p ++ rest))))

/-- Beat sums, side data, cells and the landings of matrix results (R50 to R52, R54, R67, R68, R70, R165, R171 to R179). A column's exact sum runs over the
K products, each of the two elements less their zero points and of the scales of their group: NaN where a product is one or infinities of both
signs meet, else an infinity, else the finite sum, whose zero is −0 only if every product is −0. A zero product of integer codes takes the sign of
its scales (log 104). What lands changes the latch line, the latch, the side line, the row, the status bit, the bytes or the control word that it
names and nothing else. -/
def Obligations.MatrixSumsAndLandings : Prop :=
  -- the sum of a column
  (∀ (s : State) (p : Pfx) (a : BitVec 1024) (sa : List Nat) (l n : Nat),
    let fa := p.fa.toNat
    let fb := p.fb.toNat
    let grouped : Bool := isGroup fa || isGroup fb
    (rowMode fa fb).isSome = true → (grouped = true → p.g ≠ 0) → n < 64 →
    let w : Nat := if fa = 7 then 8 else if fa = 8 then 4 else codeWidth fa
    let g : Nat := if grouped = true then 32 * 2 ^ (p.g.toNat - 1) else 32
    let whole : Bool := [7, 8, 9, 10].contains fa
    let wordA (k : Nat) : Nat := sa.getD (k / g) 0
    let wordB (k : Nat) : Nat := elemOf (cellGet s.tile.th.side (16 * l + 2 * (k / g) + n / 32)) 32 (n % 32)
    let scale (code word : Nat) : Sys2Proof.Num :=
      if code = 5 ∨ code = 6 then (if word % 256 = 255 then .nan else .fin false 1 ((word % 256 : Nat) - 127 : Int))
      else if code = 7 ∨ code = 8 then floatVal fF16 (word % 65536) else .fin false 1 0
    let zero (code word : Nat) : Int := if p.zp = true ∧ (code = 7 ∨ code = 8) then Int.bmod (word / 65536) (2 ^ 8) else 0
    let bitsA (k : Nat) : Nat := elemOf a w k
    let bitsB (k : Nat) : Nat := elemOf (cellGet s.tile.th.latch (64 * l + k / (16 / w))) w (k % (16 / w) * 64 + n)
    let prod (k : Nat) : Sys2Proof.Num :=
      if whole then numOfInt ((Int.bmod (bitsA k) (2 ^ w) - zero fa (wordA k)) * (Int.bmod (bitsB k) (2 ^ w) - zero fb (wordB k)))
      else numMul (floatVal (fmtOf fa) (bitsA k)) (floatVal (fmtOf fb) (bitsB k))
    let term (k : Nat) : Sys2Proof.Num := numMul (numMul (scale fa (wordA k)) (scale fb (wordB k))) (prod k)
    let K : Nat := 1024 / w
    let terms := (upto K).map term
    let S := beatSum s p a sa l n
    (.nan ∈ terms → S = .nan)
    ∧ (.inf false ∈ terms → .inf true ∈ terms → S = .nan)
    ∧ (∀ neg, .nan ∉ terms → .inf neg ∈ terms → .inf (!neg) ∉ terms → S = .inf neg)
    ∧ (.nan ∉ terms → (∀ neg, .inf neg ∉ terms) → (∃ neg m e, S = .fin neg m e) ∧ numVal S = (terms.map numVal).sum
        ∧ (numVal S = 0 → ((∃ e, S = .fin true 0 e) ↔ ∀ x ∈ terms, ∃ e, x = .fin true 0 e))))
  -- the side word of a group of the A row
  ∧ (∀ (s : State) (p : Pfx) (src : Reg) (h sp : BitVec 1) (i : Nat),
    let fa := p.fa.toNat
    let xa := (X s src).toNat
    let xb := (X s (src + 1)).toNat
    let idx := xa / 2 ^ 32 % 2 ^ 16
    let side := xa % 2 ^ 21 + idx / 64 * (xb / 2 ^ 16 % 2 ^ 16) + idx % 64 * (xb % 2 ^ 16) + xb / 2 ^ 40 % 2 ^ 16
    let G : Nat := 32 * 2 ^ (p.g.toNat - 1)
    (fa = 5 ∨ fa = 6 → sideA s p src h sp i = if sp = 0
        then elemOf (V s (src + 1)) 8 ((h.toNat * (1024 / codeWidth fa) + i * groupLen p) / 32) else readLe (seen s) (side + i) 1)
    ∧ (fa = 7 ∨ fa = 8 → p.g ≠ 0 → sideA s p src h sp i = if sp = 0
        then elemOf (V s (src + 1)) 32 ((h.toNat * (if fa = 7 then 128 else 256) + i * G) / G) else readLe (seen s) (side + 4 * i) 4))
  -- the cells
  ∧ (∀ x, cellOf false x = BitVec.ofNat 96 (roundTo fFX96 .rne false x))
  ∧ (∀ neg m, cellOf true (.fin neg m 0) = BitVec.ofInt 96 (if neg then -(m : Int) else m))
  ∧ (∀ c : BitVec 96, cellNum false c = floatVal fFX96 c.toNat ∧ cellNum true c = numOfInt c.toInt)
  -- landings in latches and side data
  ∧ (∀ (th : Thread) (k j : Nat) (v : BitVec 1024),
      cellGet (landThread th (.latch k v)).latch j = (if j = k then v else cellGet th.latch j)
      ∧ cellGet (landThread th (.side k v)).side j = (if j = k then v else cellGet th.side j))
  ∧ (∀ (th : Thread) (l j : Nat) (v : BitVec 1024), cellGet (landThread th (.shift l v)).latch j
      = if j / 64 = l then (if j % 64 = 63 then v else cellGet th.latch (j + 1)) else cellGet th.latch j)
  -- landings in rows
  ∧ (∀ (th : Thread) (k j n : Nat) (int : Bool) (cells : List (BitVec 96)) (sums : List Sys2Proof.Num), k < 128 → n < 64 → cells.length = 64 → sums.length = 64 →
      let u := landThread th (.row k int cells)
      let w := landThread th (.rowAdd k int sums)
      let z := landThread th (.rowClear k)
      cellGet u.acc (64 * j + n) = (if j = k then cells.getD n 0 else cellGet th.acc (64 * j + n))
      ∧ cellGet w.acc (64 * j + n) = (if j = k then cellOf int (numAdd false (cellNum int (cellGet th.acc (64 * k + n))) (sums.getD n .nan))
          else cellGet th.acc (64 * j + n))
      ∧ cellGet z.acc (64 * j + n) = (if j = k then 0 else cellGet th.acc (64 * j + n))
      ∧ (∀ i, i < 128 → u.cmode.getLsbD i = (if i = k then int else th.cmode.getLsbD i) ∧ w.cmode.getLsbD i = (if i = k then int else th.cmode.getLsbD i)
          ∧ z.cmode.getLsbD i = th.cmode.getLsbD i))
  -- the status bits of drains
  ∧ (∀ (th : Thread) (k b : Nat) (mask : W64) (j : Nat), k < 128 → j < 64 →
      (cellGet (landThread th (.mst k)).cw (0x040 + b)).getLsbD j = ((cellGet th.cw (0x040 + b)).getLsbD j || decide (k = 64 * b + j))
      ∧ (cellGet (landThread th (.msclr b mask)).cw (0x040 + b)).getLsbD j = ((cellGet th.cw (0x040 + b)).getLsbD j && !mask.getLsbD j))
  ∧ (∀ (th : Thread) (k l b : Nat) (v : BitVec 1024) (int : Bool) (cells : List (BitVec 96)) (sums : List Sys2Proof.Num) (mask : W64),
      ∀ r ∈ [Res.latch k v, .shift l v, .side k v, .row k int cells, .rowAdd k int sums, .rowClear k, .mst k, .msclr b mask],
        let u := landThread th r
        u.x = th.x ∧ u.p = th.p ∧ u.v = th.v ∧ u.m = th.m ∧ u.lt = th.lt ∧ u.tag = th.tag ∧ u.rowOk = th.rowOk ∧ u.latchOk = th.latchOk
        ∧ (∀ n, n ≠ 0x040 + b → n ≠ 0x040 + k / 64 → cellGet u.cw n = cellGet th.cw n))
  -- landings outside the context: the bytes of a drain, a control word, NANDRAIN
  ∧ (∀ (t : Tile) (bs : List (Nat × Byte)) (now a : Nat), isOpt t = false →
      let u := landTile t (.bytes bs) now
      cellGet u.mem a = (lastStored bs a).getD (cellGet t.mem a) ∧ u.th = t.th ∧ ∀ n, cwGet u n = cwGet t n)
  ∧ (∀ (t : Tile) (n k : Nat) (v : W64) (now : Nat), ¬(0x050 ≤ n ∧ n ≤ 0x053) → n ≠ 0x120 →
      let u := landTile t (.cw n v) now
      cwGet u k = (if k = n then cwWritten (cwGet t n) n v else cwGet t k) ∧ u.mem = t.mem ∧ u.th.x = t.th.x ∧ u.th.v = t.th.v ∧ u.th.acc = t.th.acc)
  ∧ ∀ (t : Tile) (k now : Nat),
      let u := landTile t (.mst k) now
      u.th = landThread t.th (.mst k)
      ∧ ((cwGet t 0).getLsbD 3 = true → t.asyncs.all (fun x => decide (x.1 ≠ 0x17)) = true → u.asyncs = t.asyncs ++ [(0x17, BitVec.ofNat 64 k)])
      ∧ ((cwGet t 0).getLsbD 3 = false → u.asyncs = t.asyncs)

/-- Landings, the dispatcher's choice and the rollback (R34, R268 to R270, R272, R305, R306). A result lands at the start of the issue cycle in which its
count ends, in issue order. A tile without a task takes the first entry of its ready queue, which stands by priority and age, else the newest
record of its deque, else its idle task, else it has finished; a fresh task's registers are those of its record. A rollback, here of a tile whose
engines hold nothing, restores the saved lines and the frame, sends an anti-message for each send it undoes, discards the queued actions and
returns the consumed messages. -/
def Obligations.LandingsDispatchAndRollback : Prop :=
  -- the start of an issue cycle
  (∀ (t : Tile) (now : Nat), t.began = true → beginCycle t now = t)
  ∧ (∀ (t : Tile) (now : Nat), t.began = false → t.th.late = [] → (∀ f ∈ t.th.flights, ∀ bs, f.res ≠ .bytes bs) →
      let left := (t.th.flights.filter (fun f => decide (1 < f.left))).map (fun f => { f with left := f.left - 1 })
      let due := t.th.flights.filter (fun f => decide (f.left ≤ 1))
      beginCycle t now = due.foldl (fun u f => landTile u f.res now) { t with began := true, th := { t.th with flights := left } })
  -- the ready queue
  ∧ (∀ (q : List Ready) (r : Ready), ∃ a b, q = a ++ b ∧ insertReady q r = a ++ r :: b ∧ (∀ x ∈ a, readyPri r ≤ readyPri x)
      ∧ ∀ x y, b = x :: y → readyPri x < readyPri r)
  -- a tile that has a task or has finished is left as it is
  ∧ (∀ t : Tile, (t.disp.running = true ∨ t.disp.finished = true) → dispatchTile t = t)
  ∧ (∀ (t : Tile) (r : TaskRec) (c : Nat) (q : List Ready) (no pri : Nat) (f : Frame) (th : Thread) (k : Nat) (ds : List TaskRec),
      t.disp.running = false → t.disp.finished = false →
      let u := dispatchTile t
      let fresh : Prop := u.disp.running = true ∧ u.sup = false ∧ u.th.pc = r.pc ∧ u.th.uid = t.disp.nextUid ∧ u.disp.nextUid = t.disp.nextUid + 1
        ∧ (∀ n, xGet u.th n = if n = 2 then BitVec.ofNat 64 (floorOf t - u.disp.slot * t.disp.stack)
            else if 10 ≤ n.toNat ∧ n.toNat < 15 then r.args.getD (n.toNat - 10) 0 else 0)
        ∧ (∀ n, 0 < n → n < 128 → pGet u.th n = false) ∧ u.th.pend = 0 ∧ u.th.flights = [] ∧ u.th.latchOk = 0 ∧ u.th.rowOk = 0 ∧ u.th.pfx = none
        ∧ cwGet u 0x004 = r.wid ∧ cwGet u 0x000 = cwGet t 0x000 &&& 0x300 ∧ cwGet u 0x002 = cwGet t 0x007 + 1 ∧ cwGet u 0x070 = 0
        ∧ cwGet u 0x111 = 0xFFFF ∧ bitsOf (cwGet u 0x006) 0 4 = r.pri % 16 ∧ (cwGet u 0x006).getLsbD 4 = r.np ∧ (cwGet u 0x006).getLsbD 5 = false
        ∧ u.mem = t.mem
      (t.disp.ready = .fresh r c :: q → fresh ∧ u.disp.ready = q ∧ u.disp.deque = t.disp.deque)
      ∧ (t.disp.ready = .parked no pri c :: q → t.disp.frames.find? (fun g => g.no = no) = some f →
          u.disp.running = true ∧ u.disp.ready = q ∧ u.disp.frames = t.disp.frames.filter (fun g => g.no ≠ no) ∧ u.disp.slot = f.slot
          ∧ u.th.x = f.th.x ∧ u.th.p = f.th.p ∧ u.th.pc = f.th.pc ∧ u.th.lt = f.th.lt ∧ u.th.pend = f.th.pend ∧ u.th.uid = f.th.uid ∧ u.th.v = t.th.v
          ∧ u.th.m = t.th.m ∧ u.th.acc = t.th.acc ∧ u.th.latch = t.th.latch ∧ u.mem = t.mem)
      ∧ (t.disp.ready = .saved pri c :: q → t.disp.csa = some (th, k) →
          u.disp.running = true ∧ u.disp.ready = q ∧ u.disp.csa = none ∧ u.disp.slot = k ∧ u.th = th ∧ u.mem = t.mem)
      ∧ (t.disp.ready = [] → t.disp.deque = ds ++ [r] → fresh ∧ u.disp.deque = ds)
      ∧ (t.disp.ready = [] → t.disp.deque = [] → t.disp.idlePc ≠ 0 → t.disp.idled = false → u.disp.running = true ∧ u.th.pc = t.disp.idlePc
          ∧ cwGet u 0x004 = t.disp.initial.wid ∧ (cwGet u 0x006).getLsbD 5 = true)
      ∧ (t.disp.ready = [] → t.disp.deque = [] → (t.disp.idlePc = 0 ∨ t.disp.idled = true) → t.disp.frames = [] → t.disp.csa = none →
          u.disp.finished = true ∧ u.disp.running = false))
  -- the rollback
  ∧ ∀ (s : State) (g : Segment) (anti : Bool), rollbackTarget s.tile = some (g, anti) → s.tile.eng.ops = [] → s.tile.eng.sends = [] → s.tile.eng.posted = [] →
      s.tile.eng.reqs = [] → s.tile.eng.waits = [] → s.tile.th.late = [] → s.tile.mem.wf = true →
      (∀ x ∈ s.tile.eng.hamper, x.neg = false ∧ x.consumed.isSome = true) →
      let t := (doRollback s).tile
      let undone := s.tile.vt.log.filter (fun e => decide (g.no ≤ e.seg))
      let dropped := s.tile.vt.commits.filter (fun c => decide (g.no ≤ c.seg) && !c.released)
      let lines := ((s.tile.vt.segs.filter (fun h => decide (g.no ≤ h.no))).map (·.lines)).flatten
      (∀ a, cellGet t.mem a = (lastStored (lines.map (fun p => atAddr (64 * p.1) (leBytes p.2.toNat 64))).flatten a).getD (cellGet s.tile.mem a))
      ∧ t.th.pc = g.mark.pc ∧ t.th.flights = [] ∧ t.th.squash = 0 ∧ t.th.pfx = none ∧ t.th.latchOk = 0 ∧ t.th.rowOk = 0 ∧ t.th.acc = [] ∧ t.th.latch = []
      ∧ (∀ n, 0 < n → n < 32 → g.mark.th.pend.getLsbD n = false → cellGet t.th.x n = cellGet g.mark.th.x n)
      ∧ (∀ n, 0 < n → n < 32 → g.mark.th.pend.getLsbD n = true → (∀ c ∈ dropped, c.op.tok.toNat ≠ n) →
          cellGet t.th.x n = cellGet s.tile.th.x n ∧ t.th.pend.getLsbD n = s.tile.th.pend.getLsbD n)
      ∧ (∀ n, n < 32 → g.mark.th.pend.getLsbD n = false → t.th.pend.getLsbD n = false)
      ∧ t.th.p = g.mark.th.p ∧ t.th.lt = s.tile.th.lt
      ∧ (∀ n, n < 32 → cellGet t.th.v n = if (cellGet g.mark.th.cw 0x008).getLsbD n then cellGet g.mark.th.v n else cellGet s.tile.th.v n)
      ∧ t.th.m = (if (cellGet g.mark.th.cw 0x008).getLsbD 32 then g.mark.th.m else s.tile.th.m)
      ∧ (∀ n ∈ [0x001, 0x002, 0x020, 0x021, 0x008, 0x070, 0x071, 0x111], cwGet t n = cellGet g.mark.th.cw n)
      ∧ (∀ b, b < 64 → (cwGet t 0).getLsbD b = ((cellGet g.mark.th.cw 0).getLsbD b || decide (b = 1)))
      ∧ (∀ n ∈ [0x010, 0x031, 0x032, 0x050, 0x051, 0x052, 0x053], cwGet t n = cwGet s.tile n)
      ∧ cwGet t 0x030 = g.mark.lvt ∧ t.vt.key = g.mark.key ∧ t.vt.six = g.mark.six
      ∧ t.vt.segs = s.tile.vt.segs.filter (fun h => decide (h.no < g.no)) ∧ t.vt.log = s.tile.vt.log.filter (fun e => decide (e.seg < g.no))
      ∧ t.vt.commits = s.tile.vt.commits.filter (fun c => !dropped.contains c) ∧ t.vt.due = []
      ∧ bitsOf (cwGet t 0x034) 0 32 = min 0xFFFFFFFF (bitsOf (cwGet s.tile 0x034) 0 32 + undone.length)
      ∧ bitsOf (cwGet t 0x033) 0 32 = min 0xFFFFFFFF (bitsOf (cwGet s.tile 0x033) 0 32 + 1)
      ∧ bitsOf (cwGet t 0x033) 32 32 = min 0xFFFFFFFF (bitsOf (cwGet s.tile 0x033) 32 32 + (if anti then 1 else 0))
      ∧ t.eng.hamper = s.tile.eng.hamper.map (fun x => match x.consumed with
        | some k => if g.no ≤ k then { x with consumed := none } else x
        | none => x)

/-! ## Messages, quarry requests, tasks, virtual time and benches (09 to 14) -/

/-- The message forms (R126, R185, R201, R203 to R208, R295, R296): checks, range entries and what the engine receives with the group, mask,
LVT and send index of the moment; TESTT and WAITANY read which registers are pending; ENVR reads a doubleword of the envelope whose
generation the handle names. -/
def Obligations.MessageForms : Prop :=
  ∀ (c : Ctl) (t d a b : Reg) (l : BitVec 5) (s : State),
    let e := LT s l.toNat
    (∀ p ∈ [(Instr.send c t a b l, false), (.sendR c t a b l, true)],
      let causes := layoutFault s l.toNat false
        ++ (if isOpt s.tile = true ∧ (p.2 = true ∨ (cwGet s.tile 0x022).toNat % 2 ^ 14 < ltSize e) then [(0x18, BitVec.ofNat 64 (ltSize e))] else [])
      if isOpt s.tile = true ∧ admissible s.tile (X s b) = false
      then engineForm c s p.1 causes [] (engOp s .backSend t (X s a) (X s b) 0 [e])
      else engineForm c s p.1 causes [(e, false)] (engOp s (.send p.2) t (X s a) (X s b) 0 [e]))
    ∧ engineForm c s (.recv c t a l) (layoutFault s l.toNat true) [(e, true)] (engOp s .recv t (X s a) 0 0 [e])
    ∧ engineForm c s (.probe c d a) [] [] (engOp s .probe d (X s a) 0 0 [])
    ∧ (a ≠ 0 → engineForm c s (.cancel c a) [] [] (engOp s (.cancel a) 0 0 0 0 []))
    ∧ (runsUser s c → a = 0 → exec (.cancel c a) s = .next (refusedAs s))
    ∧ (runsUser s c →
        exec (.testt c d a) s = .next (emit s (xOut 2 false d (if isPend s.tile.th a.toNat then 1 else 0)))
        ∧ exec (.waitany c d a) s = .next (emit s (xOut 1 false d (BitVec.ofNat 64
            (((upto 32).find? (fun n => decide (n ≠ 0) && (X s a).getLsbD n && !isPend s.tile.th n)).getD 0))))
        ∧ exec (.envr c d a b) s = .next (emit s (xOut 2 false d (
            let slot := (X s a).toNat % 256
            let gen := (X s a).toNat / 256 % 256
            if gen ≠ 0 ∧ (cellGet s.tile.eng.envGen slot).toNat = gen
            then BitVec.ofNat 64 ((cellGet s.tile.eng.env slot).toNat / 2 ^ (64 * ((X s b).toNat % 8)) % 2 ^ 64) else BitVec.allOnes 64))))
    ∧ ∀ k tok x y z lts, engOp s k tok x y z lts =
        { kind := k, word := s.tile.iss.words.getD s.tile.iss.slot 0, uid := s.tile.th.uid, tok := tok, a := x, b := y, c := z, lts := lts, rng := [],
          grp := (cwGet s.tile 0x020).setWidth 16, mask := (cwGet s.tile 0x021).setWidth 32, lvt := cwGet s.tile 0x030, six := s.tile.vt.six,
          seg := curSeg s.tile, cyc := s.cyc }

/-- The QREQ forms (R226, R228 to R233, R310): every check of the layout entries and of the address operand at issue, and the request that
the quarry engine receives. -/
def Obligations.QuarryForms : Prop :=
  ∀ (c : Ctl) (t a b : Reg) (l : BitVec 3) (s : State),
    let e := LT s l.toNat
    let x := LT s (l.toNat + 8)
    let xa := X s a
    let xb := X s b
    let xc := X s (b + 1)
    let q := xa.toNat % 2 ^ 48
    let late := xlateFault false xa false ++ quarryFaults s
    let shape : List (Nat × W64) := if ltTiles e = 1 ∧ ltEsize e ≤ 3 then [] else [(0x08, BitVec.ofNat 64 l.toNat)]
    let count (e : BitVec 128) : Nat := ltTiles e * ltRows e * ltElems e
    let indexed (dest : Bool) : List (Nat × W64) := layoutFault s l.toNat dest ++ layoutFault s (l.toNat + 8) false
      ++ (if ltEsize e ≤ 3 then [] else [(0x08, BitVec.ofNat 64 l.toNat)])
      ++ (if ltEsize x = 2 ∧ count x = count e then [] else [(0x08, BitVec.ofNat 64 (l.toNat + 8))]) ++ rangeFault q 0 (ltUnit e) xa ++ late
    let tensor (dest : Bool) : List (Nat × W64) := layoutFault s l.toNat dest ++ shape ++ rangeFault q 0 (ltUnit e) xa
      ++ ((segments e q xb xc).map (fun g => rangeFault g.2.1 g.2.2 1 xa)).flatten ++ late
    let aop := xa.toNat / 2 ^ 56 % 16
    let n := if xa.getLsbD 55 then 8 else 4
    engineForm c s (.qget c t a l) (layoutFault s l.toNat true ++ rangeFault q (ltSize e) 1 xa ++ late) [(e, true)] (engOp s .qget t xa 0 0 [e])
    ∧ engineForm c s (.qput c t a l) (layoutFault s l.toNat false ++ rangeFault q (ltSize e) 1 xa ++ late ++ payloadFault s (ltSize e))
        [(e, false)] (engOp s .qput t xa 0 0 [e])
    ∧ engineForm c s (.qgett c t a b l) (tensor true) [(e, true)] (engOp s .qgett t xa xb xc [e])
    ∧ engineForm c s (.qputt c t a b l) (tensor false ++ payloadFault s (ltSize e)) [(e, false)] (engOp s .qputt t xa xb xc [e])
    ∧ engineForm c s (.qatom c t a b l) (layoutFault s l.toNat true
          ++ (if isOpt s.tile = true ∧ ltEmpty e = false ∧ ltNj e = false then [(0x08, BitVec.ofNat 64 l.toNat)] else [])
          ++ rangeFault q n n xa ++ xlateFault true xa (decide (9 < aop ∨ (aop = 9 ∧ n = 8) ∨ (aop = 8 ∧ b = 31))) ++ quarryFaults s)
        [(e, true)] (engOp s .qatom t xa xb (if aop = 8 then xc else 0) [e])
    ∧ engineForm c s (.qgath c t a l) (indexed true) [(x, false), (e, true)] (engOp s .qgath t xa 0 0 [e, x])
    ∧ engineForm c s (.qscat c t a l) (indexed false ++ payloadFault s (ltSize e + ltSize x)) [(x, false), (e, false)]
        (engOp s .qscat t xa 0 0 [e, x])
    ∧ engineForm c s (.qfill c t a b) (rangeFault q xb.toNat 1 xa ++ late) [] (engOp s .qfill t xa xb xc [])
    ∧ engineForm c s (.qcopy c t a b) (rangeFault q xc.toNat 1 xa ++ rangeFault (xb.toNat % 2 ^ 48) xc.toNat 1 xb
          ++ xlateFault false xa (decide (xb.toNat / 2 ^ 48 ≠ 0)) ++ quarryFaults s) [] (engOp s .qcopy t xa xb xc [])
    ∧ engineForm c s (.fenceQ c t) [] [] (engOp s .fenceQ t 0 0 0 [])

/-- The fabric forms (R250 to R256), of which SENDT, MSEND and HALO raise ILLOP in an optimistic partition, and the bench forms (R349 to
R352). WAITMB waits before it issues and then changes nothing. Which of several entries of a HALO TVAL names is the model's choice (log 109). -/
def Obligations.FabricAndBenchForms : Prop :=
  ∀ (c : Ctl) (t d a b : Reg) (l : BitVec 3) (k : BitVec 2) (s : State),
    let e := LT s l.toNat
    let src (n : Nat) : Nat := 4 * k.toNat + n
    let dirs := (upto 4).filter (fun n => (X s a).getLsbD n)
    let landing (n : Nat) : Bool := ltShapeOk (LT s n) && !ltRo (LT s n) && ltApart (LT s n)
    (isOpt s.tile = false →
      engineForm c s (.sendt c t a b l) (layoutFault s l.toNat false ++ (if 192 < ltSize e then [(0x18, BitVec.ofNat 64 (ltSize e))] else []))
        [(e, false)] (engOp s .sendt t (X s a) (X s b) 0 [e])
      ∧ engineForm c s (.msend c t a l) (layoutFault s l.toNat false
            ++ (if (cwGet s.tile 0x022).toNat % 2 ^ 14 < ltSize e then [(0x18, BitVec.ofNat 64 (ltSize e))] else []))
          [(e, false)] (engOp s .msend t (X s a) 0 0 [e])
      ∧ engineForm c s (.halo c t a k) ((dirs.map (fun n => layoutFault s (src n) false
              ++ (if landing (16 + src n) then [] else [(0x08, BitVec.ofNat 64 (16 + src n))])
              ++ (if ltSize (LT s (src n)) = ltSize (LT s (16 + src n)) then [] else [(0x08, BitVec.ofNat 64 (src n))]))).flatten)
          (dirs.map (fun n => (LT s (src n), false)))
          (engOp s .halo t (X s a) 0 0 ((upto 4).map (fun n => LT s (src n)) ++ (upto 4).map (fun n => LT s (16 + src n)))))
    ∧ (isOpt s.tile = true → runsUser s c → ∀ i ∈ [Instr.sendt c t a b l, .msend c t a l, .halo c t a k], exec i s = .next (refusedAs s))
    ∧ engineForm c s (.fencex c t a) [] [] (engOp s .fencex t (X s a) 0 0 [])
    ∧ engineForm c s (.bench c t a) [] [] (engOp s .bench t (X s a) 0 0 [])
    ∧ engineForm c s (.bwait c t a) [] [] (engOp s .bwait t (X s a) 0 0 [])
    ∧ engineForm c s (.bdrop c a) [] [] (engOp s .bdrop 0 (X s a) 0 0 [])
    ∧ (runsUser s c →
        exec (.waitmb c a k) s = .next s
        ∧ exec (.mgset c a b) s = .next (updIss s (fun i => { i with mgset := some ((X s a).toNat % 2 ^ 6, (X s b).toNat % 2 ^ 5) }))
        ∧ exec (.fstat c d a) s = .next (emit s (xOut 2 false d
            (if a = 4 then BitVec.ofNat 64 s.tile.rt.aside.length else (cellGet s.tile.rt.fstat a.toNat).setWidth 64)))
        ∧ exec (.bstat c d a) s = .next (emit s (xOut 2 false d (match benchOf s s.tile.pid ((X s a).toNat % 8) with
            | some x => BitVec.ofNat 64 (x.st + (if 1 ≤ x.st ∧ x.st ≤ 4 then x.gen * 2 ^ 4 else 0) + (x.held % 2 ^ 24) * 2 ^ 8
                + (x.stored % 2 ^ 24) * 2 ^ 32)
            | none => 0))))

/-- The task forms (R282 to R285, R287, R288), of which the deque forms raise ILLOP in an optimistic partition, and the VTIM forms (R318 to
R324), which raise it in a plain one. -/
def Obligations.TaskAndVirtualTimeForms : Prop :=
  (∀ (c : Ctl) (t d a b : Reg) (f : BitVec 3) (s : State), runsUser s c →
    let xa := X s a
    let bad := recordFaults s xa
    let m := cellSets s.tile.mem s.tile.iss.stores
    let w := readLe m xa.toNat 8
    let sound : Prop := w % 4 = 0 ∧ w % 2 ^ 21 < xbOf s.tile ∧ w / 2 ^ 21 % 8 = 0 ∧ w / 2 ^ 24 % 16 ≤ 11 ∧ w / 2 ^ 29 = 0
    let near (write : Bool) : State := updIss s (fun i => { i with quiet := i.quiet ++ [(xa.toNat, 64, write)] })
    let wid := (cwGet s.tile 0x005).toNat
    let width (n : Nat) : Nat := wid / 2 ^ (6 * n) % 2 ^ 6
    let off := ((upto f.toNat).map width).sum
    (isOpt s.tile = false →
      (∀ p ∈ [(Instr.spawn c d a, false, decide (s.tile.disp.deque.length + s.tile.disp.reserved < 128)),
          (.spawnr c d a, true, decide (freshReady s.tile.disp < 16))],
        (bad ≠ [] → exec p.1 s = .next (raise s bad))
        ∧ (bad = [] → ¬sound → exec p.1 s = .next (raise s [(0x07, xa)]))
        ∧ (bad = [] → sound → p.2.2 = false → exec p.1 s = .next (emit (near false) (xOut 2 false d 0)))
        ∧ (bad = [] → sound → p.2.2 = true → exec p.1 s
            = .next (updIss (emit (near false) (xOut 2 false d 1)) (fun i => { i with spawn := some (p.2.1, recRead m xa.toNat) }))))
      ∧ (bad ≠ [] → exec (.pop c d a) s = .next (raise s bad))
      ∧ (bad = [] → s.tile.disp.deque = [] → exec (.pop c d a) s = .next (emit s (xOut 2 false d 0)))
      ∧ (bad = [] → s.tile.disp.deque ≠ [] → exec (.pop c d a) s
          = .next (updIss (emit (near true) (xOut 2 false d 1)) (fun i => { i with popped := some xa.toNat })))
      ∧ ∀ p ∈ [(Instr.steal c t a, false), (.stealX c t a, true)], exec p.1 s = .next (handed s (engOp s (.steal p.2) t xa 0
          (if s.tile.disp.deque.length + s.tile.disp.reserved < 128 then 1 else 0) [])))
    ∧ (isOpt s.tile = true → ∀ i ∈ [Instr.spawn c d a, .spawnr c d a, .pop c d a, .steal c t a, .stealX c t a],
        exec i s = .next (refusedAs s))
    ∧ exec (.dqst c d) s = .next (emit s (xOut 2 false d (BitVec.ofNat 64 (s.tile.disp.deque.length + s.tile.disp.reserved
        + freshReady s.tile.disp * 2 ^ 8 + s.tile.disp.frames.length * 2 ^ 16 + (if s.tile.disp.csa.isSome then 2 ^ 20 else 0)))))
    ∧ exec (.widf c d a f) s = .next (emit s (xOut 2 false d (BitVec.ofNat 64 (xa.toNat / 2 ^ off % 2 ^ width f.toNat))))
    ∧ ∃ v : W64, (∀ i, i < 64 → v.getLsbD i = if off ≤ i ∧ i < off + width f.toNat then (X s b).getLsbD (i - off) else xa.getLsbD i)
        ∧ exec (.wids c d a b f) s = .next (emit s (xOut 2 false d v)))
  ∧ ∀ (c : Ctl) (t d a b : Reg) (l : BitVec 3) (s : State), runsUser s c →
      let xa := X s a
      let e := LT s l.toNat
      let lvt := cwGet s.tile 0x030
      let taken := lowestAccepted s.tile (xa.setWidth 32) ((xa >>> 32).setWidth 32) ((cwGet s.tile 0x021).setWidth 32) ((cwGet s.tile 0x020).setWidth 16)
      let behind : Bool := match s.tile.vt.key with
        | some k => !keyLt k [xa.toNat, rankOf s.tile, lvt.toNat, s.tile.vt.six]
        | none => false
      (isOpt s.tile = false → ∀ i ∈ [Instr.erecv c t a l, .erecvNs c t a l, .deferH c t a b, .deferT c t a, .vtadv c a, .savem c d a, .gvtw c t a],
        exec i s = .next (refusedAs s))
      ∧ (isOpt s.tile = true →
          (∀ p ∈ [(Instr.erecv c t a l, false), (.erecvNs c t a l, true)], exec p.1 s
            = .next (match taken with
              | some x => handed (spanning (updIss (raise s (layoutFault s l.toNat true))
                  (fun i => { i with event := some (BitVec.ofNat 64 (hdrRvt x.hdr), some x, p.2) })) e true) (engOp s .recv t xa 0 0 [e])
              | none => handed (updIss (raise s (layoutFault s l.toNat true)) (fun i => { i with event := some (lvt, none, p.2) }))
                  (engOp s .recv t xa 0 0 [e])))
          ∧ exec (.deferH c t a b) s = .next (handed s (engOp s .deferH t xa (X s b) 0 []))
          ∧ exec (.deferT c t a) s = .next (handed s (engOp s .deferT t xa 0 0 []))
          ∧ exec (.gvtw c t a) s = .next (handed s (engOp s .gvtw t xa 0 0 []))
          ∧ exec (.savem c d a) s = .next (updIss (emit s (xOut 2 false d (cwGet s.tile 0x008)))
              (fun i => { i with vsave := some (xa &&& 0x1FFFFFFFF) }))
          ∧ exec (.vtadv c a) s = .next (updIss (if xa = BitVec.allOnes 64 ∨ behind = true then raise s [(0x10, xa)] else s)
              (fun i => { i with event := some (xa, none, false) })))

/-! ## The steps without an encoding

Each clause names a row of the opcode table, what must hold for it to have its effect, and the whole next state (or what it holds). `u` is
the state with the tile of the step in focus. -/

/-- The steps of the message, matching, quarry and steal engines (R187, R191, R194, R195, R206, R211, R214, R217 to R220, R285, R286, R297, R309,
R372, R400). The packets of the clauses have the model's form where the manual gives none (log 12, 29, 39, 42, 85, 87), a row is opened and
closed as log 30 says, walks end as log 90 says, the proxies are log 91's, the places in the hamper log 83's, the error answers of another module log
78's, the code of a destination that two codes refuse log 108's, restored messages log 115's, CYC of an event's record log 103's and the times of the
scrubber log 116's. The packets of one engine keep their order and those of two have none (log
102), and among several sends, parts, streams or receives the agenda chooses (log 4). -/
def Obligations.MessageAndQuarryEvents : Prop :=
  ∀ (s u v w : State) (src dst site owner n : Nat) (p : Packet) (o : SendOp) (q : Posted) (e : HamEntry),
    -- MESSAGE_ARRIVAL: the head packet is admitted, or the input stops on it
    (atSite s dst u → takes u = true → ¬(4096 ≤ src ∧ src < 4352) → u.tile.eng.stopped = none →
      headPkt u src dst 1 (fun h => isArrivalKind h && colourOk u h) = some (p, v) →
      (admitArrival v p = some w → exec (.messageArrival src dst) s = .next (noteArrival w))
      ∧ (admitArrival v p = none → exec (.messageArrival src dst) s = .next (updEng u (fun g => { g with stopped := some src }))))
    -- HAMPER_INPUT_RESUME: the packet that stopped the input, and before it the first of those that a restore has put back
    ∧ (atSite s site u → u.tile.eng.stopped = some src → u.tile.eng.readmits = [] → headPkt u src site 1 (fun _ => true) = some (p, v) →
        hdrAnti p.hdr = false → admitArrival (updEng v (fun g => { g with stopped := none })) p = some w →
        exec (.hamperInputResume site) s = .next (noteArrival w))
    ∧ (∀ r, atSite s site u → u.tile.eng.stopped = some src → u.tile.eng.readmits = p :: r → hdrAnti p.hdr = false → meetNegative u p.hdr = none →
        (admitMsg u p.hdr p.body = none → exec (.hamperInputResume site) s = .next u)
        ∧ (r = [] → admitMsg u p.hdr p.body = some w →
          exec (.hamperInputResume site) s = .next (updEng w (fun g => { g with readmits := [], stopped := none }))))
    -- EAGER_READOUT_START of a send that finds room while none before it to its destination is still to leave; EAGER_READOUT_DONE
    ∧ (atSite s site u → (readable u.tile)[s.pick]? = some o → exec (.eagerReadoutStart site) s
          = .next (updSend (checkRead u (ltAddrs o.lt) 6 true) o.handle
              (fun x => { x with st := .reading, data := (ltAddrs o.lt).map (fun a => cellGet u.tile.mem a) })))
    ∧ (∀ x y : SendOp, s.tile.eng.sends = [x, y] → x.eager = true → y.eager = true → x.st = .queued → y.st = .queued →
        readable s.tile = (if ltSize x.lt ≤ 0x4000 then [x] else [])
          ++ (if ltSize y.lt ≤ 0x4000 ∧ hdrDst x.hdr ≠ hdrDst y.hdr then [y] else []))
    ∧ (atSite s site u → (firstUnsent (fun x => decide (x.st = .reading)) [] u.tile.eng.sends)[s.pick]? = some o →
        let sent := imageSend (sendLeaves u o o.data) o
        exec (.eagerReadoutDone site) s = .next (pump (finish (dropRanges (updSend sent o.handle (fun x => { x with st := .retained, rng := [] }))
          o.rng) o.uid o.tok (compOk o.data.length))))
    -- ACCEPTANCE_ARRIVAL, REFUSAL_ARRIVAL, CTS_ARRIVAL: the answer names the send by its handle; of a rendezvous toward another module the
    -- acceptance says that its data has landed
    ∧ (atSite s dst u → headPkt u src dst 2 (fun h => hdrKind h = 12 && colourOk u h) = some (p, v) →
        v.tile.eng.sends.find? (fun x => x.handle = hdrHandle p.hdr) = some o →
        (o.st = .retained → exec (.acceptanceArrival src dst) s = .next (dropSend v o.handle))
        ∧ (o.st = .sent n → exec (.acceptanceArrival src dst) s
            = .next (finish (dropSend v o.handle) o.uid o.tok (compWord false 0 (decide (n < hdrLen o.hdr)) false false 0 n))))
    ∧ (atSite s dst u → headPkt u src dst 2 (fun h => hdrKind h = 4 && colourOk u h) = some (p, v) →
        v.tile.eng.sends.find? (fun x => x.handle = hdrHandle p.hdr) = some o →
        exec (.refusalArrival src dst) s = .next (updSend v o.handle (fun x => { x with st := .waitCts })))
    ∧ (atSite s dst u → ¬(4096 ≤ dst ∧ dst < 4352) → headPkt u src dst 2 (fun h => hdrKind h = 2 && colourOk u h) = some (p, v) →
        v.tile.eng.sends.find? (fun x => x.handle = hdrHandle p.hdr) = some o → o.st = .waitCts → o.pre = false →
        exec (.ctsArrival src dst) s = .next (updSend v o.handle (fun x =>
          { x with hdr := setBits x.hdr 86 1 (if hdrBench p.hdr then 1 else 0), st := .streaming (hdrLen p.hdr), pre := false })))
    -- CTS_SEND for the first receive whose clear-to-send is due, four cycles after its match
    ∧ (atSite s site u → takes u = true → u.tile.eng.posted.find? (fun x => isMatched x && decide (x.since + 4 ≤ u.cyc)) = some q →
        q.st = .matched e →
        let k := min (hdrLen e.hdr) (ltSize q.lt)
        let z := tileSendAs (ctsColour u.tile q) u (endOf u (hdrSrc e.hdr) (dieOf u.tile.site)) 2 ⟨answerHdr u.tile e.hdr 2 k, []⟩
        exec (.ctsSend site) s = .next (if k = 0 then endRecv z q e 0 else updPosted z q.id (fun x => { x with st := .streaming e k })))
    -- RENDEZVOUS_STREAM_DONE of a rendezvous send: its R entry is freed, and it completes only as its data lands
    ∧ (atSite s site u → (u.tile.eng.sends.filter isStreaming)[s.pick]? = some o → o.st = .streaming n → o.eager = false → n ≠ 0 →
        let read := checkRead u ((ltAddrs o.lt).take n) 6 true
        let sent := dropRanges (tileSendAs (hdrBench o.hdr) read (endOf read (hdrDst o.hdr) (dieOf site)) 1
          ⟨setBits o.hdr 80 4 3, (ltRead read.tile.mem o.lt).take n⟩) o.rng
        exec (.rendezvousStreamDone site) s = .next (updSend sent o.handle (fun x => { x with st := .sent n, rng := [] })))
    -- RECEIVE_COMPLETE of a message that came whole, or of a stream, which completes its send too
    ∧ (atSite s site u → (landable u)[s.pick]? = some (q, e, none) →
        engWrite u q.seg (ltNj q.lt) ((ltAddrs q.lt).zip e.body) = some w →
        exec (.receiveComplete site) s = .next (endRecv w q e (min e.body.length (ltSize q.lt))))
    ∧ (atSite s site u → (landable u)[s.pick]? = some (q, e, some (p, v)) →
        engWrite v q.seg (ltNj q.lt) ((ltAddrs q.lt).zip p.body) = some w →
        exec (.receiveComplete site) s = .next (sentLanded (endRecv w q e (min p.body.length (ltSize q.lt))) p.hdr))
    -- ANTI_MESSAGE_ARRIVAL: it meets its message, waits as a negative entry, or stops the input while the header area is full
    ∧ (atSite s dst u → takes u = true → u.tile.eng.stopped = none →
        headPkt u src dst 1 (fun h => hdrKind h = 0 && hdrAnti h && colourOk u h) = some (p, v) →
        let z := noteArrival (countIn (recordChannel v p) p.hdr)
        (antiMeet z p.hdr = some w → exec (.antiMessageArrival src dst) s = .next w)
        ∧ (antiMeet z p.hdr = none → headUsed z.tile < 256 → antiTarget z p.hdr = none → exec (.antiMessageArrival src dst) s
            = .next (addHamper (updEng z (fun g => { g with seq := g.seq + 1 })) ⟨p.hdr, [], false, true, z.tile.eng.seq, none, []⟩))
        ∧ (antiMeet z p.hdr = none → 256 ≤ headUsed z.tile →
            exec (.antiMessageArrival src dst) s = .next (updEng u (fun g => { g with stopped := some src }))))
    -- PEER_FENCED_ANSWER to a packet for a fenced site, from a tile of the module or from another module by a port; and the answer of another module
    -- at the tile that sent, whose message counts as admitted
    ∧ (src < 4096 → isFenced s src = true → takePkt s dst src 1 = some (p, v) → v.qheld = [] →
        (dst < 4352 → (tileAt v dst).isSome = true → exec (.peerFencedAnswer src dst) s
          = .next (failOwner (if isMsgKind (hdrKind p.hdr) then countIn (focus dst v) p.hdr else focus dst v) (hdrDst p.hdr) (hdrKind p.hdr)
              (hdrHandle p.hdr) 0x06))
        ∧ (4352 ≤ dst → dst < 4368 → hdrKind p.hdr ≠ 6 → exec (.peerFencedAnswer src dst) s
            = .next (sendPkt v src (4352 + dieOf src) 2 ⟨fencedHdr p.hdr, []⟩)))
    ∧ (4096 ≤ src ∨ isFenced s src = false → atSite s dst u →
        headFor u src dst 2 1 (fun h => hdrKind h = 6 && decide (hdrN h 48 1 = 6) && otherModule s (hdrSrc h)) = some (p, v) →
        v.tile.eng.sends.find? (fun x => decide (x.handle = hdrHandle p.hdr) && decide (hdrDst x.hdr = hdrSrc p.hdr)) = some o →
        o.st = .retained ∨ o.st = .waitCts →
        exec (.peerFencedAnswer src dst) s = .next (failSend (countIn v o.hdr) o 0x06))
    -- QUARRY_WALK of the first part that needs one: the translation buffer, or a walker of the die takes it up, or its walk ends
    ∧ (∀ id k va second, atSite s site u → u.tile.eng.reqs.findSome? (fun r => (untranslated r).map (fun x => (r.id, x))) = some (id, k, va, second) →
        (∀ x lv, tlbFind u.tile va = some (x, lv) → exec (.quarryWalk site) s = .next (walkDone u id k second (.leaf x lv)))
        ∧ (tlbFind u.tile va = none → isWalking u.tile id k = false → exec (.quarryWalk site) s
            = .next (if walksAt u (dieOf site) < 64 then updPart u id k (fun x => { x with walking := true }) else u))
        ∧ (∀ c, tlbFind u.tile va = none → isWalking u.tile id k = true → walk u (dieOf site) (cwGet u.tile 0x023).toNat va = (.fail c, w) →
            exec (.quarryWalk site) s = .next (walkDone w id k second (.fail c)))
        ∧ ∀ x lv, tlbFind u.tile va = none → isWalking u.tile id k = true → walk u (dieOf site) (cwGet u.tile 0x023).toNat va = (.leaf x lv, w) →
            let entry := (va / (if lv = 2 then 2 ^ 30 else 2 ^ 21), lv, x)
            exec (.quarryWalk site) s
              = .next (walkDone (updEng w (fun g => { g with tlb := (entry :: g.tlb).take 128 })) id k second (.leaf x lv)))
    -- QUARRY_PART_DISPATCH: the part takes a tracker and leaves for its owner, or fails where a link or router on one of its ways is out
    ∧ (∀ r k first r' k' part t tr, atSite s site u → nextPart u.tile = some (r, k, first) → heldBack u.tile r = false → partReady r first = true →
        v = updReq u r.id (fun x => { x with parts := joinOwners x.parts }) → nextPart v.tile = some (r', k', part) → freeTracker v.tile = some t →
        tr = trackerOf v.tile t →
        let home := part.home.getD (false, 0, 0)
        let dest := 4096 + (if home.1 then 16 * home.2.1 else home.2.1)
        let ways := [(site, endSite dest), (endSite dest, site)] ++ (match part.srcHome with
          | some h => [(endSite (4096 + (if h.1 then 16 * h.2.1 else h.2.1)), endSite dest)]
          | none => [])
        ((∀ y ∈ ways, linkDown v y.1 y.2 = false ∧ routerStops v y.1 y.2 = false) →
          let z := updPart (setTracker v t { tr with use := some (r'.id, k'), since := v.cyc }) r'.id k' (fun x => { x with st := .sent t })
          exec (.quarryPartDispatch site) s = .next (tileSendAs r'.colour z dest 1 (partPkt z part (t + 256 * tr.gen))))
        ∧ ((∃ y ∈ ways, linkDown v y.1 y.2 = true ∨ routerStops v y.1 y.2 = true) →
          exec (.quarryPartDispatch site) s = .next (endReq (updPart v r'.id k' (fun x => { x with st := .done 7 })) r'.id)))
    -- QUARRY_PART_SERVE of a part that may be performed next. In quarry memory, where it meets no bench but that of its own colour: performed and
    -- answered, or its reply held for a clear-to-send where it is large. The source of a COPY is read first, and its data comes over the fabric
    -- into the copy buffer. For the capacity tier: the die's proxy takes it.
    ∧ (∀ x t, (readyParts s src owner)[s.pick]? = some x → tileAt s src = some t → proxyFull s owner = false →
        let h := x.pkt.hdr
        (∀ z code body bytes, hdrN h 56 8 < 2 ^ 63 → hdrN h 48 1 ≠ 6 ∨ (copyOf s x).isSome = true → flipFor s t.pid owner (hdrBench h) = v →
          (copyOf v x).getD (0, []) = (0, bytes) → oldBench v t.pid owner (hdrBench h) = none →
          freezeAll v none owner (writtenPages h x.pkt.body) = (w, true) → oldBench (partGone w x) t.pid owner (hdrBench h) = none →
          performPart (partGone w x) t.pid (cwGet t 0x023).toNat owner h x.pkt.body bytes none = (code, body, z) →
          let mk (kind : Nat) : BitVec 512 := mkHdr (hdrSrc h) (rankMod (hdrSrc h) * 8192 + 4096 + owner) 0
            (flagsOf kind 2 0 false (hdrRound h) (hdrBench h)) 0 0 0 0 body.length (hdrHandle h) (if kind = 6 then code else 0)
          exec (.quarryPartServe src owner) s = .next (if (cwGet t 0x022).toNat % 2 ^ 14 < body.length
            then sendPkt { z with qheld := z.qheld ++ [⟨4096 + owner, t.site, 2, ⟨mk 6, body⟩⟩] } (4096 + owner) t.site 2 ⟨mk 1, []⟩
            else sendPkt z (4096 + owner) t.site 2 ⟨mk 6, body⟩))
        -- a write that finds no frame for the page that it would change waits as it is
        ∧ (hdrN h 56 8 < 2 ^ 63 → hdrN h 48 1 ≠ 6 → flipFor s t.pid owner (hdrBench h) = v → copyOf v x = none →
          oldBench v t.pid owner (hdrBench h) = none → freezeAll v none owner (writtenPages h x.pkt.body) = (w, false) →
          exec (.quarryPartServe src owner) s = .next w)
        ∧ (∀ so a z, hdrN h 56 8 < 2 ^ 63 → hdrN h 48 1 = 6 → copyOf s x = none → copySent s x = none → copySource x.pkt.body = (false, so, a) →
          flipFor s t.pid so (hdrBench h) = v → readBlocks v (cwGet t 0x023).toNat false so a (hdrLen h) = (false, z) →
          oldBench z t.pid so (hdrBench h) = none →
          let bytes := (upto (hdrLen h)).map (fun i => cellGet z.quarry (qAddr so (a + i)))
          let y : Packet := ⟨mkHdr (hdrDst h) (rankMod (hdrDst h) * 8192 + 4096 + so) 0 (flagsOf 6 2 0 false (hdrRound h) (hdrBench h))
            (BitVec.ofNat 32 (hdrSrc h)) 0 0 0 bytes.length (hdrHandle h) 0, bytes⟩
          (owner < 256 → 4096 + so ≠ x.dst → linkDown z (endSite (4096 + so)) (endSite x.dst) = false →
            routerStops z (endSite (4096 + so)) (endSite x.dst) = false →
            exec (.quarryPartServe src owner) s = .next { z with net := z.net ++ [⟨4096 + so, x.dst, 2, y⟩] })
          ∧ (4096 + so = x.dst → ∃ r, exec (.quarryPartServe src owner) s = .next r ∧ r.copies = z.copies ++ [(x, hdrN y.hdr 48 1, bytes)]))
        ∧ (∀ y, hdrN h 56 8 < 2 ^ 63 → hdrN h 48 1 = 6 → copyOf s x = none → copySent s x = some y → exec (.quarryPartServe src owner) s
            = .next { s with net := s.net.erase y, copies := s.copies ++ [(x, hdrN y.pkt.hdr 48 1, y.pkt.body)] })
        ∧ (2 ^ 63 ≤ hdrN h 56 8 → s.cxl.find? (fun c => c.2.2 = x) = none → exec (.quarryPartServe src owner) s
            = .next { s with cxl := s.cxl ++ [(owner / 16, decide (s.cxl.countP (fun c => c.2.1 && decide (c.1 % 8 = owner / 16 % 8)) < 1024), x)] }))
    -- two parts of a tile that touch no common byte may be performed in either order, two that do only in order
    ∧ (∀ x y, s.net = [x, y] → (∀ z ∈ [x, y], z.src = src ∧ z.dst = 4096 + owner ∧ z.plane = 1 ∧ hdrKind z.pkt.hdr = 5) →
        readyParts s src owner = if meets (partTouches s y) (partTouches s x) then [x] else [x, y])
    -- QUARRY_REPLY: a late reply lands nowhere and is counted; else the part ends with the reply's code
    ∧ (atSite s dst u → headAny u (4096 + owner) dst 2 (fun h => (hdrKind h = 6 || hdrKind h = 3) && colourOk u h) = some (p, v) →
        let t := hdrHandle p.hdr % 256
        let code := if hdrKind p.hdr = 3 then 0 else hdrN p.hdr 48 1
        ((trackerOf v.tile t).gen ≠ hdrHandle p.hdr / 256 % 256 →
          exec (.quarryReply owner dst) s = .next { v with tile := bumpCw v.tile 0x017 0 })
        ∧ ∀ id k r part, (trackerOf v.tile t).gen = hdrHandle p.hdr / 256 % 256 → (trackerOf v.tile t).use = some (id, k) →
            v.tile.eng.reqs.find? (fun x => x.id = id) = some r → r.parts[k]? = some part →
            engWrite v r.seg (ltNj r.lt) (if code = 0 then replyBytes r part p.body else []) = some w →
            exec (.quarryReply owner dst) s = .next (endReq (updPart (releaseTracker w t false) id k (fun x => { x with st := .done code })) id))
    -- QUARRY_PART_TIMEOUT, TRACKER_HOLDBACK_END
    ∧ (∀ id k, atSite s site u → (trackerOf u.tile n).use = some (id, k) → (trackerOf u.tile n).since + 2 ^ 24 ≤ u.cyc →
        partnHalted u u.tile.pid = false →
        let z := releaseTracker u n true
        exec (.quarryPartTimeout site n) s
          = .next (endReq (updPart { z with tile := bumpCw z.tile 0x017 32 } id k (fun x => { x with st := .done 2 })) id))
    ∧ (atSite s site u → (trackerOf u.tile n).held = true → (trackerOf u.tile n).since + 2 ^ 24 ≤ u.cyc →
        exec (.trackerHoldbackEnd site n) s = .next (setTracker u n { (trackerOf u.tile n) with held := false }))
    -- QUARRY_SCRUB reads the block that is due, once: each block of the tile once in 2^36 cycles, in ascending address
    ∧ (let block := s.cyc % 2 ^ 36 * 47185920 / 2 ^ 36
       (owner < 256 → ownerOut s owner = false → (owner, block) ∉ s.qscrub → ∀ bad z, readBlocks s 0 false owner (64 * block) 64 = (bad, z) →
         exec (.quarryScrub owner block) s = .next { z with qscrub := z.qscrub ++ [(owner, block)] })
       ∧ (n ≠ block ∨ (owner, block) ∈ s.qscrub → exec (.quarryScrub owner n) s = .next s))
    -- a read opens its rows: the counter of each goes up, a full one is cleared, and one that fails its parity is cleared with a record
    ∧ (s.qparity = [] → (cellGet (useRow s owner n).2.qrows (qAddr owner n)).toNat
        = let k := (cellGet s.qrows (qAddr owner n)).toNat; if k < 4094 then k + 1 else 0)
    ∧ (let row := Config.dramRow n
       let k := qAddr owner row
       owner < 256 → s.qsoft = [] → s.qbad = [] →
       (s.qparity = [(owner, row)] → readBlocks s 0 false owner (64 * n) 64 = (false,
         relRecord { s with qparity := [], qrows := cellSet s.qrows k 0 } 0x12 1 1 (modIdx s * 8192 + 4096 + owner) 0 row 0 0 0))
       ∧ (s.qparity = [] → readBlocks s 0 false owner (64 * n) 64 = (false,
         { s with qrows := cellSet s.qrows k (if 4094 ≤ (cellGet s.qrows k).toNat then 0 else cellGet s.qrows k + 1) })))
    -- STEAL_SERVE: a request arrives; the one that is due takes the oldest record that it can see, or an empty answer. STEAL_ANSWER: the record
    -- joins the deque, or the request fails
    ∧ (atSite s dst u → takes u = true → u.tile.eng.stopped = none → headFor u src dst 1 2 (fun h => hdrKind h = 7 && colourOk u h) = some (p, v) →
        (u.tile.disp.thefts.any (fun x => x.2 = src) = false → exec (.stealServe src dst) s
          = .next { u with tile := updDisp u.tile (fun d => { d with thefts := d.thefts ++ [(u.cyc, src)] }) })
        ∧ (stealDue u src = true → v.tile.bench.cap = none →
          let rs := openDeque v.tile.disp v.cyc
          let body := (rs.take 1).map recBytes
          let t := updDisp v.tile (fun d => { d with
            thefts := d.thefts.filter (fun x => x.2 ≠ src), served := some v.cyc,
            deque := if rs = [] then d.deque else d.deque.drop 1, dqTop := if rs = [] then d.dqTop else d.dqTop + 1,
            pushed := d.pushed.map (fun x => (x.1, if rs = [] then x.2 else x.2 - 1)) })
          exec (.stealServe src dst) s
            = .next (tileSend { v with tile := t } src 2 ⟨setBits (answerHdr t p.hdr 8 body.flatten.length) 96 32 0, body.flatten⟩)))
    ∧ (stealDue u src = true → u.tile.disp.served ≠ some u.cyc ∧ u.tile.site ∉ u.todo
        ∧ ∃ c, (c, src) ∈ u.tile.disp.thefts ∧ c < u.cyc ∧ ∀ x ∈ u.tile.disp.thefts, c < x.1 ∨ (c = x.1 ∧ src ≤ x.2))
    ∧ (∀ x, atSite s dst u → headFor u src dst 2 2 (fun h => hdrKind h = 8 && colourOk u h) = some (p, v) →
        v.tile.eng.waits.find? (fun y => isSteal y && decide (y.b.toNat = hdrHandle p.hdr)) = some x →
        let z := updEng v (fun g => { g with waits := g.waits.erase x })
        let t := updDisp z.tile (fun d => { d with reserved := d.reserved - 1 })
        (p.body = [] → exec (.stealAnswer src dst) s
          = .next (finish { z with tile := t } x.uid x.tok (compWord (x.kind = .steal true) 0x0B false false false 0 0)))
        ∧ (p.body ≠ [] → exec (.stealAnswer src dst) s = .next (finish { z with tile := pushDeque (imageTaken t x.b.toNat (recOf p.body)) (recOf p.body) } x.uid x.tok
                (compOk 64))))

/-- The steps of the routers, links and fences, of results, traps, tasks and virtual time (R34, R110, R221, R234, R238, R240, R242, R244, R247, R250,
R254, R269, R277, R305, R311, R312, R357, R368, R371). The forms of a fence's packets, the numbers of LINK_FAIL and the state that a step finds
are the model's (log 4, 13, 23, 63, 64, 74, 84, 93); a halo row lands byte by byte (log 89), the packets of one engine keep their order (log 102), and
what is due at a boundary lands before a trap, a rollback or a switch there (log 22, 101); the budget of a local multicast copy is log 110's, CYC of an
event's record log 103's, and of two events of one asynchronous cause the first gives TVAL (log 107). What a landing, a dispatch and a rollback do is stated in
LandingsDispatchAndRollback. -/
def Obligations.FabricTaskAndTimeEvents : Prop :=
  ∀ (s u v w : State) (src dst site port plane die other n pid : Nat) (p : Packet) (q : Partn),
    -- RESULT_LAND, ASYNC_TRAP, DISPATCH, ROLLBACK
    (atSite s site u → partnRuns u u.tile.pid = true → u.tile.disp.running = true → u.tile.dbg.halted = false → u.tile.soft = [] →
      u.tile.poison = [] → exec (.resultLand site) s = .next { u with tile := beginCycle u.tile (hereCyc u) })
    ∧ (∀ c x, atSite s site u → atBoundary u = true → u.tile.vt.due = [] → u.tile.th.trap = none → haltWanted u.tile = none →
        eventLooms u.tile = false → u.tile.soft = [] → u.tile.poison = [] →
        let z := beginCycle u.tile (hereCyc u)
        let t := { z with asyncs := z.asyncs.filter (fun y => y.1 ≠ c), stall := none }
        lowestAsync z = some (c, x) → exec (.asyncTrap site) s
          = .next (takeTrap { u with tile := updDisp t (fun d => { d with sync := none }) } c x z.th.pc))
    ∧ (atSite s site u → partnRuns u u.tile.pid = true → u.tile.dbg.halted = false → site ∉ u.todo →
        let d := u.tile.disp
        let t := dispatchTile u.tile
        (d.served ≠ some u.cyc → d.popped ≠ some u.cyc → (∀ y ∈ d.pushed, y.1 ≠ u.cyc) → exec (.dispatch site) s
          = .next { u with tile := if t.disp.deque.length < d.deque.length then updDisp t (fun e => { e with popped := some u.cyc }) else t })
        ∧ (d.served = some u.cyc ∨ d.popped = some u.cyc ∨ (∃ y ∈ d.pushed, y.1 = u.cyc) → exec (.dispatch site) s = .next u))
    ∧ (atSite s site u → rollbackReady u = true → u.tile.th.squash = 0 → haltWanted u.tile = none → eventLooms u.tile = false → u.tile.soft = [] →
        u.tile.poison = [] → exec (.rollback site) s = .next (doRollback { u with tile := beginCycle u.tile (hereCyc u) }))
    -- TASK_PREEMPT, PMASK_EXPIRE
    ∧ (atSite s site u → quietBoundary u.tile = true → noTrap u.tile = true → partnRuns u u.tile.pid = true → switchDue u = some w →
        exec (.taskPreempt site) s = .next w
        ∧ (pmasked u.tile = true → u.tile.disp.maskLeft = 0 → exec (.pmaskExpire site) s = .next w))
    -- SYNC_RELEASE: every tile waits and 64 cycles have passed since the last arrival
    ∧ (partnOf s pid = some q → q.st = .running →
        (∀ t ∈ allTiles s, q.sites.contains t.site = true → t.dbg.gang = false ∧ t.disp.running = true ∧ t.disp.release = none
          ∧ ∃ x, t.disp.sync = some x ∧ x + 64 ≤ s.cyc) → 64 ≤ s.cyc →
        exec (.syncRelease pid) s = .next (mapPartn s pid (fun t => updDisp t (fun d => { d with sync := none, release := none }))))
    -- SCHEDULED_FLIT_FORWARD of the flit that stands at the input in this cycle, by the slot table of the cycle
    ∧ (∀ x, atSite s site u → port < 5 → u.tile.rt.inp.find? (fun y => y.1 = port && decide (port < 5) && decide (y.2.1 = hereCyc u)) = some (x, hereCyc u, p) →
        let z := { u with tile := updRt u.tile (fun r => { r with inp := r.inp.erase (x, hereCyc u, p) }) }
        let outs := (upto 5).filter (fun o => (cellGet u.tile.rt.slots (hereCyc u % 256)).toNat / 2 ^ (3 * o) % 8 = port + 1)
        exec (.scheduledFlitForward site port) s = .next (if outs = [] then discard z p 1 else outs.foldl (schedOut p) z))
    -- output L takes it for the tile whose rank it names, in the next cycle; a retired site has none
    ∧ schedOut p s 4 = (if hdrDst p.hdr = rankOf s.tile ∧ s.tile.site ∉ s.mgr.noId
        then { s with tile := updRt s.tile (fun r => { r with inp := r.inp ++ [(5, hereCyc s + 1, p)] }) }
        else discard s p 1)
    -- SENDT_DEPART of the earliest flit, in its own cycle
    ∧ (∀ f, atSite s site u → u.tile.rt.buffer = [f] → f.d = f.d0 → f.d = hereCyc u → partnHalted u u.tile.pid = false →
        stampPkt u f.pkt = (p, v) → exec (.sendtDepart site) s
          = .next (let t := updRt v.tile (fun r => { r with buffer := r.buffer.erase f, inp := r.inp ++ [(4, f.d, p)] })
              finish { v with tile := t } f.uid f.tok (compOk f.pkt.body.length)))
    -- TIMED_ARRIVAL, TIMED_QUEUE_DELIVER
    ∧ (∀ x, atSite s site u → u.tile.rt.inp.find? (fun y => y.1 = 5 && decide (y.2.1 ≤ hereCyc u)) = some x →
        let z := { u with tile := updRt u.tile (fun r => { r with inp := r.inp.erase x }) }
        exec (.timedArrival site) s = .next (if z.tile.rt.queue.length < 16 then { z with tile := updRt z.tile (fun r => { r with queue := r.queue ++ [x.2.2] }) }
          else discard z x.2.2 0))
    ∧ (∀ r, atSite s site u → u.tile.rt.queue = p :: r → u.tile.rt.fed ≠ some u.cyc → takes u = true → colourOk u p.hdr = true →
        let z := recordChannel { u with tile := updRt u.tile (fun x => { x with queue := r, fed := some u.cyc }) } p
        (admitMsg z p.hdr p.body = some w → exec (.timedQueueDeliver site) s = .next (noteArrival (countIn w p.hdr)))
        ∧ (admitMsg z p.hdr p.body = none → exec (.timedQueueDeliver site) s = .next u))
    ∧ (∀ r, atSite s site u → u.tile.rt.queue = p :: r → takes u = false → exec (.timedQueueDeliver site) s
        = .next (countIn { u with tile := updRt u.tile (fun x => { x with queue := r, fed := some u.cyc }) } p.hdr))
    -- MULTICAST_FORWARD: a copy to each output of the latched entry
    ∧ (∀ m r, atSite s site u → u.tile.rt.held = (m, p) :: r →
        let z := { u with tile := updRt u.tile (fun x => { x with held := r }) }
        let outs := (upto 5).filter (fun o => m.getLsbD o)
        exec (.multicastForward site) s = .next (if outs = [] then discard z p 2
          else outs.foldl (mcastOut p) { z with tile := { z.tile with vt := { z.tile.vt with newSent := z.tile.vt.newSent + (outs.length - 1) } } }))
    -- HALO_ARRIVAL: the row is checked once, and of its bytes some land at once and some later; in a later cycle the rest has landed and the mailbox
    -- of its side counts the row, and BAD marks one that may not land
    ∧ (atSite s dst u → takes u = true → u.tile.eng.stopped = none → headFor u src dst 1 3 (fun h => hdrKind h = 9 && colourOk u h) = some (p, v) →
        let e := BitVec.ofNat 128 (hdrN p.hdr 48 16)
        let k := 0x050 + (hdrTag p.hdr).toNat % 4
        let bytes := if ltSpanOk u.tile e then (ltAddrs e).zip p.body else []
        let later (b : Bool) := (bytes.zipIdx.filter (fun x => Config.oldByte u.free x.2 == b)).map (·.1)
        (u.tile.eng.halos = [] → u.tile.soft = [] → ∃ t, exec (.haloArrival src dst) s = .next t
          ∧ t.tile.eng.halos = [⟨src, u.cyc, ltSpanOk u.tile e, later true⟩] ∧ t.net = u.net
          ∧ t.tile.mem = cellSets u.tile.mem (later false))
        ∧ (∀ c good left, u.tile.eng.halos = [⟨src, c, good, left⟩] → c < u.cyc → u.tile.soft = [] → ∃ t, exec (.haloArrival src dst) s = .next t
          ∧ t.net = v.net ∧ t.tile.eng.halos = [] ∧ t.tile.mem = cellSets u.tile.mem left
          ∧ cwGet t.tile k = setBits (cwGet u.tile k) 0 32 ((cwGet u.tile k).toNat % 2 ^ 32 + 1) ||| (if good then 0 else 0x8000000000000000)))
    -- CONGESTION_DETECT: a packet comes to the head of an output's queue, and one that has stood there for 64 cycles has its destination given
    -- set-aside queues; CONGESTION_NOTICE by a router that may have sent such a packet in the last 64 cycles; SETASIDE_RELEASE
    ∧ (∀ x, tileAt s site = some x →
        (∀ k y, s.pick = k + 1 → ((heading s site port plane dst).filter (fun z => !knownPast s z site))[k]? = some y → ∃ t z,
          exec (.congestionDetect site port plane dst) s = .next t ∧ tileAt t site = some z ∧ (port, y, s.cyc) ∈ z.rt.watch ∧ t.net = s.net)
        ∧ (∀ y, s.pick = 0 → x.rt.watch.find? (fun w => w.1 = port && w.2.1.plane = plane && w.2.1.dst = dst && s.net.contains w.2.1) = some y →
          exec (.congestionDetect site port plane dst) s
            = .next (if y.2.2 + 64 ≤ s.cyc then mapTile s site (fun t => assignAside t plane dst s.cyc) else s)))
    ∧ (∀ x, neighbour site port = some other → tileAt s other = some x →
        x.rt.aside.any (fun y => y.port = (port + 2) % 4 && y.plane = plane && y.dst = dst && decide (s.cyc ≤ y.carried + 64)) = true →
        exec (.congestionNotice site port plane dst) s = .next (mapTile s site (fun t => assignAside t plane dst s.cyc)))
    ∧ (∀ t : Tile, t.rt.aside = [] → (assignAside t plane dst n).rt.aside = (upto 5).map (fun k => ⟨k, plane, dst, n, n⟩))
    ∧ exec (.setasideRelease site port plane dst) s = .next (mapTile s site (fun t => updRt t (fun r => { r with
        aside := r.aside.filter (fun x => !(x.port = port && x.plane = plane && x.dst = dst && decide (x.held + 1024 ≤ s.cyc))) })))
    -- FENCE_VERDICT: a mismatch makes COUNTMM pending; FENCE_MARKER: equal counts, and the received count starts again
    ∧ (∀ x, atSite s site u → u.tile.eng.waits.find? (fun y => decide (y.kind = .fencex) && decide (y.a.toNat % 2 ^ 16 = s.pick)) = some x →
        (∀ t ∈ allTiles u, dieOf t.site = dieOf site → ∀ y ∈ t.eng.waits, y.kind = .fencex → y.a.toNat % 2 ^ 16 = s.pick → x.c.toNat ≤ y.c.toNat) →
        let z := finish (updEng u (fun g => { g with waits := g.waits.erase x })) x.uid x.tok (compOk 0)
        let sent := x.b.toNat % 2 ^ 32
        exec (.fenceVerdict site n) s = .next (if sent = n % 2 ^ 32 then z
          else { z with tile := raiseAsync z.tile 0x16 (BitVec.ofNat 64 (sent + (n % 2 ^ 32) * 2 ^ 32)) }))
    ∧ (∀ up sent, s.pairs.find? (fun x => x.1 = die && x.2.1 = other) = some (die, other, up, sent, n) → ∃ t, exec (.fenceMarker die other n) s = .next t
        ∧ t.pairs = s.pairs.map (fun x => if x.1 = die ∧ x.2.1 = other then (x.1, x.2.1, x.2.2.1, x.2.2.2.1, 0) else x)
        ∧ t.outPort.length = s.outPort.length + 1 ∧ t.mgr = s.mgr)
    -- LINK_CRC_RETRY keeps every packet in its place; LINK_FAIL of a port takes its pairs down
    ∧ exec (.linkCrcRetry die other) s = .next s
    ∧ (16 ≤ other → let z := relRecord s 0x20 3 3 (16 * die) 0 7 0 0 0
        let mine (m : Nat) : Bool := decide (other < 17) || decide (m = other - 17)
        exec (.linkFail die other) s = .next (eachTile { z with pairs := z.pairs.map (fun x => if x.1 = die ∧ mine x.2.1 then (x.1, x.2.1, false, x.2.2.2) else x) }
          (fun t => dieOf t.site = die) (failPort mine)))
    -- GVT_ROUND_START, GVT_REPORT_RETRY, GVT_RELEASE, GVT_ROUND_END
    ∧ (partnOf s pid = some q → q.round = none → q.st = .running → q.launched + (q.rounds + 1) * gvtPeriod q ≤ s.cyc →
        exec (.gvtRoundStart pid) s = .next (combine (mapPart (mapRect s q flipRound) pid (fun x => { x with rounds := x.rounds + 1 })) pid))
    ∧ (partnOf s pid = some q → q.round = some 1 → q.roundAt + 256 ≤ s.cyc → exec (.gvtReportRetry pid) s = .next (combine s pid))
    -- unequal sums are reported again; equal ones release, of a plain partition with GVT 0
    ∧ (partnOf s pid = some q → q.domain = none →
        let sent := (rectTiles s q).foldl (fun k t => k + t.vt.oldSent) 0
        let recv := (rectTiles s q).foldl (fun k t => k + t.vt.oldRecv) 0
        (sent ≠ recv → combine s pid = mapPart s pid (fun x => { x with round := some 1, roundAt := s.cyc }))
        ∧ (sent = recv → isOptPartn q = false → combine s pid = mapPart s pid (fun x => { x with round := some 2, gvt := 0, roundAt := s.cyc })))
    ∧ (atSite s site u → partnOf u u.tile.pid = some q → q.round = some 2 → u.tile.vt.relDone = false → u.tile.vt.reported = true →
        allApplied (releaseAll u).tile = true → cutDue q = none → ∃ t, exec (.gvtRelease site) s = .next t ∧ t.tile.vt.relDone = true
          ∧ t.tile.vt.segs = (fossils (releaseAll u).tile).vt.segs ∧ t.quarry = (releaseAll u).quarry)
    ∧ (partnOf s pid = some q → q.round = some 2 → (∀ t ∈ roundTiles s q, t.vt.relDone = true) → (∃ t ∈ roundTiles s q, isBlocked t = false) →
        (∀ t ∈ roundTiles s q, t.dbg.gang = false) →
        exec (.gvtRoundEnd pid) s = .next (mapPart s pid (fun x => { x with round := none, quiet := 0 })))

/-- The steps of benches, containment, the end of partitions, debugging and reliability, and the landings of WRW (R55, R56, R93, R116, R245, R264,
R280, R327 to R345, R349, R372, R382 to R395, R397, R400). A bench's place in the store, its images, a containment record's rank, the time of a
step and the landing rows are the model's where the manual leaves them open (log 4, 33, 46, 50, 56, 65, 68, 71, 74, 86, 95); frozen pages are charged as
log 92 says, a contained tile loses its debug words (log 70), a batch of the trace is written in one step (log 44), the scrubbers keep the times of
log 116, and CYC of an event's record is log 103's. -/
def Obligations.BenchDebugAndLandingEvents : Prop :=
  ∀ (s u v w : State) (site pid id line n : Nat) (x : W64) (q q' : Partn) (b : Bench),
    -- BENCH_ACCEPT: the first request that waits; PERIODIC_BENCH
    (∀ o, (partnTiles s pid).findSome? (fun t => (t.eng.waits.find? (fun y => y.kind = .bench)).map (fun y => (t.site, y))) = some (site, o) →
      acceptBench s pid o.b.toNat (if o.tok = 0 then [] else [(site, o.uid, o.tok)]) = some w →
      exec (.benchAccept pid) s = .next (mapTile w site (fun t => { t with eng := { t.eng with waits := t.eng.waits.erase o } })))
    ∧ (∀ y k, (partnTiles s pid).findSome? (fun t => (t.eng.waits.find? (fun y => y.kind = .bench)).map (fun y => (t.site, y))) = none →
        s.mgr.take = some (y, k) → exec (.benchAccept pid) s = .next (if y = pid then takeBench s y k else s))
    ∧ (partnOf s pid = some q → bpolMode q = 1 → q.st = .running → q.launched + (q.nextBench + 1) * (recField q.rec_ 52 4 * 2 ^ 20) ≤ s.cyc →
        cutting q = none → capturing q = false → acceptBench (mapPart s pid (fun y => { y with nextBench := y.nextBench + 1 })) pid 0 [] = some w →
        exec (.periodicBench pid) s = .next w)
    -- BENCH_FLIP, QUARRY_BENCH_FLIP, BENCH_SWEEP of a line within a page that no bench copy holds
    ∧ (atSite s site u → partnOf u u.tile.pid = some q → q.benches.find? (fun y => y.st = 1) = some b → isOptPartn q = false →
        u.tile.bench.colour ≠ q.colour → (drainOps u).tile.eng.ops = [] →
        exec (.benchFlip site) s = .next (checkFlipped (startCapture (drainOps u) (plainCapture (drainOps u) b) q.colour) q.pid))
    ∧ (partnOf s pid = some q →
        let due (y : Bench) : Bool := ((y.st = 1 && recField q.rec_ 3 1 % 2 = 0) || y.st = 2) && !y.acks.contains n
        (q.benches.find? due = none → exec (.quarryBenchFlip pid n) s = .next s)
        ∧ (q.benches.find? due = some b → benchOf s pid b.id = some b → ∃ t y, exec (.quarryBenchFlip pid n) s = .next t ∧ benchOf t pid b.id = some y
          ∧ y.acks = b.acks ++ [n] ∧ y.frozen = b.frozen ∧ t.quarry = s.quarry
          ∧ y.shared = b.shared ++ (if recField q.rec_ 16 2 = 0 then [] else (mappedPages s (recField q.rec_ 16 2) n).map (fun g => (n, g)))))
    -- what a request comes to: it joins the cut in progress, waits for a capture or the colours of an earlier cut, fails for want of an id or a
    -- generation, or begins a bench
    ∧ (∀ ws, partnOf s pid = some q →
        (∀ y, cutting q = some y → acceptBench s pid n ws = some (updBench s pid y.id (fun z => { z with waitB := z.waitB ++ ws })))
        ∧ (cutting q = none → capturing q = true ∨ settled s q = false → acceptBench s pid n ws = none)
        ∧ (cutting q = none → capturing q = false → settled s q = true →
          (freeBenchId q = none ∨ freeGen s = none → acceptBench s pid n ws = some (wakeTokens s ws (compErr 0x0A 0)))
          ∧ ∀ k g, freeBenchId q = some k → freeGen s = some g → ∃ t y, acceptBench s pid n ws = some t ∧ benchOf t pid k = some y ∧ y.st = 1
            ∧ y.gen = g ∧ y.cutVt = n ∧ y.waitB = ws ∧ y.acks = [] ∧ y.frozen = [] ∧ y.shared = []
            ∧ ∀ r, partnOf t pid = some r → r.colour = if isOptPartn q then q.colour else !q.colour))
    ∧ (∀ c, atSite s site u → u.tile.bench.cap = some c → c.done = false → c.sweep < 0x8000 → c.sweep % 256 ≠ 0 → lineHeld u.tile c c.sweep = false →
        c.copied.find? (fun y => y.1 = c.sweep) = none → u.tile.poison = [] → u.tile.soft = [] →
        let bytes := readBytes u.tile.mem (64 * c.sweep) 64
        exec (.benchSweep site) s = .next (updCap u (fun y => { y with sweep := c.sweep + 1, img := blit y.img (64 * c.sweep) bytes })))
    -- BENCH_SEAL and HAUL_PAGE
    ∧ (partnOf s pid = some q → benchOf s pid id = some b → sealable s q b = true →
        (∀ t ∈ allTiles s, ∀ c, t.bench.cap = some c → c.channel = []) → exec (.benchSeal pid id) s = .next (sealBench s pid id))
    ∧ (partnOf s pid = some q → benchOf s pid id = some b → (recField q.rec_ 48 1).testBit 2 = false →
        let t := sealBench s pid id
        (∃ y, benchOf t pid id = some y ∧ y.st = 3 ∧ y.waitB = [] ∧ y.seq = s.mgr.sealSeq ∧ y.frozen = b.frozen ∧ y.shared = b.shared
          ∧ y.images = ((allTiles (wakeTokens s b.waitB (compOk id))).filter (fun x => q.sites.contains x.site)).filterMap
            (fun x => x.bench.cap.map (fun c => (x.site, c))))
        ∧ t.mgr.sealSeq = s.mgr.sealSeq + 1
        ∧ ∀ x ∈ allTiles t, x.pid = pid → x.bench.cap = none ∧ cwGet x 0x061 = b.cut ∧ bitsOf (cwGet x 0x060) 8 3 = id % 8)
    ∧ (∀ y g, s.pick = 0 → partnOf s pid = some q → benchOf s pid id = some b → haulable s q b = true → placeBench s b = some y →
        (∀ z, nextPage s q y = some (g, z, v) → s.mgr.haul.countP (fun x => x.die = g.die) < 4 →
          exec (.haulPage pid id) s = .next (showBench (updBench { v with mgr := { v.mgr with haul := v.mgr.haul ++ [g] } }
            q.pid y.id (fun _ => { z with st := 4 })) q.pid))
        ∧ (nextPage s q y = none → inHaul s q.pid y.id = [] → exec (.haulPage pid id) s = .next (endHaul s q y)))
    ∧ (∀ g r, s.pick ≠ 0 → partnOf s pid = some q → benchOf s pid id = some b → inHaul s pid id = g :: r →
        let z := { s with mgr := { s.mgr with haul := s.mgr.haul.erase g }, free := s.free + 1 }
        let bs := pageBytes b.id g.kind g.origin g.page
        exec (.haulPage pid id) s = .next (if Config.expanderFails s.free ∨ Config.capBytes < (cellGet s.mgr.w2 0).toNat + (cellGet s.mgr.w2 8).toNat
          then abandon z pid id else showBench (updBench { z with cap := writeBytes s.cap ((cellGet s.mgr.w2 0).toNat + b.next) bs } pid id
            (fun x => { x with stored := x.stored + 1, next := (x.next + bs.length + 63) / 64 * 64 })) pid))
    -- pages are taken in the order of the images, the frozen copies and the pages still shared
    ∧ ((∀ i ∈ b.imgs, i.2 = 0) →
        (∀ f r, b.frozen = f :: r → ∃ g z, nextPage s q b = some (g, z, s) ∧ g.kind = 0 ∧ g.die = f.1 / 16 ∧ g.page = f.2.2.2 ∧ z.frozen = r
          ∧ z.shared = b.shared)
        ∧ (∀ o k r bytes, b.frozen = [] → b.shared = (o, k) :: r → pageRead s o k = (bytes, v) → ∃ g z, nextPage s q b = some (g, z, v) ∧ g.kind = 0
          ∧ g.die = o / 16 ∧ g.page = bytes ∧ z.shared = r)
        ∧ (b.frozen = [] → b.shared = [] → nextPage s q b = none))
    -- a stored page: FORM, KIND, bench id, length, origin and CRC, then the page raw or a block that decodes to it
    ∧ (∀ kind origin page, page.length = 16384 → kind < 4 → origin < 2 ^ 64 →
        let bs := pageBytes id kind origin page
        let body := bs.drop 32
        (leNat (bs.take 2) = 0 ∧ body = page ∨ leNat (bs.take 2) = 1 ∧ body.length < 16384 ∧ unlz4 (body.length + 1) body [] = some page)
          ∧ leNat ((bs.drop 2).take 1) = kind ∧ leNat ((bs.drop 3).take 1) = id % 8 ∧ leNat ((bs.drop 4).take 4) = body.length
          ∧ leNat ((bs.drop 8).take 8) = origin ∧ leNat ((bs.drop 16).take 4) = (crc32 page).toNat ∧ leNat ((bs.drop 20).take 12) = 0)
    -- PFAIL: the directory is written and the module has no power
    ∧ (∃ t, exec .pfail s = .next t ∧ t.mgr.pfail = true ∧ (s.mgr.haul = [] → t.quarry = s.quarry ∧ t.tile = s.tile))
    -- CONTAINMENT: the partition is contained and its rectangle reset; CONTAINMENT_DRAINED, PREEMPTION_CAPTURED and PARTITION_END free it
    ∧ (∀ t, partnOf s pid = some q → q.st = .containing → q.benches = [] → causeOf q ≠ 0x100 → roundTiles s q = [t] → s.qheld = [] →
        let z := relRecord s 0x30 3 0 (causeRank s q) 0 (causeOf q) (causeDetail q) (recField q.rec_ 62 2) (lQasid q.rec_)
        exec (.containment pid) s = .next (mapPart (putTile z (resetTile z t)) pid
          (fun y => { y with st := .contained, round := none, halt := none, resume := none, again := none, colour := false })))
    ∧ (partnOf s pid = some q → q.st = .contained → q.sites ≠ [] → flying s pid (fun _ => true) = false → s.mgr.boot.isSome = true →
        exec (.containmentDrained pid) s = .next (mapPart s pid (fun y => { y with sites := [] })))
    ∧ (partnOf s pid = some q → q.st = .contained → q.sites ≠ [] → flying s pid (fun _ => true) = false → s.mgr.boot = none → q.benches = [] →
        ∃ z, exec (.containmentDrained pid) s = .next (placementPass (powerState z)) ∧ z.partns.all (fun y => decide (y.pid ≠ pid)) = true)
    ∧ (partnOf s pid = some q → q.st = .preempting → drained s q = true → capturing q = false → cutting q = none →
        preemptBench s pid = some (id, v) → partnOf v pid = some q' →
        exec (.preemptionCaptured pid) s = .next (placementPass (mapPart (freeSites (completePart v q' 5 id 0) q') pid
          (fun y => { y with st := .waiting, sites := [], from_ := id, round := none, halt := none, resume := none, again := none }))))
    ∧ (partnOf s pid = some q → q.st = .running → (∀ t ∈ roundTiles s q, t.disp.finished = true) → idleFabric s q = true → s.mgr.boot = none →
        let a := q.benches.foldl (fun a b => stopHaul a pid b.id) s
        let z := dirEnd (freeSites (completePart a q 3 0 (leftEntries a q)) q) q
        exec (.partitionEnd pid) s = .next (placementPass (powerState { z with partns := z.partns.filter (fun y => y.pid ≠ pid) })))
    -- a tile that leaves its partition keeps SRAM, registers and the control words but for a halt
    ∧ (let t := leaveTile s.tile
       t.pid = 0 ∧ t.mem = s.tile.mem ∧ t.th = s.tile.th ∧ t.sup = s.tile.sup ∧ t.disp.running = false ∧ t.dbg.halted = false
         ∧ ∀ k, k ≠ 0x200 → cwGet t k = cwGet s.tile k)
    -- TILE_HALT, but for a message match where a bundle may yet stop the tile; STEP_DONE, GANG_STOP, GANG_RESUME
    ∧ (∀ c, atSite s site u → haltWanted u.tile = some c → c ≠ 5 ∨ (eventLooms u.tile = false ∧ u.tile.th.squash = 0) →
        exec (.tileHalt site) s = .next (haltHere u c))
    -- a halt: HALTED, HCAUSE, HCYC and HMSG; with GANG = 1 it asks for that of the partition
    ∧ (∀ c, s.tile.dbg.halted = false →
        let t := (haltHere s c).tile
        t.dbg.halted = true ∧ t.dbg.cause = c ∧ t.dbg.stepping = false ∧ (cwGet t 0x200).getLsbD 16 = true ∧ bitsOf (cwGet t 0x200) 32 8 = c % 256
          ∧ (cwGet t 0x20C).toNat = (cycAt s s.tile.site).toNat
          ∧ (cwGet t 0x20D).toNat = s.tile.eng.msgIn % 2 ^ 32 + s.tile.eng.msgOut % 2 ^ 32 * 2 ^ 32 ∧ t.th = s.tile.th ∧ t.mem = s.tile.mem
          ∧ ((cwGet s.tile 0x200).getLsbD 5 = false → (haltHere s c).partns = s.partns)
          ∧ ((cwGet s.tile 0x200).getLsbD 5 = true → partnOf s s.tile.pid = some q → q.halt = none →
            ∃ y, partnOf (haltHere s c) s.tile.pid = some y ∧ y.halt = some s.cyc))
    ∧ (atSite s site u → u.tile.dbg.stepping = true → u.tile.dbg.halted = false → cwGet u.tile 0x209 = 0 →
        exec (.stepDone site) s = .next (haltHere u 7))
    ∧ (∀ h, partnOf s pid = some q → q.halt = some h → s.cyc = h + 64 → exec (.gangStop pid) s
        = .next (mapPartn s pid (fun t => traceNote (updDbg (haltTile t 2 (cycAt s t.site).toNat) (fun d => { d with gang := true })) (dieCyc s t.site))))
    ∧ (∀ h r, partnOf s pid = some q → q.halt = some h → q.resume = some r → r + 64 ≤ s.cyc → exec (.gangResume pid) s
        = .next (mapPart (mapPartn s pid (fun t => resumeTile (shiftTimes t (h + 64) (r + 64)))) pid
            (fun y => { y with halt := y.again, resume := none, again := none })))
    -- DBGCTL_HALT, DBGCTL_STEP, DBGCTL_RESUME, DBGPC_WRITE, STEPCNT_WRITE, FINJ_WRITE
    -- (a halt and an injection may be written at any working site, one that no partition has used too)
    ∧ (site < 4096 → site ∉ s.mgr.retired → u = focus site (listSite s site) → u.tile.dbg.halted = false →
        exec (.dbgctlHalt site) s = .next { u with tile := updDbg u.tile (fun d => { d with want := some 1 }) })
    ∧ (atSite s site u → u.tile.dbg.halted = true →
        exec (.dbgpcWrite site x) s = .next { u with tile := { u.tile with th := { u.tile.th with pc := x.setWidth 21 } } }
        ∧ exec (.stepcntWrite site x) s = .next { u with tile := cwPut u.tile 0x209 (x &&& 0xFFFF) }
        ∧ (u.tile.dbg.gang = false → exec (.dbgctlResume site) s = .next { u with tile := resumeTile u.tile })
        ∧ (cwGet u.tile 0x209 ≠ 0 → (∀ y, partnOf u u.tile.pid = some y → y.resume = none) → ∃ t, exec (.dbgctlStep site) s = .next t ∧ t.tile.dbg.halted = false
            ∧ t.tile.dbg.stepping = true))
    ∧ (site < 4096 → site ∉ s.mgr.retired → u = focus site (listSite s site) → ∃ t, exec (.finjWrite site x) s = .next t ∧ cwGet t.tile 0x208 = finjStored x
        ∧ t.tile.dbg.inject = if (finjStored x).getLsbD 63 = true ∧ (finjStored x).getLsbD 59 = false then some u.cyc else none)
    -- FAULT_INJECT_DEFERRED, TRACE_BATCH_WRITE, SRAM_SCRUB
    ∧ (atSite s site u → u.tile.disp.running = true → u.tile.dbg.halted = false → partnRuns u u.tile.pid = true → u.tile.th.squash = 0 →
        injectDue u.tile = true → exec (.faultInjectDeferred site) s = .next (injectNow u))
    -- an injection inverts the bit that TGT, LOC and BIT name, sets DONE and clears ARM
    ∧ (let word := cwGet s.tile 0x208
       let loc := bitsOf word 10 30
       let bit := bitsOf word 0 10
       let t := (injectNow s).tile
       let mark (w k n : Nat) (m : BitVec w) : BitVec w := if n = k then m else 0
       s.tile.began = true → word.getLsbD 63 = true → word.getLsbD 58 = false →
       cwGet t 0x208 = setBits (setBits word 63 1 0) 57 1 1 ∧ t.mem = s.tile.mem
       ∧ (bitsOf word 60 3 = 0 → t.soft = if (loc, bit) ∈ s.tile.soft then s.tile.soft.erase (loc, bit) else (loc, bit) :: s.tile.soft)
       ∧ (bitsOf word 60 3 = 2 → loc ≠ 0 → ∀ k, cellGet t.th.x k = cellGet s.tile.th.x k ^^^ mark 64 loc k (BitVec.ofNat 64 (2 ^ bit)))
       ∧ (bitsOf word 60 3 = 3 → ∀ k, cellGet t.th.v k
          = cellGet s.tile.th.v k ^^^ mark 2048 (loc % 32) k (BitVec.ofNat 2048 (2 ^ (32 * (loc / 32) + bit))))
       ∧ (bitsOf word 60 3 = 4 → ∀ k, cellGet t.th.acc k
          = cellGet s.tile.th.acc k ^^^ mark _ ((64 * (loc % 2) + loc / 2 % 64) * 64 + loc / 128) k (BitVec.ofNat _ (2 ^ bit)))
       ∧ (bitsOf word 60 3 = 5 → ∀ k, cellGet t.th.latch k
          = cellGet s.tile.th.latch k ^^^ mark _ (64 * (loc % 4) + loc / 4) k (BitVec.ofNat _ (2 ^ bit))))
    -- a batch of 16 words, and then the header that tells its place; at the end of the sink it wraps or is full
    ∧ (let k := sinkOf u.tile (cwGet u.tile 0x120)
       let next := { k with words := k.words.drop 16, off := k.off + 64 }
       atSite s site u → u.tile.dbg.flush = [] → traceOn u.tile = true → 16 ≤ u.tile.dbg.queue.length → k.off + 64 ≤ sinkSize k →
       sinkRoom u k 0 = (v, true) → sinkWrite v k k.off ((u.tile.dbg.queue.take 16).map (fun y => leBytes y.toNat 4)).flatten = (some 0, w) →
       ∀ z, sinkWrite w next 0 (sinkHeader w.tile next) = (some 0, z) →
         let d := u.tile.dbg
         let t := updDbg z.tile (fun e => { e with queue := d.queue.drop 16, toff := d.toff + 64, twrap := d.twrap, tfull := d.tfull })
         exec (.traceBatchWrite site) s = .next { z with tile := t })
    ∧ (∀ k : Sink, sinkSize k < k.off + 64 → sinkNext k = if k.ctl.getLsbD 62 then (k.words.take 16, 64,
        { k with words := k.words.drop 16, off := 128, wrap := k.wrap + 1 }) else ([], 0, { k with full := true, words := [] }))
    ∧ (atSite s site u →
        let due := s.cyc / 1024 % 0x8000
        (u.tile.scrubbed ≠ s.cyc / 1024 + 1 → ∃ t, exec (.sramScrub site due) s = .next t ∧ t.tile.scrubbed = s.cyc / 1024 + 1
          ∧ t.quarry = (checkRead u ((upto 64).map (fun i => 64 * due + i)) 3 false).quarry
          ∧ t.tile.poison = (checkRead u ((upto 64).map (fun i => 64 * due + i)) 3 false).tile.poison
          ∧ t.tile.soft = (checkRead u ((upto 64).map (fun i => 64 * due + i)) 3 false).tile.soft)
        ∧ (u.tile.scrubbed = s.cyc / 1024 + 1 ∨ line ≠ due → exec (.sramScrub site line) s = .next u))
    -- the landings: a word takes the value that its access rules give it; a boundary outside its limits raises BOUND
    ∧ (let b := x.toNat / 2 ^ 12 % 2 ^ 9 * 4096
       (0x1000 ≤ b → b ≤ (cwGet s.tile 0x011).toNat → ∃ t, exec (.xbWrite x) s = .next t ∧ cwGet t.tile 0x010 = x &&& 0x1FF000)
       ∧ ((b < 0x1000 ∨ (cwGet s.tile 0x011).toNat < b) → exec (.xbWrite x) s = .next (takeTrap s 0x07 x s.tile.th.pc)))
    ∧ (∀ p ∈ [(Instr.statusWrite x, 0x000), (.rmodeWrite x, 0x001), (.rseedWrite x, 0x002), (.trcctlWrite x, 0x120)],
        ∃ t, exec p.1 s = .next t ∧ cwGet t.tile p.2 = cwWritten (cwGet s.tile p.2) p.2 x ∧ t.tile.mem = s.tile.mem ∧ t.rest = s.rest)
    -- a mailbox: an arrival counted in the cycle of the landing is added to the word
    ∧ (let k := 0x050 + n % 4
       let y := cwWritten (cwGet s.tile k) k x
       let late := mbOf s.tile k (hereCyc s)
       ∃ t, exec (.mailboxWrite n x) s = .next t ∧ t.tile.mem = s.tile.mem ∧ t.rest = s.rest
         ∧ cwGet t.tile k = setBits y 0 32 (y.toNat % 2 ^ 32 + late.1) ||| (if late.2 then 0x8000000000000000 else 0))

/-- The steps of the host and of the start (R211, R261, R406, R409 to R417, R419, R421, R422, R430, R431): a command runs while CMDSTAT.BUSY is 0, and one
that finds BUSY is refused with CODE 1. Failure codes, the report's place, the boundaries' numbers, the delivered image, the form of the start record and
what a start finds are the model's (log 16, 17, 41, 55, 56, 61, 67, 79), so are what a register stores of a value that it cannot hold (log 97), the bytes
that expander memory has after a start (log 2, 34), CODE 4 of a RESTORE that cannot read a page (log 95) and of an unparking that stops (log 96), what a
poisoned block gives to the manager (log 114), and a ring that is full (log 47). -/
def Obligations.HostAndStartSteps : Prop :=
  ∀ (s : State) (off n : Nat) (x : W64) (q : Partn),
    -- registers
    (off % 8 = 0 → s.access = none → off < 0x1000 → off ≠ 0x100 → ∀ y, w0Stored s off x = some y →
      exec (.hostRegisterWrite 0 off x) s = .next (w0Put s off y))
    ∧ (off % 8 = 0 → s.access = none → exec (.hostRegisterWrite 1 off x) s = .next (writeSlot s off x)
      ∧ exec (.hostRegisterWrite 2 off x) s = .next (writeW2 s off x))
    ∧ (off % 8 ≠ 0 ∨ s.access ≠ none → exec (.hostRegisterWrite n off x) s = .next { s with access := none })
    ∧ exec (.otailWrite x) s = .next { s with mgr := { s.mgr with otail := x.toNat % 1024 } }
    ∧ (mayPlace s = true → exec (.ctailWrite x) s = .next (ringPump 256 { s with mgr := { s.mgr with ctail := x.toNat % 256 } }))
    ∧ (let v := x.toNat % 2 ^ 16
       let z := w0Put s 0x308 (BitVec.ofNat 64 (if v = 0 then 0 else if v < 4000 then 4000 else if 13500 < v then 13500 else v))
       exec (.pcapWrite x) s = .next (powerState { z with mgr := { z.mgr with draws := [] } }))
    ∧ (let tail := (cellGet s.mgr.qtail n).toNat
       let m := { s.mgr with qtail := cellSet s.mgr.qtail n (x.setWidth 32), queue := s.mgr.queue ++ [(n, cellGet s.mgr.wslots (16 * n + tail % 16))] }
       n < 12 → x.toNat % 2 ^ 32 = (tail + 1) % 2 ^ 32 → (x.toNat % 2 ^ 32 + 2 ^ 32 - (cellGet s.mgr.qhead n).toNat) % 2 ^ 32 ≤ 16 →
       exec (.qtailWrite n x) s = .next (placementPass { s with mgr := m }))
    -- the aperture: a read answers the bytes, or all ones from a poisoned block; a write stores them, but not into a page that a bench under way
    -- shares, and one that covers a block clears its poison
    ∧ (let owner := (w0Get s 0x30).toNat / 2 ^ 48 % 2 ^ 8
       let a := qAddr owner off
       let keeps : Prop := ∀ p ∈ s.partns, ∀ y ∈ p.benches, y.st = 1 ∨ y.st = 2 → (owner, off / 2 ^ 14) ∉ y.shared
       (w0Get s 0x30).getLsbD 63 = false → s.qsoft = [] → s.qparity = [] →
       (off % 8 = 0 → off + 8 ≤ 0xB4000000 → s.access = none →
         (a / 64 ∉ s.qbad → ∃ t, exec (.w3Read off) s = .next t ∧ t.mgr.lastRead = BitVec.ofNat 512 (leNat (readBytes s.quarry a 8))
           ∧ t.quarry = s.quarry)
         ∧ (a / 64 ∈ s.qbad → ∃ t, exec (.w3Read off) s = .next t ∧ t.mgr.lastRead = 0xFFFFFFFFFFFFFFFF)
         ∧ (a / 64 ∉ s.qbad → keeps → ∃ t, exec (.w3Write off x) s = .next t ∧ readBytes t.quarry a 8 = leBytes x.toNat 8 ∧ t.mgr = s.mgr)
         ∧ (¬ keeps → exec (.w3Write off x) s = .next { s with access := none }))
       ∧ (∀ d : BitVec 512, off % 64 = 0 → off + 64 ≤ 0xB4000000 → s.access = some (64, d) → keeps → ∃ t, exec (.w3Write off x) s = .next t
         ∧ readBytes t.quarry a 64 = leBytes d.toNat 64 ∧ a / 64 ∉ t.qbad ∧ t.access = none))
    -- a command that finds another running
    ∧ (cmdBusy s = true → ∀ i ∈ [Instr.haltp, .resumep, .contain, .qroot, .qinval, .retire, .portpair, .gvtdom, .imgreg, .imgdel, .attest, .pset],
        exec i s = .next (w0Put s 0x128 (statWord true true 0 1)))
    -- the commands, each with its number in CMD: on a partition, and on their arguments
    ∧ (cmdBusy s = false →
        let run (op : Nat) : State := w0Put s 0x100 (BitVec.ofNat 64 op)
        let a0 := (arg0 s).toNat
        let a1 := (arg1 s).toNat
        (argPartn s = some q →
          exec .haltp s = .next (cmdDone (mapPart (run 0x01) q.pid (fun p => if p.halt = none then { p with halt := some s.cyc }
            else if p.resume ≠ none ∧ p.again = none then { p with again := some s.cyc } else p)))
          ∧ (q.halt ≠ none → exec .resumep s = .next (cmdDone (askResume (run 0x02) q.pid)))
          ∧ exec .contain s = .next (cmdDone (mapPart (run 0x03) q.pid
              (fun p => if p.st = .running ∨ p.st = .preempting then { p with st := .containing, cause := 0x102 } else p)))
          ∧ (isOptPartn q = true → q.rounds = 0 → exec .gvtdom s = .next (cmdDone (mapPart (run 0x08) q.pid (fun p => { p with domain := some (a1, (arg2 s).toNat) })))))
        ∧ (0 < a0 → a0 < 4096 → (∀ p ∈ s.partns, p.sites.isEmpty = true ∨ lQasid p.rec_ ≠ a0) →
            let m := (run 0x04).mgr
            exec .qroot s = .next (cmdDone { run 0x04 with mgr := { m with roots := cellSet m.roots a0 (rootOf (arg1 s)) } }))
        ∧ (0 < a0 → a0 < 4096 → ∃ t, exec .qinval s = .next t ∧ t.mgr.inval = some a0 ∧ cmdBusy t = true
            ∧ (∀ y ∈ t.walkers, y.qasid ≠ a0) ∧ ∀ y ∈ allTiles t, y.pid ≠ 0 → (cwGet y 0x023).toNat = a0 → y.eng.tlb = [])
        ∧ (s.mgr.retired.contains (128 * (a0 / 2 ^ 8 % 2 ^ 5) + a0 % 2 ^ 7) = false →
            exec .retire s = .next (cmdDone (markTile (run 0x06) (128 * (a0 / 2 ^ 8 % 2 ^ 5) + a0 % 2 ^ 7) 3)))
        ∧ (a0 < 16 → a1 < 2 ^ 16 → a1 ≠ modIdx s → s.mgr.portsOut.contains a0 = false → exec .portpair s
            = .next (cmdDone { run 0x07 with pairs := s.pairs.filter (fun p => !(p.1 = a0 && p.2.1 = a1)) ++ [(a0, a1, true, 0, 0)] }))
        ∧ (let owner := a1 / 2 ^ 48 % 2 ^ 8
           let at_ := a1 % 2 ^ 32
           let len := (arg2 s).toNat
           0 < a0 → a0 ≤ 64 → imageUsed s a0 = false →
           (∀ z, at_ + len ≤ 0xB4000000 → readBlocks (run 0x09) 0 false owner at_ len = (false, z) →
             (imageOk z (qAddr owner at_) len = true → exec .imgreg s
               = .next (cmdDone { z with mgr := { z.mgr with images := (a0, owner, at_, len) :: z.mgr.images.filter (fun p => p.1 ≠ a0) } }))
             ∧ (imageOk z (qAddr owner at_) len = false → exec .imgreg s = .next (w0Put z 0x128 (statWord false true 0 3))))
           ∧ (0xB4000000 < at_ + len → exec .imgreg s = .next (w0Put (run 0x09) 0x128 (statWord false true 0 3))))
        ∧ (let m := (run 0x0A).mgr
           imageUsed s a0 = false → s.mgr.images.any (fun p => p.1 = a0) = true →
           exec .imgdel s = .next (cmdDone { run 0x0A with mgr := { m with images := m.images.filter (fun p => p.1 ≠ a0) } }))
        ∧ (a1 = 32 → ∃ t, exec .attest s = .next t ∧ cmdBusy t = false ∧ t.mgr.report.take 16 = bytesOf ident ++ bytesOf Config.serial)
        ∧ (a0 = 3 → (∀ p ∈ s.partns, existsNow p = false) →
            exec .pset s = .next (cmdDone (w0Put { run 0x0C with tile := Tile.blank 0, rest := [], net := [], qheld := [], copies := [], cxl := [], pairs := [] } 0x300 3)))
        ∧ (a0 = 0 → w0Get s 0x300 ≠ 3 → exec .pset s = .next (cmdDone (run 0x0C))))
    -- QINVAL_ACKNOWLEDGE: no part that was translated before is still out
    ∧ (s.mgr.inval = some n → (∀ t ∈ allTiles s, t.eng.reqs = []) → exec .qinvalAcknowledge s = .next (cmdDone { s with mgr := { s.mgr with inval := none } }))
    -- the bench commands
    ∧ ((w2Get s 0x28).getLsbD 63 = false →
        let run (op : Nat) : State := w2Put s 0x10 (BitVec.ofNat 64 op)
        let i := (w2Get s 0x18).toNat
        exec .benchTake s = .next (takeBench (run 1) i (w2Get s 0x20).toNat)
        ∧ (∀ e, (w2Get s 0x20).getLsbD 63 = false → s.mgr.dir[i]? = some e → e.st = 5 →
            exec .benchRestore s = .next (restorePartn (run 2) e.rec_ e.bench)
            ∧ (benchWhole (run 2) e.bench = none → exec .benchRestore s = .next (benchStat (run 2) true 0 4)))
        ∧ (∀ e, s.mgr.dir[i]? = some e → e.st ≠ 0 → benchOf s e.pid e.bench.id = none →
            let m := (run 3).mgr
            exec .benchDrop s
              = .next (benchStat (dirWrite { run 3 with mgr := { m with dir := m.dir.set i { e with st := 0, kept := false } } } i) false 0 0))
        ∧ (partnOf s i ≠ none → ∃ t, exec .benchKeep s = .next t ∧ ∀ p ∈ t.partns, p.pid = i → p.keep = true))
    -- power
    -- (fewer than all 64 issue cycles above 100 °C or with more drawn than the cap; the draws of ten milliseconds stay at or below it on average)
    ∧ (let temp := (Config.temp s.free).toNat
       let cap := (w0Get s 0x308).toNat
       ∃ t, exec .issueBudgetUpdate s = .next t ∧ (w0Get t 0x318).toNat = temp ∧ t.mgr.budget ≤ 64
         ∧ (100 < temp ∨ (cap ≠ 0 ∧ cap < (w0Get t 0x310).toNat) → t.mgr.budget < 64) ∧ (cap = 0 → temp ≤ 100 → t.mgr.budget = 64)
         ∧ (cap ≠ 0 → (s.mgr.draws.take 9).sum ≤ 10 * cap → (w0Get t 0x310).toNat + (s.mgr.draws.take 9).sum ≤ 10 * cap)
         ∧ (if temp < 110 then t.tile = s.tile ∧ t.free = s.free + 1 else t.mgr.pfail = true))
    ∧ (∃ t, exec .thermalShutdown s = .next t ∧ t.mgr.pfail = true)
    -- the start uses the valid copy of the start record with the higher number, or none; SRAM, partitions, packets and time start again; the expander keeps its bytes; a start that fails says so in BOOTSTEP
    ∧ (∃ t, exec .startSequence s = .next t ∧ t.cap = s.cap ∧ t.cyc = 0 ∧ t.mgr.pfail = false ∧ t.mgr.starts = s.mgr.starts + 1)
    ∧ recordOf (poweredUp s).mgr = (match copyFound s.mgr.starts 0 (recordOf s.mgr), copyFound s.mgr.starts 1 s.mgr.older with
        | some y, some z => if y.recSeq < z.recSeq then z else y
        | some y, none => y
        | none, some z => z
        | none, none => StartRecord.blank)
    -- a copy is valid that reads as it was written, or whose CRC-32 agrees
    ∧ (∀ r : StartRecord,
        let bytes := recordBytes r ++ bytesOf (crc32 (recordBytes r))
        let got := Config.flashRead off n bytes
        let sound : Prop := 4 ≤ got.length ∧ leNat (got.drop (got.length - 4)) = (crc32 (got.take (got.length - 4))).toNat
        if got = bytes then copyFound off n r = some r else (copyFound off n r).isSome = true ↔ sound)
    ∧ (∃ z, exec .startSequence s = .next (if fails (poweredUp s) 1 0 then stopAt (logFailure (poweredUp s) 1 0 0) 1 0 0 else z))
    ∧ (∀ b, s.mgr.boot = some b → partnOf s s.mgr.bootPid = some q → q.st = .contained → q.sites = [] → ∃ t, exec .bootCheck s = .next t
        ∧ (w0Get t 0x18).getLsbD 63 = true ∧ (w0Get t 0x18).toNat / 2 ^ 8 % 2 ^ 8 = 4 ∧ t.mgr.boot = none ∧ ∀ y ∈ t.partns, y.pid ≠ s.mgr.bootPid)
    ∧ (∀ b, s.mgr.boot = some b → partnOf s s.mgr.bootPid = some q → q.st = .captured → ∃ t, exec .bootCheck s = .next t ∧ w0Get t 0x18 = 10 ∧ t.mgr.boot = none)
end

