-- ==== Sys2Proof/Laws/State.lean ====
section
/-! SUPPORT. One lemma for each field and each named update of the state, true by unfolding. -/

namespace Sys2Proof.Machine

open Sys2Proof

/-! ## The issue group -/

@[simp] theorem updIss_iss (s : State) (f : Issue → Issue) : (updIss s f).tile.iss = f s.tile.iss := rfl
@[simp] theorem updIss_rest (s : State) (f : Issue → Issue) : (updIss s f).rest = s.rest := rfl
@[simp] theorem updIss_cyc (s : State) (f : Issue → Issue) : (updIss s f).cyc = s.cyc := rfl
@[simp] theorem updIss_net (s : State) (f : Issue → Issue) : (updIss s f).net = s.net := rfl
@[simp] theorem updIss_outPort (s : State) (f : Issue → Issue) : (updIss s f).outPort = s.outPort := rfl
@[simp] theorem updIss_qheld (s : State) (f : Issue → Issue) : (updIss s f).qheld = s.qheld := rfl
@[simp] theorem updIss_quarry (s : State) (f : Issue → Issue) : (updIss s f).quarry = s.quarry := rfl
@[simp] theorem updIss_qbad (s : State) (f : Issue → Issue) : (updIss s f).qbad = s.qbad := rfl
@[simp] theorem updIss_qsoft (s : State) (f : Issue → Issue) : (updIss s f).qsoft = s.qsoft := rfl
@[simp] theorem updIss_qparity (s : State) (f : Issue → Issue) : (updIss s f).qparity = s.qparity := rfl
@[simp] theorem updIss_qrows (s : State) (f : Issue → Issue) : (updIss s f).qrows = s.qrows := rfl
@[simp] theorem updIss_qscrub (s : State) (f : Issue → Issue) : (updIss s f).qscrub = s.qscrub := rfl
@[simp] theorem updIss_walkers (s : State) (f : Issue → Issue) : (updIss s f).walkers = s.walkers := rfl
@[simp] theorem updIss_copies (s : State) (f : Issue → Issue) : (updIss s f).copies = s.copies := rfl
@[simp] theorem updIss_cxl (s : State) (f : Issue → Issue) : (updIss s f).cxl = s.cxl := rfl
@[simp] theorem updIss_cap (s : State) (f : Issue → Issue) : (updIss s f).cap = s.cap := rfl
@[simp] theorem updIss_partns (s : State) (f : Issue → Issue) : (updIss s f).partns = s.partns := rfl
@[simp] theorem updIss_pairs (s : State) (f : Issue → Issue) : (updIss s f).pairs = s.pairs := rfl
@[simp] theorem updIss_mgr (s : State) (f : Issue → Issue) : (updIss s f).mgr = s.mgr := rfl
@[simp] theorem updIss_agenda (s : State) (f : Issue → Issue) : (updIss s f).agenda = s.agenda := rfl
@[simp] theorem updIss_todo (s : State) (f : Issue → Issue) : (updIss s f).todo = s.todo := rfl
@[simp] theorem updIss_pick (s : State) (f : Issue → Issue) : (updIss s f).pick = s.pick := rfl
@[simp] theorem updIss_access (s : State) (f : Issue → Issue) : (updIss s f).access = s.access := rfl
@[simp] theorem updIss_free (s : State) (f : Issue → Issue) : (updIss s f).free = s.free := rfl
@[simp] theorem updIss_tile_site (s : State) (f : Issue → Issue) : (updIss s f).tile.site = s.tile.site := rfl
@[simp] theorem updIss_tile_pid (s : State) (f : Issue → Issue) : (updIss s f).tile.pid = s.tile.pid := rfl
@[simp] theorem updIss_tile_th (s : State) (f : Issue → Issue) : (updIss s f).tile.th = s.tile.th := rfl
@[simp] theorem updIss_tile_sup (s : State) (f : Issue → Issue) : (updIss s f).tile.sup = s.tile.sup := rfl
@[simp] theorem updIss_tile_cw (s : State) (f : Issue → Issue) : (updIss s f).tile.cw = s.tile.cw := rfl
@[simp] theorem updIss_tile_mem (s : State) (f : Issue → Issue) : (updIss s f).tile.mem = s.tile.mem := rfl
@[simp] theorem updIss_tile_poison (s : State) (f : Issue → Issue) : (updIss s f).tile.poison = s.tile.poison := rfl
@[simp] theorem updIss_tile_soft (s : State) (f : Issue → Issue) : (updIss s f).tile.soft = s.tile.soft := rfl
@[simp] theorem updIss_tile_stale (s : State) (f : Issue → Issue) : (updIss s f).tile.stale = s.tile.stale := rfl
@[simp] theorem updIss_tile_haloOld (s : State) (f : Issue → Issue) : (updIss s f).tile.haloOld = s.tile.haloOld := rfl
@[simp] theorem updIss_tile_mbLate (s : State) (f : Issue → Issue) : (updIss s f).tile.mbLate = s.tile.mbLate := rfl
@[simp] theorem updIss_tile_ltsb (s : State) (f : Issue → Issue) : (updIss s f).tile.ltsb = s.tile.ltsb := rfl
@[simp] theorem updIss_tile_frozen (s : State) (f : Issue → Issue) : (updIss s f).tile.frozen = s.tile.frozen := rfl
@[simp] theorem updIss_tile_asyncs (s : State) (f : Issue → Issue) : (updIss s f).tile.asyncs = s.tile.asyncs := rfl
@[simp] theorem updIss_tile_began (s : State) (f : Issue → Issue) : (updIss s f).tile.began = s.tile.began := rfl
@[simp] theorem updIss_tile_hold64 (s : State) (f : Issue → Issue) : (updIss s f).tile.hold64 = s.tile.hold64 := rfl
@[simp] theorem updIss_tile_idle (s : State) (f : Issue → Issue) : (updIss s f).tile.idle = s.tile.idle := rfl
@[simp] theorem updIss_tile_stall (s : State) (f : Issue → Issue) : (updIss s f).tile.stall = s.tile.stall := rfl
@[simp] theorem updIss_tile_scrubbed (s : State) (f : Issue → Issue) : (updIss s f).tile.scrubbed = s.tile.scrubbed := rfl
@[simp] theorem updIss_tile_budgetAt (s : State) (f : Issue → Issue) : (updIss s f).tile.budgetAt = s.tile.budgetAt := rfl
@[simp] theorem updIss_tile_budgetUsed (s : State) (f : Issue → Issue) : (updIss s f).tile.budgetUsed = s.tile.budgetUsed := rfl
@[simp] theorem updIss_tile_eng (s : State) (f : Issue → Issue) : (updIss s f).tile.eng = s.tile.eng := rfl
@[simp] theorem updIss_tile_rt (s : State) (f : Issue → Issue) : (updIss s f).tile.rt = s.tile.rt := rfl
@[simp] theorem updIss_tile_disp (s : State) (f : Issue → Issue) : (updIss s f).tile.disp = s.tile.disp := rfl
@[simp] theorem updIss_tile_vt (s : State) (f : Issue → Issue) : (updIss s f).tile.vt = s.tile.vt := rfl
@[simp] theorem updIss_tile_bench (s : State) (f : Issue → Issue) : (updIss s f).tile.bench = s.tile.bench := rfl
@[simp] theorem updIss_tile_dbg (s : State) (f : Issue → Issue) : (updIss s f).tile.dbg = s.tile.dbg := rfl

@[simp] theorem addCause_iss_addr (s : State) (code : Nat) (v : W64) : (addCause s code v).tile.iss.addr = s.tile.iss.addr := rfl
@[simp] theorem addCause_iss_words (s : State) (code : Nat) (v : W64) : (addCause s code v).tile.iss.words = s.tile.iss.words := rfl
@[simp] theorem addCause_iss_slot (s : State) (code : Nat) (v : W64) : (addCause s code v).tile.iss.slot = s.tile.iss.slot := rfl
@[simp] theorem addCause_iss_causes (s : State) (code : Nat) (v : W64) : (addCause s code v).tile.iss.causes = s.tile.iss.causes ++ [(code, s.tile.iss.slot, v)] := rfl
@[simp] theorem addCause_iss_flights (s : State) (code : Nat) (v : W64) : (addCause s code v).tile.iss.flights = s.tile.iss.flights := rfl
@[simp] theorem addCause_iss_stores (s : State) (code : Nat) (v : W64) : (addCause s code v).tile.iss.stores = s.tile.iss.stores := rfl
@[simp] theorem addCause_iss_whole (s : State) (code : Nat) (v : W64) : (addCause s code v).tile.iss.whole = s.tile.iss.whole := rfl
@[simp] theorem addCause_iss_codes (s : State) (code : Nat) (v : W64) : (addCause s code v).tile.iss.codes = s.tile.iss.codes := rfl
@[simp] theorem addCause_iss_ops (s : State) (code : Nat) (v : W64) : (addCause s code v).tile.iss.ops = s.tile.iss.ops := rfl
@[simp] theorem addCause_iss_spans (s : State) (code : Nat) (v : W64) : (addCause s code v).tile.iss.spans = s.tile.iss.spans := rfl
@[simp] theorem addCause_iss_jump (s : State) (code : Nat) (v : W64) : (addCause s code v).tile.iss.jump = s.tile.iss.jump := rfl
@[simp] theorem addCause_iss_loops (s : State) (code : Nat) (v : W64) : (addCause s code v).tile.iss.loops = s.tile.iss.loops := rfl
@[simp] theorem addCause_iss_lpop (s : State) (code : Nat) (v : W64) : (addCause s code v).tile.iss.lpop = s.tile.iss.lpop := rfl
@[simp] theorem addCause_iss_sig (s : State) (code : Nat) (v : W64) : (addCause s code v).tile.iss.sig = s.tile.iss.sig := rfl
@[simp] theorem addCause_iss_pfx (s : State) (code : Nat) (v : W64) : (addCause s code v).tile.iss.pfx = s.tile.iss.pfx := rfl
@[simp] theorem addCause_iss_rows (s : State) (code : Nat) (v : W64) : (addCause s code v).tile.iss.rows = s.tile.iss.rows := rfl
@[simp] theorem addCause_iss_latches (s : State) (code : Nat) (v : W64) : (addCause s code v).tile.iss.latches = s.tile.iss.latches := rfl
@[simp] theorem addCause_iss_seed (s : State) (code : Nat) (v : W64) : (addCause s code v).tile.iss.seed = s.tile.iss.seed := rfl
@[simp] theorem addCause_iss_completing (s : State) (code : Nat) (v : W64) : (addCause s code v).tile.iss.completing = s.tile.iss.completing := rfl
@[simp] theorem addCause_iss_sys (s : State) (code : Nat) (v : W64) : (addCause s code v).tile.iss.sys = s.tile.iss.sys := rfl
@[simp] theorem addCause_iss_ltLoaded (s : State) (code : Nat) (v : W64) : (addCause s code v).tile.iss.ltLoaded = s.tile.iss.ltLoaded := rfl
@[simp] theorem addCause_iss_toks (s : State) (code : Nat) (v : W64) : (addCause s code v).tile.iss.toks = s.tile.iss.toks := rfl
@[simp] theorem addCause_iss_vsave (s : State) (code : Nat) (v : W64) : (addCause s code v).tile.iss.vsave = s.tile.iss.vsave := rfl
@[simp] theorem addCause_iss_mgset (s : State) (code : Nat) (v : W64) : (addCause s code v).tile.iss.mgset = s.tile.iss.mgset := rfl
@[simp] theorem addCause_iss_spawn (s : State) (code : Nat) (v : W64) : (addCause s code v).tile.iss.spawn = s.tile.iss.spawn := rfl
@[simp] theorem addCause_iss_popped (s : State) (code : Nat) (v : W64) : (addCause s code v).tile.iss.popped = s.tile.iss.popped := rfl
@[simp] theorem addCause_iss_quiet (s : State) (code : Nat) (v : W64) : (addCause s code v).tile.iss.quiet = s.tile.iss.quiet := rfl
@[simp] theorem addCause_iss_event (s : State) (code : Nat) (v : W64) : (addCause s code v).tile.iss.event = s.tile.iss.event := rfl
@[simp] theorem addCause_iss_hold64 (s : State) (code : Nat) (v : W64) : (addCause s code v).tile.iss.hold64 = s.tile.iss.hold64 := rfl
@[simp] theorem addCause_iss_reads (s : State) (code : Nat) (v : W64) : (addCause s code v).tile.iss.reads = s.tile.iss.reads := rfl
@[simp] theorem addCause_rest (s : State) (code : Nat) (v : W64) : (addCause s code v).rest = s.rest := rfl
@[simp] theorem addCause_cyc (s : State) (code : Nat) (v : W64) : (addCause s code v).cyc = s.cyc := rfl
@[simp] theorem addCause_net (s : State) (code : Nat) (v : W64) : (addCause s code v).net = s.net := rfl
@[simp] theorem addCause_outPort (s : State) (code : Nat) (v : W64) : (addCause s code v).outPort = s.outPort := rfl
@[simp] theorem addCause_qheld (s : State) (code : Nat) (v : W64) : (addCause s code v).qheld = s.qheld := rfl
@[simp] theorem addCause_quarry (s : State) (code : Nat) (v : W64) : (addCause s code v).quarry = s.quarry := rfl
@[simp] theorem addCause_qbad (s : State) (code : Nat) (v : W64) : (addCause s code v).qbad = s.qbad := rfl
@[simp] theorem addCause_qsoft (s : State) (code : Nat) (v : W64) : (addCause s code v).qsoft = s.qsoft := rfl
@[simp] theorem addCause_qparity (s : State) (code : Nat) (v : W64) : (addCause s code v).qparity = s.qparity := rfl
@[simp] theorem addCause_qrows (s : State) (code : Nat) (v : W64) : (addCause s code v).qrows = s.qrows := rfl
@[simp] theorem addCause_qscrub (s : State) (code : Nat) (v : W64) : (addCause s code v).qscrub = s.qscrub := rfl
@[simp] theorem addCause_walkers (s : State) (code : Nat) (v : W64) : (addCause s code v).walkers = s.walkers := rfl
@[simp] theorem addCause_copies (s : State) (code : Nat) (v : W64) : (addCause s code v).copies = s.copies := rfl
@[simp] theorem addCause_cxl (s : State) (code : Nat) (v : W64) : (addCause s code v).cxl = s.cxl := rfl
@[simp] theorem addCause_cap (s : State) (code : Nat) (v : W64) : (addCause s code v).cap = s.cap := rfl
@[simp] theorem addCause_partns (s : State) (code : Nat) (v : W64) : (addCause s code v).partns = s.partns := rfl
@[simp] theorem addCause_pairs (s : State) (code : Nat) (v : W64) : (addCause s code v).pairs = s.pairs := rfl
@[simp] theorem addCause_mgr (s : State) (code : Nat) (v : W64) : (addCause s code v).mgr = s.mgr := rfl
@[simp] theorem addCause_agenda (s : State) (code : Nat) (v : W64) : (addCause s code v).agenda = s.agenda := rfl
@[simp] theorem addCause_todo (s : State) (code : Nat) (v : W64) : (addCause s code v).todo = s.todo := rfl
@[simp] theorem addCause_pick (s : State) (code : Nat) (v : W64) : (addCause s code v).pick = s.pick := rfl
@[simp] theorem addCause_access (s : State) (code : Nat) (v : W64) : (addCause s code v).access = s.access := rfl
@[simp] theorem addCause_free (s : State) (code : Nat) (v : W64) : (addCause s code v).free = s.free := rfl
@[simp] theorem addCause_tile_site (s : State) (code : Nat) (v : W64) : (addCause s code v).tile.site = s.tile.site := rfl
@[simp] theorem addCause_tile_pid (s : State) (code : Nat) (v : W64) : (addCause s code v).tile.pid = s.tile.pid := rfl
@[simp] theorem addCause_tile_th (s : State) (code : Nat) (v : W64) : (addCause s code v).tile.th = s.tile.th := rfl
@[simp] theorem addCause_tile_sup (s : State) (code : Nat) (v : W64) : (addCause s code v).tile.sup = s.tile.sup := rfl
@[simp] theorem addCause_tile_cw (s : State) (code : Nat) (v : W64) : (addCause s code v).tile.cw = s.tile.cw := rfl
@[simp] theorem addCause_tile_mem (s : State) (code : Nat) (v : W64) : (addCause s code v).tile.mem = s.tile.mem := rfl
@[simp] theorem addCause_tile_poison (s : State) (code : Nat) (v : W64) : (addCause s code v).tile.poison = s.tile.poison := rfl
@[simp] theorem addCause_tile_soft (s : State) (code : Nat) (v : W64) : (addCause s code v).tile.soft = s.tile.soft := rfl
@[simp] theorem addCause_tile_stale (s : State) (code : Nat) (v : W64) : (addCause s code v).tile.stale = s.tile.stale := rfl
@[simp] theorem addCause_tile_haloOld (s : State) (code : Nat) (v : W64) : (addCause s code v).tile.haloOld = s.tile.haloOld := rfl
@[simp] theorem addCause_tile_mbLate (s : State) (code : Nat) (v : W64) : (addCause s code v).tile.mbLate = s.tile.mbLate := rfl
@[simp] theorem addCause_tile_ltsb (s : State) (code : Nat) (v : W64) : (addCause s code v).tile.ltsb = s.tile.ltsb := rfl
@[simp] theorem addCause_tile_frozen (s : State) (code : Nat) (v : W64) : (addCause s code v).tile.frozen = s.tile.frozen := rfl
@[simp] theorem addCause_tile_asyncs (s : State) (code : Nat) (v : W64) : (addCause s code v).tile.asyncs = s.tile.asyncs := rfl
@[simp] theorem addCause_tile_began (s : State) (code : Nat) (v : W64) : (addCause s code v).tile.began = s.tile.began := rfl
@[simp] theorem addCause_tile_hold64 (s : State) (code : Nat) (v : W64) : (addCause s code v).tile.hold64 = s.tile.hold64 := rfl
@[simp] theorem addCause_tile_idle (s : State) (code : Nat) (v : W64) : (addCause s code v).tile.idle = s.tile.idle := rfl
@[simp] theorem addCause_tile_stall (s : State) (code : Nat) (v : W64) : (addCause s code v).tile.stall = s.tile.stall := rfl
@[simp] theorem addCause_tile_scrubbed (s : State) (code : Nat) (v : W64) : (addCause s code v).tile.scrubbed = s.tile.scrubbed := rfl
@[simp] theorem addCause_tile_budgetAt (s : State) (code : Nat) (v : W64) : (addCause s code v).tile.budgetAt = s.tile.budgetAt := rfl
@[simp] theorem addCause_tile_budgetUsed (s : State) (code : Nat) (v : W64) : (addCause s code v).tile.budgetUsed = s.tile.budgetUsed := rfl
@[simp] theorem addCause_tile_eng (s : State) (code : Nat) (v : W64) : (addCause s code v).tile.eng = s.tile.eng := rfl
@[simp] theorem addCause_tile_rt (s : State) (code : Nat) (v : W64) : (addCause s code v).tile.rt = s.tile.rt := rfl
@[simp] theorem addCause_tile_disp (s : State) (code : Nat) (v : W64) : (addCause s code v).tile.disp = s.tile.disp := rfl
@[simp] theorem addCause_tile_vt (s : State) (code : Nat) (v : W64) : (addCause s code v).tile.vt = s.tile.vt := rfl
@[simp] theorem addCause_tile_bench (s : State) (code : Nat) (v : W64) : (addCause s code v).tile.bench = s.tile.bench := rfl
@[simp] theorem addCause_tile_dbg (s : State) (code : Nat) (v : W64) : (addCause s code v).tile.dbg = s.tile.dbg := rfl

@[simp] theorem addFlight_iss_addr (s : State) (n : Nat) (u : Bool) (r : Res) : (addFlight s n u r).tile.iss.addr = s.tile.iss.addr := rfl
@[simp] theorem addFlight_iss_words (s : State) (n : Nat) (u : Bool) (r : Res) : (addFlight s n u r).tile.iss.words = s.tile.iss.words := rfl
@[simp] theorem addFlight_iss_slot (s : State) (n : Nat) (u : Bool) (r : Res) : (addFlight s n u r).tile.iss.slot = s.tile.iss.slot := rfl
@[simp] theorem addFlight_iss_causes (s : State) (n : Nat) (u : Bool) (r : Res) : (addFlight s n u r).tile.iss.causes = s.tile.iss.causes := rfl
@[simp] theorem addFlight_iss_flights (s : State) (n : Nat) (u : Bool) (r : Res) : (addFlight s n u r).tile.iss.flights = s.tile.iss.flights ++ [(s.tile.iss.slot, ⟨n, u, r⟩)] := rfl
@[simp] theorem addFlight_iss_stores (s : State) (n : Nat) (u : Bool) (r : Res) : (addFlight s n u r).tile.iss.stores = s.tile.iss.stores := rfl
@[simp] theorem addFlight_iss_whole (s : State) (n : Nat) (u : Bool) (r : Res) : (addFlight s n u r).tile.iss.whole = s.tile.iss.whole := rfl
@[simp] theorem addFlight_iss_codes (s : State) (n : Nat) (u : Bool) (r : Res) : (addFlight s n u r).tile.iss.codes = s.tile.iss.codes := rfl
@[simp] theorem addFlight_iss_ops (s : State) (n : Nat) (u : Bool) (r : Res) : (addFlight s n u r).tile.iss.ops = s.tile.iss.ops := rfl
@[simp] theorem addFlight_iss_spans (s : State) (n : Nat) (u : Bool) (r : Res) : (addFlight s n u r).tile.iss.spans = s.tile.iss.spans := rfl
@[simp] theorem addFlight_iss_jump (s : State) (n : Nat) (u : Bool) (r : Res) : (addFlight s n u r).tile.iss.jump = s.tile.iss.jump := rfl
@[simp] theorem addFlight_iss_loops (s : State) (n : Nat) (u : Bool) (r : Res) : (addFlight s n u r).tile.iss.loops = s.tile.iss.loops := rfl
@[simp] theorem addFlight_iss_lpop (s : State) (n : Nat) (u : Bool) (r : Res) : (addFlight s n u r).tile.iss.lpop = s.tile.iss.lpop := rfl
@[simp] theorem addFlight_iss_sig (s : State) (n : Nat) (u : Bool) (r : Res) : (addFlight s n u r).tile.iss.sig = s.tile.iss.sig := rfl
@[simp] theorem addFlight_iss_pfx (s : State) (n : Nat) (u : Bool) (r : Res) : (addFlight s n u r).tile.iss.pfx = s.tile.iss.pfx := rfl
@[simp] theorem addFlight_iss_rows (s : State) (n : Nat) (u : Bool) (r : Res) : (addFlight s n u r).tile.iss.rows = s.tile.iss.rows := rfl
@[simp] theorem addFlight_iss_latches (s : State) (n : Nat) (u : Bool) (r : Res) : (addFlight s n u r).tile.iss.latches = s.tile.iss.latches := rfl
@[simp] theorem addFlight_iss_seed (s : State) (n : Nat) (u : Bool) (r : Res) : (addFlight s n u r).tile.iss.seed = s.tile.iss.seed := rfl
@[simp] theorem addFlight_iss_completing (s : State) (n : Nat) (u : Bool) (r : Res) : (addFlight s n u r).tile.iss.completing = s.tile.iss.completing := rfl
@[simp] theorem addFlight_iss_sys (s : State) (n : Nat) (u : Bool) (r : Res) : (addFlight s n u r).tile.iss.sys = s.tile.iss.sys := rfl
@[simp] theorem addFlight_iss_ltLoaded (s : State) (n : Nat) (u : Bool) (r : Res) : (addFlight s n u r).tile.iss.ltLoaded = s.tile.iss.ltLoaded := rfl
@[simp] theorem addFlight_iss_toks (s : State) (n : Nat) (u : Bool) (r : Res) : (addFlight s n u r).tile.iss.toks = s.tile.iss.toks := rfl
@[simp] theorem addFlight_iss_vsave (s : State) (n : Nat) (u : Bool) (r : Res) : (addFlight s n u r).tile.iss.vsave = s.tile.iss.vsave := rfl
@[simp] theorem addFlight_iss_mgset (s : State) (n : Nat) (u : Bool) (r : Res) : (addFlight s n u r).tile.iss.mgset = s.tile.iss.mgset := rfl
@[simp] theorem addFlight_iss_spawn (s : State) (n : Nat) (u : Bool) (r : Res) : (addFlight s n u r).tile.iss.spawn = s.tile.iss.spawn := rfl
@[simp] theorem addFlight_iss_popped (s : State) (n : Nat) (u : Bool) (r : Res) : (addFlight s n u r).tile.iss.popped = s.tile.iss.popped := rfl
@[simp] theorem addFlight_iss_quiet (s : State) (n : Nat) (u : Bool) (r : Res) : (addFlight s n u r).tile.iss.quiet = s.tile.iss.quiet := rfl
@[simp] theorem addFlight_iss_event (s : State) (n : Nat) (u : Bool) (r : Res) : (addFlight s n u r).tile.iss.event = s.tile.iss.event := rfl
@[simp] theorem addFlight_iss_hold64 (s : State) (n : Nat) (u : Bool) (r : Res) : (addFlight s n u r).tile.iss.hold64 = s.tile.iss.hold64 := rfl
@[simp] theorem addFlight_iss_reads (s : State) (n : Nat) (u : Bool) (r : Res) : (addFlight s n u r).tile.iss.reads = s.tile.iss.reads := rfl
@[simp] theorem addFlight_rest (s : State) (n : Nat) (u : Bool) (r : Res) : (addFlight s n u r).rest = s.rest := rfl
@[simp] theorem addFlight_cyc (s : State) (n : Nat) (u : Bool) (r : Res) : (addFlight s n u r).cyc = s.cyc := rfl
@[simp] theorem addFlight_net (s : State) (n : Nat) (u : Bool) (r : Res) : (addFlight s n u r).net = s.net := rfl
@[simp] theorem addFlight_outPort (s : State) (n : Nat) (u : Bool) (r : Res) : (addFlight s n u r).outPort = s.outPort := rfl
@[simp] theorem addFlight_qheld (s : State) (n : Nat) (u : Bool) (r : Res) : (addFlight s n u r).qheld = s.qheld := rfl
@[simp] theorem addFlight_quarry (s : State) (n : Nat) (u : Bool) (r : Res) : (addFlight s n u r).quarry = s.quarry := rfl
@[simp] theorem addFlight_qbad (s : State) (n : Nat) (u : Bool) (r : Res) : (addFlight s n u r).qbad = s.qbad := rfl
@[simp] theorem addFlight_qsoft (s : State) (n : Nat) (u : Bool) (r : Res) : (addFlight s n u r).qsoft = s.qsoft := rfl
@[simp] theorem addFlight_qparity (s : State) (n : Nat) (u : Bool) (r : Res) : (addFlight s n u r).qparity = s.qparity := rfl
@[simp] theorem addFlight_qrows (s : State) (n : Nat) (u : Bool) (r : Res) : (addFlight s n u r).qrows = s.qrows := rfl
@[simp] theorem addFlight_qscrub (s : State) (n : Nat) (u : Bool) (r : Res) : (addFlight s n u r).qscrub = s.qscrub := rfl
@[simp] theorem addFlight_walkers (s : State) (n : Nat) (u : Bool) (r : Res) : (addFlight s n u r).walkers = s.walkers := rfl
@[simp] theorem addFlight_copies (s : State) (n : Nat) (u : Bool) (r : Res) : (addFlight s n u r).copies = s.copies := rfl
@[simp] theorem addFlight_cxl (s : State) (n : Nat) (u : Bool) (r : Res) : (addFlight s n u r).cxl = s.cxl := rfl
@[simp] theorem addFlight_cap (s : State) (n : Nat) (u : Bool) (r : Res) : (addFlight s n u r).cap = s.cap := rfl
@[simp] theorem addFlight_partns (s : State) (n : Nat) (u : Bool) (r : Res) : (addFlight s n u r).partns = s.partns := rfl
@[simp] theorem addFlight_pairs (s : State) (n : Nat) (u : Bool) (r : Res) : (addFlight s n u r).pairs = s.pairs := rfl
@[simp] theorem addFlight_mgr (s : State) (n : Nat) (u : Bool) (r : Res) : (addFlight s n u r).mgr = s.mgr := rfl
@[simp] theorem addFlight_agenda (s : State) (n : Nat) (u : Bool) (r : Res) : (addFlight s n u r).agenda = s.agenda := rfl
@[simp] theorem addFlight_todo (s : State) (n : Nat) (u : Bool) (r : Res) : (addFlight s n u r).todo = s.todo := rfl
@[simp] theorem addFlight_pick (s : State) (n : Nat) (u : Bool) (r : Res) : (addFlight s n u r).pick = s.pick := rfl
@[simp] theorem addFlight_access (s : State) (n : Nat) (u : Bool) (r : Res) : (addFlight s n u r).access = s.access := rfl
@[simp] theorem addFlight_free (s : State) (n : Nat) (u : Bool) (r : Res) : (addFlight s n u r).free = s.free := rfl
@[simp] theorem addFlight_tile_site (s : State) (n : Nat) (u : Bool) (r : Res) : (addFlight s n u r).tile.site = s.tile.site := rfl
@[simp] theorem addFlight_tile_pid (s : State) (n : Nat) (u : Bool) (r : Res) : (addFlight s n u r).tile.pid = s.tile.pid := rfl
@[simp] theorem addFlight_tile_th (s : State) (n : Nat) (u : Bool) (r : Res) : (addFlight s n u r).tile.th = s.tile.th := rfl
@[simp] theorem addFlight_tile_sup (s : State) (n : Nat) (u : Bool) (r : Res) : (addFlight s n u r).tile.sup = s.tile.sup := rfl
@[simp] theorem addFlight_tile_cw (s : State) (n : Nat) (u : Bool) (r : Res) : (addFlight s n u r).tile.cw = s.tile.cw := rfl
@[simp] theorem addFlight_tile_mem (s : State) (n : Nat) (u : Bool) (r : Res) : (addFlight s n u r).tile.mem = s.tile.mem := rfl
@[simp] theorem addFlight_tile_poison (s : State) (n : Nat) (u : Bool) (r : Res) : (addFlight s n u r).tile.poison = s.tile.poison := rfl
@[simp] theorem addFlight_tile_soft (s : State) (n : Nat) (u : Bool) (r : Res) : (addFlight s n u r).tile.soft = s.tile.soft := rfl
@[simp] theorem addFlight_tile_stale (s : State) (n : Nat) (u : Bool) (r : Res) : (addFlight s n u r).tile.stale = s.tile.stale := rfl
@[simp] theorem addFlight_tile_haloOld (s : State) (n : Nat) (u : Bool) (r : Res) : (addFlight s n u r).tile.haloOld = s.tile.haloOld := rfl
@[simp] theorem addFlight_tile_mbLate (s : State) (n : Nat) (u : Bool) (r : Res) : (addFlight s n u r).tile.mbLate = s.tile.mbLate := rfl
@[simp] theorem addFlight_tile_ltsb (s : State) (n : Nat) (u : Bool) (r : Res) : (addFlight s n u r).tile.ltsb = s.tile.ltsb := rfl
@[simp] theorem addFlight_tile_frozen (s : State) (n : Nat) (u : Bool) (r : Res) : (addFlight s n u r).tile.frozen = s.tile.frozen := rfl
@[simp] theorem addFlight_tile_asyncs (s : State) (n : Nat) (u : Bool) (r : Res) : (addFlight s n u r).tile.asyncs = s.tile.asyncs := rfl
@[simp] theorem addFlight_tile_began (s : State) (n : Nat) (u : Bool) (r : Res) : (addFlight s n u r).tile.began = s.tile.began := rfl
@[simp] theorem addFlight_tile_hold64 (s : State) (n : Nat) (u : Bool) (r : Res) : (addFlight s n u r).tile.hold64 = s.tile.hold64 := rfl
@[simp] theorem addFlight_tile_idle (s : State) (n : Nat) (u : Bool) (r : Res) : (addFlight s n u r).tile.idle = s.tile.idle := rfl
@[simp] theorem addFlight_tile_stall (s : State) (n : Nat) (u : Bool) (r : Res) : (addFlight s n u r).tile.stall = s.tile.stall := rfl
@[simp] theorem addFlight_tile_scrubbed (s : State) (n : Nat) (u : Bool) (r : Res) : (addFlight s n u r).tile.scrubbed = s.tile.scrubbed := rfl
@[simp] theorem addFlight_tile_budgetAt (s : State) (n : Nat) (u : Bool) (r : Res) : (addFlight s n u r).tile.budgetAt = s.tile.budgetAt := rfl
@[simp] theorem addFlight_tile_budgetUsed (s : State) (n : Nat) (u : Bool) (r : Res) : (addFlight s n u r).tile.budgetUsed = s.tile.budgetUsed := rfl
@[simp] theorem addFlight_tile_eng (s : State) (n : Nat) (u : Bool) (r : Res) : (addFlight s n u r).tile.eng = s.tile.eng := rfl
@[simp] theorem addFlight_tile_rt (s : State) (n : Nat) (u : Bool) (r : Res) : (addFlight s n u r).tile.rt = s.tile.rt := rfl
@[simp] theorem addFlight_tile_disp (s : State) (n : Nat) (u : Bool) (r : Res) : (addFlight s n u r).tile.disp = s.tile.disp := rfl
@[simp] theorem addFlight_tile_vt (s : State) (n : Nat) (u : Bool) (r : Res) : (addFlight s n u r).tile.vt = s.tile.vt := rfl
@[simp] theorem addFlight_tile_bench (s : State) (n : Nat) (u : Bool) (r : Res) : (addFlight s n u r).tile.bench = s.tile.bench := rfl
@[simp] theorem addFlight_tile_dbg (s : State) (n : Nat) (u : Bool) (r : Res) : (addFlight s n u r).tile.dbg = s.tile.dbg := rfl

@[simp] theorem addStores_iss_addr (s : State) (bs : List (Nat × Byte)) : (addStores s bs).tile.iss.addr = s.tile.iss.addr := rfl
@[simp] theorem addStores_iss_words (s : State) (bs : List (Nat × Byte)) : (addStores s bs).tile.iss.words = s.tile.iss.words := rfl
@[simp] theorem addStores_iss_slot (s : State) (bs : List (Nat × Byte)) : (addStores s bs).tile.iss.slot = s.tile.iss.slot := rfl
@[simp] theorem addStores_iss_causes (s : State) (bs : List (Nat × Byte)) : (addStores s bs).tile.iss.causes = s.tile.iss.causes := rfl
@[simp] theorem addStores_iss_flights (s : State) (bs : List (Nat × Byte)) : (addStores s bs).tile.iss.flights = s.tile.iss.flights := rfl
@[simp] theorem addStores_iss_stores (s : State) (bs : List (Nat × Byte)) : (addStores s bs).tile.iss.stores = s.tile.iss.stores ++ bs := rfl
@[simp] theorem addStores_iss_whole (s : State) (bs : List (Nat × Byte)) : (addStores s bs).tile.iss.whole = s.tile.iss.whole ++ wholeWords bs := rfl
@[simp] theorem addStores_iss_codes (s : State) (bs : List (Nat × Byte)) : (addStores s bs).tile.iss.codes = s.tile.iss.codes := rfl
@[simp] theorem addStores_iss_ops (s : State) (bs : List (Nat × Byte)) : (addStores s bs).tile.iss.ops = s.tile.iss.ops := rfl
@[simp] theorem addStores_iss_spans (s : State) (bs : List (Nat × Byte)) : (addStores s bs).tile.iss.spans = s.tile.iss.spans := rfl
@[simp] theorem addStores_iss_jump (s : State) (bs : List (Nat × Byte)) : (addStores s bs).tile.iss.jump = s.tile.iss.jump := rfl
@[simp] theorem addStores_iss_loops (s : State) (bs : List (Nat × Byte)) : (addStores s bs).tile.iss.loops = s.tile.iss.loops := rfl
@[simp] theorem addStores_iss_lpop (s : State) (bs : List (Nat × Byte)) : (addStores s bs).tile.iss.lpop = s.tile.iss.lpop := rfl
@[simp] theorem addStores_iss_sig (s : State) (bs : List (Nat × Byte)) : (addStores s bs).tile.iss.sig = s.tile.iss.sig := rfl
@[simp] theorem addStores_iss_pfx (s : State) (bs : List (Nat × Byte)) : (addStores s bs).tile.iss.pfx = s.tile.iss.pfx := rfl
@[simp] theorem addStores_iss_rows (s : State) (bs : List (Nat × Byte)) : (addStores s bs).tile.iss.rows = s.tile.iss.rows := rfl
@[simp] theorem addStores_iss_latches (s : State) (bs : List (Nat × Byte)) : (addStores s bs).tile.iss.latches = s.tile.iss.latches := rfl
@[simp] theorem addStores_iss_seed (s : State) (bs : List (Nat × Byte)) : (addStores s bs).tile.iss.seed = s.tile.iss.seed := rfl
@[simp] theorem addStores_iss_completing (s : State) (bs : List (Nat × Byte)) : (addStores s bs).tile.iss.completing = s.tile.iss.completing := rfl
@[simp] theorem addStores_iss_sys (s : State) (bs : List (Nat × Byte)) : (addStores s bs).tile.iss.sys = s.tile.iss.sys := rfl
@[simp] theorem addStores_iss_ltLoaded (s : State) (bs : List (Nat × Byte)) : (addStores s bs).tile.iss.ltLoaded = s.tile.iss.ltLoaded := rfl
@[simp] theorem addStores_iss_toks (s : State) (bs : List (Nat × Byte)) : (addStores s bs).tile.iss.toks = s.tile.iss.toks := rfl
@[simp] theorem addStores_iss_vsave (s : State) (bs : List (Nat × Byte)) : (addStores s bs).tile.iss.vsave = s.tile.iss.vsave := rfl
@[simp] theorem addStores_iss_mgset (s : State) (bs : List (Nat × Byte)) : (addStores s bs).tile.iss.mgset = s.tile.iss.mgset := rfl
@[simp] theorem addStores_iss_spawn (s : State) (bs : List (Nat × Byte)) : (addStores s bs).tile.iss.spawn = s.tile.iss.spawn := rfl
@[simp] theorem addStores_iss_popped (s : State) (bs : List (Nat × Byte)) : (addStores s bs).tile.iss.popped = s.tile.iss.popped := rfl
@[simp] theorem addStores_iss_quiet (s : State) (bs : List (Nat × Byte)) : (addStores s bs).tile.iss.quiet = s.tile.iss.quiet := rfl
@[simp] theorem addStores_iss_event (s : State) (bs : List (Nat × Byte)) : (addStores s bs).tile.iss.event = s.tile.iss.event := rfl
@[simp] theorem addStores_iss_hold64 (s : State) (bs : List (Nat × Byte)) : (addStores s bs).tile.iss.hold64 = s.tile.iss.hold64 := rfl
@[simp] theorem addStores_iss_reads (s : State) (bs : List (Nat × Byte)) : (addStores s bs).tile.iss.reads = s.tile.iss.reads := rfl
@[simp] theorem addStores_rest (s : State) (bs : List (Nat × Byte)) : (addStores s bs).rest = s.rest := rfl
@[simp] theorem addStores_cyc (s : State) (bs : List (Nat × Byte)) : (addStores s bs).cyc = s.cyc := rfl
@[simp] theorem addStores_net (s : State) (bs : List (Nat × Byte)) : (addStores s bs).net = s.net := rfl
@[simp] theorem addStores_outPort (s : State) (bs : List (Nat × Byte)) : (addStores s bs).outPort = s.outPort := rfl
@[simp] theorem addStores_qheld (s : State) (bs : List (Nat × Byte)) : (addStores s bs).qheld = s.qheld := rfl
@[simp] theorem addStores_quarry (s : State) (bs : List (Nat × Byte)) : (addStores s bs).quarry = s.quarry := rfl
@[simp] theorem addStores_qbad (s : State) (bs : List (Nat × Byte)) : (addStores s bs).qbad = s.qbad := rfl
@[simp] theorem addStores_qsoft (s : State) (bs : List (Nat × Byte)) : (addStores s bs).qsoft = s.qsoft := rfl
@[simp] theorem addStores_qparity (s : State) (bs : List (Nat × Byte)) : (addStores s bs).qparity = s.qparity := rfl
@[simp] theorem addStores_qrows (s : State) (bs : List (Nat × Byte)) : (addStores s bs).qrows = s.qrows := rfl
@[simp] theorem addStores_qscrub (s : State) (bs : List (Nat × Byte)) : (addStores s bs).qscrub = s.qscrub := rfl
@[simp] theorem addStores_walkers (s : State) (bs : List (Nat × Byte)) : (addStores s bs).walkers = s.walkers := rfl
@[simp] theorem addStores_copies (s : State) (bs : List (Nat × Byte)) : (addStores s bs).copies = s.copies := rfl
@[simp] theorem addStores_cxl (s : State) (bs : List (Nat × Byte)) : (addStores s bs).cxl = s.cxl := rfl
@[simp] theorem addStores_cap (s : State) (bs : List (Nat × Byte)) : (addStores s bs).cap = s.cap := rfl
@[simp] theorem addStores_partns (s : State) (bs : List (Nat × Byte)) : (addStores s bs).partns = s.partns := rfl
@[simp] theorem addStores_pairs (s : State) (bs : List (Nat × Byte)) : (addStores s bs).pairs = s.pairs := rfl
@[simp] theorem addStores_mgr (s : State) (bs : List (Nat × Byte)) : (addStores s bs).mgr = s.mgr := rfl
@[simp] theorem addStores_agenda (s : State) (bs : List (Nat × Byte)) : (addStores s bs).agenda = s.agenda := rfl
@[simp] theorem addStores_todo (s : State) (bs : List (Nat × Byte)) : (addStores s bs).todo = s.todo := rfl
@[simp] theorem addStores_pick (s : State) (bs : List (Nat × Byte)) : (addStores s bs).pick = s.pick := rfl
@[simp] theorem addStores_access (s : State) (bs : List (Nat × Byte)) : (addStores s bs).access = s.access := rfl
@[simp] theorem addStores_free (s : State) (bs : List (Nat × Byte)) : (addStores s bs).free = s.free := rfl
@[simp] theorem addStores_tile_site (s : State) (bs : List (Nat × Byte)) : (addStores s bs).tile.site = s.tile.site := rfl
@[simp] theorem addStores_tile_pid (s : State) (bs : List (Nat × Byte)) : (addStores s bs).tile.pid = s.tile.pid := rfl
@[simp] theorem addStores_tile_th (s : State) (bs : List (Nat × Byte)) : (addStores s bs).tile.th = s.tile.th := rfl
@[simp] theorem addStores_tile_sup (s : State) (bs : List (Nat × Byte)) : (addStores s bs).tile.sup = s.tile.sup := rfl
@[simp] theorem addStores_tile_cw (s : State) (bs : List (Nat × Byte)) : (addStores s bs).tile.cw = s.tile.cw := rfl
@[simp] theorem addStores_tile_mem (s : State) (bs : List (Nat × Byte)) : (addStores s bs).tile.mem = s.tile.mem := rfl
@[simp] theorem addStores_tile_poison (s : State) (bs : List (Nat × Byte)) : (addStores s bs).tile.poison = s.tile.poison := rfl
@[simp] theorem addStores_tile_soft (s : State) (bs : List (Nat × Byte)) : (addStores s bs).tile.soft = s.tile.soft := rfl
@[simp] theorem addStores_tile_stale (s : State) (bs : List (Nat × Byte)) : (addStores s bs).tile.stale = s.tile.stale := rfl
@[simp] theorem addStores_tile_haloOld (s : State) (bs : List (Nat × Byte)) : (addStores s bs).tile.haloOld = s.tile.haloOld := rfl
@[simp] theorem addStores_tile_mbLate (s : State) (bs : List (Nat × Byte)) : (addStores s bs).tile.mbLate = s.tile.mbLate := rfl
@[simp] theorem addStores_tile_ltsb (s : State) (bs : List (Nat × Byte)) : (addStores s bs).tile.ltsb = s.tile.ltsb := rfl
@[simp] theorem addStores_tile_frozen (s : State) (bs : List (Nat × Byte)) : (addStores s bs).tile.frozen = s.tile.frozen := rfl
@[simp] theorem addStores_tile_asyncs (s : State) (bs : List (Nat × Byte)) : (addStores s bs).tile.asyncs = s.tile.asyncs := rfl
@[simp] theorem addStores_tile_began (s : State) (bs : List (Nat × Byte)) : (addStores s bs).tile.began = s.tile.began := rfl
@[simp] theorem addStores_tile_hold64 (s : State) (bs : List (Nat × Byte)) : (addStores s bs).tile.hold64 = s.tile.hold64 := rfl
@[simp] theorem addStores_tile_idle (s : State) (bs : List (Nat × Byte)) : (addStores s bs).tile.idle = s.tile.idle := rfl
@[simp] theorem addStores_tile_stall (s : State) (bs : List (Nat × Byte)) : (addStores s bs).tile.stall = s.tile.stall := rfl
@[simp] theorem addStores_tile_scrubbed (s : State) (bs : List (Nat × Byte)) : (addStores s bs).tile.scrubbed = s.tile.scrubbed := rfl
@[simp] theorem addStores_tile_budgetAt (s : State) (bs : List (Nat × Byte)) : (addStores s bs).tile.budgetAt = s.tile.budgetAt := rfl
@[simp] theorem addStores_tile_budgetUsed (s : State) (bs : List (Nat × Byte)) : (addStores s bs).tile.budgetUsed = s.tile.budgetUsed := rfl
@[simp] theorem addStores_tile_eng (s : State) (bs : List (Nat × Byte)) : (addStores s bs).tile.eng = s.tile.eng := rfl
@[simp] theorem addStores_tile_rt (s : State) (bs : List (Nat × Byte)) : (addStores s bs).tile.rt = s.tile.rt := rfl
@[simp] theorem addStores_tile_disp (s : State) (bs : List (Nat × Byte)) : (addStores s bs).tile.disp = s.tile.disp := rfl
@[simp] theorem addStores_tile_vt (s : State) (bs : List (Nat × Byte)) : (addStores s bs).tile.vt = s.tile.vt := rfl
@[simp] theorem addStores_tile_bench (s : State) (bs : List (Nat × Byte)) : (addStores s bs).tile.bench = s.tile.bench := rfl
@[simp] theorem addStores_tile_dbg (s : State) (bs : List (Nat × Byte)) : (addStores s bs).tile.dbg = s.tile.dbg := rfl

@[simp] theorem addRead_iss_addr (s : State) (a n : Nat) : (addRead s a n).tile.iss.addr = s.tile.iss.addr := rfl
@[simp] theorem addRead_iss_words (s : State) (a n : Nat) : (addRead s a n).tile.iss.words = s.tile.iss.words := rfl
@[simp] theorem addRead_iss_slot (s : State) (a n : Nat) : (addRead s a n).tile.iss.slot = s.tile.iss.slot := rfl
@[simp] theorem addRead_iss_causes (s : State) (a n : Nat) : (addRead s a n).tile.iss.causes = s.tile.iss.causes := rfl
@[simp] theorem addRead_iss_flights (s : State) (a n : Nat) : (addRead s a n).tile.iss.flights = s.tile.iss.flights := rfl
@[simp] theorem addRead_iss_stores (s : State) (a n : Nat) : (addRead s a n).tile.iss.stores = s.tile.iss.stores := rfl
@[simp] theorem addRead_iss_whole (s : State) (a n : Nat) : (addRead s a n).tile.iss.whole = s.tile.iss.whole := rfl
@[simp] theorem addRead_iss_codes (s : State) (a n : Nat) : (addRead s a n).tile.iss.codes = s.tile.iss.codes := rfl
@[simp] theorem addRead_iss_ops (s : State) (a n : Nat) : (addRead s a n).tile.iss.ops = s.tile.iss.ops := rfl
@[simp] theorem addRead_iss_spans (s : State) (a n : Nat) : (addRead s a n).tile.iss.spans = s.tile.iss.spans := rfl
@[simp] theorem addRead_iss_jump (s : State) (a n : Nat) : (addRead s a n).tile.iss.jump = s.tile.iss.jump := rfl
@[simp] theorem addRead_iss_loops (s : State) (a n : Nat) : (addRead s a n).tile.iss.loops = s.tile.iss.loops := rfl
@[simp] theorem addRead_iss_lpop (s : State) (a n : Nat) : (addRead s a n).tile.iss.lpop = s.tile.iss.lpop := rfl
@[simp] theorem addRead_iss_sig (s : State) (a n : Nat) : (addRead s a n).tile.iss.sig = s.tile.iss.sig := rfl
@[simp] theorem addRead_iss_pfx (s : State) (a n : Nat) : (addRead s a n).tile.iss.pfx = s.tile.iss.pfx := rfl
@[simp] theorem addRead_iss_rows (s : State) (a n : Nat) : (addRead s a n).tile.iss.rows = s.tile.iss.rows := rfl
@[simp] theorem addRead_iss_latches (s : State) (a n : Nat) : (addRead s a n).tile.iss.latches = s.tile.iss.latches := rfl
@[simp] theorem addRead_iss_seed (s : State) (a n : Nat) : (addRead s a n).tile.iss.seed = s.tile.iss.seed := rfl
@[simp] theorem addRead_iss_completing (s : State) (a n : Nat) : (addRead s a n).tile.iss.completing = s.tile.iss.completing := rfl
@[simp] theorem addRead_iss_sys (s : State) (a n : Nat) : (addRead s a n).tile.iss.sys = s.tile.iss.sys := rfl
@[simp] theorem addRead_iss_ltLoaded (s : State) (a n : Nat) : (addRead s a n).tile.iss.ltLoaded = s.tile.iss.ltLoaded := rfl
@[simp] theorem addRead_iss_toks (s : State) (a n : Nat) : (addRead s a n).tile.iss.toks = s.tile.iss.toks := rfl
@[simp] theorem addRead_iss_vsave (s : State) (a n : Nat) : (addRead s a n).tile.iss.vsave = s.tile.iss.vsave := rfl
@[simp] theorem addRead_iss_mgset (s : State) (a n : Nat) : (addRead s a n).tile.iss.mgset = s.tile.iss.mgset := rfl
@[simp] theorem addRead_iss_spawn (s : State) (a n : Nat) : (addRead s a n).tile.iss.spawn = s.tile.iss.spawn := rfl
@[simp] theorem addRead_iss_popped (s : State) (a n : Nat) : (addRead s a n).tile.iss.popped = s.tile.iss.popped := rfl
@[simp] theorem addRead_iss_quiet (s : State) (a n : Nat) : (addRead s a n).tile.iss.quiet = s.tile.iss.quiet := rfl
@[simp] theorem addRead_iss_event (s : State) (a n : Nat) : (addRead s a n).tile.iss.event = s.tile.iss.event := rfl
@[simp] theorem addRead_iss_hold64 (s : State) (a n : Nat) : (addRead s a n).tile.iss.hold64 = s.tile.iss.hold64 := rfl
@[simp] theorem addRead_iss_reads (s : State) (a n : Nat) : (addRead s a n).tile.iss.reads = s.tile.iss.reads ++ [(a, n)] := rfl
@[simp] theorem addRead_rest (s : State) (a n : Nat) : (addRead s a n).rest = s.rest := rfl
@[simp] theorem addRead_cyc (s : State) (a n : Nat) : (addRead s a n).cyc = s.cyc := rfl
@[simp] theorem addRead_net (s : State) (a n : Nat) : (addRead s a n).net = s.net := rfl
@[simp] theorem addRead_outPort (s : State) (a n : Nat) : (addRead s a n).outPort = s.outPort := rfl
@[simp] theorem addRead_qheld (s : State) (a n : Nat) : (addRead s a n).qheld = s.qheld := rfl
@[simp] theorem addRead_quarry (s : State) (a n : Nat) : (addRead s a n).quarry = s.quarry := rfl
@[simp] theorem addRead_qbad (s : State) (a n : Nat) : (addRead s a n).qbad = s.qbad := rfl
@[simp] theorem addRead_qsoft (s : State) (a n : Nat) : (addRead s a n).qsoft = s.qsoft := rfl
@[simp] theorem addRead_qparity (s : State) (a n : Nat) : (addRead s a n).qparity = s.qparity := rfl
@[simp] theorem addRead_qrows (s : State) (a n : Nat) : (addRead s a n).qrows = s.qrows := rfl
@[simp] theorem addRead_qscrub (s : State) (a n : Nat) : (addRead s a n).qscrub = s.qscrub := rfl
@[simp] theorem addRead_walkers (s : State) (a n : Nat) : (addRead s a n).walkers = s.walkers := rfl
@[simp] theorem addRead_copies (s : State) (a n : Nat) : (addRead s a n).copies = s.copies := rfl
@[simp] theorem addRead_cxl (s : State) (a n : Nat) : (addRead s a n).cxl = s.cxl := rfl
@[simp] theorem addRead_cap (s : State) (a n : Nat) : (addRead s a n).cap = s.cap := rfl
@[simp] theorem addRead_partns (s : State) (a n : Nat) : (addRead s a n).partns = s.partns := rfl
@[simp] theorem addRead_pairs (s : State) (a n : Nat) : (addRead s a n).pairs = s.pairs := rfl
@[simp] theorem addRead_mgr (s : State) (a n : Nat) : (addRead s a n).mgr = s.mgr := rfl
@[simp] theorem addRead_agenda (s : State) (a n : Nat) : (addRead s a n).agenda = s.agenda := rfl
@[simp] theorem addRead_todo (s : State) (a n : Nat) : (addRead s a n).todo = s.todo := rfl
@[simp] theorem addRead_pick (s : State) (a n : Nat) : (addRead s a n).pick = s.pick := rfl
@[simp] theorem addRead_access (s : State) (a n : Nat) : (addRead s a n).access = s.access := rfl
@[simp] theorem addRead_free (s : State) (a n : Nat) : (addRead s a n).free = s.free := rfl
@[simp] theorem addRead_tile_site (s : State) (a n : Nat) : (addRead s a n).tile.site = s.tile.site := rfl
@[simp] theorem addRead_tile_pid (s : State) (a n : Nat) : (addRead s a n).tile.pid = s.tile.pid := rfl
@[simp] theorem addRead_tile_th (s : State) (a n : Nat) : (addRead s a n).tile.th = s.tile.th := rfl
@[simp] theorem addRead_tile_sup (s : State) (a n : Nat) : (addRead s a n).tile.sup = s.tile.sup := rfl
@[simp] theorem addRead_tile_cw (s : State) (a n : Nat) : (addRead s a n).tile.cw = s.tile.cw := rfl
@[simp] theorem addRead_tile_mem (s : State) (a n : Nat) : (addRead s a n).tile.mem = s.tile.mem := rfl
@[simp] theorem addRead_tile_poison (s : State) (a n : Nat) : (addRead s a n).tile.poison = s.tile.poison := rfl
@[simp] theorem addRead_tile_soft (s : State) (a n : Nat) : (addRead s a n).tile.soft = s.tile.soft := rfl
@[simp] theorem addRead_tile_stale (s : State) (a n : Nat) : (addRead s a n).tile.stale = s.tile.stale := rfl
@[simp] theorem addRead_tile_haloOld (s : State) (a n : Nat) : (addRead s a n).tile.haloOld = s.tile.haloOld := rfl
@[simp] theorem addRead_tile_mbLate (s : State) (a n : Nat) : (addRead s a n).tile.mbLate = s.tile.mbLate := rfl
@[simp] theorem addRead_tile_ltsb (s : State) (a n : Nat) : (addRead s a n).tile.ltsb = s.tile.ltsb := rfl
@[simp] theorem addRead_tile_frozen (s : State) (a n : Nat) : (addRead s a n).tile.frozen = s.tile.frozen := rfl
@[simp] theorem addRead_tile_asyncs (s : State) (a n : Nat) : (addRead s a n).tile.asyncs = s.tile.asyncs := rfl
@[simp] theorem addRead_tile_began (s : State) (a n : Nat) : (addRead s a n).tile.began = s.tile.began := rfl
@[simp] theorem addRead_tile_hold64 (s : State) (a n : Nat) : (addRead s a n).tile.hold64 = s.tile.hold64 := rfl
@[simp] theorem addRead_tile_idle (s : State) (a n : Nat) : (addRead s a n).tile.idle = s.tile.idle := rfl
@[simp] theorem addRead_tile_stall (s : State) (a n : Nat) : (addRead s a n).tile.stall = s.tile.stall := rfl
@[simp] theorem addRead_tile_scrubbed (s : State) (a n : Nat) : (addRead s a n).tile.scrubbed = s.tile.scrubbed := rfl
@[simp] theorem addRead_tile_budgetAt (s : State) (a n : Nat) : (addRead s a n).tile.budgetAt = s.tile.budgetAt := rfl
@[simp] theorem addRead_tile_budgetUsed (s : State) (a n : Nat) : (addRead s a n).tile.budgetUsed = s.tile.budgetUsed := rfl
@[simp] theorem addRead_tile_eng (s : State) (a n : Nat) : (addRead s a n).tile.eng = s.tile.eng := rfl
@[simp] theorem addRead_tile_rt (s : State) (a n : Nat) : (addRead s a n).tile.rt = s.tile.rt := rfl
@[simp] theorem addRead_tile_disp (s : State) (a n : Nat) : (addRead s a n).tile.disp = s.tile.disp := rfl
@[simp] theorem addRead_tile_vt (s : State) (a n : Nat) : (addRead s a n).tile.vt = s.tile.vt := rfl
@[simp] theorem addRead_tile_bench (s : State) (a n : Nat) : (addRead s a n).tile.bench = s.tile.bench := rfl
@[simp] theorem addRead_tile_dbg (s : State) (a n : Nat) : (addRead s a n).tile.dbg = s.tile.dbg := rfl

/-! ## Tile parts -/

@[simp] theorem updEng_eng (s : State) (f : Engine → Engine) : (updEng s f).tile.eng = f s.tile.eng := rfl
@[simp] theorem updEng_rest (s : State) (f : Engine → Engine) : (updEng s f).rest = s.rest := rfl
@[simp] theorem updEng_cyc (s : State) (f : Engine → Engine) : (updEng s f).cyc = s.cyc := rfl
@[simp] theorem updEng_net (s : State) (f : Engine → Engine) : (updEng s f).net = s.net := rfl
@[simp] theorem updEng_outPort (s : State) (f : Engine → Engine) : (updEng s f).outPort = s.outPort := rfl
@[simp] theorem updEng_qheld (s : State) (f : Engine → Engine) : (updEng s f).qheld = s.qheld := rfl
@[simp] theorem updEng_quarry (s : State) (f : Engine → Engine) : (updEng s f).quarry = s.quarry := rfl
@[simp] theorem updEng_qbad (s : State) (f : Engine → Engine) : (updEng s f).qbad = s.qbad := rfl
@[simp] theorem updEng_qsoft (s : State) (f : Engine → Engine) : (updEng s f).qsoft = s.qsoft := rfl
@[simp] theorem updEng_qparity (s : State) (f : Engine → Engine) : (updEng s f).qparity = s.qparity := rfl
@[simp] theorem updEng_qrows (s : State) (f : Engine → Engine) : (updEng s f).qrows = s.qrows := rfl
@[simp] theorem updEng_qscrub (s : State) (f : Engine → Engine) : (updEng s f).qscrub = s.qscrub := rfl
@[simp] theorem updEng_walkers (s : State) (f : Engine → Engine) : (updEng s f).walkers = s.walkers := rfl
@[simp] theorem updEng_copies (s : State) (f : Engine → Engine) : (updEng s f).copies = s.copies := rfl
@[simp] theorem updEng_cxl (s : State) (f : Engine → Engine) : (updEng s f).cxl = s.cxl := rfl
@[simp] theorem updEng_cap (s : State) (f : Engine → Engine) : (updEng s f).cap = s.cap := rfl
@[simp] theorem updEng_partns (s : State) (f : Engine → Engine) : (updEng s f).partns = s.partns := rfl
@[simp] theorem updEng_pairs (s : State) (f : Engine → Engine) : (updEng s f).pairs = s.pairs := rfl
@[simp] theorem updEng_mgr (s : State) (f : Engine → Engine) : (updEng s f).mgr = s.mgr := rfl
@[simp] theorem updEng_agenda (s : State) (f : Engine → Engine) : (updEng s f).agenda = s.agenda := rfl
@[simp] theorem updEng_todo (s : State) (f : Engine → Engine) : (updEng s f).todo = s.todo := rfl
@[simp] theorem updEng_pick (s : State) (f : Engine → Engine) : (updEng s f).pick = s.pick := rfl
@[simp] theorem updEng_access (s : State) (f : Engine → Engine) : (updEng s f).access = s.access := rfl
@[simp] theorem updEng_free (s : State) (f : Engine → Engine) : (updEng s f).free = s.free := rfl
@[simp] theorem updEng_tile_site (s : State) (f : Engine → Engine) : (updEng s f).tile.site = s.tile.site := rfl
@[simp] theorem updEng_tile_pid (s : State) (f : Engine → Engine) : (updEng s f).tile.pid = s.tile.pid := rfl
@[simp] theorem updEng_tile_th (s : State) (f : Engine → Engine) : (updEng s f).tile.th = s.tile.th := rfl
@[simp] theorem updEng_tile_sup (s : State) (f : Engine → Engine) : (updEng s f).tile.sup = s.tile.sup := rfl
@[simp] theorem updEng_tile_cw (s : State) (f : Engine → Engine) : (updEng s f).tile.cw = s.tile.cw := rfl
@[simp] theorem updEng_tile_mem (s : State) (f : Engine → Engine) : (updEng s f).tile.mem = s.tile.mem := rfl
@[simp] theorem updEng_tile_poison (s : State) (f : Engine → Engine) : (updEng s f).tile.poison = s.tile.poison := rfl
@[simp] theorem updEng_tile_soft (s : State) (f : Engine → Engine) : (updEng s f).tile.soft = s.tile.soft := rfl
@[simp] theorem updEng_tile_stale (s : State) (f : Engine → Engine) : (updEng s f).tile.stale = s.tile.stale := rfl
@[simp] theorem updEng_tile_haloOld (s : State) (f : Engine → Engine) : (updEng s f).tile.haloOld = s.tile.haloOld := rfl
@[simp] theorem updEng_tile_mbLate (s : State) (f : Engine → Engine) : (updEng s f).tile.mbLate = s.tile.mbLate := rfl
@[simp] theorem updEng_tile_ltsb (s : State) (f : Engine → Engine) : (updEng s f).tile.ltsb = s.tile.ltsb := rfl
@[simp] theorem updEng_tile_frozen (s : State) (f : Engine → Engine) : (updEng s f).tile.frozen = s.tile.frozen := rfl
@[simp] theorem updEng_tile_asyncs (s : State) (f : Engine → Engine) : (updEng s f).tile.asyncs = s.tile.asyncs := rfl
@[simp] theorem updEng_tile_began (s : State) (f : Engine → Engine) : (updEng s f).tile.began = s.tile.began := rfl
@[simp] theorem updEng_tile_hold64 (s : State) (f : Engine → Engine) : (updEng s f).tile.hold64 = s.tile.hold64 := rfl
@[simp] theorem updEng_tile_idle (s : State) (f : Engine → Engine) : (updEng s f).tile.idle = s.tile.idle := rfl
@[simp] theorem updEng_tile_stall (s : State) (f : Engine → Engine) : (updEng s f).tile.stall = s.tile.stall := rfl
@[simp] theorem updEng_tile_scrubbed (s : State) (f : Engine → Engine) : (updEng s f).tile.scrubbed = s.tile.scrubbed := rfl
@[simp] theorem updEng_tile_budgetAt (s : State) (f : Engine → Engine) : (updEng s f).tile.budgetAt = s.tile.budgetAt := rfl
@[simp] theorem updEng_tile_budgetUsed (s : State) (f : Engine → Engine) : (updEng s f).tile.budgetUsed = s.tile.budgetUsed := rfl
@[simp] theorem updEng_tile_iss (s : State) (f : Engine → Engine) : (updEng s f).tile.iss = s.tile.iss := rfl
@[simp] theorem updEng_tile_rt (s : State) (f : Engine → Engine) : (updEng s f).tile.rt = s.tile.rt := rfl
@[simp] theorem updEng_tile_disp (s : State) (f : Engine → Engine) : (updEng s f).tile.disp = s.tile.disp := rfl
@[simp] theorem updEng_tile_vt (s : State) (f : Engine → Engine) : (updEng s f).tile.vt = s.tile.vt := rfl
@[simp] theorem updEng_tile_bench (s : State) (f : Engine → Engine) : (updEng s f).tile.bench = s.tile.bench := rfl
@[simp] theorem updEng_tile_dbg (s : State) (f : Engine → Engine) : (updEng s f).tile.dbg = s.tile.dbg := rfl

@[simp] theorem updDisp_disp (t : Tile) (f : Dispatcher → Dispatcher) : (updDisp t f).disp = f t.disp := rfl
@[simp] theorem updDisp_site (t : Tile) (f : Dispatcher → Dispatcher) : (updDisp t f).site = t.site := rfl
@[simp] theorem updDisp_pid (t : Tile) (f : Dispatcher → Dispatcher) : (updDisp t f).pid = t.pid := rfl
@[simp] theorem updDisp_th (t : Tile) (f : Dispatcher → Dispatcher) : (updDisp t f).th = t.th := rfl
@[simp] theorem updDisp_sup (t : Tile) (f : Dispatcher → Dispatcher) : (updDisp t f).sup = t.sup := rfl
@[simp] theorem updDisp_cw (t : Tile) (f : Dispatcher → Dispatcher) : (updDisp t f).cw = t.cw := rfl
@[simp] theorem updDisp_mem (t : Tile) (f : Dispatcher → Dispatcher) : (updDisp t f).mem = t.mem := rfl
@[simp] theorem updDisp_poison (t : Tile) (f : Dispatcher → Dispatcher) : (updDisp t f).poison = t.poison := rfl
@[simp] theorem updDisp_soft (t : Tile) (f : Dispatcher → Dispatcher) : (updDisp t f).soft = t.soft := rfl
@[simp] theorem updDisp_stale (t : Tile) (f : Dispatcher → Dispatcher) : (updDisp t f).stale = t.stale := rfl
@[simp] theorem updDisp_haloOld (t : Tile) (f : Dispatcher → Dispatcher) : (updDisp t f).haloOld = t.haloOld := rfl
@[simp] theorem updDisp_mbLate (t : Tile) (f : Dispatcher → Dispatcher) : (updDisp t f).mbLate = t.mbLate := rfl
@[simp] theorem updDisp_ltsb (t : Tile) (f : Dispatcher → Dispatcher) : (updDisp t f).ltsb = t.ltsb := rfl
@[simp] theorem updDisp_frozen (t : Tile) (f : Dispatcher → Dispatcher) : (updDisp t f).frozen = t.frozen := rfl
@[simp] theorem updDisp_asyncs (t : Tile) (f : Dispatcher → Dispatcher) : (updDisp t f).asyncs = t.asyncs := rfl
@[simp] theorem updDisp_began (t : Tile) (f : Dispatcher → Dispatcher) : (updDisp t f).began = t.began := rfl
@[simp] theorem updDisp_hold64 (t : Tile) (f : Dispatcher → Dispatcher) : (updDisp t f).hold64 = t.hold64 := rfl
@[simp] theorem updDisp_idle (t : Tile) (f : Dispatcher → Dispatcher) : (updDisp t f).idle = t.idle := rfl
@[simp] theorem updDisp_stall (t : Tile) (f : Dispatcher → Dispatcher) : (updDisp t f).stall = t.stall := rfl
@[simp] theorem updDisp_scrubbed (t : Tile) (f : Dispatcher → Dispatcher) : (updDisp t f).scrubbed = t.scrubbed := rfl
@[simp] theorem updDisp_budgetAt (t : Tile) (f : Dispatcher → Dispatcher) : (updDisp t f).budgetAt = t.budgetAt := rfl
@[simp] theorem updDisp_budgetUsed (t : Tile) (f : Dispatcher → Dispatcher) : (updDisp t f).budgetUsed = t.budgetUsed := rfl
@[simp] theorem updDisp_iss (t : Tile) (f : Dispatcher → Dispatcher) : (updDisp t f).iss = t.iss := rfl
@[simp] theorem updDisp_eng (t : Tile) (f : Dispatcher → Dispatcher) : (updDisp t f).eng = t.eng := rfl
@[simp] theorem updDisp_rt (t : Tile) (f : Dispatcher → Dispatcher) : (updDisp t f).rt = t.rt := rfl
@[simp] theorem updDisp_vt (t : Tile) (f : Dispatcher → Dispatcher) : (updDisp t f).vt = t.vt := rfl
@[simp] theorem updDisp_bench (t : Tile) (f : Dispatcher → Dispatcher) : (updDisp t f).bench = t.bench := rfl
@[simp] theorem updDisp_dbg (t : Tile) (f : Dispatcher → Dispatcher) : (updDisp t f).dbg = t.dbg := rfl

@[simp] theorem updDbg_dbg (t : Tile) (f : Debug → Debug) : (updDbg t f).dbg = f t.dbg := rfl
@[simp] theorem updDbg_site (t : Tile) (f : Debug → Debug) : (updDbg t f).site = t.site := rfl
@[simp] theorem updDbg_pid (t : Tile) (f : Debug → Debug) : (updDbg t f).pid = t.pid := rfl
@[simp] theorem updDbg_th (t : Tile) (f : Debug → Debug) : (updDbg t f).th = t.th := rfl
@[simp] theorem updDbg_sup (t : Tile) (f : Debug → Debug) : (updDbg t f).sup = t.sup := rfl
@[simp] theorem updDbg_cw (t : Tile) (f : Debug → Debug) : (updDbg t f).cw = t.cw := rfl
@[simp] theorem updDbg_mem (t : Tile) (f : Debug → Debug) : (updDbg t f).mem = t.mem := rfl
@[simp] theorem updDbg_poison (t : Tile) (f : Debug → Debug) : (updDbg t f).poison = t.poison := rfl
@[simp] theorem updDbg_soft (t : Tile) (f : Debug → Debug) : (updDbg t f).soft = t.soft := rfl
@[simp] theorem updDbg_stale (t : Tile) (f : Debug → Debug) : (updDbg t f).stale = t.stale := rfl
@[simp] theorem updDbg_haloOld (t : Tile) (f : Debug → Debug) : (updDbg t f).haloOld = t.haloOld := rfl
@[simp] theorem updDbg_mbLate (t : Tile) (f : Debug → Debug) : (updDbg t f).mbLate = t.mbLate := rfl
@[simp] theorem updDbg_ltsb (t : Tile) (f : Debug → Debug) : (updDbg t f).ltsb = t.ltsb := rfl
@[simp] theorem updDbg_frozen (t : Tile) (f : Debug → Debug) : (updDbg t f).frozen = t.frozen := rfl
@[simp] theorem updDbg_asyncs (t : Tile) (f : Debug → Debug) : (updDbg t f).asyncs = t.asyncs := rfl
@[simp] theorem updDbg_began (t : Tile) (f : Debug → Debug) : (updDbg t f).began = t.began := rfl
@[simp] theorem updDbg_hold64 (t : Tile) (f : Debug → Debug) : (updDbg t f).hold64 = t.hold64 := rfl
@[simp] theorem updDbg_idle (t : Tile) (f : Debug → Debug) : (updDbg t f).idle = t.idle := rfl
@[simp] theorem updDbg_stall (t : Tile) (f : Debug → Debug) : (updDbg t f).stall = t.stall := rfl
@[simp] theorem updDbg_scrubbed (t : Tile) (f : Debug → Debug) : (updDbg t f).scrubbed = t.scrubbed := rfl
@[simp] theorem updDbg_budgetAt (t : Tile) (f : Debug → Debug) : (updDbg t f).budgetAt = t.budgetAt := rfl
@[simp] theorem updDbg_budgetUsed (t : Tile) (f : Debug → Debug) : (updDbg t f).budgetUsed = t.budgetUsed := rfl
@[simp] theorem updDbg_iss (t : Tile) (f : Debug → Debug) : (updDbg t f).iss = t.iss := rfl
@[simp] theorem updDbg_eng (t : Tile) (f : Debug → Debug) : (updDbg t f).eng = t.eng := rfl
@[simp] theorem updDbg_rt (t : Tile) (f : Debug → Debug) : (updDbg t f).rt = t.rt := rfl
@[simp] theorem updDbg_disp (t : Tile) (f : Debug → Debug) : (updDbg t f).disp = t.disp := rfl
@[simp] theorem updDbg_vt (t : Tile) (f : Debug → Debug) : (updDbg t f).vt = t.vt := rfl
@[simp] theorem updDbg_bench (t : Tile) (f : Debug → Debug) : (updDbg t f).bench = t.bench := rfl

@[simp] theorem updRt_rt (t : Tile) (f : Router → Router) : (updRt t f).rt = f t.rt := rfl
@[simp] theorem updRt_site (t : Tile) (f : Router → Router) : (updRt t f).site = t.site := rfl
@[simp] theorem updRt_pid (t : Tile) (f : Router → Router) : (updRt t f).pid = t.pid := rfl
@[simp] theorem updRt_th (t : Tile) (f : Router → Router) : (updRt t f).th = t.th := rfl
@[simp] theorem updRt_sup (t : Tile) (f : Router → Router) : (updRt t f).sup = t.sup := rfl
@[simp] theorem updRt_cw (t : Tile) (f : Router → Router) : (updRt t f).cw = t.cw := rfl
@[simp] theorem updRt_mem (t : Tile) (f : Router → Router) : (updRt t f).mem = t.mem := rfl
@[simp] theorem updRt_poison (t : Tile) (f : Router → Router) : (updRt t f).poison = t.poison := rfl
@[simp] theorem updRt_soft (t : Tile) (f : Router → Router) : (updRt t f).soft = t.soft := rfl
@[simp] theorem updRt_stale (t : Tile) (f : Router → Router) : (updRt t f).stale = t.stale := rfl
@[simp] theorem updRt_haloOld (t : Tile) (f : Router → Router) : (updRt t f).haloOld = t.haloOld := rfl
@[simp] theorem updRt_mbLate (t : Tile) (f : Router → Router) : (updRt t f).mbLate = t.mbLate := rfl
@[simp] theorem updRt_ltsb (t : Tile) (f : Router → Router) : (updRt t f).ltsb = t.ltsb := rfl
@[simp] theorem updRt_frozen (t : Tile) (f : Router → Router) : (updRt t f).frozen = t.frozen := rfl
@[simp] theorem updRt_asyncs (t : Tile) (f : Router → Router) : (updRt t f).asyncs = t.asyncs := rfl
@[simp] theorem updRt_began (t : Tile) (f : Router → Router) : (updRt t f).began = t.began := rfl
@[simp] theorem updRt_hold64 (t : Tile) (f : Router → Router) : (updRt t f).hold64 = t.hold64 := rfl
@[simp] theorem updRt_idle (t : Tile) (f : Router → Router) : (updRt t f).idle = t.idle := rfl
@[simp] theorem updRt_stall (t : Tile) (f : Router → Router) : (updRt t f).stall = t.stall := rfl
@[simp] theorem updRt_scrubbed (t : Tile) (f : Router → Router) : (updRt t f).scrubbed = t.scrubbed := rfl
@[simp] theorem updRt_budgetAt (t : Tile) (f : Router → Router) : (updRt t f).budgetAt = t.budgetAt := rfl
@[simp] theorem updRt_budgetUsed (t : Tile) (f : Router → Router) : (updRt t f).budgetUsed = t.budgetUsed := rfl
@[simp] theorem updRt_iss (t : Tile) (f : Router → Router) : (updRt t f).iss = t.iss := rfl
@[simp] theorem updRt_eng (t : Tile) (f : Router → Router) : (updRt t f).eng = t.eng := rfl
@[simp] theorem updRt_disp (t : Tile) (f : Router → Router) : (updRt t f).disp = t.disp := rfl
@[simp] theorem updRt_vt (t : Tile) (f : Router → Router) : (updRt t f).vt = t.vt := rfl
@[simp] theorem updRt_bench (t : Tile) (f : Router → Router) : (updRt t f).bench = t.bench := rfl
@[simp] theorem updRt_dbg (t : Tile) (f : Router → Router) : (updRt t f).dbg = t.dbg := rfl

/-! ## The management block and the partitions -/

@[simp] theorem w0Put_w0 (s : State) (off : Nat) (v : W64) : (w0Put s off v).mgr.w0 = cellSet s.mgr.w0 off v := rfl
@[simp] theorem w0Put_tile (s : State) (off : Nat) (v : W64) : (w0Put s off v).tile = s.tile := rfl
@[simp] theorem w0Put_rest (s : State) (off : Nat) (v : W64) : (w0Put s off v).rest = s.rest := rfl
@[simp] theorem w0Put_cyc (s : State) (off : Nat) (v : W64) : (w0Put s off v).cyc = s.cyc := rfl
@[simp] theorem w0Put_net (s : State) (off : Nat) (v : W64) : (w0Put s off v).net = s.net := rfl
@[simp] theorem w0Put_outPort (s : State) (off : Nat) (v : W64) : (w0Put s off v).outPort = s.outPort := rfl
@[simp] theorem w0Put_qheld (s : State) (off : Nat) (v : W64) : (w0Put s off v).qheld = s.qheld := rfl
@[simp] theorem w0Put_quarry (s : State) (off : Nat) (v : W64) : (w0Put s off v).quarry = s.quarry := rfl
@[simp] theorem w0Put_qbad (s : State) (off : Nat) (v : W64) : (w0Put s off v).qbad = s.qbad := rfl
@[simp] theorem w0Put_qsoft (s : State) (off : Nat) (v : W64) : (w0Put s off v).qsoft = s.qsoft := rfl
@[simp] theorem w0Put_qparity (s : State) (off : Nat) (v : W64) : (w0Put s off v).qparity = s.qparity := rfl
@[simp] theorem w0Put_qrows (s : State) (off : Nat) (v : W64) : (w0Put s off v).qrows = s.qrows := rfl
@[simp] theorem w0Put_qscrub (s : State) (off : Nat) (v : W64) : (w0Put s off v).qscrub = s.qscrub := rfl
@[simp] theorem w0Put_walkers (s : State) (off : Nat) (v : W64) : (w0Put s off v).walkers = s.walkers := rfl
@[simp] theorem w0Put_copies (s : State) (off : Nat) (v : W64) : (w0Put s off v).copies = s.copies := rfl
@[simp] theorem w0Put_cxl (s : State) (off : Nat) (v : W64) : (w0Put s off v).cxl = s.cxl := rfl
@[simp] theorem w0Put_cap (s : State) (off : Nat) (v : W64) : (w0Put s off v).cap = s.cap := rfl
@[simp] theorem w0Put_partns (s : State) (off : Nat) (v : W64) : (w0Put s off v).partns = s.partns := rfl
@[simp] theorem w0Put_pairs (s : State) (off : Nat) (v : W64) : (w0Put s off v).pairs = s.pairs := rfl
@[simp] theorem w0Put_agenda (s : State) (off : Nat) (v : W64) : (w0Put s off v).agenda = s.agenda := rfl
@[simp] theorem w0Put_todo (s : State) (off : Nat) (v : W64) : (w0Put s off v).todo = s.todo := rfl
@[simp] theorem w0Put_pick (s : State) (off : Nat) (v : W64) : (w0Put s off v).pick = s.pick := rfl
@[simp] theorem w0Put_access (s : State) (off : Nat) (v : W64) : (w0Put s off v).access = s.access := rfl
@[simp] theorem w0Put_free (s : State) (off : Nat) (v : W64) : (w0Put s off v).free = s.free := rfl
@[simp] theorem w0Put_mgr_images (s : State) (off : Nat) (v : W64) : (w0Put s off v).mgr.images = s.mgr.images := rfl
@[simp] theorem w0Put_mgr_queue (s : State) (off : Nat) (v : W64) : (w0Put s off v).mgr.queue = s.mgr.queue := rfl
@[simp] theorem w0Put_mgr_wslots (s : State) (off : Nat) (v : W64) : (w0Put s off v).mgr.wslots = s.mgr.wslots := rfl
@[simp] theorem w0Put_mgr_qtail (s : State) (off : Nat) (v : W64) : (w0Put s off v).mgr.qtail = s.mgr.qtail := rfl
@[simp] theorem w0Put_mgr_qhead (s : State) (off : Nat) (v : W64) : (w0Put s off v).mgr.qhead = s.mgr.qhead := rfl
@[simp] theorem w0Put_mgr_cring (s : State) (off : Nat) (v : W64) : (w0Put s off v).mgr.cring = s.mgr.cring := rfl
@[simp] theorem w0Put_mgr_chead (s : State) (off : Nat) (v : W64) : (w0Put s off v).mgr.chead = s.mgr.chead := rfl
@[simp] theorem w0Put_mgr_ctail (s : State) (off : Nat) (v : W64) : (w0Put s off v).mgr.ctail = s.mgr.ctail := rfl
@[simp] theorem w0Put_mgr_cheld (s : State) (off : Nat) (v : W64) : (w0Put s off v).mgr.cheld = s.mgr.cheld := rfl
@[simp] theorem w0Put_mgr_oring (s : State) (off : Nat) (v : W64) : (w0Put s off v).mgr.oring = s.mgr.oring := rfl
@[simp] theorem w0Put_mgr_ohead (s : State) (off : Nat) (v : W64) : (w0Put s off v).mgr.ohead = s.mgr.ohead := rfl
@[simp] theorem w0Put_mgr_otail (s : State) (off : Nat) (v : W64) : (w0Put s off v).mgr.otail = s.mgr.otail := rfl
@[simp] theorem w0Put_mgr_w2 (s : State) (off : Nat) (v : W64) : (w0Put s off v).mgr.w2 = s.mgr.w2 := rfl
@[simp] theorem w0Put_mgr_roots (s : State) (off : Nat) (v : W64) : (w0Put s off v).mgr.roots = s.mgr.roots := rfl
@[simp] theorem w0Put_mgr_inval (s : State) (off : Nat) (v : W64) : (w0Put s off v).mgr.inval = s.mgr.inval := rfl
@[simp] theorem w0Put_mgr_dir (s : State) (off : Nat) (v : W64) : (w0Put s off v).mgr.dir = s.mgr.dir := rfl
@[simp] theorem w0Put_mgr_nextPid (s : State) (off : Nat) (v : W64) : (w0Put s off v).mgr.nextPid = s.mgr.nextPid := rfl
@[simp] theorem w0Put_mgr_relSeq (s : State) (off : Nat) (v : W64) : (w0Put s off v).mgr.relSeq = s.mgr.relSeq := rfl
@[simp] theorem w0Put_mgr_relLog (s : State) (off : Nat) (v : W64) : (w0Put s off v).mgr.relLog = s.mgr.relLog := rfl
@[simp] theorem w0Put_mgr_retired (s : State) (off : Nat) (v : W64) : (w0Put s off v).mgr.retired = s.mgr.retired := rfl
@[simp] theorem w0Put_mgr_badRouters (s : State) (off : Nat) (v : W64) : (w0Put s off v).mgr.badRouters = s.mgr.badRouters := rfl
@[simp] theorem w0Put_mgr_diesOut (s : State) (off : Nat) (v : W64) : (w0Put s off v).mgr.diesOut = s.mgr.diesOut := rfl
@[simp] theorem w0Put_mgr_stacksOut (s : State) (off : Nat) (v : W64) : (w0Put s off v).mgr.stacksOut = s.mgr.stacksOut := rfl
@[simp] theorem w0Put_mgr_grades (s : State) (off : Nat) (v : W64) : (w0Put s off v).mgr.grades = s.mgr.grades := rfl
@[simp] theorem w0Put_mgr_linkMarks (s : State) (off : Nat) (v : W64) : (w0Put s off v).mgr.linkMarks = s.mgr.linkMarks := rfl
@[simp] theorem w0Put_mgr_linksOut (s : State) (off : Nat) (v : W64) : (w0Put s off v).mgr.linksOut = s.mgr.linksOut := rfl
@[simp] theorem w0Put_mgr_portsOut (s : State) (off : Nat) (v : W64) : (w0Put s off v).mgr.portsOut = s.mgr.portsOut := rfl
@[simp] theorem w0Put_mgr_framesOut (s : State) (off : Nat) (v : W64) : (w0Put s off v).mgr.framesOut = s.mgr.framesOut := rfl
@[simp] theorem w0Put_mgr_pcie (s : State) (off : Nat) (v : W64) : (w0Put s off v).mgr.pcie = s.mgr.pcie := rfl
@[simp] theorem w0Put_mgr_failures (s : State) (off : Nat) (v : W64) : (w0Put s off v).mgr.failures = s.mgr.failures := rfl
@[simp] theorem w0Put_mgr_fwSlot (s : State) (off : Nat) (v : W64) : (w0Put s off v).mgr.fwSlot = s.mgr.fwSlot := rfl
@[simp] theorem w0Put_mgr_recSeq (s : State) (off : Nat) (v : W64) : (w0Put s off v).mgr.recSeq = s.mgr.recSeq := rfl
@[simp] theorem w0Put_mgr_marked (s : State) (off : Nat) (v : W64) : (w0Put s off v).mgr.marked = s.mgr.marked := rfl
@[simp] theorem w0Put_mgr_noId (s : State) (off : Nat) (v : W64) : (w0Put s off v).mgr.noId = s.mgr.noId := rfl
@[simp] theorem w0Put_mgr_older (s : State) (off : Nat) (v : W64) : (w0Put s off v).mgr.older = s.mgr.older := rfl
@[simp] theorem w0Put_mgr_starts (s : State) (off : Nat) (v : W64) : (w0Put s off v).mgr.starts = s.mgr.starts := rfl
@[simp] theorem w0Put_mgr_sealSeq (s : State) (off : Nat) (v : W64) : (w0Put s off v).mgr.sealSeq = s.mgr.sealSeq := rfl
@[simp] theorem w0Put_mgr_nextCopy (s : State) (off : Nat) (v : W64) : (w0Put s off v).mgr.nextCopy = s.mgr.nextCopy := rfl
@[simp] theorem w0Put_mgr_markers (s : State) (off : Nat) (v : W64) : (w0Put s off v).mgr.markers = s.mgr.markers := rfl
@[simp] theorem w0Put_mgr_haul (s : State) (off : Nat) (v : W64) : (w0Put s off v).mgr.haul = s.mgr.haul := rfl
@[simp] theorem w0Put_mgr_take (s : State) (off : Nat) (v : W64) : (w0Put s off v).mgr.take = s.mgr.take := rfl
@[simp] theorem w0Put_mgr_lastRead (s : State) (off : Nat) (v : W64) : (w0Put s off v).mgr.lastRead = s.mgr.lastRead := rfl
@[simp] theorem w0Put_mgr_report (s : State) (off : Nat) (v : W64) : (w0Put s off v).mgr.report = s.mgr.report := rfl
@[simp] theorem w0Put_mgr_pfail (s : State) (off : Nat) (v : W64) : (w0Put s off v).mgr.pfail = s.mgr.pfail := rfl
@[simp] theorem w0Put_mgr_budget (s : State) (off : Nat) (v : W64) : (w0Put s off v).mgr.budget = s.mgr.budget := rfl
@[simp] theorem w0Put_mgr_draws (s : State) (off : Nat) (v : W64) : (w0Put s off v).mgr.draws = s.mgr.draws := rfl
@[simp] theorem w0Put_mgr_boot (s : State) (off : Nat) (v : W64) : (w0Put s off v).mgr.boot = s.mgr.boot := rfl
@[simp] theorem w0Put_mgr_bootPid (s : State) (off : Nat) (v : W64) : (w0Put s off v).mgr.bootPid = s.mgr.bootPid := rfl

@[simp] theorem w2Put_w2 (s : State) (off : Nat) (v : W64) : (w2Put s off v).mgr.w2 = cellSet s.mgr.w2 off v := rfl
@[simp] theorem w2Put_tile (s : State) (off : Nat) (v : W64) : (w2Put s off v).tile = s.tile := rfl
@[simp] theorem w2Put_rest (s : State) (off : Nat) (v : W64) : (w2Put s off v).rest = s.rest := rfl
@[simp] theorem w2Put_cyc (s : State) (off : Nat) (v : W64) : (w2Put s off v).cyc = s.cyc := rfl
@[simp] theorem w2Put_net (s : State) (off : Nat) (v : W64) : (w2Put s off v).net = s.net := rfl
@[simp] theorem w2Put_outPort (s : State) (off : Nat) (v : W64) : (w2Put s off v).outPort = s.outPort := rfl
@[simp] theorem w2Put_qheld (s : State) (off : Nat) (v : W64) : (w2Put s off v).qheld = s.qheld := rfl
@[simp] theorem w2Put_quarry (s : State) (off : Nat) (v : W64) : (w2Put s off v).quarry = s.quarry := rfl
@[simp] theorem w2Put_qbad (s : State) (off : Nat) (v : W64) : (w2Put s off v).qbad = s.qbad := rfl
@[simp] theorem w2Put_qsoft (s : State) (off : Nat) (v : W64) : (w2Put s off v).qsoft = s.qsoft := rfl
@[simp] theorem w2Put_qparity (s : State) (off : Nat) (v : W64) : (w2Put s off v).qparity = s.qparity := rfl
@[simp] theorem w2Put_qrows (s : State) (off : Nat) (v : W64) : (w2Put s off v).qrows = s.qrows := rfl
@[simp] theorem w2Put_qscrub (s : State) (off : Nat) (v : W64) : (w2Put s off v).qscrub = s.qscrub := rfl
@[simp] theorem w2Put_walkers (s : State) (off : Nat) (v : W64) : (w2Put s off v).walkers = s.walkers := rfl
@[simp] theorem w2Put_copies (s : State) (off : Nat) (v : W64) : (w2Put s off v).copies = s.copies := rfl
@[simp] theorem w2Put_cxl (s : State) (off : Nat) (v : W64) : (w2Put s off v).cxl = s.cxl := rfl
@[simp] theorem w2Put_cap (s : State) (off : Nat) (v : W64) : (w2Put s off v).cap = s.cap := rfl
@[simp] theorem w2Put_partns (s : State) (off : Nat) (v : W64) : (w2Put s off v).partns = s.partns := rfl
@[simp] theorem w2Put_pairs (s : State) (off : Nat) (v : W64) : (w2Put s off v).pairs = s.pairs := rfl
@[simp] theorem w2Put_agenda (s : State) (off : Nat) (v : W64) : (w2Put s off v).agenda = s.agenda := rfl
@[simp] theorem w2Put_todo (s : State) (off : Nat) (v : W64) : (w2Put s off v).todo = s.todo := rfl
@[simp] theorem w2Put_pick (s : State) (off : Nat) (v : W64) : (w2Put s off v).pick = s.pick := rfl
@[simp] theorem w2Put_access (s : State) (off : Nat) (v : W64) : (w2Put s off v).access = s.access := rfl
@[simp] theorem w2Put_free (s : State) (off : Nat) (v : W64) : (w2Put s off v).free = s.free := rfl
@[simp] theorem w2Put_mgr_images (s : State) (off : Nat) (v : W64) : (w2Put s off v).mgr.images = s.mgr.images := rfl
@[simp] theorem w2Put_mgr_queue (s : State) (off : Nat) (v : W64) : (w2Put s off v).mgr.queue = s.mgr.queue := rfl
@[simp] theorem w2Put_mgr_wslots (s : State) (off : Nat) (v : W64) : (w2Put s off v).mgr.wslots = s.mgr.wslots := rfl
@[simp] theorem w2Put_mgr_qtail (s : State) (off : Nat) (v : W64) : (w2Put s off v).mgr.qtail = s.mgr.qtail := rfl
@[simp] theorem w2Put_mgr_qhead (s : State) (off : Nat) (v : W64) : (w2Put s off v).mgr.qhead = s.mgr.qhead := rfl
@[simp] theorem w2Put_mgr_cring (s : State) (off : Nat) (v : W64) : (w2Put s off v).mgr.cring = s.mgr.cring := rfl
@[simp] theorem w2Put_mgr_chead (s : State) (off : Nat) (v : W64) : (w2Put s off v).mgr.chead = s.mgr.chead := rfl
@[simp] theorem w2Put_mgr_ctail (s : State) (off : Nat) (v : W64) : (w2Put s off v).mgr.ctail = s.mgr.ctail := rfl
@[simp] theorem w2Put_mgr_cheld (s : State) (off : Nat) (v : W64) : (w2Put s off v).mgr.cheld = s.mgr.cheld := rfl
@[simp] theorem w2Put_mgr_oring (s : State) (off : Nat) (v : W64) : (w2Put s off v).mgr.oring = s.mgr.oring := rfl
@[simp] theorem w2Put_mgr_ohead (s : State) (off : Nat) (v : W64) : (w2Put s off v).mgr.ohead = s.mgr.ohead := rfl
@[simp] theorem w2Put_mgr_otail (s : State) (off : Nat) (v : W64) : (w2Put s off v).mgr.otail = s.mgr.otail := rfl
@[simp] theorem w2Put_mgr_w0 (s : State) (off : Nat) (v : W64) : (w2Put s off v).mgr.w0 = s.mgr.w0 := rfl
@[simp] theorem w2Put_mgr_roots (s : State) (off : Nat) (v : W64) : (w2Put s off v).mgr.roots = s.mgr.roots := rfl
@[simp] theorem w2Put_mgr_inval (s : State) (off : Nat) (v : W64) : (w2Put s off v).mgr.inval = s.mgr.inval := rfl
@[simp] theorem w2Put_mgr_dir (s : State) (off : Nat) (v : W64) : (w2Put s off v).mgr.dir = s.mgr.dir := rfl
@[simp] theorem w2Put_mgr_nextPid (s : State) (off : Nat) (v : W64) : (w2Put s off v).mgr.nextPid = s.mgr.nextPid := rfl
@[simp] theorem w2Put_mgr_relSeq (s : State) (off : Nat) (v : W64) : (w2Put s off v).mgr.relSeq = s.mgr.relSeq := rfl
@[simp] theorem w2Put_mgr_relLog (s : State) (off : Nat) (v : W64) : (w2Put s off v).mgr.relLog = s.mgr.relLog := rfl
@[simp] theorem w2Put_mgr_retired (s : State) (off : Nat) (v : W64) : (w2Put s off v).mgr.retired = s.mgr.retired := rfl
@[simp] theorem w2Put_mgr_badRouters (s : State) (off : Nat) (v : W64) : (w2Put s off v).mgr.badRouters = s.mgr.badRouters := rfl
@[simp] theorem w2Put_mgr_diesOut (s : State) (off : Nat) (v : W64) : (w2Put s off v).mgr.diesOut = s.mgr.diesOut := rfl
@[simp] theorem w2Put_mgr_stacksOut (s : State) (off : Nat) (v : W64) : (w2Put s off v).mgr.stacksOut = s.mgr.stacksOut := rfl
@[simp] theorem w2Put_mgr_grades (s : State) (off : Nat) (v : W64) : (w2Put s off v).mgr.grades = s.mgr.grades := rfl
@[simp] theorem w2Put_mgr_linkMarks (s : State) (off : Nat) (v : W64) : (w2Put s off v).mgr.linkMarks = s.mgr.linkMarks := rfl
@[simp] theorem w2Put_mgr_linksOut (s : State) (off : Nat) (v : W64) : (w2Put s off v).mgr.linksOut = s.mgr.linksOut := rfl
@[simp] theorem w2Put_mgr_portsOut (s : State) (off : Nat) (v : W64) : (w2Put s off v).mgr.portsOut = s.mgr.portsOut := rfl
@[simp] theorem w2Put_mgr_framesOut (s : State) (off : Nat) (v : W64) : (w2Put s off v).mgr.framesOut = s.mgr.framesOut := rfl
@[simp] theorem w2Put_mgr_pcie (s : State) (off : Nat) (v : W64) : (w2Put s off v).mgr.pcie = s.mgr.pcie := rfl
@[simp] theorem w2Put_mgr_failures (s : State) (off : Nat) (v : W64) : (w2Put s off v).mgr.failures = s.mgr.failures := rfl
@[simp] theorem w2Put_mgr_fwSlot (s : State) (off : Nat) (v : W64) : (w2Put s off v).mgr.fwSlot = s.mgr.fwSlot := rfl
@[simp] theorem w2Put_mgr_recSeq (s : State) (off : Nat) (v : W64) : (w2Put s off v).mgr.recSeq = s.mgr.recSeq := rfl
@[simp] theorem w2Put_mgr_marked (s : State) (off : Nat) (v : W64) : (w2Put s off v).mgr.marked = s.mgr.marked := rfl
@[simp] theorem w2Put_mgr_noId (s : State) (off : Nat) (v : W64) : (w2Put s off v).mgr.noId = s.mgr.noId := rfl
@[simp] theorem w2Put_mgr_older (s : State) (off : Nat) (v : W64) : (w2Put s off v).mgr.older = s.mgr.older := rfl
@[simp] theorem w2Put_mgr_starts (s : State) (off : Nat) (v : W64) : (w2Put s off v).mgr.starts = s.mgr.starts := rfl
@[simp] theorem w2Put_mgr_sealSeq (s : State) (off : Nat) (v : W64) : (w2Put s off v).mgr.sealSeq = s.mgr.sealSeq := rfl
@[simp] theorem w2Put_mgr_nextCopy (s : State) (off : Nat) (v : W64) : (w2Put s off v).mgr.nextCopy = s.mgr.nextCopy := rfl
@[simp] theorem w2Put_mgr_markers (s : State) (off : Nat) (v : W64) : (w2Put s off v).mgr.markers = s.mgr.markers := rfl
@[simp] theorem w2Put_mgr_haul (s : State) (off : Nat) (v : W64) : (w2Put s off v).mgr.haul = s.mgr.haul := rfl
@[simp] theorem w2Put_mgr_take (s : State) (off : Nat) (v : W64) : (w2Put s off v).mgr.take = s.mgr.take := rfl
@[simp] theorem w2Put_mgr_lastRead (s : State) (off : Nat) (v : W64) : (w2Put s off v).mgr.lastRead = s.mgr.lastRead := rfl
@[simp] theorem w2Put_mgr_report (s : State) (off : Nat) (v : W64) : (w2Put s off v).mgr.report = s.mgr.report := rfl
@[simp] theorem w2Put_mgr_pfail (s : State) (off : Nat) (v : W64) : (w2Put s off v).mgr.pfail = s.mgr.pfail := rfl
@[simp] theorem w2Put_mgr_budget (s : State) (off : Nat) (v : W64) : (w2Put s off v).mgr.budget = s.mgr.budget := rfl
@[simp] theorem w2Put_mgr_draws (s : State) (off : Nat) (v : W64) : (w2Put s off v).mgr.draws = s.mgr.draws := rfl
@[simp] theorem w2Put_mgr_boot (s : State) (off : Nat) (v : W64) : (w2Put s off v).mgr.boot = s.mgr.boot := rfl
@[simp] theorem w2Put_mgr_bootPid (s : State) (off : Nat) (v : W64) : (w2Put s off v).mgr.bootPid = s.mgr.bootPid := rfl

@[simp] theorem mapPart_tile (s : State) (pid : Nat) (f : Partn → Partn) : (mapPart s pid f).tile = s.tile := rfl
@[simp] theorem mapPart_rest (s : State) (pid : Nat) (f : Partn → Partn) : (mapPart s pid f).rest = s.rest := rfl
@[simp] theorem mapPart_cyc (s : State) (pid : Nat) (f : Partn → Partn) : (mapPart s pid f).cyc = s.cyc := rfl
@[simp] theorem mapPart_net (s : State) (pid : Nat) (f : Partn → Partn) : (mapPart s pid f).net = s.net := rfl
@[simp] theorem mapPart_outPort (s : State) (pid : Nat) (f : Partn → Partn) : (mapPart s pid f).outPort = s.outPort := rfl
@[simp] theorem mapPart_qheld (s : State) (pid : Nat) (f : Partn → Partn) : (mapPart s pid f).qheld = s.qheld := rfl
@[simp] theorem mapPart_quarry (s : State) (pid : Nat) (f : Partn → Partn) : (mapPart s pid f).quarry = s.quarry := rfl
@[simp] theorem mapPart_qbad (s : State) (pid : Nat) (f : Partn → Partn) : (mapPart s pid f).qbad = s.qbad := rfl
@[simp] theorem mapPart_qsoft (s : State) (pid : Nat) (f : Partn → Partn) : (mapPart s pid f).qsoft = s.qsoft := rfl
@[simp] theorem mapPart_qparity (s : State) (pid : Nat) (f : Partn → Partn) : (mapPart s pid f).qparity = s.qparity := rfl
@[simp] theorem mapPart_qrows (s : State) (pid : Nat) (f : Partn → Partn) : (mapPart s pid f).qrows = s.qrows := rfl
@[simp] theorem mapPart_qscrub (s : State) (pid : Nat) (f : Partn → Partn) : (mapPart s pid f).qscrub = s.qscrub := rfl
@[simp] theorem mapPart_walkers (s : State) (pid : Nat) (f : Partn → Partn) : (mapPart s pid f).walkers = s.walkers := rfl
@[simp] theorem mapPart_copies (s : State) (pid : Nat) (f : Partn → Partn) : (mapPart s pid f).copies = s.copies := rfl
@[simp] theorem mapPart_cxl (s : State) (pid : Nat) (f : Partn → Partn) : (mapPart s pid f).cxl = s.cxl := rfl
@[simp] theorem mapPart_cap (s : State) (pid : Nat) (f : Partn → Partn) : (mapPart s pid f).cap = s.cap := rfl
@[simp] theorem mapPart_pairs (s : State) (pid : Nat) (f : Partn → Partn) : (mapPart s pid f).pairs = s.pairs := rfl
@[simp] theorem mapPart_mgr (s : State) (pid : Nat) (f : Partn → Partn) : (mapPart s pid f).mgr = s.mgr := rfl
@[simp] theorem mapPart_agenda (s : State) (pid : Nat) (f : Partn → Partn) : (mapPart s pid f).agenda = s.agenda := rfl
@[simp] theorem mapPart_todo (s : State) (pid : Nat) (f : Partn → Partn) : (mapPart s pid f).todo = s.todo := rfl
@[simp] theorem mapPart_pick (s : State) (pid : Nat) (f : Partn → Partn) : (mapPart s pid f).pick = s.pick := rfl
@[simp] theorem mapPart_access (s : State) (pid : Nat) (f : Partn → Partn) : (mapPart s pid f).access = s.access := rfl
@[simp] theorem mapPart_free (s : State) (pid : Nat) (f : Partn → Partn) : (mapPart s pid f).free = s.free := rfl

@[simp] theorem mapPartn_cyc (s : State) (pid : Nat) (f : Tile → Tile) : (mapPartn s pid f).cyc = s.cyc := rfl
@[simp] theorem mapPartn_net (s : State) (pid : Nat) (f : Tile → Tile) : (mapPartn s pid f).net = s.net := rfl
@[simp] theorem mapPartn_outPort (s : State) (pid : Nat) (f : Tile → Tile) : (mapPartn s pid f).outPort = s.outPort := rfl
@[simp] theorem mapPartn_qheld (s : State) (pid : Nat) (f : Tile → Tile) : (mapPartn s pid f).qheld = s.qheld := rfl
@[simp] theorem mapPartn_quarry (s : State) (pid : Nat) (f : Tile → Tile) : (mapPartn s pid f).quarry = s.quarry := rfl
@[simp] theorem mapPartn_qbad (s : State) (pid : Nat) (f : Tile → Tile) : (mapPartn s pid f).qbad = s.qbad := rfl
@[simp] theorem mapPartn_qsoft (s : State) (pid : Nat) (f : Tile → Tile) : (mapPartn s pid f).qsoft = s.qsoft := rfl
@[simp] theorem mapPartn_qparity (s : State) (pid : Nat) (f : Tile → Tile) : (mapPartn s pid f).qparity = s.qparity := rfl
@[simp] theorem mapPartn_qrows (s : State) (pid : Nat) (f : Tile → Tile) : (mapPartn s pid f).qrows = s.qrows := rfl
@[simp] theorem mapPartn_qscrub (s : State) (pid : Nat) (f : Tile → Tile) : (mapPartn s pid f).qscrub = s.qscrub := rfl
@[simp] theorem mapPartn_walkers (s : State) (pid : Nat) (f : Tile → Tile) : (mapPartn s pid f).walkers = s.walkers := rfl
@[simp] theorem mapPartn_copies (s : State) (pid : Nat) (f : Tile → Tile) : (mapPartn s pid f).copies = s.copies := rfl
@[simp] theorem mapPartn_cxl (s : State) (pid : Nat) (f : Tile → Tile) : (mapPartn s pid f).cxl = s.cxl := rfl
@[simp] theorem mapPartn_cap (s : State) (pid : Nat) (f : Tile → Tile) : (mapPartn s pid f).cap = s.cap := rfl
@[simp] theorem mapPartn_partns (s : State) (pid : Nat) (f : Tile → Tile) : (mapPartn s pid f).partns = s.partns := rfl
@[simp] theorem mapPartn_pairs (s : State) (pid : Nat) (f : Tile → Tile) : (mapPartn s pid f).pairs = s.pairs := rfl
@[simp] theorem mapPartn_mgr (s : State) (pid : Nat) (f : Tile → Tile) : (mapPartn s pid f).mgr = s.mgr := rfl
@[simp] theorem mapPartn_agenda (s : State) (pid : Nat) (f : Tile → Tile) : (mapPartn s pid f).agenda = s.agenda := rfl
@[simp] theorem mapPartn_todo (s : State) (pid : Nat) (f : Tile → Tile) : (mapPartn s pid f).todo = s.todo := rfl
@[simp] theorem mapPartn_pick (s : State) (pid : Nat) (f : Tile → Tile) : (mapPartn s pid f).pick = s.pick := rfl
@[simp] theorem mapPartn_access (s : State) (pid : Nat) (f : Tile → Tile) : (mapPartn s pid f).access = s.access := rfl
@[simp] theorem mapPartn_free (s : State) (pid : Nat) (f : Tile → Tile) : (mapPartn s pid f).free = s.free := rfl

end Sys2Proof.Machine
end

