-- ==== Sys2Proof/Laws/Memory.lean ====
section
/-! SUPPORT. Reads after writes, and that every memory operation keeps the canonical form. -/

namespace Sys2Proof.Machine

open Sys2Proof

variable {w : Nat}

theorem cellsFrom_mono {m : Store w} {lo lo' : Nat} (h : cellsFrom lo m = true) (hl : lo' ≤ lo) : cellsFrom lo' m = true := by
  cases m with
  | nil => rfl
  | cons p r =>
    obtain ⟨a, b⟩ := p
    simp only [cellsFrom, Bool.and_eq_true, decide_eq_true_eq] at h ⊢
    exact ⟨⟨by omega, h.1.2⟩, h.2⟩

theorem cellsFrom_cons {lo a : Nat} {b : BitVec w} {r : Store w} :
    cellsFrom lo ((a, b) :: r) = true ↔ lo ≤ a ∧ b ≠ 0 ∧ cellsFrom (a + 1) r = true := by
  simp only [cellsFrom, Bool.and_eq_true, decide_eq_true_eq, and_assoc]

theorem cellGet_below {m : Store w} {lo k : Nat} (h : cellsFrom lo m = true) (hk : k < lo) : cellGet m k = 0 := by
  cases m with
  | nil => rfl
  | cons p r =>
    obtain ⟨a, b⟩ := p
    have := (cellsFrom_cons.1 h).1
    simp only [cellGet]
    rw [if_neg (by omega), if_pos (by omega)]

/-- The entries above a key, as a cell of that key is erased. -/
theorem cellGet_drop (m : Store w) (k j : Nat) :
    cellGet (m.dropWhile (fun p => decide (p.1 ≤ k))) j = if j ≤ k then 0 else cellGet m j := by
  induction m with
  | nil => simp [cellGet]
  | cons p r ih =>
    obtain ⟨a, b⟩ := p
    by_cases ha : a ≤ k
    · rw [List.dropWhile_cons_of_pos (by simpa using ha), ih]
      by_cases hj : j ≤ k
      · rw [if_pos hj, if_pos hj]
      · rw [if_neg hj, if_neg hj]
        simp only [cellGet]
        rw [if_neg (by omega), if_neg (by omega)]
    · rw [List.dropWhile_cons_of_neg (by simpa using ha)]
      by_cases hj : j ≤ k
      · rw [if_pos hj]
        simp only [cellGet]
        rw [if_neg (by omega), if_pos (by omega)]
      · rw [if_neg hj]

theorem cellsFrom_drop {m : Store w} {lo k : Nat} (h : cellsFrom lo m = true) (hk : k < lo) :
    m.dropWhile (fun p => decide (p.1 ≤ k)) = m := by
  cases m with
  | nil => rfl
  | cons p r =>
    have := (cellsFrom_cons.1 h).1
    rw [List.dropWhile_cons_of_neg (by simp; omega)]

/-- Setting a cell keeps the canonical form. -/
theorem cellSet_from {m : Store w} {lo k : Nat} {v : BitVec w} (h : cellsFrom lo m = true) (hk : lo ≤ k) :
    cellsFrom lo (cellSet m k v) = true := by
  induction m generalizing lo with
  | nil =>
    simp only [cellSet]
    split
    · rfl
    · exact cellsFrom_cons.2 ⟨hk, ‹_›, rfl⟩
  | cons p r ih =>
    obtain ⟨a, b⟩ := p
    have ⟨h1, h2, h3⟩ := cellsFrom_cons.1 h
    simp only [cellSet]
    split
    · subst k
      split
      · rw [cellsFrom_drop h3 (by omega)]
        exact cellsFrom_mono h3 (by omega)
      · exact cellsFrom_cons.2 ⟨h1, ‹_›, h3⟩
    · split
      · split
        · exact h
        · exact cellsFrom_cons.2 ⟨hk, ‹_›, cellsFrom_cons.2 ⟨by omega, h2, h3⟩⟩
      · exact cellsFrom_cons.2 ⟨h1, h2, ih h3 (by omega)⟩

theorem cellSet_wf {m : Store w} (k : Nat) (v : BitVec w) (h : cellWf m = true) : cellWf (cellSet m k v) = true :=
  cellSet_from h (Nat.zero_le k)

/-- A read after a write of the same cell gives the value written, in any list. -/
theorem cellGet_set (m : Store w) (k : Nat) (v : BitVec w) : cellGet (cellSet m k v) k = v := by
  induction m with
  | nil =>
    simp only [cellSet]
    split
    · simp [cellGet, *]
    · simp [cellGet]
  | cons p r ih =>
    obtain ⟨a, b⟩ := p
    simp only [cellSet]
    split
    · split
      · rw [cellGet_drop, if_pos (Nat.le_refl k)]
        exact Eq.symm ‹_›
      · simp [cellGet]
    · split
      · split
        · subst v
          simp only [cellGet]
          rw [if_neg ‹_›, if_pos ‹_›]
        · simp [cellGet]
      · simp only [cellGet]
        rw [if_neg ‹_›, if_neg ‹_›]
        exact ih

/-- A write leaves every other cell alone, in any list. -/
theorem cellGet_set_ne (m : Store w) {j k : Nat} (v : BitVec w) (hj : j ≠ k) : cellGet (cellSet m k v) j = cellGet m j := by
  induction m with
  | nil =>
    simp only [cellSet]
    split
    · rfl
    · simp only [cellGet]
      rw [if_neg (by omega)]
      split <;> rfl
  | cons p r ih =>
    obtain ⟨a, b⟩ := p
    simp only [cellSet]
    split
    · subst k
      split
      · rw [cellGet_drop]
        simp only [cellGet]
        rw [if_neg (Ne.symm hj)]
        by_cases h : j < a
        · rw [if_pos (by omega), if_pos h]
        · rw [if_neg (by omega), if_neg h]
      · simp only [cellGet]
        rw [if_neg (Ne.symm hj), if_neg (Ne.symm hj)]
    · split
      · split
        · rfl
        · simp only [cellGet]
          rw [if_neg (by omega : ¬k = j)]
          split
          · rw [if_neg (by omega), if_pos (by omega)]
          · rfl
      · simp only [cellGet]
        rw [ih]

/-- Both at once. -/
theorem cellGet_set_eq (m : Store w) (j k : Nat) (v : BitVec w) : cellGet (cellSet m k v) j = if j = k then v else cellGet m j := by
  split
  · subst j; exact cellGet_set m k v
  · exact cellGet_set_ne m v ‹_›

theorem cellSets_wf {m : Store w} (l : List (Nat × BitVec w)) (h : cellWf m = true) : cellWf (cellSets m l) = true := by
  induction l generalizing m with
  | nil => exact h
  | cons p r ih => exact ih (cellSet_wf p.1 p.2 h)

/-- A cell that no write of a list names keeps its value. -/
theorem cellGet_sets_ne (m : Store w) {j : Nat} (l : List (Nat × BitVec w)) (hj : ∀ p ∈ l, p.1 ≠ j) :
    cellGet (cellSets m l) j = cellGet m j := by
  induction l generalizing m with
  | nil => rfl
  | cons p r ih =>
    simp only [cellSets]
    rw [ih _ (fun q hq => hj q (List.mem_cons_of_mem _ hq))]
    exact cellGet_set_ne m p.2 (Ne.symm (hj p (List.mem_cons_self ..)))

theorem writeBytes_wf {m : Memory} (a : Nat) (bs : List Byte) (h : m.wf = true) : (writeBytes m a bs).wf = true := cellSets_wf _ h

theorem cellsFrom_append {m n : Store w} {lo mid : Nat} (h1 : cellsFrom lo m = true) (h2 : cellsFrom mid n = true)
    (hm : ∀ p ∈ m, p.1 < mid) (hl : lo ≤ mid) : cellsFrom lo (m ++ n) = true := by
  induction m generalizing lo with
  | nil => exact cellsFrom_mono h2 hl
  | cons p r ih =>
    obtain ⟨a, b⟩ := p
    have ⟨g1, g2, g3⟩ := cellsFrom_cons.1 h1
    have ha : a < mid := hm (a, b) (List.mem_cons_self ..)
    exact cellsFrom_cons.2 ⟨g1, g2, ih g3 (fun q hq => hm q (List.mem_cons_of_mem _ hq)) (by omega)⟩

theorem cellsFrom_filter {m : Store w} {lo : Nat} (f : Nat × BitVec w → Bool) (h : cellsFrom lo m = true) : cellsFrom lo (m.filter f) = true := by
  induction m generalizing lo with
  | nil => rfl
  | cons p r ih =>
    obtain ⟨a, b⟩ := p
    have ⟨g1, g2, g3⟩ := cellsFrom_cons.1 h
    simp only [List.filter]
    split
    · exact cellsFrom_cons.2 ⟨g1, g2, ih g3⟩
    · exact cellsFrom_mono (ih g3) (by omega)

theorem cellsFrom_above {m : Store w} {lo hi : Nat} (h : cellsFrom lo m = true) : cellsFrom hi (m.filter (fun p => decide (hi ≤ p.1))) = true := by
  induction m generalizing lo with
  | nil => rfl
  | cons p r ih =>
    obtain ⟨a, b⟩ := p
    have ⟨g1, g2, g3⟩ := cellsFrom_cons.1 h
    simp only [List.filter]
    split
    · rename_i hc
      refine cellsFrom_cons.2 ⟨by simpa using hc, g2, ?_⟩
      exact cellsFrom_filter _ g3
    · exact ih g3

theorem atAddr_filter_from (a : Nat) (bs : List Byte) :
    cellsFrom a ((atAddr a bs).filter (fun p => decide (p.2 ≠ 0))) = true ∧
    ∀ p ∈ (atAddr a bs).filter (fun p => decide (p.2 ≠ 0)), p.1 < a + bs.length := by
  induction bs generalizing a with
  | nil => exact ⟨rfl, by simp [atAddr]⟩
  | cons b r ih =>
    obtain ⟨i1, i2⟩ := ih (a + 1)
    by_cases hb : b = 0
    · subst hb
      have e : (atAddr a (0 :: r)).filter (fun p => decide (p.2 ≠ 0)) = (atAddr (a + 1) r).filter (fun p => decide (p.2 ≠ 0)) := by
        rw [atAddr, List.filter_cons_of_neg (by simp)]
      rw [e]
      exact ⟨cellsFrom_mono i1 (by omega), fun p hp => by have := i2 p hp; simp only [List.length_cons]; omega⟩
    · have e : (atAddr a (b :: r)).filter (fun p => decide (p.2 ≠ 0)) = (a, b) :: (atAddr (a + 1) r).filter (fun p => decide (p.2 ≠ 0)) := by
        rw [atAddr, List.filter_cons_of_pos (by simpa using hb)]
      rw [e]
      refine ⟨cellsFrom_cons.2 ⟨Nat.le_refl a, hb, i1⟩, fun p hp => ?_⟩
      simp only [List.length_cons]
      rcases List.mem_cons.1 hp with h | h
      · subst h; simp only; omega
      · have := i2 p h; omega

/-- A block of bytes laid over a memory keeps the canonical form. -/
theorem blit_wf {m : Memory} (a : Nat) (bs : List Byte) (h : m.wf = true) : (blit m a bs).wf = true := by
  obtain ⟨i1, i2⟩ := atAddr_filter_from a bs
  have hm : cellsFrom 0 m = true := h
  have p1 : cellsFrom 0 (m.filter (fun p => decide (p.1 < a))) = true := cellsFrom_filter _ hm
  have p3 : cellsFrom (a + bs.length) (m.filter (fun p => decide (a + bs.length ≤ p.1))) = true := cellsFrom_above hm
  show cellsFrom 0 (m.filter (fun p => decide (p.1 < a)) ++ (atAddr a bs).filter (fun p => decide (p.2 ≠ 0))
    ++ m.filter (fun p => decide (a + bs.length ≤ p.1))) = true
  rw [List.append_assoc]
  refine cellsFrom_append p1 (cellsFrom_append i1 p3 i2 (by omega)) ?_ (Nat.zero_le a)
  intro p hp
  simpa using (List.mem_filter.1 hp).2

/-- Two memories in canonical form that read alike are the same list. -/
theorem cells_ext {m n : Store w} {lo : Nat} (hm : cellsFrom lo m = true) (hn : cellsFrom lo n = true)
    (h : ∀ k, cellGet m k = cellGet n k) : m = n := by
  induction m generalizing n lo with
  | nil =>
    cases n with
    | nil => rfl
    | cons p r =>
      obtain ⟨a, b⟩ := p
      have ⟨_, h2, _⟩ := cellsFrom_cons.1 hn
      have := h a
      simp [cellGet] at this
      exact absurd this.symm h2
  | cons p r ih =>
    obtain ⟨a, b⟩ := p
    have ⟨m1, m2, m3⟩ := cellsFrom_cons.1 hm
    cases n with
    | nil =>
      have := h a
      simp [cellGet] at this
      exact absurd this m2
    | cons q t =>
      obtain ⟨c, d⟩ := q
      have ⟨n1, n2, n3⟩ := cellsFrom_cons.1 hn
      have hac : a = c := by
        rcases Nat.lt_trichotomy a c with hlt | heq | hgt
        · have := h a
          simp only [cellGet, if_true] at this
          rw [if_neg (by omega), if_pos hlt] at this
          exact absurd this m2
        · exact heq
        · have := h c
          simp only [cellGet, if_true] at this
          rw [if_neg (by omega), if_pos hgt] at this
          exact absurd this.symm n2
      subst hac
      have hbd : b = d := by have := h a; simpa [cellGet] using this
      subst hbd
      refine congrArg _ (ih m3 n3 fun k => ?_)
      by_cases hk : k ≤ a
      · rw [cellGet_below m3 (by omega), cellGet_below n3 (by omega)]
      · have := h k
        simp only [cellGet] at this
        rwa [if_neg (by omega), if_neg (by omega), if_neg (by omega), if_neg (by omega)] at this

/-! ## SRAM writes -/

theorem benchLine_mem (t : Tile) (l : Nat) : (benchLine t l).mem = t.mem := by
  unfold benchLine
  split
  · rfl
  · split <;> rfl

theorem benchLines_mem (ls : List Nat) (t : Tile) : (ls.foldl benchLine t).mem = t.mem := by
  induction ls generalizing t with
  | nil => rfl
  | cons l r ih => exact (ih _).trans (benchLine_mem t l)

theorem benchLine_wf (t : Tile) (l : Nat) (h : tileWf t = true) : tileWf (benchLine t l) = true := by
  unfold benchLine
  split
  · exact h
  · rename_i c hc
    split
    · exact h
    · simp only [tileWf, hc, Bool.and_eq_true, captureWf] at h ⊢
      exact h

theorem benchLines_wf (ls : List Nat) (t : Tile) (h : tileWf t = true) : tileWf (ls.foldl benchLine t) = true := by
  induction ls generalizing t with
  | nil => exact h
  | cons l r ih => exact ih _ (benchLine_wf t l h)

/-- New contents in canonical form keep a tile's memories so. -/
theorem tileWf_mem {t u : Tile} (h : tileWf t = true) (hb : u.bench = t.bench) (hm : u.mem.wf = true) : tileWf u = true := by
  simp only [tileWf, hb, Bool.and_eq_true] at h ⊢
  exact ⟨hm, h.2⟩

theorem tileWf_wf {t : Tile} (h : tileWf t = true) : t.mem.wf = true := by
  simp only [tileWf, Bool.and_eq_true] at h
  exact h.1

/-- An engine's write into a reserved region keeps the canonical forms. -/
theorem regionWrite_wf (t : Tile) (a : Nat) (bs : List Byte) (h : tileWf t = true) : tileWf (regionWrite t a bs) = true := by
  have hb := benchLines_wf ((upto (bs.length / 64 + 1)).map (fun i => lineOf a + i)) t h
  exact tileWf_mem hb rfl (blit_wf a bs (tileWf_wf hb))

/-- A record of the trail keeps the canonical forms. -/
theorem trailRecord_wf (t : Tile) (k place kind seg : Nat) (data : List Byte) (h : tileWf t = true) :
    tileWf (trailRecord t k place kind seg data) = true := by
  unfold trailRecord
  split
  · exact h
  · exact regionWrite_wf _ _ _ h

theorem trailLine_wf (t : Tile) (l : Nat) (h : tileWf t = true) : tileWf (trailLine t l) = true := by
  unfold trailLine
  split
  · exact h
  · split
    · exact h
    · have g := trailRecord_wf t (trailUsed t) (64 * l) 1 ‹Segment›.no (leBytes (lineGet t.mem l).toNat 64) h
      exact tileWf_mem g rfl (tileWf_wf g)

theorem trailLines_wf (ls : List Nat) (t : Tile) (h : tileWf t = true) : tileWf (ls.foldl trailLine t) = true := by
  induction ls generalizing t with
  | nil => exact h
  | cons l r ih => exact ih _ (trailLine_wf t l h)

/-- A write of SRAM keeps the memories of its tile in canonical form, whatever it saves for the trail and the bench. -/
theorem sramPut_wf (t : Tile) (trail : Bool) (ws : List Nat) (bs : List (Nat × Byte)) (h : tileWf t = true) :
    tileWf (sramPut t trail ws bs) = true := by
  have key : ∀ u : Tile, tileWf u = true → ∀ p so ho,
      tileWf { (List.foldl benchLine u (linesOf bs)) with
        mem := cellSets (List.foldl benchLine u (linesOf bs)).mem bs, poison := p, soft := so, haloOld := ho } = true := by
    intro u hu p so ho
    have hb := benchLines_wf (linesOf bs) u hu
    exact tileWf_mem hb rfl (cellSets_wf bs (tileWf_wf hb))
  unfold sramPut
  by_cases hc : (trail && isOpt t) = true
  · simp only [hc, if_true]
    exact key _ (trailLines_wf _ t h) _ _ _
  · simp only [Bool.not_eq_true] at hc
    simp only [hc]
    exact key t h _ _ _

theorem sramWrite_wf (t : Tile) (trail : Bool) (bs : List (Nat × Byte)) (h : tileWf t = true) : tileWf (sramWrite t trail bs) = true :=
  sramPut_wf t trail _ bs h

/-- A byte of SRAM that a write without trail records does not name reads as before. -/
theorem sramPut_other (t : Tile) (trail : Bool) (ws : List Nat) (bs : List (Nat × Byte)) {j : Nat} (ho : (trail && isOpt t) = false)
    (hj : ∀ p ∈ bs, p.1 ≠ j) : cellGet (sramPut t trail ws bs).mem j = cellGet t.mem j := by
  unfold sramPut
  simp only [ho, benchLines_mem]
  exact cellGet_sets_ne _ bs hj

theorem sramWrite_other (t : Tile) (trail : Bool) (bs : List (Nat × Byte)) {j : Nat} (ho : (trail && isOpt t) = false)
    (hj : ∀ p ∈ bs, p.1 ≠ j) : cellGet (sramWrite t trail bs).mem j = cellGet t.mem j :=
  sramPut_other t trail _ bs ho hj

end Sys2Proof.Machine
end

