-- ==== Sys2Proof/Laws/Ops.lean ====
section
/-! SUPPORT. For each shared operation what it can do, said once: modes and guards, results, causes, accesses to SRAM, control words,
landings, the tile of a step, and taking a trap. -/

namespace Sys2Proof.Machine

open Sys2Proof

/-! ## Modes and guards (R25, R353, R363) -/

theorem plain_on {c : Ctl} {s : State} (f : State → State) (h : runs s c) : plain c s f = .next (f s) := by
  simp only [runs] at h
  simp [plain, h]

theorem plain_off {c : Ctl} {s : State} (f : State → State) (h : guardOf s.tile c = false) : plain c s f = .next s := by simp [plain, h]

theorem unitSlot_on {c : Ctl} {s : State} (f : State → State) (h : runsUser s c) : unitSlot c s f = .next (f s) := by
  simp [unitSlot, h.1, h.2]

theorem unitSlot_sup {c : Ctl} {s : State} (f : State → State) (h : s.tile.sup = true) : unitSlot c s f = .next (double s) := by
  simp [unitSlot, h]

theorem unitSlot_off {c : Ctl} {s : State} (f : State → State) (h : s.tile.sup = false) (g : guardOf s.tile c = false) :
    unitSlot c s f = .next s := by simp [unitSlot, h, g]

/-- An E-class slot in user mode is a unit slot. -/
theorem engSlot_user {c : Ctl} {s : State} (f : State → State) (h : s.tile.sup = false) : engSlot c s f = unitSlot c s f := by
  simp [engSlot, unitSlot, h]

theorem engSlot_on {c : Ctl} {s : State} (f : State → State) (h : runsUser s c) : engSlot c s f = .next (f s) := by
  rw [engSlot_user f h.1, unitSlot_on f h]

/-- In supervisor mode it raises DOUBLE after the causes of its own (R353). -/
theorem engSlot_sup {c : Ctl} {s : State} (f : State → State) (h : s.tile.sup = true) :
    engSlot c s f = .next (double (updIss s (fun i => { i with causes := (if guardOf s.tile c then f s else s).tile.iss.causes }))) := by
  simp [engSlot, h]

theorem userSlot_on {c : Ctl} {s : State} (f : State → State) (h : runsUser s c) : userSlot c s f = .next (f s) := by
  simp [userSlot, h.1, h.2]

theorem userSlot_sup {c : Ctl} {s : State} (f : State → State) (h : s.tile.sup = true) : userSlot c s f = .next (illop s) := by
  simp [userSlot, h]

theorem supSlot_on {c : Ctl} {s : State} (f : State → State) (h : runs s c) (g : s.tile.sup = true) : supSlot c s f = .next (f s) := by
  simp only [runs] at h
  simp [supSlot, h, g]

theorem supSlot_user {c : Ctl} {s : State} (f : State → State) (h : runsUser s c) : supSlot c s f = .next (addCause s 0x03 0x1B) := by
  simp [supSlot, h.1, h.2]

/-! ## What a slot adds -/

theorem updIss_updIss (s : State) (f g : Issue → Issue) : updIss (updIss s f) g = updIss s (fun i => g (f i)) := rfl

theorem addX_emit (s : State) (n : Nat) (d : Reg) (v : W64) : addX s n d v = emit s (xOut n false d v) := by
  unfold addX xOut
  split <;> simp [emit, addFlight, updIss]

theorem addP_emit (s : State) (q : BitVec 7) (v : Bool) : addP s q v = emit s (pOut q v) := by
  unfold addP pOut
  split <;> simp [emit, addFlight, updIss]

theorem addFlight_emit (s : State) (n : Nat) (u : Bool) (r : Res) : addFlight s n u r = emit s [⟨n, u, r⟩] := rfl

/-- Where no halo row is landing, a load finds SRAM as it stands (R119). -/
theorem seen_mem {s : State} (h : s.tile.haloOld = []) : seen s = s.tile.mem := by simp [seen, h]

theorem emit_emit (s : State) (a b : List Flight) : emit (emit s a) b = emit s (a ++ b) := by simp [emit, updIss]

theorem emit_nil (s : State) : emit s [] = s := by simp [emit, updIss]

theorem addCause_raise (s : State) (k : Nat) (v : W64) : addCause s k v = raise s [(k, v)] := rfl

theorem illop_raise (s : State) : illop s = refusedAs s := rfl

theorem raise_raise (s : State) (a b : List (Nat × W64)) : raise (raise s a) b = raise s (a ++ b) := by simp [raise, updIss]

theorem raise_nil (s : State) : raise s [] = s := by simp [raise, updIss]

theorem issueOnly_refl (s : State) : issueOnly s s := rfl

theorem issueOnly_updIss {s t : State} (f : Issue → Issue) (h : issueOnly s t) : issueOnly s (updIss t f) := by
  unfold issueOnly at *
  rw [h]
  rfl

theorem issueOnly_trans {s t u : State} (h : issueOnly s t) (g : issueOnly t u) : issueOnly s u := by
  unfold issueOnly at *
  rw [g, h]

/-- The slot's guard and mode read nothing of the issue group. -/
@[simp] theorem guardOf_updIss (s : State) (f : Issue → Issue) (c : Ctl) : guardOf (updIss s f).tile c = guardOf s.tile c := rfl
@[simp] theorem X_updIss (s : State) (f : Issue → Issue) (r : Reg) : X (updIss s f) r = X s r := rfl
@[simp] theorem V_updIss (s : State) (f : Issue → Issue) (r : Reg) : V (updIss s f) r = V s r := rfl
@[simp] theorem M_updIss (s : State) (f : Issue → Issue) (r : BitVec 3) : M (updIss s f) r = M s r := rfl
@[simp] theorem LT_updIss (s : State) (f : Issue → Issue) (n : Nat) : LT (updIss s f) n = LT s n := rfl
@[simp] theorem cwGet_updIss (s : State) (f : Issue → Issue) (n : Nat) : cwGet (updIss s f).tile n = cwGet s.tile n := rfl
@[simp] theorem slotWord_addCause (s : State) (k : Nat) (v : W64) : slotWord (addCause s k v) = slotWord s := rfl
@[simp] theorem xbOf_updIss (s : State) (f : Issue → Issue) : xbOf (updIss s f).tile = xbOf s.tile := rfl
@[simp] theorem floorOf_updIss (s : State) (f : Issue → Issue) : floorOf (updIss s f).tile = floorOf s.tile := rfl
@[simp] theorem rangeOk_updIss (s : State) (f : Issue → Issue) (m : Bool) (a : Int) (n : Nat) :
    rangeOk (updIss s f).tile m a n = rangeOk s.tile m a n := rfl

/-! ## Accesses to SRAM (R117) -/

theorem floorOf_lt (t : Tile) : floorOf t < 0x200000 := by
  simp only [floorOf, regionBase, bitsOf]
  exact Nat.mod_lt _ (by norm_num)

/-- An access passes the check of its range exactly if each of its bytes is permitted. -/
theorem rangeOk_spanOk (t : Tile) (a : Int) (n : Nat) : rangeOk t t.sup a n = spanOk t a n := by
  have hf := floorOf_lt t
  rw [Bool.eq_iff_iff]
  simp only [rangeOk, spanOk, byteOk, upto, List.all_eq_true, List.mem_range, Bool.or_eq_true, Bool.and_eq_true, decide_eq_true_eq]
  constructor
  · rintro (h | ⟨h1, h2⟩) k hk
    · omega
    · cases ht : t.sup <;> simp only [ht] at h2 ⊢ <;> simp at h2 ⊢ <;> omega
  · intro h
    by_cases hn : n = 0
    · exact .inl hn
    · have h0 := h 0 (by omega)
      have h1 := h (n - 1) (by omega)
      have hc : ((n - 1 : Nat) : Int) = n - 1 := by omega
      rw [hc] at h1
      refine .inr ⟨by simpa using h0.1.1, ?_⟩
      cases ht : t.sup <;> simp only [ht] at h1 ⊢ <;> simp at h1 ⊢ <;> omega

theorem checkAccess_raise (s : State) (a : Int) (n al : Nat) : checkAccess s a n al = raise s (accessFaults s.tile a n al) := by
  unfold checkAccess accessFaults
  rw [rangeOk_spanOk]
  cases spanOk s.tile a n <;> by_cases h : a % al = 0 <;> simp [h, addCause, raise, updIss]

theorem accessOk_faults (s : State) (a : Int) (n al : Nat) : accessOk s a n al = decide (accessFaults s.tile a n al = []) := by
  unfold accessOk accessFaults
  rw [rangeOk_spanOk]
  cases spanOk s.tile a n <;> by_cases h : a % al = 0 <;> simp [h]

/-- A load raises the causes of its access, or else reads the bytes. -/
theorem loadWith_cases (s : State) (a : Int) (n al : Nat) (k : State → Nat → State) :
    loadWith s a n al k = if accessFaults s.tile a n al = [] then k (addRead s a.toNat n) (readLe (seen s) a.toNat n)
      else raise s (accessFaults s.tile a n al) := by
  unfold loadWith
  simp only [accessOk_faults, checkAccess_raise]
  by_cases h : accessFaults s.tile a n al = [] <;> simp [h, raise_nil]

/-- A store raises the causes of its access, or else stores the bytes. -/
theorem storeWith_cases (s : State) (a : Int) (al : Nat) (bs : List Byte) :
    storeWith s a al bs = if accessFaults s.tile a bs.length al = [] then addStores s (atAddr a.toNat bs)
      else raise s (accessFaults s.tile a bs.length al) := by
  unfold storeWith
  simp only [accessOk_faults, checkAccess_raise]
  by_cases h : accessFaults s.tile a bs.length al = [] <;> simp [h, raise_nil]

/-! ## Control words -/

theorem cwGet_cwPut (t : Tile) (n k : Nat) (v : W64) : cwGet (cwPut t n v) k = if k = n then v else cwGet t k := by
  unfold cwGet cwPut
  by_cases hk : k = n
  · subst hk
    cases h : cwOfTask k <;> simp [cellGet_set]
  · cases h : cwOfTask n <;> cases h2 : cwOfTask k <;> simp [cellGet_set_ne _ _ hk, hk]

/-! ## Registers (R71) -/

/-- A write of a scalar register leaves every other one. -/
theorem xGet_xPut_ne (th : Thread) (d : Reg) {r : Reg} (v : W64) (b : Bool) (h : r ≠ d) : xGet (xPut th d v b) r = xGet th r := by
  have hn : r.toNat ≠ d.toNat := fun h' => h (BitVec.eq_of_toNat_eq h')
  unfold xPut xGet
  repeat' split
  all_goals simp_all [cellGet_set_ne]

/-! ## The tile of a step -/

theorem focus_site {s : State} {site : Nat} (h : (tileAt s site).isSome = true) : (focus site s).tile.site = site := by
  unfold tileAt at h
  unfold focus
  by_cases hs : s.tile.site = site
  · simp [hs]
  · simp only [hs, if_false] at h ⊢
    cases hf : s.rest.find? (fun t => t.site = site) with
    | none => simp [hf] at h
    | some t =>
      have := List.find?_some hf
      simpa using this

theorem atTile_eq {s u : State} {site : Nat} (h : atSite s site u) (f : State → State) : atTile s site f = .next (f u) := by
  obtain ⟨h1, rfl⟩ := h
  obtain ⟨t, ht⟩ := Option.isSome_iff_exists.1 h1
  simp [atTile, ht]

theorem atTile_none {s : State} {site : Nat} (h : tileAt s site = none) (f : State → State) : atTile s site f = .next s := by
  simp [atTile, h]

/-! ## Taking a trap (R354, R359, R360) -/

theorem takeTrap_double (s : State) (v : W64) (pc : LAddr) : takeTrap s 0x12 v pc = contain s s.tile.pid 0x12 0 := rfl

theorem takeTrap_nested {s : State} {code : Nat} (v : W64) (pc : LAddr) (h : code ≠ 0x12) (hs : s.tile.sup = true) (hl : s.tile.ltsb ≠ []) :
    takeTrap s code v pc = contain s s.tile.pid 0x12 code := by
  simp only [takeTrap, h, hs, hl, if_false, ne_eq, not_false_eq_true, and_self, if_true]

theorem takeTrap_disabled {s : State} {code : Nat} (v : W64) (pc : LAddr) (h : code ≠ 0x12) (hl : s.tile.sup = false ∨ s.tile.ltsb = [])
    (ht : (cwGet s.tile 0x103).getLsbD 0 = false) : takeTrap s code v pc = contain s s.tile.pid code 0 := by
  have : ¬ (s.tile.sup = true ∧ s.tile.ltsb ≠ []) := by
    rintro ⟨a, b⟩
    rcases hl with h | h <;> simp_all
  simp only [takeTrap, h, this, ht, if_false, if_true]

/-! ## The start record, the bench store and rollback (R212, R307, R342, R419) -/

/-- A write of the start record changes nothing but the other copy and the sequence number. -/
theorem saveRecord_frame (s : State) : (saveRecord s).tile = s.tile ∧ (saveRecord s).rest = s.rest ∧ (saveRecord s).quarry = s.quarry
    ∧ (saveRecord s).cap = s.cap ∧ (saveRecord s).mgr.older = recordOf s.mgr ∧ (saveRecord s).mgr.w0 = s.mgr.w0 := ⟨rfl, rfl, rfl, rfl, rfl, rfl⟩

@[simp] theorem landLoose_nil (s : State) : landLoose s [] = s := rfl

theorem leBytes_length (v n : Nat) : (leBytes v n).length = n := by induction n generalizing v <;> simp [leBytes, *]

theorem leNat_leBytes (n v : Nat) : leNat (leBytes v n) = v % 256 ^ n := by
  induction n generalizing v with
  | zero => simp [leBytes, leNat, Nat.mod_one]
  | succ n ih => rw [leBytes, leNat, ih, Nat.pow_succ, Nat.mul_comm (256 ^ n) 256, Nat.mod_mul]; simp

/-- The body of a stored page: the page itself, or a shorter block that decodes to it. -/
theorem pageBody_cases (page : List Byte) : pageBody page = (0, page)
    ∨ ∃ z, pageBody page = (1, z) ∧ z.length < 16384 ∧ unlz4 (z.length + 1) z [] = some page := by
  unfold pageBody
  simp only
  split
  · next h => exact .inr ⟨_, rfl, h⟩
  · exact .inl rfl

end Sys2Proof.Machine
end

