-- ==== Sys2Proof/Laws/PerInstr.lean ====
section
/-! SUPPORT. A family of statements per instruction: the word of a slot carries the slot's stop and guard bits (R24, R25). -/

set_option Elab.async false

namespace Sys2Proof.Laws.GuardBits

open Sys2Proof Sys2Proof.Machine

/-- The word of an instruction holds the stop bit and the guard that its meaning reads; a no-operation has no guard. -/
def Statement (i : Instr) : Prop := ∀ w, encode i = some w → (slotInfo i).cls = .none ∨ ctlOf w = (slotInfo i).ctl

/-- Every bit of a word, from the parts it was made of. -/
theorem ctlBits_bit (c : Ctl) (op : BitVec 6) (body : BitVec 21) (i : Nat) :
    (ctlBits c op body).getLsbD i
      = if i < 21 then body.getLsbD i else if i - 21 < 3 then c.gi.getLsbD (i - 21) else if i - 21 - 3 < 1 then (BitVec.ofBool c.gn).getLsbD (i - 21 - 3)
        else if i - 21 - 3 - 1 < 6 then op.getLsbD (i - 21 - 3 - 1) else (BitVec.ofBool c.stop).getLsbD (i - 21 - 3 - 1 - 6) := by
  have h1 := BitVec.getLsbD_append (x := BitVec.ofBool c.stop ++ op ++ BitVec.ofBool c.gn ++ c.gi) (y := body) (i := i)
  have h2 := BitVec.getLsbD_append (x := BitVec.ofBool c.stop ++ op ++ BitVec.ofBool c.gn) (y := c.gi) (i := i - 21)
  have h3 := BitVec.getLsbD_append (x := BitVec.ofBool c.stop ++ op) (y := BitVec.ofBool c.gn) (i := i - 21 - 3)
  have h4 := BitVec.getLsbD_append (x := BitVec.ofBool c.stop) (y := op) (i := i - 21 - 3 - 1)
  rw [h2, h3, h4] at h1
  exact h1

/-- The stop and guard bits of a word are those it was made with. -/
theorem ctlOf_ctlBits (c : Ctl) (op : BitVec 6) (body : BitVec 21) : ctlOf (ctlBits c op body) = c := by
  obtain ⟨p, n, g⟩ := c
  simp only [ctlOf, Ctl.mk.injEq, ctlBits_bit, fld]
  refine ⟨by simp, by simp, BitVec.eq_of_getLsbD_eq fun i h => ?_⟩
  rw [BitVec.getLsbD_extractLsb', ctlBits_bit]
  have h1 : ¬ 21 + i < 21 := by omega
  have h2 : 21 + i - 21 = i := by omega
  simp [h1, h2, h]

/-- A beat or drain reads its guard in either form. -/
theorem pair_ctl (k : UnitClass) (c : Ctl) (r : Reg) (sp : BitVec 1) (ds : List Dest) (w : BitVec 32) (h : ctlOf w = c) :
    ctlOf w = (SlotInfo.pair k c r sp ds).ctl := by
  rw [h, SlotInfo.pair]
  split <;> rfl

theorem nop (c : Ctl) (o : BitVec 6) (z : BitVec 21) : Statement (.nop c o z) := fun _ _ => .inl rfl
theorem add (c : Ctl) (d : BitVec 5) (a : BitVec 5) (b : BitVec 5) : Statement (.add c d a b) := fun _ hw => .inr (Option.some.inj hw ▸ ctlOf_ctlBits _ _ _)
theorem sub (c : Ctl) (d : BitVec 5) (a : BitVec 5) (b : BitVec 5) : Statement (.sub c d a b) := fun _ hw => .inr (Option.some.inj hw ▸ ctlOf_ctlBits _ _ _)
theorem and (c : Ctl) (d : BitVec 5) (a : BitVec 5) (b : BitVec 5) : Statement (.and c d a b) := fun _ hw => .inr (Option.some.inj hw ▸ ctlOf_ctlBits _ _ _)
theorem or (c : Ctl) (d : BitVec 5) (a : BitVec 5) (b : BitVec 5) : Statement (.or c d a b) := fun _ hw => .inr (Option.some.inj hw ▸ ctlOf_ctlBits _ _ _)
theorem xor (c : Ctl) (d : BitVec 5) (a : BitVec 5) (b : BitVec 5) : Statement (.xor c d a b) := fun _ hw => .inr (Option.some.inj hw ▸ ctlOf_ctlBits _ _ _)
theorem andn (c : Ctl) (d : BitVec 5) (a : BitVec 5) (b : BitVec 5) : Statement (.andn c d a b) := fun _ hw => .inr (Option.some.inj hw ▸ ctlOf_ctlBits _ _ _)
theorem orn (c : Ctl) (d : BitVec 5) (a : BitVec 5) (b : BitVec 5) : Statement (.orn c d a b) := fun _ hw => .inr (Option.some.inj hw ▸ ctlOf_ctlBits _ _ _)
theorem xnor (c : Ctl) (d : BitVec 5) (a : BitVec 5) (b : BitVec 5) : Statement (.xnor c d a b) := fun _ hw => .inr (Option.some.inj hw ▸ ctlOf_ctlBits _ _ _)
theorem sll (c : Ctl) (d : BitVec 5) (a : BitVec 5) (b : BitVec 5) : Statement (.sll c d a b) := fun _ hw => .inr (Option.some.inj hw ▸ ctlOf_ctlBits _ _ _)
theorem srl (c : Ctl) (d : BitVec 5) (a : BitVec 5) (b : BitVec 5) : Statement (.srl c d a b) := fun _ hw => .inr (Option.some.inj hw ▸ ctlOf_ctlBits _ _ _)
theorem sra (c : Ctl) (d : BitVec 5) (a : BitVec 5) (b : BitVec 5) : Statement (.sra c d a b) := fun _ hw => .inr (Option.some.inj hw ▸ ctlOf_ctlBits _ _ _)
theorem ror (c : Ctl) (d : BitVec 5) (a : BitVec 5) (b : BitVec 5) : Statement (.ror c d a b) := fun _ hw => .inr (Option.some.inj hw ▸ ctlOf_ctlBits _ _ _)
theorem rol (c : Ctl) (d : BitVec 5) (a : BitVec 5) (b : BitVec 5) : Statement (.rol c d a b) := fun _ hw => .inr (Option.some.inj hw ▸ ctlOf_ctlBits _ _ _)
theorem slt (c : Ctl) (d : BitVec 5) (a : BitVec 5) (b : BitVec 5) : Statement (.slt c d a b) := fun _ hw => .inr (Option.some.inj hw ▸ ctlOf_ctlBits _ _ _)
theorem sltu (c : Ctl) (d : BitVec 5) (a : BitVec 5) (b : BitVec 5) : Statement (.sltu c d a b) := fun _ hw => .inr (Option.some.inj hw ▸ ctlOf_ctlBits _ _ _)
theorem min (c : Ctl) (d : BitVec 5) (a : BitVec 5) (b : BitVec 5) : Statement (.min c d a b) := fun _ hw => .inr (Option.some.inj hw ▸ ctlOf_ctlBits _ _ _)
theorem max (c : Ctl) (d : BitVec 5) (a : BitVec 5) (b : BitVec 5) : Statement (.max c d a b) := fun _ hw => .inr (Option.some.inj hw ▸ ctlOf_ctlBits _ _ _)
theorem minu (c : Ctl) (d : BitVec 5) (a : BitVec 5) (b : BitVec 5) : Statement (.minu c d a b) := fun _ hw => .inr (Option.some.inj hw ▸ ctlOf_ctlBits _ _ _)
theorem maxu (c : Ctl) (d : BitVec 5) (a : BitVec 5) (b : BitVec 5) : Statement (.maxu c d a b) := fun _ hw => .inr (Option.some.inj hw ▸ ctlOf_ctlBits _ _ _)
theorem addw (c : Ctl) (d : BitVec 5) (a : BitVec 5) (b : BitVec 5) : Statement (.addw c d a b) := fun _ hw => .inr (Option.some.inj hw ▸ ctlOf_ctlBits _ _ _)
theorem subw (c : Ctl) (d : BitVec 5) (a : BitVec 5) (b : BitVec 5) : Statement (.subw c d a b) := fun _ hw => .inr (Option.some.inj hw ▸ ctlOf_ctlBits _ _ _)
theorem sllw (c : Ctl) (d : BitVec 5) (a : BitVec 5) (b : BitVec 5) : Statement (.sllw c d a b) := fun _ hw => .inr (Option.some.inj hw ▸ ctlOf_ctlBits _ _ _)
theorem srlw (c : Ctl) (d : BitVec 5) (a : BitVec 5) (b : BitVec 5) : Statement (.srlw c d a b) := fun _ hw => .inr (Option.some.inj hw ▸ ctlOf_ctlBits _ _ _)
theorem sraw (c : Ctl) (d : BitVec 5) (a : BitVec 5) (b : BitVec 5) : Statement (.sraw c d a b) := fun _ hw => .inr (Option.some.inj hw ▸ ctlOf_ctlBits _ _ _)
theorem mul (c : Ctl) (d : BitVec 5) (a : BitVec 5) (b : BitVec 5) : Statement (.mul c d a b) := fun _ hw => .inr (Option.some.inj hw ▸ ctlOf_ctlBits _ _ _)
theorem mulh (c : Ctl) (d : BitVec 5) (a : BitVec 5) (b : BitVec 5) : Statement (.mulh c d a b) := fun _ hw => .inr (Option.some.inj hw ▸ ctlOf_ctlBits _ _ _)
theorem mulhu (c : Ctl) (d : BitVec 5) (a : BitVec 5) (b : BitVec 5) : Statement (.mulhu c d a b) := fun _ hw => .inr (Option.some.inj hw ▸ ctlOf_ctlBits _ _ _)
theorem mulhsu (c : Ctl) (d : BitVec 5) (a : BitVec 5) (b : BitVec 5) : Statement (.mulhsu c d a b) := fun _ hw => .inr (Option.some.inj hw ▸ ctlOf_ctlBits _ _ _)
theorem mulw (c : Ctl) (d : BitVec 5) (a : BitVec 5) (b : BitVec 5) : Statement (.mulw c d a b) := fun _ hw => .inr (Option.some.inj hw ▸ ctlOf_ctlBits _ _ _)
theorem div (c : Ctl) (d : BitVec 5) (a : BitVec 5) (b : BitVec 5) : Statement (.div c d a b) := fun _ hw => .inr (Option.some.inj hw ▸ ctlOf_ctlBits _ _ _)
theorem divu (c : Ctl) (d : BitVec 5) (a : BitVec 5) (b : BitVec 5) : Statement (.divu c d a b) := fun _ hw => .inr (Option.some.inj hw ▸ ctlOf_ctlBits _ _ _)
theorem rem (c : Ctl) (d : BitVec 5) (a : BitVec 5) (b : BitVec 5) : Statement (.rem c d a b) := fun _ hw => .inr (Option.some.inj hw ▸ ctlOf_ctlBits _ _ _)
theorem remu (c : Ctl) (d : BitVec 5) (a : BitVec 5) (b : BitVec 5) : Statement (.remu c d a b) := fun _ hw => .inr (Option.some.inj hw ▸ ctlOf_ctlBits _ _ _)
theorem divw (c : Ctl) (d : BitVec 5) (a : BitVec 5) (b : BitVec 5) : Statement (.divw c d a b) := fun _ hw => .inr (Option.some.inj hw ▸ ctlOf_ctlBits _ _ _)
theorem divuw (c : Ctl) (d : BitVec 5) (a : BitVec 5) (b : BitVec 5) : Statement (.divuw c d a b) := fun _ hw => .inr (Option.some.inj hw ▸ ctlOf_ctlBits _ _ _)
theorem remw (c : Ctl) (d : BitVec 5) (a : BitVec 5) (b : BitVec 5) : Statement (.remw c d a b) := fun _ hw => .inr (Option.some.inj hw ▸ ctlOf_ctlBits _ _ _)
theorem remuw (c : Ctl) (d : BitVec 5) (a : BitVec 5) (b : BitVec 5) : Statement (.remuw c d a b) := fun _ hw => .inr (Option.some.inj hw ▸ ctlOf_ctlBits _ _ _)
theorem clz (c : Ctl) (d : BitVec 5) (a : BitVec 5) : Statement (.clz c d a) := fun _ hw => .inr (Option.some.inj hw ▸ ctlOf_ctlBits _ _ _)
theorem ctz (c : Ctl) (d : BitVec 5) (a : BitVec 5) : Statement (.ctz c d a) := fun _ hw => .inr (Option.some.inj hw ▸ ctlOf_ctlBits _ _ _)
theorem popc (c : Ctl) (d : BitVec 5) (a : BitVec 5) : Statement (.popc c d a) := fun _ hw => .inr (Option.some.inj hw ▸ ctlOf_ctlBits _ _ _)
theorem brev (c : Ctl) (d : BitVec 5) (a : BitVec 5) : Statement (.brev c d a) := fun _ hw => .inr (Option.some.inj hw ▸ ctlOf_ctlBits _ _ _)
theorem bswap (c : Ctl) (d : BitVec 5) (a : BitVec 5) : Statement (.bswap c d a) := fun _ hw => .inr (Option.some.inj hw ▸ ctlOf_ctlBits _ _ _)
theorem sextb (c : Ctl) (d : BitVec 5) (a : BitVec 5) : Statement (.sextb c d a) := fun _ hw => .inr (Option.some.inj hw ▸ ctlOf_ctlBits _ _ _)
theorem sexth (c : Ctl) (d : BitVec 5) (a : BitVec 5) : Statement (.sexth c d a) := fun _ hw => .inr (Option.some.inj hw ▸ ctlOf_ctlBits _ _ _)
theorem zextb (c : Ctl) (d : BitVec 5) (a : BitVec 5) : Statement (.zextb c d a) := fun _ hw => .inr (Option.some.inj hw ▸ ctlOf_ctlBits _ _ _)
theorem zexth (c : Ctl) (d : BitVec 5) (a : BitVec 5) : Statement (.zexth c d a) := fun _ hw => .inr (Option.some.inj hw ▸ ctlOf_ctlBits _ _ _)
theorem zextw (c : Ctl) (d : BitVec 5) (a : BitVec 5) : Statement (.zextw c d a) := fun _ hw => .inr (Option.some.inj hw ▸ ctlOf_ctlBits _ _ _)
theorem clzw (c : Ctl) (d : BitVec 5) (a : BitVec 5) : Statement (.clzw c d a) := fun _ hw => .inr (Option.some.inj hw ▸ ctlOf_ctlBits _ _ _)
theorem bext (c : Ctl) (d : BitVec 5) (a : BitVec 5) (b : BitVec 5) : Statement (.bext c d a b) := fun _ hw => .inr (Option.some.inj hw ▸ ctlOf_ctlBits _ _ _)
theorem bset (c : Ctl) (d : BitVec 5) (a : BitVec 5) (b : BitVec 5) : Statement (.bset c d a b) := fun _ hw => .inr (Option.some.inj hw ▸ ctlOf_ctlBits _ _ _)
theorem bclr (c : Ctl) (d : BitVec 5) (a : BitVec 5) (b : BitVec 5) : Statement (.bclr c d a b) := fun _ hw => .inr (Option.some.inj hw ▸ ctlOf_ctlBits _ _ _)
theorem binv (c : Ctl) (d : BitVec 5) (a : BitVec 5) (b : BitVec 5) : Statement (.binv c d a b) := fun _ hw => .inr (Option.some.inj hw ▸ ctlOf_ctlBits _ _ _)
theorem bfxu (c : Ctl) (d : BitVec 5) (a : BitVec 5) (b : BitVec 5) : Statement (.bfxu c d a b) := fun _ hw => .inr (Option.some.inj hw ▸ ctlOf_ctlBits _ _ _)
theorem bfxs (c : Ctl) (d : BitVec 5) (a : BitVec 5) (b : BitVec 5) : Statement (.bfxs c d a b) := fun _ hw => .inr (Option.some.inj hw ▸ ctlOf_ctlBits _ _ _)
theorem addi (c : Ctl) (d : BitVec 5) (a : BitVec 5) (k : BitVec 11) : Statement (.addi c d a k) := fun _ hw => .inr (Option.some.inj hw ▸ ctlOf_ctlBits _ _ _)
theorem andi (c : Ctl) (d : BitVec 5) (a : BitVec 5) (k : BitVec 11) : Statement (.andi c d a k) := fun _ hw => .inr (Option.some.inj hw ▸ ctlOf_ctlBits _ _ _)
theorem ori (c : Ctl) (d : BitVec 5) (a : BitVec 5) (k : BitVec 11) : Statement (.ori c d a k) := fun _ hw => .inr (Option.some.inj hw ▸ ctlOf_ctlBits _ _ _)
theorem xori (c : Ctl) (d : BitVec 5) (a : BitVec 5) (k : BitVec 11) : Statement (.xori c d a k) := fun _ hw => .inr (Option.some.inj hw ▸ ctlOf_ctlBits _ _ _)
theorem slli (c : Ctl) (d : BitVec 5) (a : BitVec 5) (h : BitVec 6) : Statement (.slli c d a h) := fun _ hw => .inr (Option.some.inj hw ▸ ctlOf_ctlBits _ _ _)
theorem srli (c : Ctl) (d : BitVec 5) (a : BitVec 5) (h : BitVec 6) : Statement (.srli c d a h) := fun _ hw => .inr (Option.some.inj hw ▸ ctlOf_ctlBits _ _ _)
theorem srai (c : Ctl) (d : BitVec 5) (a : BitVec 5) (h : BitVec 6) : Statement (.srai c d a h) := fun _ hw => .inr (Option.some.inj hw ▸ ctlOf_ctlBits _ _ _)
theorem rori (c : Ctl) (d : BitVec 5) (a : BitVec 5) (h : BitVec 6) : Statement (.rori c d a h) := fun _ hw => .inr (Option.some.inj hw ▸ ctlOf_ctlBits _ _ _)
theorem slliw (c : Ctl) (d : BitVec 5) (a : BitVec 5) (h : BitVec 5) : Statement (.slliw c d a h) := fun _ hw => .inr (Option.some.inj hw ▸ ctlOf_ctlBits _ _ _)
theorem srliw (c : Ctl) (d : BitVec 5) (a : BitVec 5) (h : BitVec 5) : Statement (.srliw c d a h) := fun _ hw => .inr (Option.some.inj hw ▸ ctlOf_ctlBits _ _ _)
theorem sraiw (c : Ctl) (d : BitVec 5) (a : BitVec 5) (h : BitVec 5) : Statement (.sraiw c d a h) := fun _ hw => .inr (Option.some.inj hw ▸ ctlOf_ctlBits _ _ _)
theorem ldi (c : Ctl) (d : BitVec 5) (k : BitVec 16) : Statement (.ldi c d k) := fun _ hw => .inr (Option.some.inj hw ▸ ctlOf_ctlBits _ _ _)
theorem ldh1 (c : Ctl) (d : BitVec 5) (k : BitVec 16) : Statement (.ldh1 c d k) := fun _ hw => .inr (Option.some.inj hw ▸ ctlOf_ctlBits _ _ _)
theorem ldh2 (c : Ctl) (d : BitVec 5) (k : BitVec 16) : Statement (.ldh2 c d k) := fun _ hw => .inr (Option.some.inj hw ▸ ctlOf_ctlBits _ _ _)
theorem ldh3 (c : Ctl) (d : BitVec 5) (k : BitVec 16) : Statement (.ldh3 c d k) := fun _ hw => .inr (Option.some.inj hw ▸ ctlOf_ctlBits _ _ _)
theorem sel (c : Ctl) (d : BitVec 5) (a : BitVec 5) (b : BitVec 5) (p : BitVec 6) : Statement (.sel c d a b p) := fun _ hw => .inr (Option.some.inj hw ▸ ctlOf_ctlBits _ _ _)
theorem addsc (c : Ctl) (d : BitVec 5) (a : BitVec 5) (b : BitVec 5) (h : BitVec 3) : Statement (.addsc c d a b h) := fun _ hw => .inr (Option.some.inj hw ▸ ctlOf_ctlBits _ _ _)
theorem ladd (c : Ctl) (d : BitVec 5) (a : BitVec 5) (b : BitVec 5) (h : BitVec 3) : Statement (.ladd c d a b h) := fun _ hw => .inr (Option.some.inj hw ▸ ctlOf_ctlBits _ _ _)
theorem chku (c : Ctl) (a : BitVec 5) (b : BitVec 5) : Statement (.chku c a b) := fun _ hw => .inr (Option.some.inj hw ▸ ctlOf_ctlBits _ _ _)
theorem rdw (c : Ctl) (d : BitVec 5) (cx : BitVec 12) : Statement (.rdw c d cx) := fun _ hw => .inr (Option.some.inj hw ▸ ctlOf_ctlBits _ _ _)
theorem wrw (c : Ctl) (d : BitVec 5) (cx : BitVec 12) : Statement (.wrw c d cx) := fun _ hw => .inr (Option.some.inj hw ▸ ctlOf_ctlBits _ _ _)
theorem br (c : Ctl) (k : BitVec 21) : Statement (.br c k) := fun _ hw => .inr (Option.some.inj hw ▸ ctlOf_ctlBits _ _ _)
theorem call (c : Ctl) (k : BitVec 21) : Statement (.call c k) := fun _ hw => .inr (Option.some.inj hw ▸ ctlOf_ctlBits _ _ _)
theorem jr (c : Ctl) (a : BitVec 5) : Statement (.jr c a) := fun _ hw => .inr (Option.some.inj hw ▸ ctlOf_ctlBits _ _ _)
theorem jalr (c : Ctl) (d : BitVec 5) (a : BitVec 5) : Statement (.jalr c d a) := fun _ hw => .inr (Option.some.inj hw ▸ ctlOf_ctlBits _ _ _)
theorem loop (c : Ctl) (cx : BitVec 5) (k : BitVec 16) : Statement (.loop c cx k) := fun _ hw => .inr (Option.some.inj hw ▸ ctlOf_ctlBits _ _ _)
theorem cmp (c : Ctl) (q : BitVec 7) (a : BitVec 5) (b : BitVec 5) (cx : BitVec 3) : Statement (.cmp c q a b cx) := fun _ hw => .inr (Option.some.inj hw ▸ ctlOf_ctlBits _ _ _)
theorem cmpi (c : Ctl) (q : BitVec 7) (a : BitVec 5) (cx : BitVec 3) (k : BitVec 6) : Statement (.cmpi c q a cx k) := fun _ hw => .inr (Option.some.inj hw ▸ ctlOf_ctlBits _ _ _)
theorem pand (c : Ctl) (q : BitVec 7) (a : BitVec 7) (b : BitVec 7) : Statement (.pand c q a b) := fun _ hw => .inr (Option.some.inj hw ▸ ctlOf_ctlBits _ _ _)
theorem por (c : Ctl) (q : BitVec 7) (a : BitVec 7) (b : BitVec 7) : Statement (.por c q a b) := fun _ hw => .inr (Option.some.inj hw ▸ ctlOf_ctlBits _ _ _)
theorem pxor (c : Ctl) (q : BitVec 7) (a : BitVec 7) (b : BitVec 7) : Statement (.pxor c q a b) := fun _ hw => .inr (Option.some.inj hw ▸ ctlOf_ctlBits _ _ _)
theorem pandn (c : Ctl) (q : BitVec 7) (a : BitVec 7) (b : BitVec 7) : Statement (.pandn c q a b) := fun _ hw => .inr (Option.some.inj hw ▸ ctlOf_ctlBits _ _ _)
theorem prdg (c : Ctl) (d : BitVec 5) (a : BitVec 1) : Statement (.prdg c d a) := fun _ hw => .inr (Option.some.inj hw ▸ ctlOf_ctlBits _ _ _)
theorem pwrg (c : Ctl) (a : BitVec 1) (b : BitVec 5) : Statement (.pwrg c a b) := fun _ hw => .inr (Option.some.inj hw ▸ ctlOf_ctlBits _ _ _)
theorem trap (c : Ctl) (a : BitVec 5) : Statement (.trap c a) := fun _ hw => .inr (Option.some.inj hw ▸ ctlOf_ctlBits _ _ _)
theorem rfe (c : Ctl) : Statement (.rfe c) := fun _ hw => .inr (Option.some.inj hw ▸ ctlOf_ctlBits _ _ _)
theorem brk (c : Ctl) : Statement (.brk c) := fun _ hw => .inr (Option.some.inj hw ▸ ctlOf_ctlBits _ _ _)
theorem idle (c : Ctl) (a : BitVec 5) : Statement (.idle c a) := fun _ hw => .inr (Option.some.inj hw ▸ ctlOf_ctlBits _ _ _)
theorem ifence (c : Ctl) : Statement (.ifence c) := fun _ hw => .inr (Option.some.inj hw ▸ ctlOf_ctlBits _ _ _)
theorem maskp (c : Ctl) : Statement (.maskp c) := fun _ hw => .inr (Option.some.inj hw ▸ ctlOf_ctlBits _ _ _)
theorem unmaskp (c : Ctl) : Statement (.unmaskp c) := fun _ hw => .inr (Option.some.inj hw ▸ ctlOf_ctlBits _ _ _)
theorem savelt (c : Ctl) (a : BitVec 5) : Statement (.savelt c a) := fun _ hw => .inr (Option.some.inj hw ▸ ctlOf_ctlBits _ _ _)
theorem rstlt (c : Ctl) (a : BitVec 5) : Statement (.rstlt c a) := fun _ hw => .inr (Option.some.inj hw ▸ ctlOf_ctlBits _ _ _)
theorem sync (c : Ctl) : Statement (.sync c) := fun _ hw => .inr (Option.some.inj hw ▸ ctlOf_ctlBits _ _ _)
theorem lpop (c : Ctl) : Statement (.lpop c) := fun _ hw => .inr (Option.some.inj hw ▸ ctlOf_ctlBits _ _ _)
theorem yield (c : Ctl) : Statement (.yield c) := fun _ hw => .inr (Option.some.inj hw ▸ ctlOf_ctlBits _ _ _)
theorem suspend (c : Ctl) (a : BitVec 5) : Statement (.suspend c a) := fun _ hw => .inr (Option.some.inj hw ▸ ctlOf_ctlBits _ _ _)
theorem exit (c : Ctl) : Statement (.exit c) := fun _ hw => .inr (Option.some.inj hw ▸ ctlOf_ctlBits _ _ _)
theorem sig (c : Ctl) (k : BitVec 16) : Statement (.sig c k) := fun _ hw => .inr (Option.some.inj hw ▸ ctlOf_ctlBits _ _ _)
theorem pfxM (c : Ctl) (a : BitVec 4) (b : BitVec 4) (e : BitVec 2) (p : BitVec 1) : Statement (.pfxM c a b e p) := fun _ hw => .inr (Option.some.inj hw ▸ ctlOf_ctlBits _ _ _)
theorem pfxV (c : Ctl) (a : BitVec 4) (b : BitVec 4) (e : BitVec 2) (p : BitVec 1) : Statement (.pfxV c a b e p) := fun _ hw => .inr (Option.some.inj hw ▸ ctlOf_ctlBits _ _ _)
theorem ld (c : Ctl) (d : BitVec 5) (a : BitVec 5) (w : BitVec 2) (x : BitVec 1) (k : BitVec 8) : Statement (.ld c d a w x k) := fun _ hw => .inr (Option.some.inj hw ▸ ctlOf_ctlBits _ _ _)
theorem st (c : Ctl) (d : BitVec 5) (a : BitVec 5) (w : BitVec 2) (k : BitVec 8) : Statement (.st c d a w k) := fun _ hw => .inr (Option.some.inj hw ▸ ctlOf_ctlBits _ _ _)
theorem ldx (c : Ctl) (d : BitVec 5) (a : BitVec 5) (b : BitVec 5) (cx : BitVec 1) (x : BitVec 1) (w : BitVec 2) : Statement (.ldx c d a b cx x w) := fun _ hw => .inr (Option.some.inj hw ▸ ctlOf_ctlBits _ _ _)
theorem stx (c : Ctl) (d : BitVec 5) (a : BitVec 5) (b : BitVec 5) (cx : BitVec 1) (w : BitVec 2) : Statement (.stx c d a b cx w) := fun _ hw => .inr (Option.some.inj hw ▸ ctlOf_ctlBits _ _ _)
theorem vld (c : Ctl) (d : BitVec 5) (a : BitVec 5) (k : BitVec 9) : Statement (.vld c d a k) := fun _ hw => .inr (Option.some.inj hw ▸ ctlOf_ctlBits _ _ _)
theorem vst (c : Ctl) (d : BitVec 5) (a : BitVec 5) (k : BitVec 9) : Statement (.vst c d a k) := fun _ hw => .inr (Option.some.inj hw ▸ ctlOf_ctlBits _ _ _)
theorem vldl (c : Ctl) (d : BitVec 5) (a : BitVec 5) (k : BitVec 9) : Statement (.vldl c d a k) := fun _ hw => .inr (Option.some.inj hw ▸ ctlOf_ctlBits _ _ _)
theorem vldu (c : Ctl) (d : BitVec 5) (a : BitVec 5) (k : BitVec 9) : Statement (.vldu c d a k) := fun _ hw => .inr (Option.some.inj hw ▸ ctlOf_ctlBits _ _ _)
theorem vgth32 (c : Ctl) (d : BitVec 5) (a : BitVec 5) (b : BitVec 5) (m : BitVec 3) : Statement (.vgth32 c d a b m) := fun _ hw => .inr (Option.some.inj hw ▸ ctlOf_ctlBits _ _ _)
theorem vsct32 (c : Ctl) (d : BitVec 5) (a : BitVec 5) (b : BitVec 5) (m : BitVec 3) : Statement (.vsct32 c d a b m) := fun _ hw => .inr (Option.some.inj hw ▸ ctlOf_ctlBits _ _ _)
theorem vgth16 (c : Ctl) (d : BitVec 5) (a : BitVec 5) (b : BitVec 5) (m : BitVec 3) : Statement (.vgth16 c d a b m) := fun _ hw => .inr (Option.some.inj hw ▸ ctlOf_ctlBits _ _ _)
theorem vsct16 (c : Ctl) (d : BitVec 5) (a : BitVec 5) (b : BitVec 5) (m : BitVec 3) : Statement (.vsct16 c d a b m) := fun _ hw => .inr (Option.some.inj hw ▸ ctlOf_ctlBits _ _ _)
theorem vgth8 (c : Ctl) (d : BitVec 5) (a : BitVec 5) (b : BitVec 5) (m : BitVec 3) : Statement (.vgth8 c d a b m) := fun _ hw => .inr (Option.some.inj hw ▸ ctlOf_ctlBits _ _ _)
theorem vsct8 (c : Ctl) (d : BitVec 5) (a : BitVec 5) (b : BitVec 5) (m : BitVec 3) : Statement (.vsct8 c d a b m) := fun _ hw => .inr (Option.some.inj hw ▸ ctlOf_ctlBits _ _ _)
theorem vldm (c : Ctl) (d : BitVec 5) (a : BitVec 5) (m : BitVec 3) : Statement (.vldm c d a m) := fun _ hw => .inr (Option.some.inj hw ▸ ctlOf_ctlBits _ _ _)
theorem vstm (c : Ctl) (d : BitVec 5) (a : BitVec 5) (m : BitVec 3) : Statement (.vstm c d a m) := fun _ hw => .inr (Option.some.inj hw ▸ ctlOf_ctlBits _ _ _)
theorem ltld (c : Ctl) (d : BitVec 5) (a : BitVec 5) : Statement (.ltld c d a) := fun _ hw => .inr (Option.some.inj hw ▸ ctlOf_ctlBits _ _ _)
theorem ltst (c : Ctl) (d : BitVec 5) (a : BitVec 5) : Statement (.ltst c d a) := fun _ hw => .inr (Option.some.inj hw ▸ ctlOf_ctlBits _ _ _)
theorem ltw (c : Ctl) (d : BitVec 5) (a : BitVec 5) (b : BitVec 5) : Statement (.ltw c d a b) := fun _ hw => .inr (Option.some.inj hw ▸ ctlOf_ctlBits _ _ _)
theorem ltrl (c : Ctl) (d : BitVec 5) (a : BitVec 5) : Statement (.ltrl c d a) := fun _ hw => .inr (Option.some.inj hw ▸ ctlOf_ctlBits _ _ _)
theorem ltrh (c : Ctl) (d : BitVec 5) (a : BitVec 5) : Statement (.ltrh c d a) := fun _ hw => .inr (Option.some.inj hw ▸ ctlOf_ctlBits _ _ _)
theorem ltbase (c : Ctl) (d : BitVec 5) (a : BitVec 5) : Statement (.ltbase c d a) := fun _ hw => .inr (Option.some.inj hw ▸ ctlOf_ctlBits _ _ _)
theorem istw (c : Ctl) (a : BitVec 5) (b : BitVec 5) : Statement (.istw c a b) := fun _ hw => .inr (Option.some.inj hw ▸ ctlOf_ctlBits _ _ _)
theorem istv (c : Ctl) (a : BitVec 5) (b : BitVec 5) : Statement (.istv c a b) := fun _ hw => .inr (Option.some.inj hw ▸ ctlOf_ctlBits _ _ _)
theorem vadd (c : Ctl) (d : BitVec 5) (a : BitVec 5) (b : BitVec 5) (m : BitVec 3) : Statement (.vadd c d a b m) := fun _ hw => .inr (Option.some.inj hw ▸ ctlOf_ctlBits _ _ _)
theorem vsub (c : Ctl) (d : BitVec 5) (a : BitVec 5) (b : BitVec 5) (m : BitVec 3) : Statement (.vsub c d a b m) := fun _ hw => .inr (Option.some.inj hw ▸ ctlOf_ctlBits _ _ _)
theorem vmul (c : Ctl) (d : BitVec 5) (a : BitVec 5) (b : BitVec 5) (m : BitVec 3) : Statement (.vmul c d a b m) := fun _ hw => .inr (Option.some.inj hw ▸ ctlOf_ctlBits _ _ _)
theorem vfma (c : Ctl) (d : BitVec 5) (a : BitVec 5) (b : BitVec 5) (m : BitVec 3) : Statement (.vfma c d a b m) := fun _ hw => .inr (Option.some.inj hw ▸ ctlOf_ctlBits _ _ _)
theorem vfnma (c : Ctl) (d : BitVec 5) (a : BitVec 5) (b : BitVec 5) (m : BitVec 3) : Statement (.vfnma c d a b m) := fun _ hw => .inr (Option.some.inj hw ▸ ctlOf_ctlBits _ _ _)
theorem vmin (c : Ctl) (d : BitVec 5) (a : BitVec 5) (b : BitVec 5) (m : BitVec 3) : Statement (.vmin c d a b m) := fun _ hw => .inr (Option.some.inj hw ▸ ctlOf_ctlBits _ _ _)
theorem vmax (c : Ctl) (d : BitVec 5) (a : BitVec 5) (b : BitVec 5) (m : BitVec 3) : Statement (.vmax c d a b m) := fun _ hw => .inr (Option.some.inj hw ▸ ctlOf_ctlBits _ _ _)
theorem vfms (c : Ctl) (d : BitVec 5) (a : BitVec 5) (b : BitVec 5) (m : BitVec 3) : Statement (.vfms c d a b m) := fun _ hw => .inr (Option.some.inj hw ▸ ctlOf_ctlBits _ _ _)
theorem vrcp (c : Ctl) (d : BitVec 5) (a : BitVec 5) (m : BitVec 3) : Statement (.vrcp c d a m) := fun _ hw => .inr (Option.some.inj hw ▸ ctlOf_ctlBits _ _ _)
theorem vrsq (c : Ctl) (d : BitVec 5) (a : BitVec 5) (m : BitVec 3) : Statement (.vrsq c d a m) := fun _ hw => .inr (Option.some.inj hw ▸ ctlOf_ctlBits _ _ _)
theorem vexp2 (c : Ctl) (d : BitVec 5) (a : BitVec 5) (m : BitVec 3) : Statement (.vexp2 c d a m) := fun _ hw => .inr (Option.some.inj hw ▸ ctlOf_ctlBits _ _ _)
theorem vlog2 (c : Ctl) (d : BitVec 5) (a : BitVec 5) (m : BitVec 3) : Statement (.vlog2 c d a m) := fun _ hw => .inr (Option.some.inj hw ▸ ctlOf_ctlBits _ _ _)
theorem vsinp (c : Ctl) (d : BitVec 5) (a : BitVec 5) (m : BitVec 3) : Statement (.vsinp c d a m) := fun _ hw => .inr (Option.some.inj hw ▸ ctlOf_ctlBits _ _ _)
theorem vtanh (c : Ctl) (d : BitVec 5) (a : BitVec 5) (m : BitVec 3) : Statement (.vtanh c d a m) := fun _ hw => .inr (Option.some.inj hw ▸ ctlOf_ctlBits _ _ _)
theorem vdiv (c : Ctl) (d : BitVec 5) (a : BitVec 5) (b : BitVec 5) (m : BitVec 3) : Statement (.vdiv c d a b m) := fun _ hw => .inr (Option.some.inj hw ▸ ctlOf_ctlBits _ _ _)
theorem vsqrt (c : Ctl) (d : BitVec 5) (a : BitVec 5) (m : BitVec 3) : Statement (.vsqrt c d a m) := fun _ hw => .inr (Option.some.inj hw ▸ ctlOf_ctlBits _ _ _)
theorem viadd (c : Ctl) (d : BitVec 5) (a : BitVec 5) (b : BitVec 5) (m : BitVec 3) : Statement (.viadd c d a b m) := fun _ hw => .inr (Option.some.inj hw ▸ ctlOf_ctlBits _ _ _)
theorem visub (c : Ctl) (d : BitVec 5) (a : BitVec 5) (b : BitVec 5) (m : BitVec 3) : Statement (.visub c d a b m) := fun _ hw => .inr (Option.some.inj hw ▸ ctlOf_ctlBits _ _ _)
theorem vimul (c : Ctl) (d : BitVec 5) (a : BitVec 5) (b : BitVec 5) (m : BitVec 3) : Statement (.vimul c d a b m) := fun _ hw => .inr (Option.some.inj hw ▸ ctlOf_ctlBits _ _ _)
theorem vimulh (c : Ctl) (d : BitVec 5) (a : BitVec 5) (b : BitVec 5) (m : BitVec 3) : Statement (.vimulh c d a b m) := fun _ hw => .inr (Option.some.inj hw ▸ ctlOf_ctlBits _ _ _)
theorem viadds (c : Ctl) (d : BitVec 5) (a : BitVec 5) (b : BitVec 5) (m : BitVec 3) : Statement (.viadds c d a b m) := fun _ hw => .inr (Option.some.inj hw ▸ ctlOf_ctlBits _ _ _)
theorem visubs (c : Ctl) (d : BitVec 5) (a : BitVec 5) (b : BitVec 5) (m : BitVec 3) : Statement (.visubs c d a b m) := fun _ hw => .inr (Option.some.inj hw ▸ ctlOf_ctlBits _ _ _)
theorem vimin (c : Ctl) (d : BitVec 5) (a : BitVec 5) (b : BitVec 5) (m : BitVec 3) : Statement (.vimin c d a b m) := fun _ hw => .inr (Option.some.inj hw ▸ ctlOf_ctlBits _ _ _)
theorem vimax (c : Ctl) (d : BitVec 5) (a : BitVec 5) (b : BitVec 5) (m : BitVec 3) : Statement (.vimax c d a b m) := fun _ hw => .inr (Option.some.inj hw ▸ ctlOf_ctlBits _ _ _)
theorem vand (c : Ctl) (d : BitVec 5) (a : BitVec 5) (b : BitVec 5) (m : BitVec 3) : Statement (.vand c d a b m) := fun _ hw => .inr (Option.some.inj hw ▸ ctlOf_ctlBits _ _ _)
theorem vor (c : Ctl) (d : BitVec 5) (a : BitVec 5) (b : BitVec 5) (m : BitVec 3) : Statement (.vor c d a b m) := fun _ hw => .inr (Option.some.inj hw ▸ ctlOf_ctlBits _ _ _)
theorem vxor (c : Ctl) (d : BitVec 5) (a : BitVec 5) (b : BitVec 5) (m : BitVec 3) : Statement (.vxor c d a b m) := fun _ hw => .inr (Option.some.inj hw ▸ ctlOf_ctlBits _ _ _)
theorem vandn (c : Ctl) (d : BitVec 5) (a : BitVec 5) (b : BitVec 5) (m : BitVec 3) : Statement (.vandn c d a b m) := fun _ hw => .inr (Option.some.inj hw ▸ ctlOf_ctlBits _ _ _)
theorem vsll (c : Ctl) (d : BitVec 5) (a : BitVec 5) (b : BitVec 5) (m : BitVec 3) : Statement (.vsll c d a b m) := fun _ hw => .inr (Option.some.inj hw ▸ ctlOf_ctlBits _ _ _)
theorem vsrl (c : Ctl) (d : BitVec 5) (a : BitVec 5) (b : BitVec 5) (m : BitVec 3) : Statement (.vsrl c d a b m) := fun _ hw => .inr (Option.some.inj hw ▸ ctlOf_ctlBits _ _ _)
theorem vsra (c : Ctl) (d : BitVec 5) (a : BitVec 5) (b : BitVec 5) (m : BitVec 3) : Statement (.vsra c d a b m) := fun _ hw => .inr (Option.some.inj hw ▸ ctlOf_ctlBits _ _ _)
theorem vbsl (c : Ctl) (d : BitVec 5) (a : BitVec 5) (b : BitVec 5) (m : BitVec 3) : Statement (.vbsl c d a b m) := fun _ hw => .inr (Option.some.inj hw ▸ ctlOf_ctlBits _ _ _)
theorem vceq (c : Ctl) (d : BitVec 3) (a : BitVec 5) (b : BitVec 5) (m : BitVec 3) : Statement (.vceq c d a b m) := fun _ hw => .inr (Option.some.inj hw ▸ ctlOf_ctlBits _ _ _)
theorem vcne (c : Ctl) (d : BitVec 3) (a : BitVec 5) (b : BitVec 5) (m : BitVec 3) : Statement (.vcne c d a b m) := fun _ hw => .inr (Option.some.inj hw ▸ ctlOf_ctlBits _ _ _)
theorem vclt (c : Ctl) (d : BitVec 3) (a : BitVec 5) (b : BitVec 5) (m : BitVec 3) : Statement (.vclt c d a b m) := fun _ hw => .inr (Option.some.inj hw ▸ ctlOf_ctlBits _ _ _)
theorem vcle (c : Ctl) (d : BitVec 3) (a : BitVec 5) (b : BitVec 5) (m : BitVec 3) : Statement (.vcle c d a b m) := fun _ hw => .inr (Option.some.inj hw ▸ ctlOf_ctlBits _ _ _)
theorem vcun (c : Ctl) (d : BitVec 3) (a : BitVec 5) (b : BitVec 5) (m : BitVec 3) : Statement (.vcun c d a b m) := fun _ hw => .inr (Option.some.inj hw ▸ ctlOf_ctlBits _ _ _)
theorem vctst (c : Ctl) (d : BitVec 3) (a : BitVec 5) (b : BitVec 5) (m : BitVec 3) : Statement (.vctst c d a b m) := fun _ hw => .inr (Option.some.inj hw ▸ ctlOf_ctlBits _ _ _)
theorem vcvt (c : Ctl) (d : BitVec 5) (a : BitVec 5) (b : BitVec 5) (m : BitVec 3) : Statement (.vcvt c d a b m) := fun _ hw => .inr (Option.some.inj hw ▸ ctlOf_ctlBits _ _ _)
theorem vrint (c : Ctl) (d : BitVec 5) (a : BitVec 5) (m : BitVec 3) : Statement (.vrint c d a m) := fun _ hw => .inr (Option.some.inj hw ▸ ctlOf_ctlBits _ _ _)
theorem vmov (c : Ctl) (d : BitVec 5) (a : BitVec 5) (m : BitVec 3) : Statement (.vmov c d a m) := fun _ hw => .inr (Option.some.inj hw ▸ ctlOf_ctlBits _ _ _)
theorem vsel (c : Ctl) (d : BitVec 5) (a : BitVec 5) (b : BitVec 5) (m : BitVec 3) : Statement (.vsel c d a b m) := fun _ hw => .inr (Option.some.inj hw ▸ ctlOf_ctlBits _ _ _)
theorem vabs (c : Ctl) (d : BitVec 5) (a : BitVec 5) (m : BitVec 3) : Statement (.vabs c d a m) := fun _ hw => .inr (Option.some.inj hw ▸ ctlOf_ctlBits _ _ _)
theorem vneg (c : Ctl) (d : BitVec 5) (a : BitVec 5) (m : BitVec 3) : Statement (.vneg c d a m) := fun _ hw => .inr (Option.some.inj hw ▸ ctlOf_ctlBits _ _ _)
theorem vcpys (c : Ctl) (d : BitVec 5) (a : BitVec 5) (b : BitVec 5) (m : BitVec 3) : Statement (.vcpys c d a b m) := fun _ hw => .inr (Option.some.inj hw ▸ ctlOf_ctlBits _ _ _)
theorem vfrsum (c : Ctl) (d : BitVec 5) (a : BitVec 5) (m : BitVec 3) : Statement (.vfrsum c d a m) := fun _ hw => .inr (Option.some.inj hw ▸ ctlOf_ctlBits _ _ _)
theorem vfrmax (c : Ctl) (d : BitVec 5) (a : BitVec 5) (m : BitVec 3) : Statement (.vfrmax c d a m) := fun _ hw => .inr (Option.some.inj hw ▸ ctlOf_ctlBits _ _ _)
theorem vfrmin (c : Ctl) (d : BitVec 5) (a : BitVec 5) (m : BitVec 3) : Statement (.vfrmin c d a m) := fun _ hw => .inr (Option.some.inj hw ▸ ctlOf_ctlBits _ _ _)
theorem vfscan (c : Ctl) (d : BitVec 5) (a : BitVec 5) (m : BitVec 3) : Statement (.vfscan c d a m) := fun _ hw => .inr (Option.some.inj hw ▸ ctlOf_ctlBits _ _ _)
theorem virsum (c : Ctl) (d : BitVec 5) (a : BitVec 5) (m : BitVec 3) : Statement (.virsum c d a m) := fun _ hw => .inr (Option.some.inj hw ▸ ctlOf_ctlBits _ _ _)
theorem virmax (c : Ctl) (d : BitVec 5) (a : BitVec 5) (m : BitVec 3) : Statement (.virmax c d a m) := fun _ hw => .inr (Option.some.inj hw ▸ ctlOf_ctlBits _ _ _)
theorem virmin (c : Ctl) (d : BitVec 5) (a : BitVec 5) (m : BitVec 3) : Statement (.virmin c d a m) := fun _ hw => .inr (Option.some.inj hw ▸ ctlOf_ctlBits _ _ _)
theorem viscan (c : Ctl) (d : BitVec 5) (a : BitVec 5) (m : BitVec 3) : Statement (.viscan c d a m) := fun _ hw => .inr (Option.some.inj hw ▸ ctlOf_ctlBits _ _ _)
theorem vbcst (c : Ctl) (d : BitVec 5) (a : BitVec 5) (m : BitVec 3) : Statement (.vbcst c d a m) := fun _ hw => .inr (Option.some.inj hw ▸ ctlOf_ctlBits _ _ _)
theorem vbcsti (c : Ctl) (d : BitVec 5) (k : BitVec 5) (m : BitVec 3) : Statement (.vbcsti c d k m) := fun _ hw => .inr (Option.some.inj hw ▸ ctlOf_ctlBits _ _ _)
theorem vextr (c : Ctl) (d : BitVec 5) (a : BitVec 5) (b : BitVec 5) : Statement (.vextr c d a b) := fun _ hw => .inr (Option.some.inj hw ▸ ctlOf_ctlBits _ _ _)
theorem vins (c : Ctl) (d : BitVec 5) (a : BitVec 5) (b : BitVec 5) : Statement (.vins c d a b) := fun _ hw => .inr (Option.some.inj hw ▸ ctlOf_ctlBits _ _ _)
theorem viota (c : Ctl) (d : BitVec 5) (m : BitVec 3) : Statement (.viota c d m) := fun _ hw => .inr (Option.some.inj hw ▸ ctlOf_ctlBits _ _ _)
theorem vperm (c : Ctl) (d : BitVec 5) (a : BitVec 5) (b : BitVec 5) (m : BitVec 3) : Statement (.vperm c d a b m) := fun _ hw => .inr (Option.some.inj hw ▸ ctlOf_ctlBits _ _ _)
theorem vcomp (c : Ctl) (d : BitVec 5) (a : BitVec 5) (m : BitVec 3) : Statement (.vcomp c d a m) := fun _ hw => .inr (Option.some.inj hw ▸ ctlOf_ctlBits _ _ _)
theorem vexpd (c : Ctl) (d : BitVec 5) (a : BitVec 5) (m : BitVec 3) : Statement (.vexpd c d a m) := fun _ hw => .inr (Option.some.inj hw ▸ ctlOf_ctlBits _ _ _)
theorem vcpos (c : Ctl) (d : BitVec 5) (m : BitVec 3) : Statement (.vcpos c d m) := fun _ hw => .inr (Option.some.inj hw ▸ ctlOf_ctlBits _ _ _)
theorem vsldn (c : Ctl) (d : BitVec 5) (a : BitVec 5) (b : BitVec 5) (m : BitVec 3) : Statement (.vsldn c d a b m) := fun _ hw => .inr (Option.some.inj hw ▸ ctlOf_ctlBits _ _ _)
theorem vslup (c : Ctl) (d : BitVec 5) (a : BitVec 5) (b : BitVec 5) (m : BitVec 3) : Statement (.vslup c d a b m) := fun _ hw => .inr (Option.some.inj hw ▸ ctlOf_ctlBits _ _ _)
theorem mand (c : Ctl) (d : BitVec 3) (a : BitVec 3) (b : BitVec 3) : Statement (.mand c d a b) := fun _ hw => .inr (Option.some.inj hw ▸ ctlOf_ctlBits _ _ _)
theorem mor (c : Ctl) (d : BitVec 3) (a : BitVec 3) (b : BitVec 3) : Statement (.mor c d a b) := fun _ hw => .inr (Option.some.inj hw ▸ ctlOf_ctlBits _ _ _)
theorem mxor (c : Ctl) (d : BitVec 3) (a : BitVec 3) (b : BitVec 3) : Statement (.mxor c d a b) := fun _ hw => .inr (Option.some.inj hw ▸ ctlOf_ctlBits _ _ _)
theorem mandn (c : Ctl) (d : BitVec 3) (a : BitVec 3) (b : BitVec 3) : Statement (.mandn c d a b) := fun _ hw => .inr (Option.some.inj hw ▸ ctlOf_ctlBits _ _ _)
theorem mfromx (c : Ctl) (d : BitVec 3) (a : BitVec 5) : Statement (.mfromx c d a) := fun _ hw => .inr (Option.some.inj hw ▸ ctlOf_ctlBits _ _ _)
theorem mtox (c : Ctl) (d : BitVec 5) (a : BitVec 3) : Statement (.mtox c d a) := fun _ hw => .inr (Option.some.inj hw ▸ ctlOf_ctlBits _ _ _)
theorem mpopc (c : Ctl) (d : BitVec 5) (a : BitVec 3) : Statement (.mpopc c d a) := fun _ hw => .inr (Option.some.inj hw ▸ ctlOf_ctlBits _ _ _)
theorem mffs (c : Ctl) (d : BitVec 5) (a : BitVec 3) : Statement (.mffs c d a) := fun _ hw => .inr (Option.some.inj hw ▸ ctlOf_ctlBits _ _ _)
theorem mzero (c : Ctl) (b : BitVec 1) (r : BitVec 6) : Statement (.mzero c b r) := fun _ hw => .inr (Option.some.inj hw ▸ ctlOf_ctlBits _ _ _)
theorem mpush (c : Ctl) (b : BitVec 1) (r : BitVec 6) (l : BitVec 2) (cx : BitVec 5) (h : BitVec 1) (p : BitVec 1) : Statement (.mpush c b r l cx h p) := fun _ hw => .inr (pair_ctl _ _ _ _ _ _ (Option.some.inj hw ▸ ctlOf_ctlBits _ _ _))
theorem macc (c : Ctl) (b : BitVec 1) (r : BitVec 6) (l : BitVec 2) (cx : BitVec 5) (h : BitVec 1) (p : BitVec 1) : Statement (.macc c b r l cx h p) := fun _ hw => .inr (pair_ctl _ _ _ _ _ _ (Option.some.inj hw ▸ ctlOf_ctlBits _ _ _))
theorem mshift (c : Ctl) (l : BitVec 2) (cx : BitVec 5) (h : BitVec 1) (p : BitVec 1) : Statement (.mshift c l cx h p) := fun _ hw => .inr (pair_ctl _ _ _ _ _ _ (Option.some.inj hw ▸ ctlOf_ctlBits _ _ _))
theorem mlatch (c : Ctl) (r : BitVec 6) (l : BitVec 2) (cx : BitVec 5) (h : BitVec 1) (p : BitVec 1) : Statement (.mlatch c r l cx h p) := fun _ hw => .inr (pair_ctl _ _ _ _ _ _ (Option.some.inj hw ▸ ctlOf_ctlBits _ _ _))
theorem mlside (c : Ctl) (r : BitVec 4) (l : BitVec 2) (cx : BitVec 5) (h : BitVec 1) (p : BitVec 1) : Statement (.mlside c r l cx h p) := fun _ hw => .inr (pair_ctl _ _ _ _ _ _ (Option.some.inj hw ▸ ctlOf_ctlBits _ _ _))
theorem mdrain (c : Ctl) (b : BitVec 1) (r : BitVec 6) (d : BitVec 5) (p : BitVec 1) (h : BitVec 1) (cx : BitVec 1) (f : BitVec 4) (t : BitVec 1) : Statement (.mdrain c b r d p h cx f t) := fun _ hw => .inr (pair_ctl _ _ _ _ _ _ (Option.some.inj hw ▸ ctlOf_ctlBits _ _ _))
theorem msclrA (c : Ctl) (a : BitVec 5) : Statement (.msclrA c a) := fun _ hw => .inr (Option.some.inj hw ▸ ctlOf_ctlBits _ _ _)
theorem msclrB (c : Ctl) (a : BitVec 5) : Statement (.msclrB c a) := fun _ hw => .inr (Option.some.inj hw ▸ ctlOf_ctlBits _ _ _)
theorem mrds (c : Ctl) (d : BitVec 5) (a : BitVec 5) : Statement (.mrds c d a) := fun _ hw => .inr (Option.some.inj hw ▸ ctlOf_ctlBits _ _ _)
theorem send (c : Ctl) (t : BitVec 5) (a : BitVec 5) (b : BitVec 5) (l : BitVec 5) : Statement (.send c t a b l) := fun _ hw => .inr (Option.some.inj hw ▸ ctlOf_ctlBits _ _ _)
theorem sendR (c : Ctl) (t : BitVec 5) (a : BitVec 5) (b : BitVec 5) (l : BitVec 5) : Statement (.sendR c t a b l) := fun _ hw => .inr (Option.some.inj hw ▸ ctlOf_ctlBits _ _ _)
theorem recv (c : Ctl) (t : BitVec 5) (a : BitVec 5) (l : BitVec 5) : Statement (.recv c t a l) := fun _ hw => .inr (Option.some.inj hw ▸ ctlOf_ctlBits _ _ _)
theorem testt (c : Ctl) (d : BitVec 5) (a : BitVec 5) : Statement (.testt c d a) := fun _ hw => .inr (Option.some.inj hw ▸ ctlOf_ctlBits _ _ _)
theorem probe (c : Ctl) (d : BitVec 5) (a : BitVec 5) : Statement (.probe c d a) := fun _ hw => .inr (Option.some.inj hw ▸ ctlOf_ctlBits _ _ _)
theorem cancel (c : Ctl) (a : BitVec 5) : Statement (.cancel c a) := fun _ hw => .inr (Option.some.inj hw ▸ ctlOf_ctlBits _ _ _)
theorem waitany (c : Ctl) (d : BitVec 5) (a : BitVec 5) : Statement (.waitany c d a) := fun _ hw => .inr (Option.some.inj hw ▸ ctlOf_ctlBits _ _ _)
theorem envr (c : Ctl) (d : BitVec 5) (a : BitVec 5) (b : BitVec 5) : Statement (.envr c d a b) := fun _ hw => .inr (Option.some.inj hw ▸ ctlOf_ctlBits _ _ _)
theorem qget (c : Ctl) (t : BitVec 5) (a : BitVec 5) (l : BitVec 3) : Statement (.qget c t a l) := fun _ hw => .inr (Option.some.inj hw ▸ ctlOf_ctlBits _ _ _)
theorem qput (c : Ctl) (t : BitVec 5) (a : BitVec 5) (l : BitVec 3) : Statement (.qput c t a l) := fun _ hw => .inr (Option.some.inj hw ▸ ctlOf_ctlBits _ _ _)
theorem qgett (c : Ctl) (t : BitVec 5) (a : BitVec 5) (b : BitVec 5) (l : BitVec 3) : Statement (.qgett c t a b l) := fun _ hw => .inr (Option.some.inj hw ▸ ctlOf_ctlBits _ _ _)
theorem qputt (c : Ctl) (t : BitVec 5) (a : BitVec 5) (b : BitVec 5) (l : BitVec 3) : Statement (.qputt c t a b l) := fun _ hw => .inr (Option.some.inj hw ▸ ctlOf_ctlBits _ _ _)
theorem qatom (c : Ctl) (t : BitVec 5) (a : BitVec 5) (b : BitVec 5) (l : BitVec 3) : Statement (.qatom c t a b l) := fun _ hw => .inr (Option.some.inj hw ▸ ctlOf_ctlBits _ _ _)
theorem qgath (c : Ctl) (t : BitVec 5) (a : BitVec 5) (l : BitVec 3) : Statement (.qgath c t a l) := fun _ hw => .inr (Option.some.inj hw ▸ ctlOf_ctlBits _ _ _)
theorem qscat (c : Ctl) (t : BitVec 5) (a : BitVec 5) (l : BitVec 3) : Statement (.qscat c t a l) := fun _ hw => .inr (Option.some.inj hw ▸ ctlOf_ctlBits _ _ _)
theorem qfill (c : Ctl) (t : BitVec 5) (a : BitVec 5) (b : BitVec 5) : Statement (.qfill c t a b) := fun _ hw => .inr (Option.some.inj hw ▸ ctlOf_ctlBits _ _ _)
theorem qcopy (c : Ctl) (t : BitVec 5) (a : BitVec 5) (b : BitVec 5) : Statement (.qcopy c t a b) := fun _ hw => .inr (Option.some.inj hw ▸ ctlOf_ctlBits _ _ _)
theorem fenceQ (c : Ctl) (t : BitVec 5) : Statement (.fenceQ c t) := fun _ hw => .inr (Option.some.inj hw ▸ ctlOf_ctlBits _ _ _)
theorem spawn (c : Ctl) (d : BitVec 5) (a : BitVec 5) : Statement (.spawn c d a) := fun _ hw => .inr (Option.some.inj hw ▸ ctlOf_ctlBits _ _ _)
theorem spawnr (c : Ctl) (d : BitVec 5) (a : BitVec 5) : Statement (.spawnr c d a) := fun _ hw => .inr (Option.some.inj hw ▸ ctlOf_ctlBits _ _ _)
theorem pop (c : Ctl) (d : BitVec 5) (a : BitVec 5) : Statement (.pop c d a) := fun _ hw => .inr (Option.some.inj hw ▸ ctlOf_ctlBits _ _ _)
theorem steal (c : Ctl) (t : BitVec 5) (a : BitVec 5) : Statement (.steal c t a) := fun _ hw => .inr (Option.some.inj hw ▸ ctlOf_ctlBits _ _ _)
theorem stealX (c : Ctl) (t : BitVec 5) (a : BitVec 5) : Statement (.stealX c t a) := fun _ hw => .inr (Option.some.inj hw ▸ ctlOf_ctlBits _ _ _)
theorem dqst (c : Ctl) (d : BitVec 5) : Statement (.dqst c d) := fun _ hw => .inr (Option.some.inj hw ▸ ctlOf_ctlBits _ _ _)
theorem widf (c : Ctl) (d : BitVec 5) (a : BitVec 5) (f : BitVec 3) : Statement (.widf c d a f) := fun _ hw => .inr (Option.some.inj hw ▸ ctlOf_ctlBits _ _ _)
theorem wids (c : Ctl) (d : BitVec 5) (a : BitVec 5) (b : BitVec 5) (f : BitVec 3) : Statement (.wids c d a b f) := fun _ hw => .inr (Option.some.inj hw ▸ ctlOf_ctlBits _ _ _)
theorem sendt (c : Ctl) (t : BitVec 5) (a : BitVec 5) (b : BitVec 5) (l : BitVec 3) : Statement (.sendt c t a b l) := fun _ hw => .inr (Option.some.inj hw ▸ ctlOf_ctlBits _ _ _)
theorem msend (c : Ctl) (t : BitVec 5) (a : BitVec 5) (l : BitVec 3) : Statement (.msend c t a l) := fun _ hw => .inr (Option.some.inj hw ▸ ctlOf_ctlBits _ _ _)
theorem halo (c : Ctl) (t : BitVec 5) (a : BitVec 5) (e : BitVec 2) : Statement (.halo c t a e) := fun _ hw => .inr (Option.some.inj hw ▸ ctlOf_ctlBits _ _ _)
theorem waitmb (c : Ctl) (a : BitVec 5) (e : BitVec 2) : Statement (.waitmb c a e) := fun _ hw => .inr (Option.some.inj hw ▸ ctlOf_ctlBits _ _ _)
theorem fencex (c : Ctl) (t : BitVec 5) (a : BitVec 5) : Statement (.fencex c t a) := fun _ hw => .inr (Option.some.inj hw ▸ ctlOf_ctlBits _ _ _)
theorem mgset (c : Ctl) (a : BitVec 5) (b : BitVec 5) : Statement (.mgset c a b) := fun _ hw => .inr (Option.some.inj hw ▸ ctlOf_ctlBits _ _ _)
theorem fstat (c : Ctl) (d : BitVec 5) (a : BitVec 5) : Statement (.fstat c d a) := fun _ hw => .inr (Option.some.inj hw ▸ ctlOf_ctlBits _ _ _)
theorem erecv (c : Ctl) (t : BitVec 5) (a : BitVec 5) (l : BitVec 3) : Statement (.erecv c t a l) := fun _ hw => .inr (Option.some.inj hw ▸ ctlOf_ctlBits _ _ _)
theorem erecvNs (c : Ctl) (t : BitVec 5) (a : BitVec 5) (l : BitVec 3) : Statement (.erecvNs c t a l) := fun _ hw => .inr (Option.some.inj hw ▸ ctlOf_ctlBits _ _ _)
theorem deferH (c : Ctl) (t : BitVec 5) (a : BitVec 5) (b : BitVec 5) : Statement (.deferH c t a b) := fun _ hw => .inr (Option.some.inj hw ▸ ctlOf_ctlBits _ _ _)
theorem deferT (c : Ctl) (t : BitVec 5) (a : BitVec 5) : Statement (.deferT c t a) := fun _ hw => .inr (Option.some.inj hw ▸ ctlOf_ctlBits _ _ _)
theorem vtadv (c : Ctl) (a : BitVec 5) : Statement (.vtadv c a) := fun _ hw => .inr (Option.some.inj hw ▸ ctlOf_ctlBits _ _ _)
theorem savem (c : Ctl) (d : BitVec 5) (a : BitVec 5) : Statement (.savem c d a) := fun _ hw => .inr (Option.some.inj hw ▸ ctlOf_ctlBits _ _ _)
theorem gvtw (c : Ctl) (t : BitVec 5) (a : BitVec 5) : Statement (.gvtw c t a) := fun _ hw => .inr (Option.some.inj hw ▸ ctlOf_ctlBits _ _ _)
theorem bench (c : Ctl) (t : BitVec 5) (a : BitVec 5) : Statement (.bench c t a) := fun _ hw => .inr (Option.some.inj hw ▸ ctlOf_ctlBits _ _ _)
theorem bstat (c : Ctl) (d : BitVec 5) (a : BitVec 5) : Statement (.bstat c d a) := fun _ hw => .inr (Option.some.inj hw ▸ ctlOf_ctlBits _ _ _)
theorem bwait (c : Ctl) (t : BitVec 5) (a : BitVec 5) : Statement (.bwait c t a) := fun _ hw => .inr (Option.some.inj hw ▸ ctlOf_ctlBits _ _ _)
theorem bdrop (c : Ctl) (a : BitVec 5) : Statement (.bdrop c a) := fun _ hw => .inr (Option.some.inj hw ▸ ctlOf_ctlBits _ _ _)
theorem resultLand (site : Nat) : Statement (.resultLand site) := fun _ hw => nomatch hw
theorem asyncTrap (site : Nat) : Statement (.asyncTrap site) := fun _ hw => nomatch hw
theorem syncRelease (pid : Nat) : Statement (.syncRelease pid) := fun _ hw => nomatch hw
theorem scheduledFlitForward (site : Nat) (port : Nat) : Statement (.scheduledFlitForward site port) := fun _ hw => nomatch hw
theorem sendtDepart (site : Nat) : Statement (.sendtDepart site) := fun _ hw => nomatch hw
theorem timedArrival (site : Nat) : Statement (.timedArrival site) := fun _ hw => nomatch hw
theorem timedQueueDeliver (site : Nat) : Statement (.timedQueueDeliver site) := fun _ hw => nomatch hw
theorem multicastForward (site : Nat) : Statement (.multicastForward site) := fun _ hw => nomatch hw
theorem haloArrival (src : Nat) (dst : Nat) : Statement (.haloArrival src dst) := fun _ hw => nomatch hw
theorem congestionDetect (site : Nat) (port : Nat) (plane : Nat) (dst : Nat) : Statement (.congestionDetect site port plane dst) := fun _ hw => nomatch hw
theorem congestionNotice (site : Nat) (port : Nat) (plane : Nat) (dst : Nat) : Statement (.congestionNotice site port plane dst) := fun _ hw => nomatch hw
theorem setasideRelease (site : Nat) (port : Nat) (plane : Nat) (dst : Nat) : Statement (.setasideRelease site port plane dst) := fun _ hw => nomatch hw
theorem fenceMarker (die : Nat) (peer : Nat) (count : Nat) : Statement (.fenceMarker die peer count) := fun _ hw => nomatch hw
theorem fenceVerdict (site peerCount : Nat) : Statement (.fenceVerdict site peerCount) := fun _ hw => nomatch hw
theorem messageArrival (src : Nat) (dst : Nat) : Statement (.messageArrival src dst) := fun _ hw => nomatch hw
theorem hamperInputResume (site : Nat) : Statement (.hamperInputResume site) := fun _ hw => nomatch hw
theorem eagerReadoutStart (site : Nat) : Statement (.eagerReadoutStart site) := fun _ hw => nomatch hw
theorem eagerReadoutDone (site : Nat) : Statement (.eagerReadoutDone site) := fun _ hw => nomatch hw
theorem acceptanceArrival (src : Nat) (dst : Nat) : Statement (.acceptanceArrival src dst) := fun _ hw => nomatch hw
theorem refusalArrival (src : Nat) (dst : Nat) : Statement (.refusalArrival src dst) := fun _ hw => nomatch hw
theorem ctsSend (site : Nat) : Statement (.ctsSend site) := fun _ hw => nomatch hw
theorem ctsArrival (src : Nat) (dst : Nat) : Statement (.ctsArrival src dst) := fun _ hw => nomatch hw
theorem rendezvousStreamDone (site : Nat) : Statement (.rendezvousStreamDone site) := fun _ hw => nomatch hw
theorem receiveComplete (site : Nat) : Statement (.receiveComplete site) := fun _ hw => nomatch hw
theorem antiMessageArrival (src : Nat) (dst : Nat) : Statement (.antiMessageArrival src dst) := fun _ hw => nomatch hw
theorem peerFencedAnswer (src : Nat) (dst : Nat) : Statement (.peerFencedAnswer src dst) := fun _ hw => nomatch hw
theorem linkFail (die : Nat) (other : Nat) : Statement (.linkFail die other) := fun _ hw => nomatch hw
theorem quarryPartDispatch (site : Nat) : Statement (.quarryPartDispatch site) := fun _ hw => nomatch hw
theorem quarryWalk (site : Nat) : Statement (.quarryWalk site) := fun _ hw => nomatch hw
theorem quarryPartServe (src owner : Nat) : Statement (.quarryPartServe src owner) := fun _ hw => nomatch hw
theorem quarryReply (owner : Nat) (dst : Nat) : Statement (.quarryReply owner dst) := fun _ hw => nomatch hw
theorem quarryPartTimeout (site : Nat) (tracker : Nat) : Statement (.quarryPartTimeout site tracker) := fun _ hw => nomatch hw
theorem trackerHoldbackEnd (site : Nat) (tracker : Nat) : Statement (.trackerHoldbackEnd site tracker) := fun _ hw => nomatch hw
theorem stealServe (src : Nat) (dst : Nat) : Statement (.stealServe src dst) := fun _ hw => nomatch hw
theorem stealAnswer (src : Nat) (dst : Nat) : Statement (.stealAnswer src dst) := fun _ hw => nomatch hw
theorem dispatch (site : Nat) : Statement (.dispatch site) := fun _ hw => nomatch hw
theorem taskPreempt (site : Nat) : Statement (.taskPreempt site) := fun _ hw => nomatch hw
theorem pmaskExpire (site : Nat) : Statement (.pmaskExpire site) := fun _ hw => nomatch hw
theorem rollback (site : Nat) : Statement (.rollback site) := fun _ hw => nomatch hw
theorem gvtRoundStart (pid : Nat) : Statement (.gvtRoundStart pid) := fun _ hw => nomatch hw
theorem gvtReportRetry (pid : Nat) : Statement (.gvtReportRetry pid) := fun _ hw => nomatch hw
theorem gvtRelease (site : Nat) : Statement (.gvtRelease site) := fun _ hw => nomatch hw
theorem gvtRoundEnd (pid : Nat) : Statement (.gvtRoundEnd pid) := fun _ hw => nomatch hw
theorem benchAccept (pid : Nat) : Statement (.benchAccept pid) := fun _ hw => nomatch hw
theorem benchFlip (site : Nat) : Statement (.benchFlip site) := fun _ hw => nomatch hw
theorem quarryBenchFlip (pid : Nat) (owner : Nat) : Statement (.quarryBenchFlip pid owner) := fun _ hw => nomatch hw
theorem benchSweep (site : Nat) : Statement (.benchSweep site) := fun _ hw => nomatch hw
theorem benchSeal (pid : Nat) (id : Nat) : Statement (.benchSeal pid id) := fun _ hw => nomatch hw
theorem haulPage (pid id : Nat) : Statement (.haulPage pid id) := fun _ hw => nomatch hw
theorem periodicBench (pid : Nat) : Statement (.periodicBench pid) := fun _ hw => nomatch hw
theorem pfail : Statement .pfail := fun _ hw => nomatch hw
theorem containment (pid : Nat) : Statement (.containment pid) := fun _ hw => nomatch hw
theorem containmentDrained (pid : Nat) : Statement (.containmentDrained pid) := fun _ hw => nomatch hw
theorem preemptionCaptured (pid : Nat) : Statement (.preemptionCaptured pid) := fun _ hw => nomatch hw
theorem partitionEnd (pid : Nat) : Statement (.partitionEnd pid) := fun _ hw => nomatch hw
theorem tileHalt (site : Nat) : Statement (.tileHalt site) := fun _ hw => nomatch hw
theorem gangStop (pid : Nat) : Statement (.gangStop pid) := fun _ hw => nomatch hw
theorem gangResume (pid : Nat) : Statement (.gangResume pid) := fun _ hw => nomatch hw
theorem stepDone (site : Nat) : Statement (.stepDone site) := fun _ hw => nomatch hw
theorem dbgctlHalt (site : Nat) : Statement (.dbgctlHalt site) := fun _ hw => nomatch hw
theorem dbgctlStep (site : Nat) : Statement (.dbgctlStep site) := fun _ hw => nomatch hw
theorem dbgctlResume (site : Nat) : Statement (.dbgctlResume site) := fun _ hw => nomatch hw
theorem dbgpcWrite (site : Nat) (v : BitVec 64) : Statement (.dbgpcWrite site v) := fun _ hw => nomatch hw
theorem stepcntWrite (site : Nat) (v : BitVec 64) : Statement (.stepcntWrite site v) := fun _ hw => nomatch hw
theorem finjWrite (site : Nat) (v : BitVec 64) : Statement (.finjWrite site v) := fun _ hw => nomatch hw
theorem faultInjectDeferred (site : Nat) : Statement (.faultInjectDeferred site) := fun _ hw => nomatch hw
theorem traceBatchWrite (site : Nat) : Statement (.traceBatchWrite site) := fun _ hw => nomatch hw
theorem sramScrub (site : Nat) (line : Nat) : Statement (.sramScrub site line) := fun _ hw => nomatch hw
theorem quarryScrub (owner : Nat) (block : Nat) : Statement (.quarryScrub owner block) := fun _ hw => nomatch hw
theorem xbWrite (v : BitVec 64) : Statement (.xbWrite v) := fun _ hw => nomatch hw
theorem statusWrite (v : BitVec 64) : Statement (.statusWrite v) := fun _ hw => nomatch hw
theorem rmodeWrite (v : BitVec 64) : Statement (.rmodeWrite v) := fun _ hw => nomatch hw
theorem rseedWrite (v : BitVec 64) : Statement (.rseedWrite v) := fun _ hw => nomatch hw
theorem mailboxWrite (side : Nat) (v : BitVec 64) : Statement (.mailboxWrite side v) := fun _ hw => nomatch hw
theorem trcctlWrite (v : BitVec 64) : Statement (.trcctlWrite v) := fun _ hw => nomatch hw
theorem hostRegisterWrite (win : Nat) (off : Nat) (v : BitVec 64) : Statement (.hostRegisterWrite win off v) := fun _ hw => nomatch hw
theorem w3Read (off : Nat) : Statement (.w3Read off) := fun _ hw => nomatch hw
theorem w3Write (off : Nat) (v : BitVec 64) : Statement (.w3Write off v) := fun _ hw => nomatch hw
theorem qtailWrite (q : Nat) (v : BitVec 64) : Statement (.qtailWrite q v) := fun _ hw => nomatch hw
theorem ctailWrite (v : BitVec 64) : Statement (.ctailWrite v) := fun _ hw => nomatch hw
theorem otailWrite (v : BitVec 64) : Statement (.otailWrite v) := fun _ hw => nomatch hw
theorem haltp : Statement .haltp := fun _ hw => nomatch hw
theorem resumep : Statement .resumep := fun _ hw => nomatch hw
theorem contain : Statement .contain := fun _ hw => nomatch hw
theorem qroot : Statement .qroot := fun _ hw => nomatch hw
theorem qinval : Statement .qinval := fun _ hw => nomatch hw
theorem qinvalAcknowledge : Statement .qinvalAcknowledge := fun _ hw => nomatch hw
theorem retire : Statement .retire := fun _ hw => nomatch hw
theorem portpair : Statement .portpair := fun _ hw => nomatch hw
theorem gvtdom : Statement .gvtdom := fun _ hw => nomatch hw
theorem imgreg : Statement .imgreg := fun _ hw => nomatch hw
theorem imgdel : Statement .imgdel := fun _ hw => nomatch hw
theorem attest : Statement .attest := fun _ hw => nomatch hw
theorem pset : Statement .pset := fun _ hw => nomatch hw
theorem pcapWrite (v : BitVec 64) : Statement (.pcapWrite v) := fun _ hw => nomatch hw
theorem benchTake : Statement .benchTake := fun _ hw => nomatch hw
theorem benchRestore : Statement .benchRestore := fun _ hw => nomatch hw
theorem benchDrop : Statement .benchDrop := fun _ hw => nomatch hw
theorem benchKeep : Statement .benchKeep := fun _ hw => nomatch hw
theorem issueBudgetUpdate : Statement .issueBudgetUpdate := fun _ hw => nomatch hw
theorem thermalShutdown : Statement .thermalShutdown := fun _ hw => nomatch hw
theorem startSequence : Statement .startSequence := fun _ hw => nomatch hw
theorem bootCheck : Statement .bootCheck := fun _ hw => nomatch hw
theorem linkCrcRetry (die : Nat) (other : Nat) : Statement (.linkCrcRetry die other) := fun _ hw => nomatch hw

end Sys2Proof.Laws.GuardBits
end

