-- ==== Sys2Proof/Laws/Quarry.lean ====
section
/-! SUPPORT. What accesses to quarry memory do where no bad byte and no parity failure is pending (R211, R212): the counters of the rows move and
nothing else. -/

namespace Sys2Proof.Machine

open Sys2Proof

theorem useRows_clean (s : State) (owner : Nat) (bs : List Nat) (hp : s.qparity = []) : ∃ r, useRows s owner bs = { s with qrows := r } := by
  unfold useRows
  generalize (bs.map (fun b => Config.dramRow (b - qAddr owner 0 / 64))).dedup = l
  induction l generalizing s with
  | nil => exact ⟨s.qrows, rfl⟩
  | cons a l ih =>
    simp only [List.foldl_cons]
    obtain ⟨q, hq⟩ : ∃ q, useRow s owner a = (false, { s with qrows := q }) := ⟨_, by simp [useRow, hp]; rfl⟩
    simp only [hq, Bool.false_eq_true, if_false]
    obtain ⟨r, hr⟩ := ih { s with qrows := q } hp
    exact ⟨r, hr⟩
theorem readBlocks_clean (s : State) (qasid owner a n : Nat) (cap : Bool) (hp : s.qparity = []) (hs : s.qsoft = []) (hb : s.qbad = []) :
    ∃ r, readBlocks s qasid cap owner a n = (false, { s with qrows := r }) := by
  obtain ⟨r, hr⟩ := useRows_clean s owner (blocksOf cap owner a n) hp
  refine ⟨r, ?_⟩
  have (l : List Nat) : l.foldl (readBlock qasid owner) { s with qrows := r } = { s with qrows := r } := by
    induction l with
    | nil => rfl
    | cons b l ih => simpa [readBlock, hs, hb] using ih
  simp only [readBlocks, hr, this]
  simp [hb]
theorem writeHome_clean (s : State) (qasid owner a : Nat) (bs : List Byte) (hp : s.qparity = []) (hs : s.qsoft = []) (hb : s.qbad = []) :
    ∃ r, writeHome s qasid false owner a bs = (0, { s with qrows := r, quarry := writeBytes s.quarry (qAddr owner a) bs }) := by
  obtain ⟨r, hr⟩ := useRows_clean s owner (blocksOf false owner a bs.length) hp
  refine ⟨r, ?_⟩
  have (l : List Nat) : l.foldl (readBlock qasid owner) { s with qrows := r } = { s with qrows := r } := by
    induction l with
    | nil => rfl
    | cons b l ih => simpa [readBlock, hs, hb] using ih
  simp only [writeHome, hr, this]
  simp [hb, hs, homeWrite]

theorem readEntry_clean (s : State) (qasid owner a : Nat) (hp : s.qparity = []) (hs : s.qsoft = []) (hb : s.qbad = []) :
    ∃ r, readEntry s qasid owner a = (some (BitVec.ofNat 64 (leNat (homeRead s false owner a 8))), { s with qrows := r }) := by
  obtain ⟨r, hr⟩ := readBlocks_clean s qasid owner a 8 false hp hs hb
  exact ⟨r, by simp only [readEntry, hr]; rfl⟩

end Sys2Proof.Machine
end

