-- ==== Sys2Proof/Tests/Slice0.lean ====
section
/-! SUPPORT. The model's own tests: ill-formed terms that are refused, words written out from the encoding tables, one step on a small
state with a result computed by hand from the rule named, and for each statement states that meet its hypotheses. -/

set_option Elab.async false
set_option exponentiation.threshold 4096
set_option maxRecDepth 100000

namespace Sys2Proof.Tests

open Sys2Proof Sys2Proof.Machine

/-! ## Small states -/

/-- A slot with a true guard, and one whose guard selects predicate 1, which is false. -/
def on : Ctl := ⟨false, false, 0⟩
def off : Ctl := ⟨false, false, 1⟩

/-- A partition that runs on site 0. -/
def part : Partn := newPartn 1 0 0 [0]

/-- A task in user mode at site 0 with x1 = a and x2 = b; XB is 0x1000, XBMAX 0x10000, the reserved floor 0x1F0000, QASID 5. -/
def user (a b : W64) : State :=
  let t := { Tile.blank 0 with pid := 1, th := { Thread.zero with x := [(1, a), (2, b)] }, disp := { Dispatcher.empty with running := true } }
  let t := cwPut (cwPut (cwPut (cwPut (cwPut t 0x010 0x1000) 0x011 0x10000) 0x012 0x1F0000) 0x023 5) 0x022 0x100
  { State.reset with tile := t, partns := [part] }

/-- The same in supervisor mode. -/
def sup (a b : W64) : State := { user a b with tile := { (user a b).tile with sup := true } }

/-- The tile in focus changed. -/
def withTile (s : State) (f : Tile → Tile) : State := { s with tile := f s.tile }

/-- What a slot adds to its bundle: results, causes, stores. -/
def results (i : Instr) (s : State) : List Flight := match exec i s with
  | .next t => t.tile.iss.flights.map (·.2)
  | _ => []
def causes (i : Instr) (s : State) : List (Nat × W64) := match exec i s with
  | .next t => t.tile.iss.causes.map (fun p => (p.1, p.2.2))
  | _ => []
def stored (i : Instr) (s : State) : List (Nat × Byte) := match exec i s with
  | .next t => t.tile.iss.stores
  | _ => []

/-- The state after a step. -/
def after (i : Instr) (s : State) : State := match exec i s with
  | .next t => t
  | _ => s

/-! ## Ill-formed terms (R26, R32) -/

theorem test_wf_nop_needs_its_guard : (Instr.nop ⟨false, false, 0⟩ 0 0).wf = false ∧ (Instr.nop ⟨false, true, 1⟩ 0 0).wf = false := by decide
theorem test_wf_guard_of_a_nop : (Instr.add ⟨false, true, 0⟩ 1 2 3).wf = false := by decide
theorem test_wf_prefix_formats : (Instr.pfxM on 15 1 0 0).wf = false ∧ (Instr.pfxV on 1 15 0 0).wf = false := by decide
theorem test_wf_load_extension : (Instr.ld on 1 2 3 1 0).wf = false ∧ (Instr.ldx on 1 2 3 0 1 3).wf = false := by decide
theorem test_wf_beat_source : (Instr.mpush on 0 1 2 31 0 1).wf = false ∧ (Instr.macc on 0 1 2 3 1 1).wf = false
    ∧ (Instr.mshift on 0 31 0 1).wf = false ∧ (Instr.mlatch on 0 1 3 1 1).wf = false ∧ (Instr.mlside on 0 1 31 0 1).wf = false := by decide
theorem test_wf_drain : (Instr.mdrain on 0 1 2 0 0 0 5 0).wf = false ∧ (Instr.mdrain on 0 1 31 1 0 0 0 0).wf = false
    ∧ (Instr.mdrain on 0 1 2 1 1 0 0 0).wf = false ∧ (Instr.mdrain on 0 1 2 0 1 0 12 0).wf = false := by decide
theorem test_wf_status_numbers : (Instr.mrds on 1 5).wf = false ∧ (Instr.fstat on 1 5).wf = false := by decide
theorem test_wf_cancel_names_a_register : (Instr.cancel on 0).wf = false := by decide
theorem test_wf_register_pairs : (Instr.qgett on 1 2 31 0).wf = false ∧ (Instr.qputt on 1 2 31 0).wf = false
    ∧ (Instr.qfill on 1 2 31).wf = false ∧ (Instr.qcopy on 1 2 31).wf = false := by decide
theorem test_wf_identity_fields : (Instr.widf on 1 2 6).wf = false ∧ (Instr.wids on 1 2 3 7).wf = false := by decide
theorem test_wf_places_of_steps : (Instr.dispatch 4096).wf = false ∧ (Instr.messageArrival 4352 0).wf = false
    ∧ (Instr.scheduledFlitForward 0 6).wf = false ∧ (Instr.qtailWrite 12 1).wf = false ∧ (Instr.hostRegisterWrite 3 0 0).wf = false
    ∧ (Instr.quarryScrub 256 0).wf = false ∧ (Instr.benchSeal 1 8).wf = false ∧ (Instr.mailboxWrite 4 0).wf = false
    ∧ (Instr.linkFail 16 0).wf = false ∧ (Instr.quarryPartTimeout 0 256).wf = false ∧ (Instr.fenceMarker 0 65536 0).wf = false := by decide

/-! ## Words written out from the encoding tables (R24, R31)

The fields stand apart: stop, major opcode, guard sense, guard, then the operand fields and the fixed bits of the form. -/

theorem test_decode_major_00 :
    decodeWord 0b1_000000_1_000_000000000000000000000 = .ok (.nop ⟨true, true, 0⟩ 0 0)
    ∧ decodeWord 0b1_000000_0_100_01101_11011_01001_000000 = .ok (.add ⟨true, false, 4⟩ 13 27 9)
    ∧ decodeWord 0b0_000000_1_111_11011_01001_10111_000001 = .ok (.sub ⟨false, true, 7⟩ 27 9 23)
    ∧ decodeWord 0b1_000000_1_010_01010_11000_00110_000010 = .ok (.and ⟨true, true, 2⟩ 10 24 6)
    ∧ decodeWord 0b0_000000_0_101_11000_00110_10100_000011 = .ok (.or ⟨false, false, 5⟩ 24 6 20)
    ∧ decodeWord 0b1_000000_0_000_00111_10101_00011_000100 = .ok (.xor ⟨true, false, 0⟩ 7 21 3)
    ∧ decodeWord 0b0_000000_1_011_10101_00011_10001_000101 = .ok (.andn ⟨false, true, 3⟩ 21 3 17)
    ∧ decodeWord 0b1_000000_1_110_00100_10010_00001_000110 = .ok (.orn ⟨true, true, 6⟩ 4 18 1)
    ∧ decodeWord 0b0_000000_0_001_10010_00001_01110_000111 = .ok (.xnor ⟨false, false, 1⟩ 18 1 14)
    ∧ decodeWord 0b1_000000_0_100_00001_01111_11101_001000 = .ok (.sll ⟨true, false, 4⟩ 1 15 29)
    ∧ decodeWord 0b0_000000_1_111_01111_11101_01011_001001 = .ok (.srl ⟨false, true, 7⟩ 15 29 11)
    ∧ decodeWord 0b1_000000_1_010_11110_01100_11010_001010 = .ok (.sra ⟨true, true, 2⟩ 30 12 26)
    ∧ decodeWord 0b0_000000_0_101_01100_11010_01000_001011 = .ok (.ror ⟨false, false, 5⟩ 12 26 8)
    ∧ decodeWord 0b1_000000_0_000_11011_01001_10111_001100 = .ok (.rol ⟨true, false, 0⟩ 27 9 23)
    ∧ decodeWord 0b0_000000_1_011_01001_10111_00101_001101 = .ok (.slt ⟨false, true, 3⟩ 9 23 5)
    ∧ decodeWord 0b1_000000_1_110_11000_00110_10100_001110 = .ok (.sltu ⟨true, true, 6⟩ 24 6 20)
    ∧ decodeWord 0b0_000000_0_001_00110_10100_00010_001111 = .ok (.min ⟨false, false, 1⟩ 6 20 2)
    ∧ decodeWord 0b1_000000_0_100_10101_00011_10001_010000 = .ok (.max ⟨true, false, 4⟩ 21 3 17)
    ∧ decodeWord 0b0_000000_1_111_00011_10001_11101_010001 = .ok (.minu ⟨false, true, 7⟩ 3 17 29)
    ∧ decodeWord 0b1_000000_1_010_10010_00001_01110_010010 = .ok (.maxu ⟨true, true, 2⟩ 18 1 14)
    ∧ decodeWord 0b0_000000_0_101_00001_01110_11100_010011 = .ok (.addw ⟨false, false, 5⟩ 1 14 28)
    ∧ decodeWord 0b1_000000_0_000_01111_11101_01011_010100 = .ok (.subw ⟨true, false, 0⟩ 15 29 11)
    ∧ decodeWord 0b0_000000_1_011_11101_01011_11001_010101 = .ok (.sllw ⟨false, true, 3⟩ 29 11 25)
    ∧ decodeWord 0b1_000000_1_110_01100_11010_01000_010110 = .ok (.srlw ⟨true, true, 6⟩ 12 26 8)
    ∧ decodeWord 0b0_000000_0_001_11010_01000_10110_010111 = .ok (.sraw ⟨false, false, 1⟩ 26 8 22) := by
  and_intros <;> rfl
theorem test_decode_major_01 :
    decodeWord 0b0_000001_0_001_11110_01100_11010_000000 = .ok (.mul ⟨false, false, 1⟩ 30 12 26)
    ∧ decodeWord 0b1_000001_0_100_01101_11011_01001_000001 = .ok (.mulh ⟨true, false, 4⟩ 13 27 9)
    ∧ decodeWord 0b0_000001_1_111_11011_01001_10111_000010 = .ok (.mulhu ⟨false, true, 7⟩ 27 9 23)
    ∧ decodeWord 0b1_000001_1_010_01010_11000_00110_000011 = .ok (.mulhsu ⟨true, true, 2⟩ 10 24 6)
    ∧ decodeWord 0b0_000001_0_101_11000_00110_10100_000100 = .ok (.mulw ⟨false, false, 5⟩ 24 6 20)
    ∧ decodeWord 0b1_000001_0_000_00111_10101_00011_001000 = .ok (.div ⟨true, false, 0⟩ 7 21 3)
    ∧ decodeWord 0b0_000001_1_011_10101_00011_10001_001001 = .ok (.divu ⟨false, true, 3⟩ 21 3 17)
    ∧ decodeWord 0b1_000001_1_110_00100_10010_00001_001010 = .ok (.rem ⟨true, true, 6⟩ 4 18 1)
    ∧ decodeWord 0b0_000001_0_001_10010_00001_01110_001011 = .ok (.remu ⟨false, false, 1⟩ 18 1 14)
    ∧ decodeWord 0b1_000001_0_100_00001_01111_11101_001100 = .ok (.divw ⟨true, false, 4⟩ 1 15 29)
    ∧ decodeWord 0b0_000001_1_111_01111_11101_01011_001101 = .ok (.divuw ⟨false, true, 7⟩ 15 29 11)
    ∧ decodeWord 0b1_000001_1_010_11110_01100_11010_001110 = .ok (.remw ⟨true, true, 2⟩ 30 12 26)
    ∧ decodeWord 0b0_000001_0_101_01100_11010_01000_001111 = .ok (.remuw ⟨false, false, 5⟩ 12 26 8) := by
  and_intros <;> rfl
theorem test_decode_major_02 :
    decodeWord 0b0_000010_0_001_11110_01100_00000000000 = .ok (.clz ⟨false, false, 1⟩ 30 12)
    ∧ decodeWord 0b1_000010_0_100_01101_11011_00000000001 = .ok (.ctz ⟨true, false, 4⟩ 13 27)
    ∧ decodeWord 0b0_000010_1_111_11011_01001_00000000010 = .ok (.popc ⟨false, true, 7⟩ 27 9)
    ∧ decodeWord 0b1_000010_1_010_01010_11000_00000000011 = .ok (.brev ⟨true, true, 2⟩ 10 24)
    ∧ decodeWord 0b0_000010_0_101_11000_00110_00000000100 = .ok (.bswap ⟨false, false, 5⟩ 24 6)
    ∧ decodeWord 0b1_000010_0_000_00111_10101_00000000101 = .ok (.sextb ⟨true, false, 0⟩ 7 21)
    ∧ decodeWord 0b0_000010_1_011_10101_00011_00000000110 = .ok (.sexth ⟨false, true, 3⟩ 21 3)
    ∧ decodeWord 0b1_000010_1_110_00100_10010_00000001000 = .ok (.zextb ⟨true, true, 6⟩ 4 18)
    ∧ decodeWord 0b0_000010_0_001_10010_00001_00000001001 = .ok (.zexth ⟨false, false, 1⟩ 18 1)
    ∧ decodeWord 0b1_000010_0_100_00001_01111_00000001010 = .ok (.zextw ⟨true, false, 4⟩ 1 15)
    ∧ decodeWord 0b0_000010_1_111_01111_11101_00000001011 = .ok (.clzw ⟨false, true, 7⟩ 15 29)
    ∧ decodeWord 0b1_000010_1_010_11110_01100_11010_010000 = .ok (.bext ⟨true, true, 2⟩ 30 12 26)
    ∧ decodeWord 0b0_000010_0_101_01100_11010_01000_010001 = .ok (.bset ⟨false, false, 5⟩ 12 26 8)
    ∧ decodeWord 0b1_000010_0_000_11011_01001_10111_010010 = .ok (.bclr ⟨true, false, 0⟩ 27 9 23)
    ∧ decodeWord 0b0_000010_1_011_01001_10111_00101_010011 = .ok (.binv ⟨false, true, 3⟩ 9 23 5)
    ∧ decodeWord 0b1_000010_1_110_11000_00110_10100_010100 = .ok (.bfxu ⟨true, true, 6⟩ 24 6 20)
    ∧ decodeWord 0b0_000010_0_001_00110_10100_00010_010101 = .ok (.bfxs ⟨false, false, 1⟩ 6 20 2) := by
  and_intros <;> rfl
theorem test_decode_major_03 :
    decodeWord 0b0_000011_0_001_11110_01100_01001111010 = .ok (.addi ⟨false, false, 1⟩ 30 12 634) := rfl
theorem test_decode_major_04 :
    decodeWord 0b0_000100_0_001_11110_01100_01001111010 = .ok (.andi ⟨false, false, 1⟩ 30 12 634) := rfl
theorem test_decode_major_05 :
    decodeWord 0b0_000101_0_001_11110_01100_01001111010 = .ok (.ori ⟨false, false, 1⟩ 30 12 634) := rfl
theorem test_decode_major_06 :
    decodeWord 0b0_000110_0_001_11110_01100_01001111010 = .ok (.xori ⟨false, false, 1⟩ 30 12 634) := rfl
theorem test_decode_major_07 :
    decodeWord 0b0_000111_0_001_11110_01100_00000_111010 = .ok (.slli ⟨false, false, 1⟩ 30 12 58)
    ∧ decodeWord 0b1_000111_0_100_01101_11011_00100_001001 = .ok (.srli ⟨true, false, 4⟩ 13 27 9)
    ∧ decodeWord 0b0_000111_1_111_11011_01001_01000_010111 = .ok (.srai ⟨false, true, 7⟩ 27 9 23)
    ∧ decodeWord 0b1_000111_1_010_01010_11000_01100_100110 = .ok (.rori ⟨true, true, 2⟩ 10 24 38)
    ∧ decodeWord 0b0_000111_0_101_11000_00110_100000_10100 = .ok (.slliw ⟨false, false, 5⟩ 24 6 20)
    ∧ decodeWord 0b1_000111_0_000_00111_10101_101000_00011 = .ok (.srliw ⟨true, false, 0⟩ 7 21 3)
    ∧ decodeWord 0b0_000111_1_011_10101_00011_110000_10001 = .ok (.sraiw ⟨false, true, 3⟩ 21 3 17) := by
  and_intros <;> rfl
theorem test_decode_major_08 :
    decodeWord 0b0_001000_0_001_11110_0011100010001100 = .ok (.ldi ⟨false, false, 1⟩ 30 14476) := rfl
theorem test_decode_major_09 :
    decodeWord 0b0_001001_0_001_11110_0011100010001100 = .ok (.ldh1 ⟨false, false, 1⟩ 30 14476) := rfl
theorem test_decode_major_0a :
    decodeWord 0b0_001010_0_001_11110_0011100010001100 = .ok (.ldh2 ⟨false, false, 1⟩ 30 14476) := rfl
theorem test_decode_major_0b :
    decodeWord 0b0_001011_0_001_11110_0011100010001100 = .ok (.ldh3 ⟨false, false, 1⟩ 30 14476) := rfl
theorem test_decode_major_0c :
    decodeWord 0b0_001100_0_001_11110_01100_11010_101000 = .ok (.sel ⟨false, false, 1⟩ 30 12 26 40) := rfl
theorem test_decode_major_0d :
    decodeWord 0b0_001101_0_001_11110_01100_11010_000_001 = .ok (.addsc ⟨false, false, 1⟩ 30 12 26 1)
    ∧ decodeWord 0b1_001101_0_100_01101_11011_01001_001_101 = .ok (.ladd ⟨true, false, 4⟩ 13 27 9 5)
    ∧ decodeWord 0b0_001101_1_111_00000_11011_01001_010000 = .ok (.chku ⟨false, true, 7⟩ 27 9) := by
  and_intros <;> rfl
theorem test_decode_major_0e :
    decodeWord 0b0_001110_0_001_11110_0000_100010001100 = .ok (.rdw ⟨false, false, 1⟩ 30 2188) := rfl
theorem test_decode_major_0f :
    decodeWord 0b0_001111_0_001_11110_0000_100010001100 = .ok (.wrw ⟨false, false, 1⟩ 30 2188) := rfl
theorem test_decode_major_10 :
    decodeWord 0b0_010000_0_001_000000001011010011110 = .ok (.br ⟨false, false, 1⟩ 5790) := rfl
theorem test_decode_major_11 :
    decodeWord 0b0_010001_0_001_000000001011010011110 = .ok (.call ⟨false, false, 1⟩ 5790) := rfl
theorem test_decode_major_12 :
    decodeWord 0b0_010010_0_001_00000_11110_00000000000 = .ok (.jr ⟨false, false, 1⟩ 30)
    ∧ decodeWord 0b1_010010_0_100_01101_11011_00000000001 = .ok (.jalr ⟨true, false, 4⟩ 13 27) := by
  and_intros <;> rfl
theorem test_decode_major_13 :
    decodeWord 0b0_010011_0_001_11110_0011100010001100 = .ok (.loop ⟨false, false, 1⟩ 30 14476) := rfl
theorem test_decode_major_14 :
    decodeWord 0b0_010100_0_001_0011110_01100_11010_0_001 = .ok (.cmp ⟨false, false, 1⟩ 30 12 26 1) := rfl
theorem test_decode_major_15 :
    decodeWord 0b0_010101_0_001_0011110_01100_010_101000 = .ok (.cmpi ⟨false, false, 1⟩ 30 12 2 40) := rfl
theorem test_decode_major_16 :
    decodeWord 0b0_010110_0_001_0011110_0001100_1111010 = .ok (.pand ⟨false, false, 1⟩ 30 12 122) := rfl
theorem test_decode_major_17 :
    decodeWord 0b0_010111_0_001_0011110_0001100_1111010 = .ok (.por ⟨false, false, 1⟩ 30 12 122) := rfl
theorem test_decode_major_18 :
    decodeWord 0b0_011000_0_001_0011110_0001100_1111010 = .ok (.pxor ⟨false, false, 1⟩ 30 12 122) := rfl
theorem test_decode_major_19 :
    decodeWord 0b0_011001_0_001_0011110_0001100_1111010 = .ok (.pandn ⟨false, false, 1⟩ 30 12 122) := rfl
theorem test_decode_major_1a :
    decodeWord 0b0_011010_0_001_11110_0000_1_00000000000 = .ok (.prdg ⟨false, false, 1⟩ 30 1)
    ∧ decodeWord 0b1_011010_0_100_000000000_1_11011_000001 = .ok (.pwrg ⟨true, false, 4⟩ 1 27) := by
  and_intros <;> rfl
theorem test_decode_major_1b :
    decodeWord 0b0_011011_0_001_00000_11110_00000000000 = .ok (.trap ⟨false, false, 1⟩ 30)
    ∧ decodeWord 0b1_011011_0_100_000000000000000000001 = .ok (.rfe ⟨true, false, 4⟩)
    ∧ decodeWord 0b0_011011_1_111_000000000000000000010 = .ok (.brk ⟨false, true, 7⟩)
    ∧ decodeWord 0b1_011011_1_010_00000_01010_00000000011 = .ok (.idle ⟨true, true, 2⟩ 10)
    ∧ decodeWord 0b0_011011_0_101_000000000000000000100 = .ok (.ifence ⟨false, false, 5⟩)
    ∧ decodeWord 0b1_011011_0_000_000000000000000000101 = .ok (.maskp ⟨true, false, 0⟩)
    ∧ decodeWord 0b0_011011_1_011_000000000000000000110 = .ok (.unmaskp ⟨false, true, 3⟩)
    ∧ decodeWord 0b1_011011_1_110_00000_00100_00000000111 = .ok (.savelt ⟨true, true, 6⟩ 4)
    ∧ decodeWord 0b0_011011_0_001_00000_10010_00000001000 = .ok (.rstlt ⟨false, false, 1⟩ 18)
    ∧ decodeWord 0b1_011011_0_100_000000000000000010000 = .ok (.sync ⟨true, false, 4⟩)
    ∧ decodeWord 0b0_011011_1_111_000000000000000010001 = .ok (.lpop ⟨false, true, 7⟩)
    ∧ decodeWord 0b1_011011_1_010_000000000000000011000 = .ok (.yield ⟨true, true, 2⟩)
    ∧ decodeWord 0b0_011011_0_101_00000_01100_00000011001 = .ok (.suspend ⟨false, false, 5⟩ 12)
    ∧ decodeWord 0b1_011011_0_000_000000000000000011010 = .ok (.exit ⟨true, false, 0⟩) := by
  and_intros <;> rfl
theorem test_decode_major_1c :
    decodeWord 0b0_011100_0_001_00000_0001011010011110 = .ok (.sig ⟨false, false, 1⟩ 5790) := rfl
theorem test_decode_major_1d :
    decodeWord 0b0_011101_0_001_1110_1100_10_1_0000000000 = .ok (.pfxM ⟨false, false, 1⟩ 14 12 2 1)
    ∧ decodeWord 0b1_011101_0_100_1101_1011_01_1_1000000000 = .ok (.pfxV ⟨true, false, 4⟩ 13 11 1 1) := by
  and_intros <;> rfl
theorem test_decode_major_20 :
    decodeWord 0b0_100000_0_001_11110_01100_10_1_01010110 = .ok (.ld ⟨false, false, 1⟩ 30 12 2 1 86) := rfl
theorem test_decode_major_21 :
    decodeWord 0b0_100001_0_001_11110_01100_10_0_01101000 = .ok (.st ⟨false, false, 1⟩ 30 12 2 104) := rfl
theorem test_decode_major_22 :
    decodeWord 0b0_100010_0_001_11110_01100_11010_00_1_1_01 = .ok (.ldx ⟨false, false, 1⟩ 30 12 26 1 1 1)
    ∧ decodeWord 0b1_100010_0_100_01101_11011_01001_01_1_0_01 = .ok (.stx ⟨true, false, 4⟩ 13 27 9 1 1) := by
  and_intros <;> rfl
theorem test_decode_major_23 :
    decodeWord 0b0_100011_0_001_11110_01100_00_001111010 = .ok (.vld ⟨false, false, 1⟩ 30 12 122)
    ∧ decodeWord 0b1_100011_0_100_01101_11011_01_111001001 = .ok (.vst ⟨true, false, 4⟩ 13 27 457)
    ∧ decodeWord 0b0_100011_1_111_11011_01001_10_100010111 = .ok (.vldl ⟨false, true, 7⟩ 27 9 279)
    ∧ decodeWord 0b1_100011_1_010_01010_11000_11_001100110 = .ok (.vldu ⟨true, true, 2⟩ 10 24 102) := by
  and_intros <;> rfl
theorem test_decode_major_24 :
    decodeWord 0b0_100100_0_001_11110_01100_11010_001_000 = .ok (.vgth32 ⟨false, false, 1⟩ 30 12 26 1)
    ∧ decodeWord 0b1_100100_0_100_01101_11011_01001_101_001 = .ok (.vsct32 ⟨true, false, 4⟩ 13 27 9 5)
    ∧ decodeWord 0b0_100100_1_111_11011_01001_10111_101_010 = .ok (.vgth16 ⟨false, true, 7⟩ 27 9 23 5)
    ∧ decodeWord 0b1_100100_1_010_01010_11000_00110_100_011 = .ok (.vsct16 ⟨true, true, 2⟩ 10 24 6 4)
    ∧ decodeWord 0b0_100100_0_101_11000_00110_10100_010_100 = .ok (.vgth8 ⟨false, false, 5⟩ 24 6 20 2)
    ∧ decodeWord 0b1_100100_0_000_00111_10101_00011_001_101 = .ok (.vsct8 ⟨true, false, 0⟩ 7 21 3 1)
    ∧ decodeWord 0b0_100100_1_011_10101_00011_00000_001_110 = .ok (.vldm ⟨false, true, 3⟩ 21 3 1)
    ∧ decodeWord 0b1_100100_1_110_00100_10010_00000_001_111 = .ok (.vstm ⟨true, true, 6⟩ 4 18 1) := by
  and_intros <;> rfl
theorem test_decode_major_25 :
    decodeWord 0b0_100101_0_001_11110_01100_00000000000 = .ok (.ltld ⟨false, false, 1⟩ 30 12)
    ∧ decodeWord 0b1_100101_0_100_01101_11011_00000000001 = .ok (.ltst ⟨true, false, 4⟩ 13 27)
    ∧ decodeWord 0b0_100101_1_111_11011_01001_10111_000010 = .ok (.ltw ⟨false, true, 7⟩ 27 9 23)
    ∧ decodeWord 0b1_100101_1_010_01010_11000_00000000011 = .ok (.ltrl ⟨true, true, 2⟩ 10 24)
    ∧ decodeWord 0b0_100101_0_101_11000_00110_00000000100 = .ok (.ltrh ⟨false, false, 5⟩ 24 6)
    ∧ decodeWord 0b1_100101_0_000_00111_10101_00000000101 = .ok (.ltbase ⟨true, false, 0⟩ 7 21) := by
  and_intros <;> rfl
theorem test_decode_major_26 :
    decodeWord 0b0_100110_0_001_00000_11110_01100_000000 = .ok (.istw ⟨false, false, 1⟩ 30 12)
    ∧ decodeWord 0b1_100110_0_100_00000_01101_11011_000001 = .ok (.istv ⟨true, false, 4⟩ 13 27) := by
  and_intros <;> rfl
theorem test_decode_major_28 :
    decodeWord 0b0_101000_0_001_11110_01100_11010_001_000 = .ok (.vadd ⟨false, false, 1⟩ 30 12 26 1)
    ∧ decodeWord 0b1_101000_0_100_01101_11011_01001_101_001 = .ok (.vsub ⟨true, false, 4⟩ 13 27 9 5)
    ∧ decodeWord 0b0_101000_1_111_11011_01001_10111_101_010 = .ok (.vmul ⟨false, true, 7⟩ 27 9 23 5)
    ∧ decodeWord 0b1_101000_1_010_01010_11000_00110_100_011 = .ok (.vfma ⟨true, true, 2⟩ 10 24 6 4)
    ∧ decodeWord 0b0_101000_0_101_11000_00110_10100_010_100 = .ok (.vfnma ⟨false, false, 5⟩ 24 6 20 2)
    ∧ decodeWord 0b1_101000_0_000_00111_10101_00011_001_101 = .ok (.vmin ⟨true, false, 0⟩ 7 21 3 1)
    ∧ decodeWord 0b0_101000_1_011_10101_00011_10001_101_110 = .ok (.vmax ⟨false, true, 3⟩ 21 3 17 5)
    ∧ decodeWord 0b1_101000_1_110_00100_10010_00001_110_111 = .ok (.vfms ⟨true, true, 6⟩ 4 18 1 6) := by
  and_intros <;> rfl
theorem test_decode_major_29 :
    decodeWord 0b0_101001_0_001_11110_01100_00000_010_000 = .ok (.vrcp ⟨false, false, 1⟩ 30 12 2)
    ∧ decodeWord 0b1_101001_0_100_01101_11011_00000_001_001 = .ok (.vrsq ⟨true, false, 4⟩ 13 27 1)
    ∧ decodeWord 0b0_101001_1_111_11011_01001_00000_101_010 = .ok (.vexp2 ⟨false, true, 7⟩ 27 9 5)
    ∧ decodeWord 0b1_101001_1_010_01010_11000_00000_110_011 = .ok (.vlog2 ⟨true, true, 2⟩ 10 24 6)
    ∧ decodeWord 0b0_101001_0_101_11000_00110_00000_100_100 = .ok (.vsinp ⟨false, false, 5⟩ 24 6 4)
    ∧ decodeWord 0b1_101001_0_000_00111_10101_00000_011_101 = .ok (.vtanh ⟨true, false, 0⟩ 7 21 3)
    ∧ decodeWord 0b0_101001_1_011_10101_00011_10001_101_110 = .ok (.vdiv ⟨false, true, 3⟩ 21 3 17 5)
    ∧ decodeWord 0b1_101001_1_110_00100_10010_00000_001_111 = .ok (.vsqrt ⟨true, true, 6⟩ 4 18 1) := by
  and_intros <;> rfl
theorem test_decode_major_2a :
    decodeWord 0b0_101010_0_001_11110_01100_11010_001_000 = .ok (.viadd ⟨false, false, 1⟩ 30 12 26 1)
    ∧ decodeWord 0b1_101010_0_100_01101_11011_01001_101_001 = .ok (.visub ⟨true, false, 4⟩ 13 27 9 5)
    ∧ decodeWord 0b0_101010_1_111_11011_01001_10111_101_010 = .ok (.vimul ⟨false, true, 7⟩ 27 9 23 5)
    ∧ decodeWord 0b1_101010_1_010_01010_11000_00110_100_011 = .ok (.vimulh ⟨true, true, 2⟩ 10 24 6 4)
    ∧ decodeWord 0b0_101010_0_101_11000_00110_10100_010_100 = .ok (.viadds ⟨false, false, 5⟩ 24 6 20 2)
    ∧ decodeWord 0b1_101010_0_000_00111_10101_00011_001_101 = .ok (.visubs ⟨true, false, 0⟩ 7 21 3 1)
    ∧ decodeWord 0b0_101010_1_011_10101_00011_10001_101_110 = .ok (.vimin ⟨false, true, 3⟩ 21 3 17 5)
    ∧ decodeWord 0b1_101010_1_110_00100_10010_00001_110_111 = .ok (.vimax ⟨true, true, 6⟩ 4 18 1 6) := by
  and_intros <;> rfl
theorem test_decode_major_2b :
    decodeWord 0b0_101011_0_001_11110_01100_11010_001_000 = .ok (.vand ⟨false, false, 1⟩ 30 12 26 1)
    ∧ decodeWord 0b1_101011_0_100_01101_11011_01001_101_001 = .ok (.vor ⟨true, false, 4⟩ 13 27 9 5)
    ∧ decodeWord 0b0_101011_1_111_11011_01001_10111_101_010 = .ok (.vxor ⟨false, true, 7⟩ 27 9 23 5)
    ∧ decodeWord 0b1_101011_1_010_01010_11000_00110_100_011 = .ok (.vandn ⟨true, true, 2⟩ 10 24 6 4)
    ∧ decodeWord 0b0_101011_0_101_11000_00110_10100_010_100 = .ok (.vsll ⟨false, false, 5⟩ 24 6 20 2)
    ∧ decodeWord 0b1_101011_0_000_00111_10101_00011_001_101 = .ok (.vsrl ⟨true, false, 0⟩ 7 21 3 1)
    ∧ decodeWord 0b0_101011_1_011_10101_00011_10001_101_110 = .ok (.vsra ⟨false, true, 3⟩ 21 3 17 5)
    ∧ decodeWord 0b1_101011_1_110_00100_10010_00001_110_111 = .ok (.vbsl ⟨true, true, 6⟩ 4 18 1 6) := by
  and_intros <;> rfl
theorem test_decode_major_2c :
    decodeWord 0b0_101100_0_001_00_110_01100_11010_001_000 = .ok (.vceq ⟨false, false, 1⟩ 6 12 26 1)
    ∧ decodeWord 0b1_101100_0_100_00_101_11011_01001_101_001 = .ok (.vcne ⟨true, false, 4⟩ 5 27 9 5)
    ∧ decodeWord 0b0_101100_1_111_00_011_01001_10111_101_010 = .ok (.vclt ⟨false, true, 7⟩ 3 9 23 5)
    ∧ decodeWord 0b1_101100_1_010_00_010_11000_00110_100_011 = .ok (.vcle ⟨true, true, 2⟩ 2 24 6 4)
    ∧ decodeWord 0b0_101100_0_101_00_001_00110_10100_010_100 = .ok (.vcun ⟨false, false, 5⟩ 1 6 20 2)
    ∧ decodeWord 0b1_101100_0_000_00_101_10101_00011_001_101 = .ok (.vctst ⟨true, false, 0⟩ 5 21 3 1) := by
  and_intros <;> rfl
theorem test_decode_major_2d :
    decodeWord 0b0_101101_0_001_11110_01100_11010_001_000 = .ok (.vcvt ⟨false, false, 1⟩ 30 12 26 1)
    ∧ decodeWord 0b1_101101_0_100_01101_11011_00000_001_001 = .ok (.vrint ⟨true, false, 4⟩ 13 27 1) := by
  and_intros <;> rfl
theorem test_decode_major_2e :
    decodeWord 0b0_101110_0_001_11110_01100_00000_010_000 = .ok (.vmov ⟨false, false, 1⟩ 30 12 2)
    ∧ decodeWord 0b1_101110_0_100_01101_11011_01001_101_001 = .ok (.vsel ⟨true, false, 4⟩ 13 27 9 5)
    ∧ decodeWord 0b0_101110_1_111_11011_01001_00000_101_010 = .ok (.vabs ⟨false, true, 7⟩ 27 9 5)
    ∧ decodeWord 0b1_101110_1_010_01010_11000_00000_110_011 = .ok (.vneg ⟨true, true, 2⟩ 10 24 6)
    ∧ decodeWord 0b0_101110_0_101_11000_00110_10100_010_100 = .ok (.vcpys ⟨false, false, 5⟩ 24 6 20 2) := by
  and_intros <;> rfl
theorem test_decode_major_2f :
    decodeWord 0b0_101111_0_001_11110_01100_00000_010_000 = .ok (.vfrsum ⟨false, false, 1⟩ 30 12 2)
    ∧ decodeWord 0b1_101111_0_100_01101_11011_00000_001_001 = .ok (.vfrmax ⟨true, false, 4⟩ 13 27 1)
    ∧ decodeWord 0b0_101111_1_111_11011_01001_00000_101_010 = .ok (.vfrmin ⟨false, true, 7⟩ 27 9 5)
    ∧ decodeWord 0b1_101111_1_010_01010_11000_00000_110_011 = .ok (.vfscan ⟨true, true, 2⟩ 10 24 6)
    ∧ decodeWord 0b0_101111_0_101_11000_00110_00000_100_100 = .ok (.virsum ⟨false, false, 5⟩ 24 6 4)
    ∧ decodeWord 0b1_101111_0_000_00111_10101_00000_011_101 = .ok (.virmax ⟨true, false, 0⟩ 7 21 3)
    ∧ decodeWord 0b0_101111_1_011_10101_00011_00000_001_110 = .ok (.virmin ⟨false, true, 3⟩ 21 3 1)
    ∧ decodeWord 0b1_101111_1_110_00100_10010_00000_001_111 = .ok (.viscan ⟨true, true, 6⟩ 4 18 1) := by
  and_intros <;> rfl
theorem test_decode_major_30 :
    decodeWord 0b0_110000_0_001_11110_01100_00000_010_000 = .ok (.vbcst ⟨false, false, 1⟩ 30 12 2)
    ∧ decodeWord 0b1_110000_0_100_01101_11011_00000_001_001 = .ok (.vbcsti ⟨true, false, 4⟩ 13 27 1)
    ∧ decodeWord 0b0_110000_1_111_11011_01001_10111_000010 = .ok (.vextr ⟨false, true, 7⟩ 27 9 23)
    ∧ decodeWord 0b1_110000_1_010_01010_11000_00110_000011 = .ok (.vins ⟨true, true, 2⟩ 10 24 6)
    ∧ decodeWord 0b0_110000_0_101_11000_0000000000_110_100 = .ok (.viota ⟨false, false, 5⟩ 24 6) := by
  and_intros <;> rfl
theorem test_decode_major_31 :
    decodeWord 0b0_110001_0_001_11110_01100_11010_001_000 = .ok (.vperm ⟨false, false, 1⟩ 30 12 26 1)
    ∧ decodeWord 0b1_110001_0_100_01101_11011_00000_001_001 = .ok (.vcomp ⟨true, false, 4⟩ 13 27 1)
    ∧ decodeWord 0b0_110001_1_111_11011_01001_00000_101_010 = .ok (.vexpd ⟨false, true, 7⟩ 27 9 5)
    ∧ decodeWord 0b1_110001_1_010_01010_0000000000_001_011 = .ok (.vcpos ⟨true, true, 2⟩ 10 1)
    ∧ decodeWord 0b0_110001_0_101_11000_00110_10100_010_100 = .ok (.vsldn ⟨false, false, 5⟩ 24 6 20 2)
    ∧ decodeWord 0b1_110001_0_000_00111_10101_00011_001_101 = .ok (.vslup ⟨true, false, 0⟩ 7 21 3 1) := by
  and_intros <;> rfl
theorem test_decode_major_32 :
    decodeWord 0b0_110010_0_001_00_110_00_100_00_010_000000 = .ok (.mand ⟨false, false, 1⟩ 6 4 2)
    ∧ decodeWord 0b1_110010_0_100_00_101_00_011_00_001_000001 = .ok (.mor ⟨true, false, 4⟩ 5 3 1)
    ∧ decodeWord 0b0_110010_1_111_00_011_00_001_00_101_000010 = .ok (.mxor ⟨false, true, 7⟩ 3 1 5)
    ∧ decodeWord 0b1_110010_1_010_00_010_00_001_00_110_000011 = .ok (.mandn ⟨true, true, 2⟩ 2 1 6)
    ∧ decodeWord 0b0_110010_0_101_00_001_00110_00000000100 = .ok (.mfromx ⟨false, false, 5⟩ 1 6)
    ∧ decodeWord 0b1_110010_0_000_00111_00_101_00000000101 = .ok (.mtox ⟨true, false, 0⟩ 7 5)
    ∧ decodeWord 0b0_110010_1_011_10101_00_011_00000000110 = .ok (.mpopc ⟨false, true, 3⟩ 21 3)
    ∧ decodeWord 0b1_110010_1_110_00100_00_010_00000000111 = .ok (.mffs ⟨true, true, 6⟩ 4 2) := by
  and_intros <;> rfl
theorem test_decode_major_34 :
    decodeWord 0b0_110100_0_001_000_1_001100_00000000000 = .ok (.mzero ⟨false, false, 1⟩ 1 12)
    ∧ decodeWord 0b1_110100_0_100_001_1_011011_01_10111_1_0_00 = .ok (.mpush ⟨true, false, 4⟩ 1 27 1 23 1 0)
    ∧ decodeWord 0b0_110100_1_111_010_1_101001_11_00101_1_0_00 = .ok (.macc ⟨false, true, 7⟩ 1 41 3 5 1 0)
    ∧ decodeWord 0b1_110100_1_010_0110000000_10_11000_1_0_00 = .ok (.mshift ⟨true, true, 2⟩ 2 24 1 0)
    ∧ decodeWord 0b0_110100_0_101_1000_011000_10_10100_1_0_00 = .ok (.mlatch ⟨false, false, 5⟩ 24 2 20 1 0)
    ∧ decodeWord 0b1_110100_0_000_101000_0111_01_00011_1_0_00 = .ok (.mlside ⟨true, false, 0⟩ 7 1 3 1 0) := by
  and_intros <;> rfl
theorem test_decode_major_35 :
    decodeWord 0b0_110101_0_001_1_001100_00110_0_1_1_0010_1_0 = .ok (.mdrain ⟨false, false, 1⟩ 1 12 6 0 1 1 2 1) := rfl
theorem test_decode_major_36 :
    decodeWord 0b0_110110_0_001_00000_11110_00000000000 = .ok (.msclrA ⟨false, false, 1⟩ 30)
    ∧ decodeWord 0b1_110110_0_100_00000_01101_00000000001 = .ok (.msclrB ⟨true, false, 4⟩ 13)
    ∧ decodeWord 0b0_110110_1_111_11011_00011_00000000010 = .ok (.mrds ⟨false, true, 7⟩ 27 3) := by
  and_intros <;> rfl
theorem test_decode_major_38 :
    decodeWord 0b0_111000_0_001_11110_01100_11010_01000_0 = .ok (.send ⟨false, false, 1⟩ 30 12 26 8)
    ∧ decodeWord 0b1_111000_0_100_01101_11011_01001_10111_1 = .ok (.sendR ⟨true, false, 4⟩ 13 27 9 23) := by
  and_intros <;> rfl
theorem test_decode_major_39 :
    decodeWord 0b0_111001_0_001_11110_01100_00000_11010_0 = .ok (.recv ⟨false, false, 1⟩ 30 12 26) := rfl
theorem test_decode_major_3a :
    decodeWord 0b0_111010_0_001_11110_01100_00000000000 = .ok (.testt ⟨false, false, 1⟩ 30 12)
    ∧ decodeWord 0b1_111010_0_100_01101_11011_00000000001 = .ok (.probe ⟨true, false, 4⟩ 13 27)
    ∧ decodeWord 0b0_111010_1_111_00000_11011_00000000010 = .ok (.cancel ⟨false, true, 7⟩ 27)
    ∧ decodeWord 0b1_111010_1_010_01010_11000_00000000011 = .ok (.waitany ⟨true, true, 2⟩ 10 24)
    ∧ decodeWord 0b0_111010_0_101_11000_00110_10100_000100 = .ok (.envr ⟨false, false, 5⟩ 24 6 20) := by
  and_intros <;> rfl
theorem test_decode_major_3b :
    decodeWord 0b0_111011_0_001_11110_01100_00000000_010 = .ok (.qget ⟨false, false, 1⟩ 30 12 2)
    ∧ decodeWord 0b1_111011_0_100_01101_11011_00000001_001 = .ok (.qput ⟨true, false, 4⟩ 13 27 1)
    ∧ decodeWord 0b0_111011_1_111_11011_01001_10111_010_101 = .ok (.qgett ⟨false, true, 7⟩ 27 9 23 5)
    ∧ decodeWord 0b1_111011_1_010_01010_11000_00110_011_100 = .ok (.qputt ⟨true, true, 2⟩ 10 24 6 4)
    ∧ decodeWord 0b0_111011_0_101_11000_00110_10100_100_010 = .ok (.qatom ⟨false, false, 5⟩ 24 6 20 2)
    ∧ decodeWord 0b1_111011_0_000_00111_10101_00000101_011 = .ok (.qgath ⟨true, false, 0⟩ 7 21 3)
    ∧ decodeWord 0b0_111011_1_011_10101_00011_00000110_001 = .ok (.qscat ⟨false, true, 3⟩ 21 3 1)
    ∧ decodeWord 0b1_111011_1_110_00100_10010_00001_111000 = .ok (.qfill ⟨true, true, 6⟩ 4 18 1)
    ∧ decodeWord 0b0_111011_0_001_10010_00001_01110_111001 = .ok (.qcopy ⟨false, false, 1⟩ 18 1 14)
    ∧ decodeWord 0b1_111011_0_100_00001_0000000000111010 = .ok (.fenceQ ⟨true, false, 4⟩ 1) := by
  and_intros <;> rfl
theorem test_decode_major_3c :
    decodeWord 0b0_111100_0_001_11110_01100_00000000000 = .ok (.spawn ⟨false, false, 1⟩ 30 12)
    ∧ decodeWord 0b1_111100_0_100_01101_11011_00000000001 = .ok (.spawnr ⟨true, false, 4⟩ 13 27)
    ∧ decodeWord 0b0_111100_1_111_11011_01001_00000000010 = .ok (.pop ⟨false, true, 7⟩ 27 9)
    ∧ decodeWord 0b1_111100_1_010_01010_11000_00000000011 = .ok (.steal ⟨true, true, 2⟩ 10 24)
    ∧ decodeWord 0b0_111100_0_101_11000_00110_00000000100 = .ok (.stealX ⟨false, false, 5⟩ 24 6)
    ∧ decodeWord 0b1_111100_0_000_00111_0000000000000101 = .ok (.dqst ⟨true, false, 0⟩ 7)
    ∧ decodeWord 0b0_111100_1_011_10101_00011_00000001_100 = .ok (.widf ⟨false, true, 3⟩ 21 3 4)
    ∧ decodeWord 0b1_111100_1_110_00100_10010_00001_010_101 = .ok (.wids ⟨true, true, 6⟩ 4 18 1 5) := by
  and_intros <;> rfl
theorem test_decode_major_3d :
    decodeWord 0b0_111101_0_001_11110_01100_11010_000_001 = .ok (.sendt ⟨false, false, 1⟩ 30 12 26 1)
    ∧ decodeWord 0b1_111101_0_100_01101_11011_00000001_001 = .ok (.msend ⟨true, false, 4⟩ 13 27 1)
    ∧ decodeWord 0b0_111101_1_111_11011_01001_000000100_11 = .ok (.halo ⟨false, true, 7⟩ 27 9 3)
    ∧ decodeWord 0b1_111101_1_010_00000_01010_000000110_01 = .ok (.waitmb ⟨true, true, 2⟩ 10 1)
    ∧ decodeWord 0b0_111101_0_101_11000_00110_00000100000 = .ok (.fencex ⟨false, false, 5⟩ 24 6)
    ∧ decodeWord 0b1_111101_0_000_00000_00111_10101_101000 = .ok (.mgset ⟨true, false, 0⟩ 7 21)
    ∧ decodeWord 0b0_111101_1_011_10101_00010_00000110000 = .ok (.fstat ⟨false, true, 3⟩ 21 2) := by
  and_intros <;> rfl
theorem test_decode_major_3e :
    decodeWord 0b0_111110_0_001_11110_01100_00000000_010 = .ok (.erecv ⟨false, false, 1⟩ 30 12 2)
    ∧ decodeWord 0b1_111110_0_100_01101_11011_00000001_001 = .ok (.erecvNs ⟨true, false, 4⟩ 13 27 1)
    ∧ decodeWord 0b0_111110_1_111_11011_01001_10111_010000 = .ok (.deferH ⟨false, true, 7⟩ 27 9 23)
    ∧ decodeWord 0b1_111110_1_010_01010_11000_00000010001 = .ok (.deferT ⟨true, true, 2⟩ 10 24)
    ∧ decodeWord 0b0_111110_0_101_00000_11000_00000011000 = .ok (.vtadv ⟨false, false, 5⟩ 24)
    ∧ decodeWord 0b1_111110_0_000_00111_10101_00000100000 = .ok (.savem ⟨true, false, 0⟩ 7 21)
    ∧ decodeWord 0b0_111110_1_011_10101_00011_00000101000 = .ok (.gvtw ⟨false, true, 3⟩ 21 3) := by
  and_intros <;> rfl
theorem test_decode_major_3f :
    decodeWord 0b0_111111_0_001_11110_01100_00000000000 = .ok (.bench ⟨false, false, 1⟩ 30 12)
    ∧ decodeWord 0b1_111111_0_100_01101_11011_00000000001 = .ok (.bstat ⟨true, false, 4⟩ 13 27)
    ∧ decodeWord 0b0_111111_1_111_11011_01001_00000000010 = .ok (.bwait ⟨false, true, 7⟩ 27 9)
    ∧ decodeWord 0b1_111111_1_010_00000_01010_00000000011 = .ok (.bdrop ⟨true, true, 2⟩ 10) := by
  and_intros <;> rfl

/-! ## One slot on a small state

Each expected value is worked out by hand from the rule named. -/

/-- R75: 2^64 − 1 + 2 wraps to 1. -/
theorem test_add_wraps : results (.add on 3 1 2) (user 0xFFFFFFFFFFFFFFFF 2) = [⟨1, false, .x 3 1⟩] := by decide
/-- R74: x0 discards a result. -/
theorem test_add_to_x0 : results (.add on 0 1 2) (user 1 2) = [] := by decide
/-- R25: a false guard. -/
theorem test_add_guarded_off : results (.add off 3 1 2) (user 1 2) = [] := by decide
theorem test_sub_order : results (.sub on 3 1 2) (user 1 2) = [⟨1, false, .x 3 0xFFFFFFFFFFFFFFFF⟩] := by decide
theorem test_andn_order : results (.andn on 3 1 2) (user 0xFF 0x0F) = [⟨1, false, .x 3 0xF0⟩] := by decide
theorem test_orn_order : results (.orn on 3 1 2) (user 0 0xFFFFFFFFFFFFFF00) = [⟨1, false, .x 3 0xFF⟩] := by decide
/-- R75: a count of 64 is a count of 0. -/
theorem test_sll_of_the_width : results (.sll on 3 1 2) (user 5 64) = [⟨1, false, .x 3 5⟩] := by decide
theorem test_sra_sign : results (.sra on 3 1 2) (user 0x8000000000000000 4) = [⟨1, false, .x 3 0xF800000000000000⟩] := by decide
theorem test_ror_wraps : results (.ror on 3 1 2) (user 1 1) = [⟨1, false, .x 3 0x8000000000000000⟩] := by decide
theorem test_slt_is_signed : results (.slt on 3 1 2) (user 0xFFFFFFFFFFFFFFFF 1) = [⟨1, false, .x 3 1⟩] := by decide
theorem test_sltu_is_unsigned : results (.sltu on 3 1 2) (user 0xFFFFFFFFFFFFFFFF 1) = [⟨1, false, .x 3 0⟩] := by decide
theorem test_minu : results (.minu on 3 1 2) (user 0xFFFFFFFFFFFFFFFF 1) = [⟨1, false, .x 3 1⟩] := by decide
/-- R75: the 32-bit sum is sign-extended. -/
theorem test_addw_extends : results (.addw on 3 1 2) (user 0x7FFFFFFF 1) = [⟨1, false, .x 3 0xFFFFFFFF80000000⟩] := by decide
theorem test_srlw_low_word : results (.srlw on 3 1 2) (user 0xFFFFFFFF80000000 4) = [⟨1, false, .x 3 0x08000000⟩] := by decide
/-- R77: −1 times 2 has high part −1, latency 4. -/
theorem test_mulhsu : results (.mulhsu on 3 1 2) (user 0xFFFFFFFFFFFFFFFF 2) = [⟨4, false, .x 3 0xFFFFFFFFFFFFFFFF⟩] := by decide
theorem test_mulhu : results (.mulhu on 3 1 2) (user 0xFFFFFFFFFFFFFFFF 2) = [⟨4, false, .x 3 1⟩] := by decide
/-- R78: rounding toward zero, division by zero, the overflow. -/
theorem test_div_toward_zero : results (.div on 3 1 2) (user 0xFFFFFFFFFFFFFFF9 2) = [⟨20, false, .x 3 0xFFFFFFFFFFFFFFFD⟩] := by decide
theorem test_divu_by_zero : results (.divu on 3 1 2) (user 7 0) = [⟨20, false, .x 3 0xFFFFFFFFFFFFFFFF⟩] := by decide
theorem test_rem_overflow : results (.rem on 3 1 2) (user 0x8000000000000000 0xFFFFFFFFFFFFFFFF) = [⟨20, false, .x 3 0⟩] := by decide
theorem test_remu_by_zero : results (.remu on 3 1 2) (user 7 0) = [⟨20, false, .x 3 7⟩] := by decide
theorem test_divuw_by_zero : results (.divuw on 3 1 2) (user 7 0) = [⟨20, false, .x 3 0xFFFFFFFFFFFFFFFF⟩] := by decide
/-- R79. -/
theorem test_clz_one : results (.clz on 3 1) (user 1 0) = [⟨1, false, .x 3 63⟩] := by decide
theorem test_ctz_zero : results (.ctz on 3 1) (user 0 0) = [⟨1, false, .x 3 64⟩] := by decide
theorem test_clzw_low_word : results (.clzw on 3 1) (user 0xFFFFFFFF00000001 0) = [⟨1, false, .x 3 31⟩] := by decide
theorem test_brev_one : results (.brev on 3 1) (user 1 0) = [⟨1, false, .x 3 0x8000000000000000⟩] := by decide
theorem test_bswap_bytes : results (.bswap on 3 1) (user 0x0102030405060708 0) = [⟨1, false, .x 3 0x0807060504030201⟩] := by decide
theorem test_sexth : results (.sexth on 3 1) (user 0x18000 0) = [⟨1, false, .x 3 0xFFFFFFFFFFFF8000⟩] := by decide
theorem test_bset_modulo : results (.bset on 3 1 2) (user 0 65) = [⟨1, false, .x 3 2⟩] := by decide
/-- R80: position 4, length 4, signed and not. -/
theorem test_bfxs_sign : results (.bfxs on 3 1 2) (user 0xF0 0x404) = [⟨1, false, .x 3 0xFFFFFFFFFFFFFFFF⟩] := by decide
theorem test_bfxu_field : results (.bfxu on 3 1 2) (user 0xF0 0x404) = [⟨1, false, .x 3 0xF⟩] := by decide
/-- R81 to R84: constants are sign-extended; LDH2 replaces bits 47 to 32. -/
theorem test_addi_negative : results (.addi on 3 1 0x7FF) (user 5 0) = [⟨1, false, .x 3 4⟩] := by decide
theorem test_slliw_extends : results (.slliw on 3 1 31) (user 1 0) = [⟨1, false, .x 3 0xFFFFFFFF80000000⟩] := by decide
theorem test_ldi_negative : results (.ldi on 3 0x8000) (user 0 0) = [⟨1, false, .x 3 0xFFFFFFFFFFFF8000⟩] := by decide
theorem test_ldh2_field : results (.ldh2 on 1 0x1234) (user 0xFFFFFFFFFFFFFFFF 0) = [⟨1, false, .x 1 0xFFFF1234FFFFFFFF⟩] := by decide
/-- R85: LADD stays within 21 bits; CHKU raises BOUND with va. -/
theorem test_ladd_wraps : results (.ladd on 3 1 2 3) (user 0x1FFFFF 1) = [⟨1, false, .x 3 7⟩] := by decide
theorem test_chku_bound : causes (.chku on 1 2) (user 5 5) = [(0x07, 5)] ∧ causes (.chku on 1 2) (user 4 5) = [] := by decide
/-- R86, R87. -/
theorem test_cmp_signed_less : results (.cmp on 9 1 2 2) (user 0xFFFFFFFFFFFFFFFF 1) = [⟨1, false, .p 9 true⟩] := by decide
theorem test_cmp_unsigned_less : results (.cmp on 9 1 2 4) (user 0xFFFFFFFFFFFFFFFF 1) = [⟨1, false, .p 9 false⟩] := by decide
theorem test_cmpi_bit : results (.cmpi on 9 1 6 63) (user 0x8000000000000000 0) = [⟨1, false, .p 9 true⟩] := by decide
theorem test_pandn : results (.pandn on 9 0 1) (user 0 0) = [⟨1, false, .p 9 true⟩] := by decide
/-- R92: an unassigned word, a supervisor word in user mode, a word past 0x1FF. -/
theorem test_rdw_rows : causes (.rdw on 3 0x00F) (user 0 0) = [(0x01, 0x00F)] ∧ causes (.rdw on 3 0x100) (user 0 0) = [(0x03, 0x100)]
    ∧ causes (.rdw on 3 0x200) (sup 0 0) = [(0x03, 0x200)] := by decide
/-- R116: XB below 0x1000. -/
theorem test_wrw_boundary : causes (.wrw on 1 0x010) (user 0x800 0) = [(0x07, 0x800)] := by decide
/-- R98 to R100: a branch back one word; a misaligned target. -/
theorem test_br_back : (after (.br on 0x1FFFFF) (user 0 0)).tile.iss.jump = some 0x1FFFFC := by decide
theorem test_jr_misaligned : causes (.jr on 1) (user 0x1002 0) = [(0x06, 0x1002)] := by decide
/-- R102: a third loop, and a count that does not fit. -/
theorem test_loop_count_bound : causes (.loop on 1 4) (user 0x2000000 0) = [(0x07, 0x2000000)] := by decide
/-- R103: the last iteration of both loops at one bundle. -/
theorem test_loop_end_of_both : loopEnd (lcWord 0x100 0x40 1) (lcWord 0x100 0x20 2) 0x100 = (lcWord 0x100 0x20 1, 0, some 0x20) := by decide
/-- R105: the check of the bytes 31H to 38H with all ones to begin is A12BH, the published value of CRC-16/CCITT. -/
theorem test_signature_check : crcWords 0xFFFF [0x31323334, 0x35363738] = 0xA12B := by decide
/-- R353, R363: mode checks. -/
theorem test_vector_in_supervisor_mode : causes (.vadd on 3 1 2 0) (sup 0 0) = [(0x12, 0)] := by decide
theorem test_rfe_in_user_mode : causes (.rfe on) (user 0 0) = [(0x03, 0x1B)] := by decide
/-- R127: byte 80H sign-extended; R117: the reserved floor in user mode, and alignment. -/
theorem test_ld_extends : results (.ld on 3 1 0 1 0) (withTile (user 0x2000 0) (fun t => { t with mem := [(0x2000, 0x80)] }))
    = [⟨4, false, .x 3 0xFFFFFFFFFFFFFF80⟩] := by decide
theorem test_ld_floor : causes (.ld on 3 1 0 0 0) (user 0x1F0000 0) = [(0x05, 0x1F0000)]
    ∧ causes (.ld on 3 1 0 0 0) (sup 0x1F0000 0) = [] := by decide
theorem test_ld_both_causes : causes (.ld on 3 1 3 0 0) (user 0xFFC 0) = [(0x05, 0xFFC), (0x06, 0xFFC)] := by decide
/-- R128, R129: two bytes, the least significant first; the index is scaled. -/
theorem test_st_low_first : stored (.st on 2 1 1 1) (user 0x2000 0x1234) = [(0x2002, 0x34), (0x2003, 0x12)] := by decide
theorem test_ldx_scaled : (after (.ldx on 3 1 2 1 0 2) (user 0x2000 3)).tile.iss.reads = [(0x200C, 4)] := by decide
/-- R133: LTBASE replaces the low 21 bits. -/
theorem test_ltbase_field : results (.ltbase on 3 1) (user 0xFFFFFFFF 0) = [⟨1, false, .lt 3 0x1FFFFF 0x1FFFFF⟩] := by decide
/-- R134: code is written below XB. -/
theorem test_istw_below : (after (.istw on 1 2) (user 0xFFC 7)).tile.iss.codes = [(0xFFC, 7)]
    ∧ causes (.istw on 1 2) (user 0x1000 7) = [(0x05, 0x1000)] := by decide

/-- Vector registers 1 and 2. -/
def vecs (a b : BitVec 2048) : State := withTile (user 0 0) (fun t => { t with th := { t.th with v := [(1, a), (2, b)] } })

/-- Element `e` of width `w` of the first vector result. -/
def elemResult (i : Instr) (s : State) (w e : Nat) : Option (Nat × Nat) := match (results i s).head? with
  | some f => (match f.res with
    | .v _ k v => some (elemOf k w e, elemOf v w e)
    | _ => none)
  | none => none

/-- R142: 1 + 1 = 2 in F32, in lane 1 (values of IEEE 754). -/
theorem test_vadd_f32 : elemResult (.vadd on 3 1 2 0) (vecs 0x3F8000003F800000 0x3F80000000000000) 32 1 = some (0xFFFFFFFF, 0x40000000) := by decide
/-- R143: −0 is below +0. -/
theorem test_vmin_zeros : elemResult (.vmin on 3 1 2 0) (vecs 0 0x80000000) 32 0 = some (0xFFFFFFFF, 0x80000000) := by decide
/-- R146: saturating addition in I32. -/
theorem test_viadds_clamps : elemResult (.viadds on 3 1 2 0) (vecs 0x7FFFFFFF 1) 32 0 = some (0xFFFFFFFF, 0x7FFFFFFF) := by decide
/-- R157: each lane takes the lane that its index names, modulo 64. -/
theorem test_vperm_modulo : elemResult (.vperm on 3 1 2 0) (vecs 0x0000000B0000000A 0x41) 32 0 = some (0xFFFFFFFF, 0xB) := by decide
/-- R152: the lane number. -/
theorem test_viota : elemResult (.viota on 3 0) (vecs 0 0) 32 5 = some (0xFFFFFFFF, 5) := by decide
/-- R153: the sum of the enabled lanes. -/
theorem test_virsum : elemResult (.virsum on 3 1 0) (vecs 0x0000000200000003 0) 32 0 = some (0xFFFFFFFF, 5) := by decide
/-- R150: a conversion without a pending V-target format. -/
theorem test_vcvt_without_format : causes (.vcvt on 3 1 0 0) (user 0 0) = [(0x01, 0)] := by decide
/-- R158. -/
theorem test_mpopc_of_m0 : results (.mpopc on 3 0) (user 0 0) = [⟨2, true, .x 3 64⟩] := by decide
/-- R163: the second line of a row of 128 bytes reaches the reserved floor. -/
theorem test_row_at_the_floor : causes (.mshift on 0 1 0 1) (user 0x1EFFC0 0) = [(0x05, 0x1F0000)] := by decide
/-- R172: a push from a latch that is not valid raises MLATCH with its number. -/
theorem test_mpush_latch : causes (.mpush on 0 3 2 1 0 0) (user 0 0) = [(0x11, 2)] := by decide
/-- R201: SEND hands its operation to the engines, and its token is pending from the next bundle. -/
theorem test_send_token : (after (.send on 4 1 2 0) (user 0 0)).tile.iss.toks = [4]
    ∧ (after (.send on 4 1 2 0) (user 0 0)).tile.iss.ops.length = 1 := by decide
/-- R288: a field of the identity word. -/
theorem test_widf_of_no_width : results (.widf on 3 1 0) (user 7 0) = [⟨2, false, .x 3 0⟩] := by decide
/-- R282, R357: a record at a misaligned address below XB. -/
theorem test_spawn_address : causes (.spawn on 3 1) (user 0xF01 0) = [(0x05, 0xF01), (0x06, 0xF01)] := by decide
/-- R318: a virtual time form in a plain partition. -/
theorem test_vtadv_plain : causes (.vtadv on 1) (user 7 0) = [(0x01, 0)] := by decide

/-! ## Whole steps -/

/-- A step runs the instruction at the pc: LDI x5, 0x5678 from the chapter's printed word leaves its result in flight (R31, R83). -/
theorem test_step_runs_ldi : (match step (State.reset.withFetchWord 32 0x10055678) with
    | .next t => t.tile.th.flights
    | _ => []) = [⟨1, false, .x 5 0x5678⟩] := by decide
/-- R34: the result lands at the start of the next issue cycle. -/
theorem test_result_lands : X (after (.resultLand 0) (withTile (user 0 0) (fun t => { t with th := { t.th with flights := [⟨1, false, .x 5 7⟩] } }))) 5 = 7 := by
  decide

/-! ## Witnesses: states and operands that meet the hypotheses of the statements, clause by clause -/

/-- The issue group at an address with its words. -/
def atAddress (s : State) (a : LAddr) (ws : List (BitVec 32)) : State := updIss s (fun i => { i with addr := a, words := ws })

/-- An optimistic partition. -/
def opt (a b : W64) : State := withTile (user a b) (fun t => cwPut t 0 0x100)

/-- A system action of a bundle. -/
def sysGroup (n : Nat) (v : W64) : Issue := { Issue.empty with sys := some (n, v) }

theorem witness_DecodeOfEncode : (Instr.add on 5 6 7).wf = true ∧ encode (.add on 5 6 7) = some 0x000531C0 := by decide
theorem witness_EncodeOfDecode : decodeWord 0x000531C0 = .ok (.add on 5 6 7) := rfl
theorem witness_StepKeepsMemoryCanonical : memoryWf (State.reset.withFetchWord 32 0x10055678) = true
    ∧ (match step (State.reset.withFetchWord 32 0x10055678) with
      | .next _ => true
      | _ => false) = true := by decide
theorem witness_StepStopsOnlyWithoutPower :
    step { State.reset with mgr := { Manager.ready with pfail := true } } = .fault .poweredDown
    ∧ { State.reset with mgr := { Manager.ready with pfail := true } }.agenda.head? ≠ some (.ev .startSequence) := ⟨rfl, by decide⟩
theorem witness_SlotsOnlyGather : encode (.add on 5 6 7) = some 0x000531C0 := by decide

/-- A task whose next bundle is the one slot word given. -/
def next (w : Nat) : State := State.reset.withFetchWord 32 w

/-- The state after the landings of the tile that is next to issue. -/
def landed (s : State) : State := { s with tile := beginCycle s.tile s.cyc, todo := s.todo.tail }

/-- LDI x5, 0x5678 as a bundle: no cause. -/
def issuing : State := next 0x90055678
/-- RDW of word 0x200: a cause. -/
def refusing : State := next 0x9C030200

/-- The words and the slots of the bundle at the pc. -/
def bundleWords (s : State) : List (BitVec 32) := match scanBundle (landed s) (landed s).tile.th.pc with
  | .words ws => ws
  | _ => []
noncomputable def bundleSlots (s : State) : List Slot := match decodeSlots 0 (bundleWords s) with
  | .ok l => l
  | _ => []

theorem witness_StepRunsDecodedBundle : clearToIssue issuing (landed issuing)
    ∧ scanBundle (landed issuing) (landed issuing).tile.th.pc = .words (bundleWords issuing)
    ∧ decodeSlots 0 (bundleWords issuing) = .ok (bundleSlots issuing) ∧ pendingMask (landed issuing).tile (bundleSlots issuing) = 0
    ∧ (∃ t, runSlots (inOrder (bundleSlots issuing)) (openBundle (landed issuing) (bundleWords issuing)
        (earlyCauses (landed issuing).tile (bundleSlots issuing) [])) = .next t ∧ lowestCause t.tile.iss.causes = none)
    ∧ (switchDue { issuing with todo := issuing.todo.tail }).isNone = true := by
  refine ⟨⟨?_, ?_, ?_, ?_, ?_, ?_, ?_, ?_, ?_, ?_, ?_, ?_, ?_, ?_, ?_, ?_, ?_, ?_, rfl, ?_, ?_, ?_, ?_, ?_⟩, ?_, rfl, ?_, ⟨_, rfl, ?_⟩, ?_⟩ <;> decide
theorem witness_StepRunsDecodedBundle_cause : clearToIssue refusing (landed refusing)
    ∧ scanBundle (landed refusing) (landed refusing).tile.th.pc = .words (bundleWords refusing)
    ∧ decodeSlots 0 (bundleWords refusing) = .ok (bundleSlots refusing) ∧ pendingMask (landed refusing).tile (bundleSlots refusing) = 0
    ∧ ∃ t, runSlots (inOrder (bundleSlots refusing)) (openBundle (landed refusing) (bundleWords refusing)
        (earlyCauses (landed refusing).tile (bundleSlots refusing) [])) = .next t ∧ (lowestCause t.tile.iss.causes).isSome = true := by
  refine ⟨⟨?_, ?_, ?_, ?_, ?_, ?_, ?_, ?_, ?_, ?_, ?_, ?_, ?_, ?_, ?_, ?_, ?_, ?_, rfl, ?_, ?_, ?_, ?_, ?_⟩, ?_, rfl, ?_, _, rfl, ?_⟩ <;> decide

/-- A completing trap beside a cause of a higher code, and of the same code. -/
def completed3 (code : Nat) : Issue := { Issue.empty with causes := [(code, 2, 7)], completing := some (0x13, 9) }
theorem witness_StepRunsDecodedBundle_fault : lowestCause (completed3 0x18).causes = some (0x18, 2, 7) ∧ (completed3 0x18).completing = some (0x13, 9)
    ∧ sigContains (user 0 0) = false ∧ faultOf (user 0 0) (completed3 0x18) = none ∧ faultOf (user 0 0) (completed3 0x13) = some (0x13, 2, 7)
    ∧ faultOf (user 0 0) (completed3 0x10) = some (0x10, 2, 7) ∧ Issue.empty.causes = [] := by decide

theorem witness_CommitFrame : plainGroup (user 0 0).tile.iss ∧ (user 0 0).tile.poison = [] ∧ (user 0 0).tile.soft = []
    ∧ (user 0 0).tile.iss.jump = none ∧ lcAct (cwGet (user 0 0).tile 0x070) = false
    ∧ plainGroup (updIss (user 0 0) (fun i => { i with jump := some 4 })).tile.iss
    ∧ (updIss (user 0 0) (fun i => { i with jump := some 4 })).tile.iss.jump = some 4 := by
  unfold plainGroup
  decide
theorem witness_ResultsLand : 127 < 128 ∧ 2047 < 2048 ∧ (127 / 64 = (1 : BitVec 1).toNat) := by decide
theorem witness_GuardedOffDoesNothing : encode (.add off 5 6 7) = some 0x002531C0 ∧ (user 0 0).tile.sup = false ∧ (sup 0 0).tile.sup = true
    ∧ guardOf (user 0 0).tile (slotInfo (.add off 5 6 7)).ctl = false ∧ guardOf (sup 0 0).tile (slotInfo (.add off 5 6 7)).ctl = false
    ∧ (slotInfo (.add off 5 6 7)).cls ∉ [UnitClass.vector, .matrix, .engine] ∧ userOnly (.add off 5 6 7) = false := by decide
theorem witness_SupervisorModeChecks : (sup 0 0).tile.sup = true ∧ (slotInfo (.vadd on 3 1 2 0)).cls ∈ [UnitClass.vector, .matrix]
    ∧ (slotInfo (.mzero on 0 0)).cls ∈ [UnitClass.vector, .matrix] ∧ (slotInfo (.send on 1 2 3 0)).cls = UnitClass.engine
    ∧ guardOf (sup 0 0).tile (slotInfo (.send off 1 2 3 0)).ctl = false
    ∧ Instr.brk on ∈ [Instr.pfxM on 0 0 0 0, .pfxV on 0 0 0 0, .loop on 1 4, .yield on, .suspend on 1, .exit on, .trap on 1, .brk on] := by decide

theorem runs_user (a b : W64) : runs (user a b) on := by
  simp only [runs]
  rfl
theorem runsUser_user (a b : W64) : runsUser (user a b) on := ⟨rfl, runs_user a b⟩
theorem runs_sup (a b : W64) : runs (sup a b) on := by
  simp only [runs]
  rfl

theorem witness_ScalarArithmetic : runs (user 0xFFFFFFFFFFFFFFFF 2) on ∧ 63 < 64 := ⟨runs_user _ _, by decide⟩
theorem witness_MultipliesAndDivides : runs (user 0x8000000000000000 0xFFFFFFFFFFFFFFFF) on ∧ runs (user 7 0) on := ⟨runs_user _ _, runs_user _ _⟩
theorem witness_BitManipulation : runs (user 0 65) on ∧ 63 < 64 ∧ 7 < 8 := ⟨runs_user _ _, by decide, by decide⟩
theorem witness_FieldExtracts : runs (user 0xF0 0x4000) on ∧ runs (user 0xF0 0) on := ⟨runs_user _ _, runs_user _ _⟩
theorem witness_ImmediateForms : runs (user 5 0) on ∧ 63 < 64 := ⟨runs_user _ _, by decide⟩
theorem witness_ShiftsAndConstants : runs (user 1 0) on ∧ (3, Instr.ldh3 on 1 2) ∈ [(1, Instr.ldh1 on 1 2), (2, .ldh2 on 1 2), (3, .ldh3 on 1 2)]
    ∧ 63 < 64 := ⟨runs_user _ _, by decide, by decide⟩
theorem witness_SelectsComparesAndPredicates : runs (user 4 5) on ∧ runs (user 5 5) on ∧ 63 < 64 := ⟨runs_user _ _, runs_user _ _, by decide⟩
theorem witness_ControlWordReads : runs (user 0 0) on ∧ runs (sup 0 0) on ∧ 0x200 ≤ (0x200 : BitVec 12).toNat ∧ 0x100 ≤ (0x100 : BitVec 12).toNat
    ∧ (user 0 0).tile.sup = false ∧ (sup 0 0).tile.sup = true ∧ (0x1FF : BitVec 12).toNat < 0x200 ∧ cwClass 0x00F = none ∧ cwClass 0x003 ≠ none
    ∧ cwClass 0x000 ≠ none ∧ cwClass 0x106 ≠ none ∧ cwClass 0x002 ≠ none := ⟨runs_user _ _, runs_sup _ _, by decide⟩
theorem witness_ControlWordWrites : runs (user 0x800 0) on ∧ runs (sup 0 0) on ∧ 0x200 ≤ (0x200 : BitVec 12).toNat ∧ 0x100 ≤ (0x100 : BitVec 12).toNat
    ∧ cwClass 0x00F = none ∧ cwClass 0x003 = some .ur ∧ cwClass 0x010 ≠ none ∧ cwClass 0x010 ≠ some .ur := ⟨runs_user _ _, runs_sup _ _, by decide⟩

theorem witness_TransfersAndLinks : runs (user 0x1000 0) on ∧ (X (user 0x1000 0) 1).toNat % 4 = 0 ∧ runs (user 0x1002 0) on
    ∧ (X (user 0x1002 0) 1).toNat % 4 ≠ 0 := ⟨runs_user _ _, by decide, runs_user _ _, by decide⟩

/-- LOOP at 0x100 with a count, the loop words given, and the word at 0x110 ending its bundle. -/
def looping (n lc0 lc1 : W64) : State :=
  withTile (atAddress (user n 0) 0x100 [0x26010004]) (fun t => { cwPut (cwPut t 0x070 lc0) 0x071 lc1 with mem := [(0x113, 0x81)] })

theorem runsUser_looping (n a b : W64) : runsUser (looping n a b) on := by
  refine ⟨rfl, ?_⟩
  rfl

/-- LOOP: an end before the start, one past SRAM, two loops active; a count too great; a skip to a bundle, to no bundle and to one that may not be
fetched; a first loop. -/
theorem witness_LoopForms : runsUser (looping 1 0 0) on ∧ 0x100 + 4 * 0 < 0x100 + 4 * 1
    ∧ 0x200000 ≤ (atAddress (user 1 0) 0x1FFFFC [0]).tile.iss.addr.toNat + 4 * 1
    ∧ (cwGet (looping 1 0x8000000000000000 0x8000000000000000).tile 0x070).getLsbD 63 = true
    ∧ (cwGet (looping 1 0x8000000000000000 0x8000000000000000).tile 0x071).getLsbD 63 = true
    ∧ 0x104 ≤ 0x100 + 4 * 1 ∧ ¬((cwGet (looping 1 0x8000000000000000 0).tile 0x070).getLsbD 63 = true ∧ (cwGet (looping 1 0x8000000000000000 0).tile 0x071).getLsbD 63 = true)
    ∧ 2 ^ 25 ≤ (X (looping 0x2000000 0 0) 1).toNat ∧ (X (looping 0 0 0) 1).toNat = 0
    ∧ 0 < (X (looping 1 0 0) 1).toNat ∧ (X (looping 0x1FFFFFF 0 0) 1).toNat < 2 ^ 25 ∧ (looping 1 0 0).tile.iss.addr.toNat % 4 = 0 :=
  ⟨runsUser_looping _ _ _, by decide⟩
theorem witness_LoopForms_skip : (∃ w, scanBundle (looping 0 0 0) 0x110 = .words [w])
    ∧ scanBundle (user 0 0) 0x110 = .noStop ∧ scanBundle (looping 0 0 0) 0x1000 = .xfetch 0x1000 := by
  refine ⟨⟨_, rfl⟩, ?_, ?_⟩ <;> rfl
theorem witness_LoopEndProcessing : ¬((lcWord 0x100 0x40 1).getLsbD 63 = true ∧ 0x104 = 4 * bitsOf (lcWord 0x100 0x40 1) 44 19)
    ∧ ((lcWord 0x100 0x40 2).getLsbD 63 = true ∧ 0x100 = 4 * bitsOf (lcWord 0x100 0x40 2) 44 19 ∧ 1 < (lcWord 0x100 0x40 2).toNat % 2 ^ 25)
    ∧ (lcWord 0x100 0x40 1).toNat % 2 ^ 25 ≤ 1 ∧ 0x100 = 4 * bitsOf (lcWord 0x100 0x20 2) 44 19
    ∧ ¬((0 : W64).getLsbD 63 = true ∧ 0x100 = 4 * bitsOf (0 : W64) 44 19) := by decide
/-- A bundle of one word at 0x100 in the last place of a loop with two iterations left, and what it leaves. -/
def ending (mode : Bool) (i : Issue) : State :=
  withTile (user 0 0) (fun t => { cwPut t 0x070 (lcWord 0x100 0x40 2) with sup := mode, iss := { i with addr := 0x100, words := [0x81000000] } })
theorem witness_LoopEndProcessing_commit : plainGroup (ending false Issue.empty).tile.iss ∧ (ending false Issue.empty).tile.poison = []
    ∧ (ending false Issue.empty).tile.soft = [] ∧ (ending false Issue.empty).tile.iss.loops = none
    ∧ (loopEnd (cwGet (ending false Issue.empty).tile 0x070) (cwGet (ending false Issue.empty).tile 0x071) 0x100).2.2 = some 0x40
    ∧ plainGroup (ending true Issue.empty).tile.iss ∧ (ending true Issue.empty).tile.sup = true
    ∧ plainGroup (ending false { Issue.empty with loops := some (1, 2), lpop := true }).tile.iss
    ∧ plainGroup (ending false { Issue.empty with loops := some (1, 2), jump := some 8 }).tile.iss := by
  unfold plainGroup
  decide
theorem witness_SignaturesAndFormats : runs (user 0 0) on ∧ runs (sup 0 0) on ∧ runsUser (user 0 0) on ∧ (sup 0 0).tile.sup = true
    ∧ (user 0 0).tile.sup = false ∧ (cwGet (withTile (user 0 0) (fun t => cwPut t 0x110 0)).tile 0x110).getLsbD 0 = false
    ∧ (cwGet (withTile (user 0 0) (fun t => cwPut t 0x110 3)).tile 0x110).getLsbD 1 = true
    ∧ (cwGet (user 0 0).tile 0x110).getLsbD 0 = true ∧ (cwGet (user 0 0).tile 0x110).getLsbD 1 = false
    ∧ crcWords ((cwGet (user 0 0).tile 0x111).setWidth 16) [] = 0xFFFF ∧ crcWords ((cwGet (user 0 0).tile 0x111).setWidth 16) [] ≠ 0 :=
  ⟨runs_user _ _, runs_sup _ _, runsUser_user _ _, by decide⟩
theorem witness_SignaturesAndFormats_commit : plainGroup (ending true Issue.empty).tile.iss ∧ (ending true Issue.empty).tile.sup = true
    ∧ plainGroup (ending false { Issue.empty with sig := some 7 }).tile.iss ∧ (ending false Issue.empty).tile.sup = false
    ∧ plainGroup (ending false Issue.empty).tile.iss ∧ (ending false Issue.empty).tile.iss.sig = none
    ∧ (loopEnd (cwGet (ending false Issue.empty).tile 0x070) (cwGet (ending false Issue.empty).tile 0x071) 0x100).2.2 ≠ none
    ∧ plainGroup (user 0 0).tile.iss ∧ (user 0 0).tile.iss.jump = none ∧ (loopEnd 0 0 0).2.2 = none := by
  unfold plainGroup
  decide
theorem witness_SystemFormsOfBothModes : runs (user 0 0) on ∧ (sysGroup 3 9).sys = some (0x03, 9) ∧ (sysGroup 4 0).sys = some (0x04, 0)
    ∧ (sysGroup 5 0).sys = some (0x05, 0) ∧ (sysGroup 6 0).sys = some (0x06, 0) ∧ 63 < 64 ∧ (sysGroup 16 0).sys = some (0x10, 0) :=
  ⟨runs_user _ _, by decide⟩

/-- Another task is ready; register 3 is pending. -/
def yielding : State := withTile (user 0 0) (fun t => { t with th := { t.th with pend := 8 }, disp := { t.disp with ready := [.fresh { TaskRec.zero with pri := 1 } 0] } })

theorem witness_SystemFormsOfUserMode : runsUser (user 0 0) on ∧ isOpt (user 0 0).tile = false ∧ isOpt (opt 0 0).tile = true
    ∧ yielding.tile.th.flights = [] ∧ (sysGroup 0x18 0).sys = some (0x18, 0) ∧ yields (user 0 0).tile = false ∧ yields yielding.tile = true
    ∧ (sysGroup 0x19 3).sys = some (0x19, 3) ∧ suspends yielding.tile ((3 : W64).setWidth 5) = true
    ∧ suspends (user 0 0).tile ((3 : W64).setWidth 5) = false ∧ (sysGroup 0x1A 0).sys = some (0x1A, 0) := ⟨runsUser_user _ _, by decide⟩
theorem runsUser_opt (a b : W64) : runsUser (opt a b) on := ⟨rfl, rfl⟩

/-- A handler with one entry in the LTSB. -/
def handler (a : W64) : State := withTile (sup a 0) (fun t => { t with ltsb := [⟨7, 1, 5, 2, 0⟩] })

theorem witness_SystemFormsOfSupervisorMode : runs (user 0 0) on ∧ runs (sup 0x2000 0) on ∧ runs (handler 0x2000) on ∧ (user 0 0).tile.sup = false
    ∧ (handler 0x2000).tile.sup = true ∧ (handler 0x2000).tile.ltsb.length ≤ 64 ∧ (handler 0x2000).tile.ltsb[0]? = some ⟨7, 1, 5, 2, 0⟩
    ∧ (handler 0x2000).tile.ltsb ≠ [] ∧ (sup 0x2000 0).tile.ltsb = [] ∧ (sysGroup 7 0).sys = some (0x07, 0) ∧ (sysGroup 8 0).sys = some (0x08, 0) :=
  ⟨runs_user _ _, runs_sup _ _, rfl, by decide⟩
theorem witness_SystemFormsOfSupervisorMode_span : accessFaults (sup 0x2000 0).tile (X (sup 0x2000 0) 1).toNat 1024 64 = []
    ∧ accessFaults (sup 0xFC0 0).tile (X (sup 0xFC0 0) 1).toNat 1024 64 ≠ [] ∧ (sup 0xFC0 0).tile.ltsb = [] := by decide
/-- RFE commits, with a result of its own bundle and without one, from a handler and from a nested one. -/
theorem witness_SystemFormsOfSupervisorMode_return : (sysGroup 1 0).sys = some (0x01, 0)
    ∧ (sup 0 0).tile.th.flights.length = (sysGroup 1 0).flights.length ∧ (sysGroup 1 0).flights = []
    ∧ (withTile (sup 0 0) (fun t => { t with th := { t.th with flights := [⟨1, false, .x 5 7⟩] } })).tile.th.flights.length
      = ({ sysGroup 1 0 with flights := [(0, ⟨1, false, .x 5 7⟩)] } : Issue).flights.length
    ∧ (cwGet (sup 0 0).tile 0x104).getLsbD 17 = false ∧ (cwGet (withTile (sup 0 0) (fun t => cwPut t 0x104 0x20000)).tile 0x104).getLsbD 17 = true := by
  decide

/-- Traps enabled, the handler at 0x400. -/
def trapping : State := withTile (user 0 0) (fun t => cwPut t 0x103 0x401)

theorem witness_TrapEntry : 0x01 ≠ 0x12 ∧ (cwGet trapping.tile 0x103).getLsbD 0 = true ∧ ¬(trapping.tile.sup = true ∧ trapping.tile.ltsb ≠ [])
    ∧ trapping.tile.th.late = [] := by decide
theorem witness_TrapContains : partnOf (user 0 0) (user 0 0).tile.pid = some part ∧ part.st = .running ∧ 0x12 < 2 ^ 16
    ∧ ((handler 0).tile.sup = true ∧ (handler 0).tile.ltsb ≠ []) ∧ partnOf (handler 0) (handler 0).tile.pid = some part
    ∧ ¬((user 0 0).tile.sup = true ∧ (user 0 0).tile.ltsb ≠ []) ∧ (cwGet (user 0 0).tile 0x103).getLsbD 0 = false := by decide
theorem witness_TrapReturn : (cwGet (withTile (sup 0 0) (fun t => cwPut t 0x104 0x20000)).tile 0x104).getLsbD 17 = true
    ∧ (cwGet (sup 0 0).tile 0x104).getLsbD 17 = false ∧ (sup 0 0).tile.vt.due = [] ∧ (sup 0 0).tile.asyncs = []
    ∧ ({ VTime.empty with due := [(1, false)] } : VTime).due ≠ [] := by decide

theorem witness_Loads : runs (user 0x2000 0) on ∧ accessFaults (user 0x2000 0).tile 0x2000 8 8 = []
    ∧ accessFaults (user 0 0).tile 0xFFC 8 8 ≠ [] := ⟨runs_user _ _, by decide⟩
theorem witness_Stores : runs (user 0x2000 0) on ∧ accessFaults (user 0x2000 0).tile 0x1EFFF8 8 8 = []
    ∧ accessFaults (user 0 0).tile 0x1F0000 8 8 ≠ [] := ⟨runs_user _ _, by decide⟩
theorem witness_VectorLoadsAndStores : runs (user 0x2000 0) on ∧ accessFaults (user 0x2000 0).tile 0x2000 256 128 = []
    ∧ accessFaults (user 0x2000 0).tile 0x1EFF80 256 128 ≠ [] ∧ accessFaults (user 0x2000 0).tile 0x1EFF80 128 128 = []
    ∧ accessFaults (user 0x2000 0).tile 0x2040 128 128 ≠ [] := ⟨runs_user _ _, by decide⟩
theorem witness_GathersAndScatters : runs (user 0x2000 0) on ∧ laneFaults (user 0x2000 0) (rowAddr (user 0x2000 0) 1) 4 0 = []
    ∧ laneFaults (user 0xF00 0) (rowAddr (user 0xF00 0) 1) 4 0 ≠ [] := ⟨runs_user _ _, by decide⟩
theorem witness_LayoutTableAndCode : runs (user 0x2000 0) on ∧ accessFaults (user 0x2000 0).tile 0x2000 16 16 = []
    ∧ 0xF00 + 256 ≤ (cwGet (user 0xF00 0).tile 0x010).toNat := ⟨runs_user _ _, by decide⟩

/-- A pending format. -/
def formatted (fa fb : BitVec 4) (g : BitVec 2) (vec : Bool) : State :=
  withTile (user 0 0) (fun t => { t with th := { t.th with pfx := some ⟨fa, fb, g, false, vec⟩ } })

theorem runsUser_formatted (fa fb : BitVec 4) (g : BitVec 2) (v : Bool) : runsUser (formatted fa fb g v) on := ⟨rfl, rfl⟩

theorem worksIn_default (code : Nat) : worksIn (user 0 0) code code := rfl

theorem witness_FloatArithmetic : runsUser (user 0 0) on ∧ worksIn (user 0 0) 0 0 ∧ 0 ∈ [0, 11, 1, 2] ∧ runsUser (formatted 12 0 0 true) on
    ∧ worksIn (formatted 12 0 0 true) 0 12 ∧ 12 ∉ [0, 11, 1, 2] :=
  ⟨runsUser_user _ _, rfl, by decide, runsUser_formatted _ _ _ _, ⟨rfl, rfl, rfl⟩, by decide⟩
theorem witness_RoundingNeighbours : fF32 ∈ [fF32, fF64, fF16, fBF16, fE5M2, fFX96, fE4M3, fE2M1] ∧ roundTo fE4M3 .rtz false (.fin false 1 (-3)) < fE4M3.top
    ∧ fE4M3.inf = none ∧ fF32.inf ≠ none
    ∧ numCmp (floatVal fF32 (roundTo fF32 .rtz false (.fin false (2 ^ 24 + 1) 0))) (.fin false (2 ^ 24 + 1) 0) < 0
    ∧ roundTo fF32 .rne false (.fin false (2 ^ 24 + 1) 0) = roundTo fF32 .rtz false (.fin false (2 ^ 24 + 1) 0)
    ∧ roundTo fF32 .rne false (.fin false (2 ^ 24 + 3) 0) = roundTo fF32 .rtz false (.fin false (2 ^ 24 + 3) 0) + 1 ∧ 65535 < 65536 := by decide
theorem witness_NumberConversions : (0x7F ≤ 2 ^ 4 * 2 ^ 3 ∧ fE4M3.top < 15 * 2 ^ 3 + 7) ∧ fF32.top < 255 * 2 ^ 23 + 0 ∧ fF32.inf = some (255 * 2 ^ 23 + 0)
    ∧ 0 * 2 ^ 23 + 1 ≤ fF32.top ∧ 0 < 1 ∧ numCmp (.fin true 1 (-149)) (floatVal fF32 (2 ^ 31 + 1)) = 0
    ∧ 0 ≤ numCmp (.fin false 1 200) (numAdd false (floatVal fF32 fF32.top) (floatVal fF32 fF32.top))
    ∧ 0 ≤ numCmp (.fin false 1 20) (numAdd false (floatVal fE4M3 fE4M3.top) (floatVal fE4M3 fE4M3.top))
    ∧ 65535 < 65536
    ∧ (∃ x ∈ [Sys2Proof.Num.fin false 1 0, .nan], ∀ neg m e, x ≠ .fin neg m e)
    ∧ (∀ x ∈ [Sys2Proof.Num.fin true 0 0], ∃ neg e, x = .fin neg 0 e)
    ∧ (∀ x ∈ [Sys2Proof.Num.fin true 3 0, .fin false 0 0], ∃ neg m e, x = .fin neg m e)
    ∧ (∃ x ∈ [Sys2Proof.Num.fin true 3 0, .fin false 0 0], numIsZero x = false) := by
  refine ⟨by decide, by decide, rfl, by decide, by decide, by decide, by decide, by decide, by decide, ⟨.nan, by simp, by simp⟩, ?_, ?_, ⟨.fin true 3 0, by simp, rfl⟩⟩
  · simp
  · simp

theorem witness_SpecialFunctionBounds : floatVal fF32 0x40400000 = .fin false 12582912 (-22) ∧ floatVal fF32 0x3FC00000 = .fin false 12582912 (-23)
    ∧ floatVal fF32 0xC3800000 = .fin true 8388608 (-15) ∧ floatVal fF32 1 = .fin false 1 (-149) ∧ floatVal fF32 fF32.top = .fin false 16777215 104 := by decide
theorem witness_SpecialFunctionBounds_ranges : (1 : ℚ) ≤ numVal (.fin false 16777215 104) * numVal (.fin false 12582912 (-22))
    ∧ numVal (.fin false 16777215 104) * numVal (.fin false 1 (-149)) < 1 ∧ -200 < numVal (.fin false 12582912 (-22)) ∧ numVal (.fin false 12582912 (-22)) < 128
    ∧ numVal (.fin true 8388608 (-15)) ≤ -200 ∧ (1 / 2 ≤ numVal (.fin false 12582912 (-23)) ∧ numVal (.fin false 12582912 (-23)) ≤ 2)
    ∧ ¬(numVal (.fin false 12582912 (-22)) ≤ 2) := by
  norm_num [numVal, zpow_neg]
theorem witness_SpecialFunctionBounds_inexact : (∀ k : Int, numVal (.fin false 12582912 (-22)) ≠ 2 ^ k) ∧ ∀ k : Int, numVal (.fin false 12582912 (-23)) ≠ k := by
  have h3 : numVal (.fin false 12582912 (-22)) = 3 := by norm_num [numVal, zpow_neg]
  have h2 : numVal (.fin false 12582912 (-23)) = 3 / 2 := by norm_num [numVal, zpow_neg]
  rw [h3, h2]
  refine ⟨fun k h => ?_, fun k h => ?_⟩
  · have lo : (2 : ℚ) ^ (1 : ℤ) < 2 ^ k := by rw [← h]; norm_num
    have hi : (2 : ℚ) ^ k < 2 ^ (2 : ℤ) := by rw [← h]; norm_num
    have := (zpow_lt_zpow_iff_right₀ (by norm_num : (1 : ℚ) < 2)).1 lo
    have := (zpow_lt_zpow_iff_right₀ (by norm_num : (1 : ℚ) < 2)).1 hi
    omega
  · have : (3 : ℤ) = 2 * k := by exact_mod_cast (by linarith : (3 : ℚ) = 2 * k)
    omega
theorem witness_SpecialFunctions : runsUser (user 0 0) on ∧ worksIn (user 0 0) 0 0 ∧ 0 ∈ [0, 1, 2] ∧ 11 ∉ [0, 1, 2]
    ∧ worksIn (formatted 11 0 0 true) 0 11 ∧ 0x80000001 < 0xFF800000 ∧ 0 < 0x00200000 ∧ (-149 : Int) ≤ 127 ∧ (-2 ^ 24 : Int) ≤ 2 ^ 24 :=
  ⟨runsUser_user _ _, rfl, by decide, by decide, ⟨rfl, rfl, rfl⟩, by decide⟩
theorem witness_IntegerVectors : runsUser (user 0 0) on ∧ worksIn (user 0 0) 12 12 ∧ 12 ∈ [12, 13, 9, 14] ∧ worksIn (formatted 0 0 0 true) 12 0
    ∧ 0 ∉ [12, 13, 9, 14] ∧ 31 < codeWidth 12 := ⟨runsUser_user _ _, rfl, by decide, ⟨rfl, rfl, rfl⟩, by decide⟩
theorem witness_ComparesAndMasks : runsUser (user 0 0) on ∧ worksIn (user 0 0) 0 0 ∧ worksIn (user 0 0) 12 12 ∧ 0 ∈ [0, 11, 12, 14]
    ∧ worksIn (formatted 1 0 0 true) 0 1 ∧ 1 ∉ [0, 11, 12, 14] ∧ 63 < 64 :=
  ⟨runsUser_user _ _, rfl, rfl, by decide, ⟨rfl, rfl, rfl⟩, by decide⟩
theorem witness_MovesAndPermutes : runsUser (user 0 0) on ∧ worksIn (user 0 0) 12 12 ∧ worksIn (user 0 0) 0 0 ∧ worksIn (formatted 6 0 0 true) 12 6
    ∧ 6 ∉ [0, 1, 2, 3, 4, 5, 9, 11, 12, 13, 14] ∧ 5 ∉ [0, 11, 1, 2, 12, 13, 9] :=
  ⟨runsUser_user _ _, rfl, rfl, ⟨rfl, rfl, rfl⟩, by decide⟩
theorem witness_ReductionsAndScans : runsUser (user 0 0) on ∧ worksIn (user 0 0) 0 0 ∧ worksIn (user 0 0) 12 12 ∧ worksIn (formatted 14 0 0 true) 0 14
    ∧ 14 ∉ [0, 11, 1, 2] := ⟨runsUser_user _ _, rfl, rfl, ⟨rfl, rfl, rfl⟩, by decide⟩
theorem witness_Conversions : runsUser (user 0 0) on ∧ (user 0 0).tile.th.pfx = none ∧ runsUser (formatted 0 1 0 true) on
    ∧ (formatted 0 1 0 true).tile.th.pfx = some ⟨0, 1, 0, false, true⟩ ∧ isMx 1 = false ∧ (0 : Reg).toNat < 2048 / (64 * min (codeWidth 0) (codeWidth 1))
    ∧ isMx 5 = true ∧ (formatted 0 5 0 true).tile.th.pfx = some ⟨0, 5, 0, false, true⟩ ∧ 1 ∉ [7, 8, 15] ∧ 7 ∈ [7, 8, 15]
    ∧ (0 : Reg).toNat < 2048 / (64 * min (codeWidth 0) (codeWidth 5)) := ⟨runsUser_user _ _, rfl, runsUser_formatted _ _ _ _, by decide⟩

/-! ## Witnesses for the matrix, the engines' forms, tasks and virtual time -/

theorem witness_LatchesAndMatrixControl : runsUser (user 0x2000 0) on ∧ rowFaults (user 0x2000 0) 1 1 128 0 = []
    ∧ rowFaults (user 0x2001 0) 1 1 128 0 ≠ [] ∧ rowFaults (user 0 0) 1 0 128 0 = [] := ⟨runsUser_user _ _, by decide⟩

/-- Every latch and accumulator row is valid; the format pending is the one given. -/
def latched (s : State) : State := withTile s (fun t => { t with th := { t.th with latchOk := 15, rowOk := BitVec.allOnes 128 } })

theorem witness_MatrixBeats : runsUser (user 0 0) on ∧ (user 0 0).tile.iss.causes = []
    ∧ rowMode (mPfx (formatted 0 0 0 false)).fa.toNat (mPfx (formatted 0 0 0 false)).fb.toNat = none
    ∧ (isGroup (mPfx (formatted 7 9 0 false)).fa.toNat = true ∧ (mPfx (formatted 7 9 0 false)).g = 0)
    ∧ (formatted 9 9 0 false).tile.th.tag.getLsbD 0 ≠ (rowMode 9 9).getD false
    ∧ isMx (mPfx (formatted 5 3 0 false)).fa.toNat = true
    ∧ rowMode (mPfx (user 0 0)).fa.toNat (mPfx (user 0 0)).fb.toNat = some false ∧ isMx (mPfx (user 0 0)).fa.toNat = false
    ∧ isGroup (mPfx (user 0 0)).fa.toNat = false ∧ isGroup (mPfx (user 0 0)).fb.toNat = false
    ∧ (user 0 0).tile.th.tag.getLsbD 127 = false ∧ (user 0 0).tile.th.latchOk.getLsbD 3 = false
    ∧ (latched (user 0 0)).tile.th.latchOk.getLsbD 3 = true ∧ (latched (user 0 0)).tile.th.rowOk.getLsbD 127 = true
    ∧ rowFaults (latched (user 0x2000 0)) 1 1 128 0 = [] := ⟨runsUser_user _ _, by decide⟩
theorem witness_MatrixDrains : (Instr.mdrain on 1 63 1 0 1 1 2 1).wf = true ∧ (Instr.mdrain on 0 0 1 1 0 0 0 0).wf = true
    ∧ runsUser (latched (user 0x2000 0)) on ∧ (latched (user 0x2000 0)).tile.iss.causes = [] ∧ rowFaults (latched (user 0x2000 0)) 1 1 (8 * 32) 0 = []
    ∧ (latched (user 0x2000 0)).tile.th.rowOk.getLsbD 127 = true ∧ (user 0 0).tile.th.rowOk.getLsbD 0 = false := ⟨by decide, by decide, ⟨rfl, rfl⟩, by decide⟩

/-- Latch 0 of BF16 elements in column 0, a row of them, and the terms of the sum. -/
def columned (b0 b1 : BitVec 1024) : State := withTile (user 0 0) (fun t => { t with th := { t.th with latch := [(0, b0), (1, b1)] } })
def termsOf (a : BitVec 1024) (s : State) : List Sys2Proof.Num := (upto 64).map (fun k => numMul (numMul (.fin false 1 0) (.fin false 1 0))
  (numMul (floatVal fBF16 (elemOf a 16 k)) (floatVal fBF16 (elemOf (cellGet s.tile.th.latch (64 * 0 + k / (16 / 16))) 16 (k % (16 / 16) * 64 + 0)))))
def bf16 : Pfx := ⟨1, 1, 0, false, false⟩

/-- R67: infinities of both signs, one infinity, and a column of zeros whose sum is +0; a NaN scale; a group without a size and one with it. -/
theorem witness_MatrixSumsAndLandings : (rowMode 1 1).isSome = true ∧ (isGroup 1 || isGroup 1) = false
    ∧ .inf false ∈ termsOf 0x7F807F80 (columned 0x3F80 0xBF80) ∧ .inf true ∈ termsOf 0x7F807F80 (columned 0x3F80 0xBF80)
    ∧ Sys2Proof.Num.nan ∉ termsOf 0x7F80 (columned 0x3F80 0) ∧ .inf false ∈ termsOf 0x7F80 (columned 0x3F80 0) ∧ .inf true ∉ termsOf 0x7F80 (columned 0x3F80 0)
    ∧ (rowMode 7 7).isSome = true ∧ (rowMode 5 5).isSome = true := by decide +kernel
theorem witness_MatrixSumsAndLandings_zero : (∀ x ∈ termsOf 0 (columned 0 0), x = .fin false 0 (-266)) := by decide +kernel
/-- The same sums by hand (R67). -/
theorem test_sum_of_infinities : beatSum (columned 0x3F80 0xBF80) bf16 0x7F807F80 [] 0 0 = .nan := by decide +kernel
theorem witness_MatrixSumsAndLandings_landings : 127 < 128 ∧ 63 < 64 ∧ (List.replicate 64 (0 : BitVec 96)).length = 64
    ∧ Res.rowClear 3 ∈ [Res.latch 3 0, .shift 0 0, .side 3 0, .row 3 false [], .rowAdd 3 false [], .rowClear 3, .mst 3, .msclr 0 0]
    ∧ isOpt (user 0 0).tile = false ∧ ¬(0x050 ≤ 0x010 ∧ 0x010 ≤ 0x053) ∧ 0x010 ≠ 0x120
    ∧ (cwGet (withTile (user 0 0) (fun t => cwPut t 0 8)).tile 0).getLsbD 3 = true ∧ (user 0 0).tile.asyncs.all (fun x => decide (x.1 ≠ 0x17)) = true
    ∧ (cwGet (user 0 0).tile 0).getLsbD 3 = false := by decide

/-- A tile without a task, its queue and its deque. -/
def idleTile (f : Dispatcher → Dispatcher) : Tile := { (user 0 0).tile with disp := f { (user 0 0).tile.disp with running := false } }
/-- A segment that begins before a store, a message consumed in it, and a rollback to it that is due. -/
def frameOf (t : Tile) : Waymark := { th := t.th, lvt := 3, key := none, six := 0, pc := 0x40, sendPos := 0, commitPos := 0 }
def undoing : State := withTile (opt 0 0) (fun t => { t with
  vt := { t.vt with segs := [{ no := 1, mark := frameOf t, lines := [(0x80, 7)], bad := [], keys := [], freed := 0 }], due := [(1, true)] }
  eng := { t.eng with hamper := [{ hdr := 0, body := [], rdv := false, neg := false, seq := 1, consumed := some 1, cells := [] }] } })
theorem witness_LandingsDispatchAndRollback : ({ (user 0 0).tile with began := true }).began = true ∧ (user 0 0).tile.began = false
    ∧ (user 0 0).tile.th.late = [] ∧ (user 0 0).tile.disp.running = true ∧ (idleTile (fun d => { d with finished := true })).disp.finished = true
    ∧ (idleTile (fun d => { d with ready := [.fresh TaskRec.zero 0] })).disp.running = false
    ∧ (idleTile (fun d => { d with ready := [.fresh TaskRec.zero 0] })).disp.ready = .fresh TaskRec.zero 0 :: []
    ∧ (idleTile (fun d => { d with frames := [⟨2, Thread.zero, 0, 1⟩] })).disp.frames.find? (fun g => g.no = 2) = some ⟨2, Thread.zero, 0, 1⟩
    ∧ (idleTile (fun d => { d with csa := some (Thread.zero, 1) })).disp.csa = some (Thread.zero, 1)
    ∧ (idleTile (fun d => { d with deque := [TaskRec.zero] })).disp.deque = [] ++ [TaskRec.zero]
    ∧ (idleTile (fun d => { d with idlePc := 4 })).disp.idlePc ≠ 0 ∧ (idleTile (fun d => { d with idlePc := 4 })).disp.idled = false
    ∧ (idleTile id).disp.idlePc = 0 ∧ (idleTile id).disp.frames = [] ∧ (idleTile id).disp.csa = none := by decide
theorem witness_LandingsDispatchAndRollback_rollback : (rollbackTarget undoing.tile).map (fun g => (g.1.no, g.2)) = some (1, true)
    ∧ undoing.tile.eng.ops = [] ∧ undoing.tile.eng.sends = [] ∧ undoing.tile.eng.posted = [] ∧ undoing.tile.eng.reqs = [] ∧ undoing.tile.eng.waits = []
    ∧ undoing.tile.th.late = [] ∧ undoing.tile.mem.wf = true ∧ (∀ x ∈ undoing.tile.eng.hamper, x.neg = false ∧ x.consumed.isSome = true) := by decide

/-- An optimistic task at LVT 5. -/
def later (b : W64) : State := withTile (opt 0 b) (fun t => cwPut t 0x030 5)

theorem witness_MessageForms : runsUser (user 0 0) on ∧ runsUser (opt 0 0) on ∧ isOpt (opt 0 0).tile = true ∧ isOpt (user 0 0).tile = false
    ∧ admissible (later 1).tile (X (later 1) 2) = true ∧ admissible (later 0xFFFFFFFFFFFFFFF0).tile (X (later 0xFFFFFFFFFFFFFFF0) 2) = false
    ∧ (1 : Reg) ≠ 0 := ⟨runsUser_user _ _, runsUser_opt _ _, by decide⟩
theorem witness_QuarryForms : runsUser (user 0 0) on := runsUser_user _ _
theorem witness_FabricAndBenchForms : runsUser (user 0 0) on ∧ isOpt (user 0 0).tile = false ∧ runsUser (opt 0 0) on ∧ isOpt (opt 0 0).tile = true :=
  ⟨runsUser_user _ _, by decide, runsUser_opt _ _, by decide⟩

/-- A record at 0x2000 whose first byte pair is given, and a deque. -/
def spawning (m : Memory) (n : Nat) : State :=
  withTile (user 0x2000 0) (fun t => { t with mem := m, disp := { t.disp with deque := List.replicate n TaskRec.zero } })
def soundRec (w : Nat) : Prop := w % 4 = 0 ∧ w % 2 ^ 21 < 0x1000 ∧ w / 2 ^ 21 % 8 = 0 ∧ w / 2 ^ 24 % 16 ≤ 11 ∧ w / 2 ^ 29 = 0

theorem witness_TaskAndVirtualTimeForms : runsUser (user 0 0) on ∧ runsUser (opt 0 0) on ∧ isOpt (spawning [] 0).tile = false ∧ isOpt (opt 0 0).tile = true
    ∧ recordFaults (user 0xF01 0) (X (user 0xF01 0) 1) ≠ [] ∧ recordFaults (spawning [] 0) (X (spawning [] 0) 1) = []
    ∧ soundRec (readLe [(0x2001, 1)] 0x2000 8) ∧ ¬soundRec (readLe [(0x2000, 1)] 0x2000 8) ∧ xbOf (spawning [] 0).tile = 0x1000
    ∧ ¬((spawning [] 128).tile.disp.deque.length + (spawning [] 128).tile.disp.reserved < 128)
    ∧ (spawning [] 0).tile.disp.deque.length + (spawning [] 0).tile.disp.reserved < 128
    ∧ (spawning [] 0).tile.disp.deque = [] ∧ (spawning [] 1).tile.disp.deque ≠ [] := by
  unfold soundRec
  exact ⟨runsUser_user _ _, runsUser_opt _ _, by decide⟩

/-! ## Witnesses for the steps without an encoding -/

/-- The tile of site 0 is in focus. -/
theorem here {s : State} (h : s.tile.site = 0) : atSite s 0 s := by
  refine ⟨by simp [tileAt, h], by simp [focus, h]⟩

/-- A packet in flight with a kind, a message length, a handle, specific bytes and a body. -/
def sent (s : State) (src dst plane kind len handle spec : Nat) (body : List Byte) : State :=
  { s with net := [⟨src, dst, plane, ⟨mkHdr 0 7 0 (flagsOf kind plane 0 false false false) 9 0 0 0 len handle spec, body⟩⟩] }

/-- The first packet at an input, and the state without it. -/
def headOf (s : State) (src dst plane : Nat) : Packet × State := match takePkt s src dst plane with
  | some p => p
  | none => (⟨0, []⟩, s)

def updEngine (s : State) (f : Engine → Engine) : State := withTile s (fun t => { t with eng := f t.eng })

/-- A send of the sending engine in a state, of one byte. -/
def sendIn (st : SendSt) (eager : Bool) : SendOp :=
  { handle := 3, uid := 0, tok := 4, lt := 0, hdr := mkHdr 7 0 0 (flagsOf 0 1 0 false false false) 9 0 0 0 1 3 0, eager := eager, st := st, data := [],
    rng := [], pre := false }
def sending (st : SendSt) (eager : Bool) : State := updEngine (user 0 0) (fun e => { e with sends := [sendIn st eager] })

/-- A waiting message and a receive in a state. -/
def waiting : HamEntry := { hdr := mkHdr 0 7 0 (flagsOf 0 1 0 false false false) 9 0 0 0 0 5 0, body := [], rdv := false, neg := false, seq := 1, consumed := none, cells := [] }
def recvIn (st : RecvSt) : Posted :=
  { id := 1, uid := 0, tok := 4, rank := 7, tag := 9, mask := 0, grp := 0, lt := 0, rng := [], st := st, req := none, since := 0, ev := false, seg := 0 }
def receiving (st : RecvSt) : State := updEngine (user 0 0) (fun e => { e with posted := [recvIn st] })

/-- A hamper with no entry free. -/
def crowded : State := updEngine (user 0 0) (fun e => { e with hamper := List.replicate 256 { waiting with rdv := true } })

theorem witness_MessageArrival : takes (sent (user 0 0) 1 0 1 1 8 3 0 []) = true ∧ ¬(4096 ≤ 1 ∧ 1 < 4352)
    ∧ (sent (user 0 0) 1 0 1 1 8 3 0 []).tile.eng.stopped = none
    ∧ headPkt (sent (user 0 0) 1 0 1 1 8 3 0 []) 1 0 1 (fun h => isArrivalKind h && colourOk (sent (user 0 0) 1 0 1 1 8 3 0 []) h)
      = some (headOf (sent (user 0 0) 1 0 1 1 8 3 0 []) 1 0 1)
    ∧ (let p := headOf (sent (user 0 0) 1 0 1 1 8 3 0 []) 1 0 1; (admitArrival p.2 p.1).isSome) = true
    ∧ (let p := headOf (sent crowded 1 0 1 1 8 3 0 []) 1 0 1; (admitArrival p.2 p.1).isSome) = false :=
  ⟨by decide, by decide, by decide, rfl, by decide, by decide⟩
/-- The input stopped at site 1 takes up its packet again. -/
def stopped : State := sent (updEngine (user 0 0) (fun e => { e with stopped := some 1 })) 1 0 1 1 8 3 0 []
theorem witness_HamperInputResume : stopped.tile.eng.stopped = some 1 ∧ stopped.tile.eng.readmits = [] ∧ headPkt stopped 1 0 1 (fun _ => true) = some (headOf stopped 1 0 1)
    ∧ hdrAnti (headOf stopped 1 0 1).1.hdr = false
    ∧ (admitArrival (updEng (headOf stopped 1 0 1).2 (fun g => { g with stopped := none })) (headOf stopped 1 0 1).1).isSome = true :=
  ⟨by decide, by decide, rfl, by decide, by decide⟩
/-- A restore has put one packet back before those that are on their way, into an area with room or without. -/
def restored (s : State) : State := updEngine s (fun e => { e with stopped := some 1, readmits := [(headOf stopped 1 0 1).1] })
theorem witness_HamperInputResume_readmits : (restored (user 0 0)).tile.eng.stopped = some 1
    ∧ (restored (user 0 0)).tile.eng.readmits = (headOf stopped 1 0 1).1 :: [] ∧ (restored crowded).tile.eng.readmits = (headOf stopped 1 0 1).1 :: []
    ∧ (meetNegative (restored (user 0 0)) (headOf stopped 1 0 1).1.hdr).isNone = true ∧ (meetNegative (restored crowded) (headOf stopped 1 0 1).1.hdr).isNone = true
    ∧ (admitMsg (restored (user 0 0)) (headOf stopped 1 0 1).1.hdr (headOf stopped 1 0 1).1.body).isSome = true
    ∧ (admitMsg (restored crowded) (headOf stopped 1 0 1).1.hdr (headOf stopped 1 0 1).1.body).isNone = true := by decide
/-- Two queued eager sends, the second to the destination given. -/
def sendTo (dst handle : Nat) : SendOp := { sendIn .queued true with handle := handle, hdr := setBits (sendIn .queued true).hdr 0 32 dst }
theorem witness_EagerReadout : (readable (sending .queued true).tile)[0]? = some (sendIn .queued true)
    ∧ (firstUnsent (fun x => decide (x.st = .reading)) [] (sending .reading true).tile.eng.sends)[0]? = some (sendIn .reading true)
    ∧ (sendTo 7 3).eager = true ∧ (sendTo 8 4).st = .queued ∧ hdrDst (sendTo 7 3).hdr ≠ hdrDst (sendTo 8 4).hdr
    ∧ (readable (updEngine (user 0 0) (fun e => { e with sends := [sendTo 7 3, sendTo 8 4] })).tile).length = 2
    ∧ (readable (updEngine (user 0 0) (fun e => { e with sends := [sendTo 7 3, sendTo 7 4] })).tile).length = 1 := by decide
/-- Answers that name the send. -/
def answered (kind : Nat) (st : SendSt) : State := sent (sending st (decide (st = .retained))) 7 0 2 kind 1 3 0 []
theorem witness_AcceptanceArrival : headPkt (answered 12 .retained) 7 0 2 (fun h => hdrKind h = 12 && colourOk (answered 12 .retained) h)
      = some (headOf (answered 12 .retained) 7 0 2)
    ∧ (headOf (answered 12 .retained) 7 0 2).2.tile.eng.sends.find? (fun x => x.handle = hdrHandle (headOf (answered 12 .retained) 7 0 2).1.hdr)
      = some (sendIn .retained true)
    ∧ headPkt (answered 12 (.sent 8)) 7 0 2 (fun h => hdrKind h = 12 && colourOk (answered 12 (.sent 8)) h) = some (headOf (answered 12 (.sent 8)) 7 0 2)
    ∧ (headOf (answered 12 (.sent 8)) 7 0 2).2.tile.eng.sends.find? (fun x => x.handle = hdrHandle (headOf (answered 12 (.sent 8)) 7 0 2).1.hdr)
      = some (sendIn (.sent 8) false) := ⟨rfl, by decide, rfl, by decide⟩
theorem witness_RefusalArrival : headPkt (answered 4 .retained) 7 0 2 (fun h => hdrKind h = 4 && colourOk (answered 4 .retained) h)
      = some (headOf (answered 4 .retained) 7 0 2)
    ∧ (headOf (answered 4 .retained) 7 0 2).2.tile.eng.sends.find? (fun x => x.handle = hdrHandle (headOf (answered 4 .retained) 7 0 2).1.hdr)
      = some (sendIn .retained true) := ⟨rfl, by decide⟩
theorem witness_CtsArrival : ¬(4096 ≤ 0 ∧ 0 < 4352)
    ∧ headPkt (answered 2 .waitCts) 7 0 2 (fun h => hdrKind h = 2 && colourOk (answered 2 .waitCts) h) = some (headOf (answered 2 .waitCts) 7 0 2)
    ∧ (headOf (answered 2 .waitCts) 7 0 2).2.tile.eng.sends.find? (fun x => x.handle = hdrHandle (headOf (answered 2 .waitCts) 7 0 2).1.hdr)
      = some (sendIn .waitCts false) ∧ (sendIn .waitCts false).st = .waitCts ∧ (sendIn .waitCts false).pre = false := ⟨by decide, rfl, by decide⟩
/-- Four cycles after a match. -/
def matchedAt4 : State := { receiving (.matched waiting) with cyc := 4 }
theorem witness_CtsSend : matchedAt4.tile.eng.posted.find? (fun x => isMatched x && decide (x.since + 4 ≤ matchedAt4.cyc)) = some (recvIn (.matched waiting))
    ∧ takes matchedAt4 = true ∧ (recvIn (.matched waiting)).st = .matched waiting := by decide
theorem witness_RendezvousStreamDone : ((sending (.streaming 8) false).tile.eng.sends.filter isStreaming)[0]? = some (sendIn (.streaming 8) false)
    ∧ (sendIn (.streaming 8) false).st = .streaming 8 ∧ (sendIn (.streaming 8) false).eager = false ∧ 8 ≠ 0 := by decide
/-- A stream's data has arrived for the receive that waits for it. -/
def streamed : State := sent (receiving (.streaming waiting 8)) 1 0 1 3 8 5 0 [1, 2, 3, 4, 5, 6, 7, 8]
theorem witness_ReceiveComplete_stream : (landable streamed)[0]? = some (recvIn (.streaming waiting 8), waiting, some (headOf streamed 1 0 1))
    ∧ (engWrite (headOf streamed 1 0 1).2 0 (ltNj 0) []).isSome = true := ⟨rfl, by decide⟩
theorem witness_ReceiveComplete : (landable (receiving (.landing waiting)))[0]? = some (recvIn (.landing waiting), waiting, none)
    ∧ (engWrite (receiving (.landing waiting)) 0 (ltNj 0) ((ltAddrs 0).zip waiting.body)).isSome = true := ⟨rfl, by decide⟩
/-- An anti-message in flight to the message that waits; where nothing waits; where the header area is full. -/
def antiTo (h : List HamEntry) : State := { updEngine (opt 0 0) (fun e => { e with hamper := h }) with
  net := [⟨1, 0, 1, ⟨setBits waiting.hdr 84 1 1, []⟩⟩] }
def meeting : State := antiTo [waiting]
/-- The tile counts and notes the arrival of the head packet. -/
def counted (s : State) : State := noteArrival (countIn (recordChannel (headOf s 1 0 1).2 (headOf s 1 0 1).1) (headOf s 1 0 1).1.hdr)
theorem witness_AntiMessageArrival_unmet : takes (antiTo []) = true
    ∧ headPkt (antiTo []) 1 0 1 (fun h => hdrKind h = 0 && hdrAnti h && colourOk (antiTo []) h) = some (headOf (antiTo []) 1 0 1)
    ∧ (antiMeet (counted (antiTo [])) (headOf (antiTo []) 1 0 1).1.hdr).isNone = true ∧ headUsed (counted (antiTo [])).tile < 256
    ∧ antiTarget (counted (antiTo [])) (headOf (antiTo []) 1 0 1).1.hdr = none := ⟨by decide, rfl, by decide, by decide, by decide⟩
def antiFull : State := antiTo (List.replicate 256 { waiting with rdv := true, hdr := 0 })
theorem witness_AntiMessageArrival_full : takes antiFull = true ∧ antiFull.tile.eng.stopped = none
    ∧ headPkt antiFull 1 0 1 (fun h => hdrKind h = 0 && hdrAnti h && colourOk antiFull h) = some (headOf antiFull 1 0 1)
    ∧ (antiMeet (counted antiFull) (headOf antiFull 1 0 1).1.hdr).isNone = true ∧ 256 ≤ headUsed (counted antiFull).tile :=
  ⟨by decide, by decide, rfl, by decide, by decide⟩
theorem witness_AntiMessageArrival : takes meeting = true ∧ meeting.tile.eng.stopped = none
    ∧ headPkt meeting 1 0 1 (fun h => hdrKind h = 0 && hdrAnti h && colourOk meeting h) = some (headOf meeting 1 0 1)
    ∧ (antiMeet (counted meeting) (headOf meeting 1 0 1).1.hdr).isSome = true :=
  ⟨by decide, by decide, rfl, by decide⟩
theorem witness_PeerFencedAnswer : 9 < 4096 ∧ isFenced (sent (user 0 0) 0 9 1 0 0 3 0 []) 9 = true
    ∧ takePkt (sent (user 0 0) 0 9 1 0 0 3 0 []) 0 9 1 = some (headOf (sent (user 0 0) 0 9 1 0 0 3 0 []) 0 9 1)
    ∧ (headOf (sent (user 0 0) 0 9 1 0 0 3 0 []) 0 9 1).2.qheld = []
    ∧ (tileAt (headOf (sent (user 0 0) 0 9 1 0 0 3 0 []) 0 9 1).2 0).isSome = true := ⟨by decide, by decide, rfl, by decide⟩
theorem witness_PeerFencedAnswer_port : takePkt (sent (user 0 0) 4352 9 1 0 0 3 0 []) 4352 9 1 = some (headOf (sent (user 0 0) 4352 9 1 0 0 3 0 []) 4352 9 1)
    ∧ isFenced (sent (user 0 0) 4352 9 1 0 0 3 0 []) 9 = true ∧ 4352 < 4368 ∧ hdrKind (headOf (sent (user 0 0) 4352 9 1 0 0 3 0 []) 4352 9 1).1.hdr ≠ 6 :=
  ⟨rfl, by decide, by decide, by decide⟩
/-- Module 1 answers that the site of rank 8199, to which a message has gone, is fenced. -/
def shutOut : State := { updEngine (user 0 0) (fun e => { e with sends := [{ sendIn .retained true with hdr := setBits (sendIn .retained true).hdr 0 32 8199 }] }) with
  net := [⟨4352, 0, 2, ⟨mkHdr 0 8199 0 (flagsOf 6 2 0 false false false) 9 0 0 0 0 3 6, []⟩⟩] }
theorem witness_PeerFencedAnswer_back : headFor shutOut 4352 0 2 1 (fun h => hdrKind h = 6 && decide (hdrN h 48 1 = 6) && otherModule shutOut (hdrSrc h))
      = some (headOf shutOut 4352 0 2)
    ∧ ((headOf shutOut 4352 0 2).2.tile.eng.sends.find? (fun x => decide (x.handle = hdrHandle (headOf shutOut 4352 0 2).1.hdr)
        && decide (hdrDst x.hdr = hdrSrc (headOf shutOut 4352 0 2).1.hdr))).map (·.st) = some .retained := ⟨rfl, by decide⟩

/-- A request of one GET part in a state, translated or not. -/
def partIn (home : Option (Bool × Nat × Nat)) (st : PartSt) : Part :=
  { op := 0, sub := 0, qva := 0x1000, len := 8, elems := [], body := [], src := 0, srcHome := none, at_ := 0, home := home, st := st, walking := false, old := false }
def reqIn (p : Part) : QReq :=
  { id := 1, uid := 0, tok := 4, kind := .qget, lt := 0, rng := [], acq := false, rel := false, parts := [p], oob := false, okBytes := 0, trunc := false,
    posted := false, seg := 0, colour := false }
def asking (p : Part) : State := updEngine (user 0 0) (fun e => { e with reqs := [reqIn p] })

/-- Its walk is in progress; and with a root table whose first entry leads to a leaf of 1 GiB. -/
def walked : State := asking { partIn none .wait with walking := true }
def mapped : State := { walked with quarry := [(0x10000, 1), (0x10002, 2), (0x20000, 3)], mgr := { Manager.ready with roots := [(5, 0x10000)] } }
theorem witness_QuarryWalk : (asking (partIn none .wait)).tile.eng.reqs.findSome? (fun r => (untranslated r).map (fun x => (r.id, x)))
      = some (1, 0, 0x1000, false)
    ∧ (tlbFind (asking (partIn none .wait)).tile 0x1000).isNone = true
    ∧ isWalking (asking (partIn none .wait)).tile 1 0 = false ∧ isWalking walked.tile 1 0 = true ∧ tlbFind walked.tile 0x1000 = none
    ∧ walksAt (asking (partIn none .wait)) 0 < 64 ∧ (walk walked 0 (cwGet walked.tile 0x023).toNat 0x1000).1 = .fail 3
    ∧ (walk mapped 0 (cwGet mapped.tile 0x023).toNat 0x1000).1 = .leaf 3 2 ∧ tlbFind (updEngine (user 0 0) (fun e => { e with tlb := [(0, 3, 7)] })).tile 0x1000 = some (7, 3) := by decide
theorem witness_QuarryPartDispatch : nextPart (asking (partIn (some (false, 0, 0)) .wait)).tile
      = some (reqIn (partIn (some (false, 0, 0)) .wait), 0, partIn (some (false, 0, 0)) .wait)
    ∧ heldBack (asking (partIn (some (false, 0, 0)) .wait)).tile (reqIn (partIn (some (false, 0, 0)) .wait)) = false
    ∧ partReady (reqIn (partIn (some (false, 0, 0)) .wait)) (partIn (some (false, 0, 0)) .wait) = true
    ∧ joinOwners [partIn (some (false, 0, 0)) .wait] = [partIn (some (false, 0, 0)) .wait]
    ∧ freeTracker (asking (partIn (some (false, 0, 0)) .wait)).tile = some 0
    ∧ linkDown (user 0 0) 0 (endSite 4096) = false ∧ routerStops (user 0 0) 0 (endSite 4096) = false ∧ linkDown (user 0 0) (endSite 4096) 0 = false
    ∧ routerStops (user 0 0) (endSite 4096) 0 = false
    ∧ routerStops { user 0 0 with mgr := { Manager.ready with badRouters := [0] } } (endSite 4096) 0 = true := by decide
/-- A bench in a state, by its id. -/
def benchIn0 (st id : Nat) : Bench := { Bench.zero with id := id, st := st }
/-- Partition 1 changed. -/
def withPart (s : State) (f : Partn → Partn) : State := { s with partns := s.partns.map f }
/-- A part at quarry tile 1: a GET, a COPY of no bytes, or one for the capacity tier, by its specific bytes. -/
def serving (len spec : Nat) (body : List Byte) : State := sent (user 0 0) 0 4097 1 5 len 0 spec body
def partAt (s : State) : Transit := s.net.headD ⟨0, 0, 0, ⟨0, []⟩⟩
theorem witness_QuarryPartServe_ready : (readyParts (serving 8 0 []) 0 1)[0]? = some (partAt (serving 8 0 [])) ∧ proxyFull (serving 8 0 []) 1 = false
    ∧ tileAt (serving 8 0 []) 0 = some (user 0 0).tile ∧ copyOf (serving 8 0 []) (partAt (serving 8 0 [])) = none
    ∧ flipFor (serving 8 0 []) 1 1 (hdrBench (partAt (serving 8 0 [])).pkt.hdr) = serving 8 0 []
    ∧ oldBench (serving 8 0 []) 1 1 (hdrBench (partAt (serving 8 0 [])).pkt.hdr) = none ∧ hdrN (partAt (serving 8 0 [])).pkt.hdr 56 8 < 2 ^ 63
    ∧ hdrN (partAt (serving 8 0 [])).pkt.hdr 48 1 ≠ 6
    ∧ (freezeAll (serving 8 0 []) none 1 (writtenPages (partAt (serving 8 0 [])).pkt.hdr [])).2 = true
    ∧ oldBench (partGone (serving 8 0 []) (partAt (serving 8 0 []))) 1 1 (hdrBench (partAt (serving 8 0 [])).pkt.hdr) = none :=
  ⟨rfl, rfl, rfl, rfl, rfl, by decide, by decide, by decide, by decide, by decide⟩
theorem witness_QuarryPartServe_copy : (readyParts (serving 0 6 (List.replicate 10 0)) 0 1)[0]? = some (partAt (serving 0 6 (List.replicate 10 0)))
    ∧ hdrN (partAt (serving 0 6 (List.replicate 10 0))).pkt.hdr 48 1 = 6 ∧ copySource (partAt (serving 0 6 (List.replicate 10 0))).pkt.body = (false, 0, 0)
    ∧ (readBlocks (serving 0 6 (List.replicate 10 0)) 5 false 0 0 (hdrLen (partAt (serving 0 6 (List.replicate 10 0))).pkt.hdr)).1 = false := by decide
/-- The same part where its source is the serving tile itself, with its data on the way, and with its data in the copy buffer. -/
def copying : State := serving 0 6 [0, 1, 0, 0, 0, 0, 0, 0, 0, 0]
def copyData : Transit := ⟨4096, 4097, 2, ⟨mkHdr 7 0 0 (flagsOf 6 2 0 false false false) 7 0 0 0 0 0 0, []⟩⟩
theorem witness_QuarryPartServe_copyLands : copySource (partAt copying).pkt.body = (false, 1, 0) ∧ 4096 + 1 = (partAt copying).dst
    ∧ (copyOf copying (partAt copying)).isNone = true ∧ (copySent copying (partAt copying)).isNone = true
    ∧ 4096 + 0 ≠ (partAt (serving 0 6 (List.replicate 10 0))).dst ∧ linkDown (user 0 0) (endSite 4096) (endSite 4097) = false
    ∧ routerStops (user 0 0) (endSite 4096) (endSite 4097) = false
    ∧ copySent { copying with net := copying.net ++ [copyData] } (partAt copying) = some copyData
    ∧ ((copyOf { copying with copies := [(partAt copying, 0, [])] } (partAt copying)).getD (0, [])).1 = 0 := by decide
/-- A PUT to a page that a sealed bench shares, where the pool has no frame: it waits. -/
def frameless : State := withPart (serving 1 1 [7]) (fun p => { p with benches := [{ benchIn0 2 1 with shared := [(1, 0)], acks := [1] }, { benchIn0 3 2 with shared := [(1, 0)] }] })
theorem witness_QuarryPartServe_waits : (readyParts frameless 0 1)[0]? = some (partAt frameless) ∧ hdrN (partAt frameless).pkt.hdr 56 8 < 2 ^ 63
    ∧ hdrN (partAt frameless).pkt.hdr 48 1 ≠ 6 ∧ flipFor frameless 1 1 (hdrBench (partAt frameless).pkt.hdr) = frameless
    ∧ (oldBench frameless 1 1 (hdrBench (partAt frameless).pkt.hdr)).isNone = true
    ∧ (freezeAll frameless none 1 (writtenPages (partAt frameless).pkt.hdr (partAt frameless).pkt.body)).2 = false := by decide
/-- Two GETs of one tile, of the same byte and of different ones. -/
def twoParts (spec : Nat) : State := { serving 8 0 [] with net := (serving 8 0 []).net ++ (sent (user 0 0) 0 4097 1 5 8 1 (spec * 2 ^ 64) []).net }
theorem witness_QuarryPartServe_two : (∀ k ∈ [0, 64], ∀ z ∈ (twoParts k).net, z.src = 0 ∧ z.dst = 4096 + 1 ∧ z.plane = 1 ∧ hdrKind z.pkt.hdr = 5)
    ∧ (readyParts (twoParts 0) 0 1).length = 1 ∧ (readyParts (twoParts 64) 0 1).length = 2 := by decide
theorem witness_QuarryScrub : ownerOut State.reset 0 = false ∧ (0, 0) ∉ State.reset.qscrub ∧ (readBlocks State.reset 0 false 0 (64 * 0) 64).1 = false
    ∧ 1 ≠ State.reset.cyc % 2 ^ 36 * 47185920 / 2 ^ 36 ∧ State.reset.qparity = [] ∧ State.reset.qsoft = [] ∧ State.reset.qbad = [] := by decide
theorem witness_QuarryPartServe_capacity : (readyParts (serving 8 (2 ^ 127) []) 0 1)[0]? = some (partAt (serving 8 (2 ^ 127) []))
    ∧ 2 ^ 63 ≤ hdrN (partAt (serving 8 (2 ^ 127) [])).pkt.hdr 56 8
    ∧ (serving 8 (2 ^ 127) []).cxl.find? (fun c => c.2.2 = partAt (serving 8 (2 ^ 127) [])) = none := by decide
/-- A reply to tracker 0 of generation 0, whose part is out. -/
def replied : State := sent (updEngine (asking (partIn (some (false, 0, 0)) (.sent 0))) (fun e =>
  { e with trackers := [(0, { gen := 0, use := some (1, 0), since := 0, held := false })] })) 4096 0 2 6 8 0 0 [1, 2, 3, 4, 5, 6, 7, 8]
theorem witness_QuarryReply : headAny replied 4096 0 2 (fun h => (hdrKind h = 6 || hdrKind h = 3) && colourOk replied h) = some (headOf replied 4096 0 2)
    ∧ (trackerOf (headOf replied 4096 0 2).2.tile 0).gen = 0 ∧ (trackerOf (headOf replied 4096 0 2).2.tile 0).use = some (1, 0)
    ∧ (trackerOf (headOf replied 4096 0 2).2.tile 0).gen ≠ 256 / 256 % 256
    ∧ (engWrite (headOf replied 4096 0 2).2 0 (ltNj 0) (replyBytes (reqIn (partIn (some (false, 0, 0)) (.sent 0))) (partIn (some (false, 0, 0)) (.sent 0)) [])).isSome = true :=
  ⟨rfl, by decide⟩
/-- Tracker 0 has been out, or held back, for 2^24 cycles. -/
def timed (use : Option (Nat × Nat)) (held : Bool) : State :=
  { updEngine (user 0 0) (fun e => { e with trackers := [(0, { gen := 0, use := use, since := 0, held := held })] }) with cyc := 2 ^ 24 }
theorem witness_QuarryPartTimeout : (trackerOf (timed (some (1, 0)) false).tile 0).use = some (1, 0)
    ∧ (trackerOf (timed (some (1, 0)) false).tile 0).since + 2 ^ 24 ≤ (timed (some (1, 0)) false).cyc ∧ partnHalted (timed (some (1, 0)) false) 1 = false
    ∧ (trackerOf (timed none true).tile 0).held = true ∧ (trackerOf (timed none true).tile 0).since + 2 ^ 24 ≤ (timed none true).cyc := by decide
/-- A steal request that arrives, and one that has arrived in the cycle before. -/
def robbed (met : List (Nat × Nat)) : State :=
  let s := sent (user 0 0) 1 0 1 7 0 3 0 []
  { s with cyc := 1, tile := { s.tile with disp := { s.tile.disp with thefts := met } } }
theorem witness_StealServe : headFor (robbed []) 1 0 1 2 (fun h => hdrKind h = 7 && colourOk (robbed []) h) = some (headOf (robbed []) 1 0 1)
    ∧ takes (robbed []) = true ∧ (robbed []).tile.eng.stopped = none ∧ (robbed []).tile.disp.thefts.any (fun x => x.2 = 1) = false
    ∧ stealDue (robbed [(0, 1)]) 1 = true
    ∧ headFor (robbed [(0, 1)]) 1 0 1 2 (fun h => hdrKind h = 7 && colourOk (robbed [(0, 1)]) h) = some (headOf (robbed [(0, 1)]) 1 0 1)
    ∧ (headOf (robbed [(0, 1)]) 1 0 1).2.tile.bench.cap = none := ⟨rfl, by decide, by decide, by decide, by decide, rfl, by decide⟩
/-- A lower rank whose request arrived in the same cycle comes first (R286). -/
theorem test_steals_by_rank : stealDue (robbed [(0, 1), (0, 9)]) 9 = false ∧ stealDue (robbed [(0, 9), (0, 1)]) 1 = true := by decide
/-- A steal that waits for its answer. -/
def stealing (body : List Byte) : State := sent (updEngine (user 0 0) (fun e => { e with waits := [engOp (user 0 0) (.steal false) 4 0 3 0 []] })) 1 0 2 8 0 3 0 body
theorem witness_StealAnswer : headFor (stealing []) 1 0 2 2 (fun h => hdrKind h = 8 && colourOk (stealing []) h) = some (headOf (stealing []) 1 0 2)
    ∧ (headOf (stealing []) 1 0 2).2.tile.eng.waits.find? (fun y => isSteal y && decide (y.b.toNat = hdrHandle (headOf (stealing []) 1 0 2).1.hdr))
      = some (engOp (user 0 0) (.steal false) 4 0 3 0 [])
    ∧ (headOf (stealing []) 1 0 2).1.body = [] ∧ (headOf (stealing (List.replicate 64 0)) 1 0 2).1.body ≠ [] := ⟨rfl, rfl, by decide⟩

/-! ### Fabric, tasks and virtual time -/

def updRouter (f : Router → Router) : State := withTile (user 0 0) (fun t => { t with rt := f t.rt })
def updDispatcher (s : State) (f : Dispatcher → Dispatcher) : State := withTile s (fun t => { t with disp := f t.disp })

theorem witness_ResultLand : partnRuns (user 0 0) (user 0 0).tile.pid = true ∧ (user 0 0).tile.disp.running = true
    ∧ (user 0 0).tile.dbg.halted = false ∧ (user 0 0).tile.soft = [] ∧ (user 0 0).tile.poison = [] := by decide
theorem witness_Dispatch : 0 ∉ (user 0 0).todo ∧ (user 0 0).tile.disp.served ≠ some (user 0 0).cyc ∧ (user 0 0).tile.disp.popped ≠ some (user 0 0).cyc
    ∧ (∀ y ∈ (user 0 0).tile.disp.pushed, y.1 ≠ (user 0 0).cyc)
    ∧ (updDispatcher (user 0 0) (fun d => { d with popped := some 0 })).tile.disp.popped = some (user 0 0).cyc
    ∧ (∃ y ∈ (updDispatcher (user 0 0) (fun d => { d with pushed := some (0, 3) })).tile.disp.pushed, y.1 = (user 0 0).cyc) :=
  ⟨by decide, by decide, by decide, by decide, rfl, ⟨(0, 3), rfl, rfl⟩⟩
/-- A pending asynchronous cause. -/
def interrupted : State := withTile trapping (fun t => { t with asyncs := [(0x16, 7)] })
theorem witness_AsyncTrap : atBoundary interrupted = true ∧ interrupted.tile.vt.due = [] ∧ haltWanted interrupted.tile = none
    ∧ interrupted.tile.th.trap = none ∧ eventLooms interrupted.tile = false
    ∧ interrupted.tile.soft = [] ∧ interrupted.tile.poison = [] ∧ lowestAsync (beginCycle interrupted.tile (hereCyc interrupted)) = some (0x16, 7) := by decide
theorem witness_Rollback : rollbackReady undoing = true ∧ undoing.tile.th.squash = 0 ∧ haltWanted undoing.tile = none ∧ eventLooms undoing.tile = false
    ∧ undoing.tile.soft = [] ∧ undoing.tile.poison = [] := by decide
/-- A stalled task of low priority in a partition that may be pre-empted, with a task ready above it, its mask spent. -/
def preempted (masked : Bool) : State :=
  let s := withPart (updDispatcher (user 0 0) (fun d => { d with ready := [.fresh { TaskRec.zero with pri := 11 } 0] }))
    (fun p => { p with rec_ := BitVec.ofNat 512 (4 * 2 ^ 24) })
  withTile s (fun t => cwPut { t with stall := some .other } 0x104 (if masked then 0x40000 else 0))
theorem witness_TaskPreempt : quietBoundary (preempted false).tile = true ∧ noTrap (preempted false).tile = true
    ∧ partnRuns (preempted false) (preempted false).tile.pid = true ∧ (switchDue (preempted false)).isSome = true
    ∧ pmasked (preempted true).tile = true ∧ (preempted true).tile.disp.maskLeft = 0 ∧ (switchDue (preempted true)).isSome = true := by decide
/-- The tile has waited at a SYNC for 64 cycles. -/
def synced : State := { updDispatcher (user 0 0) (fun d => { d with sync := some 0 }) with cyc := 64 }
theorem witness_SyncRelease : partnOf synced 1 = some part ∧ part.st = .running ∧ 64 ≤ synced.cyc
    ∧ ∀ t ∈ allTiles synced, part.sites.contains t.site = true → t.dbg.gang = false ∧ t.disp.running = true ∧ t.disp.release = none
      ∧ ∃ x, t.disp.sync = some x ∧ x + 64 ≤ synced.cyc := by
  refine ⟨rfl, rfl, by decide, fun t ht _ => ?_⟩
  have : t = synced.tile := by simpa [allTiles, synced, updDispatcher, withTile, user, State.reset] using ht
  subst this
  exact ⟨rfl, rfl, rfl, 0, rfl, by decide⟩

/-- A packet of the fabric. -/
def flit : Packet := ⟨mkHdr 7 0 0 (flagsOf 0 1 0 false false false) 9 0 0 0 0 5 0, []⟩
/-- The flit stands at input 2 in this cycle; a flit departs in this cycle. -/
def flitHere : State := updRouter (fun r => { r with inp := [(2, hereCyc (user 0 0), flit)] })
theorem witness_ScheduledFlitForward : flitHere.tile.rt.inp.find? (fun y => y.1 = 2 && decide (2 < 5) && decide (y.2.1 = hereCyc flitHere))
    = some (2, hereCyc flitHere, flit) := by simp [flitHere, updRouter, withTile, user, hereCyc, dieCyc, State.reset, cwPut]
def timedFlit : Timed :=
  { uid := 0, tok := 4, pkt := flit, t := 0, d0 := hereCyc (user 0 0), d := hereCyc (user 0 0), rng := [], ready := 0 }
theorem witness_SendtDepart : (updRouter (fun r => { r with buffer := [timedFlit] })).tile.rt.buffer = [timedFlit] ∧ timedFlit.d = timedFlit.d0
    ∧ timedFlit.d = hereCyc (updRouter (fun r => { r with buffer := [timedFlit] }))
    ∧ partnHalted (updRouter (fun r => { r with buffer := [timedFlit] })) 1 = false := ⟨rfl, rfl, rfl, by decide⟩
theorem witness_TimedArrival : (updRouter (fun r => { r with inp := [(5, 0, flit)] })).tile.rt.inp.find?
    (fun y => y.1 = 5 && decide (y.2.1 ≤ hereCyc (updRouter (fun r => { r with inp := [(5, 0, flit)] })))) = some (5, 0, flit) := by
  simp [updRouter, withTile]
theorem witness_TimedQueueDeliver : (updRouter (fun r => { r with queue := [flit] })).tile.rt.queue = [flit]
    ∧ (updRouter (fun r => { r with queue := [flit] })).tile.rt.fed ≠ some 0 ∧ takes (updRouter (fun r => { r with queue := [flit] })) = true
    ∧ colourOk (updRouter (fun r => { r with queue := [flit] })) flit.hdr = true
    ∧ (admitMsg (recordChannel (updRouter (fun r => { r with queue := [], fed := some 0 })) flit) flit.hdr flit.body).isSome = true
    ∧ admitMsg (recordChannel { crowded with tile := { crowded.tile with eng := { crowded.tile.eng with hamper := List.replicate 256 { waiting with rdv := true, cells := [0] } } } }
        { flit with hdr := setBits flit.hdr 80 4 1 }) (setBits flit.hdr 80 4 1) [] = none := by decide
/-- A timed flit at a tile that takes no packets: its partition is contained. -/
def closed : State := withPart (updRouter (fun r => { r with queue := [flit] })) (fun p => { p with st := .contained })
theorem witness_TimedQueueDeliver_closed : closed.tile.rt.queue = [flit] ∧ takes closed = false := by decide
theorem witness_ScheduledFlit_local : hdrDst flit.hdr ≠ rankOf (user 0 0).tile ∧ hdrDst (setBits flit.hdr 0 32 0) = rankOf (user 0 0).tile
    ∧ (user 0 0).tile.site ∉ (user 0 0).mgr.noId := by decide
theorem witness_MulticastForward : (updRouter (fun r => { r with held := [(3, flit)] })).tile.rt.held = [(3, flit)] := rfl
/-- A halo row that arrives, and one that has landed in the cycle before. -/
def haloAt (met : List HaloRow) : State := { sent (updEngine (user 0 0) (fun e => { e with halos := met })) 1 0 1 9 8 3 0 [] with cyc := 1 }
theorem witness_HaloArrival : takes (haloAt []) = true ∧ (haloAt []).tile.eng.stopped = none ∧ (haloAt []).tile.soft = []
    ∧ headFor (haloAt []) 1 0 1 3 (fun h => hdrKind h = 9 && colourOk (haloAt []) h) = some (headOf (haloAt []) 1 0 1)
    ∧ (haloAt []).tile.eng.halos = [] ∧ (haloAt [⟨1, 0, true, []⟩]).tile.eng.halos = [⟨1, 0, true, []⟩]
    ∧ (haloAt [⟨1, 0, false, []⟩]).tile.eng.halos = [⟨1, 0, false, []⟩] ∧ 0 < (haloAt [⟨1, 0, true, []⟩]).cyc :=
  ⟨by decide, rfl, rfl, rfl, rfl, rfl, rfl, by decide⟩
/-- A packet of the fabric that has to leave router 5 to the east; the neighbour has a set-aside queue for its destination. -/
def heading6 : State := { user 0 0 with net := [⟨5, 9, 1, flit⟩], rest := [
  { Tile.blank 5 with rt := { (Tile.blank 5).rt with watch := [(1, ⟨5, 9, 1, flit⟩, 0)] } },
  { Tile.blank 6 with rt := { (Tile.blank 6).rt with aside := [⟨3, 1, 9, 0, 0⟩] } }], cyc := 64 }
def coming6 : State := { heading6 with rest := [Tile.blank 5, Tile.blank 6], pick := 1 }
theorem witness_Congestion : ((heading coming6 5 1 1 9).filter (fun z => !knownPast coming6 z 5))[0]? = some ⟨5, 9, 1, flit⟩ ∧ coming6.pick = 0 + 1
    ∧ (tileAt heading6 6).map (fun t => t.rt.watch) = some [] ∧ (tileAt heading6 5).map (fun t => t.rt.watch) = some [(1, ⟨5, 9, 1, flit⟩, 0)]
    ∧ heading6.net.contains ⟨5, 9, 1, flit⟩ = true ∧ 0 + 64 ≤ heading6.cyc ∧ neighbour 5 1 = some 6
    ∧ (tileAt heading6 6).map (fun t => t.rt.aside.any (fun y => y.port = (1 + 2) % 4 && y.plane = 1 && y.dst = 9 && decide (heading6.cyc ≤ y.carried + 64)))
      = some true ∧ (Tile.blank 6).rt.aside = [] := by decide
/-- A fence that waits with count 5. -/
def fencing : State := updEngine (user 0 0) (fun e => { e with waits := [engOp (user 0 0) .fencex 4 0 5 0 []] })
theorem witness_FenceVerdict : fencing.tile.eng.waits.find? (fun y => decide (y.kind = .fencex) && decide (y.a.toNat % 2 ^ 16 = 0))
      = some (engOp (user 0 0) .fencex 4 0 5 0 [])
    ∧ (∀ t ∈ allTiles fencing, dieOf t.site = dieOf 0 → ∀ y ∈ t.eng.waits, y.kind = .fencex → y.a.toNat % 2 ^ 16 = 0 →
        (engOp (user 0 0) .fencex 4 0 5 0 []).c.toNat ≤ y.c.toNat) := by decide
theorem witness_FenceMarker : { user 0 0 with pairs := [(3, 9, true, 2, 6)] }.pairs.find? (fun x => x.1 = 3 && x.2.1 = 9) = some (3, 9, true, 2, 6) := by decide
theorem witness_LinkFail : 16 ≤ 16 := by decide
/-- An optimistic partition in a round. -/
def inRound (phase : Option Nat) : State := { withPart (opt 0 0) (fun p => { p with round := phase, rec_ := BitVec.ofNat 512 (2 ^ 24) }) with cyc := 2 ^ 14 }
theorem witness_GvtRoundStart : partnOf (inRound none) 1 = some { part with rec_ := BitVec.ofNat 512 (2 ^ 24) } ∧ part.round = none ∧ part.st = .running
    ∧ part.launched + (part.rounds + 1) * gvtPeriod { part with rec_ := BitVec.ofNat 512 (2 ^ 24) } ≤ (inRound none).cyc := by decide
theorem witness_GvtReportRetry : partnOf (inRound (some 1)) 1 = some { part with rec_ := BitVec.ofNat 512 (2 ^ 24), round := some 1 }
    ∧ part.roundAt + 256 ≤ (inRound (some 1)).cyc := by decide
/-- What a report adds up to: unequal sums, and equal ones of a plain partition. -/
def owing : State := withTile (inRound (some 1)) (fun t => { t with vt := { t.vt with oldSent := 1 } })
theorem witness_GvtReport_sums : (∀ p ∈ owing.partns, p.domain = none) ∧ ((rectTiles owing part).foldl (fun k t => k + t.vt.oldSent) 0 = 1)
    ∧ ((rectTiles owing part).foldl (fun k t => k + t.vt.oldRecv) 0 = 0) ∧ isOptPartn part = false ∧ part.domain = none
    ∧ ((rectTiles (user 0 0) part).foldl (fun k t => k + t.vt.oldSent) 0 = 0) := by decide
/-- A tile that has reported. -/
def reported : State := withTile (inRound (some 2)) (fun t => { t with vt := { t.vt with reported := true } })
theorem witness_GvtRelease : partnOf reported reported.tile.pid = some { part with rec_ := BitVec.ofNat 512 (2 ^ 24), round := some 2 }
    ∧ reported.tile.vt.relDone = false ∧ reported.tile.vt.reported = true ∧ allApplied (releaseAll reported).tile = true
    ∧ cutDue { part with rec_ := BitVec.ofNat 512 (2 ^ 24), round := some 2 } = none := by decide
def released : State := withTile (inRound (some 2)) (fun t => { t with vt := { t.vt with relDone := true } })
theorem witness_GvtRoundEnd : partnOf released 1 = some { part with rec_ := BitVec.ofNat 512 (2 ^ 24), round := some 2 }
    ∧ (∀ t ∈ roundTiles released { part with rec_ := BitVec.ofNat 512 (2 ^ 24), round := some 2 }, t.vt.relDone = true)
    ∧ (∃ t ∈ roundTiles released { part with rec_ := BitVec.ofNat 512 (2 ^ 24), round := some 2 }, isBlocked t = false)
    ∧ (∀ t ∈ roundTiles released { part with rec_ := BitVec.ofNat 512 (2 ^ 24), round := some 2 }, t.dbg.gang = false) := by decide

/-! ### Benches, containment, debugging and landings -/

/-- A bench in a state. -/
def benchIn (st : Nat) : Bench := benchIn0 st 1
def benched (st : Nat) : State := withPart (user 0 0) (fun p => { p with benches := [benchIn st], colour := true })
/-- The tile asks for a bench. -/
def requesting : State := updEngine (user 0 0) (fun e => { e with waits := [engOp (user 0 0) .bench 4 0 0 0 []] })
theorem witness_BenchAccept : (partnTiles requesting 1).findSome? (fun t => (t.eng.waits.find? (fun y => y.kind = .bench)).map (fun y => (t.site, y)))
      = some (0, engOp (user 0 0) .bench 4 0 0 0 []) ∧ (acceptBench requesting 1 0 [(0, 0, 4)]).isSome = true := ⟨rfl, by decide⟩
/-- A period of 2^20 cycles has passed. -/
def periodic : Partn := { part with rec_ := BitVec.ofNat 512 (2 ^ 384 + 2 ^ 416) }
theorem witness_PeriodicBench : partnOf { user 0 0 with partns := [periodic], cyc := 2 ^ 20 } 1 = some periodic ∧ bpolMode periodic = 1 ∧ periodic.st = .running
    ∧ periodic.launched + (periodic.nextBench + 1) * (recField periodic.rec_ 52 4 * 2 ^ 20) ≤ 2 ^ 20 ∧ cutting periodic = none ∧ capturing periodic = false
    ∧ (acceptBench (mapPart { user 0 0 with partns := [periodic], cyc := 2 ^ 20 } 1 (fun y => { y with nextBench := y.nextBench + 1 })) 1 0 []).isSome = true := by
  decide
theorem witness_BenchFlip : partnOf (benched 1) (benched 1).tile.pid = some { part with benches := [benchIn 1], colour := true }
    ∧ ({ part with benches := [benchIn 1], colour := true } : Partn).benches.find? (fun y => y.st = 1) = some (benchIn 1)
    ∧ isOptPartn { part with benches := [benchIn 1], colour := true } = false ∧ (benched 1).tile.bench.colour ≠ true
    ∧ (drainOps (benched 1)).tile.eng.ops = [] := by decide
/-- A bench that waits for the flip of quarry tile 3, and one for which it has flipped. -/
theorem witness_QuarryBenchFlip : benchOf (benched 2) 1 1 = some (benchIn 2) ∧ (benchIn 2).acks.contains 3 = false
    ∧ ({ benchIn 2 with acks := [3] } : Bench).acks.contains 3 = true ∧ (benchIn 2).st = 2 := by decide
/-- Requests: a cut in progress, a capture, none with an id and a generation free, seven benches. -/
def seven : Partn := { part with benches := [1, 2, 3, 4, 5, 6, 7].map (benchIn0 3) }
theorem witness_BenchAccept_cases : (cutting { part with benches := [benchIn 1] }).isSome = true ∧ capturing { part with benches := [benchIn 2] } = true
    ∧ cutting { part with benches := [benchIn 2] } = none ∧ cutting part = none ∧ capturing part = false ∧ settled (user 0 0) part = true
    ∧ freeBenchId part = some 1 ∧ freeGen (user 0 0) = some 0 ∧ cutting seven = none ∧ capturing seven = false ∧ freeBenchId seven = none
    ∧ settled (user 0 0) seven = true := by decide
/-- A capture at its second line, and one that is done. -/
def capAt (n : Nat) (done : Bool) : Capture := { plainCapture (benched 2) (benchIn 2) with sweep := n, done := done }
def sweeping (n : Nat) (done : Bool) : State := withTile (benched 2) (fun t => { t with bench := { t.bench with colour := true, cap := some (capAt n done) } })
theorem witness_BenchSweep : (sweeping 1 false).tile.bench.cap = some (capAt 1 false) ∧ (capAt 1 false).done = false ∧ (capAt 1 false).sweep < 0x8000
    ∧ (capAt 0x7FFF false).sweep < 0x8000 ∧ (capAt 1 false).sweep % 256 ≠ 0 ∧ lineHeld (sweeping 1 false).tile (capAt 1 false) 1 = false
    ∧ (capAt 1 false).copied.find? (fun y => y.1 = 1) = none ∧ (sweeping 1 false).tile.poison = [] ∧ (sweeping 1 false).tile.soft = [] := by decide
theorem witness_BenchSeal : partnOf (sweeping 0x8000 true) 1 = some { part with benches := [benchIn 2], colour := true }
    ∧ benchOf (sweeping 0x8000 true) 1 1 = some (benchIn 2)
    ∧ sealable (sweeping 0x8000 true) { part with benches := [benchIn 2], colour := true } (benchIn 2) = true
    ∧ ∀ t ∈ allTiles (sweeping 0x8000 true), ∀ c, t.bench.cap = some c → c.channel = [] := by
  refine ⟨rfl, rfl, by decide, fun t ht c hc => ?_⟩
  have : t = (sweeping 0x8000 true).tile := by simpa [allTiles, sweeping, withTile, benched, withPart, user, State.reset] using ht
  subst this
  have : c = capAt 0x8000 true := (Option.some.inj hc).symm
  subst this
  rfl
/-- A page of a bench that an engine of a die holds. -/
def haulPage : HaulPage := { die := 0, pid := 1, id := 1, kind := 1, origin := 0, page := [] }
/-- A sealed bench with two image pages, one of whose pages are all stored, and a bench store. -/
def haulBench : Bench := { benchIn 3 with imgs := [(0, 2)], images := [(0, capAt 0x8000 true)] }
def emptied : Bench := { benchIn 4 with first := 0x8000, next := 0x8040, last := 0x10000 }
def hauling (b : Bench) : State := { withPart (user 0 0) (fun p => { p with benches := [b] }) with mgr := { Manager.ready with w2 := [(8, 0x200000)] } }
theorem witness_HaulPage : partnOf (hauling haulBench) 1 = some { part with benches := [haulBench] }
    ∧ benchOf (hauling haulBench) 1 1 = some haulBench ∧ haulable (hauling haulBench) { part with benches := [haulBench] } haulBench = true
    ∧ (placeBench (hauling haulBench) haulBench).map (fun b => (b.first, b.last)) = some (0x8000, 0x8000 + 2 * 16448)
    ∧ ((placeBench (hauling haulBench) haulBench).bind (nextPage (hauling haulBench) { part with benches := [haulBench] })).map (fun g => (g.1.die, g.1.kind, g.1.origin))
      = some (0, 1, 126 * 2 ^ 32)
    ∧ (hauling haulBench).mgr.haul.countP (fun x => x.die = 0) < 4
    ∧ (hauling haulBench).pick = 0 ∧ inHaul { hauling haulBench with mgr := { (hauling haulBench).mgr with haul := [haulPage] }, pick := 1 } 1 1 = haulPage :: []
    ∧ ({ hauling haulBench with pick := 1 } : State).pick ≠ 0 := by decide
theorem witness_HaulPage_end : partnOf (hauling emptied) 1 = some { part with benches := [emptied] } ∧ benchOf (hauling emptied) 1 1 = some emptied
    ∧ haulable (hauling emptied) { part with benches := [emptied] } emptied = true ∧ placeBench (hauling emptied) emptied = some emptied
    ∧ (nextPage (hauling emptied) { part with benches := [emptied] } emptied).isNone = true ∧ inHaul (hauling emptied) 1 1 = []
    ∧ (hauling emptied).mgr.haul = [] := by decide
theorem witness_BenchSeal_partition : (recField part.rec_ 48 1).testBit 2 = false ∧ partnOf (sweeping 0x8000 true) 1 ≠ none := by decide
/-- The images are stored: a frozen copy comes next, and then a page that is still shared. -/
theorem witness_HaulPage_order : (∀ i ∈ emptied.imgs, i.2 = 0)
    ∧ ({ emptied with frozen := [(1, 2, 3, [])] } : Bench).frozen = (1, 2, 3, []) :: []
    ∧ ({ emptied with shared := [(1, 2)] } : Bench).frozen = [] ∧ ({ emptied with shared := [(1, 2)] } : Bench).shared = (1, 2) :: [] := by decide
theorem witness_stored_page : (List.replicate 16384 (0 : Byte)).length = 16384 ∧ 0 < 4 ∧ 0 < 2 ^ 64 := ⟨List.length_replicate, by decide⟩
/-- R342: the check value of this CRC-32 over the digits 1 to 9. -/
theorem test_crc32 : crc32 [0x31, 0x32, 0x33, 0x34, 0x35, 0x36, 0x37, 0x38, 0x39] = 0xCBF43926 := by decide
/-- An LZ4 block by hand: one literal, a copy of 7 bytes from 1 back, two literals. -/
theorem test_unlz4 : unlz4 9 [0x13, 0x41, 1, 0, 0x20, 0x42, 0x43] [] = some [0x41, 0x41, 0x41, 0x41, 0x41, 0x41, 0x41, 0x41, 0x42, 0x43] := by decide
/-- A TAKE of the host waits, and no tile's request does. -/
theorem witness_BenchAccept_take :
    (partnTiles (user 0 0) 1).findSome? (fun t => (t.eng.waits.find? (fun y => y.kind = .bench)).map (fun y => (t.site, y))) = none
    ∧ ({ user 0 0 with mgr := { Manager.ready with take := some (1, 0) } } : State).mgr.take = some (1, 0) := ⟨rfl, rfl⟩
theorem witness_QuarryScrub_row : ({ State.reset with qparity := [(3, Config.dramRow 0)] } : State).qparity = [(3, Config.dramRow 0)] := rfl
/-- Partition 1 in a state with a cause. -/
def partAs (st : PartnSt) (cause : Nat) : State := withPart (user 0 0) (fun p => { p with st := st, cause := cause })
theorem witness_Containment : partnOf (partAs .containing 0x102) 1 = some { part with st := .containing, cause := 0x102 }
    ∧ causeOf { part with st := .containing, cause := 0x102 } ≠ 0x100
    ∧ roundTiles (partAs .containing 0x102) { part with st := .containing, cause := 0x102 } = [(partAs .containing 0x102).tile]
    ∧ (partAs .containing 0x102).qheld = [] := ⟨rfl, by decide, rfl, rfl⟩
theorem witness_ContainmentDrained : partnOf (partAs .contained 0x102) 1 = some { part with st := .contained, cause := 0x102 } ∧ part.sites ≠ []
    ∧ flying (partAs .contained 0x102) 1 (fun _ => true) = false ∧ (partAs .contained 0x102).mgr.boot = none
    ∧ ({ (partAs .contained 0x102).mgr with boot := some 0 } : Manager).boot.isSome = true ∧ part.benches = [] := by decide
theorem witness_PreemptionCaptured : partnOf (partAs .preempting 0) 1 = some { part with st := .preempting, cause := 0 }
    ∧ drained (partAs .preempting 0) { part with st := .preempting } = true ∧ capturing { part with st := .preempting } = false
    ∧ cutting { part with st := .preempting } = none
    ∧ (preemptBench (partAs .preempting 0) 1).isSome = true := by decide
theorem witness_PartitionEnd : partnOf (updDispatcher (user 0 0) (fun d => { d with finished := true })) 1 = some part ∧ part.st = .running
    ∧ (∀ t ∈ roundTiles (updDispatcher (user 0 0) (fun d => { d with finished := true })) part, t.disp.finished = true)
    ∧ idleFabric (updDispatcher (user 0 0) (fun d => { d with finished := true })) part = true := by decide

/-- The debug unit in a state. -/
def debugged (f : Debug → Debug) : State := withTile (user 0 0) (fun t => { t with dbg := f t.dbg })
theorem witness_TileHalt : haltWanted (debugged (fun d => { d with want := some 1 })).tile = some 1 ∧ 1 ≠ 5
    ∧ haltWanted (debugged (fun d => { d with bkpm := true })).tile = some 5 ∧ eventLooms (debugged (fun d => { d with bkpm := true })).tile = false
    ∧ (debugged (fun d => { d with bkpm := true })).tile.th.squash = 0 := by decide
/-- A halt with GANG clear and with GANG set. -/
theorem witness_haltHere : (user 0 0).tile.dbg.halted = false ∧ (cwGet (user 0 0).tile 0x200).getLsbD 5 = false
    ∧ (cwGet (withTile (user 0 0) (fun t => cwPut t 0x200 0x20)).tile 0x200).getLsbD 5 = true
    ∧ partnOf (withTile (user 0 0) (fun t => cwPut t 0x200 0x20)) 1 = some part ∧ part.halt = none := by decide
theorem witness_StepDone : (debugged (fun d => { d with stepping := true })).tile.dbg.stepping = true
    ∧ (debugged (fun d => { d with stepping := true })).tile.dbg.halted = false ∧ cwGet (debugged (fun d => { d with stepping := true })).tile 0x209 = 0 := by
  decide
/-- A gang halt asked for in cycle 0, and a resumption in cycle 64. -/
def ganged : State := { withPart (user 0 0) (fun p => { p with halt := some 0, resume := some 64 }) with cyc := 128 }
theorem witness_GangStop : partnOf ganged 1 = some { part with halt := some 0, resume := some 64 } ∧ 64 + 64 ≤ ganged.cyc
    ∧ ({ ganged with cyc := 64 } : State).cyc = 0 + 64 := by decide
/-- A site that no partition has used can be told to halt and to inject. -/
theorem witness_DbgctlHalt : 5 ∉ (user 0 0).mgr.retired ∧ (tileAt (user 0 0) 5).isNone = true
    ∧ (focus 5 (listSite (user 0 0) 5)).tile.dbg.halted = false ∧ (focus 5 (listSite (user 0 0) 5)).tile.site = 5
    ∧ ((finjStored 0x8000000000000000).getLsbD 63 = true ∧ (finjStored 0x8000000000000000).getLsbD 59 = false)
    ∧ ¬((finjStored 0x8800000000000000).getLsbD 63 = true ∧ (finjStored 0x8800000000000000).getLsbD 59 = false) := by decide
theorem witness_DbgctlStep : (debugged (fun d => { d with halted := true })).tile.dbg.halted = true
    ∧ (debugged (fun d => { d with halted := true })).tile.dbg.gang = false ∧ (user 0 0).tile.dbg.halted = false
    ∧ cwGet (withTile (debugged (fun d => { d with halted := true })) (fun t => cwPut t 0x209 1)).tile 0x209 ≠ 0
    ∧ partnOf (debugged (fun d => { d with halted := true })) 1 = some part ∧ part.resume = none := by decide
/-- An injection that waits for the bundle at address 0. -/
def armed (word : W64) : State := withTile (user 0 0) (fun t => { cwPut t 0x208 word with began := true })
theorem armed_word (k : W64) : (armed k).tile.began = true ∧ cwGet (armed k).tile 0x208 = k := by
  exact ⟨rfl, (cwGet_cwPut (user 0 0).tile 0x208 0x208 k).trans (if_pos rfl)⟩
theorem witness_injectNow : (0xA000000000000400 : W64).getLsbD 63 = true ∧ (0xA000000000000400 : W64).getLsbD 58 = false
    ∧ bitsOf (0x8000000000000000 : W64) 60 3 = 0 ∧ bitsOf (0xA000000000000400 : W64) 60 3 = 2 ∧ bitsOf (0xA000000000000400 : W64) 10 30 = 1
    ∧ bitsOf (0xB000000000000000 : W64) 60 3 = 3 ∧ bitsOf (0xC000000000000000 : W64) 60 3 = 4 ∧ bitsOf (0xD000000000000000 : W64) 60 3 = 5 := by
  and_intros <;> rfl
theorem witness_FaultInjectDeferred : (user 0 0).tile.disp.running = true ∧ (user 0 0).tile.dbg.halted = false ∧ partnRuns (user 0 0) 1 = true
    ∧ (user 0 0).tile.th.squash = 0 ∧ injectDue (withTile (user 0 0) (fun t => cwPut t 0x208 0x8800000000000000)).tile = true := by decide
/-- Tracing is on, its sink the address space of `mapped`, and 16 words wait. -/
def tracing : State := withTile { mapped with tile := (user 0 0).tile, quarry := [(0x10000, 1), (0x10002, 2), (0x20000, 7)] } (fun t => { cwPut t 0x120 0x8000000000000000 with dbg := { t.dbg with queue := List.replicate 16 0, toff := 64 } })
def tracingSink : Sink := sinkOf tracing.tile (cwGet tracing.tile 0x120)
theorem witness_TraceBatchWrite : tracing.tile.dbg.flush = [] ∧ traceOn tracing.tile = true ∧ 16 ≤ tracing.tile.dbg.queue.length
    ∧ tracingSink.off + 64 ≤ sinkSize tracingSink := by decide
/-- The pointer that a walk of those tables leaves in the walk cache. -/
def pointer : WalkEntry := ⟨0, 5, 1, 0, BitVec.ofNat 64 0x20001⟩
/-- `tracing` with another quarry memory, whatever the walk cache, the free values and the rows' counters. -/
def tracingAt (m : Memory) (held : List WalkEntry) (f : Nat) (r : Store 12) : State := { tracing with quarry := m, walkers := held, free := f, qrows := r }

/-- The two tables that lead to the leaf. -/
def tables (m : Memory) : Prop := leNat (readBytes m 0x10000 8) = 0x20001 ∧ leNat (readBytes m 0x20000 8) = 7
theorem walk_below (m : Memory) (hm : tables m) (W : List WalkEntry) (f : Nat) (r : Store 12) (q : Nat) (hq : q < 128) (got : List WalkEntry) (n : Nat) :
    ∃ r', walkFrom 0 5 q (n + 1) (tracingAt m W f r) 2 0 0x20000 got = (.leaf 7 2, tracingAt m (got ++ W) f r') := by
  have h0 : walkSel 2 q % 512 = 0 := by simp [walkSel]; omega
  obtain ⟨r', hr⟩ := readEntry_clean (tracingAt m W f r) 5 0 (0x20000 + 8 * (walkSel 2 q % 512)) rfl rfl rfl
  have hv : homeRead (tracingAt m W f r) false 0 0x20000 8 = readBytes m 0x20000 8 := rfl
  rw [h0] at hr
  refine ⟨r', ?_⟩
  unfold walkFrom
  rw [h0, hr, hv, hm.2]
  rfl
theorem walk_all (m : Memory) (hm : tables m) (W : List WalkEntry) (f : Nat) (r : Store 12) (q : Nat) (hq : q < 128) :
    ∃ r', walkFrom 0 5 q 3 (tracingAt m W f r) 1 0 0x10000 [] = (.leaf 7 2, tracingAt m (pointer :: W) f r') := by
  have h0 : walkSel 1 q = 0 := by simp [walkSel]; omega
  obtain ⟨r', hr⟩ := readEntry_clean (tracingAt m W f r) 5 0 (0x10000 + 8 * (walkSel 1 q % 512)) rfl rfl rfl
  have hv : homeRead (tracingAt m W f r) false 0 0x10000 8 = readBytes m 0x10000 8 := rfl
  rw [h0] at hr
  obtain ⟨r'', h2⟩ := walk_below m hm W f r' q hq [pointer] 1
  refine ⟨r'', ?_⟩
  unfold walkFrom
  rw [h0, hr, hv, hm.1]
  exact h2
theorem walk_root (m : Memory) (hm : tables m) (f : Nat) (r : Store 12) (q : Nat) (hq : q < 128) (s : State)
    (hs : walkHeld s 0 5 q 2 = (none, tracingAt m [] f r)) : ∃ r', walk s 0 5 q = (.leaf 7 2, tracingAt m [pointer] f r') := by
  obtain ⟨r', h⟩ := walk_all m hm [] f r q hq
  refine ⟨r', ?_⟩
  have hroot : cellGet (tracingAt m [] f r).mgr.roots 5 = BitVec.ofNat 64 0x10000 := rfl
  have h1 : entOwner (BitVec.ofNat 64 0x10000) = 0 := by decide
  have h2 : bitsOf (BitVec.ofNat 64 0x10000) 0 32 = 0x10000 := by decide
  have h3 : ¬BitVec.ofNat 64 0x10000 = 0 := by decide
  unfold walk
  rw [hs]
  simp only [hroot, h1, h2, if_neg h3]
  exact h
theorem walk_any (m : Memory) (hm : tables m) (W : List WalkEntry) (hW : W = [] ∨ W = [pointer]) (f : Nat) (r : Store 12) (q : Nat) (hq : q < 128) :
    ∃ W' f' r', (W' = [] ∨ W' = [pointer]) ∧ walk (tracingAt m W f r) 0 5 q = (.leaf 7 2, tracingAt m W' f' r') := by
  have h1 : walkSel 1 q = 0 := by simp [walkSel]; omega
  rcases hW with rfl | rfl
  · have hh : walkHeld (tracingAt m [] f r) 0 5 q 2 = (none, tracingAt m [] f r) := rfl
    obtain ⟨r', h⟩ := walk_root m hm f r q hq _ hh
    exact ⟨[pointer], f, r', .inr rfl, h⟩
  · have hh : walkHeld (tracingAt m [pointer] f r) 0 5 q 2 = if Config.walkHolds f 1 then (some pointer, tracingAt m [pointer] (f + 1) r) else (none, tracingAt m [] (f + 1) r) := by
      unfold walkHeld walkHeld walkHeld
      simp [walkCached, tracingAt, h1, pointer]
    cases hc : Config.walkHolds f 1
    · rw [hc] at hh
      obtain ⟨r', h⟩ := walk_root m hm (f + 1) r q hq _ hh
      exact ⟨[pointer], f + 1, r', .inr rfl, h⟩
    · rw [hc] at hh
      obtain ⟨r', h⟩ := walk_below m hm [pointer] (f + 1) r q hq [] 2
      refine ⟨[pointer], f + 1, r', .inr rfl, ?_⟩
      have e1 : entOwner pointer.entry = 0 := by decide
      have e2 : entAddr pointer.entry = 0x20000 := by decide
      unfold walk
      rw [hh, if_pos rfl]
      show walkFrom 0 5 q 3 (tracingAt m [pointer] (f + 1) r) 2 (entOwner pointer.entry) (entAddr pointer.entry) [] = _
      rw [e1, e2]
      exact h
theorem sinkHome_any (m : Memory) (hm : tables m) (W : List WalkEntry) (hW : W = [] ∨ W = [pointer]) (f : Nat) (r : Store 12) (k : Sink) (hk : k.ctl = 0x8000000000000000) (off : Nat) (ho : off < 128) :
    ∃ W' f' r', (W' = [] ∨ W' = [pointer]) ∧ sinkHome (tracingAt m W f r) k off = (.ok (false, 0, off), tracingAt m W' f' r') := by
  obtain ⟨W', f', r', h, hw⟩ := walk_any m hm W hW f r off ho
  refine ⟨W', f', r', h, ?_⟩
  have hb : sinkBase k + off = off := by simp [sinkBase, hk, bitsOf]
  have hl : leafHome 7 2 off = (false, 0, off) := by
    have : off % 1073741824 = off := Nat.mod_eq_of_lt (by omega)
    simp [leafHome, this, entCap, entOwner, entAddr, bitsOf]
  unfold sinkHome
  simp only [hb]
  have e : (cwGet tracing.tile 0x023).toNat = 5 := by decide
  have d : dieOf tracing.tile.site = 0 := by decide
  show (match walk (tracingAt m W f r) (dieOf tracing.tile.site) (cwGet tracing.tile 0x023).toNat off with
    | (.fail c, s) => (Except.error c, s)
    | (.leaf e level, s) => (if !entW e then .error 4 else if wayOut s (s.tile.site, endSite (homeEnd (leafHome e level off))) then .error 7 else .ok (leafHome e level off), s)) = _
  rw [e, d, hw]
  simp only [hl]
  have hw7 : entW 7 = true := by decide
  have hway : wayOut (tracingAt m W' f' r') ((tracingAt m W' f' r').tile.site, endSite (homeEnd (false, 0, off))) = false := by
    have : homeEnd (false, 0, off) = 4096 := rfl
    rw [this]
    rfl
  simp only [hw7, hway]
  rfl
theorem room_any (m : Memory) (W : List WalkEntry) (f : Nat) (r : Store 12) (a : Nat) :
    colouredRoom (tracingAt m W f r) 1 false false 0 a 64 = (tracingAt m W f r, true) := by
  have hf : flipFor (tracingAt m W f r) 1 0 false = tracingAt m W f r := rfl
  have ho : oldBench (tracingAt m W f r) 1 0 false = none := rfl
  have hz (l : List Nat) : freezeAll (tracingAt m W f r) none 0 l = (tracingAt m W f r, true) := by
    induction l with
    | nil => rfl
    | cons g l ih =>
      have : freezePage (tracingAt m W f r) none 0 g = (tracingAt m W f r, true) := rfl
      simp only [freezeAll, this, ih]
  simp only [colouredRoom, hf, ho, Option.map_none, hz]
  rfl
theorem sinkRoom_any (m : Memory) (hm : tables m) (W : List WalkEntry) (hW : W = [] ∨ W = [pointer]) (f : Nat) (r : Store 12) (k : Sink) (hk : k.ctl = 0x8000000000000000) (off : Nat) (ho : off < 128) :
    ∃ W' f' r', (W' = [] ∨ W' = [pointer]) ∧ sinkRoom (tracingAt m W f r) k off = (tracingAt m W' f' r', true) := by
  obtain ⟨W', f', r', h, hw⟩ := sinkHome_any m hm W hW f r k hk off ho
  refine ⟨W', f', r', h, ?_⟩
  unfold sinkRoom
  rw [hw]
  exact room_any m W' f' r' off
theorem sinkWrite_any (m : Memory) (hm : tables m) (W : List WalkEntry) (hW : W = [] ∨ W = [pointer]) (f : Nat) (r : Store 12) (k : Sink) (hk : k.ctl = 0x8000000000000000) (off : Nat) (ho : off < 128)
    (bs : List Byte) (hl : bs.length = 64) :
    ∃ W' f' r', (W' = [] ∨ W' = [pointer]) ∧ sinkWrite (tracingAt m W f r) k off bs = (some 0, tracingAt (writeBytes m (qAddr 0 off) bs) W' f' r') := by
  obtain ⟨W', f', r', h, hw⟩ := sinkHome_any m hm W hW f r k hk off ho
  obtain ⟨r'', hh⟩ := writeHome_clean (tracingAt m W' f' r') 5 0 off bs rfl rfl rfl
  refine ⟨W', f', r'', h, ?_⟩
  have e : (cwGet tracing.tile 0x023).toNat = 5 := by decide
  have hroom := room_any m W' f' r' off
  have hd : traceDelay (tracingAt m W' f' r') (homeEnd (false, 0, off)) = tracingAt m W' f' r' := rfl
  have hroom : colouredRoom (tracingAt m W' f' r') (tracingAt m W' f' r').tile.pid (tracingAt m W' f' r').tile.bench.colour false 0 off 64 = (tracingAt m W' f' r', true) := hroom
  have hcw : colouredWrite (tracingAt m W' f' r') 1 5 false false 0 off bs = (some 0, tracingAt (writeBytes m (qAddr 0 off) bs) W' f' r'') := by
    unfold colouredWrite
    rw [hl, room_any m W' f' r' off]
    simp only [hh]
    rfl
  have hcw' : colouredWrite (tracingAt m W' f' r') (tracingAt m W' f' r').tile.pid (cwGet tracing.tile 0x023).toNat (tracingAt m W' f' r').tile.bench.colour false 0 off bs
      = (some 0, tracingAt (writeBytes m (qAddr 0 off) bs) W' f' r'') := by rw [e]; exact hcw
  unfold sinkWrite
  rw [hw]
  simp only [hroom, hd]
  exact hcw'

theorem witness_TraceBatchWrite_sink : let k := sinkOf tracing.tile (cwGet tracing.tile 0x120)
    let next := { k with words := k.words.drop 16, off := k.off + 64 }
    ∃ v w z, sinkRoom tracing k 0 = (v, true)
      ∧ sinkWrite v k k.off ((tracing.tile.dbg.queue.take 16).map (fun y => leBytes y.toNat 4)).flatten = (some 0, w)
      ∧ sinkWrite w next 0 (sinkHeader w.tile next) = (some 0, z) := by
  intro k next
  obtain ⟨W, f, r, hW, h1⟩ := sinkRoom_any tracing.quarry ⟨by decide, by decide⟩ [] (.inl rfl) tracing.free tracing.qrows k (by decide) 0 (by decide)
  obtain ⟨W', f', r', hW', h2⟩ := sinkWrite_any tracing.quarry ⟨by decide, by decide⟩ W hW f r k (by decide) 64 (by decide)
    ((tracing.tile.dbg.queue.take 16).map (fun y => leBytes y.toNat 4)).flatten (by decide)
  obtain ⟨W'', f'', r'', -, h3⟩ := sinkWrite_any (writeBytes tracing.quarry (qAddr 0 64)
    ((tracing.tile.dbg.queue.take 16).map (fun y => leBytes y.toNat 4)).flatten) ⟨by decide, by decide⟩ W' hW' f' r' next (by decide) 0 (by decide) (sinkHeader tracing.tile next) (by decide)
  exact ⟨_, _, _, h1, h2, h3⟩
/-- The sink at its end, which wraps or is full. -/
theorem witness_sinkNext : sinkSize { tracingSink with off := 2 ^ 16 } < ({ tracingSink with off := 2 ^ 16 } : Sink).off + 64
    ∧ tracingSink.ctl.getLsbD 62 = false ∧ ({ tracingSink with ctl := 0xC000000000000000 } : Sink).ctl.getLsbD 62 = true := by decide
theorem witness_SramScrub : (user 0 0).tile.scrubbed ≠ (user 0 0).cyc / 1024 + 1 ∧ ({ (user 0 0).tile with scrubbed := 1 } : Tile).scrubbed = (user 0 0).cyc / 1024 + 1
    ∧ 7 ≠ (user 0 0).cyc / 1024 % 0x8000 := by decide
theorem witness_XbWrite : 0x1000 ≤ (0x1000 : W64).toNat / 2 ^ 12 % 2 ^ 9 * 4096 ∧ (0x10000 : W64).toNat / 2 ^ 12 % 2 ^ 9 * 4096 ≤ (cwGet (user 0 0).tile 0x011).toNat
    ∧ (0xFFF : W64).toNat / 2 ^ 12 % 2 ^ 9 * 4096 < 0x1000 ∧ (cwGet (user 0 0).tile 0x011).toNat < (0x11000 : W64).toNat / 2 ^ 12 % 2 ^ 9 * 4096 := by decide

/-! ### The host and the start -/

/-- The management block with registers. -/
def managed (w0 : Store 64) : State := { State.reset with mgr := { Manager.ready with w0 := w0 } }
theorem witness_HostRegisterWrite : w0Stored State.reset 0x108 7 = some 7 ∧ 0x108 % 8 = 0 ∧ 0x108 < 0x1000 ∧ 0x108 ≠ 0x100 ∧ State.reset.access = none
    ∧ 0x104 % 8 ≠ 0 ∧ ({ State.reset with access := some (4, 0) } : State).access ≠ none := by decide
theorem witness_CtailWrite : mayPlace State.reset = true := by decide
theorem witness_QtailWrite : 11 < 12 ∧ (0xFFFFFFFF00000001 : W64).toNat % 2 ^ 32 = ((cellGet State.reset.mgr.qtail 11).toNat + 1) % 2 ^ 32
    ∧ ((0xFFFFFFFF00000001 : W64).toNat % 2 ^ 32 + 2 ^ 32 - (cellGet State.reset.mgr.qhead 11).toNat) % 2 ^ 32 ≤ 16 := by decide
theorem witness_W3 : (w0Get State.reset 0x30).getLsbD 63 = false ∧ 0xB3FFFFF8 + 8 ≤ 0xB4000000 ∧ State.reset.partns = [] ∧ State.reset.qbad = []
    ∧ State.reset.qsoft = [] ∧ State.reset.qparity = [] ∧ 0xB3FFFFC0 + 64 ≤ 0xB4000000 ∧ 0xB3FFFFC0 % 64 = 0
    ∧ ({ State.reset with access := some (64, 7) } : State).access = some (64, 7) ∧ qAddr 0 64 / 64 ∈ ({ State.reset with qbad := [1] } : State).qbad := by decide
/-- A bench under way shares the page that the aperture would write, or another page. -/
theorem witness_W3_keeps : (∃ p ∈ (withPart (user 0 0) (fun p => { p with benches := [{ benchIn 2 with shared := [(0, 0)] }] })).partns, ∃ y ∈ p.benches,
      (y.st = 1 ∨ y.st = 2) ∧ (0, 64 / 2 ^ 14) ∈ y.shared)
    ∧ ∀ p ∈ (withPart (user 0 0) (fun p => { p with benches := [{ benchIn 2 with shared := [(0, 0)] }] })).partns, ∀ y ∈ p.benches,
      y.st = 1 ∨ y.st = 2 → (0, 0x10000 / 2 ^ 14) ∉ y.shared := by decide
theorem witness_commands_busy : cmdBusy (managed [(0x128, 0x8000000000000000)]) = true ∧ cmdBusy State.reset = false := by decide
/-- Partition 1 named by ARG0. -/
def naming (f : Partn → Partn) : State := { withPart (user 0 0) f with mgr := { Manager.ready with w0 := [(0x108, 1)] } }
theorem witness_commands_partition : argPartn (naming id) = some part ∧ argPartn (naming (fun p => { p with halt := some 3 })) = some { part with halt := some 3 }
    ∧ isOptPartn { part with rec_ := BitVec.ofNat 512 (2 ^ 24) } = true ∧ part.rounds = 0
    ∧ argPartn (naming (fun p => { p with rec_ := BitVec.ofNat 512 (2 ^ 24) })) = some { part with rec_ := BitVec.ofNat 512 (2 ^ 24) } := by decide
theorem witness_commands_arguments : 0 < (arg0 (managed [(0x108, 4095)])).toNat ∧ (arg0 (managed [(0x108, 4095)])).toNat < 4096
    ∧ (∀ p ∈ (naming id).partns, p.sites.isEmpty = true ∨ lQasid p.rec_ ≠ 4095)
    ∧ State.reset.mgr.retired.contains 5 = false ∧ (arg0 (managed [(0x108, 15), (0x110, 65535)])).toNat < 16
    ∧ (arg1 (managed [(0x108, 15), (0x110, 65535)])).toNat ≠ modIdx (managed [(0x108, 15), (0x110, 65535)])
    ∧ State.reset.mgr.portsOut.contains 15 = false ∧ (arg1 (managed [(0x110, 32)])).toNat = 32 ∧ (arg0 (managed [(0x108, 3)])).toNat = 3
    ∧ (∀ p ∈ State.reset.partns, existsNow p = false) := by decide
/-- An image registered under number 64, used by no partition. -/
theorem witness_images : imageUsed State.reset 64 = false
    ∧ ({ Manager.ready with images := [(64, 0, 0x10000, 0x200)] } : Manager).images.any (fun p => p.1 = 64) = true := by decide
/-- An image of a header alone: magic, version 1, no section. -/
theorem witness_imgreg : imageOk { State.reset with quarry := writeBytes [] 0x10000 (leBytes 0x000000014B545349 8) } (qAddr 0 0x10000) 64 = true := by decide
theorem witness_QinvalAcknowledge : ({ Manager.ready with inval := some 5 } : Manager).inval = some 5 ∧ ∀ t ∈ allTiles State.reset, t.eng.reqs = [] := by decide
theorem witness_imgreg_range : 0xB4000000 < 0xB3FFFFF0 + 64 ∧ 0x10000 + 64 ≤ 0xB4000000 ∧ (readBlocks State.reset 0 false 0 0x10000 64).1 = false
    ∧ imageOk State.reset (qAddr 0 0x10000) 64 = false := ⟨by decide, by decide, by decide, by decide +kernel⟩
theorem witness_Pset : w0Get State.reset 0x300 ≠ 3 ∧ (arg0 State.reset).toNat = 0 := by decide
/-- A directory with a hauled bench. -/
def stocked : State := { State.reset with mgr := { Manager.ready with dir := [{ rec_ := 0, pid := 9, bench := benchIn 5, st := 5, kept := false }] } }
theorem witness_bench_commands : (w2Get stocked 0x28).getLsbD 63 = false ∧ (w2Get stocked 0x20).getLsbD 63 = false
    ∧ stocked.mgr.dir[(w2Get stocked 0x18).toNat]? = some { rec_ := 0, pid := 9, bench := benchIn 5, st := 5, kept := false }
    ∧ benchOf stocked 9 1 = none ∧ partnOf (user 0 0) 1 ≠ none := by decide
/-- The boot partition contained, and ended. -/
def booting (st : PartnSt) (sites : List Nat) : State :=
  { withPart (user 0 0) (fun p => { p with st := st, sites := sites }) with mgr := { Manager.ready with boot := some 0, bootPid := 1 } }
theorem witness_BootCheck : (booting .contained []).mgr.boot = some 0 ∧ (booting .contained []).mgr.bootPid = 1 ∧ partnOf (booting .contained []) 1 = some { part with st := .contained, sites := [] }
    ∧ partnOf (booting .captured [0]) 1 = some { part with st := .captured, sites := [0] } := by decide

/-- R430, R40: RDW x3, TILEID and LDH1 x4, 1, filled up with no-operations, the stop bit in the last; the words by hand from the encoding tables. -/
theorem test_boot_first_bundle : (bootStart.map layBundle).head? = some [0x1C030007, 0x12040001, 0x01000000, 0x81000000] := by decide

/-! ### The tile in focus -/

/-- Each witness above that names a step at a site has its tile in focus. -/
theorem witness_sites : atSite interrupted 0 interrupted ∧ atSite reported 0 reported ∧ atSite stopped 0 stopped ∧ atSite replied 0 replied
    ∧ atSite meeting 0 meeting ∧ atSite (sweeping 1 false) 0 (sweeping 1 false) ∧ atSite (preempted true) 0 (preempted true)
    ∧ atSite fencing 0 fencing ∧ atSite tracing 0 tracing ∧ atSite undoing 0 undoing ∧ atSite closed 0 closed ∧ atSite shutOut 0 shutOut
    ∧ atSite antiFull 0 antiFull ∧ atSite (restored crowded) 0 (restored crowded) ∧ atSite (haloAt []) 0 (haloAt []) ∧ atSite (benched 1) 0 (benched 1) :=
  ⟨here rfl, here rfl, here rfl, here rfl, here rfl, here rfl, here rfl, here rfl, here rfl, here rfl, here rfl, here rfl, here rfl, here rfl, here rfl, here rfl⟩

end Sys2Proof.Tests
end

/-! PROOFS. What it takes for every memory to be in canonical form: the parts of the state that hold memories, and the updates that keep them. -/

namespace Sys2Proof.Machine

open Sys2Proof

/-! ## The memories of a state, of a tile and of a bench -/

/-- The images of a partition's benches are in canonical form. -/
def partnWf (p : Partn) : Bool := p.benches.all benchWf

/-- Every state that an outcome goes on to has its memories in canonical form. -/
def OutWf (o : Out) : Prop := ∀ t, o = .next t → memoryWf t = true

/-- The parts of a state that hold memories, each in canonical form. -/
structure PartsWf (s : State) : Prop where
  quarry : s.quarry.wf = true
  cap : s.cap.wf = true
  tile : tileWf s.tile = true
  rest : ∀ t ∈ s.rest, tileWf t = true
  partns : ∀ p ∈ s.partns, partnWf p = true
  dir : ∀ e ∈ s.mgr.dir, benchWf e.bench = true

/-- The outcome of a slot: a state that differs in the issue group of the tile in focus at most (R30). -/
def Gathers (s : State) (o : Out) : Prop := ∃ t, o = .next t ∧ issueOnly s t

theorem memoryWf_iff {s : State} : memoryWf s = true ↔ PartsWf s := by
  simp only [memoryWf, allTiles, Bool.and_eq_true, List.all_eq_true, List.forall_mem_cons]
  constructor
  · rintro ⟨⟨⟨⟨hq, hc⟩, ht, hr⟩, hp⟩, hd⟩
    exact ⟨hq, hc, ht, hr, fun p h => List.all_eq_true.2 (hp p h), hd⟩
  · intro h
    exact ⟨⟨⟨⟨h.quarry, h.cap⟩, h.tile, h.rest⟩, fun p hp => List.all_eq_true.1 (h.partns p hp)⟩, h.dir⟩

theorem memoryWf_parts {s : State} (h : memoryWf s = true) : PartsWf s := memoryWf_iff.1 h

theorem memoryWf_tile {s : State} (h : memoryWf s = true) : tileWf s.tile = true := (memoryWf_parts h).tile

theorem memoryWf_rest {s : State} (h : memoryWf s = true) : ∀ t ∈ s.rest, tileWf t = true := (memoryWf_parts h).rest

theorem memoryWf_partn {s : State} (h : memoryWf s = true) : ∀ p ∈ s.partns, partnWf p = true := (memoryWf_parts h).partns

theorem memoryWf_entry {s : State} (h : memoryWf s = true) : ∀ e ∈ s.mgr.dir, benchWf e.bench = true := (memoryWf_parts h).dir

theorem memoryWf_quarry_wf {s : State} (h : memoryWf s = true) : s.quarry.wf = true := (memoryWf_parts h).quarry

theorem memoryWf_cap_wf {s : State} (h : memoryWf s = true) : s.cap.wf = true := (memoryWf_parts h).cap

/-- A change of what holds no memory. -/
theorem memoryWf_frame {s : State} {cyc net outPort qheld qbad qsoft qparity qrows qscrub walkers copies cxl pairs mgr agenda
    todo pick access free} (h : memoryWf s = true) (hd : mgr.dir = s.mgr.dir) :
    memoryWf ⟨s.tile, s.rest, cyc, net, outPort, qheld, s.quarry, qbad, qsoft, qparity, qrows, qscrub, walkers, copies, cxl, s.cap, s.partns, pairs, mgr,
      agenda, todo, pick, access, free⟩ = true := by
  rw [memoryWf_iff] at h ⊢
  exact { h with dir := hd ▸ h.dir }

/-- A change of the tile in focus, and of what holds no memory. -/
theorem memoryWf_put {s : State} {t : Tile} {cyc net outPort qheld qbad qsoft qparity qrows qscrub
    walkers copies cxl pairs mgr agenda todo pick access free} (h : memoryWf s = true) (ht : tileWf t = true) (hd : mgr.dir = s.mgr.dir) :
    memoryWf ⟨t, s.rest, cyc, net, outPort, qheld, s.quarry, qbad, qsoft, qparity, qrows, qscrub, walkers, copies, cxl, s.cap, s.partns, pairs, mgr,
      agenda, todo, pick, access, free⟩ = true := by
  rw [memoryWf_iff] at h ⊢
  exact { h with tile := ht, dir := hd ▸ h.dir }

/-- New quarry memory in canonical form. -/
theorem memoryWf_quarry {s : State} {q : Memory} {cyc net outPort qheld qbad qsoft qparity qrows qscrub
    walkers copies cxl pairs mgr agenda todo pick access free} (h : memoryWf s = true) (hq : q.wf = true) (hd : mgr.dir = s.mgr.dir) :
    memoryWf ⟨s.tile, s.rest, cyc, net, outPort, qheld, q, qbad, qsoft, qparity, qrows, qscrub, walkers, copies, cxl, s.cap, s.partns, pairs, mgr,
      agenda, todo, pick, access, free⟩ = true := by
  rw [memoryWf_iff] at h ⊢
  exact { h with quarry := hq, dir := hd ▸ h.dir }

/-- New expander memory in canonical form. -/
theorem memoryWf_cap {s : State} {m : Memory} (h : memoryWf s = true) (hm : m.wf = true) : memoryWf { s with cap := m } = true := by
  rw [memoryWf_iff] at h ⊢
  exact { h with cap := hm }

/-- New partitions whose images are in canonical form, and a change of what holds no memory. -/
theorem memoryWf_partns {s : State} {ps : List Partn} {cyc net outPort qheld qbad qsoft
    qparity qrows qscrub walkers copies cxl pairs mgr agenda todo pick access free} (h : memoryWf s = true) (hp : ∀ p ∈ ps, partnWf p = true)
    (hd : mgr.dir = s.mgr.dir) :
    memoryWf ⟨s.tile, s.rest, cyc, net, outPort, qheld, s.quarry, qbad, qsoft, qparity, qrows, qscrub, walkers, copies, cxl, s.cap, ps, pairs, mgr,
      agenda, todo, pick, access, free⟩ = true := by
  rw [memoryWf_iff] at h ⊢
  exact { h with partns := hp, dir := hd ▸ h.dir }

/-- A new directory of benches whose images are in canonical form. -/
theorem memoryWf_dir {s : State} {m : Manager} (h : memoryWf s = true) (hm : ∀ e ∈ m.dir, benchWf e.bench = true) :
    memoryWf { s with mgr := m } = true := by
  rw [memoryWf_iff] at h ⊢
  exact { h with dir := hm }

/-! ## Choices -/

theorem memoryWf_ite {s t : State} {c : Prop} [Decidable c] (h : memoryWf s = true) (g : memoryWf t = true) :
    memoryWf (if c then s else t) = true := by
  split
  · exact h
  · exact g

theorem tileWf_ite {t u : Tile} {c : Prop} [Decidable c] (h : tileWf t = true) (g : tileWf u = true) : tileWf (if c then t else u) = true := by
  split
  · exact h
  · exact g

theorem memoryWf_getD {s : State} {o : Option State} (h : ∀ t ∈ o, memoryWf t = true) (g : memoryWf s = true) : memoryWf (o.getD s) = true := by
  cases o with
  | none => exact g
  | some t => exact h t rfl

theorem outWf_fault {f : Fault} : OutWf (.fault f) := fun _ e => nomatch e

theorem outWf_refused {r : Refusal} : OutWf (.refused r) := fun _ e => nomatch e

theorem outWf_next {s : State} (h : memoryWf s = true) : OutWf (.next s) := fun _ e => by
  cases e
  exact h

theorem outWf_ite {o p : Out} {c : Prop} [Decidable c] (h : OutWf o) (g : OutWf p) : OutWf (if c then o else p) := by
  split
  · exact h
  · exact g

/-! ## A state beside other results -/

theorem memoryWf_of_snd {α : Type} {s : State} {a : α} {p : α × State} (h : memoryWf p.2 = true) (e : p = (a, s)) : memoryWf s = true := by
  subst e
  exact h

theorem memoryWf_of_fst {α : Type} {s : State} {a : α} {p : State × α} (h : memoryWf p.1 = true) (e : p = (s, a)) : memoryWf s = true := by
  subst e
  exact h

theorem memoryWf_of_third {α β : Type} {s : State} {a : α} {b : β} {p : α × β × State} (h : memoryWf p.2.2 = true) (e : p = (a, b, s)) :
    memoryWf s = true := by
  subst e
  exact h

theorem memoryWf_snd_ite {α : Type} {p q : α × State} {c : Prop} [Decidable c] (h : memoryWf p.2 = true) (g : memoryWf q.2 = true) :
    memoryWf (if c then p else q).2 = true := by
  split
  · exact h
  · exact g

/-! ## Many steps in a row -/

theorem memoryWf_foldl {α : Type} {f : State → α → State} (l : List α) {s : State} (h : memoryWf s = true)
    (hf : ∀ s a, memoryWf s = true → memoryWf (f s a) = true) : memoryWf (l.foldl f s) = true := by
  induction l generalizing s with
  | nil => exact h
  | cons a l ih => exact ih (hf s a h)

/-- Steps over the members of a list with a property. -/
theorem memoryWf_foldl_mem {α : Type} {f : State → α → State} {l : List α} {P : α → Prop} {s : State} (h : memoryWf s = true) (hl : ∀ a ∈ l, P a)
    (hf : ∀ s a, P a → memoryWf s = true → memoryWf (f s a) = true) : memoryWf (l.foldl f s) = true := by
  induction l generalizing s with
  | nil => exact h
  | cons a l ih =>
    obtain ⟨ha, hl⟩ := List.forall_mem_cons.1 hl
    exact ih (hf s a ha h) hl

theorem tileWf_foldl {α : Type} {f : Tile → α → Tile} (l : List α) {t : Tile} (h : tileWf t = true)
    (hf : ∀ t a, tileWf t = true → tileWf (f t a) = true) : tileWf (l.foldl f t) = true := by
  induction l generalizing t with
  | nil => exact h
  | cons a l ih => exact ih (hf t a h)

/-- Steps that carry a second result beside the state. -/
theorem memoryWf_foldl_fst {α β : Type} {f : State × β → α → State × β} (l : List α) {p : State × β} (h : memoryWf p.1 = true)
    (hf : ∀ p a, memoryWf p.1 = true → memoryWf (f p a).1 = true) : memoryWf (l.foldl f p).1 = true := by
  induction l generalizing p with
  | nil => exact h
  | cons a l ih => exact ih (hf p a h)

/-- Steps that carry a first result beside the state. -/
theorem memoryWf_foldl_snd {α β : Type} {f : β × State → α → β × State} (l : List α) {p : β × State} (h : memoryWf p.2 = true)
    (hf : ∀ p a, memoryWf p.2 = true → memoryWf (f p a).2 = true) : memoryWf (l.foldl f p).2 = true := by
  induction l generalizing p with
  | nil => exact h
  | cons a l ih => exact ih (hf p a h)

/-! ## Tiles and captures -/

/-- A change of a tile that touches neither SRAM nor the capture in progress. -/
theorem tileWf_frame {t : Tile} {site pid th sup cw poison soft stale haloOld mbLate ltsb frozen asyncs began hold64 idle stall
    scrubbed budgetAt budgetUsed iss eng rt disp vt bench dbg} (h : tileWf t = true) (hb : bench.cap = t.bench.cap) :
    tileWf ⟨site, pid, th, sup, cw, t.mem, poison, soft, stale, haloOld, mbLate, ltsb, frozen, asyncs, began, hold64, idle, stall, scrubbed, budgetAt,
      budgetUsed, iss, eng, rt, disp, vt, bench, dbg⟩ = true := by
  simpa only [tileWf, hb] using h

theorem tileWf_iff {t : Tile} : tileWf t = true ↔ t.mem.wf = true ∧ ∀ c ∈ t.bench.cap, captureWf c = true := by
  cases e : t.bench.cap <;> simp [tileWf, e]

theorem tileWf_cap {t : Tile} (h : tileWf t = true) : ∀ c ∈ t.bench.cap, captureWf c = true := (tileWf_iff.1 h).2

/-- A new capture in progress whose image is in canonical form, or none. -/
theorem tileWf_capture {t : Tile} {bench : BenchUnit} {site pid th sup cw poison soft stale haloOld mbLate ltsb frozen asyncs began hold64 idle stall
    scrubbed budgetAt budgetUsed iss eng rt disp vt dbg} (h : tileWf t = true) (hc : ∀ c ∈ bench.cap, captureWf c = true) :
    tileWf ⟨site, pid, th, sup, cw, t.mem, poison, soft, stale, haloOld, mbLate, ltsb, frozen, asyncs, began, hold64, idle, stall, scrubbed, budgetAt,
      budgetUsed, iss, eng, rt, disp, vt, bench, dbg⟩ = true := tileWf_iff.2 ⟨(tileWf_iff.1 h).1, hc⟩

theorem tileWf_empty : ∀ c ∈ BenchUnit.empty.cap, captureWf c = true := fun _ e => nomatch e

/-- A tile of which SRAM and the capture are in canonical form. -/
theorem tileWf_mk {mem : Memory} {bench : BenchUnit} {site pid th sup cw poison soft stale haloOld mbLate ltsb frozen asyncs began hold64 idle stall
    scrubbed budgetAt budgetUsed iss eng rt disp vt dbg} (hm : mem.wf = true) (hc : ∀ c ∈ bench.cap, captureWf c = true) :
    tileWf ⟨site, pid, th, sup, cw, mem, poison, soft, stale, haloOld, mbLate, ltsb, frozen, asyncs, began, hold64, idle, stall, scrubbed, budgetAt,
      budgetUsed, iss, eng, rt, disp, vt, bench, dbg⟩ = true := tileWf_iff.2 ⟨hm, hc⟩

theorem captureWf_img {c : Capture} (h : captureWf c = true) : c.img.wf = true := h

theorem wf_nil : Memory.wf [] = true := rfl

/-- A capture whose image is in canonical form. -/
theorem captureWf_mk {id gen th sup cw poison soft stale ltsb frozen asyncs hold64 idle eng rt disp vt cyc pre waitRegs preId copied sweep img channel
    done seg skipSends skipDefers} (h : Memory.wf img = true) :
    captureWf ⟨id, gen, th, sup, cw, poison, soft, stale, ltsb, frozen, asyncs, hold64, idle, eng, rt, disp, vt, cyc, pre, waitRegs, preId, copied,
      sweep, img, channel, done, seg, skipSends, skipDefers⟩ = true := h

theorem captureWf_ite {a b : Capture} {c : Prop} [Decidable c] (h : captureWf a = true) (g : captureWf b = true) :
    captureWf (if c then a else b) = true := by
  split
  · exact h
  · exact g

theorem wf_foldl {α : Type} {f : Memory → α → Memory} (l : List α) {m : Memory} (h : m.wf = true)
    (hf : ∀ m a, m.wf = true → (f m a).wf = true) : (l.foldl f m).wf = true := by
  induction l generalizing m with
  | nil => exact h
  | cons a l ih => exact ih (hf m a h)

theorem captureWf_foldl {α : Type} {f : Capture → α → Capture} (l : List α) {c : Capture} (h : captureWf c = true)
    (hf : ∀ c a, captureWf c = true → captureWf (f c a) = true) : captureWf (l.foldl f c) = true := by
  induction l generalizing c with
  | nil => exact h
  | cons a l ih => exact ih (hf c a h)

/-! ## Benches and partitions -/

theorem benchWf_iff {b : Bench} : benchWf b = true ↔ ∀ i ∈ b.images, captureWf i.2 = true := List.all_eq_true

theorem partnWf_iff {p : Partn} : partnWf p = true ↔ ∀ b ∈ p.benches, benchWf b = true := List.all_eq_true

theorem partnWf_benches {p : Partn} (h : partnWf p = true) : ∀ b ∈ p.benches, benchWf b = true := partnWf_iff.1 h

theorem benchWf_images {b : Bench} (h : benchWf b = true) : ∀ i ∈ b.images, captureWf i.2 = true := benchWf_iff.1 h

/-- A bench with images in canonical form. -/
theorem benchWf_mk {images : List (Nat × Capture)} {id gen st cutVt cut held stored frozen shared store imgs
    acks due waitB seq first next last} (h : ∀ i ∈ images, captureWf i.2 = true) :
    benchWf ⟨id, gen, st, cutVt, cut, held, stored, images, frozen, shared, store, imgs, acks, due, waitB, seq, first, next, last⟩ = true :=
  benchWf_iff.2 h

/-- A change of a bench that leaves its images. -/
theorem benchWf_frame {b : Bench} {id gen st cutVt cut held stored frozen shared store imgs acks due waitB seq first next last} (h : benchWf b = true) :
    benchWf ⟨id, gen, st, cutVt, cut, held, stored, b.images, frozen, shared, store, imgs, acks, due, waitB, seq, first, next, last⟩ = true := h

/-- A partition with benches whose images are in canonical form. -/
theorem partnWf_mk {benches : List Bench} {pid rec_ st sites round rounds gvt quiet roundAt domain nextBench keep
    colour halt resume again cause launched from_ restored} (h : ∀ b ∈ benches, benchWf b = true) :
    partnWf ⟨pid, rec_, st, sites, round, rounds, gvt, quiet, roundAt, domain, benches, nextBench, keep, colour, halt, resume, again, cause, launched,
      from_, restored⟩ = true := partnWf_iff.2 h

/-- A change of a partition that leaves its benches. -/
theorem partnWf_frame {p : Partn} {pid rec_ st sites round rounds gvt quiet roundAt domain nextBench keep colour halt resume
    again cause launched from_ restored} (h : partnWf p = true) :
    partnWf ⟨pid, rec_, st, sites, round, rounds, gvt, quiet, roundAt, domain, p.benches, nextBench, keep, colour, halt, resume, again, cause, launched,
      from_, restored⟩ = true := h

theorem partnWf_ite {p q : Partn} {c : Prop} [Decidable c] (h : partnWf p = true) (g : partnWf q = true) : partnWf (if c then p else q) = true := by
  split
  · exact h
  · exact g

theorem benchWf_zero : benchWf Bench.zero = true := rfl

theorem benchWf_foldl {α : Type} {f : Bench → α → Bench} (l : List α) {b : Bench} (h : benchWf b = true)
    (hf : ∀ b a, benchWf b = true → benchWf (f b a) = true) : benchWf (l.foldl f b) = true := by
  induction l generalizing b with
  | nil => exact h
  | cons a l ih => exact ih (hf b a h)

theorem benchWf_ite {a b : Bench} {c : Prop} [Decidable c] (h : benchWf a = true) (g : benchWf b = true) : benchWf (if c then a else b) = true := by
  split
  · exact h
  · exact g

/-! ## Members -/

section
variable {α β : Type} {P : α → Prop}

theorem forall_some {a : α} (h : P a) : ∀ r ∈ some a, P r := fun _ e => Option.some.inj e ▸ h

theorem forall_none : ∀ r ∈ (none : Option α), P r := fun _ e => nomatch e

theorem forall_opt_ite {o p : Option α} {c : Prop} [Decidable c] (h : ∀ r ∈ o, P r) (g : ∀ r ∈ p, P r) : ∀ r ∈ if c then o else p, P r := by
  split
  · exact h
  · exact g

/-- A map over an optional value that keeps the property. -/
theorem forall_opt_map_of {o : Option α} {f : α → α} (h : ∀ r ∈ o, P r) (hf : ∀ a, P a → P (f a)) : ∀ r ∈ o.map f, P r := fun _ e =>
  let ⟨a, ha, hr⟩ := Option.map_eq_some_iff.1 e
  hr ▸ hf a (h a ha)

theorem forall_opt_map {o : Option β} {f : β → α} (hf : ∀ b, P (f b)) : ∀ r ∈ o.map f, P r := fun _ e =>
  let ⟨b, _, hr⟩ := Option.map_eq_some_iff.1 e
  hr ▸ hf b

/-- Steps that each may stop, and keep the property of what they go on with. -/
theorem forall_foldl_bind {f : β → α → Option α} {l : List β} {o : Option α} (h : ∀ r ∈ o, P r) (hf : ∀ b a, P a → ∀ r ∈ f b a, P r) :
    ∀ r ∈ l.foldl (fun o b => o.bind (f b)) o, P r := by
  induction l generalizing o with
  | nil => exact h
  | cons b l ih => exact ih fun r e => let ⟨a, ha, hr⟩ := Option.bind_eq_some_iff.1 e; hf b a (h a ha) r hr

theorem forall_find {l : List α} {p : α → Bool} (h : ∀ r ∈ l, P r) : ∀ r ∈ l.find? p, P r := fun r e => h r (List.mem_of_find?_eq_some e)

theorem forall_filter {l : List α} {p : α → Bool} (h : ∀ r ∈ l, P r) : ∀ r ∈ l.filter p, P r := fun r e => h r (List.mem_filter.1 e).1

theorem forall_cons {a : α} {l : List α} (g : P a) (h : ∀ r ∈ l, P r) : ∀ r ∈ a :: l, P r := List.forall_mem_cons.2 ⟨g, h⟩

theorem forall_nil : ∀ r ∈ ([] : List α), P r := fun _ e => nomatch e

theorem forall_set {l : List α} {i : Nat} {a : α} (h : ∀ r ∈ l, P r) (g : P a) : ∀ r ∈ l.set i a, P r := fun r e =>
  (List.mem_or_eq_of_mem_set e).elim (h r) (· ▸ g)

theorem forall_append {l k : List α} (h : ∀ r ∈ l, P r) (g : ∀ r ∈ k, P r) : ∀ r ∈ l ++ k, P r := fun r e =>
  (List.mem_append.1 e).elim (h r) (g r)

/-- A map over members that each keep the property. -/
theorem forall_map {l : List α} {f : α → α} (h : ∀ r ∈ l, P r) (hf : ∀ a, P a → P (f a)) : ∀ r ∈ l.map f, P r := fun _ e =>
  let ⟨a, ha, hr⟩ := List.mem_map.1 e
  hr ▸ hf a (h a ha)

end

theorem memoryWf_quarry_write {s : State} (h : memoryWf s = true) (a : Nat) (bs : List Byte) : (writeBytes s.quarry a bs).wf = true :=
  writeBytes_wf a bs (memoryWf_quarry_wf h)

end Sys2Proof.Machine

/-! PROOFS. The shared operations keep every memory in canonical form. -/

namespace Sys2Proof.Machine

open Sys2Proof

/-! ## Tiles and partitions of a state -/

theorem memoryWf_allTiles {s : State} (h : memoryWf s = true) : ∀ t ∈ allTiles s, tileWf t = true :=
  forall_cons (memoryWf_tile h) (memoryWf_rest h)

theorem partnOf_wf {s : State} {pid : Nat} (h : memoryWf s = true) : ∀ p ∈ partnOf s pid, partnWf p = true :=
  forall_find (memoryWf_partn h)

/-- New tiles in canonical form, and a change of what holds no memory. -/
theorem memoryWf_tiles {s : State} {t : Tile} {r : List Tile} (h : memoryWf s = true) (ht : tileWf t = true) (hr : ∀ u ∈ r, tileWf u = true)
    {cyc net outPort qheld qbad qsoft qparity qrows qscrub walkers copies cxl pairs mgr agenda todo pick access free}
    (hd : mgr.dir = s.mgr.dir) :
    memoryWf ⟨t, r, cyc, net, outPort, qheld, s.quarry, qbad, qsoft, qparity, qrows, qscrub, walkers, copies, cxl, s.cap, s.partns, pairs, mgr,
      agenda, todo, pick, access, free⟩ = true := by
  rw [memoryWf_iff] at h ⊢
  exact { h with tile := ht, rest := hr, dir := hd ▸ h.dir }

theorem focus_wf {site : Nat} {s : State} (h : memoryWf s = true) : memoryWf (focus site s) = true := by
  unfold focus
  split
  · exact h
  · split
    next t e =>
      exact memoryWf_tiles h (forall_find (memoryWf_rest h) t e) (forall_cons (memoryWf_tile h) (forall_filter (memoryWf_rest h))) rfl
    · exact h

theorem mapTile_wf {s : State} {site : Nat} {f : Tile → Tile} (h : memoryWf s = true) (hf : ∀ t, tileWf t = true → tileWf (f t) = true) :
    memoryWf (mapTile s site f) = true :=
  memoryWf_ite (memoryWf_put h (hf _ (memoryWf_tile h)) rfl)
    (memoryWf_tiles h (memoryWf_tile h) (forall_map (memoryWf_rest h) fun t ht => tileWf_ite (hf t ht) ht) rfl)

theorem mapPartn_wf {s : State} {pid : Nat} {f : Tile → Tile} (h : memoryWf s = true) (hf : ∀ t, tileWf t = true → tileWf (f t) = true) :
    memoryWf (mapPartn s pid f) = true :=
  memoryWf_tiles h (tileWf_ite (hf _ (memoryWf_tile h)) (memoryWf_tile h))
    (forall_map (memoryWf_rest h) fun t ht => tileWf_ite (hf t ht) ht) rfl

theorem mapPart_wf {s : State} {pid : Nat} {f : Partn → Partn} (h : memoryWf s = true) (hf : ∀ p, partnWf p = true → partnWf (f p) = true) :
    memoryWf (mapPart s pid f) = true :=
  memoryWf_partns h (forall_map (memoryWf_partn h) fun p hp => partnWf_ite (hf p hp) hp) rfl

/-! ## Control words, images and completion words -/

theorem cwPut_wf {t : Tile} {n : ℕ} {v : W64} (h : tileWf t = true) : tileWf (cwPut t n v) = true := tileWf_ite (tileWf_frame h rfl) (tileWf_frame h rfl)

theorem traceOpen_wf {t : Tile} {old new : W64} {now : ℕ} (h : tileWf t = true) : tileWf (traceOpen t old new now) = true :=
  tileWf_ite (tileWf_frame h rfl) (tileWf_ite (tileWf_frame h rfl) h)

theorem cwWrite_wf {t : Tile} {n : ℕ} {v : W64} {now : ℕ} (h : tileWf t = true) : tileWf (cwWrite t n v now) = true :=
  tileWf_ite (traceOpen_wf (cwPut_wf h)) (tileWf_ite (tileWf_frame (cwPut_wf h) rfl) (cwPut_wf h))

theorem framePoke_wf {t : Tile} {base : ℕ} {r : Reg} {w : W64} (h : tileWf t = true) : tileWf (framePoke t base r w) = true := sramWrite_wf _ _ _ h

theorem imagePut_wf {m : Memory} {c : Capture} {bs : List (Nat × Byte)} (h : captureWf c = true) : captureWf (imagePut m c bs) = true := by
  refine captureWf_foldl _ h fun c l hc => ?_
  split
  · exact captureWf_mk (cellSets_wf _ (captureWf_img hc))
  · exact captureWf_mk (captureWf_img hc)

theorem imageTok_wf {t : Tile} {c : Capture} {uid : ℕ} {r : Reg} {w : W64} {tok : Bool} {now : ℕ} (hc : captureWf c = true) :
    captureWf (imageTok t c uid r w tok now) = true := by
  refine captureWf_ite (captureWf_mk (captureWf_img hc)) ?_
  split
  · exact imagePut_wf (captureWf_mk (captureWf_img hc))
  · split
    · exact captureWf_ite (imagePut_wf (captureWf_mk (captureWf_img hc))) hc
    · exact hc

theorem imageWord_wf {t : Tile} {uid : ℕ} {r : Reg} {w : W64} {tok : Bool} {now : ℕ} (h : tileWf t = true) :
    tileWf (imageWord t uid r w tok now) = true := by
  unfold imageWord
  split
  · exact h
  next e => exact tileWf_ite (tileWf_capture h (forall_some (imageTok_wf (captureWf_mk (captureWf_img (tileWf_cap h _ e)))))) h

theorem complete_wf {t : Tile} {uid : ℕ} {r : Reg} {w : W64} {tok : Bool} {now : ℕ} (h : tileWf t = true) :
    tileWf (complete t uid r w tok now) = true := by
  refine tileWf_ite h (tileWf_ite (tileWf_frame (imageWord_wf h) rfl) ?_)
  split
  · exact framePoke_wf (tileWf_frame (imageWord_wf h) rfl)
  · split
    · exact tileWf_ite (framePoke_wf (tileWf_frame (imageWord_wf h) rfl)) (imageWord_wf h)
    · exact imageWord_wf h

/-! ## Landings -/

theorem raiseAsync_wf {t : Tile} {code : ℕ} {tval : W64} (h : tileWf t = true) : tileWf (raiseAsync t code tval) = true :=
  tileWf_ite h (tileWf_frame h rfl)

theorem shortAt_wf {t : Tile} {region used : ℕ} (h : tileWf t = true) : tileWf (shortAt t region used) = true :=
  tileWf_ite (raiseAsync_wf h) (tileWf_frame h rfl)

theorem mbLand_wf {t : Tile} {n : ℕ} {v : W64} {now : ℕ} (h : tileWf t = true) : tileWf (mbLand t n v now) = true := cwPut_wf (cwWrite_wf h)

theorem landTile_wf {t : Tile} {r : Res} {now : ℕ} (h : tileWf t = true) : tileWf (landTile t r now) = true := by
  unfold landTile
  split
  · exact tileWf_ite (mbLand_wf h) (cwWrite_wf h)
  · exact sramWrite_wf _ _ _ h
  · exact tileWf_ite (raiseAsync_wf (tileWf_frame h rfl)) (tileWf_frame h rfl)
  · exact tileWf_frame h rfl

theorem landDue_wf {t : Tile} {f : Flight} {now : ℕ} (h : tileWf t = true) : tileWf (landDue t f now) = true := by
  unfold landDue
  split
  · exact tileWf_ite (shortAt_wf (tileWf_frame h rfl)) (landTile_wf h)
  · exact landTile_wf h

theorem beginCycle_wf {t : Tile} {now : ℕ} (h : tileWf t = true) : tileWf (beginCycle t now) = true :=
  tileWf_ite h (tileWf_frame (tileWf_foldl _ (tileWf_frame h rfl) (fun _ _ hs => landDue_wf hs)) rfl)

/-! ## Records and traps -/

theorem w0Put_wf {s : State} {off : ℕ} {v : W64} (h : memoryWf s = true) : memoryWf (w0Put s off v) = true := memoryWf_frame h rfl

theorem useRow_wf {s : State} {owner row : ℕ} (h : memoryWf s = true) : memoryWf (useRow s owner row).2 = true := by
  unfold useRow
  split
  · exact memoryWf_frame h rfl
  · exact memoryWf_frame h rfl

theorem ringWrite_wf {s : State} {owner off rec_ : ℕ} (h : memoryWf s = true) : memoryWf (ringWrite s owner off rec_).2 = true := by
  unfold ringWrite
  extract_lets b
  split
  next e => exact memoryWf_quarry (memoryWf_of_snd (useRow_wf h) e) (memoryWf_quarry_write (memoryWf_of_snd (useRow_wf h) e) _ _) rfl

theorem relRecords_wf {k : Nat} {s : State} {typ sev src rank addr d1 d2 ltag qasid : Nat} (h : memoryWf s = true) :
    memoryWf (relRecords k s typ sev src rank addr d1 d2 ltag qasid) = true := by
  induction k generalizing s typ sev src rank addr d1 d2 ltag qasid with
  | zero =>
    unfold relRecords
    extract_lets
    split
    · exact w0Put_wf (memoryWf_frame h rfl)
    · split
      next e => exact w0Put_wf (memoryWf_of_snd (ringWrite_wf (memoryWf_frame h (by rfl))) e)
  | succ k ih =>
    unfold relRecords
    extract_lets
    split
    · exact w0Put_wf (memoryWf_frame h rfl)
    · split
      next row _ e =>
        have hs := memoryWf_of_snd (ringWrite_wf (memoryWf_frame h (by rfl))) e
        cases row with
        | none => exact w0Put_wf hs
        | some _ => exact ih (w0Put_wf hs)

theorem relRecord_wf {s : State} {typ sev src rank addr d1 d2 ltag qasid : ℕ} (h : memoryWf s = true) :
    memoryWf (relRecord s typ sev src rank addr d1 d2 ltag qasid) = true := relRecords_wf h

theorem contain_wf {s : State} {pid cause detail : ℕ} (h : memoryWf s = true) : memoryWf (contain s pid cause detail) = true :=
  mapPart_wf h fun _ hs => partnWf_ite (partnWf_frame hs) hs

theorem capture_wf {t : Tile} (h : tileWf t = true) : tileWf (capture t) = true := tileWf_frame h rfl

theorem takeTrap_wf {s : State} {code : ℕ} {tval : W64} {tpc : LAddr} (h : memoryWf s = true) : memoryWf (takeTrap s code tval tpc) = true := by
  unfold takeTrap
  extract_lets t
  split
  · exact contain_wf h
  · split
    · exact contain_wf h
    · split
      · exact contain_wf h
      · exact memoryWf_put h (tileWf_frame (cwPut_wf (cwPut_wf (cwPut_wf (cwPut_wf (cwPut_wf (capture_wf (memoryWf_tile h))))))) rfl) rfl

theorem returnWith_wf {t : Tile} {tpc sstat : W64} (h : tileWf t = true) : tileWf (returnWith t tpc sstat) = true := by
  unfold returnWith
  extract_lets t1
  have ht1 : tileWf t1 = true := cwPut_wf h
  exact tileWf_ite (tileWf_frame ht1 rfl) (tileWf_ite (tileWf_frame ht1 rfl) (tileWf_ite (tileWf_frame ht1 rfl) (tileWf_frame ht1 rfl)))

theorem freeRanges_wf {t : Tile} {ids : List ℕ} (h : tileWf t = true) : tileWf (freeRanges t ids) = true := tileWf_frame h rfl

/-! ## Packets, marks and checks -/

theorem tileWf_blank {site : Nat} : tileWf (Tile.blank site) = true := rfl

theorem putTile_wf {s : State} {t : Tile} (hs : memoryWf s = true) (ht : tileWf t = true) : memoryWf (putTile s t) = true := by
  unfold putTile
  split
  · exact memoryWf_put hs ht rfl
  · exact memoryWf_tiles hs (memoryWf_tile hs) (forall_append (forall_filter (memoryWf_rest hs)) (forall_cons ht forall_nil)) rfl

theorem listSite_wf {s : State} {site : ℕ} (h : memoryWf s = true) : memoryWf (listSite s site) = true := by
  unfold listSite
  split
  · exact h
  · exact putTile_wf h (tileWf_frame tileWf_blank rfl)

theorem sendPkt_wf {s : State} {src dst plane : ℕ} {p : Packet} (h : memoryWf s = true) : memoryWf (sendPkt s src dst plane p) = true :=
  memoryWf_ite (memoryWf_frame h rfl) (memoryWf_ite h (memoryWf_frame h rfl))

theorem stampAs_wf {colour : Bool} {s : State} {p : Packet} (h : memoryWf s = true) : memoryWf (stampAs colour s p).2 = true :=
  memoryWf_put h (tileWf_frame (memoryWf_tile h) rfl) rfl

theorem stampPkt_wf {s : State} {p : Packet} (h : memoryWf s = true) : memoryWf (stampPkt s p).2 = true := stampAs_wf h

theorem tileSendAs_wf {colour : Bool} {s : State} {dst plane : ℕ} {p : Packet} (h : memoryWf s = true) :
    memoryWf (tileSendAs colour s dst plane p) = true := sendPkt_wf (memoryWf_put h (tileWf_frame (memoryWf_tile h) rfl) rfl)

theorem tileSend_wf {s : State} {dst plane : ℕ} {p : Packet} (h : memoryWf s = true) : memoryWf (tileSend s dst plane p) = true := tileSendAs_wf h

theorem takeFor_wf {s : State} {src dst plane eng : ℕ} (h : memoryWf s = true) : ∀ r ∈ takeFor s src dst plane eng, memoryWf r.2 = true := by
  unfold takeFor
  split
  · exact forall_some (memoryWf_frame h rfl)
  · exact forall_none

theorem takePkt_wf {s : State} {src dst plane : ℕ} (h : memoryWf s = true) : ∀ r ∈ takePkt s src dst plane, memoryWf r.2 = true := by
  unfold takePkt
  split
  · exact forall_some (memoryWf_frame h rfl)
  · exact forall_none

theorem saveRecord_wf {s : State} (h : memoryWf s = true) : memoryWf (saveRecord s) = true := memoryWf_frame h rfl

theorem markTile_wf {s : State} {site reason : ℕ} (h : memoryWf s = true) : memoryWf (markTile s site reason) = true := by
  refine memoryWf_ite h ?_
  extract_lets s1
  have hs1 : memoryWf s1 = true := saveRecord_wf h
  split
  · exact relRecord_wf (memoryWf_frame hs1 rfl)
  · exact relRecord_wf (memoryWf_frame hs1 rfl)

theorem checkWord_wf {s : State} {w reader : ℕ} {consuming : Bool} (h : memoryWf s = true) : memoryWf (checkWord s w reader consuming) = true := by
  unfold checkWord
  extract_lets t bits qasid old dbg t1 s1 s2 s3
  have h2 : memoryWf s2 = true := relRecord_wf (memoryWf_put h (tileWf_frame (memoryWf_tile h) (by rfl)) rfl)
  have h3 : memoryWf s3 = true := memoryWf_put h (tileWf_frame (memoryWf_tile h) (by rfl)) rfl
  refine memoryWf_ite (memoryWf_ite (markTile_wf h2) h2) (memoryWf_ite h ?_)
  exact memoryWf_ite (contain_wf (relRecord_wf h3)) (memoryWf_ite h3 (relRecord_wf h3))

theorem checkRead_wf {s : State} {addrs : List ℕ} {reader : ℕ} {consuming : Bool} (h : memoryWf s = true) :
    memoryWf (checkRead s addrs reader consuming) = true := memoryWf_ite h (memoryWf_foldl _ h (fun _ _ hs => checkWord_wf hs))

theorem mergeRead_wf {s : State} {ws : List ℕ} {bs : List (ℕ × Byte)} (h : memoryWf s = true) : memoryWf (mergeRead s ws bs) = true :=
  memoryWf_ite h (memoryWf_foldl _ h (fun _ _ hs => checkWord_wf hs))

theorem storeRead_wf {s : State} {bs : List (ℕ × Byte)} (h : memoryWf s = true) : memoryWf (storeRead s bs) = true := mergeRead_wf h

theorem trailRead_wf {s : State} {bs : List (ℕ × Byte)} (h : memoryWf s = true) : memoryWf (trailRead s bs) = true := by
  unfold trailRead
  split
  · exact h
  · exact memoryWf_ite (checkRead_wf h) h

theorem drainRead_wf {s : State} (h : memoryWf s = true) : memoryWf (drainRead s) = true :=
  memoryWf_ite h (memoryWf_foldl _ h (fun _ _ hs => storeRead_wf (trailRead_wf hs)))

theorem freshWord_wf {s : State} (h : memoryWf s = true) : memoryWf (freshWord s).2 = true := memoryWf_frame h rfl

end Sys2Proof.Machine

/-! PROOFS. The message engine keeps every memory in canonical form (09). -/

namespace Sys2Proof.Machine

open Sys2Proof

theorem updEng_wf {s : State} {f : Engine → Engine} (h : memoryWf s = true) : memoryWf (updEng s f) = true :=
  memoryWf_put h (tileWf_frame (memoryWf_tile h) rfl) rfl

theorem updPosted_wf {s : State} {id : ℕ} {f : Posted → Posted} (h : memoryWf s = true) : memoryWf (updPosted s id f) = true := updEng_wf h

theorem dropPosted_wf {s : State} {id : ℕ} (h : memoryWf s = true) : memoryWf (dropPosted s id) = true := updEng_wf h

theorem updSend_wf {s : State} {h : ℕ} {f : SendOp → SendOp} (hu : memoryWf s = true) : memoryWf (updSend s h f) = true := updEng_wf hu

theorem dropSend_wf {s : State} {h : ℕ} (hu : memoryWf s = true) : memoryWf (dropSend s h) = true := updEng_wf hu

theorem dropRanges_wf {s : State} {ids : List ℕ} (h : memoryWf s = true) : memoryWf (dropRanges s ids) = true :=
  memoryWf_put h (freeRanges_wf (memoryWf_tile h)) rfl

theorem finish_wf {s : State} {uid : ℕ} {tok : Reg} {w : W64} (h : memoryWf s = true) : memoryWf (finish s uid tok w) = true :=
  memoryWf_put h (complete_wf (memoryWf_tile h)) rfl

theorem freshId_wf {s : State} (h : memoryWf s = true) : memoryWf (freshId s).2 = true := updEng_wf h

theorem engWrite_wf {s : State} {seg : ℕ} {nj : Bool} {bs : List (ℕ × Byte)} (h : memoryWf s = true) :
    ∀ r ∈ engWrite s seg nj bs, memoryWf r = true := by
  unfold engWrite
  extract_lets t
  split
  · exact forall_none
  · exact forall_some (memoryWf_put (storeRead_wf (memoryWf_ite (trailRead_wf h) h)) (sramWrite_wf _ _ _ (memoryWf_tile (storeRead_wf
      (memoryWf_ite (trailRead_wf h) h)))) rfl)

theorem answer_wf {s : State} {h : BitVec 512} {kind len : ℕ} (hu : memoryWf s = true) : memoryWf (answer s h kind len) = true := tileSend_wf hu

theorem acceptMsg_wf {s : State} {h : BitVec 512} (hu : memoryWf s = true) : memoryWf (acceptMsg s h) = true := memoryWf_ite (answer_wf hu) hu

theorem newEntry_wf {s : State} {h : BitVec 512} {body : List Byte} {rdv neg : Bool} (hu : memoryWf s = true) :
    memoryWf (newEntry s h body rdv neg).2 = true := updEng_wf hu

theorem placeEntry_wf {s : State} {a : HamEntry} (h : memoryWf s = true) : memoryWf (placeEntry s a).2 = true := by
  unfold placeEntry
  extract_lets t
  have ht : tileWf t = true := memoryWf_tile h
  split
  · exact memoryWf_put h (tileWf_foldl _ ht fun _ _ hs => regionWrite_wf _ _ _ hs) rfl
  · exact memoryWf_put h (tileWf_foldl _ ht fun _ _ hs => regionWrite_wf _ _ _ hs) rfl

theorem addHamper_wf {s : State} {a : HamEntry} (h : memoryWf s = true) : memoryWf (addHamper s a) = true := by
  unfold addHamper
  split
  next e => exact updEng_wf (memoryWf_of_snd (placeEntry_wf h) e)

theorem setHamper_wf {s : State} {seq : ℕ} {f : HamEntry → HamEntry} (h : memoryWf s = true) : memoryWf (setHamper s seq f) = true := updEng_wf h

theorem dropHamper_wf {s : State} {seq : ℕ} (h : memoryWf s = true) : memoryWf (dropHamper s seq) = true := updEng_wf h

theorem bkpmHit_wf {s : State} {h : BitVec 512} (hu : memoryWf s = true) : memoryWf (bkpmHit s h) = true := by
  unfold bkpmHit
  extract_lets t
  have ht : tileWf t = true := memoryWf_tile hu
  exact memoryWf_ite (memoryWf_ite (memoryWf_put hu (raiseAsync_wf ht) rfl) (memoryWf_put hu (tileWf_frame ht rfl) rfl)) hu

theorem takeEntry_wf {s : State} {p : Posted} {a : HamEntry} (h : memoryWf s = true) : memoryWf (takeEntry s p a) = true :=
  updPosted_wf (memoryWf_ite (setHamper_wf (bkpmHit_wf h)) (dropHamper_wf (bkpmHit_wf h)))

theorem admitMsg_wf {s : State} {h : BitVec 512} {body : List Byte} (hu : memoryWf s = true) : ∀ r ∈ admitMsg s h body, memoryWf r = true := by
  unfold admitMsg
  extract_lets t rts hit fits headFree
  clear_value hit
  have entry {x u : _} {body rdv neg} (e : newEntry s h body rdv neg = (x, u)) : memoryWf u = true := memoryWf_of_snd (newEntry_wf hu) e
  refine forall_opt_ite ?_ (forall_opt_ite (forall_opt_ite ?_ forall_none) ?_)
  · split
    · split
      next e =>
        split
        next e1 => exact forall_some (takeEntry_wf (memoryWf_of_snd (placeEntry_wf (entry e)) e1))
    · refine forall_opt_ite ?_ forall_none
      split
      next e => exact forall_some (addHamper_wf (entry e))
  · split
    next e =>
      extract_lets s2
      have h2 : memoryWf s2 = true := acceptMsg_wf (addHamper_wf (entry e))
      split
      · exact forall_some (takeEntry_wf h2)
      · exact forall_some h2
  · split
    · split
      next e => exact forall_some (acceptMsg_wf (takeEntry_wf (entry e)))
    · refine forall_opt_ite ?_ (forall_opt_ite forall_none (forall_opt_ite ?_ forall_none))
      · split
        next e => exact forall_some (acceptMsg_wf (addHamper_wf (entry e)))
      · split
        next e => exact forall_some (answer_wf (addHamper_wf (entry e)))

theorem stragglerDue_wf {s : State} {h : BitVec 512} (hu : memoryWf s = true) : memoryWf (stragglerDue s h) = true := by
  refine memoryWf_ite ?_ hu
  split
  · exact memoryWf_put hu (tileWf_frame (memoryWf_tile hu) rfl) rfl
  · exact hu

theorem countAnnih_wf {s : State} (h : memoryWf s = true) : memoryWf (countAnnih s) = true := memoryWf_put h (cwPut_wf (memoryWf_tile h)) rfl

theorem annihilateRecv_wf {s : State} {p : Posted} {a : HamEntry} (h : memoryWf s = true) : memoryWf (annihilateRecv s p a) = true :=
  countAnnih_wf (finish_wf (dropRanges_wf (dropHamper_wf (dropPosted_wf (memoryWf_frame (memoryWf_getD (engWrite_wf h) h) rfl)))))

theorem antiMeet_wf {s : State} {h : BitVec 512} (hu : memoryWf s = true) : ∀ r ∈ antiMeet s h, memoryWf r = true := by
  unfold antiMeet
  split
  · exact forall_none
  · split
    · exact forall_some (countAnnih_wf (dropHamper_wf hu))
    · split
      · exact forall_some (annihilateRecv_wf hu)
      · exact forall_opt_ite forall_none (forall_some (countAnnih_wf (dropHamper_wf hu)))

theorem settleOne_wf {s : State} {a : HamEntry} (h : memoryWf s = true) : memoryWf (settleOne s a) = true := by
  unfold settleOne
  split
  · exact h
  · refine memoryWf_ite h (memoryWf_ite ?_ (memoryWf_ite h (memoryWf_ite h ?_)))
    · split
      next e2 => exact antiMeet_wf (dropHamper_wf h) _ e2
      · split
        · exact memoryWf_put h (tileWf_frame (memoryWf_tile h) rfl) rfl
        · exact h
    · split
      · exact takeEntry_wf h
      · exact h

theorem settleHamper_wf {s : State} (h : memoryWf s = true) : memoryWf (settleHamper s) = true := memoryWf_foldl _ h fun _ _ hs => settleOne_wf hs

theorem meetNegative_wf {s : State} {h : BitVec 512} (hu : memoryWf s = true) : ∀ r ∈ meetNegative s h, memoryWf r = true := by
  unfold meetNegative
  split
  · exact forall_some (countAnnih_wf (dropHamper_wf hu))
  · exact forall_none

theorem sendLeaves_wf {s : State} {o : SendOp} {body : List Byte} (h : memoryWf s = true) : memoryWf (sendLeaves s o body) = true :=
  sendPkt_wf (updSend_wf (memoryWf_put h (tileWf_frame (memoryWf_tile h) rfl) rfl))

theorem pumpFrom_wf {l : List SendOp} {held : List Nat} {s : State} (h : memoryWf s = true) : memoryWf (pumpFrom l held s) = true := by
  induction l generalizing held s with
  | nil => exact h
  | cons o r ih => exact memoryWf_ite (ih (updSend_wf (sendLeaves_wf h))) (memoryWf_ite (ih h) (ih h))

theorem pump_wf {s : State} (h : memoryWf s = true) : memoryWf (pump s) = true := pumpFrom_wf h

theorem runSend_wf {forced : Bool} {o : EngOp} {s : State} (h : memoryWf s = true) : memoryWf (runSend forced o s) = true := by
  refine memoryWf_ite (finish_wf (dropRanges_wf h)) ?_
  split
  · exact finish_wf (dropRanges_wf h)
  · exact pump_wf (updEng_wf (updEng_wf h))

theorem runBackSend_wf {o : EngOp} {s : State} (h : memoryWf s = true) : memoryWf (runBackSend o s) = true := finish_wf h

theorem runRecv_wf {o : EngOp} {s : State} (h : memoryWf s = true) : memoryWf (runRecv o s) = true := by
  refine memoryWf_ite (finish_wf (dropRanges_wf h)) (memoryWf_ite (updEng_wf (updEng_wf h)) ?_)
  split
  · exact takeEntry_wf (updEng_wf (updEng_wf h))
  · exact updEng_wf (updEng_wf h)

theorem runProbe_wf {o : EngOp} {s : State} (h : memoryWf s = true) : memoryWf (runProbe o s) = true :=
  memoryWf_put h (complete_wf (memoryWf_tile h)) rfl

theorem endRecv_wf {s : State} {p : Posted} {e : HamEntry} {n : ℕ} (h : memoryWf s = true) : memoryWf (endRecv s p e n) = true :=
  finish_wf (dropRanges_wf (dropPosted_wf (updEng_wf (memoryWf_put h (regionWrite_wf _ _ _ (memoryWf_tile h)) rfl))))

theorem ctsSend_wf {s : State} {p : Posted} {e : HamEntry} (h : memoryWf s = true) : memoryWf (ctsSend s p e) = true :=
  memoryWf_ite (endRecv_wf (tileSendAs_wf h)) (updPosted_wf (tileSendAs_wf h))

theorem cancelRecv_wf {s : State} {p : Posted} (h : memoryWf s = true) : memoryWf (cancelRecv s p) = true := by
  unfold cancelRecv
  split
  · exact finish_wf (dropRanges_wf (dropPosted_wf h))
  · extract_lets s1
    have hs1 : memoryWf s1 = true := finish_wf (dropRanges_wf (dropPosted_wf h))
    split
    · exact takeEntry_wf (addHamper_wf hs1)
    · exact addHamper_wf hs1
  · exact h

theorem cancelOne_wf {s : State} {p : Posted} (h : memoryWf s = true) : memoryWf (cancelOne s p) = true := by
  unfold cancelOne
  split
  · exact memoryWf_ite (ctsSend_wf h) (cancelRecv_wf h)
  · exact cancelRecv_wf h

theorem runCancel_wf {r : Reg} {o : EngOp} {s : State} (h : memoryWf s = true) : memoryWf (runCancel r o s) = true := by
  unfold runCancel
  split
  · exact cancelOne_wf h
  · exact h

theorem runQuit_wf {o : EngOp} {s : State} (h : memoryWf s = true) : memoryWf (runQuit o s) = true :=
  memoryWf_foldl _ h fun _ _ hs => cancelOne_wf hs

theorem atTile_wf {s : State} {site : Nat} {f : State → State} (h : memoryWf s = true)
    (hf : ∀ t, memoryWf t = true → memoryWf (f t) = true) : OutWf (atTile s site f) := by
  refine outWf_next ?_
  split
  · exact hf _ (focus_wf h)
  · exact h

theorem atPage_wf {s : State} {site : Nat} {f : State → State} (h : memoryWf s = true)
    (hf : ∀ t, memoryWf t = true → memoryWf (f t) = true) : OutWf (atPage s site f) :=
  outWf_next (memoryWf_ite h (hf _ (focus_wf (listSite_wf h))))

theorem headFor_wf {s : State} {src dst plane eng : ℕ} {ok : BitVec 512 → Bool} (h : memoryWf s = true) :
    ∀ r ∈ headFor s src dst plane eng ok, memoryWf r.2 = true := by
  unfold headFor
  split
  next e => exact forall_opt_ite (forall_some (takeFor_wf h _ e)) forall_none
  · exact forall_none

theorem headPkt_wf {s : State} {src dst plane : ℕ} {ok : BitVec 512 → Bool} (h : memoryWf s = true) :
    ∀ r ∈ headPkt s src dst plane ok, memoryWf r.2 = true := headFor_wf h

theorem headAny_wf {s : State} {src dst plane : ℕ} {ok : BitVec 512 → Bool} (h : memoryWf s = true) :
    ∀ r ∈ headAny s src dst plane ok, memoryWf r.2 = true := by
  unfold headAny
  split
  next e => exact forall_opt_ite (forall_some (takePkt_wf h _ e)) forall_none
  · exact forall_none

theorem noteArrival_wf {s : State} (h : memoryWf s = true) : memoryWf (noteArrival s) = true := updEng_wf h

theorem countIn_wf {s : State} {h : BitVec 512} (hu : memoryWf s = true) : memoryWf (countIn s h) = true :=
  memoryWf_put hu (tileWf_frame (memoryWf_tile hu) rfl) rfl

theorem recordChannel_wf {s : State} {p : Packet} (h : memoryWf s = true) : memoryWf (recordChannel s p) = true := by
  unfold recordChannel
  split
  next e =>
    extract_lets mine
    split
    · exact memoryWf_put h (tileWf_capture (memoryWf_tile h) (forall_some (captureWf_mk (captureWf_img (tileWf_cap (memoryWf_tile h) _ e))))) rfl
    · exact h
  · exact h

theorem admitArrival_wf {s : State} {p : Packet} (h : memoryWf s = true) : ∀ r ∈ admitArrival s p, memoryWf r = true := by
  unfold admitArrival
  extract_lets s1
  have hs1 : memoryWf s1 = true := recordChannel_wf h
  split
  next e => exact forall_some (countIn_wf (meetNegative_wf hs1 _ e))
  · split
    next e1 => exact forall_some (stragglerDue_wf (countIn_wf (admitMsg_wf hs1 _ e1)))
    · exact forall_none

theorem execMessageArrival_wf {src dst : ℕ} {s : State} (h : memoryWf s = true) : OutWf (execMessageArrival src dst s) := by
  refine atTile_wf h fun t hs => ?_
  refine memoryWf_ite hs (memoryWf_ite ?_ (memoryWf_ite hs ?_))
  · split
    next e => exact updEng_wf (headAny_wf hs _ e)
    · exact hs
  · split
    next e =>
      split
      next e1 => exact noteArrival_wf (admitArrival_wf (headPkt_wf hs _ e) _ e1)
      · exact updEng_wf hs
    · exact hs

theorem admitAnti_wf {s : State} {h : BitVec 512} (hu : memoryWf s = true) : ∀ r ∈ admitAnti s h, memoryWf r = true := by
  unfold admitAnti
  split
  next e => exact forall_some (antiMeet_wf hu _ e)
  · refine forall_opt_ite forall_none (forall_some ?_)
    split
    · exact memoryWf_put (addHamper_wf (updEng_wf hu)) (tileWf_frame (memoryWf_tile (addHamper_wf (updEng_wf hu))) rfl) rfl
    · exact addHamper_wf (updEng_wf hu)

theorem admitAgain_wf {s : State} {p : Packet} (h : memoryWf s = true) : ∀ r ∈ admitAgain s p, memoryWf r = true := by
  refine forall_opt_ite (admitAnti_wf h) ?_
  split
  next e => exact forall_some (meetNegative_wf h _ e)
  · exact admitMsg_wf h

theorem readmitFrom_wf {src : Nat} {l : List Packet} {s : State} (h : memoryWf s = true) : memoryWf (readmitFrom src l s) = true := by
  induction l generalizing s with
  | nil => exact updEng_wf h
  | cons p r ih =>
    unfold readmitFrom
    split
    next e => exact ih (admitAgain_wf h _ e)
    · exact updEng_wf h

theorem execHamperInputResume_wf {site : ℕ} {s : State} (h : memoryWf s = true) : OutWf (execHamperInputResume site s) := by
  refine atTile_wf h fun t hs => ?_
  split
  · exact hs
  · refine memoryWf_ite (readmitFrom_wf hs) ?_
    split
    · exact updEng_wf hs
    next e1 =>
      refine memoryWf_ite (memoryWf_ite (updEng_wf hs) hs) ?_
      split
      next e2 => exact noteArrival_wf (admitArrival_wf (updEng_wf (headPkt_wf hs _ e1)) _ e2)
      · exact hs

theorem execEagerReadoutStart_wf {site : ℕ} {s : State} (h : memoryWf s = true) : OutWf (execEagerReadoutStart site s) := by
  refine atTile_wf h fun t hs => ?_
  split
  · exact updSend_wf (checkRead_wf hs)
  · exact hs

theorem imageSend_wf {s : State} {o : SendOp} (h : memoryWf s = true) : memoryWf (imageSend s o) = true := by
  unfold imageSend
  split
  next e =>
    split
    · exact memoryWf_put h (tileWf_capture (memoryWf_tile h) (forall_some (captureWf_mk (captureWf_img (tileWf_cap (memoryWf_tile h) _ e))))) rfl
    · exact h
  · exact h

theorem execEagerReadoutDone_wf {site : ℕ} {s : State} (h : memoryWf s = true) : OutWf (execEagerReadoutDone site s) := by
  refine atTile_wf h fun t hs => ?_
  split
  · exact pump_wf (finish_wf (dropRanges_wf (updSend_wf (imageSend_wf (sendLeaves_wf hs)))))
  · exact hs

theorem answered_wf {src dst kind : Nat} {s : State} {f : SendOp → BitVec 512 → State → State} (h : memoryWf s = true)
    (hf : ∀ o x t, memoryWf t = true → memoryWf (f o x t) = true) : OutWf (answered src dst kind s f) := by
  refine atTile_wf h fun t hs => ?_
  split
  next e =>
    split
    · exact hf _ _ _ (headPkt_wf hs _ e)
    · exact headPkt_wf hs _ e
  · exact hs

theorem execAcceptanceArrival_wf {src dst : ℕ} {s : State} (h : memoryWf s = true) : OutWf (execAcceptanceArrival src dst s) := by
  refine answered_wf h fun o x t hs => ?_
  split
  · exact finish_wf (dropSend_wf hs)
  · exact dropSend_wf hs

theorem execRefusalArrival_wf {src dst : ℕ} {s : State} (h : memoryWf s = true) : OutWf (execRefusalArrival src dst s) :=
  answered_wf h fun _ _ _ hs => updSend_wf hs

theorem ctsFirst_wf {s : State} (h : memoryWf s = true) : memoryWf (ctsFirst s) = true := by
  unfold ctsFirst
  split
  · split
    · exact ctsSend_wf h
    · exact h
  · exact h

theorem execCtsSend_wf {site : ℕ} {s : State} (h : memoryWf s = true) : OutWf (execCtsSend site s) :=
  atTile_wf h fun _ hs => memoryWf_ite (ctsFirst_wf hs) hs

theorem ctsOwed_wf {s : State} (h : memoryWf s = true) : memoryWf (ctsOwed s) = true :=
  memoryWf_foldl _ (updEng_wf h) fun _ _ hs => tileSendAs_wf hs

theorem ctsAll_wf {s : State} (h : memoryWf s = true) : memoryWf (ctsAll s) = true :=
  focus_wf (memoryWf_foldl _ h (fun _ _ hs => memoryWf_ite (memoryWf_foldl _ (ctsOwed_wf (focus_wf hs)) (fun _ _ hs1 => ctsFirst_wf hs1))
    (focus_wf hs)))

theorem waitingSend_wf {s : State} {o : SendOp} (h : memoryWf s = true) : memoryWf (waitingSend s o) = true := by
  unfold waitingSend
  split
  next e =>
    exact memoryWf_put h (tileWf_capture (memoryWf_tile h) (forall_some (captureWf_mk (captureWf_img (tileWf_cap (memoryWf_tile h) _ e))))) rfl
  · exact h

theorem execCtsArrival_wf {src dst : ℕ} {s : State} (h : memoryWf s = true) : OutWf (execCtsArrival src dst s) := by
  refine outWf_ite ?_ (answered_wf h (fun _ _ _ hs => memoryWf_ite (updSend_wf (memoryWf_ite (waitingSend_wf hs) hs)) hs))
  split
  next e =>
    split
    · exact outWf_next (sendPkt_wf (memoryWf_frame (headPkt_wf h _ e) rfl))
    · exact outWf_next (headPkt_wf h _ e)
  · exact outWf_next h

theorem execRendezvousStreamDone_wf {site : ℕ} {s : State} (h : memoryWf s = true) : OutWf (execRendezvousStreamDone site s) := by
  refine atTile_wf h fun t hs => ?_
  split
  · split
    · extract_lets s1 body s2 s3
      have h1 : memoryWf s1 = true := memoryWf_ite hs (checkRead_wf hs)
      have h3 : memoryWf s3 = true := dropRanges_wf (memoryWf_ite h1 (tileSendAs_wf h1))
      exact memoryWf_ite (dropSend_wf h3) (memoryWf_ite (updSend_wf h3) (finish_wf (dropSend_wf h3)))
    · exact hs
  · exact hs

theorem sentLanded_wf {s : State} {h : BitVec 512} (hu : memoryWf s = true) : memoryWf (sentLanded s h) = true := by
  refine memoryWf_ite (answer_wf hu) (mapTile_wf hu ?_)
  intro t hs
  split
  · split
    · exact complete_wf (tileWf_frame hs rfl)
    · exact hs
  · exact hs

theorem landRecv_wf {s : State} {p : Posted} {e : HamEntry} {bs : List Byte} (h : memoryWf s = true) : memoryWf (landRecv s p e bs) = true := by
  unfold landRecv
  split
  next e1 => exact endRecv_wf (engWrite_wf h _ e1)
  · exact memoryWf_put h (shortAt_wf (memoryWf_tile h)) rfl

theorem streamData_wf {s : State} {e : HamEntry} (h : memoryWf s = true) : ∀ r ∈ streamData s e, memoryWf r.2 = true := by
  refine forall_opt_ite forall_none ?_
  split
  · exact forall_opt_ite (forall_some (memoryWf_frame h rfl)) forall_none
  · exact forall_none

theorem landable_wf {s : State} (h : memoryWf s = true) : ∀ r ∈ landable s, ∀ q ∈ r.2.2, memoryWf q.2 = true := by
  intro r hr q hq
  obtain ⟨p, -, e⟩ := List.mem_filterMap.1 hr
  split at e
  · cases e
    cases hq
  · obtain ⟨d, hd, rfl⟩ := Option.map_eq_some_iff.1 e
    cases hq
    exact streamData_wf h _ hd
  · cases e

theorem execReceiveComplete_wf {site : Nat} {s : State} (h : memoryWf s = true) : OutWf (execReceiveComplete site s) := by
  refine atTile_wf h fun t ht => ?_
  split
  · exact landRecv_wf ht
  next e => exact sentLanded_wf (landRecv_wf (landable_wf ht _ (List.mem_of_getElem? e) _ rfl))
  · exact ht

theorem execAntiMessageArrival_wf {src dst : ℕ} {s : State} (h : memoryWf s = true) : OutWf (execAntiMessageArrival src dst s) := by
  refine atTile_wf h fun t hs => ?_
  refine memoryWf_ite hs ?_
  split
  · exact hs
  next e =>
    split
    next e1 => exact admitAnti_wf (noteArrival_wf (countIn_wf (recordChannel_wf (headPkt_wf hs _ e)))) _ e1
    · exact updEng_wf hs

end Sys2Proof.Machine

/-! PROOFS. A slot changes nothing but the issue group of its tile, so no memory (R30). -/

namespace Sys2Proof.Machine

open Sys2Proof

theorem Gathers.outWf {s : State} {o : Out} (h : Gathers s o) (hs : memoryWf s = true) : OutWf o := by
  obtain ⟨t, rfl, e⟩ := h
  refine outWf_next ?_
  rw [e]
  exact memoryWf_put hs (tileWf_frame (memoryWf_tile hs) rfl) rfl

/-! ## The issue group -/

theorem issueOnly_ite {u s t : State} {c : Prop} [Decidable c] (h : issueOnly u s) (g : issueOnly u t) : issueOnly u (if c then s else t) := by
  split
  · exact h
  · exact g

theorem issueOnly_foldl {α : Type} {u : State} {f : State → α → State} (l : List α) {s : State} (h : issueOnly u s)
    (hf : ∀ s a, issueOnly u s → issueOnly u (f s a)) : issueOnly u (l.foldl f s) := by
  induction l generalizing s with
  | nil => exact h
  | cons a l ih => exact ih (hf s a h)

theorem gathers_next {s t : State} (h : issueOnly s t) : Gathers s (.next t) := ⟨t, rfl, h⟩

theorem addCause_issueOnly {u s : State} {code : ℕ} {tval : W64} (h : issueOnly u s) : issueOnly u (addCause s code tval) := issueOnly_updIss _ h

theorem addCauseIf_issueOnly {u s : State} {c : Prop} [Decidable c] {code : ℕ} {tval : W64} (h : issueOnly u s) :
    issueOnly u (if c then addCause s code tval else s) := issueOnly_ite (addCause_issueOnly h) h

theorem addCauseUnless_issueOnly {u s : State} {c : Prop} [Decidable c] {code : ℕ} {tval : W64} (h : issueOnly u s) :
    issueOnly u (if c then s else addCause s code tval) := issueOnly_ite h (addCause_issueOnly h)

theorem illop_issueOnly {u s : State} (h : issueOnly u s) : issueOnly u (illop s) := addCause_issueOnly h

theorem double_issueOnly {u s : State} (h : issueOnly u s) : issueOnly u (double s) := addCause_issueOnly h

theorem addFlight_issueOnly {u s : State} {n : ℕ} {unit : Bool} {r : Res} (h : issueOnly u s) : issueOnly u (addFlight s n unit r) :=
  issueOnly_updIss _ h

theorem addX_issueOnly {u s : State} {n : ℕ} {d : Reg} {v : W64} (h : issueOnly u s) : issueOnly u (addX s n d v) :=
  issueOnly_ite h (addFlight_issueOnly h)

theorem addP_issueOnly {u s : State} {q : BitVec 7} {v : Bool} (h : issueOnly u s) : issueOnly u (addP s q v) :=
  issueOnly_ite h (addFlight_issueOnly h)

theorem addStores_issueOnly {u s : State} {bs : List (ℕ × Byte)} (h : issueOnly u s) : issueOnly u (addStores s bs) := issueOnly_updIss _ h

theorem addRead_issueOnly {u s : State} {a n : ℕ} (h : issueOnly u s) : issueOnly u (addRead s a n) := issueOnly_updIss _ h

theorem addQuiet_issueOnly {u s : State} {a n : ℕ} {w : Bool} (h : issueOnly u s) : issueOnly u (addQuiet s a n w) := issueOnly_updIss _ h

/-! ## Slots by their guards and modes (R25, R353) -/

section
variable {c : Ctl} {s : State} {f : State → State}

theorem plain_gathers (h : issueOnly s (f s)) : Gathers s (plain c s f) := gathers_next (issueOnly_ite h (issueOnly_refl s))

theorem unitSlot_gathers (h : issueOnly s (f s)) : Gathers s (unitSlot c s f) :=
  gathers_next (issueOnly_ite (double_issueOnly (issueOnly_refl s)) (issueOnly_ite h (issueOnly_refl s)))

theorem engSlot_gathers (h : issueOnly s (f s)) : Gathers s (engSlot c s f) :=
  gathers_next (issueOnly_ite (double_issueOnly (issueOnly_updIss _ (issueOnly_refl s))) (issueOnly_ite h (issueOnly_refl s)))

theorem userSlot_gathers (h : issueOnly s (f s)) : Gathers s (userSlot c s f) :=
  gathers_next (issueOnly_ite (illop_issueOnly (issueOnly_refl s)) (issueOnly_ite h (issueOnly_refl s)))

theorem supSlot_gathers (h : issueOnly s (f s)) : Gathers s (supSlot c s f) :=
  gathers_next (issueOnly_ite (issueOnly_ite h (addCause_issueOnly (issueOnly_refl s))) (issueOnly_refl s))

theorem Gathers.trans {u : State} {o : Out} (h : Gathers s o) (g : issueOnly u s) : Gathers u o := by
  obtain ⟨t, e, k⟩ := h
  exact ⟨t, e, issueOnly_trans g k⟩

theorem vSlot_gathers {fp : Bool} (hf : ∀ t, issueOnly t (f t)) : Gathers s (vSlot fp c s f) :=
  Gathers.trans (unitSlot_gathers (issueOnly_ite (hf _) (illop_issueOnly (issueOnly_refl _))))
    (issueOnly_ite (issueOnly_updIss _ (issueOnly_refl s)) (issueOnly_refl s))

theorem vFmt_gathers {fp : Bool} {dflt : Nat} {ok : List Nat} {f : Nat → State → State} (hf : ∀ k t, issueOnly t (f k t)) :
    Gathers s (vFmt fp dflt ok c s f) :=
  vSlot_gathers fun t => issueOnly_ite (hf _ t) (illop_issueOnly (issueOnly_refl t))

theorem fabSlot_gathers (h : issueOnly s (f s)) : Gathers s (fabSlot c s f) :=
  engSlot_gathers (issueOnly_ite (illop_issueOnly (issueOnly_refl s)) h)

theorem taskSlot_gathers (h : issueOnly s (f s)) : Gathers s (taskSlot c s f) :=
  engSlot_gathers (issueOnly_ite (illop_issueOnly (issueOnly_refl s)) h)

theorem vtSlot_gathers (h : issueOnly s (f s)) : Gathers s (vtSlot c s f) :=
  engSlot_gathers (issueOnly_ite h (illop_issueOnly (issueOnly_refl s)))

end

/-! ## Accesses and operations -/

theorem checkAccess_issueOnly {u s : State} {ea : ℤ} {n align : ℕ} (h : issueOnly u s) : issueOnly u (checkAccess s ea n align) :=
  addCauseUnless_issueOnly (addCauseUnless_issueOnly h)

theorem loadWith_issueOnly {u s : State} {ea : Int} {n align : Nat} {k : State → Nat → State} (h : issueOnly u s)
    (hk : ∀ t v, issueOnly u t → issueOnly u (k t v)) : issueOnly u (loadWith s ea n align k) :=
  issueOnly_ite (hk _ _ (addRead_issueOnly (checkAccess_issueOnly h))) (checkAccess_issueOnly h)

theorem storeWith_issueOnly {u s : State} {ea : ℤ} {align : ℕ} {bs : List Byte} (h : issueOnly u s) : issueOnly u (storeWith s ea align bs) :=
  issueOnly_ite (addStores_issueOnly (checkAccess_issueOnly h)) (checkAccess_issueOnly h)

theorem checkLt_issueOnly {u s : State} {n : ℕ} {dest : Bool} (h : issueOnly u s) : issueOnly u (checkLt s n dest) :=
  addCauseUnless_issueOnly h

theorem addSpan_issueOnly {u s : State} {e : BitVec 128} {write : Bool} (h : issueOnly u s) : issueOnly u (addSpan s e write) :=
  issueOnly_ite h (issueOnly_updIss _ h)

theorem addOp_issueOnly {u s : State} {o : EngOp} (h : issueOnly u s) : issueOnly u (addOp s o) := issueOnly_updIss _ h

theorem sendSlot_issueOnly {u s : State} {forced : Bool} {t a b : Reg} {l : BitVec 5} (h : issueOnly u s) :
    issueOnly u (sendSlot forced t a b l s) := by
  unfold sendSlot
  split
  · exact addOp_issueOnly (addCauseIf_issueOnly (checkLt_issueOnly h))
  · exact addOp_issueOnly (addSpan_issueOnly (addCauseIf_issueOnly (checkLt_issueOnly h)))

theorem qxlate_issueOnly {u s : State} {atom : Bool} {xa : W64} {bad : Bool} (h : issueOnly u s) : issueOnly u (qxlate s atom xa bad) :=
  addCauseIf_issueOnly h

theorem qrange_issueOnly {u s : State} {q n z : ℕ} {operand : W64} (h : issueOnly u s) : issueOnly u (qrange s q n z operand) :=
  addCauseIf_issueOnly h

theorem qcommon_issueOnly {u s : State} (h : issueOnly u s) : issueOnly u (qcommon s) := addCauseIf_issueOnly (addCauseIf_issueOnly h)

theorem qpayload_issueOnly {u s : State} {n : ℕ} (h : issueOnly u s) : issueOnly u (qpayload s n) := addCauseIf_issueOnly h

theorem layoutIf_issueOnly {u s : State} {bad : Bool} {n : ℕ} (h : issueOnly u s) : issueOnly u (layoutIf s bad n) := addCauseIf_issueOnly h

theorem qtensor_issueOnly {u s : State} {a b : Reg} {l : BitVec 3} {dest : Bool} (h : issueOnly u s) : issueOnly u (qtensor s a b l dest) :=
  qcommon_issueOnly (qxlate_issueOnly (issueOnly_foldl _ (qrange_issueOnly (layoutIf_issueOnly (checkLt_issueOnly h))) (fun _ _ hs =>
    qrange_issueOnly hs)))

theorem qindexed_issueOnly {u s : State} {a : Reg} {l : BitVec 3} {dest : Bool} (h : issueOnly u s) : issueOnly u (qindexed s a l dest) :=
  qcommon_issueOnly (qxlate_issueOnly (qrange_issueOnly (layoutIf_issueOnly (layoutIf_issueOnly (checkLt_issueOnly (checkLt_issueOnly h))))))

theorem execHalo_gathers {c : Ctl} {t a : Reg} {e : BitVec 2} {s : State} : Gathers s (execHalo c t a e s) :=
  fabSlot_gathers (addOp_issueOnly (issueOnly_foldl _ (issueOnly_foldl _ (issueOnly_refl _) fun _ _ hs =>
    addCauseUnless_issueOnly (addCauseUnless_issueOnly (checkLt_issueOnly hs))) fun _ _ hs => addSpan_issueOnly hs))

theorem lineCheck_issueOnly {u s : State} {a : W64} (h : issueOnly u s) : issueOnly u (lineCheck s a) :=
  addCauseUnless_issueOnly (addCauseUnless_issueOnly h)

theorem spawnSlot_issueOnly {u s : State} {ready : Bool} {d a : Reg} (h : issueOnly u s) : issueOnly u (spawnSlot ready d a s) := by
  unfold spawnSlot
  extract_lets xa
  split
  · split
    · exact issueOnly_ite (issueOnly_updIss _ (addX_issueOnly (addQuiet_issueOnly h))) (addX_issueOnly (addQuiet_issueOnly h))
    · exact addCause_issueOnly h
  · exact lineCheck_issueOnly h

theorem execPop_gathers {c : Ctl} {d a : Reg} {s : State} : Gathers s (execPop c d a s) :=
  taskSlot_gathers (issueOnly_ite (issueOnly_ite (addX_issueOnly (issueOnly_refl _)) (issueOnly_updIss _ (addX_issueOnly (addQuiet_issueOnly
    (issueOnly_refl _))))) (lineCheck_issueOnly (issueOnly_refl _)))

theorem stealSlot_issueOnly {u s : State} {strict : Bool} {t a : Reg} (h : issueOnly u s) : issueOnly u (stealSlot strict t a s) :=
  addOp_issueOnly h

theorem erecvSlot_issueOnly {u s : State} {ns : Bool} {t a : Reg} {l : BitVec 3} (h : issueOnly u s) : issueOnly u (erecvSlot ns t a l s) :=
  addOp_issueOnly (issueOnly_ite (addSpan_issueOnly (issueOnly_updIss _ (checkLt_issueOnly h))) (issueOnly_updIss _ (checkLt_issueOnly h)))

theorem addJump_issueOnly {u s : State} {a : LAddr} (h : issueOnly u s) : issueOnly u (addJump s a) := issueOnly_updIss _ h

theorem jumpReg_issueOnly {u s : State} {v : W64} (h : issueOnly u s) : issueOnly u (jumpReg s v) :=
  issueOnly_ite (addJump_issueOnly h) (addCause_issueOnly h)

theorem loopSkip_issueOnly {u s : State} {fin : ℕ} (h : issueOnly u s) : issueOnly u (loopSkip s fin) := by
  unfold loopSkip
  split
  · exact addJump_issueOnly h
  · exact addCause_issueOnly h
  · exact addCause_issueOnly h

theorem execLoop_gathers {c : Ctl} {r : Reg} {k : BitVec 16} {s : State} : Gathers s (execLoop c r k s) :=
  userSlot_gathers (issueOnly_ite (illop_issueOnly (issueOnly_refl _)) (issueOnly_ite (illop_issueOnly (issueOnly_refl _)) (issueOnly_ite
    (addCause_issueOnly (issueOnly_refl _)) (issueOnly_ite (loopSkip_issueOnly (issueOnly_refl _)) (issueOnly_updIss _ (issueOnly_refl _))))))

theorem addSys_issueOnly {u s : State} {fn : ℕ} {v : W64} (h : issueOnly u s) : issueOnly u (addSys s fn v) := issueOnly_updIss _ h

theorem execRstlt_gathers {c : Ctl} {a : Reg} {s : State} : Gathers s (execRstlt c a s) :=
  supSlot_gathers (issueOnly_ite (double_issueOnly (issueOnly_refl _)) (loadWith_issueOnly (issueOnly_refl _) (fun _ _ hs => issueOnly_ite
    (issueOnly_updIss _ (addSys_issueOnly hs)) (addCause_issueOnly hs))))

theorem setPfx_issueOnly {u s : State} {fa fb : BitVec 4} {g : BitVec 2} {zp : BitVec 1} {vec : Bool} (h : issueOnly u s) :
    issueOnly u (setPfx s fa fb g zp vec) := issueOnly_updIss _ h

theorem loadX_issueOnly {u s : State} {d : Reg} {ea : ℤ} {w : BitVec 2} {sx : BitVec 1} (h : issueOnly u s) : issueOnly u (loadX s d ea w sx) :=
  loadWith_issueOnly h fun _ _ hs => addX_issueOnly hs

theorem storeX_issueOnly {u s : State} {d : Reg} {ea : ℤ} {w : BitVec 2} (h : issueOnly u s) : issueOnly u (storeX s d ea w) :=
  storeWith_issueOnly h

theorem loadV_issueOnly {u s : State} {d : Reg} {ea : ℤ} {n lo : ℕ} (h : issueOnly u s) : issueOnly u (loadV s d ea n lo) :=
  loadWith_issueOnly h fun _ _ hs => addFlight_issueOnly hs

theorem checkLanes_issueOnly {u s : State} {ls : List (ℕ × ℤ)} {z : ℕ} (h : issueOnly u s) : issueOnly u (checkLanes s ls z) := by
  unfold checkLanes
  extract_lets s1
  have hs1 : issueOnly u s1 := by
    unfold s1
    split
    · exact addCause_issueOnly h
    · exact h
  split
  · exact addCause_issueOnly hs1
  · exact hs1

theorem gather_issueOnly {u s : State} {d a : Reg} {idx : Option Reg} {z : ℕ} {mk : BitVec 3} (h : issueOnly u s) :
    issueOnly u (gather s d a idx z mk) :=
  issueOnly_ite (addFlight_issueOnly (issueOnly_foldl _ h (fun _ _ hs => addRead_issueOnly hs))) (checkLanes_issueOnly h)

theorem scatter_issueOnly {u s : State} {d a : Reg} {idx : Option Reg} {z : ℕ} {mk : BitVec 3} (h : issueOnly u s) :
    issueOnly u (scatter s d a idx z mk) := issueOnly_ite (addStores_issueOnly h) (checkLanes_issueOnly h)

theorem codeStore_issueOnly {u s : State} {ea align : ℕ} {bs : List Byte} (h : issueOnly u s) : issueOnly u (codeStore s ea align bs) := by
  unfold codeStore
  extract_lets inside s1 s2
  have h2 : issueOnly u s2 := addCauseUnless_issueOnly (addCauseUnless_issueOnly h)
  exact issueOnly_ite (issueOnly_updIss _ h2) h2

theorem binX_gathers {lat : ℕ} {f : W64 → W64 → W64} {c : Ctl} {d a b : Reg} {s : State} : Gathers s (binX lat f c d a b s) :=
  plain_gathers (addX_issueOnly (issueOnly_refl _))

theorem unX_gathers {f : W64 → W64} {c : Ctl} {d a : Reg} {s : State} : Gathers s (unX f c d a s) :=
  plain_gathers (addX_issueOnly (issueOnly_refl _))

theorem execAddi_gathers {c : Ctl} {d a : Reg} {k : BitVec 11} {s : State} : Gathers s (execAddi c d a k s) := by
  unfold execAddi
  exact unX_gathers

theorem execAndi_gathers {c : Ctl} {d a : Reg} {k : BitVec 11} {s : State} : Gathers s (execAndi c d a k s) := by
  unfold execAndi
  exact unX_gathers

theorem execOri_gathers {c : Ctl} {d a : Reg} {k : BitVec 11} {s : State} : Gathers s (execOri c d a k s) := by
  unfold execOri
  exact unX_gathers

theorem execXori_gathers {c : Ctl} {d a : Reg} {k : BitVec 11} {s : State} : Gathers s (execXori c d a k s) := by
  unfold execXori
  exact unX_gathers

theorem ldh_gathers {n : ℕ} {c : Ctl} {d : Reg} {k : BitVec 16} {s : State} : Gathers s (ldh n c d k s) :=
  plain_gathers (addX_issueOnly (issueOnly_refl _))

theorem execRdw_gathers {c : Ctl} {d : Reg} {n : BitVec 12} {s : State} : Gathers s (execRdw c d n s) := by
  refine plain_gathers ?_
  split
  · exact addCause_issueOnly (issueOnly_refl _)
  · exact addX_issueOnly (issueOnly_refl _)

theorem execWrw_gathers {c : Ctl} {d : Reg} {n : BitVec 12} {s : State} : Gathers s (execWrw c d n s) := by
  refine plain_gathers ?_
  split
  · exact addCause_issueOnly (issueOnly_refl _)
  · split
    · exact addCause_issueOnly (issueOnly_refl _)
    · exact issueOnly_ite (issueOnly_refl _) (addFlight_issueOnly (issueOnly_refl _))

theorem addV_issueOnly {u s : State} {n : ℕ} {d : Reg} {w : ℕ} {els : List (ℕ × ℕ)} (h : issueOnly u s) : issueOnly u (addV s n d w els) :=
  addFlight_issueOnly h

theorem mapV_issueOnly {u s : State} {n : ℕ} {d : Reg} {w : ℕ} {mk : BitVec 3} {f : ℕ → ℕ} (h : issueOnly u s) : issueOnly u (mapV s n d w mk f) :=
  addV_issueOnly h

theorem setSeed_issueOnly {u s : State} {v : W64} (h : issueOnly u s) : issueOnly u (setSeed s v) := issueOnly_updIss _ h

theorem roundV_issueOnly {u s : State} {n : ℕ} {d : Reg} {w : ℕ} {mk : BitVec 3} {f : Rnd → ℕ → ℕ} (h : issueOnly u s) :
    issueOnly u (roundV s n d w mk f) := addV_issueOnly (issueOnly_ite (setSeed_issueOnly h) h)

theorem vecFloat_gathers {n : ℕ} {a : Bool → Num → Num → Num → Num} {c : Ctl} {d a1 b : Reg} {mk : BitVec 3} {s : State} :
    Gathers s (vecFloat n a c d a1 b mk s) := vFmt_gathers fun _ _ => roundV_issueOnly (issueOnly_refl _)

theorem vecMinMax_gathers {greater : Bool} {c : Ctl} {d a b : Reg} {mk : BitVec 3} {s : State} : Gathers s (vecMinMax greater c d a b mk s) :=
  vFmt_gathers fun _ _ => mapV_issueOnly (issueOnly_refl _)

theorem vecSpecial_gathers {g : ℕ → ℕ} {c : Ctl} {d a : Reg} {mk : BitVec 3} {s : State} : Gathers s (vecSpecial g c d a mk s) :=
  vFmt_gathers fun _ _ => mapV_issueOnly (issueOnly_refl _)

theorem vecInt_gathers {g : ℕ → Bool → ℤ → ℤ → ℤ} {c : Ctl} {d a b : Reg} {mk : BitVec 3} {s : State} : Gathers s (vecInt g c d a b mk s) :=
  vFmt_gathers fun _ _ => mapV_issueOnly (issueOnly_refl _)

theorem vecLogic_gathers {g : ℕ → ℕ → ℕ → ℕ → ℕ} {ok : List ℕ} {c : Ctl} {d a b : Reg} {mk : BitVec 3} {s : State} :
    Gathers s (vecLogic g ok c d a b mk s) := vFmt_gathers fun _ _ => mapV_issueOnly (issueOnly_refl _)

theorem vecCmp_gathers {g : Num → Num → Bool} {h : ℤ → ℤ → Bool} {dflt : ℕ} {ok : List ℕ} {c : Ctl} {d : BitVec 3} {a b : Reg} {mk : BitVec 3}
    {s : State} :
    Gathers s (vecCmp g h dflt ok c d a b mk s) := vFmt_gathers fun _ _ => addFlight_issueOnly (issueOnly_refl _)

theorem execVcvt_gathers {c : Ctl} {d a : Reg} {part : BitVec 5} {m : BitVec 3} {s : State} : Gathers s (execVcvt c d a part m s) := by
  unfold execVcvt
  refine vSlot_gathers fun t => ?_
  split
  · exact illop_issueOnly (issueOnly_refl _)
  · extract_lets src
    split
    · exact illop_issueOnly (issueOnly_refl _)
    · split
      · exact addV_issueOnly (addV_issueOnly (issueOnly_ite (setSeed_issueOnly (issueOnly_refl _)) (issueOnly_refl _)))
      · exact addV_issueOnly (issueOnly_ite (setSeed_issueOnly (issueOnly_refl _)) (issueOnly_refl _))

theorem vecSign_gathers {g : ℕ → ℕ → ℕ} {h : ℤ → ℤ} {c : Ctl} {d a : Reg} {mk : BitVec 3} {s : State} : Gathers s (vecSign g h c d a mk s) :=
  vFmt_gathers fun _ _ => mapV_issueOnly (issueOnly_refl _)

theorem vecReduceF_gathers {ident : FloatFmt → ℕ} {node : State → FloatFmt → ℕ → ℕ → ℕ} {c : Ctl} {d a : Reg} {mk : BitVec 3} {s : State} :
    Gathers s (vecReduceF ident node c d a mk s) := vFmt_gathers fun _ _ => addFlight_issueOnly (issueOnly_refl _)

theorem addScan_issueOnly {u s : State} {d : Reg} {w : ℕ} {mk : BitVec 3} {l : List ℕ} (h : issueOnly u s) : issueOnly u (addScan s d w mk l) :=
  addV_issueOnly h

theorem vecReduceI_gathers {ident : ℕ → Bool → ℤ} {node : ℤ → ℤ → ℤ} {c : Ctl} {d a : Reg} {mk : BitVec 3} {s : State} :
    Gathers s (vecReduceI ident node c d a mk s) := vFmt_gathers fun _ _ => addFlight_issueOnly (issueOnly_refl _)

theorem maskOp_gathers {g : W64 → W64 → W64} {c : Ctl} {d a b : BitVec 3} {s : State} : Gathers s (maskOp g c d a b s) :=
  vSlot_gathers fun _ => addFlight_issueOnly (issueOnly_refl _)

theorem maskX_gathers {g : W64 → W64} {c : Ctl} {d : Reg} {a : BitVec 3} {s : State} : Gathers s (maskX g c d a s) :=
  vSlot_gathers fun _ => issueOnly_ite (issueOnly_refl _) (addFlight_issueOnly (issueOnly_refl _))

theorem matCheck_issueOnly {u s : State} {xa xb : W64} {rb side : ℕ} (h : issueOnly u s) : issueOnly u (matCheck s xa xb rb side) := by
  unfold matCheck
  extract_lets s1 s2 s3
  have h1 : issueOnly u s1 := by
    unfold s1
    split
    · exact h
    · exact addCause_issueOnly h
  have h2 : issueOnly u s2 := addCauseUnless_issueOnly h1
  exact issueOnly_ite h2 (addCauseUnless_issueOnly (addCauseUnless_issueOnly h2))

theorem matInc_issueOnly {u s : State} {r : Reg} (h : issueOnly u s) : issueOnly u (matInc s r) := issueOnly_ite (addFlight_issueOnly h) h

theorem srcCheck_issueOnly {u s : State} {r : Reg} {p : BitVec 1} {side : ℕ} (h : issueOnly u s) : issueOnly u (srcCheck s r p side) := by
  unfold srcCheck
  extract_lets xa xb s1 s2 s3
  have h2 : issueOnly u s2 := addRead_issueOnly (matCheck_issueOnly h)
  exact issueOnly_ite h (matInc_issueOnly (issueOnly_ite h2 (addRead_issueOnly h2)))

theorem badRow_issueOnly {u s : State} {k : ℕ} (h : issueOnly u s) : issueOnly u (badRow s k) := addCause_issueOnly h

theorem badLatch_issueOnly {u s : State} {l : BitVec 2} (h : issueOnly u s) : issueOnly u (badLatch s l) := addCause_issueOnly h

theorem beat_issueOnly {u s : State} {acc : Bool} {b : BitVec 1} {r : BitVec 6} {l : BitVec 2} {src : Reg} {h sp : BitVec 1} (hu : issueOnly u s) :
    issueOnly u (beat acc b r l src h sp s) := by
  unfold beat
  extract_lets p th k mode bad s1 s2 s3 s4
  have h2 : issueOnly u s2 := srcCheck_issueOnly (addCauseIf_issueOnly hu)
  have h3 : issueOnly u s3 := addCauseUnless_issueOnly h2
  have h4 : issueOnly u s4 := addCauseIf_issueOnly h3
  exact issueOnly_ite h4 (addFlight_issueOnly (issueOnly_updIss _ h4))

theorem copyBeat_issueOnly {u s : State} {src : Reg} {h p : BitVec 1} {res : BitVec 1024 → Res} (hu : issueOnly u s) :
    issueOnly u (copyBeat src h p res s) := addFlight_issueOnly (srcCheck_issueOnly hu)

theorem execMdrain_gathers {c : Ctl} {b : BitVec 1} {r : BitVec 6} {d : Reg} {p h clr : BitVec 1} {fmt : BitVec 4} {sat : BitVec 1} {s : State} :
    Gathers s (execMdrain c b r d p h clr fmt sat s) := by
  refine unitSlot_gathers ?_
  extract_lets k w th xa xb s1 s2
  have h1 : issueOnly s s1 := issueOnly_ite (matCheck_issueOnly (issueOnly_refl s)) (issueOnly_refl s)
  have h2 : issueOnly s s2 := addCauseUnless_issueOnly h1
  clear_value s2
  refine issueOnly_ite h2 ?_
  split
  extract_lets s3 bits bs s4 s5
  have h3 : issueOnly s s3 := issueOnly_ite (setSeed_issueOnly h2) h2
  have h4 : issueOnly s s4 := issueOnly_ite (addFlight_issueOnly h3) (matInc_issueOnly (addFlight_issueOnly h3))
  have h5 : issueOnly s s5 := issueOnly_ite (addFlight_issueOnly h4) h4
  exact issueOnly_ite (addFlight_issueOnly h5) h5

/-! ## Every instruction with an encoding -/

/-- Whatever has an encoding only gathers, from every state (R30). -/
theorem exec_gathers {i : Instr} {w : BitVec 32} (s : State) (h : encode i = some w) : Gathers s (exec i s) := by
  unfold exec
  cases i with
  | nop => exact gathers_next (issueOnly_refl _)
  | add | sub | and | or | xor | andn | orn | xnor | sll | srl | sra | ror | rol | slt | sltu | min | max | minu | maxu | addw | subw | sllw
    | srlw | sraw | mul | mulh | mulhu | mulhsu | mulw | div | divu | rem | remu | divw | divuw | remw | remuw | bext | bset | bclr | binv | bfxu
    | bfxs | addsc | ladd => exact binX_gathers
  | clz | ctz | popc | brev | bswap | sextb | sexth | zextb | zexth | zextw | clzw | slli | srli | srai | rori | slliw | srliw | sraiw =>
    exact unX_gathers
  | addi => exact execAddi_gathers
  | andi => exact execAndi_gathers
  | ori => exact execOri_gathers
  | xori => exact execXori_gathers
  | ldi | sel | prdg | ltrl | ltrh => exact plain_gathers (addX_issueOnly (issueOnly_refl _))
  | ldh1 | ldh2 | ldh3 => exact ldh_gathers
  | chku => exact plain_gathers (issueOnly_ite (issueOnly_refl _) (addCause_issueOnly (issueOnly_refl _)))
  | rdw => exact execRdw_gathers
  | wrw => exact execWrw_gathers
  | br => exact plain_gathers (addJump_issueOnly (issueOnly_refl _))
  | call => exact plain_gathers (addJump_issueOnly (addX_issueOnly (issueOnly_refl _)))
  | jr => exact plain_gathers (jumpReg_issueOnly (issueOnly_refl _))
  | jalr => exact plain_gathers (jumpReg_issueOnly (addX_issueOnly (issueOnly_refl _)))
  | loop => exact execLoop_gathers
  | cmp | cmpi | pand | por | pxor | pandn => exact plain_gathers (addP_issueOnly (issueOnly_refl _))
  | pwrg | ltw | ltbase => exact plain_gathers (addFlight_issueOnly (issueOnly_refl _))
  | trap | brk => exact userSlot_gathers (issueOnly_updIss _ (issueOnly_refl _))
  | rfe => exact supSlot_gathers (addSys_issueOnly (issueOnly_refl _))
  | idle | ifence | maskp | unmaskp | sync => exact plain_gathers (addSys_issueOnly (issueOnly_refl _))
  | savelt => exact supSlot_gathers (addSys_issueOnly (storeWith_issueOnly (issueOnly_refl _)))
  | rstlt => exact execRstlt_gathers
  | lpop => exact plain_gathers (issueOnly_updIss _ (issueOnly_refl _))
  | yield => exact userSlot_gathers (issueOnly_ite (illop_issueOnly (issueOnly_refl _)) (addSys_issueOnly (issueOnly_refl _)))
  | suspend =>
    exact userSlot_gathers (issueOnly_ite (illop_issueOnly (issueOnly_refl _)) (issueOnly_ite (addSys_issueOnly (issueOnly_refl _))
      (issueOnly_refl _)))
  | exit => exact userSlot_gathers (addSys_issueOnly (issueOnly_refl _))
  | sig =>
    exact plain_gathers (issueOnly_ite (issueOnly_refl _) (issueOnly_ite (addCause_issueOnly (issueOnly_updIss _ (issueOnly_refl _)))
      (issueOnly_updIss _ (issueOnly_refl _))))
  | pfxM | pfxV => exact userSlot_gathers (setPfx_issueOnly (issueOnly_refl _))
  | ld | ldx => exact plain_gathers (loadX_issueOnly (issueOnly_refl _))
  | st | stx => exact plain_gathers (storeX_issueOnly (issueOnly_refl _))
  | vld | vldl | vldu => exact plain_gathers (loadV_issueOnly (issueOnly_refl _))
  | vst | ltst => exact plain_gathers (storeWith_issueOnly (issueOnly_refl _))
  | vgth32 | vgth16 | vgth8 | vldm => exact plain_gathers (gather_issueOnly (issueOnly_refl _))
  | vsct32 | vsct16 | vsct8 | vstm => exact plain_gathers (scatter_issueOnly (issueOnly_refl _))
  | ltld => exact plain_gathers (loadWith_issueOnly (issueOnly_refl _) (fun _ _ hs => addFlight_issueOnly hs))
  | istw | istv => exact plain_gathers (codeStore_issueOnly (issueOnly_refl _))
  | vadd | vsub | vmul | vfma | vfnma | vfms => exact vecFloat_gathers
  | vmin | vmax => exact vecMinMax_gathers
  | vrcp | vrsq | vexp2 | vlog2 | vsinp | vtanh => exact vecSpecial_gathers
  | vdiv | vsqrt | vmov | vcpys | vbcst | vbcsti | viota | vperm | vexpd | vsldn | vslup =>
    exact vFmt_gathers fun _ _ => mapV_issueOnly (issueOnly_refl _)
  | viadd | visub | vimul | vimulh | viadds | visubs | vimin | vimax => exact vecInt_gathers
  | vand | vor | vxor | vandn | vsll | vsrl | vsra | vbsl => exact vecLogic_gathers
  | vceq | vcne | vclt | vcle | vcun | vctst => exact vecCmp_gathers
  | vcvt => exact execVcvt_gathers
  | vrint => exact vFmt_gathers fun _ _ => roundV_issueOnly (issueOnly_refl _)
  | vsel | vins | vcomp | vcpos => exact vFmt_gathers fun _ _ => addV_issueOnly (issueOnly_refl _)
  | vabs | vneg => exact vecSign_gathers
  | vfrsum | vfrmax | vfrmin => exact vecReduceF_gathers
  | vfscan | viscan => exact vFmt_gathers fun _ _ => addScan_issueOnly (issueOnly_refl _)
  | virsum | virmax | virmin => exact vecReduceI_gathers
  | vextr => exact vFmt_gathers fun _ _ => issueOnly_ite (issueOnly_refl _) (addFlight_issueOnly (issueOnly_refl _))
  | mand | mor | mxor | mandn => exact maskOp_gathers
  | mfromx => exact vSlot_gathers fun _ => addFlight_issueOnly (issueOnly_refl _)
  | mtox | mpopc | mffs => exact maskX_gathers
  | mzero =>
    exact unitSlot_gathers (issueOnly_ite (addFlight_issueOnly (issueOnly_updIss _ (issueOnly_refl _))) (illop_issueOnly (issueOnly_refl _)))
  | mpush | macc => exact unitSlot_gathers (beat_issueOnly (issueOnly_refl _))
  | mshift | mlatch => exact unitSlot_gathers (issueOnly_updIss _ (copyBeat_issueOnly (issueOnly_refl _)))
  | mlside => exact unitSlot_gathers (copyBeat_issueOnly (issueOnly_refl _))
  | mdrain => exact execMdrain_gathers
  | msclrA | msclrB => exact unitSlot_gathers (addFlight_issueOnly (issueOnly_refl _))
  | mrds => exact unitSlot_gathers (issueOnly_ite (issueOnly_refl _) (addFlight_issueOnly (issueOnly_refl _)))
  | send | sendR => exact engSlot_gathers (sendSlot_issueOnly (issueOnly_refl _))
  | recv => exact engSlot_gathers (addOp_issueOnly (addSpan_issueOnly (checkLt_issueOnly (issueOnly_refl _))))
  | testt | waitany | envr | dqst | widf | wids | fstat | bstat => exact engSlot_gathers (addX_issueOnly (issueOnly_refl _))
  | probe | fenceQ | fencex | bench | bwait | bdrop => exact engSlot_gathers (addOp_issueOnly (issueOnly_refl _))
  | cancel => exact engSlot_gathers (issueOnly_ite (illop_issueOnly (issueOnly_refl _)) (addOp_issueOnly (issueOnly_refl _)))
  | qget =>
    exact engSlot_gathers (addOp_issueOnly (addSpan_issueOnly (qcommon_issueOnly (qxlate_issueOnly (qrange_issueOnly (checkLt_issueOnly
      (issueOnly_refl _)))))))
  | qput =>
    exact engSlot_gathers (addOp_issueOnly (addSpan_issueOnly (qpayload_issueOnly (qcommon_issueOnly (qxlate_issueOnly (qrange_issueOnly
      (checkLt_issueOnly (issueOnly_refl _))))))))
  | qgett => exact engSlot_gathers (addOp_issueOnly (addSpan_issueOnly (qtensor_issueOnly (issueOnly_refl _))))
  | qputt => exact engSlot_gathers (addOp_issueOnly (addSpan_issueOnly (qpayload_issueOnly (qtensor_issueOnly (issueOnly_refl _)))))
  | qatom =>
    exact engSlot_gathers (addOp_issueOnly (addSpan_issueOnly (qcommon_issueOnly (qxlate_issueOnly (qrange_issueOnly (layoutIf_issueOnly
      (checkLt_issueOnly (issueOnly_refl _))))))))
  | qgath => exact engSlot_gathers (addOp_issueOnly (addSpan_issueOnly (addSpan_issueOnly (qindexed_issueOnly (issueOnly_refl _)))))
  | qscat =>
    exact engSlot_gathers (addOp_issueOnly (addSpan_issueOnly (addSpan_issueOnly (qpayload_issueOnly (qindexed_issueOnly (issueOnly_refl _))))))
  | qfill => exact engSlot_gathers (addOp_issueOnly (qcommon_issueOnly (qxlate_issueOnly (qrange_issueOnly (issueOnly_refl _)))))
  | qcopy => exact engSlot_gathers (addOp_issueOnly (qcommon_issueOnly (qxlate_issueOnly (qrange_issueOnly (qrange_issueOnly (issueOnly_refl _))))))
  | spawn | spawnr => exact taskSlot_gathers (spawnSlot_issueOnly (issueOnly_refl _))
  | pop => exact execPop_gathers
  | steal | stealX => exact taskSlot_gathers (stealSlot_issueOnly (issueOnly_refl _))
  | sendt | msend =>
    exact fabSlot_gathers (addOp_issueOnly (addSpan_issueOnly (addCauseIf_issueOnly (checkLt_issueOnly (issueOnly_refl _)))))
  | halo => exact execHalo_gathers
  | waitmb => exact engSlot_gathers (issueOnly_refl _)
  | mgset => exact engSlot_gathers (issueOnly_updIss _ (issueOnly_refl _))
  | erecv | erecvNs => exact vtSlot_gathers (erecvSlot_issueOnly (issueOnly_refl _))
  | deferH | deferT | gvtw => exact vtSlot_gathers (addOp_issueOnly (issueOnly_refl _))
  | vtadv => exact vtSlot_gathers (issueOnly_updIss _ (issueOnly_ite (addCause_issueOnly (issueOnly_refl _)) (issueOnly_refl _)))
  | savem => exact vtSlot_gathers (issueOnly_updIss _ (addX_issueOnly (issueOnly_refl _)))
  | resultLand | asyncTrap | syncRelease | scheduledFlitForward | sendtDepart | timedArrival | timedQueueDeliver | multicastForward | haloArrival
    | congestionDetect | congestionNotice | setasideRelease | fenceMarker | fenceVerdict | messageArrival | hamperInputResume | eagerReadoutStart
    | eagerReadoutDone | acceptanceArrival | refusalArrival | ctsSend | ctsArrival | rendezvousStreamDone | receiveComplete | antiMessageArrival
    | peerFencedAnswer | linkFail | quarryPartDispatch | quarryWalk | quarryPartServe | quarryReply | quarryPartTimeout | trackerHoldbackEnd
    | stealServe | stealAnswer | dispatch | taskPreempt | pmaskExpire | rollback | gvtRoundStart | gvtReportRetry | gvtRelease | gvtRoundEnd
    | benchAccept | benchFlip | quarryBenchFlip | benchSweep | benchSeal | haulPage | periodicBench | pfail | containment | containmentDrained
    | preemptionCaptured | partitionEnd | tileHalt | gangStop | gangResume | stepDone | dbgctlHalt | dbgctlStep | dbgctlResume | dbgpcWrite
    | stepcntWrite | finjWrite | faultInjectDeferred | traceBatchWrite | sramScrub | quarryScrub | xbWrite | statusWrite | rmodeWrite | rseedWrite
    | mailboxWrite | trcctlWrite | hostRegisterWrite | w3Read | w3Write | qtailWrite | ctailWrite | otailWrite | haltp | resumep | contain | qroot
    | qinval | qinvalAcknowledge | retire | portpair | gvtdom | imgreg | imgdel | attest | pset | pcapWrite | benchTake | benchRestore | benchDrop
    | benchKeep | issueBudgetUpdate | thermalShutdown | startSequence | bootCheck | linkCrcRetry => exact nomatch h

end Sys2Proof.Machine

/-! PROOFS. Quarry memory: engines, walkers, parts, replies and scrubbers keep every memory in canonical form (10). -/

namespace Sys2Proof.Machine

open Sys2Proof

theorem updReq_wf {s : State} {id : ℕ} {f : QReq → QReq} (h : memoryWf s = true) : memoryWf (updReq s id f) = true := updEng_wf h

theorem settleFences_wf {n : Nat} {s : State} (h : memoryWf s = true) : memoryWf (settleFences n s) = true := by
  induction n generalizing s with
  | zero => exact h
  | succ n ih =>
    unfold settleFences
    split
    · exact memoryWf_ite (ih (finish_wf (updEng_wf h))) h
    · exact h

theorem endReq_wf {s : State} {id : ℕ} (h : memoryWf s = true) : memoryWf (endReq s id) = true := by
  unfold endReq
  split
  · exact memoryWf_ite (settleFences_wf (updEng_wf (finish_wf (dropRanges_wf h)))) h
  · exact h

theorem startReq_wf {o : EngOp} {copied : Option (List Byte)} {s : State} (h : memoryWf s = true) : ∀ r ∈ startReq o copied s, memoryWf r = true := by
  unfold startReq
  extract_lets _ s1
  have hs1 : memoryWf s1 = true := memoryWf_ite h (checkRead_wf h)
  clear_value s1
  split
  · exact forall_none
  next s2 e =>
    have hs2 : memoryWf s2 = true := forall_opt_ite (P := fun r => memoryWf r = true) (engWrite_wf hs1) (forall_some hs1) s2 e
    split
    next e2 =>
      have hs3 := memoryWf_of_snd (freshId_wf hs2) e2
      extract_lets _ _ _ _ s6
      have hs6 : memoryWf s6 = true := updEng_wf (dropRanges_wf hs3)
      exact forall_some (memoryWf_ite (settleFences_wf hs6) (endReq_wf hs6))

theorem homeWrite_wf {s : State} {cap : Bool} {owner a : ℕ} {bs : List Byte} (h : memoryWf s = true) :
    memoryWf (homeWrite s cap owner a bs) = true :=
  memoryWf_ite (memoryWf_cap h (writeBytes_wf _ _ (memoryWf_cap_wf h))) (memoryWf_quarry h (memoryWf_quarry_write h _ _) rfl)

theorem qrec_wf {s : State} {typ sev owner block d1 qasid : ℕ} (h : memoryWf s = true) : memoryWf (qrec s typ sev owner block d1 qasid) = true :=
  relRecord_wf h

theorem useRows_wf {s : State} {owner : ℕ} {bs : List ℕ} (h : memoryWf s = true) : memoryWf (useRows s owner bs) = true := by
  refine memoryWf_foldl _ h fun s1 a hs => ?_
  split
  next e => exact memoryWf_ite (relRecord_wf (memoryWf_of_snd (useRow_wf hs) e)) (memoryWf_of_snd (useRow_wf hs) e)

theorem readBlock_wf {qasid owner : ℕ} {s : State} {b : ℕ} (h : memoryWf s = true) : memoryWf (readBlock qasid owner s b) = true :=
  memoryWf_ite (qrec_wf (memoryWf_frame h rfl)) (memoryWf_ite h (qrec_wf (memoryWf_frame h rfl)))

theorem readList_wf {s : State} {qasid owner : ℕ} {used read : List ℕ} (h : memoryWf s = true) :
    memoryWf (read.foldl (readBlock qasid owner) (useRows s owner used)) = true :=
  memoryWf_foldl _ (useRows_wf h) fun _ _ hs => readBlock_wf hs

theorem readBlocks_wf {s : State} {qasid : ℕ} {cap : Bool} {owner a n : ℕ} (h : memoryWf s = true) :
    memoryWf (readBlocks s qasid cap owner a n).2 = true := readList_wf h

theorem writeHome_wf {s : State} {qasid : ℕ} {cap : Bool} {owner a : ℕ} {bs : List Byte} (h : memoryWf s = true) :
    memoryWf (writeHome s qasid cap owner a bs).2 = true := by
  unfold writeHome
  extract_lets whole all full part s1 s2 left
  have h2 : memoryWf s2 = true := memoryWf_frame (readList_wf h) rfl
  exact memoryWf_snd_ite (homeWrite_wf h2) (memoryWf_foldl _ h2 fun _ _ hs => homeWrite_wf hs)

theorem readEntry_wf {s : State} {qasid owner a : ℕ} (h : memoryWf s = true) : memoryWf (readEntry s qasid owner a).2 = true := readBlocks_wf h

theorem walkFrom_wf {die qasid q fuel : Nat} {s : State} {level owner off : Nat} {got : List WalkEntry} (h : memoryWf s = true) :
    memoryWf (walkFrom die qasid q fuel s level owner off got).2 = true := by
  induction fuel generalizing s level owner off got with
  | zero => exact h
  | succ n ih =>
    unfold walkFrom
    split
    · exact h
    split
    next e => exact memoryWf_of_snd (readEntry_wf h) e
    next e =>
      have hs := memoryWf_of_snd (readEntry_wf h) e
      split
      · exact hs
      split
      · split
        · exact memoryWf_frame hs rfl
        · exact hs
      split
      · exact hs
      · exact ih hs

theorem walkHeld_wf {s : State} {die qasid q level : Nat} (h : memoryWf s = true) : memoryWf (walkHeld s die qasid q level).2 = true := by
  induction level generalizing s with
  | zero => exact h
  | succ n ih =>
    unfold walkHeld
    split
    · exact ih h
    · split
      · exact memoryWf_frame h rfl
      · exact ih (memoryWf_frame h rfl)

theorem walk_wf {s : State} {die qasid q : Nat} (h : memoryWf s = true) : memoryWf (walk s die qasid q).2 = true := by
  unfold walk
  split
  next e => exact walkFrom_wf (memoryWf_of_snd (walkHeld_wf h) e)
  next e =>
    have hs := memoryWf_of_snd (walkHeld_wf h) e
    extract_lets
    split
    · exact hs
    · exact walkFrom_wf hs

theorem updPart_wf {s : State} {id k : ℕ} {f : Part → Part} (h : memoryWf s = true) : memoryWf (updPart s id k f) = true := updReq_wf h

theorem walkDone_wf {s : State} {id k : ℕ} {second : Bool} {w : Walk} (h : memoryWf s = true) : memoryWf (walkDone s id k second w) = true := by
  unfold walkDone
  extract_lets s1
  have hs1 : memoryWf s1 = true := updPart_wf h
  split
  · exact endReq_wf (updPart_wf hs1)
  · exact memoryWf_ite (updPart_wf hs1) (endReq_wf (updPart_wf hs1))

theorem execQuarryWalk_wf {site : ℕ} {s : State} (h : memoryWf s = true) : OutWf (execQuarryWalk site s) := by
  refine atTile_wf h fun t hs => ?_
  split
  · exact hs
  · split
    · exact walkDone_wf hs
    · refine memoryWf_ite (memoryWf_ite (updPart_wf hs) hs) ?_
      split
      next e3 => exact walkDone_wf (updEng_wf (memoryWf_of_snd (walk_wf hs) e3))
      next e2 => exact walkDone_wf (memoryWf_of_snd (walk_wf hs) e2)

theorem setTracker_wf {s : State} {n : ℕ} {k : Tracker} (h : memoryWf s = true) : memoryWf (setTracker s n k) = true := updEng_wf h

theorem execQuarryPartDispatch_wf {site : ℕ} {s : State} (h : memoryWf s = true) : OutWf (execQuarryPartDispatch site s) := by
  refine atTile_wf h fun t hs => ?_
  split
  · exact hs
  · refine memoryWf_ite hs ?_
    extract_lets s1
    have hs1 : memoryWf s1 = true := updReq_wf hs
    split
    · exact memoryWf_ite (endReq_wf (updPart_wf hs1)) (tileSendAs_wf (updPart_wf (setTracker_wf hs1)))
    · exact hs1

theorem releaseTracker_wf {s : State} {n : ℕ} {held : Bool} (h : memoryWf s = true) : memoryWf (releaseTracker s n held) = true := setTracker_wf h

theorem bumpCw_wf {t : Tile} {n lo : ℕ} (h : tileWf t = true) : tileWf (bumpCw t n lo) = true := cwPut_wf h

theorem execQuarryReply_wf {owner dst : ℕ} {s : State} (h : memoryWf s = true) : OutWf (execQuarryReply owner dst s) := by
  unfold execQuarryReply
  refine atTile_wf h fun t hs => ?_
  split
  · exact hs
  next e =>
    extract_lets n
    refine memoryWf_ite (memoryWf_put (headAny_wf hs _ e) (bumpCw_wf (memoryWf_tile (headAny_wf hs _ e))) rfl) ?_
    split
    · split
      · exact releaseTracker_wf (headAny_wf hs _ e)
      · split
        · exact releaseTracker_wf (headAny_wf hs _ e)
        · split
          · exact memoryWf_put hs (shortAt_wf (memoryWf_tile hs)) rfl
          next e4 => exact endReq_wf (updPart_wf (releaseTracker_wf (engWrite_wf (headAny_wf hs _ e) _ e4)))

theorem execQuarryPartTimeout_wf {site tracker : ℕ} {s : State} (h : memoryWf s = true) : OutWf (execQuarryPartTimeout site tracker s) := by
  unfold execQuarryPartTimeout
  refine atTile_wf h fun t hs => ?_
  extract_lets tr
  split
  · exact hs
  · split
    · exact hs
    · exact endReq_wf (updPart_wf (memoryWf_put (releaseTracker_wf hs) (bumpCw_wf (memoryWf_tile (releaseTracker_wf hs))) rfl))

theorem execTrackerHoldbackEnd_wf {site tracker : ℕ} {s : State} (h : memoryWf s = true) : OutWf (execTrackerHoldbackEnd site tracker s) :=
  atTile_wf h fun _ hs => memoryWf_ite (setTracker_wf hs) hs

theorem updBench_wf {s : State} {pid id : Nat} {f : Bench → Bench} (h : memoryWf s = true)
    (hf : ∀ b, benchWf b = true → benchWf (f b) = true) : memoryWf (updBench s pid id f) = true :=
  mapPart_wf h fun _ hs => partnWf_mk (forall_map (partnWf_benches hs) (fun _ hs1 => benchWf_ite (hf _ hs1) hs1))

theorem wakeTokens_wf {s : State} {ws : List (ℕ × ℕ × Reg)} {w : W64} (h : memoryWf s = true) : memoryWf (wakeTokens s ws w) = true :=
  memoryWf_foldl _ h fun _ _ hs => mapTile_wf hs (fun _ hs1 => complete_wf hs1)

theorem wakeBwait_wf {s : State} {pid id : ℕ} {w : W64} (h : memoryWf s = true) : memoryWf (wakeBwait s pid id w) = true :=
  mapPartn_wf h fun _ hs => tileWf_foldl _ (tileWf_frame hs rfl) (fun _ _ hs1 => complete_wf hs1)

theorem showBench_wf {s : State} {pid : ℕ} (h : memoryWf s = true) : memoryWf (showBench s pid) = true := by
  unfold showBench
  extract_lets s1
  have hs1 : memoryWf s1 = true := mapPart_wf h fun _ hs => partnWf_mk (forall_map (partnWf_benches hs) (fun _ hs1 => benchWf_frame hs1))
  exact mapPartn_wf hs1 fun _ hs => cwPut_wf (cwPut_wf hs)

theorem stopHaul_wf {s : State} {pid id : ℕ} (h : memoryWf s = true) : memoryWf (stopHaul s pid id) = true := memoryWf_frame h rfl

theorem abandon_wf {s : State} {pid id : ℕ} (h : memoryWf s = true) : memoryWf (abandon s pid id) = true := by
  unfold abandon
  split
  · exact h
  · split
    · exact h
    · refine showBench_wf (mapPartn_wf (updBench_wf (stopHaul_wf (wakeBwait_wf (wakeTokens_wf h))) (fun _ _ => benchWf_mk forall_nil)) ?_)
      intro t hs
      split
      · exact tileWf_ite (tileWf_capture hs forall_none) hs
      · exact hs

theorem makeRoom_wf {s : State} {p : Partn} {n : ℕ} (hs : memoryWf s = true) : ∀ r ∈ makeRoom s p n, memoryWf r = true :=
  forall_opt_ite (forall_opt_map (fun _ => abandon_wf hs)) forall_none

theorem copyPage_wf {s : State} {pid owner page : ℕ} {bytes : List Byte} {who : Bench → Bool} (h : memoryWf s = true) :
    memoryWf (copyPage s pid owner page bytes who) = true :=
  showBench_wf (mapPart_wf (memoryWf_frame h rfl) (fun _ hs => partnWf_mk (forall_map (partnWf_benches hs)
    (fun _ hs1 => benchWf_ite (benchWf_frame hs1) hs1))))

theorem found_wf {s : State} {owner a n : ℕ} (h : memoryWf s = true) : memoryWf (found s owner a n).2 = true := by
  unfold found
  split
  next e =>
    split
    · exact memoryWf_frame (memoryWf_of_snd (readBlocks_wf h) e) rfl
    · exact memoryWf_of_snd (readBlocks_wf h) e

theorem pageRead_wf {s : State} {owner page : ℕ} (h : memoryWf s = true) : memoryWf (pageRead s owner page).2 = true := by
  unfold pageRead
  split
  next e => exact memoryWf_of_snd (found_wf h) e

theorem copyFor_wf {need : Partn → Option (State → List Byte × State)} {who : Bench → Bool} {pid owner page fuel : Nat} {s : State}
    (h : memoryWf s = true) (hn : ∀ p, ∀ r ∈ need p, ∀ t, memoryWf t = true → memoryWf (r t).2 = true) :
    memoryWf (copyFor need who pid owner page fuel s).1 = true := by
  induction fuel generalizing s with
  | zero => exact h
  | succ n ih =>
    unfold copyFor
    split
    · exact h
    next p ep =>
      split
      · exact h
      next read er =>
        split
        · split
          next e => exact copyPage_wf (memoryWf_of_snd (hn p read er s h) e)
        · split
          · exact h
          next e => exact ih (makeRoom_wf h _ e)

theorem freezeIn_wf {s : State} {pid : Nat} {keep : Option Nat} {owner page : Nat} (h : memoryWf s = true) :
    memoryWf (freezeIn s pid keep owner page).1 = true := by
  have live (who : Bench → Bool) : ∀ p : Partn, ∀ r ∈ (if p.benches.any who then some (fun s => pageRead s owner page) else none), ∀ t,
      memoryWf t = true → memoryWf (r t).2 = true := fun p =>
    forall_opt_ite (forall_some fun _ ht => pageRead_wf ht) forall_none
  unfold freezeIn
  extract_lets who
  split
  next e => exact copyFor_wf (memoryWf_of_fst (copyFor_wf h (live who)) e) fun p => forall_opt_map fun bs t ht => ht
  · exact copyFor_wf h (live who)

theorem freezePage_wf {s : State} {old : Option (Nat × Nat)} {owner page : Nat} (h : memoryWf s = true) :
    memoryWf (freezePage s old owner page).1 = true := by
  refine memoryWf_foldl_fst _ h fun a p ha => ?_
  split
  · exact ha
  · exact freezeIn_wf ha

theorem freezeAll_wf {s : State} {old : Option (Nat × Nat)} {owner : Nat} {l : List Nat} (h : memoryWf s = true) :
    memoryWf (freezeAll s old owner l).1 = true := by
  induction l generalizing s with
  | nil => exact h
  | cons g r ih =>
    unfold freezeAll
    split
    next e => exact ih (memoryWf_of_fst (freezePage_wf h) e)
    · exact freezePage_wf h

theorem checkFlipped_wf {s : State} {pid : ℕ} (h : memoryWf s = true) : memoryWf (checkFlipped s pid) = true := by
  unfold checkFlipped
  split
  · exact h
  · split
    · exact mapPart_wf h (fun _ hs => partnWf_mk (forall_map (partnWf_benches hs) (fun _ hs1 => benchWf_ite (benchWf_frame hs1)
        hs1)))
    · exact h

theorem quarryFlip_wf {s : State} {pid owner : ℕ} (h : memoryWf s = true) : memoryWf (quarryFlip s pid owner) = true := by
  unfold quarryFlip
  split
  · exact h
  · split
    · exact h
    · exact checkFlipped_wf (updBench_wf h (fun _ hs => benchWf_frame hs))

theorem execQuarryBenchFlip_wf {pid owner : ℕ} {s : State} (h : memoryWf s = true) : OutWf (execQuarryBenchFlip pid owner s) :=
  outWf_next (quarryFlip_wf h)

theorem frozenWrite_wf {b : Bench} {owner a : ℕ} {bs : List Byte} (h : benchWf b = true) : benchWf (frozenWrite b owner a bs) = true :=
  benchWf_frame h

theorem alsoFrozen_wf {s : State} {pid : ℕ} {cap : Bool} {owner : ℕ} {old : Option Bench} {ws : List (ℕ × List Byte)} (h : memoryWf s = true) :
    memoryWf (alsoFrozen s pid cap owner old ws) = true := by
  unfold alsoFrozen
  split
  · exact memoryWf_ite h (updBench_wf h (fun _ hs => benchWf_foldl _ hs (fun _ _ hs1 => frozenWrite_wf hs1)))
  · exact h

theorem writeParts_wf {s : State} {qasid : Nat} {cap : Bool} {owner : Nat} {l : List (Nat × List Byte)} (h : memoryWf s = true) :
    memoryWf (writeParts s qasid cap owner l).2 = true := by
  induction l generalizing s with
  | nil => exact h
  | cons w r ih => exact ih (writeHome_wf h)

theorem performPart_wf {s : State} {pid qasid owner : Nat} {h : BitVec 512} {body src : List Byte} {old : Option Bench}
    (hs : memoryWf s = true) : memoryWf (performPart s pid qasid owner h body src old).2.2 = true := by
  unfold performPart
  extract_lets
  split
  · split
    next e1 =>
      split
      · exact memoryWf_of_snd (readBlocks_wf hs) e1
      · exact memoryWf_of_snd (readBlocks_wf hs) e1
  · split
    next e =>
      have hs1 := memoryWf_of_snd (by exact memoryWf_foldl_snd _ hs fun q x hq => readBlocks_wf hq) e
      split
      · exact hs1
      · exact hs1
  · split
    next e1 =>
      split
      · exact memoryWf_of_snd (readBlocks_wf hs) e1
      · exact alsoFrozen_wf (homeWrite_wf (memoryWf_of_snd (readBlocks_wf hs) e1))
  · exact alsoFrozen_wf (writeParts_wf hs)

theorem servePart_wf {s : State} {pid qasid owner : ℕ} {h : BitVec 512} {body src : List Byte} {old : Option Bench} (hu : memoryWf s = true) :
    memoryWf (servePart s pid qasid owner h body src old).2.2 = true := by
  unfold servePart
  split
  · exact performPart_wf hu
  · extract_lets s'
    have hs' : memoryWf s' = true := memoryWf_frame hu rfl
    split
    · exact memoryWf_ite (performPart_wf hs') hs'
    · exact performPart_wf hs'

theorem proxyStep_wf {s : State} {owner : ℕ} {a : Transit} (h : memoryWf s = true) : ∀ r ∈ proxyStep s owner a, memoryWf r = true := by
  unfold proxyStep
  split
  · exact forall_none
  · exact forall_some (memoryWf_ite (memoryWf_frame h rfl) h)
  · exact forall_some (memoryWf_frame h rfl)

theorem partGone_wf {s : State} {a : Transit} (h : memoryWf s = true) : memoryWf (partGone s a) = true := memoryWf_frame h rfl

theorem flipFor_wf {s : State} {pid owner : ℕ} {colour : Bool} (h : memoryWf s = true) : memoryWf (flipFor s pid owner colour) = true := by
  unfold flipFor
  split
  · exact memoryWf_ite (quarryFlip_wf h) h
  · exact h

theorem copyLand_wf {s : State} {a y : Transit} (h : memoryWf s = true) : memoryWf (copyLand s a y) = true := memoryWf_frame h rfl

theorem copyRead_wf {s : State} {t : Tile} {x : Transit} (h : memoryWf s = true) : memoryWf (copyRead s t x) = true := by
  unfold copyRead
  split
  extract_lets _ _ s1
  have hs : memoryWf s1 = true := memoryWf_ite h (flipFor_wf h)
  split
  next e =>
    extract_lets _ _ s2
    have hs2 : memoryWf s2 = true := memoryWf_frame (memoryWf_of_snd (readBlocks_wf hs) e) rfl
    exact memoryWf_ite (copyLand_wf hs2) (memoryWf_ite (partGone_wf hs2) (sendPkt_wf hs2))

theorem partReply_wf {s : State} {t : Tile} {owner : ℕ} {h : BitVec 512} {code : ℕ} {body : List Byte} (hs : memoryWf s = true) :
    memoryWf (partReply s t owner h code body) = true := memoryWf_ite (sendPkt_wf (memoryWf_frame hs rfl)) (sendPkt_wf hs)

theorem partServed_wf {s : State} {t : Tile} {owner : ℕ} {a : Transit} (hs : memoryWf s = true) : memoryWf (partServed s t owner a) = true := by
  unfold partServed
  extract_lets h1
  split
  · split
    next e1 => exact memoryWf_of_fst (freezeAll_wf (flipFor_wf hs)) e1
    next e1 =>
      extract_lets s21
      have hs21 : memoryWf s21 = true := by
        unfold s21
        exact partGone_wf (memoryWf_of_fst (freezeAll_wf (flipFor_wf hs)) e1)
      split
      next e2 =>
        refine partReply_wf (memoryWf_of_third ?_ e2)
        split
        · exact hs21
        · exact servePart_wf hs21

theorem colouredRoom_wf {s : State} {pid : ℕ} {colour cap : Bool} {owner a n : ℕ} (h : memoryWf s = true) :
    memoryWf (colouredRoom s pid colour cap owner a n).1 = true := by
  unfold colouredRoom
  split
  · exact h
  · exact freezeAll_wf (flipFor_wf h)

theorem colouredWrite_wf {s : State} {pid qasid : ℕ} {colour cap : Bool} {owner a : ℕ} {bs : List Byte} (h : memoryWf s = true) :
    memoryWf (colouredWrite s pid qasid colour cap owner a bs).2 = true := by
  unfold colouredWrite
  split
  next e => exact memoryWf_of_fst (colouredRoom_wf h) e
  next e =>
    split
    next e1 => exact alsoFrozen_wf (memoryWf_of_snd (writeHome_wf (memoryWf_of_fst (colouredRoom_wf h) e)) e1)

theorem execQuarryPartServe_wf {src owner : ℕ} {s : State} (h : memoryWf s = true) : OutWf (execQuarryPartServe src owner s) := by
  unfold execQuarryPartServe
  refine outWf_next ?_
  split
  · exact h
  · split
    · exact partGone_wf h
    · extract_lets cap
      split
      next e2 => exact memoryWf_ite h (forall_opt_ite (proxyStep_wf h) forall_none _ e2)
      · refine memoryWf_ite h (memoryWf_ite ?_ (partServed_wf h))
        split
        · exact copyLand_wf h
        · exact copyRead_wf h

theorem scrubQuarry_wf {s : State} {owner : ℕ} (h : memoryWf s = true) : memoryWf (scrubQuarry s owner) = true :=
  memoryWf_ite h (memoryWf_frame (readBlocks_wf h) rfl)

theorem execQuarryScrub_wf {owner block : ℕ} {s : State} (h : memoryWf s = true) : OutWf (execQuarryScrub owner block s) :=
  outWf_next (memoryWf_ite (scrubQuarry_wf h) h)

end Sys2Proof.Machine

/-! PROOFS. Timed flits, multicast, halo rows, set-aside lanes and fences keep every memory in canonical form. -/

namespace Sys2Proof.Machine

open Sys2Proof

theorem updRt_wf {t : Tile} {f : Router → Router} (h : tileWf t = true) : tileWf (updRt t f) = true := tileWf_frame h rfl

theorem countFstat_wf {t : Tile} {n : ℕ} (h : tileWf t = true) : tileWf (countFstat t n) = true := updRt_wf h

theorem timedSend_wf {o : EngOp} {s : State} (h : memoryWf s = true) : ∀ r ∈ timedSend o s, memoryWf r = true :=
  forall_opt_map fun _ => memoryWf_put (checkRead_wf h) (updRt_wf (memoryWf_tile (checkRead_wf h))) rfl

theorem runSendt_wf {o : EngOp} {s : State} (h : memoryWf s = true) : memoryWf (runSendt o s) = true := finish_wf (dropRanges_wf h)

theorem freeTimed_wf {s : State} (h : memoryWf s = true) : memoryWf (freeTimed s) = true :=
  memoryWf_ite h (memoryWf_put (dropRanges_wf h) (updRt_wf (memoryWf_tile (dropRanges_wf h))) rfl)

theorem routerTake_wf {t : Tile} {p : Packet} (h : tileWf t = true) : tileWf (routerTake t p) = true := updRt_wf h

theorem runMsend_wf {o : EngOp} {s : State} (h : memoryWf s = true) : memoryWf (runMsend o s) = true := by
  unfold runMsend
  extract_lets e
  split
  · exact finish_wf (dropRanges_wf h)
  · split
    next e1 =>
      have h1 := memoryWf_of_snd (stampPkt_wf (checkRead_wf (dropRanges_wf h))) e1
      exact finish_wf (memoryWf_put h1 (routerTake_wf (memoryWf_tile h1)) rfl)

theorem haloRow_wf {o : EngOp} {acc : ℕ × State} {k : ℕ} (h : memoryWf acc.2 = true) : memoryWf (haloRow o acc k).2 = true := by
  unfold haloRow
  extract_lets s
  split
  · exact h
  · exact tileSend_wf (checkRead_wf h)

theorem runHalo_wf {o : EngOp} {s : State} (h : memoryWf s = true) : memoryWf (runHalo o s) = true :=
  finish_wf (dropRanges_wf (memoryWf_foldl_snd _ h (fun _ _ hs => haloRow_wf hs)))

theorem runFencex_wf {o : EngOp} {s : State} (h : memoryWf s = true) : memoryWf (runFencex o s) = true := by
  refine memoryWf_ite (finish_wf h) ?_
  split
  · exact finish_wf h
  · exact updEng_wf (memoryWf_frame h rfl)

theorem departFlit_wf {s : State} (h : memoryWf s = true) : memoryWf (departFlit s) = true := by
  refine memoryWf_ite h ?_
  split
  · exact h
  · split
    next e1 =>
      extract_lets t
      have ht : tileWf t = true := updRt_wf (memoryWf_tile (memoryWf_of_snd (stampPkt_wf h) e1))
      exact finish_wf (memoryWf_put (memoryWf_of_snd (stampPkt_wf h) e1) (tileWf_ite ht (countFstat_wf ht)) rfl)

theorem execSendtDepart_wf {site : ℕ} {s : State} (h : memoryWf s = true) : OutWf (execSendtDepart site s) :=
  atTile_wf h fun _ hs => departFlit_wf hs

theorem discard_wf {s : State} {p : Packet} {n : ℕ} (h : memoryWf s = true) : memoryWf (discard s p n) = true :=
  countIn_wf (memoryWf_put h (countFstat_wf (memoryWf_tile h)) rfl)

theorem schedOut_wf {p : Packet} {s : State} {o : Nat} (h : memoryWf s = true) : memoryWf (schedOut p s o) = true := by
  unfold schedOut
  extract_lets site now inside
  clear_value inside
  split
  · exact memoryWf_ite (memoryWf_put h (updRt_wf (memoryWf_tile h)) rfl) (discard_wf h)
  · split
    · exact mapTile_wf h fun _ hs => updRt_wf hs
    · exact discard_wf h

theorem forwardFlit_wf {port : ℕ} {s : State} (h : memoryWf s = true) : memoryWf (forwardFlit port s) = true := by
  unfold forwardFlit
  split
  · exact h
  · extract_lets e1
    split
    · exact discard_wf (memoryWf_put h (updRt_wf (memoryWf_tile h)) rfl)
    · exact memoryWf_foldl _ (memoryWf_put h (updRt_wf (memoryWf_tile h)) rfl) fun _ _ hs => schedOut_wf hs

theorem execScheduledFlitForward_wf {site port : ℕ} {s : State} (h : memoryWf s = true) : OutWf (execScheduledFlitForward site port s) :=
  atTile_wf h fun _ hs => forwardFlit_wf hs

theorem queueFlit_wf {s : State} (h : memoryWf s = true) : memoryWf (queueFlit s) = true := by
  unfold queueFlit
  split
  · exact h
  · extract_lets s1
    have hs1 : memoryWf s1 = true := memoryWf_put h (updRt_wf (memoryWf_tile h)) rfl
    exact memoryWf_ite (memoryWf_put hs1 (updRt_wf (memoryWf_tile hs1)) rfl) (discard_wf hs1)

theorem execTimedArrival_wf {site : ℕ} {s : State} (h : memoryWf s = true) : OutWf (execTimedArrival site s) :=
  atTile_wf h fun _ hs => queueFlit_wf hs

theorem feedQueue_wf {s : State} (h : memoryWf s = true) : memoryWf (feedQueue s) = true := by
  unfold feedQueue
  split
  · exact h
  · extract_lets s'
    have hs' : memoryWf s' = true := memoryWf_put h (updRt_wf (memoryWf_tile h)) rfl
    refine memoryWf_ite (countIn_wf hs') (memoryWf_ite h ?_)
    split
    next e1 => exact noteArrival_wf (countIn_wf (admitMsg_wf (recordChannel_wf hs') _ e1))
    · exact h

theorem execTimedQueueDeliver_wf {site : ℕ} {s : State} (h : memoryWf s = true) : OutWf (execTimedQueueDeliver site s) :=
  atTile_wf h fun _ hs => feedQueue_wf hs

theorem eachTile_wf {s : State} {ok : Tile → Bool} {f : State → State} (hs : memoryWf s = true)
    (hf : ∀ x, memoryWf x = true → memoryWf (f x) = true) : memoryWf (eachTile s ok f) = true := focus_wf
      (memoryWf_foldl _ hs (fun _ _ hs1 => hf _ (focus_wf hs1)))

theorem fabricEnd_wf {s : State} (h : memoryWf s = true) : memoryWf (fabricEnd s) = true :=
  eachTile_wf h fun _ hs => feedQueue_wf (memoryWf_foldl _ hs fun _ _ hs => forwardFlit_wf hs)

theorem mcastOut_wf {p : Packet} {s : State} {o : Nat} (h : memoryWf s = true) : memoryWf (mcastOut p s o) = true := by
  unfold mcastOut
  extract_lets site budget next
  clear_value next
  split
  · exact memoryWf_ite (discard_wf h) (sendPkt_wf h)
  · split
    · exact memoryWf_ite (discard_wf h) (mapTile_wf h (fun _ hs => routerTake_wf hs))
    · exact discard_wf h

theorem execMulticastForward_wf {site : ℕ} {s : State} (h : memoryWf s = true) : OutWf (execMulticastForward site s) := by
  refine atTile_wf h fun t hs => ?_
  split
  · exact hs
  · extract_lets s1
    have hs1 : memoryWf s1 = true := memoryWf_put hs (updRt_wf (memoryWf_tile hs)) rfl
    split
    · exact discard_wf hs1
    · exact memoryWf_foldl _ (memoryWf_put hs1 (tileWf_frame (memoryWf_tile hs1) rfl) rfl) fun _ _ hs2 => mcastOut_wf hs2

theorem haloBytesLand_wf {src : ℕ} {bs : List (ℕ × Byte)} {s : State} (h : memoryWf s = true) : memoryWf (haloBytesLand src bs s) = true :=
  memoryWf_ite h (memoryWf_put (storeRead_wf h) (tileWf_frame (sramWrite_wf _ _ _ (memoryWf_tile (storeRead_wf h))) rfl) rfl)

theorem haloDrip_wf {s : State} (h : memoryWf s = true) : memoryWf (haloDrip s) = true :=
  memoryWf_ite h (memoryWf_frame (updEng_wf (memoryWf_foldl _ h (fun _ _ hs => haloBytesLand_wf hs))) rfl)

theorem haloLand_wf {src : ℕ} {p : Packet} {s : State} (h : memoryWf s = true) : memoryWf (haloLand src p s) = true := haloDrip_wf (updEng_wf h)

theorem mbCount_wf {t : Tile} {n now : ℕ} {good : Bool} (h : tileWf t = true) : tileWf (mbCount t n now good) = true := cwPut_wf (tileWf_frame h rfl)

theorem haloCount_wf {r : HaloRow} {p : Packet} {s' : State} (h : memoryWf s' = true) : memoryWf (haloCount r p s') = true :=
  have h1 := updEng_wf (haloBytesLand_wf (countIn_wf (recordChannel_wf h)))
  memoryWf_put h1 (mbCount_wf (tileWf_frame (memoryWf_tile h1) rfl)) rfl

theorem execHaloArrival_wf {src dst : ℕ} {s : State} (h : memoryWf s = true) : OutWf (execHaloArrival src dst s) := by
  refine atTile_wf h fun t hs => ?_
  refine memoryWf_ite hs ?_
  split
  · exact hs
  next e =>
    split
    · exact haloLand_wf hs
    · exact memoryWf_ite (haloCount_wf (headFor_wf hs _ e)) hs

theorem assignAside_wf {t : Tile} {plane dst now : ℕ} (h : tileWf t = true) : tileWf (assignAside t plane dst now) = true := updRt_wf h

theorem standAt_wf {s : State} {site port : ℕ} {a : Transit} (h : memoryWf s = true) : memoryWf (standAt s site port a) = true :=
  mapTile_wf (memoryWf_tiles h (tileWf_ite (memoryWf_tile h) (updRt_wf (memoryWf_tile h))) (forall_map (memoryWf_rest h) (fun _ hs => tileWf_ite
    hs (updRt_wf hs))) rfl) fun _ hs => updRt_wf hs

theorem execCongestionDetect_wf {site port plane dst : ℕ} {s : State} (h : memoryWf s = true) :
    OutWf (execCongestionDetect site port plane dst s) := by
  refine outWf_next ?_
  split
  · exact h
  · split
    · exact memoryWf_ite h (mapTile_wf h (fun _ hs => assignAside_wf hs))
    · exact h
  · split
    · exact standAt_wf h
    · exact h

theorem execCongestionNotice_wf {site port plane dst : ℕ} {s : State} (h : memoryWf s = true) :
    OutWf (execCongestionNotice site port plane dst s) := by
  refine outWf_next ?_
  split
  · exact h
  · split
    · exact h
    · exact memoryWf_ite (mapTile_wf h (fun _ hs => assignAside_wf hs)) h

theorem execSetasideRelease_wf {site port plane dst : ℕ} {s : State} (h : memoryWf s = true) : OutWf (execSetasideRelease site port plane dst s) :=
  outWf_next (mapTile_wf h (fun _ hs => updRt_wf hs))

theorem asideStart_wf {s : State} (h : memoryWf s = true) : memoryWf (asideStart s) = true :=
  memoryWf_put (memoryWf_put h (updRt_wf (memoryWf_tile h)) rfl) (updRt_wf (updRt_wf (memoryWf_tile h))) rfl

theorem fabricStart_wf {s : State} (h : memoryWf s = true) : memoryWf (fabricStart s) = true :=
  eachTile_wf h fun _ hs =>
    have h1 := memoryWf_ite hs (asideStart_wf hs)
    queueFlit_wf (departFlit_wf (freeTimed_wf (memoryWf_put h1 (updRt_wf (memoryWf_tile h1)) rfl)))

theorem execFenceMarker_wf {die peer count : ℕ} {s : State} (h : memoryWf s = true) : OutWf (execFenceMarker die peer count s) := by
  refine outWf_next ?_
  split
  · exact h
  · exact memoryWf_ite (memoryWf_frame h rfl) (relRecord_wf (memoryWf_frame h rfl))

theorem execFenceVerdict_wf {site peerCount : ℕ} {s : State} (h : memoryWf s = true) : OutWf (execFenceVerdict site peerCount s) := by
  unfold execFenceVerdict
  refine atTile_wf h fun t hs => ?_
  extract_lets mine
  split
  · exact hs
  · split
    · exact hs
    · extract_lets s1
      have hs1 : memoryWf s1 = true := finish_wf (updEng_wf hs)
      exact memoryWf_ite hs1 (memoryWf_put hs1 (raiseAsync_wf (memoryWf_tile hs1)) rfl)

theorem execLinkCrcRetry_wf {a a1 : ℕ} {s : State} (h : memoryWf s = true) : OutWf (execLinkCrcRetry a a1 s) := outWf_next h

end Sys2Proof.Machine

/-! PROOFS. The dispatcher, stealing and task switches keep every memory in canonical form. -/

namespace Sys2Proof.Machine

open Sys2Proof

theorem updDisp_wf {t : Tile} {f : Dispatcher → Dispatcher} (h : tileWf t = true) : tileWf (updDisp t f) = true := tileWf_frame h rfl

theorem pushDeque_wf {t : Tile} {r : TaskRec} (h : tileWf t = true) : tileWf (pushDeque t r) = true := regionWrite_wf _ _ _ (updDisp_wf h)

theorem runSteal_wf {strict : Bool} {o : EngOp} {s : State} (h : memoryWf s = true) : memoryWf (runSteal strict o s) = true := by
  unfold runSteal
  extract_lets rank site working back
  have hb : memoryWf back = true := memoryWf_ite (memoryWf_put h (updDisp_wf (memoryWf_tile h)) rfl) h
  exact memoryWf_ite (finish_wf hb) (memoryWf_ite (finish_wf hb) (updEng_wf (tileSend_wf (updEng_wf h))))

theorem imageDeque_wf {t : Tile} {rs : List TaskRec} {top : ℕ} (h : tileWf t = true) : tileWf (imageDeque t rs top) = true := by
  unfold imageDeque
  split
  · exact h
  next e => exact tileWf_capture h (forall_some (imagePut_wf (captureWf_mk (captureWf_img (tileWf_cap h _ e)))))

theorem imageStolen_wf {t : Tile} {r : TaskRec} (h : tileWf t = true) : tileWf (imageStolen t r) = true := by
  unfold imageStolen
  split
  · exact h
  · exact tileWf_ite (imageDeque_wf h) h

theorem imageTaken_wf {t : Tile} {handle : ℕ} {r : TaskRec} (h : tileWf t = true) : tileWf (imageTaken t handle r) = true := by
  unfold imageTaken
  split
  · exact h
  · exact tileWf_ite (imageDeque_wf h) h

theorem serveSteal_wf {src : Nat} {p : Packet} {s : State} (h : memoryWf s = true) : memoryWf (serveSteal src p s) = true := by
  unfold serveSteal
  extract_lets rs body t1 t2 hd
  have h1 : tileWf t1 = true := tileWf_frame (memoryWf_tile h) rfl
  have h2 : tileWf t2 = true := by
    clear_value rs t1
    unfold t2
    split
    · exact tileWf_ite (imageStolen_wf h1) h1
    · exact h1
  exact tileSend_wf (memoryWf_put h h2 rfl)

theorem execStealServe_wf {src dst : ℕ} {s : State} (h : memoryWf s = true) : OutWf (execStealServe src dst s) := by
  refine atTile_wf h fun t hs => ?_
  refine memoryWf_ite hs ?_
  split
  · exact hs
  next e => exact memoryWf_ite (memoryWf_put hs (updDisp_wf (memoryWf_tile hs)) rfl) (memoryWf_ite (serveSteal_wf (headFor_wf hs _ e)) hs)

theorem execStealAnswer_wf {src dst : ℕ} {s : State} (h : memoryWf s = true) : OutWf (execStealAnswer src dst s) := by
  refine atTile_wf h fun t hs => ?_
  split
  · exact hs
  next e =>
    split
    · exact headFor_wf hs _ e
    · extract_lets s1
      have hs1 : memoryWf s1 = true := headFor_wf hs _ e
      split
      · exact finish_wf (memoryWf_put hs1 (updDisp_wf (memoryWf_tile hs1)) rfl)
      · exact finish_wf (memoryWf_put hs1 (pushDeque_wf (imageTaken_wf (updDisp_wf (memoryWf_tile hs1)))) rfl)

theorem addReady_wf {t : Tile} {r : Ready} (h : tileWf t = true) : tileWf (addReady t r) = true := updDisp_wf h

theorem startTask_wf {t : Tile} {r : TaskRec} {idle : Bool} (h : tileWf t = true) : tileWf (startTask t r idle) = true := tileWf_frame h rfl

theorem dispatchTile_wf {t : Tile} (h : tileWf t = true) : tileWf (dispatchTile t) = true := by
  refine tileWf_ite h ?_
  split
  · exact startTask_wf (updDisp_wf h)
  · split
    · exact tileWf_frame h rfl
    · exact updDisp_wf h
  · split
    · exact tileWf_frame h rfl
    · exact updDisp_wf h
  · split
    · exact startTask_wf (updDisp_wf h)
    · exact tileWf_ite (startTask_wf h) (tileWf_ite (updDisp_wf h) h)

theorem dispatchAt_wf {t : Tile} {now : ℕ} (h : tileWf t = true) : tileWf (dispatchAt t now) = true :=
  tileWf_ite (updDisp_wf (dispatchTile_wf h)) (dispatchTile_wf h)

theorem execDispatch_wf {site : ℕ} {s : State} (h : memoryWf s = true) : OutWf (execDispatch site s) :=
  atTile_wf h fun _ hs => memoryWf_ite (memoryWf_put hs (dispatchAt_wf (memoryWf_tile hs)) rfl) hs

theorem parkTask_wf {t : Tile} {no : ℕ} {wait : Reg} (h : tileWf t = true) : tileWf (parkTask t no wait) = true :=
  updDisp_wf (tileWf_frame (regionWrite_wf _ _ _ h) rfl)

theorem clearMask_wf {t : Tile} (h : tileWf t = true) : tileWf (clearMask t) = true := cwPut_wf h

theorem doYield_wf {t : Tile} {now : ℕ} (h : tileWf t = true) : tileWf (doYield t now) = true := by
  unfold doYield
  split
  · exact addReady_wf (clearMask_wf (parkTask_wf h))
  · exact h

theorem doSuspend_wf {t : Tile} {r : Reg} {now : ℕ} (h : tileWf t = true) : tileWf (doSuspend t r now) = true := by
  unfold doSuspend
  split
  · exact tileWf_ite (clearMask_wf (parkTask_wf h)) (doYield_wf h)
  · exact h

theorem settleFlights_wf {n : Nat} {t : Tile} {now : Nat} (h : tileWf t = true) : tileWf (settleFlights n t now) = true := by
  induction n generalizing t with
  | zero => exact h
  | succ n ih => exact tileWf_ite h (ih (beginCycle_wf (tileWf_frame h rfl)))

theorem endTask_wf {t : Tile} (h : tileWf t = true) : tileWf (endTask t) = true := clearMask_wf (tileWf_frame h rfl)

theorem doExit_wf {s : State} (h : memoryWf s = true) : memoryWf (doExit s) = true :=
  memoryWf_put (updEng_wf h) (endTask_wf (memoryWf_tile (updEng_wf h))) rfl

theorem unmaskLate_wf {t : Tile} (h : tileWf t = true) : tileWf (unmaskLate t) = true := tileWf_ite (cwPut_wf (updDisp_wf h)) h

theorem preemptTask_wf {t : Tile} {now : ℕ} (h : tileWf t = true) : tileWf (preemptTask t now) = true :=
  addReady_wf (clearMask_wf (tileWf_frame (regionWrite_wf _ _ _ (unmaskLate_wf h)) rfl))

theorem switchDue_wf {s : State} (h : memoryWf s = true) : ∀ r ∈ switchDue s, memoryWf r = true := by
  unfold switchDue
  extract_lets s1
  have hs1 : memoryWf s1 = true := memoryWf_put h (beginCycle_wf (memoryWf_tile h)) rfl
  split
  · exact forall_none
  · split
    · exact forall_some (memoryWf_put hs1 (preemptTask_wf (memoryWf_tile hs1)) rfl)
    · split
      · exact forall_some (doExit_wf (memoryWf_put hs1 (tileWf_frame (settleFlights_wf (unmaskLate_wf (memoryWf_tile hs1))) rfl) rfl))
      · exact forall_none

theorem execTaskPreempt_wf {site : ℕ} {s : State} (h : memoryWf s = true) : OutWf (execTaskPreempt site s) :=
  atTile_wf h fun _ hs => memoryWf_ite (memoryWf_getD (switchDue_wf hs) hs) hs

theorem execPmaskExpire_wf {site : ℕ} {s : State} (h : memoryWf s = true) : OutWf (execPmaskExpire site s) :=
  atTile_wf h fun _ hs => memoryWf_ite (memoryWf_getD (switchDue_wf hs) hs) hs

theorem execSyncRelease_wf {pid : ℕ} {s : State} (h : memoryWf s = true) : OutWf (execSyncRelease pid s) := by
  refine outWf_next ?_
  split
  · exact h
  · exact memoryWf_ite (mapPartn_wf h (fun _ hs => updDisp_wf hs)) h

end Sys2Proof.Machine

/-! PROOFS. Trace records keep the memories of a tile in canonical form. -/

namespace Sys2Proof.Machine

open Sys2Proof

theorem traceLose_wf {t : Tile} {n : ℕ} (h : tileWf t = true) : tileWf (traceLose t n) = true := cwPut_wf h

theorem tracePush_wf {t : Tile} {st : ℕ} {extra : List (BitVec 32)} {now : ℕ} (h : tileWf t = true) : tileWf (tracePush t st extra now) = true :=
  tileWf_ite h (tileWf_ite (traceLose_wf h) (tileWf_frame h rfl))

theorem traceTo_wf {t : Tile} {st now : ℕ} (h : tileWf t = true) : tileWf (traceTo t st now) = true := tileWf_ite h (tracePush_wf (tileWf_frame h rfl))

theorem traceNote_wf {t : Tile} {now : ℕ} (h : tileWf t = true) : tileWf (traceNote t now) = true := traceTo_wf h

theorem traceMark_wf {t : Tile} {v : W64} {now : ℕ} (h : tileWf t = true) : tileWf (traceMark t v now) = true := tracePush_wf h

end Sys2Proof.Machine

/-! PROOFS. Waymarks, events and rollback keep every memory in canonical form. -/

namespace Sys2Proof.Machine

open Sys2Proof

theorem runGvtw_wf {o : EngOp} {s : State} (h : memoryWf s = true) : memoryWf (runGvtw o s) = true := memoryWf_ite (finish_wf h) (updEng_wf h)

theorem writeFrame_wf {t : Tile} {seg : ℕ} {m : Waymark} (h : tileWf t = true) : tileWf (writeFrame t seg m) = true :=
  tileWf_foldl _ h fun _ _ hs => trailRecord_wf _ _ _ _ _ _ hs

theorem placeWaymark_wf {t : Tile} {pc : LAddr} (h : tileWf t = true) : tileWf (placeWaymark t pc) = true :=
  cwPut_wf (tileWf_frame (writeFrame_wf h) rfl)

theorem enterEvent_wf {t : Tile} {lvt : W64} {key : List ℕ} (h : tileWf t = true) : tileWf (enterEvent t lvt key) = true :=
  cwPut_wf (tileWf_frame h rfl)

theorem consumeEvent_wf {s : State} {o : EngOp} {m : HamEntry} (h : memoryWf s = true) : memoryWf (consumeEvent s o m) = true :=
  updEng_wf (setHamper_wf (bkpmHit_wf (updEng_wf h)))

theorem openEvent_wf {s : State} {pc : LAddr} {ev : W64 × Option HamEntry × Bool} {o : Option EngOp} (h : memoryWf s = true) :
    memoryWf (openEvent s pc ev o) = true := by
  unfold openEvent
  split
  · split
    · exact finish_wf h
    · exact memoryWf_put h (enterEvent_wf (placeWaymark_wf (memoryWf_tile h))) rfl
    · exact consumeEvent_wf (memoryWf_put h (enterEvent_wf (tileWf_ite (memoryWf_tile h) (placeWaymark_wf (memoryWf_tile h)))) rfl)
    · exact h

theorem pushLog_wf {t : Tile} {e : LogEntry} (h : tileWf t = true) : tileWf (pushLog t e) = true := tileWf_frame (regionWrite_wf _ _ _ h) rfl

theorem pushCommit_wf {t : Tile} {c : Commit} (h : tileWf t = true) : tileWf (pushCommit t c) = true := tileWf_frame (regionWrite_wf _ _ _ h) rfl

theorem countCw_wf {t : Tile} {n lo : ℕ} (h : tileWf t = true) : tileWf (countCw t n lo) = true := bumpCw_wf h

theorem sendAnti_wf {s : State} {e : LogEntry} (h : memoryWf s = true) : memoryWf (sendAnti s e) = true := by
  unfold sendAnti
  extract_lets s1
  have hs1 : memoryWf s1 = true := memoryWf_put h (countCw_wf (memoryWf_tile h)) rfl
  split
  · exact hs1
  · exact memoryWf_ite (memoryWf_put (tileSend_wf hs1) (tileWf_frame (memoryWf_tile (tileSend_wf hs1)) rfl) rfl) (tileSend_wf hs1)

theorem departNow_wf {s : State} {o : SendOp} (h : memoryWf s = true) : memoryWf (departNow s o) = true :=
  finish_wf (dropRanges_wf (updSend_wf (sendLeaves_wf h)))

theorem flushSends_wf {s : State} (h : memoryWf s = true) : memoryWf (flushSends s) = true := by
  refine memoryWf_foldl _ (memoryWf_foldl _ (updEng_wf h) ?_) fun _ _ hs => departNow_wf hs
  intro s1 a hs
  split
  · exact runSend_wf hs
  · exact runBackSend_wf hs

theorem writeBack_wf {t : Tile} {gs : List Segment} (h : tileWf t = true) : tileWf (writeBack t gs) = true :=
  tileWf_foldl _ h fun _ _ hs => tileWf_foldl _ hs (fun _ _ hs1 => tileWf_frame (sramWrite_wf _ _ _ hs1) rfl)

theorem dropUndone_wf {s : State} {n : ℕ} (h : memoryWf s = true) : memoryWf (dropUndone s n).2 = true := dropRanges_wf (updEng_wf h)

theorem landLoose_wf {s : State} {bs : List (ℕ × Byte)} (h : memoryWf s = true) : memoryWf (landLoose s bs) = true :=
  memoryWf_ite h (memoryWf_put (memoryWf_frame (storeRead_wf h) rfl) (sramWrite_wf _ _ _ (memoryWf_tile (storeRead_wf h))) rfl)

theorem doRollback_wf {s : State} (h : memoryWf s = true) : memoryWf (doRollback s) = true := by
  unfold doRollback
  split
  · exact memoryWf_put h (tileWf_frame (memoryWf_tile h) rfl) rfl
  next g sec _ =>
    extract_lets n s1 undone sent late s2 _ _ s3
    have h2 : memoryWf s2 = true := flushSends_wf (memoryWf_put h (traceTo_wf (memoryWf_tile h)) rfl)
    have h3 : memoryWf s3 = true := memoryWf_put h2 (tileWf_frame (memoryWf_tile h2) rfl) rfl
    clear_value s2 s3
    split
    next e =>
      have h4 := memoryWf_of_snd (dropUndone_wf h3) e
      extract_lets cs s5 gone s6 t6 segs wayvt b _ _ t7 t8 s7 s8 t9 s9
      have h5 : memoryWf s5 = true := dropRanges_wf h4
      have h6 : memoryWf s6 = true := landLoose_wf (memoryWf_put h5 (writeBack_wf (memoryWf_tile h5)) rfl)
      clear_value s5 s6
      have h7 : tileWf t7 = true := tileWf_frame (memoryWf_tile h6) (by split <;> rfl)
      clear_value t7
      have h8 : memoryWf s8 = true := updEng_wf (memoryWf_foldl _ (memoryWf_put h6 (cwPut_wf (cwPut_wf h7)) rfl) fun _ _ hs => sendAnti_wf hs)
      clear_value s8
      have h9 : tileWf t9 = true := countCw_wf (memoryWf_tile h8)
      have h10 : memoryWf s9 = true := settleHamper_wf (memoryWf_put h8 (tileWf_ite (countCw_wf h9) h9) rfl)
      exact memoryWf_put h10 (traceNote_wf (memoryWf_tile h10)) rfl

theorem reachBoundary_wf {s : State} (h : memoryWf s = true) : memoryWf (reachBoundary s) = true :=
  memoryWf_put (drainRead_wf h) (beginCycle_wf (memoryWf_tile (drainRead_wf h))) rfl

end Sys2Proof.Machine

/-! PROOFS. Bench requests, captures, seals and hauls keep every memory and every image in canonical form. -/

namespace Sys2Proof.Machine

open Sys2Proof

theorem benchOf_wf {s : State} {pid id : ℕ} (h : memoryWf s = true) : ∀ r ∈ benchOf s pid id, benchWf r = true := by
  unfold benchOf
  split
  next e => exact forall_find (partnWf_benches (partnOf_wf h _ e))
  · exact forall_none

theorem dirWrite_wf {s : State} {i : Nat} (h : memoryWf s = true) : memoryWf (dirWrite s i) = true := by
  unfold dirWrite
  split
  · exact memoryWf_cap h (writeBytes_wf _ _ (memoryWf_cap_wf h))
  · exact h

theorem dirAdd_wf {s : State} {e : DirEntry} (h : memoryWf s = true) (he : benchWf e.bench = true) : memoryWf (dirAdd s e) = true := by
  unfold dirAdd
  split
  · exact dirWrite_wf (memoryWf_dir h (forall_set (memoryWf_entry h) he))
  · exact memoryWf_ite (dirWrite_wf (memoryWf_dir h (forall_append (memoryWf_entry h) (forall_cons he forall_nil)))) h

theorem dirFree_wf {s : State} {pid : Nat} {b : Bench} (h : memoryWf s = true) : memoryWf (dirFree s pid b) = true := by
  unfold dirFree
  extract_lets hit is
  refine memoryWf_foldl _ (memoryWf_dir h (forall_map (memoryWf_entry h) fun e he => ?_)) fun _ _ hs => dirWrite_wf hs
  split
  · exact he
  · exact he

theorem newBench_wf {s : State} {pid v : ℕ} (h : memoryWf s = true) : ∀ r ∈ newBench s pid v, memoryWf r.2 = true := by
  unfold newBench
  split
  · exact forall_none
  · split
    · exact forall_some (showBench_wf (mapPart_wf h (fun _ hs => partnWf_mk (forall_append (partnWf_benches hs) (forall_cons (benchWf_mk
        (benchWf_images benchWf_zero)) forall_nil)))))
    · exact forall_none

theorem acceptBench_wf {s : State} {pid v : ℕ} {w : List (ℕ × ℕ × Reg)} (h : memoryWf s = true) :
    ∀ r ∈ acceptBench s pid v w, memoryWf r = true := by
  unfold acceptBench
  split
  · exact forall_some h
  · split
    · exact forall_some (updBench_wf h (fun _ hs => benchWf_frame hs))
    · refine forall_opt_ite forall_none ?_
      split
      next e2 => exact forall_some (updBench_wf (newBench_wf h _ e2) (fun _ hs => benchWf_frame hs))
      · exact forall_some (wakeTokens_wf h)

theorem runBench_wf {o : EngOp} {s : State} (h : memoryWf s = true) : memoryWf (runBench o s) = true := updEng_wf h

theorem w2Put_wf {s : State} {off : ℕ} {v : W64} (h : memoryWf s = true) : memoryWf (w2Put s off v) = true := memoryWf_frame h rfl

theorem benchStat_wf {s : State} {err : Bool} {result code : ℕ} (h : memoryWf s = true) : memoryWf (benchStat s err result code) = true :=
  w2Put_wf h

theorem takeBench_wf {s : State} {pid v : ℕ} (h : memoryWf s = true) : memoryWf (takeBench s pid v) = true := by
  unfold takeBench
  extract_lets m s1
  have h1 : memoryWf s1 = true := memoryWf_frame h rfl
  split
  · exact benchStat_wf h1
  · refine memoryWf_ite (benchStat_wf h1) ?_
    split
    · exact benchStat_wf h1
    · refine memoryWf_ite (w2Put_wf (memoryWf_frame h1 rfl)) ?_
      split
      next e => exact benchStat_wf (newBench_wf h1 _ e)
      · exact benchStat_wf h1

theorem execBenchAccept_wf {pid : ℕ} {s : State} (h : memoryWf s = true) : OutWf (execBenchAccept pid s) := by
  refine outWf_next ?_
  split
  · split
    · exact memoryWf_ite (takeBench_wf h) h
    · exact h
  · split
    next e1 => exact mapTile_wf (acceptBench_wf h _ e1) fun _ hs => tileWf_frame hs rfl
    · exact h

theorem runBwait_wf {o : EngOp} {s : State} (h : memoryWf s = true) : memoryWf (runBwait o s) = true := by
  unfold runBwait
  extract_lets id
  split
  · exact finish_wf h
  · exact memoryWf_ite (finish_wf h) (memoryWf_ite (finish_wf h) (updEng_wf h))

theorem dropBench_wf {s : State} {pid id : ℕ} (h : memoryWf s = true) : memoryWf (dropBench s pid id) = true := by
  unfold dropBench
  split
  · exact h
  · extract_lets s1
    have hs1 : memoryWf s1 = true := memoryWf_ite (abandon_wf h) (stopHaul_wf (wakeBwait_wf h))
    exact showBench_wf (mapPart_wf (memoryWf_ite (dirFree_wf hs1) hs1) (fun _ hs => partnWf_mk (forall_filter (partnWf_benches hs))))

theorem runBdrop_wf {o : EngOp} {s : State} (h : memoryWf s = true) : memoryWf (runBdrop o s) = true := dropBench_wf h

theorem engineStep_wf {s : State} (h : memoryWf s = true) : memoryWf (engineStep s) = true := by
  unfold engineStep
  split
  · exact h
  · refine memoryWf_ite h ?_
    extract_lets s' req
    have hs' : memoryWf s' = true := updEng_wf h
    have hreq : memoryWf req = true := by
      unfold req
      split
      next e => exact startReq_wf hs' _ e
      · exact memoryWf_put h (shortAt_wf (memoryWf_tile h)) rfl
    clear_value req
    split
    · exact runSend_wf hs'
    · exact runBackSend_wf hs'
    · exact runRecv_wf hs'
    · exact runProbe_wf hs'
    · exact runCancel_wf hs'
    · exact runSteal_wf hs'
    · exact runQuit_wf hs'
    · exact runSendt_wf hs'
    · exact runMsend_wf hs'
    · exact runHalo_wf hs'
    · exact runFencex_wf hs'
    · exact runGvtw_wf hs'
    · exact runBench_wf hs'
    · exact runBwait_wf hs'
    · exact runBdrop_wf hs'
    · exact hs'
    · exact hs'
    all_goals exact hreq

theorem drainOps_wf {s : State} (h : memoryWf s = true) : memoryWf (drainOps s) = true := memoryWf_foldl _ h fun _ _ hs => engineStep_wf hs

theorem plainCapture_wf {s : State} {b : Bench} : captureWf (plainCapture s b) = true := captureWf_mk wf_nil

theorem optCapture_wf {s : State} {b : Bench} : captureWf (optCapture s b) = true := captureWf_mk (captureWf_img plainCapture_wf)

theorem startCapture_wf {s : State} {c : Capture} {colour : Bool} (hs : memoryWf s = true) (hc : captureWf c = true) :
    memoryWf (startCapture s c colour) = true := memoryWf_put hs (cwPut_wf (tileWf_capture (memoryWf_tile hs) (forall_some hc))) rfl

theorem execBenchFlip_wf {site : ℕ} {s : State} (h : memoryWf s = true) : OutWf (execBenchFlip site s) := by
  refine atTile_wf h fun t hs => ?_
  split
  · exact hs
  · split
    · exact memoryWf_ite hs (memoryWf_ite (drainOps_wf hs) (checkFlipped_wf (startCapture_wf (drainOps_wf hs) plainCapture_wf)))
    · exact memoryWf_ite hs (memoryWf_put hs (cwPut_wf (tileWf_frame (memoryWf_tile hs) rfl)) rfl)

theorem optCut_wf {s : State} {pid : ℕ} {b : Bench} (hs : memoryWf s = true) (hb : benchWf b = true) : memoryWf (optCut s pid b) = true := by
  unfold optCut
  split
  · exact focus_wf (memoryWf_foldl _ (memoryWf_foldl _ (updBench_wf hs (fun _ _ => benchWf_frame hb)) (fun _ _ hs1 =>
      startCapture_wf (focus_wf hs1) optCapture_wf)) (fun _ _ hs1 => quarryFlip_wf hs1))

theorem takePage_wf {s : State} {pid id site n : ℕ} (h : memoryWf s = true) : ∀ r ∈ takePage s pid id site n, memoryWf r = true := by
  unfold takePage
  split
  · exact forall_some h
  · split
    · exact forall_some (showBench_wf (updBench_wf h (fun _ hs => benchWf_frame hs)))
    · exact makeRoom_wf h

theorem updCap_wf {s : State} {f : Capture → Capture} (hs : memoryWf s = true) (hf : ∀ x, captureWf x = true → captureWf (f x) = true) :
    memoryWf (updCap s f) = true :=
  memoryWf_put hs (tileWf_capture (memoryWf_tile hs) (forall_opt_map_of (tileWf_cap (memoryWf_tile hs)) (fun _ hs1 => hf _ hs1))) rfl

theorem decideSends_wf {s : State} (h : memoryWf s = true) : memoryWf (decideSends s) = true := by
  unfold decideSends
  split
  · exact h
  · exact memoryWf_ite (memoryWf_foldl _ h (fun _ _ hs => updSend_wf (waitingSend_wf hs))) h

theorem execBenchSweep_wf {site : ℕ} {s : State} (h : memoryWf s = true) : OutWf (execBenchSweep site s) := by
  refine atTile_wf h fun t hs => ?_
  split
  · exact hs
  · have hd := decideSends_wf hs
    refine memoryWf_ite hs (memoryWf_ite ?_ (memoryWf_ite hs ?_))
    · exact memoryWf_ite (showBench_wf (updCap_wf hd fun _ hc => captureWf_mk (captureWf_img hc))) hd
    split
    · exact hs
    next e =>
      have h1 := forall_opt_ite (P := fun r => memoryWf r = true) (takePage_wf hs) (forall_some hs) _ e
      split
      · exact h1
      · split
        · exact updCap_wf h1 fun _ hc => captureWf_mk (blit_wf _ _ (captureWf_img hc))
        · exact updCap_wf (checkRead_wf h1) fun _ hc => captureWf_mk (blit_wf _ _ (captureWf_img hc))

/-- The images that the tiles of a list hold. -/
theorem tileImages_wf {s : State} {f : Tile → Bool} (h : memoryWf s = true) :
    ∀ i ∈ ((allTiles s).filter f).filterMap (fun t => t.bench.cap.map (fun c => (t.site, c))), captureWf i.2 = true := by
  intro i hi
  obtain ⟨t, ht, hi⟩ := List.mem_filterMap.1 hi
  obtain ⟨c, hc, rfl⟩ := Option.map_eq_some_iff.1 hi
  exact tileWf_cap (memoryWf_allTiles h t (List.mem_filter.1 ht).1) c hc

theorem sealBench_wf {s : State} {pid id : Nat} (h : memoryWf s = true) : memoryWf (sealBench s pid id) = true := by
  unfold sealBench
  split
  · extract_lets s1 images s2 _ s3 s4 old
    have h1 : memoryWf s1 = true := wakeTokens_wf h
    have hi : ∀ i ∈ images, captureWf i.2 = true := tileImages_wf h1
    have h2 : memoryWf s2 = true := updBench_wf h1 fun _ _ => benchWf_mk hi
    have h3 : memoryWf s3 = true := mapPartn_wf (memoryWf_frame h2 rfl) fun _ ht => cwPut_wf (cwPut_wf (tileWf_capture ht forall_none))
    have h4 : memoryWf s4 = true := showBench_wf h3
    clear_value s4 old
    refine memoryWf_ite ?_ h4
    split
    · exact dropBench_wf h4
    · exact h4
  · exact h

theorem execBenchSeal_wf {pid id : Nat} {s : State} (h : memoryWf s = true) : OutWf (execBenchSeal pid id s) := by
  unfold execBenchSeal
  refine outWf_next ?_
  split
  · refine memoryWf_ite h ?_
    extract_lets need
    have hf : ∀ r ∈ need.foldl (fun (a : Option State) n => a.bind (fun s => if n.2 = 0 then some s else takePage s pid id n.1 n.2)) (some s),
        memoryWf r = true :=
      forall_foldl_bind (forall_some h) fun n t ht => forall_opt_ite (forall_some ht) (takePage_wf ht)
    split
    · exact h
    next s1 e =>
      have h1 := hf s1 e
      split
      · exact memoryWf_ite (sealBench_wf h1) h1
      · exact h1
  · exact h

theorem endHaul_wf {s : State} {p : Partn} {b : Bench} (hs : memoryWf s = true) : memoryWf (endHaul s p b) = true := by
  refine memoryWf_ite (abandon_wf hs) ?_
  extract_lets s1 s2
  have h2 : memoryWf s2 = true := updBench_wf (wakeBwait_wf hs) fun _ hb => benchWf_frame hb
  clear_value s2
  split
  next e => exact showBench_wf (dirAdd_wf h2 (benchOf_wf h2 _ e))
  · exact h2

theorem placeBench_wf {s : State} {b : Bench} (hb : benchWf b = true) : ∀ r ∈ placeBench s b, benchWf r = true :=
  forall_opt_ite (forall_some hb) (forall_opt_map (fun _ => benchWf_frame hb))

theorem nextPage_wf {s : State} {p : Partn} {b : Bench} (hs : memoryWf s = true) : ∀ r ∈ nextPage s p b, memoryWf r.2.2 = true := by
  unfold nextPage
  split
  · split
    · exact forall_none
    · exact forall_some (memoryWf_frame hs rfl)
  · exact forall_some hs
  · split
    next e3 => exact forall_some (memoryWf_of_snd (pageRead_wf hs) e3)
  · exact forall_none

theorem nextPage_bench {s : State} {p : Partn} {b : Bench} (hb : benchWf b = true) : ∀ r ∈ nextPage s p b, benchWf r.2.1 = true := by
  unfold nextPage
  split
  · split
    · exact forall_none
    · exact forall_some (benchWf_frame hb)
  · exact forall_some (benchWf_frame hb)
  · exact forall_some (benchWf_frame hb)
  · exact forall_none

theorem haulRead_wf {s : State} {p : Partn} {b : Bench} (hs : memoryWf s = true) (hb : benchWf b = true) : memoryWf (haulRead s p b) = true := by
  unfold haulRead
  refine memoryWf_ite hs ?_
  split
  · exact hs
  next e =>
    have hp := placeBench_wf hb _ e
    split
    next e =>
      exact memoryWf_ite (showBench_wf (updBench_wf (memoryWf_frame (nextPage_wf hs _ e) rfl) fun _ _ => benchWf_frame (nextPage_bench hp _ e))) hs
    · exact memoryWf_ite (endHaul_wf hs) hs

theorem haulWrite_wf {s : State} {g : HaulPage} (h : memoryWf s = true) : memoryWf (haulWrite s g) = true := by
  unfold haulWrite
  extract_lets _ s1
  have h1 : memoryWf s1 = true := memoryWf_frame h rfl
  clear_value s1
  split
  · exact h1
  · refine memoryWf_ite (abandon_wf h1) ?_
    extract_lets bs s2
    have h2 : memoryWf s2 = true := memoryWf_cap h1 (writeBytes_wf _ _ (memoryWf_cap_wf h1))
    clear_value s2
    exact showBench_wf (updBench_wf h2 fun _ hb => benchWf_frame hb)

theorem execHaulPage_wf {pid id : ℕ} {s : State} (h : memoryWf s = true) : OutWf (execHaulPage pid id s) := by
  refine outWf_next ?_
  split
  next e1 =>
    refine memoryWf_ite ?_ (haulRead_wf h (benchOf_wf h _ e1))
    split
    · exact haulWrite_wf h
    · exact h
  · exact h

theorem execPeriodicBench_wf {pid : ℕ} {s : State} (h : memoryWf s = true) : OutWf (execPeriodicBench pid s) := by
  unfold execPeriodicBench
  refine outWf_next ?_
  split
  · exact h
  · extract_lets period
    split
    · split
      · exact mapPart_wf h fun _ hs => partnWf_frame hs
      · exact memoryWf_getD (acceptBench_wf (mapPart_wf h (fun _ hs => partnWf_frame hs))) h
    · exact h

theorem writeIncomplete_wf {s : State} (h : memoryWf s = true) : memoryWf (writeIncomplete s) = true :=
  memoryWf_foldl_mem h (memoryWf_partn h) fun _ _ hp hs =>
    memoryWf_foldl_mem hs (forall_filter (partnWf_benches hp)) fun _ _ hb hs => dirAdd_wf hs hb

theorem powerFail_wf {s : State} (h : memoryWf s = true) : memoryWf (powerFail s) = true :=
  memoryWf_frame (writeIncomplete_wf (memoryWf_foldl _ h (fun _ _ hs => haulWrite_wf hs))) rfl

theorem execPfail_wf {s : State} (h : memoryWf s = true) : OutWf (execPfail s) := outWf_next (powerFail_wf h)

end Sys2Proof.Machine

/-! PROOFS. Halts, steps, injected faults, trace sinks and scrubbing keep every memory in canonical form. -/

namespace Sys2Proof.Machine

open Sys2Proof

theorem updDbg_wf {t : Tile} {f : Debug → Debug} (h : tileWf t = true) : tileWf (updDbg t f) = true := tileWf_frame h rfl

theorem haltBits_wf {t : Tile} {cause : ℕ} {halted : Bool} (h : tileWf t = true) : tileWf (haltBits t cause halted) = true := cwPut_wf h

theorem haltTile_wf {t : Tile} {cause now : ℕ} (h : tileWf t = true) : tileWf (haltTile t cause now) = true :=
  tileWf_ite h (cwPut_wf (cwPut_wf (haltBits_wf (tileWf_frame h rfl))))

theorem askHalt_wf {s : State} {pid : ℕ} (h : memoryWf s = true) : memoryWf (askHalt s pid) = true := by
  refine mapPart_wf h fun p hs => ?_
  split
  · exact partnWf_frame hs
  · exact partnWf_ite (partnWf_frame hs) hs

theorem haltHere_wf {s : State} {cause : ℕ} (h : memoryWf s = true) : memoryWf (haltHere s cause) = true := by
  unfold haltHere
  extract_lets t
  have ht : tileWf t = true := memoryWf_tile h
  split
  · exact askHalt_wf (memoryWf_put h (traceNote_wf (haltTile_wf (updDbg_wf ht))) rfl)
  · exact memoryWf_put h (traceNote_wf (haltTile_wf (updDbg_wf ht))) rfl

theorem execTileHalt_wf {site : ℕ} {s : State} (h : memoryWf s = true) : OutWf (execTileHalt site s) := by
  refine atTile_wf h fun t hs => ?_
  split
  · exact memoryWf_ite hs (haltHere_wf hs)
  · exact hs

theorem execStepDone_wf {site : ℕ} {s : State} (h : memoryWf s = true) : OutWf (execStepDone site s) :=
  atTile_wf h fun _ hs => memoryWf_ite (haltHere_wf hs) hs

theorem execGangStop_wf {pid : ℕ} {s : State} (h : memoryWf s = true) : OutWf (execGangStop pid s) := by
  refine outWf_next ?_
  split
  · split
    · exact memoryWf_ite h (mapPartn_wf h (fun _ hs => traceNote_wf (updDbg_wf (haltTile_wf hs))))
    · exact h
  · exact h

theorem shiftTimes_wf {t : Tile} {a b : ℕ} (h : tileWf t = true) : tileWf (shiftTimes t a b) = true := tileWf_frame h rfl

theorem resumeTile_wf {t : Tile} (h : tileWf t = true) : tileWf (resumeTile t) = true := haltBits_wf (updDbg_wf h)

theorem execGangResume_wf {pid : ℕ} {s : State} (h : memoryWf s = true) : OutWf (execGangResume pid s) := by
  refine outWf_next ?_
  split
  · split
    · split
      · exact h
      · exact mapPart_wf (mapPartn_wf h (fun _ hs => resumeTile_wf (shiftTimes_wf hs))) fun _ hs => partnWf_frame hs
    · exact h
  · exact h

theorem askResume_wf {s : State} {pid : ℕ} (h : memoryWf s = true) : memoryWf (askResume s pid) = true :=
  mapPart_wf h fun _ hs => partnWf_ite (partnWf_frame hs) hs

theorem execDbgctlHalt_wf {site : ℕ} {s : State} (h : memoryWf s = true) : OutWf (execDbgctlHalt site s) :=
  atPage_wf h fun _ hs => memoryWf_ite hs (memoryWf_put hs (updDbg_wf (memoryWf_tile hs)) rfl)

theorem execDbgctlStep_wf {site : ℕ} {s : State} (h : memoryWf s = true) : OutWf (execDbgctlStep site s) :=
  atTile_wf h (fun _ hs => memoryWf_ite hs (memoryWf_put hs (haltBits_wf (updDbg_wf (memoryWf_tile hs))) rfl))

theorem execDbgctlResume_wf {site : ℕ} {s : State} (h : memoryWf s = true) : OutWf (execDbgctlResume site s) :=
  atTile_wf h (fun _ hs => memoryWf_ite (askResume_wf hs) (memoryWf_ite (memoryWf_put hs (resumeTile_wf (memoryWf_tile hs)) rfl) hs))

theorem execDbgpcWrite_wf {site : ℕ} {v : W64} {s : State} (h : memoryWf s = true) : OutWf (execDbgpcWrite site v s) :=
  atTile_wf h fun _ hs => memoryWf_ite (memoryWf_put hs (tileWf_frame (memoryWf_tile hs) rfl) rfl) hs

theorem execStepcntWrite_wf {site : ℕ} {v : W64} {s : State} (h : memoryWf s = true) : OutWf (execStepcntWrite site v s) :=
  atTile_wf h fun _ hs => memoryWf_ite (memoryWf_put hs (cwPut_wf (memoryWf_tile hs)) rfl) hs

theorem execRollback_wf {site : ℕ} {s : State} (h : memoryWf s = true) : OutWf (execRollback site s) :=
  atTile_wf h fun _ hs => memoryWf_ite (doRollback_wf (reachBoundary_wf hs)) hs

theorem injectBit_wf {t : Tile} {tgt loc bit : ℕ} (h : tileWf t = true) : tileWf (injectBit t tgt loc bit) = true := by
  unfold injectBit
  split
  · exact tileWf_frame h rfl
  · exact tileWf_frame h rfl
  · exact tileWf_ite h (tileWf_frame h rfl)
  · exact tileWf_frame h rfl
  · exact tileWf_frame h rfl
  · exact tileWf_frame h rfl

theorem inject_wf {t : Tile} (h : tileWf t = true) : tileWf (inject t) = true :=
  tileWf_ite (updDbg_wf h) (cwPut_wf (updDbg_wf (tileWf_ite (injectBit_wf (injectBit_wf h)) (injectBit_wf h))))

theorem execFinjWrite_wf {site : ℕ} {v : W64} {s : State} (h : memoryWf s = true) : OutWf (execFinjWrite site v s) :=
  atPage_wf h fun _ hs => memoryWf_put hs (updDbg_wf (cwPut_wf (memoryWf_tile hs))) rfl

theorem injectNow_wf {s : State} (h : memoryWf s = true) : memoryWf (injectNow s) = true :=
  memoryWf_put h (updDbg_wf (inject_wf (beginCycle_wf (memoryWf_tile h)))) rfl

theorem execFaultInjectDeferred_wf {site : ℕ} {s : State} (h : memoryWf s = true) : OutWf (execFaultInjectDeferred site s) :=
  atTile_wf h fun _ hs => memoryWf_ite (injectNow_wf hs) hs

theorem traceDelay_wf {s : State} {e : ℕ} (h : memoryWf s = true) : memoryWf (traceDelay s e) = true :=
  memoryWf_ite (memoryWf_put h (cwPut_wf (memoryWf_tile h)) rfl) h

theorem sinkHome_wf {s : State} {k : Sink} {off : ℕ} (h : memoryWf s = true) : memoryWf (sinkHome s k off).2 = true := by
  unfold sinkHome
  extract_lets q
  split
  next e => exact memoryWf_of_snd (walk_wf h) e
  next e1 => exact memoryWf_of_snd (walk_wf h) e1

theorem sinkRoom_wf {s : State} {k : Sink} {off : ℕ} (h : memoryWf s = true) : memoryWf (sinkRoom s k off).1 = true := by
  unfold sinkRoom
  split
  next e => exact memoryWf_of_snd (sinkHome_wf h) e
  next e => exact colouredRoom_wf (memoryWf_of_snd (sinkHome_wf h) e)

theorem sinkWrite_wf {s : State} {k : Sink} {off : ℕ} {bs : List Byte} (h : memoryWf s = true) : memoryWf (sinkWrite s k off bs).2 = true := by
  unfold sinkWrite
  split
  next e => exact memoryWf_of_snd (sinkHome_wf h) e
  next e =>
    have h1 := memoryWf_of_snd (sinkHome_wf h) e
    extract_lets qasid
    split
    next e1 => exact memoryWf_of_fst (colouredRoom_wf h1) e1
    next e1 =>
      extract_lets s3
      have h3 : memoryWf s3 = true := traceDelay_wf (memoryWf_of_fst (colouredRoom_wf h1) e1)
      exact memoryWf_snd_ite (memoryWf_frame h3 rfl) (colouredWrite_wf (memoryWf_frame h3 rfl))

theorem sinkFault_wf {s : State} {code : ℕ} (h : memoryWf s = true) : memoryWf (sinkFault s code) = true :=
  relRecord_wf (memoryWf_put h (updDbg_wf (cwPut_wf (memoryWf_tile h))) rfl)

theorem sinkStep_wf {s : State} {k : Sink} (h : memoryWf s = true) : memoryWf (sinkStep s k).2 = true := by
  unfold sinkStep
  split
  extract_lets head body
  have hh (s : State) (hs : memoryWf s = true) : memoryWf (head s).2 = true := by
    unfold head
    split
    next e => exact memoryWf_of_snd (sinkWrite_wf hs) e
    next e => exact memoryWf_of_snd (sinkWrite_wf hs) e
    next e => exact memoryWf_of_snd (sinkWrite_wf hs) e
  clear_value head
  split
  next e => exact memoryWf_of_fst (sinkRoom_wf h) e
  next e =>
    have hs := memoryWf_of_fst (sinkRoom_wf h) e
    split
    · split
      · exact hh _ hs
      · exact hh _ (memoryWf_put hs (traceLose_wf (memoryWf_tile hs)) rfl)
    · split
      next e => exact memoryWf_of_snd (sinkWrite_wf hs) e
      next e => exact hh _ (memoryWf_of_snd (sinkWrite_wf hs) e)
      next e => exact memoryWf_of_snd (sinkWrite_wf hs) e

theorem execTraceBatchWrite_wf {site : Nat} {s : State} (h : memoryWf s = true) : OutWf (execTraceBatchWrite site s) := by
  unfold execTraceBatchWrite
  refine atTile_wf h fun s hs => ?_
  extract_lets t set
  clear_value t
  split
  · have hset {s l} (hs : memoryWf s = true) : memoryWf (set s l) = true := memoryWf_put hs (updDbg_wf (memoryWf_tile hs)) rfl
    clear_value set
    split
    next e => exact memoryWf_of_snd (sinkStep_wf hs) e
    next e => exact sinkFault_wf (hset (memoryWf_of_snd (sinkStep_wf hs) e))
    next e => exact hset (memoryWf_of_snd (sinkStep_wf hs) e)
  · refine memoryWf_ite hs ?_
    split
    next e => exact memoryWf_of_snd (sinkStep_wf hs) e
    next e => exact sinkFault_wf (memoryWf_of_snd (sinkStep_wf hs) e)
    next e =>
      have h1 := memoryWf_of_snd (sinkStep_wf hs) e
      exact memoryWf_put h1 (updDbg_wf (memoryWf_tile h1)) rfl

theorem scrubTile_wf {s : State} (h : memoryWf s = true) : memoryWf (scrubTile s) = true :=
  memoryWf_ite h (memoryWf_put (checkRead_wf h) (tileWf_frame (memoryWf_tile (checkRead_wf h)) rfl) rfl)

theorem execSramScrub_wf {site line : ℕ} {s : State} (h : memoryWf s = true) : OutWf (execSramScrub site line s) :=
  atTile_wf h fun _ hs => memoryWf_ite (scrubTile_wf hs) hs

theorem scrubAll_wf {s : State} (h : memoryWf s = true) : memoryWf (scrubAll s) = true := by
  unfold scrubAll
  extract_lets s1 s2
  have h1 : memoryWf s1 = true := memoryWf_ite h (eachTile_wf h fun _ hs => scrubTile_wf hs)
  have h2 : memoryWf s2 = true := memoryWf_foldl _ h1 fun _ _ hs => scrubQuarry_wf hs
  clear_value s2
  exact memoryWf_ite h1 (memoryWf_frame h2 rfl)

end Sys2Proof.Machine

/-! PROOFS. Rounds of global virtual time and the release of commits keep every memory in canonical form. -/

namespace Sys2Proof.Machine

open Sys2Proof

theorem mapSites_wf {s : State} {p : Partn} {f : Tile → Tile} (hs : memoryWf s = true) (hf : ∀ x, tileWf x = true → tileWf (f x) = true) :
    memoryWf (mapSites s p f) = true :=
  memoryWf_tiles hs (tileWf_ite (hf _ (memoryWf_tile hs)) (memoryWf_tile hs)) (forall_map (memoryWf_rest hs) (fun _ hs1 => tileWf_ite (hf _ hs1)
    hs1)) rfl

theorem mapRect_wf {s : State} {p : Partn} {f : Tile → Tile} (hs : memoryWf s = true) (hf : ∀ x, tileWf x = true → tileWf (f x) = true) :
    memoryWf (mapRect s p f) = true :=
  memoryWf_tiles hs (tileWf_ite (hf _ (memoryWf_tile hs)) (memoryWf_tile hs)) (forall_map (memoryWf_rest hs) (fun _ hs1 => tileWf_ite (hf _ hs1)
    hs1)) rfl

theorem combine_wf {s : State} {pid : Nat} (h : memoryWf s = true) : memoryWf (combine s pid) = true := by
  unfold combine
  split
  · exact h
  · extract_lets ts sent recv joined
    split
    next s1 e1 =>
      have h1 : memoryWf s1 = true := memoryWf_of_snd (memoryWf_snd_ite (freshWord_wf h) h) e1
      split
      next s2 e2 =>
        have h2 : memoryWf s2 = true := memoryWf_of_snd (by exact memoryWf_snd_ite (freshWord_wf h1) h1) e2
        refine memoryWf_ite (mapPart_wf h2 fun _ hp => partnWf_frame hp) ?_
        extract_lets minv gvt s3 s4
        have h3 : memoryWf s3 = true := mapPart_wf h2 fun _ hp => partnWf_frame hp
        have h4 : memoryWf s4 = true := by
          clear_value s3
          unfold s4
          split
          · exact memoryWf_ite h3 (memoryWf_getD (acceptBench_wf h3) h3)
          · exact h3
        clear_value s4
        exact memoryWf_ite (mapPart_wf h4 fun _ hp => partnWf_mk (forall_map (partnWf_benches hp) fun _ hb => benchWf_ite (benchWf_frame hb) hb)) h4

theorem flipRound_wf {t : Tile} (h : tileWf t = true) : tileWf (flipRound t) = true := tileWf_frame h rfl

theorem execGvtRoundStart_wf {pid : ℕ} {s : State} (h : memoryWf s = true) : OutWf (execGvtRoundStart pid s) := by
  refine outWf_next ?_
  split
  · exact h
  · split
    · exact h
    · exact combine_wf (mapPart_wf (mapRect_wf h (fun _ hs => flipRound_wf hs)) (fun _ hs => partnWf_frame hs))

theorem execGvtReportRetry_wf {pid : ℕ} {s : State} (h : memoryWf s = true) : OutWf (execGvtReportRetry pid s) := by
  refine outWf_next ?_
  split
  · exact memoryWf_ite (combine_wf h) h
  · exact h

theorem pushOutput_wf {s : State} {rank : ℕ} {vt a b : W64} (h : memoryWf s = true) : memoryWf (pushOutput s rank vt a b) = true := memoryWf_frame h rfl

theorem updCommit_wf {s : State} {k : ℕ} {f : Commit → Commit} (h : memoryWf s = true) : memoryWf (updCommit s k f) = true :=
  memoryWf_put h (tileWf_frame (memoryWf_tile h) rfl) rfl

theorem releaseOne_wf {s : State} {k : ℕ} {c : Commit} (h : memoryWf s = true) : ∀ r ∈ releaseOne s k c, memoryWf r = true := by
  unfold releaseOne
  extract_lets o
  split
  · refine forall_opt_ite forall_none ?_
    split
    next e1 => exact forall_some (updCommit_wf (startReq_wf (updEng_wf (drainOps_wf h)) _ e1))
    · exact forall_none
  · exact forall_opt_ite forall_none (forall_some (updCommit_wf (finish_wf (pushOutput_wf h))))
  · exact forall_some (updCommit_wf (finish_wf (memoryWf_put h (traceMark_wf (memoryWf_tile h)) rfl)))
  · exact forall_some (updCommit_wf (runBench_wf h))
  · exact forall_some (updCommit_wf (runBdrop_wf h))

theorem releaseFrom_wf {gvt : Nat} {l : List (Commit × Nat)} {s : State} (h : memoryWf s = true) : memoryWf (releaseFrom gvt l s) = true := by
  induction l generalizing s with
  | nil => exact h
  | cons x r ih =>
    unfold releaseFrom
    refine memoryWf_ite (ih h) (memoryWf_ite ?_ h)
    split
    next e => exact ih (releaseOne_wf h _ e)
    · exact h

theorem releaseAll_wf {s : State} (h : memoryWf s = true) : memoryWf (releaseAll s) = true := releaseFrom_wf h

theorem fossils_wf {t : Tile} (h : tileWf t = true) : tileWf (fossils t) = true := cwPut_wf (tileWf_frame h rfl)

theorem wakeGvtw_wf {s : State} (h : memoryWf s = true) : memoryWf (wakeGvtw s) = true :=
  memoryWf_foldl _ h fun _ _ hs => finish_wf (updEng_wf hs)

theorem cutDue_wf {p : Partn} (h : partnWf p = true) : ∀ r ∈ cutDue p, benchWf r = true :=
  forall_opt_ite (forall_find (partnWf_benches h)) forall_none

theorem fossilsDone_wf {s : State} (h : memoryWf s = true) :
    memoryWf { s with tile := { (fossils s.tile) with vt := { (fossils s.tile).vt with relDone := true } } } = true := by
  have ht := fossils_wf (memoryWf_tile h)
  generalize fossils s.tile = t at ht ⊢
  exact memoryWf_put h (tileWf_frame ht rfl) rfl

theorem execGvtRelease_wf {site : Nat} {s : State} (h : memoryWf s = true) : OutWf (execGvtRelease site s) := by
  unfold execGvtRelease
  refine atTile_wf h fun s hs => ?_
  split
  · exact hs
  next e =>
    refine memoryWf_ite hs ?_
    extract_lets t _ s1
    have ht : tileWf t = true := tileWf_ite (cwPut_wf (memoryWf_tile hs)) (memoryWf_tile hs)
    have h1 : memoryWf s1 = true :=
      memoryWf_ite (releaseAll_wf hs) (wakeGvtw_wf (releaseAll_wf (memoryWf_put hs (tileWf_frame ht rfl) rfl)))
    clear_value s1
    refine memoryWf_ite h1 ?_
    split
    next e' => exact memoryWf_ite (fossilsDone_wf (optCut_wf h1 (cutDue_wf (partnOf_wf hs _ e) _ e'))) h1
    · exact fossilsDone_wf h1

theorem raiseDeadlock_wf {now : ℕ} {t : Tile} (h : tileWf t = true) : tileWf (raiseDeadlock now t) = true := by
  unfold raiseDeadlock
  split
  · exact h
  · split
    · exact raiseAsync_wf (dispatchTile_wf (addReady_wf (updDisp_wf h)))
    · exact h
  · exact raiseAsync_wf h

theorem execGvtRoundEnd_wf {pid : ℕ} {s : State} (h : memoryWf s = true) : OutWf (execGvtRoundEnd pid s) := by
  unfold execGvtRoundEnd
  refine outWf_next ?_
  split
  · exact h
  · extract_lets ts
    split
    · exact h
    · split
      · exact mapPart_wf (mapSites_wf (mapPart_wf h (fun _ hs => partnWf_frame hs)) (fun _ hs => raiseDeadlock_wf hs)) (fun _ hs =>
          partnWf_frame hs)
      · exact mapPart_wf h fun _ hs => partnWf_frame hs

end Sys2Proof.Machine

/-! PROOFS. Launch, preemption, resumption and the end of a partition keep every memory in canonical form. -/

namespace Sys2Proof.Machine

open Sys2Proof

theorem imageView_wf {s : State} {r : LaunchRec} (h : memoryWf s = true) : memoryWf (imageView s r).2 = true := by
  unfold imageView
  split
  · split
    next e1 => exact memoryWf_of_snd (found_wf h) e1
  · exact h

theorem ringPut_wf {s : State} {e : BitVec 256} (h : memoryWf s = true) : memoryWf (ringPut s e) = true := memoryWf_frame h rfl

theorem complete1_wf {s : State} {kind prio ltag pid info ham : ℕ} (h : memoryWf s = true) :
    memoryWf (complete1 s kind prio ltag pid info ham) = true := memoryWf_ite (memoryWf_frame h rfl) (ringPut_wf h)

theorem completePart_wf {s : State} {p : Partn} {kind info ham : ℕ} (hs : memoryWf s = true) : memoryWf (completePart s p kind info ham) = true :=
  complete1_wf hs

theorem ringPump_wf {n : Nat} {s : State} (h : memoryWf s = true) : memoryWf (ringPump n s) = true := by
  induction n generalizing s with
  | zero => exact h
  | succ n ih =>
    unfold ringPump
    split
    · exact h
    · exact memoryWf_ite h (ih (ringPut_wf (memoryWf_frame h rfl)))

theorem siteTile_wf {s : State} {site : ℕ} : tileWf (siteTile s site) = true := by
  unfold siteTile
  extract_lets t
  have ht : tileWf t = true := tileWf_blank
  split
  · exact tileWf_frame ht rfl
  · exact ht

theorem leaveTile_wf {t : Tile} (h : tileWf t = true) : tileWf (leaveTile t) = true := tileWf_capture h tileWf_empty

theorem freeSites_wf {s : State} {p : Partn} (h : memoryWf s = true) : memoryWf (freeSites s p) = true :=
  memoryWf_foldl_mem h (forall_filter (memoryWf_allTiles h)) fun _ _ ht hs => putTile_wf hs (leaveTile_wf ht)

theorem launchTile_wf {s : State} {r : LaunchRec} {pid trapent : Nat} {code : List Byte} {data : List (Nat × List Byte)} {slots : Store 16} {site : Nat} :
    tileWf (launchTile s r pid trapent code data slots site) = true := by
  unfold launchTile
  extract_lets t
  have hc : ∀ c ∈ t.bench.cap, captureWf c = true := tileWf_cap siteTile_wf
  clear_value t
  have hm : (data.foldl (fun m c => blit m c.1 c.2) (blit [] 0 code)).wf = true := wf_foldl data (blit_wf 0 code wf_nil) fun _ c hm => blit_wf c.1 c.2 hm
  exact startTask_wf (tileWf_mk hm hc)

theorem newPartn_wf {pid now : ℕ} {r : LaunchRec} {sites : List ℕ} : partnWf (newPartn pid now r sites) = true := partnWf_mk forall_nil

theorem routerSites_wf {s : State} {r : LaunchRec} {slots : List (ℕ × ℕ × ℕ × ℕ)} {work : List ℕ} (h : memoryWf s = true) :
    memoryWf (routerSites s r slots work) = true := memoryWf_foldl _ h fun _ _ hs => putTile_wf hs (tileWf_frame siteTile_wf rfl)

theorem placeWith_wf {s : State} {r : LaunchRec} {pid trapent : Nat} {code : List Byte} {data : List (Nat × List Byte)}
    {slots : List (Nat × Nat × Nat × Nat)} (h : memoryWf s = true) : memoryWf (placeWith s r pid trapent code data slots) = true := by
  unfold placeWith
  extract_lets work _ s1 s2
  have h1 : memoryWf s1 = true := memoryWf_partns h (forall_append (memoryWf_partn h) (forall_cons newPartn_wf forall_nil)) rfl
  have h2 : memoryWf s2 = true := routerSites_wf h1
  exact memoryWf_foldl _ h2 fun _ _ hs => putTile_wf hs launchTile_wf

theorem powerState_wf {s : State} (h : memoryWf s = true) : memoryWf (powerState s) = true := memoryWf_ite h (w0Put_wf h)

theorem placeRec_wf {s : State} {r : LaunchRec} (h : memoryWf s = true) : memoryWf (placeRec s r) = true := by
  unfold placeRec
  split
  split
  next e => exact powerState_wf (complete1_wf (placeWith_wf (memoryWf_of_snd (imageView_wf h) e)))

theorem benchPages_wf {s : State} {b : Bench} {taken : List (Nat × Nat × List Byte)} (h : memoryWf s = true) : memoryWf (benchPages s b taken).2 = true :=
  memoryWf_foldl_snd b.shared h fun _ _ hs => pageRead_wf hs

theorem imageOf_wf {rank : Nat} {taken : List (Nat × Nat × List Byte)} {c : Capture} (h : captureWf c = true) : captureWf (imageOf rank taken c) = true :=
  captureWf_mk (wf_foldl _ (captureWf_img h) fun _ p hm => blit_wf p.1 p.2 hm)

theorem benchWhole_wf {s : State} {b : Bench} (h : memoryWf s = true) : ∀ r ∈ benchWhole s b, memoryWf r.2.2 = true :=
  fun _ hr => by
    obtain ⟨taken, _, rfl⟩ := Option.map_eq_some_iff.1 hr
    exact benchPages_wf (taken := taken) h

theorem benchWhole_images {s : State} {b : Bench} (hb : benchWf b = true) : ∀ r ∈ benchWhole s b, ∀ i ∈ r.2.1, captureWf i.2 = true :=
  fun _ hr i hi => by
    obtain ⟨taken, _, rfl⟩ := Option.map_eq_some_iff.1 hr
    obtain ⟨j, hj, rfl⟩ := List.mem_map.1 hi
    exact imageOf_wf (benchWf_images hb j hj)

theorem readmit_wf {s : State} {p : Packet} (h : memoryWf s = true) : memoryWf (readmit s p) = true := by
  unfold readmit
  extract_lets src e n good s1 t v wait
  have h1 : memoryWf s1 = true := memoryWf_ite (storeRead_wf h) h
  have ht : tileWf t = true := tileWf_ite (sramWrite_wf _ _ _ (memoryWf_tile h1)) (memoryWf_tile h1)
  have hw : memoryWf wait = true := memoryWf_put h (updRt_wf (memoryWf_tile h)) rfl
  clear_value s1 t wait
  refine memoryWf_ite (memoryWf_put h1 (cwPut_wf ht) rfl) (memoryWf_ite ?_ (memoryWf_ite (readmitFrom_wf h) (updEng_wf h)))
  exact memoryWf_ite (memoryWf_getD (admitAgain_wf h) hw) hw

theorem imageTile_wf {s : State} {pid site cut : Nat} {c : Capture} (h : captureWf c = true) : tileWf (imageTile s pid site cut c) = true :=
  haltBits_wf (tileWf_mk (captureWf_img h) tileWf_empty)

theorem resumeFrom_wf {s : State} {pid : Nat} (h : memoryWf s = true) : memoryWf (resumeFrom s pid) = true := by
  unfold resumeFrom
  split
  · exact h
  next p ep =>
    split
    · exact h
    next b eb =>
      have hb : benchWf b = true := forall_find (partnWf_benches (partnOf_wf h p ep)) b eb
      split
      · exact h
      next pages images s0 ew =>
        have h0 : memoryWf s0 = true := benchWhole_wf h _ ew
        have hi0 : ∀ i ∈ images, captureWf i.2 = true := benchWhole_images hb _ ew
        extract_lets s1
        have h1 : memoryWf s1 = true := memoryWf_foldl _ h0 fun _ _ hs => writeHome_wf hs
        clear_value s1
        split
        next s2 e2 =>
          have h2 : memoryWf s2 = true := memoryWf_of_snd (imageView_wf h1) e2
          extract_lets slots held s3 s4 here s5 s6 colour s7
          have hi : ∀ i ∈ held, captureWf i.2 = true := forall_map hi0 fun _ hi => captureWf_mk (captureWf_img hi)
          have h4 : memoryWf s4 = true := memoryWf_foldl_mem (routerSites_wf h2) hi fun _ _ hi hs => putTile_wf hs (imageTile_wf hi)
          clear_value s4
          have h5 : memoryWf s5 = true := memoryWf_foldl _ h4 fun _ _ hs => settleHamper_wf (memoryWf_foldl _ (focus_wf hs) fun _ _ hs => readmit_wf hs)
          clear_value s5
          have h7 : memoryWf s7 = true := mapPart_wf (focus_wf h5) fun _ hp => partnWf_frame hp
          clear_value s7
          refine powerState_wf ?_
          split
          · exact completePart_wf (showBench_wf h7)
          · exact h7

theorem startPreempt_wf {s : State} {r : LaunchRec} (h : memoryWf s = true) : memoryWf (startPreempt s r) = true :=
  memoryWf_partns h (forall_map (memoryWf_partn h) (fun _ hs => partnWf_ite (partnWf_frame hs) hs)) rfl

theorem headOn_wf {s : State} {q : ℕ} (h : memoryWf s = true) : memoryWf (headOn s q) = true := memoryWf_frame h rfl

theorem levelPass_wf {l : List (Nat × LaunchRec)} {head : Bool} {wait : List LaunchRec} {s : State} (h : memoryWf s = true) :
    memoryWf (levelPass l head wait s).2.2 = true := by
  induction l generalizing head wait s with
  | nil => exact h
  | cons x l ih =>
    unfold levelPass
    split
    · exact ih h
    split
    next e =>
      have hs := memoryWf_of_snd (imageView_wf h) e
      split
      · split
        · exact ih (headOn_wf (complete1_wf hs))
        · exact ih hs
      split
      · exact ih hs
      split
      · exact ih (headOn_wf (placeRec_wf hs))
      split
      · exact ih (startPreempt_wf hs)
      · exact ih hs

theorem resumeLevel_wf {q : ℕ} {wait : List LaunchRec} {s : State} (h : memoryWf s = true) : memoryWf (resumeLevel q wait s) = true :=
  memoryWf_foldl _ h fun _ _ hs => memoryWf_ite (resumeFrom_wf hs) hs

theorem passLevels_wf {n : Nat} {wait : List LaunchRec} {s : State} (h : memoryWf s = true) : memoryWf (passLevels n wait s) = true := by
  induction n generalizing wait s with
  | zero => exact h
  | succ n ih =>
    unfold passLevels
    extract_lets s1
    have h1 : memoryWf s1 = true := resumeLevel_wf h
    clear_value s1
    split
    next e => exact ih (memoryWf_frame (memoryWf_of_third (levelPass_wf h1) e) rfl)

theorem placementPass_wf {s : State} (h : memoryWf s = true) : memoryWf (placementPass s) = true := memoryWf_ite h (passLevels_wf h)

theorem wholeCapture_wf {s : State} {b : Bench} (hs : memoryWf s = true) : captureWf (wholeCapture s b) = true :=
  captureWf_mk (wf_foldl _ (tileWf_wf (memoryWf_tile hs)) (fun _ _ hs1 => blit_wf _ _ hs1))

theorem preemptBench_wf {s : State} {pid : ℕ} (h : memoryWf s = true) : ∀ r ∈ preemptBench s pid, memoryWf r.2 = true := by
  unfold preemptBench
  split
  · exact forall_none
  · split
    · exact forall_none
    next e1 =>
      extract_lets s2
      have h2 : memoryWf s2 = true := updBench_wf (newBench_wf h _ e1) fun _ hb => benchWf_frame hb
      clear_value s2
      split
      · exact forall_none
      · extract_lets s3 s4
        have h3 : memoryWf s3 = true := memoryWf_foldl _ h2 fun _ _ hs =>
          memoryWf_put (focus_wf hs) (tileWf_capture (memoryWf_tile (focus_wf hs)) (forall_some (wholeCapture_wf (focus_wf hs)))) rfl
        have h4 : memoryWf s4 = true := memoryWf_foldl _ (focus_wf h3) fun _ _ hs => quarryFlip_wf hs
        exact forall_some (sealBench_wf (updBench_wf h4 fun _ hb => benchWf_frame hb))

theorem execPreemptionCaptured_wf {pid : ℕ} {s : State} (h : memoryWf s = true) : OutWf (execPreemptionCaptured pid s) := by
  refine outWf_next ?_
  split
  · exact h
  · refine memoryWf_ite h ?_
    split
    · exact h
    next e1 =>
      split
      · exact preemptBench_wf h _ e1
      · exact placementPass_wf (mapPart_wf (freeSites_wf (completePart_wf (preemptBench_wf h _ e1))) (fun _ hs => partnWf_frame hs))

theorem dirEnd_wf {s : State} {p : Partn} (h : memoryWf s = true) : memoryWf (dirEnd s p) = true := by
  unfold dirEnd
  extract_lets hit is
  refine memoryWf_foldl _ (memoryWf_dir h (forall_map (memoryWf_entry h) fun e he => ?_)) fun _ _ hs => dirWrite_wf hs
  split
  · exact he
  · exact he

theorem execPartitionEnd_wf {pid : Nat} {s : State} (h : memoryWf s = true) : OutWf (execPartitionEnd pid s) := by
  unfold execPartitionEnd
  refine outWf_next ?_
  split
  · exact h
  · refine memoryWf_ite h (memoryWf_ite (mapPart_wf h fun _ hp => partnWf_frame hp) ?_)
    extract_lets s1 s2
    have h1 : memoryWf s1 = true := memoryWf_foldl _ h fun _ _ hs => stopHaul_wf hs
    clear_value s1
    have h2 : memoryWf s2 = true := dirEnd_wf (freeSites_wf (completePart_wf h1))
    clear_value s2
    exact placementPass_wf (powerState_wf (memoryWf_partns h2 (forall_filter (memoryWf_partn h2)) rfl))

end Sys2Proof.Machine

/-! PROOFS. Containment and failed links keep every memory in canonical form. -/

namespace Sys2Proof.Machine

open Sys2Proof

theorem retest_wf {s : State} {t : Tile} (h : memoryWf s = true) : memoryWf (retest s t) = true := by
  unfold retest
  extract_lets lines
  split
  next e =>
    have hs := memoryWf_of_snd (by exact memoryWf_foldl_snd _ h fun _ _ hs => memoryWf_frame hs rfl) e
    exact memoryWf_ite (markTile_wf hs) hs

theorem resetTile_wf {s : State} {t : Tile} : tileWf (resetTile s t) = true := tileWf_frame siteTile_wf rfl

theorem execContainment_wf {pid : ℕ} {s : State} (h : memoryWf s = true) : OutWf (execContainment pid s) := by
  refine outWf_next ?_
  split
  · exact h
  · split
    · exact h
    · extract_lets s1
      have hs1 : memoryWf s1 = true := memoryWf_foldl _ h fun _ _ hs => abandon_wf hs
      exact mapPart_wf (memoryWf_frame (memoryWf_foldl _ (memoryWf_ite (memoryWf_foldl _ (relRecord_wf hs1) (fun _ _ hs => retest_wf hs))
        (relRecord_wf hs1)) (fun _ _ hs => putTile_wf hs resetTile_wf)) rfl) fun _ hs => partnWf_frame hs

theorem execContainmentDrained_wf {pid : ℕ} {s : State} (h : memoryWf s = true) : OutWf (execContainmentDrained pid s) := by
  refine outWf_next ?_
  split
  · exact h
  · split
    · exact h
    · split
      · exact mapPart_wf h fun _ hs => partnWf_frame hs
      · extract_lets s1 s2
        have h2 : memoryWf s2 = true := mapPart_wf (freeSites_wf (completePart_wf h)) fun _ hs => partnWf_mk (forall_filter (partnWf_benches hs))
        clear_value s2
        exact placementPass_wf (powerState_wf (memoryWf_ite (memoryWf_partns h2 (forall_filter (memoryWf_partn h2)) rfl) h2))

theorem readOut_wf {s : State} {o : SendOp} (h : memoryWf s = true) : memoryWf (readOut s o).2 = true := by
  unfold readOut
  split
  · exact memoryWf_frame h rfl
  · exact memoryWf_frame h rfl
  · exact h
  · exact h
  · exact h
  · exact h

theorem failSend_wf {s : State} {o : SendOp} {code : ℕ} (h : memoryWf s = true) : memoryWf (failSend s o code) = true := by
  unfold failSend
  split
  next e =>
    extract_lets s1
    have h1 : memoryWf s1 = true := dropRanges_wf (dropSend_wf (memoryWf_of_snd (readOut_wf h) e))
    exact memoryWf_ite h1 (finish_wf h1)

theorem failOwner_wf {s : State} {peer kind handle code : ℕ} (h : memoryWf s = true) : memoryWf (failOwner s peer kind handle code) = true := by
  refine memoryWf_ite ?_ (memoryWf_ite ?_ ?_)
  · split
    · exact finish_wf (dropRanges_wf (dropPosted_wf h))
    · exact h
  · split
    · exact finish_wf (memoryWf_put (updEng_wf h) (updDisp_wf (memoryWf_tile (updEng_wf h))) rfl)
    · exact h
  · split
    · exact failSend_wf h
    · exact h

theorem countColour_wf {s : State} {round : Bool} (h : memoryWf s = true) : memoryWf (countColour s round) = true :=
  memoryWf_put h (tileWf_frame (memoryWf_tile h) rfl) rfl

theorem countAnswered_wf {s : State} {rank handle : ℕ} (h : memoryWf s = true) : memoryWf (countAnswered s rank handle) = true := by
  unfold countAnswered
  split
  · exact memoryWf_ite (countIn_wf h) h
  · split
    · exact memoryWf_ite h (countColour_wf (memoryWf_put h (tileWf_frame (memoryWf_tile h) rfl) rfl))
    · exact h

theorem execPeerFencedAnswer_wf {src dst : Nat} {s : State} (h : memoryWf s = true) : OutWf (execPeerFencedAnswer src dst s) := by
  unfold execPeerFencedAnswer
  refine outWf_next ?_
  extract_lets own
  have ho : ∀ r ∈ own, memoryWf r.2 = true := by
    refine forall_opt_ite forall_none ?_
    split
    next e => exact forall_some (takePkt_wf h _ e)
    · exact takePkt_wf h
  clear_value own
  split
  next p s1 =>
    have h1 : memoryWf s1 = true := ho (p, s1) rfl
    extract_lets s2 s3
    have h2 : memoryWf s2 = true := memoryWf_frame h1 rfl
    have h3 : memoryWf s3 = true := focus_wf h2
    clear_value s2 s3
    exact memoryWf_ite (memoryWf_ite h2 (sendPkt_wf h2)) (memoryWf_ite h2 (failOwner_wf (memoryWf_ite (countIn_wf h3) h3)))
  · refine memoryWf_ite h ?_
    split
    next e => exact failOwner_wf (countAnswered_wf (headFor_wf (focus_wf h) _ e))
    · exact h

theorem failParts_wf {s : State} {die other : ℕ} (h : memoryWf s = true) : memoryWf (failParts s die other) = true := by
  refine memoryWf_foldl _ h fun s1 a hs => ?_
  refine memoryWf_foldl _ hs fun s2 a1 hs1 => ?_
  split
  · exact memoryWf_ite (endReq_wf (updPart_wf (releaseTracker_wf hs1))) hs1
  · exact hs1

theorem failPort_wf {mine : ℕ → Bool} {s : State} (h : memoryWf s = true) : memoryWf (failPort mine s) = true :=
  memoryWf_foldl _ (memoryWf_foldl _ h (fun _ _ hs => failSend_wf hs)) fun _ _ hs => finish_wf (updEng_wf hs)

theorem execLinkFail_wf {die other : Nat} {s : State} (h : memoryWf s = true) : OutWf (execLinkFail die other s) := by
  unfold execLinkFail
  refine outWf_next (memoryWf_ite ?_ ?_)
  · extract_lets s1 lost s2 _ s3 s4
    have h2 : memoryWf s2 = true := memoryWf_foldl _ (relRecord_wf h) fun _ _ hs => partGone_wf hs
    have h3 : memoryWf s3 = true := memoryWf_frame h2 rfl
    clear_value s3
    exact eachTile_wf (memoryWf_foldl _ h3 fun _ _ hs => contain_wf hs) fun _ hs => failParts_wf hs
  · extract_lets mine s1 s2
    have h2 : memoryWf s2 = true := memoryWf_frame (relRecord_wf h) rfl
    exact eachTile_wf h2 fun _ hs => failPort_wf hs

end Sys2Proof.Machine

/-! PROOFS. Host commands, host registers and landed control words keep every memory in canonical form. -/

namespace Sys2Proof.Machine

open Sys2Proof

theorem cmdDone_wf {s : State} (h : memoryWf s = true) : memoryWf (cmdDone s) = true := w0Put_wf h

theorem cmdFail_wf {s : State} {code : ℕ} (h : memoryWf s = true) : memoryWf (cmdFail s code) = true := w0Put_wf h

theorem command_wf {op : ℕ} {s : State} {f : State → State} (hs : memoryWf s = true) (hf : ∀ x, memoryWf x = true → memoryWf (f x) = true) :
    OutWf (command op s f) := outWf_next (memoryWf_ite (w0Put_wf hs) (hf _ (w0Put_wf hs)))

theorem execHaltp_wf {s : State} (h : memoryWf s = true) : OutWf (execHaltp s) := by
  refine command_wf h fun x hs => ?_
  split
  · exact cmdFail_wf hs
  · exact cmdDone_wf (askHalt_wf hs)

theorem execResumep_wf {s : State} (h : memoryWf s = true) : OutWf (execResumep s) := by
  refine command_wf h fun x hs => ?_
  split
  · exact cmdFail_wf hs
  · exact memoryWf_ite (cmdFail_wf hs) (cmdDone_wf (askResume_wf hs))

theorem execContain_wf {s : State} (h : memoryWf s = true) : OutWf (execContain s) := by
  refine command_wf h fun x hs => ?_
  split
  · exact cmdFail_wf hs
  · exact cmdDone_wf (mapPart_wf hs (fun _ hs1 => partnWf_ite (partnWf_frame hs1) hs1))

theorem execQroot_wf {s : State} (h : memoryWf s = true) : OutWf (execQroot s) :=
  command_wf h fun _ hs => memoryWf_ite (cmdFail_wf hs) (memoryWf_ite (cmdFail_wf hs) (cmdDone_wf (memoryWf_frame hs rfl)))

theorem dropTlb_wf {t : Tile} (h : tileWf t = true) : tileWf (dropTlb t) = true := tileWf_frame h rfl

theorem execQinval_wf {s : State} (h : memoryWf s = true) : OutWf (execQinval s) :=
  command_wf h (fun _ hs => memoryWf_ite (cmdFail_wf hs) (w0Put_wf (memoryWf_tiles hs (tileWf_ite (dropTlb_wf (memoryWf_tile hs)) (memoryWf_tile
    hs)) (forall_map (memoryWf_rest hs) (fun _ hs1 => tileWf_ite (dropTlb_wf hs1) hs1)) rfl)))

theorem execQinvalAcknowledge_wf {s : State} (h : memoryWf s = true) : OutWf (execQinvalAcknowledge s) := by
  refine outWf_next ?_
  split
  · exact h
  · exact memoryWf_ite (cmdDone_wf (memoryWf_frame h rfl)) h

theorem execRetire_wf {s : State} (h : memoryWf s = true) : OutWf (execRetire s) :=
  command_wf h fun _ hs => memoryWf_ite (cmdFail_wf hs) (cmdDone_wf (markTile_wf hs))

theorem execPortpair_wf {s : State} (h : memoryWf s = true) : OutWf (execPortpair s) :=
  command_wf h fun _ hs => memoryWf_ite (cmdFail_wf hs) (memoryWf_ite (cmdFail_wf hs) (cmdDone_wf (memoryWf_frame hs rfl)))

theorem execGvtdom_wf {s : State} (h : memoryWf s = true) : OutWf (execGvtdom s) := by
  refine command_wf h fun x hs => ?_
  split
  · exact cmdFail_wf hs
  · split
    · exact cmdFail_wf hs
    · exact memoryWf_ite (cmdFail_wf hs) (cmdDone_wf (mapPart_wf hs (fun _ hs1 => partnWf_frame hs1)))

theorem execImgreg_wf {s : State} (h : memoryWf s = true) : OutWf (execImgreg s) := by
  unfold execImgreg
  refine command_wf h fun s hs => ?_
  refine memoryWf_ite (cmdFail_wf hs) (memoryWf_ite (cmdFail_wf hs) (memoryWf_ite (cmdFail_wf hs) ?_))
  split
  next e =>
    have h1 := memoryWf_of_snd (found_wf hs) e
    exact memoryWf_ite (cmdFail_wf h1) (cmdDone_wf (memoryWf_frame h1 rfl))

theorem execImgdel_wf {s : State} (h : memoryWf s = true) : OutWf (execImgdel s) :=
  command_wf h fun _ hs => memoryWf_ite (cmdFail_wf hs) (memoryWf_ite (cmdFail_wf hs) (cmdDone_wf (memoryWf_frame hs rfl)))

theorem execAttest_wf {s : State} (h : memoryWf s = true) : OutWf (execAttest s) := by
  refine command_wf h fun x hs => ?_
  split
  · exact cmdFail_wf hs
  · split
    next e => exact cmdDone_wf (memoryWf_frame (memoryWf_of_snd (found_wf hs) e) rfl)

theorem execPcapWrite_wf {v : W64} {s : State} (h : memoryWf s = true) : OutWf (execPcapWrite v s) :=
  outWf_next (powerState_wf (memoryWf_frame (w0Put_wf h) rfl))

theorem execQtailWrite_wf {q : ℕ} {v : W64} {s : State} (h : memoryWf s = true) : OutWf (execQtailWrite q v s) :=
  outWf_next (memoryWf_ite h (placementPass_wf (memoryWf_frame h rfl)))

theorem execCtailWrite_wf {v : W64} {s : State} (h : memoryWf s = true) : OutWf (execCtailWrite v s) :=
  outWf_next (memoryWf_ite (placementPass_wf (ringPump_wf (memoryWf_frame h rfl))) (ringPump_wf (memoryWf_frame h rfl)))

theorem execOtailWrite_wf {v : W64} {s : State} (h : memoryWf s = true) : OutWf (execOtailWrite v s) := outWf_next (memoryWf_frame h rfl)

theorem benchCommand_wf {op : ℕ} {s : State} {f : State → State} (hs : memoryWf s = true) (hf : ∀ x, memoryWf x = true → memoryWf (f x) = true) :
    OutWf (benchCommand op s f) := outWf_next (memoryWf_ite (w2Put_wf hs) (hf _ (w2Put_wf hs)))

theorem execBenchTake_wf {s : State} (h : memoryWf s = true) : OutWf (execBenchTake s) := benchCommand_wf h fun _ hs => takeBench_wf hs

theorem restorePartn_wf {s : State} {r : LaunchRec} {b : Bench} (hs : memoryWf s = true) (hb : benchWf b = true) :
    memoryWf (restorePartn s r b) = true := by
  unfold restorePartn
  split
  · exact benchStat_wf hs
  next e =>
    have h1 := benchWhole_wf hs _ e
    have hi := benchWhole_images hb _ e
    extract_lets pid b' _ p
    have hb' : benchWf b' = true := benchWf_mk hi
    have hp : partnWf p = true := partnWf_iff.2 (forall_cons (P := fun b => benchWf b = true) hb' forall_nil)
    clear_value p
    exact benchStat_wf (placementPass_wf (memoryWf_partns h1 (forall_append (memoryWf_partn h1) (forall_cons hp forall_nil)) rfl))

theorem execBenchRestore_wf {s : State} (h : memoryWf s = true) : OutWf (execBenchRestore s) := by
  unfold execBenchRestore
  refine benchCommand_wf h fun s hs => ?_
  extract_lets i a
  clear_value i
  refine memoryWf_ite ?_ ?_
  · split
    next e => exact memoryWf_ite (restorePartn_wf hs (benchOf_wf hs _ e)) (benchStat_wf hs)
    · exact benchStat_wf hs
  · split
    next e => exact memoryWf_ite (restorePartn_wf hs (memoryWf_entry hs _ (List.mem_of_getElem? e))) (benchStat_wf hs)
    · exact benchStat_wf hs

theorem execBenchDrop_wf {s : State} (h : memoryWf s = true) : OutWf (execBenchDrop s) := by
  unfold execBenchDrop
  refine benchCommand_wf h fun s hs => ?_
  extract_lets i
  clear_value i
  split
  · exact benchStat_wf hs
  next e he =>
    refine memoryWf_ite (benchStat_wf hs) ?_
    extract_lets s1
    have h1 : memoryWf s1 = true := by
      unfold s1
      split
      · exact memoryWf_ite (dropBench_wf hs) hs
      · exact hs
    clear_value s1
    exact benchStat_wf (dirWrite_wf (memoryWf_dir h1 (forall_set (memoryWf_entry h1) (memoryWf_entry hs e (List.mem_of_getElem? he)))))

theorem execBenchKeep_wf {s : State} (h : memoryWf s = true) : OutWf (execBenchKeep s) := by
  unfold execBenchKeep
  refine benchCommand_wf h fun s hs => ?_
  extract_lets pid s1
  clear_value pid
  split
  · exact benchStat_wf hs
  · have h1 : memoryWf s1 = true := mapPart_wf hs fun _ hp => partnWf_frame hp
    clear_value s1
    refine benchStat_wf (memoryWf_dir h1 (forall_map (memoryWf_entry h1) fun e he => ?_))
    split
    · exact he
    · exact he

theorem writePage_wf {s : State} {off : ℕ} {v : W64} (h : memoryWf s = true) : memoryWf (writePage s off v) = true :=
  memoryWf_ite h (mapTile_wf (listSite_wf h) (fun _ hs => cwPut_wf hs))

theorem writeSlot_wf {s : State} {off : ℕ} {v : W64} (h : memoryWf s = true) : memoryWf (writeSlot s off v) = true :=
  memoryWf_ite h (memoryWf_frame h rfl)

theorem writeW2_wf {s : State} {off : Nat} {v : W64} (h : memoryWf s = true) : memoryWf (writeW2 s off v) = true := by
  unfold writeW2
  refine memoryWf_ite (w2Put_wf h) (memoryWf_ite (w2Put_wf h) (memoryWf_ite ?_ (memoryWf_ite (memoryWf_ite h (w2Put_wf h)) h)))
  exact memoryWf_ite h (memoryWf_ite (w2Put_wf h) (benchStat_wf (w2Put_wf h)))

theorem accessed_wf {s : State} (h : memoryWf s = true) : memoryWf (accessed s) = true := memoryWf_frame h rfl

theorem execHostRegisterWrite_wf {win off : ℕ} {v : W64} {s : State} (h : memoryWf s = true) : OutWf (execHostRegisterWrite win off v s) := by
  refine outWf_next (memoryWf_ite (accessed_wf h) ?_)
  split
  · refine memoryWf_ite (writePage_wf h) (memoryWf_ite (memoryWf_ite h (memoryWf_ite (w0Put_wf h) (cmdFail_wf (w0Put_wf h)))) ?_)
    split
    · exact w0Put_wf h
    · exact h
  · exact writeSlot_wf h
  · exact writeW2_wf h

theorem execW3Read_wf {off : ℕ} {s : State} (h : memoryWf s = true) : OutWf (execW3Read off s) :=
  outWf_next (memoryWf_frame (readBlocks_wf (accessed_wf h)) rfl)

theorem execW3Write_wf {off : ℕ} {v : W64} {s : State} (h : memoryWf s = true) : OutWf (execW3Write off v s) :=
  outWf_next (memoryWf_ite (accessed_wf h) (writeHome_wf (accessed_wf h)))

theorem execIssueBudgetUpdate_wf {s : State} (h : memoryWf s = true) : OutWf (execIssueBudgetUpdate s) := by
  refine outWf_next ?_
  extract_lets n temp draw budget s1 m s2
  have h1 : memoryWf s1 = true := w0Put_wf (w0Put_wf (memoryWf_frame h rfl))
  have h2 : memoryWf s2 = true := memoryWf_frame h1 rfl
  exact memoryWf_ite (powerFail_wf h2) h2

theorem execThermalShutdown_wf {s : State} (h : memoryWf s = true) : OutWf (execThermalShutdown s) :=
  outWf_next (powerFail_wf (w0Put_wf (memoryWf_frame h rfl)))

theorem execResultLand_wf {site : ℕ} {s : State} (h : memoryWf s = true) : OutWf (execResultLand site s) :=
  atTile_wf h (fun _ hs => memoryWf_ite (memoryWf_put (drainRead_wf hs) (beginCycle_wf (memoryWf_tile (drainRead_wf hs))) rfl) hs)

theorem takeAsync_wf {s : State} (h : memoryWf s = true) : memoryWf (takeAsync s) = true := by
  unfold takeAsync
  split
  · exact h
  · exact takeTrap_wf (memoryWf_put h (updDisp_wf (tileWf_frame (memoryWf_tile h) rfl)) rfl)

theorem execAsyncTrap_wf {site : ℕ} {s : State} (h : memoryWf s = true) : OutWf (execAsyncTrap site s) :=
  atTile_wf h fun _ hs => memoryWf_ite (takeAsync_wf (reachBoundary_wf hs)) hs

theorem landWord_wf {n : ℕ} {v : W64} {s : State} (h : memoryWf s = true) : OutWf (landWord n v s) :=
  outWf_next (memoryWf_put h (cwWrite_wf (memoryWf_tile h)) rfl)

theorem execXbWrite_wf {v : W64} {s : State} (h : memoryWf s = true) : OutWf (execXbWrite v s) :=
  outWf_ite (outWf_next (takeTrap_wf h)) (landWord_wf h)

theorem execStatusWrite_wf {v : W64} {s : State} (h : memoryWf s = true) : OutWf (execStatusWrite v s) := landWord_wf h

theorem execRmodeWrite_wf {v : W64} {s : State} (h : memoryWf s = true) : OutWf (execRmodeWrite v s) := landWord_wf h

theorem execRseedWrite_wf {v : W64} {s : State} (h : memoryWf s = true) : OutWf (execRseedWrite v s) := landWord_wf h

theorem execMailboxWrite_wf {side : ℕ} {v : W64} {s : State} (h : memoryWf s = true) : OutWf (execMailboxWrite side v s) :=
  outWf_next (memoryWf_put h (mbLand_wf (memoryWf_tile h)) rfl)

theorem execTrcctlWrite_wf {v : W64} {s : State} (h : memoryWf s = true) : OutWf (execTrcctlWrite v s) := landWord_wf h

end Sys2Proof.Machine

/-! PROOFS. The start sequence and the change of power state keep every memory in canonical form. -/

namespace Sys2Proof.Machine

open Sys2Proof

theorem setStep_wf {s : State} {step : ℕ} (h : memoryWf s = true) : memoryWf (setStep s step) = true := w0Put_wf h

theorem stopAt_wf {s : State} {step unit cause : ℕ} (h : memoryWf s = true) : memoryWf (stopAt s step unit cause) = true := w0Put_wf h

theorem logFailure_wf {s : State} {step unit cause : ℕ} (h : memoryWf s = true) : memoryWf (logFailure s step unit cause) = true :=
  memoryWf_frame (saveRecord_wf h) rfl

theorem dieOut_wf {s : State} {d : ℕ} (h : memoryWf s = true) : memoryWf (dieOut s d) = true := memoryWf_ite h (memoryWf_frame h rfl)

theorem startLinks_wf {s : State} (h : memoryWf s = true) : memoryWf (startLinks s) = true :=
  memoryWf_frame (memoryWf_foldl _ (memoryWf_foldl _ h (fun _ _ hs => dieOut_wf hs)) (fun _ _ hs => logFailure_wf hs)) rfl

theorem startStacks_wf {s : State} (h : memoryWf s = true) : memoryWf (startStacks s) = true := by
  refine memoryWf_foldl _ h fun s d hs => ?_
  split
  · extract_lets top g s1
    have h1 : memoryWf s1 = true := memoryWf_foldl _ hs fun _ _ hs => logFailure_wf hs
    clear_value s1
    exact memoryWf_ite hs (memoryWf_frame h1 rfl)
  · extract_lets last s1
    have h1 : memoryWf s1 = true := memoryWf_foldl _ hs fun _ _ hs => logFailure_wf hs
    clear_value s1
    exact memoryWf_ite (memoryWf_frame h1 rfl) (memoryWf_frame h1 rfl)

theorem startFrames_wf {s : State} (h : memoryWf s = true) : memoryWf (startFrames s) = true := by
  unfold startFrames
  extract_lets bad s1
  have h1 : memoryWf s1 = true := memoryWf_foldl _ h fun _ _ hs => logFailure_wf hs
  clear_value s1 bad
  exact memoryWf_quarry h1 wf_nil rfl

theorem startTiles_wf {s : State} (h : memoryWf s = true) : memoryWf (startTiles s) = true := by
  unfold startTiles
  extract_lets bad s1 s2
  have h1 : memoryWf s1 = true := memoryWf_foldl _ h fun _ _ hs => logFailure_wf hs
  clear_value s1 bad
  have h2 : memoryWf s2 = true := memoryWf_ite h1 (saveRecord_wf h1)
  clear_value s2
  exact memoryWf_frame h2 rfl

theorem startPorts_wf {s : State} (h : memoryWf s = true) : memoryWf (startPorts s) = true :=
  memoryWf_foldl _ h fun _ _ hs =>
    have h1 := logFailure_wf hs
    memoryWf_ite (memoryWf_frame h1 rfl) (memoryWf_frame h1 rfl)

theorem bootStops_wf {s : State} {unit cause : ℕ} (h : memoryWf s = true) : memoryWf (bootStops s unit cause) = true :=
  have h1 := stopAt_wf (logFailure_wf h)
  memoryWf_ite (cmdFail_wf (memoryWf_frame h1 rfl)) (memoryWf_frame h1 rfl)

/-- Placement behind an opaque name: where the kernel compares fields of what it leaves, it must not evaluate it. -/
theorem exists_placement : ∃ place, place = placeWith ∧
    ∀ s r pid trapent code data slots, memoryWf s = true → memoryWf (place s r pid trapent code data slots) = true :=
  ⟨placeWith, rfl, fun _ _ _ _ _ _ _ => placeWith_wf⟩

theorem startBoot_wf {s : State} (h : memoryWf s = true) : memoryWf (startBoot s) = true := by
  obtain ⟨place, hp, hplace⟩ := exists_placement
  unfold startBoot
  rw [← hp]
  split
  · exact bootStops_wf h
  next b _ _ =>
    extract_lets pid next _ s1 s2 _ s3 entry s4
    have h1 : memoryWf s1 = true := setStep_wf (memoryWf_frame h rfl)
    have h2 : memoryWf s2 = true := hplace _ _ _ _ _ _ _ h1
    have h3 : memoryWf s3 = true := memoryWf_frame h2 rfl
    have h4 : memoryWf s4 = true :=
      memoryWf_tiles h3 (updRt_wf (memoryWf_tile h3)) (forall_map (memoryWf_rest h3) fun _ ht => updRt_wf ht) rfl
    exact mapTile_wf h4 fun _ ht => tileWf_mk (blit_wf _ _ (tileWf_wf ht)) (tileWf_cap ht)

theorem poweredUp_wf {s : State} (h : memoryWf s = true) : memoryWf (poweredUp s) = true :=
  memoryWf_iff.2
    { quarry := wf_nil
      cap := show s.cap.wf = true from memoryWf_cap_wf h
      tile := tileWf_blank
      rest := forall_nil
      partns := forall_nil
      dir := show ∀ e ∈ s.mgr.dir, benchWf e.bench = true from memoryWf_entry h }

theorem execStartSequence_wf {s : State} (h : memoryWf s = true) : OutWf (execStartSequence s) := by
  unfold execStartSequence
  refine outWf_next ?_
  extract_lets s1 good first s2 _ s3
  have h1 : memoryWf s1 = true := poweredUp_wf h
  clear_value s1
  have h2 : memoryWf s2 = true := memoryWf_ite h1 (logFailure_wf h1)
  clear_value s2
  have h3 : memoryWf s3 = true := memoryWf_frame h2 rfl
  clear_value s3
  refine memoryWf_ite (stopAt_wf (logFailure_wf h1)) (memoryWf_ite (stopAt_wf (logFailure_wf h1)) ?_)
  exact memoryWf_ite (stopAt_wf (logFailure_wf h2)) (startBoot_wf (startTiles_wf (startFrames_wf (startStacks_wf (startLinks_wf h3)))))

theorem reachReady_wf {s : State} (h : memoryWf s = true) : memoryWf (reachReady s) = true := by
  unfold reachReady
  extract_lets _ s1
  have h1 : memoryWf s1 = true := setStep_wf (startPorts_wf (memoryWf_frame h rfl))
  clear_value s1
  exact placementPass_wf (memoryWf_ite (powerState_wf (cmdDone_wf (w0Put_wf h1))) h1)

theorem routerOut_wf {s : State} {site : ℕ} (h : memoryWf s = true) : memoryWf (routerOut s site) = true := memoryWf_frame h rfl

theorem execBootCheck_wf {s : State} (h : memoryWf s = true) : OutWf (execBootCheck s) := by
  unfold execBootCheck
  refine outWf_next ?_
  split
  next b p eb ep =>
    extract_lets unit word ids dead gap total blank s1 s2 s3 s4 out
    refine memoryWf_ite (bootStops_wf (memoryWf_partns h (forall_filter (memoryWf_partn h)) rfl)) (memoryWf_ite h ?_)
    have h2 : memoryWf s2 = true := by
      have h1 : memoryWf s1 = true := memoryWf_foldl _ h fun _ _ hs => mapTile_wf hs fun _ ht => cwPut_wf ht
      clear_value s1
      exact freeSites_wf (memoryWf_partns h1 (forall_filter (memoryWf_partn h1)) rfl)
    have h3 : memoryWf s3 = true := by
      clear_value s2 gap
      refine memoryWf_ite ?_ h2
      split
      · exact routerOut_wf (logFailure_wf h2)
      · exact logFailure_wf h2
    have h4 : memoryWf s4 = true := memoryWf_foldl _ h3 fun _ _ hs => routerOut_wf (logFailure_wf hs)
    clear_value s4
    exact reachReady_wf (memoryWf_frame h4 rfl)
  · exact h

theorem execPset_wf {s : State} (h : memoryWf s = true) : OutWf (execPset s) := by
  unfold execPset
  refine command_wf h fun s hs => ?_
  extract_lets v parked
  clear_value v parked
  refine memoryWf_ite (memoryWf_ite (cmdFail_wf hs) (cmdDone_wf (w0Put_wf ?_))) (memoryWf_ite (memoryWf_ite ?_ (cmdDone_wf hs)) (cmdFail_wf hs))
  · exact memoryWf_tiles hs tileWf_blank forall_nil rfl
  · exact startBoot_wf (startTiles_wf (w0Put_wf (memoryWf_frame hs rfl)))

end Sys2Proof.Machine

/-! PROOFS. Every instruction and every event of the machine keeps every memory in canonical form. -/

namespace Sys2Proof.Machine

open Sys2Proof

/-- The events: what happens without an encoding. -/
theorem exec_event_wf {i : Instr} {s : State} (hi : encode i = none) (h : memoryWf s = true) : OutWf (exec i s) := by
  unfold exec
  cases i with
  | acceptanceArrival => exact execAcceptanceArrival_wf h
  | antiMessageArrival => exact execAntiMessageArrival_wf h
  | asyncTrap => exact execAsyncTrap_wf h
  | attest => exact execAttest_wf h
  | benchAccept => exact execBenchAccept_wf h
  | benchDrop => exact execBenchDrop_wf h
  | benchFlip => exact execBenchFlip_wf h
  | benchKeep => exact execBenchKeep_wf h
  | benchRestore => exact execBenchRestore_wf h
  | benchSeal => exact execBenchSeal_wf h
  | benchSweep => exact execBenchSweep_wf h
  | benchTake => exact execBenchTake_wf h
  | bootCheck => exact execBootCheck_wf h
  | congestionDetect => exact execCongestionDetect_wf h
  | congestionNotice => exact execCongestionNotice_wf h
  | contain => exact execContain_wf h
  | containment => exact execContainment_wf h
  | containmentDrained => exact execContainmentDrained_wf h
  | ctailWrite => exact execCtailWrite_wf h
  | ctsArrival => exact execCtsArrival_wf h
  | ctsSend => exact execCtsSend_wf h
  | dbgctlHalt => exact execDbgctlHalt_wf h
  | dbgctlResume => exact execDbgctlResume_wf h
  | dbgctlStep => exact execDbgctlStep_wf h
  | dbgpcWrite => exact execDbgpcWrite_wf h
  | dispatch => exact execDispatch_wf h
  | eagerReadoutDone => exact execEagerReadoutDone_wf h
  | eagerReadoutStart => exact execEagerReadoutStart_wf h
  | faultInjectDeferred => exact execFaultInjectDeferred_wf h
  | fenceMarker => exact execFenceMarker_wf h
  | fenceVerdict => exact execFenceVerdict_wf h
  | finjWrite => exact execFinjWrite_wf h
  | gangResume => exact execGangResume_wf h
  | gangStop => exact execGangStop_wf h
  | gvtRelease => exact execGvtRelease_wf h
  | gvtReportRetry => exact execGvtReportRetry_wf h
  | gvtRoundEnd => exact execGvtRoundEnd_wf h
  | gvtRoundStart => exact execGvtRoundStart_wf h
  | gvtdom => exact execGvtdom_wf h
  | haloArrival => exact execHaloArrival_wf h
  | haltp => exact execHaltp_wf h
  | hamperInputResume => exact execHamperInputResume_wf h
  | haulPage => exact execHaulPage_wf h
  | hostRegisterWrite => exact execHostRegisterWrite_wf h
  | imgdel => exact execImgdel_wf h
  | imgreg => exact execImgreg_wf h
  | issueBudgetUpdate => exact execIssueBudgetUpdate_wf h
  | linkCrcRetry => exact execLinkCrcRetry_wf h
  | linkFail => exact execLinkFail_wf h
  | mailboxWrite => exact execMailboxWrite_wf h
  | messageArrival => exact execMessageArrival_wf h
  | multicastForward => exact execMulticastForward_wf h
  | otailWrite => exact execOtailWrite_wf h
  | partitionEnd => exact execPartitionEnd_wf h
  | pcapWrite => exact execPcapWrite_wf h
  | peerFencedAnswer => exact execPeerFencedAnswer_wf h
  | periodicBench => exact execPeriodicBench_wf h
  | pfail => exact execPfail_wf h
  | pmaskExpire => exact execPmaskExpire_wf h
  | portpair => exact execPortpair_wf h
  | preemptionCaptured => exact execPreemptionCaptured_wf h
  | pset => exact execPset_wf h
  | qinval => exact execQinval_wf h
  | qinvalAcknowledge => exact execQinvalAcknowledge_wf h
  | qroot => exact execQroot_wf h
  | qtailWrite => exact execQtailWrite_wf h
  | quarryBenchFlip => exact execQuarryBenchFlip_wf h
  | quarryPartDispatch => exact execQuarryPartDispatch_wf h
  | quarryPartServe => exact execQuarryPartServe_wf h
  | quarryPartTimeout => exact execQuarryPartTimeout_wf h
  | quarryReply => exact execQuarryReply_wf h
  | quarryScrub => exact execQuarryScrub_wf h
  | quarryWalk => exact execQuarryWalk_wf h
  | receiveComplete => exact execReceiveComplete_wf h
  | refusalArrival => exact execRefusalArrival_wf h
  | rendezvousStreamDone => exact execRendezvousStreamDone_wf h
  | resultLand => exact execResultLand_wf h
  | resumep => exact execResumep_wf h
  | retire => exact execRetire_wf h
  | rmodeWrite => exact execRmodeWrite_wf h
  | rollback => exact execRollback_wf h
  | rseedWrite => exact execRseedWrite_wf h
  | scheduledFlitForward => exact execScheduledFlitForward_wf h
  | sendtDepart => exact execSendtDepart_wf h
  | setasideRelease => exact execSetasideRelease_wf h
  | sramScrub => exact execSramScrub_wf h
  | startSequence => exact execStartSequence_wf h
  | statusWrite => exact execStatusWrite_wf h
  | stealAnswer => exact execStealAnswer_wf h
  | stealServe => exact execStealServe_wf h
  | stepDone => exact execStepDone_wf h
  | stepcntWrite => exact execStepcntWrite_wf h
  | syncRelease => exact execSyncRelease_wf h
  | taskPreempt => exact execTaskPreempt_wf h
  | thermalShutdown => exact execThermalShutdown_wf h
  | tileHalt => exact execTileHalt_wf h
  | timedArrival => exact execTimedArrival_wf h
  | timedQueueDeliver => exact execTimedQueueDeliver_wf h
  | traceBatchWrite => exact execTraceBatchWrite_wf h
  | trackerHoldbackEnd => exact execTrackerHoldbackEnd_wf h
  | trcctlWrite => exact execTrcctlWrite_wf h
  | w3Read => exact execW3Read_wf h
  | w3Write => exact execW3Write_wf h
  | xbWrite => exact execXbWrite_wf h
  | nop | add | sub | and | or | xor | andn | orn | xnor | sll | srl | sra | ror | rol | slt | sltu | min | max | minu | maxu | addw | subw
    | sllw | srlw | sraw | mul | mulh | mulhu | mulhsu | mulw | div | divu | rem | remu | divw | divuw | remw | remuw | clz | ctz | popc | brev
    | bswap | sextb | sexth | zextb | zexth | zextw | clzw | bext | bset | bclr | binv | bfxu | bfxs | addi | andi | ori | xori | slli | srli
    | srai | rori | slliw | srliw | sraiw | ldi | ldh1 | ldh2 | ldh3 | sel | addsc | ladd | chku | rdw | wrw | br | call | jr | jalr | loop | cmp
    | cmpi | pand | por | pxor | pandn | prdg | pwrg | trap | rfe | brk | idle | ifence | maskp | unmaskp | savelt | rstlt | sync | lpop | yield
    | suspend | exit | sig | pfxM | pfxV | ld | st | ldx | stx | vld | vst | vldl | vldu | vgth32 | vsct32 | vgth16 | vsct16 | vgth8 | vsct8
    | vldm | vstm | ltld | ltst | ltw | ltrl | ltrh | ltbase | istw | istv | vadd | vsub | vmul | vfma | vfnma | vmin | vmax | vfms | vrcp | vrsq
    | vexp2 | vlog2 | vsinp | vtanh | vdiv | vsqrt | viadd | visub | vimul | vimulh | viadds | visubs | vimin | vimax | vand | vor | vxor | vandn
    | vsll | vsrl | vsra | vbsl | vceq | vcne | vclt | vcle | vcun | vctst | vcvt | vrint | vmov | vsel | vabs | vneg | vcpys | vfrsum | vfrmax
    | vfrmin | vfscan | virsum | virmax | virmin | viscan | vbcst | vbcsti | vextr | vins | viota | vperm | vcomp | vexpd | vcpos | vsldn | vslup
    | mand | mor | mxor | mandn | mfromx | mtox | mpopc | mffs | mzero | mpush | macc | mshift | mlatch | mlside | mdrain | msclrA | msclrB
    | mrds | send | sendR | recv | testt | probe | cancel | waitany | envr | qget | qput | qgett | qputt | qatom | qgath | qscat | qfill | qcopy
    | fenceQ | spawn | spawnr | pop | steal | stealX | dqst | widf | wids | sendt | msend | halo | waitmb | fencex | mgset | fstat | erecv
    | erecvNs | deferH | deferT | vtadv | savem | gvtw | bench | bstat | bwait | bdrop => exact nomatch hi

theorem exec_wf {i : Instr} {s : State} (h : memoryWf s = true) : OutWf (exec i s) := by
  cases e : encode i with
  | some w => exact (exec_gathers s e).outWf h
  | none => exact exec_event_wf e h

theorem updIss_wf {s : State} {f : Issue → Issue} (h : memoryWf s = true) : memoryWf (updIss s f) = true :=
  memoryWf_put h (tileWf_frame (memoryWf_tile h) rfl) rfl

theorem runSlots_wf {l : List Slot} {s : State} (h : memoryWf s = true) : OutWf (runSlots l s) := by
  induction l generalizing s with
  | nil => exact outWf_next h
  | cons x r ih =>
    unfold runSlots
    split
    next e => exact ih (exec_wf (updIss_wf h) _ e)
    · exact outWf_fault
    · exact outWf_refused

end Sys2Proof.Machine

/-! PROOFS. An attempt to issue, its traps, its commit and its holds keep every memory in canonical form. -/

namespace Sys2Proof.Machine

open Sys2Proof

theorem openBundle_wf {s : State} {ws : List (BitVec 32)} {pre : List (ℕ × ℕ × W64)} (h : memoryWf s = true) :
    memoryWf (openBundle s ws pre) = true := updIss_wf h

theorem mailboxSeen_wf {t : Tile} {l : List Slot} (h : tileWf t = true) : tileWf (mailboxSeen t l) = true := tileWf_ite h (tileWf_frame h rfl)

theorem debugHalt_wf {s : State} {hits : List ℕ} (h : memoryWf s = true) : memoryWf (debugHalt s hits) = true :=
  memoryWf_put (haltHere_wf h) (updDbg_wf (memoryWf_tile (haltHere_wf h))) rfl

theorem missSig_wf {s : State} {v : W64} (h : memoryWf s = true) : memoryWf (missSig s v) = true :=
  relRecord_wf (memoryWf_put h (cwPut_wf (memoryWf_tile h)) rfl)

theorem trapBundle_wf {s : State} {hits : List ℕ} {code : ℕ} {tval : W64} (h : memoryWf s = true) :
    memoryWf (trapBundle s hits code tval) = true := by
  unfold trapBundle
  extract_lets pc t t1 t2 s1
  have h1 : memoryWf s1 = true := memoryWf_put h (updDbg_wf (tileWf_frame (memoryWf_tile h) rfl)) rfl
  split
  · split
    · exact contain_wf (missSig_wf h1)
    · exact takeTrap_wf (missSig_wf h1)
  · exact takeTrap_wf h1

theorem stallAt_wf {s : State} {k : Stall} (h : memoryWf s = true) : memoryWf (stallAt s k) = true := by
  unfold stallAt
  extract_lets t s1
  have h1 : memoryWf s1 = true := memoryWf_put h (traceNote_wf (tileWf_frame (memoryWf_tile h) rfl)) rfl
  exact memoryWf_ite (memoryWf_getD (switchDue_wf h1) h1) h1

theorem spendCycle_wf {t : Tile} (h : tileWf t = true) : tileWf (spendCycle t) = true := tileWf_ite h (updDisp_wf h)

theorem spendBudget_wf {t : Tile} {now : ℕ} (h : tileWf t = true) : tileWf (spendBudget t now) = true := tileWf_frame h rfl

theorem insertCycle_wf {s : State} {k : Stall} (h : memoryWf s = true) : memoryWf (insertCycle s k) = true :=
  memoryWf_put h (traceNote_wf (spendBudget_wf (spendCycle_wf (tileWf_frame (memoryWf_tile h) rfl)))) rfl

theorem pendTok_wf {s : State} {r : Reg} (h : memoryWf s = true) : memoryWf (pendTok s r) = true :=
  memoryWf_ite h (memoryWf_put h (tileWf_frame (memoryWf_tile h) rfl) rfl)

theorem takeRanges_wf {l : List (Nat × Nat × Bool)} {s : State} (h : memoryWf s = true) : memoryWf (takeRanges l s).2 = true := by
  induction l generalizing s with
  | nil => exact h
  | cons p r ih => exact ih (updEng_wf (freshId_wf h))

theorem reservePosted_wf {s : State} {o : EngOp} (h : memoryWf s = true) : memoryWf (reservePosted s o).2 = true :=
  memoryWf_snd_ite (updEng_wf (updEng_wf h)) h

theorem deferOp_wf {s : State} {o : EngOp} {kind : Nat} (h : memoryWf s = true) : memoryWf (deferOp s o kind) = true := by
  unfold deferOp
  extract_lets s1 held
  have h1 : memoryWf s1 = true := checkRead_wf h
  clear_value s1
  split
  next e =>
    have h2 := memoryWf_of_snd (reservePosted_wf h1) e
    extract_lets c s3
    have h3 : memoryWf s3 = true := dropRanges_wf h2
    exact memoryWf_put h3 (pushCommit_wf (memoryWf_tile h3)) rfl

theorem issueOp_wf {s : State} {o : EngOp} (h : memoryWf s = true) : memoryWf (issueOp s o) = true := by
  unfold issueOp
  extract_lets queue t six skip
  have hq (u) (hu : memoryWf u = true) : memoryWf (queue u) = true := updEng_wf hu
  have h6 (u) (hu : memoryWf u = true) : memoryWf (six u) = true := memoryWf_put hu (tileWf_frame (memoryWf_tile hu) rfl) rfl
  have hk (u f) (hu : memoryWf u = true) (hf : ∀ b : BenchUnit, (f b).cap = b.cap) : memoryWf (skip u f) = true :=
    finish_wf (dropRanges_wf (memoryWf_put hu (tileWf_frame (memoryWf_tile hu) (hf _)) rfl))
  clear_value queue six skip
  refine memoryWf_ite ?_ ?_
  · split
    · exact memoryWf_ite (hk _ _ (h6 _ h) fun _ => rfl) (hq _ (h6 _ (memoryWf_put h (pushLog_wf (memoryWf_tile h)) rfl)))
    · exact hq _ (memoryWf_put h (raiseAsync_wf (memoryWf_tile h)) rfl)
    · split
      · exact memoryWf_ite (hk _ _ h fun _ => rfl) (deferOp_wf h)
      · exact hq _ h
  · split
    · exact memoryWf_getD (timedSend_wf h) (hq _ h)
    · exact hq _ (memoryWf_ite (memoryWf_put h (updDisp_wf (memoryWf_tile h)) rfl) h)
    · exact hq _ h

theorem commitEvent_wf {i : Issue} {s : State} (h : memoryWf s = true) : memoryWf (commitEvent i s) = true := by
  unfold commitEvent
  split
  · exact h
  · split
    · exact openEvent_wf h
    · split
      · exact openEvent_wf (pendTok_wf h)
      · exact pendTok_wf (openEvent_wf (takeRanges_wf h))

theorem commitStores_wf {i : Issue} {s : State} (h : memoryWf s = true) : memoryWf (commitStores i s) = true := by
  unfold commitStores
  extract_lets s1 t old t1
  have h1 : memoryWf s1 = true := mergeRead_wf (trailRead_wf h)
  have ht : tileWf t = true := tileWf_ite (memoryWf_tile h1) (sramPut_wf _ _ _ _ (memoryWf_tile h1))
  exact memoryWf_put h1 (tileWf_ite ht (sramPut_wf _ _ _ _ (tileWf_frame ht rfl))) rfl

theorem commitOp_wf {i : Issue} {s : State} (h : memoryWf s = true) : memoryWf (commitOp i s) = true := by
  unfold commitOp
  split
  · exact issueOp_wf (pendTok_wf (takeRanges_wf h))
  · exact h

theorem commitUnits_wf {i : Issue} {t : Tile} (h : tileWf t = true) : tileWf (commitUnits i t) = true := by
  unfold commitUnits
  extract_lets th th' t1 t2 t3
  have h1 : tileWf t1 = true := tileWf_frame h rfl
  have h2 : tileWf t2 = true := by
    unfold t2
    split
    · exact cwPut_wf h1
    · exact h1
  have h3 : tileWf t3 = true := by
    unfold t3
    split
    · exact cwPut_wf h2
    · exact h2
  split
  · exact updRt_wf h3
  · exact h3

theorem commitTask_wf {i : Issue} {t : Tile} {now : ℕ} (h : tileWf t = true) : tileWf (commitTask i t now) = true := by
  unfold commitTask
  extract_lets t1
  have ht1 : tileWf t1 = true := by
    unfold t1
    split
    · exact addReady_wf h
    · exact updDisp_wf (pushDeque_wf h)
    · exact h
  split
  · exact updDisp_wf (sramWrite_wf _ _ _ ht1)
  · exact ht1

theorem commitSig_wf {i : Issue} {taken : Bool} {t : Tile} (h : tileWf t = true) : tileWf (commitSig i taken t) = true := by
  unfold commitSig
  split
  · exact cwPut_wf (cwPut_wf h)
  · exact cwPut_wf h

theorem commitFlow_wf {i : Issue} {t : Tile} (h : tileWf t = true) : tileWf (commitFlow i t) = true :=
  tileWf_frame (tileWf_ite (commitSig_wf (cwPut_wf (cwPut_wf h))) (cwPut_wf (cwPut_wf h))) rfl

theorem maskTasks_wf {t : Tile} (h : tileWf t = true) : tileWf (maskTasks t) = true := tileWf_ite h (cwPut_wf (updDisp_wf h))

theorem passStop_wf {t : Tile} (h : tileWf t = true) : tileWf (passStop t) = true := by
  unfold passStop
  extract_lets left
  clear_value left
  split
  · exact updDbg_wf h
  · exact updDbg_wf h

theorem doRfe_wf {i : Issue} {t : Tile} {now : ℕ} (h : tileWf t = true) : tileWf (doRfe i t now) = true :=
  passStop_wf (returnWith_wf (tileWf_frame (settleFlights_wf h) rfl))

theorem commitSys_wf {i : Issue} {s : State} (h : memoryWf s = true) : memoryWf (commitSys i s) = true := by
  unfold commitSys
  extract_lets t gone
  have ht : tileWf t = true := memoryWf_tile h
  have hs : tileWf (settleFlights 24 t (hereCyc s)) = true := settleFlights_wf ht
  have hg : tileWf gone = true := tileWf_frame hs rfl
  clear_value gone
  split
  · exact memoryWf_put h (doRfe_wf ht) rfl
  · exact memoryWf_put h (tileWf_frame ht rfl) rfl
  · exact memoryWf_put h (tileWf_frame ht rfl) rfl
  · exact memoryWf_put h (maskTasks_wf ht) rfl
  · exact memoryWf_put h (clearMask_wf ht) rfl
  · exact memoryWf_put h (tileWf_frame ht rfl) rfl
  · exact memoryWf_put h (tileWf_frame ht rfl) rfl
  · exact memoryWf_put h (updDisp_wf ht) rfl
  · exact memoryWf_ite (memoryWf_put h (doYield_wf hg) rfl) h
  · exact memoryWf_ite (memoryWf_put h (doSuspend_wf hg) rfl) h
  · exact doExit_wf (memoryWf_put h hg rfl)
  · exact h

theorem commitTrap_wf {i : Issue} {s : State} (h : memoryWf s = true) : memoryWf (commitTrap i s) = true := by
  unfold commitTrap
  split
  · exact h
  · split
    · exact memoryWf_put h (updDbg_wf (memoryWf_tile h)) rfl
    · split
      · exact memoryWf_put h (tileWf_frame (memoryWf_tile h) rfl) rfl
      · exact takeTrap_wf (memoryWf_put h (beginCycle_wf (memoryWf_tile h)) rfl)

theorem commitCounts_wf {i : Issue} {t : Tile} {now : ℕ} (h : tileWf t = true) : tileWf (commitCounts i t now) = true := by
  unfold commitCounts
  extract_lets t1
  have ht1 : tileWf t1 = true := spendBudget_wf (tileWf_frame h rfl)
  exact tileWf_ite (cwPut_wf (spendCycle_wf (updDbg_wf ht1))) (spendCycle_wf (updDbg_wf ht1))

theorem commitBundle_wf {s : State} {beats : ℕ} (h : memoryWf s = true) : memoryWf (commitBundle s beats) = true := by
  unfold commitBundle
  extract_lets i s1 s2 s3 s4 s5 s6
  have h3 : memoryWf s3 = true := commitOp_wf (commitStores_wf (commitEvent_wf (checkRead_wf (checkRead_wf h))))
  clear_value s3
  have h4 : memoryWf s4 = true := memoryWf_put h3 (commitFlow_wf (commitTask_wf (commitUnits_wf (memoryWf_tile h3)))) rfl
  clear_value s4
  have h5 : memoryWf s5 = true := memoryWf_put h4 (commitCounts_wf (memoryWf_tile h4)) rfl
  clear_value s5
  have h6 : memoryWf s6 = true := commitTrap_wf (commitSys_wf h5)
  exact memoryWf_put h6 (traceNote_wf (memoryWf_tile h6)) rfl

theorem heldUp_wf {s1 s2 : State} (hs1 : memoryWf s1 = true) : ∀ r ∈ heldUp s1 s2, memoryWf r = true := by
  unfold heldUp
  extract_lets t
  split
  · exact forall_some (insertCycle_wf hs1)
  · exact forall_opt_ite (forall_some (stallAt_wf hs1)) (forall_opt_ite (forall_some (stallAt_wf hs1)) forall_none)

theorem eventHold_roll {s u : State} (h : memoryWf s = true) (e : eventHold s = .roll u) : memoryWf u = true := by
  unfold eventHold at e
  extract_lets t i at e
  clear_value i
  split at e
  · cases e
  split at e
  · split at e
    · cases e
      exact stragglerDue_wf h
    · split at e
      · cases e
      · cases e
  · split at e
    · cases e
    · cases e
  · split at e
    · cases e
    · cases e

theorem eventWait_wf {s1 s2 : State} (h1 : memoryWf s1 = true) (h2 : memoryWf s2 = true) : ∀ r ∈ eventWait s1 s2, memoryWf r = true := by
  unfold eventWait
  refine forall_opt_ite forall_none ?_
  split
  next e =>
    have h3 := eventHold_roll h2 e
    exact forall_some (doRollback_wf (memoryWf_put h3 (tileWf_frame (memoryWf_tile h3) rfl) rfl))
  · refine forall_opt_ite (forall_some (insertCycle_wf h1)) ?_
    split
    next e => exact forall_some (heldUp_wf h1 _ e)
    · exact forall_some (stallAt_wf h1)
    · exact forall_none

theorem completed_wf {s : State} (h : memoryWf s = true) : memoryWf (completed s) = true := by
  unfold completed
  refine updIss_wf ?_
  split
  · exact missSig_wf h
  · exact h

theorem settle_wf {s1 : State} {l : List Slot} {beats : ℕ} {s2 : State} (hs1 : memoryWf s1 = true) (hs2 : memoryWf s2 = true) :
    memoryWf (settle s1 l beats s2) = true := by
  refine memoryWf_ite (trapBundle_wf hs1) ?_
  split
  next e => exact heldUp_wf hs1 _ e
  · split
    · exact stallAt_wf hs1
    · split
      · exact commitBundle_wf hs2
      · split
        · exact memoryWf_put (commitBundle_wf hs2) (shortAt_wf (memoryWf_tile (commitBundle_wf hs2))) rfl
        · exact memoryWf_ite (trapBundle_wf hs1) (doRollback_wf (memoryWf_put hs1 (shortAt_wf (memoryWf_tile hs1)) rfl))

theorem tryBundle_wf {s1 : State} {held : Bool} {hits : List ℕ} {ws : List (BitVec 32)} {l : List Slot} (h : memoryWf s1 = true) :
    OutWf (tryBundle s1 held hits ws l) := by
  unfold tryBundle
  extract_lets s11
  have hs11 : memoryWf s11 = true := memoryWf_put h (mailboxSeen_wf (memoryWf_tile h)) rfl
  refine outWf_ite (outWf_next (stallAt_wf hs11)) (outWf_ite (outWf_next (stallAt_wf hs11)) ?_)
  split
  · exact outWf_fault
  · exact outWf_refused
  next e =>
    extract_lets early
    split
    next e1 => exact outWf_next (forall_opt_ite forall_none (eventWait_wf hs11 (runSlots_wf (openBundle_wf hs11) _ e)) _ e1)
    · exact outWf_next (trapBundle_wf (memoryWf_frame hs11 rfl))
    · split
      next e3 => exact outWf_next (switchDue_wf hs11 _ e3)
      · exact outWf_next (settle_wf hs11 (memoryWf_ite (runSlots_wf (openBundle_wf hs11) _ e) (completed_wf (runSlots_wf (openBundle_wf hs11) _
          e))))

theorem fetchBundle_wf {s1 : State} {held : Bool} {hits : List ℕ} (h : memoryWf s1 = true) : OutWf (fetchBundle s1 held hits) := by
  unfold fetchBundle
  extract_lets pc
  refine outWf_ite (outWf_next (checkRead_wf h)) ?_
  split
  next scan _ _ _ _ _ =>
    clear_value scan
    split
    · exact outWf_next (trapBundle_wf (checkRead_wf h))
    · exact outWf_next (trapBundle_wf (checkRead_wf h))
    · split
      · exact outWf_next (trapBundle_wf (checkRead_wf h))
      · exact tryBundle_wf (checkRead_wf h)
  next scan _ _ _ _ =>
    clear_value scan
    split
    · exact outWf_next (trapBundle_wf (checkRead_wf h))
    · exact outWf_next (trapBundle_wf (checkRead_wf h))
    · split
      · exact outWf_next (trapBundle_wf (checkRead_wf h))
      · exact tryBundle_wf (checkRead_wf h)

theorem outState_wf {s : State} {o : Out} (h : memoryWf s = true) (ho : OutWf o) : memoryWf (outState s o) = true := by
  cases o with
  | next t => exact ho t rfl
  | fault | refused => exact h

theorem withInjection_wf {s1 : State} {held : Bool} {hits : List ℕ} (h : memoryWf s1 = true) : OutWf (withInjection s1 held hits) := by
  unfold withInjection
  split
  next e => exact outWf_ite (fetchBundle_wf (outState_wf h (execFaultInjectDeferred_wf h))) (outWf_next (fetchBundle_wf h _ e))
  · exact fetchBundle_wf h

theorem squashCycle_wf {t : Tile} {now : ℕ} (h : tileWf t = true) : tileWf (squashCycle t now) = true :=
  tileWf_ite (spendCycle_wf (spendBudget_wf (tileWf_frame h rfl))) (spendBudget_wf (tileWf_frame h rfl))

theorem atTurn_wf {s s1 : State} {waits held : Bool} {hits : List ℕ} (hs1 : memoryWf s1 = true) : OutWf (atTurn s s1 waits held hits) := by
  refine outWf_ite (outWf_next (doRollback_wf hs1)) ?_
  split
  · exact outWf_next (takeTrap_wf (memoryWf_put hs1 (tileWf_frame (memoryWf_tile hs1) rfl) rfl))
  · refine outWf_ite (outWf_next (takeAsync_wf hs1)) ?_
    refine outWf_ite (outWf_next (memoryWf_ite (memoryWf_getD (switchDue_wf hs1) hs1) hs1)) ?_
    extract_lets go
    have hgo : memoryWf (go s1) = true := memoryWf_put hs1 (tileWf_frame (memoryWf_tile hs1) rfl) rfl
    exact outWf_ite (withInjection_wf hgo) (outWf_next (stallAt_wf hgo))

theorem attempt_wf {s : State} (h : memoryWf s = true) : OutWf (attempt s) := by
  unfold attempt
  extract_lets s1 s2 held want late s3 s4 s5 waits hits
  have h2 : memoryWf s2 = true := memoryWf_frame (haloDrip_wf h) rfl
  clear_value s2
  have h3 : memoryWf s3 = true := memoryWf_ite (memoryWf_put h2 (inject_wf (memoryWf_tile h2)) rfl) h2
  have h4 : memoryWf s4 = true := drainRead_wf h2
  clear_value s3 s4
  have ht : tileWf (beginCycle s4.tile (hereCyc s4)) = true := beginCycle_wf (memoryWf_tile h4)
  have h5 : memoryWf s5 = true := memoryWf_put h4 (tileWf_ite (inject_wf ht) ht) rfl
  clear_value s5
  split
  · exact outWf_next (haltHere_wf h2)
  · refine outWf_ite ?_ (outWf_ite (outWf_next (debugHalt_wf h3)) (outWf_ite (outWf_next (haltHere_wf h3)) (atTurn_wf h5)))
    exact outWf_next (memoryWf_ite (memoryWf_put h5 (squashCycle_wf (memoryWf_tile h5)) rfl) (memoryWf_put h3 (tileWf_frame (memoryWf_tile h3) rfl) rfl))

theorem clockEvents_wf {s : State} (h : memoryWf s = true) : memoryWf (clockEvents s) = true :=
  memoryWf_foldl _ h fun _ _ hs =>
    have h1 := outState_wf hs (execGangStop_wf hs)
    have h2 := outState_wf h1 (execGangResume_wf h1)
    outState_wf h2 (execSyncRelease_wf h2)

theorem issueTurn_wf {s : State} (h : memoryWf s = true) : OutWf (issueTurn s) := by
  unfold issueTurn
  refine outWf_ite (outWf_next h) (outWf_ite ?_ (outWf_next (memoryWf_put h (traceNote_wf (dispatchAt_wf (memoryWf_tile h))) rfl)))
  split
  next e =>
    have h1 := attempt_wf h _ e
    exact outWf_next (memoryWf_put h1 (traceNote_wf (memoryWf_tile h1)) rfl)
  · exact attempt_wf h

end Sys2Proof.Machine

/-! PROOFS. Turns and the end of a cycle keep every memory in canonical form. -/

namespace Sys2Proof.Machine

open Sys2Proof

theorem turnOf_wf {site : ℕ} {s : State} (h : memoryWf s = true) : OutWf (turnOf site s) := by
  unfold turnOf
  split
  · exact outWf_next h
  · exact issueTurn_wf (focus_wf h)

theorem fullTurn_wf {site : ℕ} {s : State} (h : memoryWf s = true) : OutWf (fullTurn site s) := by
  unfold fullTurn
  split
  · exact outWf_next h
  · exact issueTurn_wf (drainOps_wf (focus_wf h))

theorem tickTile_wf {s : State} {t : Tile} (ht : tileWf t = true) : tileWf (tickTile s t) = true := tileWf_ite (inject_wf ht) ht

theorem opsEnd_wf {s : State} (h : memoryWf s = true) : memoryWf (opsEnd s) = true := eachTile_wf h fun _ hs => drainOps_wf hs

theorem tick_wf {s : State} (h : memoryWf s = true) : memoryWf (tick s) = true := by
  unfold tick
  extract_lets t r s1 s2
  have h0 : memoryWf { s with tile := t, rest := r } = true :=
    memoryWf_tiles h (tickTile_wf (memoryWf_tile h)) (forall_map (memoryWf_rest h) fun _ ht => tickTile_wf ht) rfl
  have h1 : memoryWf s1 = true := scrubAll_wf (fabricEnd_wf (opsEnd_wf h0))
  clear_value s1
  have h2 : memoryWf s2 = true := fabricStart_wf (ctsAll_wf (clockEvents_wf (memoryWf_frame h1 rfl)))
  clear_value s2
  exact memoryWf_frame h2 rfl

theorem nextTurn_wf {s : State} (h : memoryWf s = true) : OutWf (nextTurn s) := by
  unfold nextTurn
  split
  · exact fullTurn_wf (memoryWf_frame h rfl)
  · exact outWf_next (tick_wf h)

theorem comeIn_wf {s : State} {src dst plane : ℕ} {p : Packet} (h : memoryWf s = true) : memoryWf (comeIn s src dst plane p) = true :=
  memoryWf_ite (memoryWf_frame h rfl) h

theorem takeTurn_wf {a : Turn} {r : List Turn} {s : State} (h : memoryWf s = true) : OutWf (takeTurn a r s) := by
  unfold takeTurn
  split
  · exact outWf_ite (exec_wf (memoryWf_frame h rfl)) (outWf_next (memoryWf_frame h rfl))
  · exact outWf_ite (turnOf_wf (memoryWf_frame h rfl)) (outWf_next (memoryWf_frame h rfl))
  · split
    · exact outWf_next (memoryWf_frame h rfl)
    · exact outWf_next (engineStep_wf (focus_wf (memoryWf_frame h rfl)))
  · exact outWf_ite (outWf_next (tick_wf (memoryWf_frame h rfl))) (nextTurn_wf h)
  · exact outWf_next (comeIn_wf (memoryWf_frame h rfl))
  · exact outWf_next (memoryWf_frame h rfl)
  · exact outWf_next (memoryWf_frame h rfl)

theorem step_wf {s : State} (h : memoryWf s = true) : OutWf (step s) := by
  refine outWf_ite outWf_fault ?_
  split
  · exact takeTurn_wf h
  · exact nextTurn_wf h

end Sys2Proof.Machine

/-! PROOFS. Every memory of the module is in canonical form after the start, and every step keeps it so. -/

namespace Sys2Proof

open Sys2Proof.Machine

/-- Settles O5: after the start every memory is empty. -/
theorem resetMemoryCanonical : Obligations.ResetMemoryCanonical := by
  unfold Obligations.ResetMemoryCanonical
  rfl

/-- Settles O6: a step is a turn to issue, a turn of an engine, an event or the end of a cycle, and each keeps every memory in canonical form. -/
theorem stepKeepsMemoryCanonical : Obligations.StepKeepsMemoryCanonical := by
  unfold Obligations.StepKeepsMemoryCanonical
  intro s t h e
  exact step_wf h t e

end Sys2Proof

/-! PROOFS. The encoder and the decoder are each other's inverse (R24, R31 to R33). -/

namespace Sys2Proof

open Sys2Proof.Laws.GuardBits (ctlBits_bit ctlOf_ctlBits)

/-! ## Fields of a word -/

theorem fld_getLsbD (w : BitVec 32) (lo n i : Nat) : (fld w lo n).getLsbD i = (decide (i < n) && w.getLsbD (lo + i)) := by
  simp only [fld, BitVec.getLsbD_extractLsb']

theorem fld_toNat (w : BitVec 32) (lo n : Nat) : (fld w lo n).toNat = w.toNat / 2 ^ lo % 2 ^ n := by
  rw [fld, BitVec.extractLsb'_toNat, Nat.shiftRight_eq_div_pow]

/-- A field below bit 21 is one of the body. -/
theorem fld_body (c : Ctl) (op : BitVec 6) (body : BitVec 21) {lo n : Nat} (h : lo + n ≤ 21) :
    fld (ctlBits c op body) lo n = body.extractLsb' lo n := by
  refine BitVec.eq_of_getLsbD_eq fun i hi => ?_
  rw [fld_getLsbD, ctlBits_bit, BitVec.getLsbD_extractLsb', if_pos (by omega)]

theorem fld_major (c : Ctl) (op : BitVec 6) (body : BitVec 21) : fld (ctlBits c op body) 25 6 = op := by
  refine BitVec.eq_of_getLsbD_eq fun i hi => ?_
  simp only [fld_getLsbD, ctlBits_bit, hi]
  simp [show ¬ 25 + i < 21 by omega, show ¬ 25 + i - 21 < 3 by omega, show 25 + i - 21 - 3 - 1 = i by omega,
    show 25 + i - 21 - 3 ≠ 0 by omega, hi]

/-- A word is its guard and stop bits, its major opcode and its body. -/
theorem ctlBits_eq {w : BitVec 32} {op : BitVec 6} {body : BitVec 21} (ho : fld w 25 6 = op) (hb : body = fld w 0 21) :
    ctlBits (ctlOf w) op body = w := by
  subst ho hb
  refine BitVec.eq_of_getLsbD_eq fun i hi => ?_
  rw [ctlBits_bit]
  simp only [ctlOf, fld_getLsbD]
  split_ifs with h1 h2 h3 h4
  · simp [h1]
  · simp [h2, show 21 + (i - 21) = i by omega]
  · obtain rfl : i = 24 := by omega
    simp
  · simp [h4, show 25 + (i - 21 - 3 - 1) = i by omega]
  · obtain rfl : i = 31 := by omega
    simp

/-! `simp` finds these three rules at any sum of widths: the widths of a body are numerals. -/

theorem extract_append_low {m n : Nat} (x : BitVec m) (y : BitVec n) {lo k : Nat} (h : lo + k ≤ n) :
    (no_index (x ++ y)).extractLsb' lo k = y.extractLsb' lo k := BitVec.extractLsb'_append_eq_of_add_le h

theorem extract_append_high {m n : Nat} (x : BitVec m) (y : BitVec n) {lo k : Nat} (h : n ≤ lo) :
    (no_index (x ++ y)).extractLsb' lo k = x.extractLsb' (lo - n) k := BitVec.extractLsb'_append_eq_of_le h

theorem append_eq_fld {m n : Nat} (w : BitVec 32) (lo : Nat) (x : BitVec m) (y : BitVec n) :
    @Eq (no_index (BitVec (m + n))) (no_index (x ++ y)) (fld w lo (no_index (m + n))) ↔ x = fld w (lo + n) m ∧ y = fld w lo n := by
  constructor
  · intro h
    have hbit (j : Nat) : (x ++ y).getLsbD j = (fld w lo (m + n)).getLsbD j := congrArg (·.getLsbD j) h
    simp only [BitVec.getLsbD_append, fld_getLsbD] at hbit
    constructor <;> refine BitVec.eq_of_getLsbD_eq fun j hj => ?_
    · have := hbit (n + j)
      simpa [fld_getLsbD, hj, show n + j < m + n by omega, Nat.add_assoc, -BitVec.getLsbD_eq_getElem] using this
    · have := hbit j
      simpa [fld_getLsbD, hj, show j < m + n by omega, -BitVec.getLsbD_eq_getElem] using this
  · rintro ⟨rfl, rfl⟩
    refine BitVec.eq_of_getLsbD_eq fun j hj => ?_
    simp only [BitVec.getLsbD_append, fld_getLsbD]
    split_ifs with h
    · simp [h, hj]
    · simp [show j - n < m by omega, hj, show lo + n + (j - n) = lo + j by omega]

/-! ## The decoder by major opcodes -/

/-- The decoder of each major opcode (R33), `none` for a reserved one. -/
noncomputable def majorDecoder : Nat → Option (BitVec 32 → Option Instr)
  | 0x00 => some decodeMajor00
  | 0x01 => some decodeMajor01
  | 0x02 => some decodeMajor02
  | 0x03 => some decodeMajor03
  | 0x04 => some decodeMajor04
  | 0x05 => some decodeMajor05
  | 0x06 => some decodeMajor06
  | 0x07 => some decodeMajor07
  | 0x08 => some decodeMajor08
  | 0x09 => some decodeMajor09
  | 0x0A => some decodeMajor0A
  | 0x0B => some decodeMajor0B
  | 0x0C => some decodeMajor0C
  | 0x0D => some decodeMajor0D
  | 0x0E => some decodeMajor0E
  | 0x0F => some decodeMajor0F
  | 0x10 => some decodeMajor10
  | 0x11 => some decodeMajor11
  | 0x12 => some decodeMajor12
  | 0x13 => some decodeMajor13
  | 0x14 => some decodeMajor14
  | 0x15 => some decodeMajor15
  | 0x16 => some decodeMajor16
  | 0x17 => some decodeMajor17
  | 0x18 => some decodeMajor18
  | 0x19 => some decodeMajor19
  | 0x1A => some decodeMajor1A
  | 0x1B => some decodeMajor1B
  | 0x1C => some decodeMajor1C
  | 0x1D => some decodeMajor1D
  | 0x20 => some decodeMajor20
  | 0x21 => some decodeMajor21
  | 0x22 => some decodeMajor22
  | 0x23 => some decodeMajor23
  | 0x24 => some decodeMajor24
  | 0x25 => some decodeMajor25
  | 0x26 => some decodeMajor26
  | 0x28 => some decodeMajor28
  | 0x29 => some decodeMajor29
  | 0x2A => some decodeMajor2A
  | 0x2B => some decodeMajor2B
  | 0x2C => some decodeMajor2C
  | 0x2D => some decodeMajor2D
  | 0x2E => some decodeMajor2E
  | 0x2F => some decodeMajor2F
  | 0x30 => some decodeMajor30
  | 0x31 => some decodeMajor31
  | 0x32 => some decodeMajor32
  | 0x34 => some decodeMajor34
  | 0x35 => some decodeMajor35
  | 0x36 => some decodeMajor36
  | 0x38 => some decodeMajor38
  | 0x39 => some decodeMajor39
  | 0x3A => some decodeMajor3A
  | 0x3B => some decodeMajor3B
  | 0x3C => some decodeMajor3C
  | 0x3D => some decodeMajor3D
  | 0x3E => some decodeMajor3E
  | 0x3F => some decodeMajor3F
  | _ => none

/-- The decoder's answer from what the decoder of the word's major opcode gives. -/
def verdict : Option (Option Instr) → Except Reject Instr
  | none => .error .reservedMajor
  | some none => .error .unassigned
  | some (some i) => if i.wf then .ok i else .error .illFormed

theorem verdict_eq_ok {r : Option (Option Instr)} {i : Instr} : verdict r = .ok i ↔ r = some (some i) ∧ i.wf = true := by
  match r with
  | none => simp [verdict]
  | some none => simp [verdict]
  | some (some j) =>
    simp only [verdict, Option.some.injEq]
    split_ifs with h
    · simp only [Except.ok.injEq, iff_self_and]
      rintro rfl
      exact h
    · simp only [false_iff, not_and]
      rintro rfl
      exact h

/-- A word whose guard no slot can have is a no-operation (R26). -/
theorem decodeWord_nop {w : BitVec 32} (hg : ctlOk (ctlOf w) = false) : decodeWord w = .ok (.nop (ctlOf w) (fld w 25 6) (fld w 0 21)) :=
  if_pos (by simpa [ctlOk, ctlOf] using hg)

/-- Any other word is left to the decoder of its major opcode. -/
theorem decodeWord_major {w : BitVec 32} (hg : ctlOk (ctlOf w) = true) :
    decodeWord w = verdict ((majorDecoder (fld w 25 6).toNat).map (· w)) := by
  unfold decodeWord
  rw [if_neg (by simpa [ctlOk, ctlOf, imp_iff_not_or] using hg)]
  generalize (fld w 25 6).toNat = n
  split
  case h_60 => simp [majorDecoder, verdict, *]
  all_goals rfl

/-! ## From an instruction to its word and back -/

/-- The fields of an encoding select the instruction's own row in the table of its major opcode, and hold its operands. -/
theorem majorDecoder_encode {i : Instr} {w : BitVec 32} (h : encode i = some w) (hg : ctlOk (ctlOf w) = true) (hw : i.wf = true) :
    (majorDecoder (fld w 25 6).toNat).map (· w) = some (some i) := by
  cases i
  case nop c o z =>
    obtain rfl := Option.some.inj h
    simp_all [ctlOf_ctlBits, ctlOk, Instr.wf]
  all_goals simp only [encode, Option.some.injEq, reduceCtorEq] at h
  all_goals
    subst h
    rw [fld_major]
    refine congrArg some ?_
    simp only [decodeMajor00, decodeMajor01, decodeMajor02, decodeMajor03, decodeMajor04, decodeMajor05, decodeMajor06, decodeMajor07,
      decodeMajor08, decodeMajor09, decodeMajor0A, decodeMajor0B, decodeMajor0C, decodeMajor0D, decodeMajor0E, decodeMajor0F, decodeMajor10,
      decodeMajor11, decodeMajor12, decodeMajor13, decodeMajor14, decodeMajor15, decodeMajor16, decodeMajor17, decodeMajor18, decodeMajor19,
      decodeMajor1A, decodeMajor1B, decodeMajor1C, decodeMajor1D, decodeMajor20, decodeMajor21, decodeMajor22, decodeMajor23, decodeMajor24,
      decodeMajor25, decodeMajor26, decodeMajor28, decodeMajor29, decodeMajor2A, decodeMajor2B, decodeMajor2C, decodeMajor2D, decodeMajor2E,
      decodeMajor2F, decodeMajor30, decodeMajor31, decodeMajor32, decodeMajor34, decodeMajor35, decodeMajor36, decodeMajor38, decodeMajor39,
      decodeMajor3A, decodeMajor3B, decodeMajor3C, decodeMajor3D, decodeMajor3E, decodeMajor3F, ctlOf_ctlBits, fld_body, extract_append_low,
      extract_append_high, BitVec.extractLsb'_eq_self, BitVec.reduceExtractLsb', Nat.reduceAdd, Nat.reduceLeDiff, Nat.reduceSub, BitVec.reduceEq,
      ↓reduceIte, and_true, true_and, and_false, false_and, and_self]

theorem ctlOk_encode {i : Instr} {w : BitVec 32} (h : encode i = some w) (hw : i.wf = true) (hn : ∀ c o z, i ≠ .nop c o z) :
    ctlOk (ctlOf w) = true := by
  cases i
  case nop c o z => exact absurd rfl (hn c o z)
  all_goals simp only [encode, Option.some.injEq, reduceCtorEq] at h
  all_goals
    subst h
    simp only [Instr.wf, Bool.and_eq_true] at hw
    simp only [ctlOf_ctlBits, hw]

/-! ## From a word to its instruction and back -/

/-- The word is the encoding of whatever a table answers. -/
def Encodes (w : BitVec 32) (o : Option Instr) : Prop := ∀ i, o = some i → encode i = some w

theorem encodes_none (w : BitVec 32) : Encodes w none := nofun

theorem encodes_some {w : BitVec 32} {a : Instr} (h : encode a = some w) : Encodes w (some a) := fun _ e => Option.some.inj e ▸ h

/-- A row of a table: its condition holds, or the rows below it answer. -/
theorem encodes_ite {w : BitVec 32} {a : Instr} {c : Prop} [Decidable c] {o : Option Instr} (ho : Encodes w o) (ha : c → encode a = some w) :
    Encodes w (if c then some a else o) := by
  split_ifs with hc
  · exact encodes_some (ha hc)
  · exact ho

/-- In each row of each table the fields that the row reads and those that it checks cover the body of the word. -/
theorem encodes_majorDecoder {n : Nat} {f : BitVec 32 → Option Instr} {w : BitVec 32} (hf : majorDecoder n = some f)
    (hn : fld w 25 6 = BitVec.ofNat 6 n) : Encodes w (f w) := by
  unfold majorDecoder at hf
  split at hf
  case h_60 => exact nomatch hf
  all_goals obtain rfl := Option.some.inj hf
  all_goals repeat refine encodes_ite ?_ fun h => congrArg some (ctlBits_eq hn ?_)
  all_goals try exact encodes_none w
  all_goals try refine encodes_some (congrArg some (ctlBits_eq hn ?_))
  all_goals try simp only [append_eq_fld, Nat.reduceAdd, and_self, true_and, and_true, *]
  all_goals
    simp only [← BitVec.toNat_inj, fld_toNat, BitVec.toNat_ofNat, Nat.reducePow, Nat.reduceMod, Nat.div_one] at h ⊢
    omega

/-! ## The statements -/

/-- Settles O2: the word of a no-operation is one by its guard, and the word of any other slot selects its own row. -/
theorem decodeOfEncode : Obligations.DecodeOfEncode := by
  unfold Obligations.DecodeOfEncode
  intro i w hw he
  by_cases hn : ∃ c o z, i = .nop c o z
  · obtain ⟨c, o, z, rfl⟩ := hn
    obtain rfl := Option.some.inj he
    rw [decodeWord_nop (by simpa [ctlOf_ctlBits, ctlOk, Instr.wf] using hw), ctlOf_ctlBits, fld_major, fld_body _ _ _ (Nat.le_refl 21),
      BitVec.extractLsb'_eq_self]
  · have hg : ctlOk (ctlOf w) = true := ctlOk_encode he hw fun c o z e => hn ⟨c, o, z, e⟩
    rw [decodeWord_major hg]
    exact verdict_eq_ok.2 ⟨majorDecoder_encode he hg hw, hw⟩

/-- Settles O3: the decoder answers a no-operation, whose word is its three parts, or a well-formed row of the table of the word's major opcode. -/
theorem encodeOfDecode : Obligations.EncodeOfDecode := by
  unfold Obligations.EncodeOfDecode
  intro w i h
  cases hg : ctlOk (ctlOf w) with
  | false =>
    rw [decodeWord_nop hg] at h
    obtain rfl := Except.ok.inj h
    exact ⟨congrArg some (ctlBits_eq rfl rfl), by simpa [ctlOk, Instr.wf] using hg⟩
  | true =>
    rw [decodeWord_major hg] at h
    obtain ⟨hm, hw⟩ := verdict_eq_ok.1 h
    obtain ⟨f, hf, hi⟩ := Option.map_eq_some_iff.1 hm
    exact ⟨encodes_majorDecoder hf (by simp) i hi, hw⟩

/-- Settles O1: each word is decoded by computation. -/
theorem printedWordsDecode : Obligations.PrintedWordsDecode := by
  unfold Obligations.PrintedWordsDecode
  decide

end Sys2Proof

/-! PROOFS. What every instruction with an encoding is: one of the forms that the guard and the mode select (R25, R353), and what it does where its
guard is false. -/

namespace Sys2Proof.Machine

open Sys2Proof

/-! ## The forms of a slot -/

/-- The form of an instruction's meaning, under the guard that the encoding holds. -/
inductive SlotForm (i : Instr) (s : State) : Out → Prop
  | nop (hf : isFloatForm i = false) : SlotForm i s (.next s)
  | plain (f : State → State) (hf : isFloatForm i = false) : SlotForm i s (plain (slotInfo i).ctl s f)
  | user (f : State → State) (hf : isFloatForm i = false) (hu : userOnly i = true) : SlotForm i s (userSlot (slotInfo i).ctl s f)
  | sup (f : State → State) (hf : isFloatForm i = false) : SlotForm i s (supSlot (slotInfo i).ctl s f)
  | matrix (f : State → State) (hf : isFloatForm i = false) (hk : (slotInfo i).cls = .matrix) : SlotForm i s (unitSlot (slotInfo i).ctl s f)
  | vector (fp : Bool) (f : State → State) (hf : isFloatForm i = fp) (hk : (slotInfo i).cls = .vector) : SlotForm i s (vSlot fp (slotInfo i).ctl s f)
  | engine (f : State → State) (hf : isFloatForm i = false) (hk : (slotInfo i).cls = .engine) : SlotForm i s (engSlot (slotInfo i).ctl s f)

theorem SlotInfo.pair_ctl (k : UnitClass) (c : Ctl) (r : Reg) (sp : BitVec 1) (ds : List Dest) : (SlotInfo.pair k c r sp ds).ctl = c := by
  unfold SlotInfo.pair
  split <;> rfl

theorem SlotInfo.pair_cls (k : UnitClass) (c : Ctl) (r : Reg) (sp : BitVec 1) (ds : List Dest) : (SlotInfo.pair k c r sp ds).cls = k := by
  unfold SlotInfo.pair
  split <;> rfl

section
variable {i : Instr} {s : State} {c : Ctl}

/-- A beat or drain. -/
theorem slotForm_pair {r : Reg} {sp : BitVec 1} {ds : List Dest} (f : State → State) (hi : slotInfo i = .pair .matrix c r sp ds)
    (hf : isFloatForm i = false) : SlotForm i s (unitSlot c s f) := by
  have h := SlotForm.matrix (s := s) f hf (by rw [hi, SlotInfo.pair_cls])
  rwa [hi, SlotInfo.pair_ctl] at h

/-! The forms that several instructions share: each is a slot of its class, whatever it does. -/

theorem slotForm_binX {n x d a b} (hc : (slotInfo i).ctl = c) (hf : isFloatForm i = false) : SlotForm i s (binX n x c d a b s) := hc ▸ .plain _ hf

theorem slotForm_unX {x d a} (hc : (slotInfo i).ctl = c) (hf : isFloatForm i = false) : SlotForm i s (unX x c d a s) := hc ▸ .plain _ hf

theorem slotForm_ldh {n d k} (hc : (slotInfo i).ctl = c) (hf : isFloatForm i = false) : SlotForm i s (ldh n c d k s) := hc ▸ .plain _ hf

theorem slotForm_fabSlot (f : State → State) (hc : (slotInfo i).ctl = c) (hf : isFloatForm i = false) (hk : (slotInfo i).cls = .engine) :
    SlotForm i s (fabSlot c s f) := hc ▸ .engine _ hf hk

theorem slotForm_taskSlot (f : State → State) (hc : (slotInfo i).ctl = c) (hf : isFloatForm i = false) (hk : (slotInfo i).cls = .engine) :
    SlotForm i s (taskSlot c s f) := hc ▸ .engine _ hf hk

theorem slotForm_vtSlot (f : State → State) (hc : (slotInfo i).ctl = c) (hf : isFloatForm i = false) (hk : (slotInfo i).cls = .engine) :
    SlotForm i s (vtSlot c s f) := hc ▸ .engine _ hf hk

variable (hc : (slotInfo i).ctl = c) (hk : (slotInfo i).cls = .vector)
include hc hk

theorem slotForm_vSlot (fp : Bool) (f : State → State) (hf : isFloatForm i = fp) : SlotForm i s (vSlot fp c s f) := hc ▸ .vector fp f hf hk

theorem slotForm_vFmt (fp : Bool) (dflt : Nat) (ok : List Nat) (f : Nat → State → State) (hf : isFloatForm i = fp) :
    SlotForm i s (vFmt fp dflt ok c s f) := slotForm_vSlot hc hk fp _ hf

theorem slotForm_vecFloat {n x d a b m} (hf : isFloatForm i = true) : SlotForm i s (vecFloat n x c d a b m s) :=
  slotForm_vFmt hc hk _ _ _ _ hf

theorem slotForm_vecMinMax {x d a b m} (hf : isFloatForm i = true) : SlotForm i s (vecMinMax x c d a b m s) :=
  slotForm_vFmt hc hk _ _ _ _ hf

theorem slotForm_vecSpecial {x d a m} (hf : isFloatForm i = true) : SlotForm i s (vecSpecial x c d a m s) :=
  slotForm_vFmt hc hk _ _ _ _ hf

theorem slotForm_vecInt {x d a b m} (hf : isFloatForm i = false) : SlotForm i s (vecInt x c d a b m s) :=
  slotForm_vFmt hc hk _ _ _ _ hf

theorem slotForm_vecLogic {x ok d a b m} (hf : isFloatForm i = false) : SlotForm i s (vecLogic x ok c d a b m s) :=
  slotForm_vFmt hc hk _ _ _ _ hf

theorem slotForm_vecCmp {x y n ok d a b m} (hf : isFloatForm i = false) : SlotForm i s (vecCmp x y n ok c d a b m s) :=
  slotForm_vFmt hc hk _ _ _ _ hf

theorem slotForm_vecSign {x y d a m} (hf : isFloatForm i = false) : SlotForm i s (vecSign x y c d a m s) :=
  slotForm_vFmt hc hk _ _ _ _ hf

theorem slotForm_vecReduceF {x y d a m} (hf : isFloatForm i = false) : SlotForm i s (vecReduceF x y c d a m s) :=
  slotForm_vFmt hc hk _ _ _ _ hf

theorem slotForm_vecReduceI {x y d a m} (hf : isFloatForm i = false) : SlotForm i s (vecReduceI x y c d a m s) :=
  slotForm_vFmt hc hk _ _ _ _ hf

theorem slotForm_maskOp {x d a b} (hf : isFloatForm i = false) : SlotForm i s (maskOp x c d a b s) := slotForm_vSlot hc hk _ _ hf

theorem slotForm_maskX {x d a} (hf : isFloatForm i = false) : SlotForm i s (maskX x c d a s) := slotForm_vSlot hc hk _ _ hf

end

/-- Every instruction with an encoding has one of the forms. -/
theorem slotForm {i : Instr} {w : BitVec 32} (s : State) (h : encode i = some w) : SlotForm i s (exec i s) := by
  unfold exec
  cases i with
  | nop => exact .nop rfl
  | trap | brk | loop | yield | suspend | exit | pfxM | pfxV => exact .user _ rfl rfl
  | rfe | savelt | rstlt => exact .sup _ rfl
  | mpush | macc | mshift | mlatch | mlside | mdrain => exact slotForm_pair _ rfl rfl
  | mzero | msclrA | msclrB | mrds => exact .matrix _ rfl rfl
  | vadd | vsub | vmul | vfma | vfnma | vfms => exact slotForm_vecFloat rfl rfl rfl
  | vmin | vmax => exact slotForm_vecMinMax rfl rfl rfl
  | vrcp | vrsq | vexp2 | vlog2 | vsinp | vtanh => exact slotForm_vecSpecial rfl rfl rfl
  | viadd | visub | vimul | vimulh | viadds | visubs | vimin | vimax => exact slotForm_vecInt rfl rfl rfl
  | vand | vor | vxor | vandn | vsll | vsrl | vsra | vbsl => exact slotForm_vecLogic rfl rfl rfl
  | vceq | vcne | vclt | vcle | vcun | vctst => exact slotForm_vecCmp rfl rfl rfl
  | vabs | vneg => exact slotForm_vecSign rfl rfl rfl
  | vfrsum | vfrmax | vfrmin => exact slotForm_vecReduceF rfl rfl rfl
  | virsum | virmax | virmin => exact slotForm_vecReduceI rfl rfl rfl
  | mand | mor | mxor | mandn => exact slotForm_maskOp rfl rfl rfl
  | mtox | mpopc | mffs => exact slotForm_maskX rfl rfl rfl
  | vdiv | vsqrt | vrint | vmov | vsel | vcpys | vfscan | viscan | vbcst | vbcsti | vextr | vins | viota | vperm | vcomp | vexpd | vcpos | vsldn
    | vslup => exact slotForm_vFmt rfl rfl _ _ _ _ rfl
  | vcvt | mfromx => exact slotForm_vSlot rfl rfl _ _ rfl
  | sendt | msend | halo => exact slotForm_fabSlot _ rfl rfl rfl
  | spawn | spawnr | pop | steal | stealX => exact slotForm_taskSlot _ rfl rfl rfl
  | erecv | erecvNs | deferH | deferT | vtadv | savem | gvtw => exact slotForm_vtSlot _ rfl rfl rfl
  | send | sendR | recv | testt | probe | cancel | waitany | envr | qget | qput | qgett | qputt | qatom | qgath | qscat | qfill | qcopy | fenceQ
    | dqst | widf | wids | waitmb | fencex | mgset | fstat | bench | bstat | bwait | bdrop => exact .engine _ rfl rfl
  | add | sub | and | or | xor | andn | orn | xnor | sll | srl | sra | ror | rol | slt | sltu | min | max | minu | maxu | addw | subw | sllw
    | srlw | sraw | mul | mulh | mulhu | mulhsu | mulw | div | divu | rem | remu | divw | divuw | remw | remuw | bext | bset | bclr | binv | bfxu
    | bfxs | addsc | ladd => exact slotForm_binX rfl rfl
  | clz | ctz | popc | brev | bswap | sextb | sexth | zextb | zexth | zextw | clzw | slli | srli | srai | rori | slliw
    | srliw | sraiw => exact slotForm_unX rfl rfl
  | addi =>
    unfold execAddi
    exact slotForm_unX rfl rfl
  | andi =>
    unfold execAndi
    exact slotForm_unX rfl rfl
  | ori =>
    unfold execOri
    exact slotForm_unX rfl rfl
  | xori =>
    unfold execXori
    exact slotForm_unX rfl rfl
  | ldh1 | ldh2 | ldh3 => exact slotForm_ldh rfl rfl
  | ldi | sel | chku | rdw | wrw | br | call | jr | jalr | cmp | cmpi | pand | por | pxor | pandn | prdg | pwrg | idle | ifence | maskp | unmaskp
    | sync | lpop | sig | ld | st | ldx | stx | vld | vst | vldl | vldu | vgth32 | vsct32 | vgth16 | vsct16 | vgth8 | vsct8 | vldm | vstm | ltld
    | ltst | ltw | ltrl | ltrh | ltbase | istw | istv => exact .plain _ rfl
  | _ => exact nomatch h

/-! ## A guard that is false -/

section
variable {c : Ctl} {s : State} (f : State → State)

theorem userSlot_off (h : s.tile.sup = false) (g : guardOf s.tile c = false) : userSlot c s f = .next s := by simp [userSlot, h, g]

theorem supSlot_off (g : guardOf s.tile c = false) : supSlot c s f = .next s := by simp [supSlot, g]

theorem engSlot_off (h : s.tile.sup = false) (g : guardOf s.tile c = false) : engSlot c s f = .next s := by
  rw [engSlot_user f h, unitSlot_off f h g]

end

theorem floatHeld_other {i : Instr} (s : State) (h : isFloatForm i = false) : floatHeld i s = s := by
  unfold floatHeld
  split <;> simp [h]

/-- What a V slot leaves of the float datapath is what a form of VEC0 or VEC1 holds (R140). -/
theorem floatHeld_eq (i : Instr) (s : State) :
    floatHeld i s = if isFloatForm i && decide (workFmt s 0 = 11) then updIss s (fun j => { j with hold64 := true }) else s := by
  unfold floatHeld workFmt vPfx heldFor
  cases isFloatForm i <;> cases s.tile.th.pfx with
  | none => simp
  | some p => cases hv : p.vec <;> simp [hv]

theorem vSlot_off {c : Ctl} {i : Instr} {s : State} (f : State → State) (h : s.tile.sup = false) (g : guardOf s.tile c = false) :
    vSlot (isFloatForm i) c s f = .next (floatHeld i s) := by
  unfold vSlot
  rw [← floatHeld_eq]
  have hi : issueOnly s (floatHeld i s) := by
    rw [floatHeld_eq]
    exact issueOnly_ite (issueOnly_updIss _ (issueOnly_refl s)) (issueOnly_refl s)
  exact unitSlot_off _ (by rw [hi]; exact h) (by rw [hi]; exact g)

theorem exec_off {i : Instr} {w : BitVec 32} {s : State} (h : encode i = some w) (g : guardOf s.tile (slotInfo i).ctl = false) :
    (s.tile.sup = false → exec i s = .next (floatHeld i s))
    ∧ (s.tile.sup = true → (slotInfo i).cls ∉ [UnitClass.vector, .matrix, .engine] → userOnly i = false → exec i s = .next s) := by
  have ho := slotForm s h
  generalize exec i s = o at ho
  cases ho with
  | nop hf => simp_all [floatHeld_other]
  | plain f hf => simp_all [floatHeld_other, plain_off]
  | user f hf hu => simp_all [floatHeld_other, userSlot_off]
  | sup f hf => simp_all [floatHeld_other, supSlot_off]
  | matrix f hf hk => simp_all [floatHeld_other, unitSlot_off]
  | vector _ f hf hk =>
    subst hf
    exact ⟨fun hs => vSlot_off f hs g, fun _ hc => absurd hc (by simp [hk])⟩
  | engine f hf hk => simp_all [floatHeld_other, engSlot_off]

end Sys2Proof.Machine

namespace Sys2Proof

open Sys2Proof.Machine

/-- Settles O8: each form of a slot answers a next state that differs in the issue group. -/
theorem slotsOnlyGather : Obligations.SlotsOnlyGather := by
  unfold Obligations.SlotsOnlyGather
  intro i w s h
  exact exec_gathers s h

/-- Settles O12: by the form of the slot. -/
theorem guardedOffDoesNothing : Obligations.GuardedOffDoesNothing := by
  unfold Obligations.GuardedOffDoesNothing
  refine ⟨fun t c => ?_, fun i w s h g => exec_off h g⟩
  simp [guardOf, bitsOf, Nat.shiftRight_eq_div_pow]

end Sys2Proof

/-! PROOFS. A result lands in its own register and nowhere else (R34). -/

namespace Sys2Proof.Machine

open Sys2Proof

/-! ## Bits of a word after a write of a field or under a mask -/

theorem getLsbD_setBits {w : Nat} (v : BitVec w) (lo n x b : Nat) (hb : b < w) :
    (setBits v lo n x).getLsbD b = if lo ≤ b ∧ b < lo + n then x.testBit (b - lo) else v.getLsbD b := by
  simp only [setBits, BitVec.getLsbD_or, BitVec.getLsbD_and, BitVec.getLsbD_not, BitVec.getLsbD_ofNat, hb, decide_true, Bool.true_and,
    Nat.testBit_shiftLeft, Nat.testBit_two_pow_sub_one, Nat.testBit_mod_two_pow]
  by_cases h1 : lo ≤ b
  · by_cases h2 : b < lo + n
    · simp [h1, h2, show b - lo < n by omega]
    · simp [h1, h2, show ¬ b - lo < n by omega]
  · simp [h1]

theorem getLsbD_underMask {w : Nat} (old v mask : BitVec w) (b : Nat) (hb : b < w) :
    ((old &&& ~~~mask) ||| (v &&& mask)).getLsbD b = if mask.getLsbD b = true then v.getLsbD b else old.getLsbD b := by
  simp only [BitVec.getLsbD_or, BitVec.getLsbD_and, BitVec.getLsbD_not, hb, decide_true, Bool.true_and]
  cases mask.getLsbD b <;> simp

/-! ## Registers after a landing -/

theorem xGet_xPut (th : Thread) (d r : Reg) (v : W64) (b : Bool) : xGet (xPut th d v b) r = if r = d ∧ d ≠ 0 then v else xGet th r := by
  by_cases h : r = d
  · subst h
    by_cases h0 : r = 0
    · rw [if_neg (fun e => e.2 h0), xPut, if_pos h0]
    · rw [if_pos ⟨rfl, h0⟩, xGet, xPut, if_neg h0, if_neg h0, cellGet_set]
  · rw [xGet_xPut_ne th d v b h, if_neg (fun e => h e.1)]

theorem xPut_context (th : Thread) (d : Reg) (v : W64) (b : Bool) :
    (xPut th d v b).pc = th.pc ∧ (xPut th d v b).pend = th.pend ∧ (xPut th d v b).flights = th.flights := by
  unfold xPut
  split <;> exact ⟨rfl, rfl, rfl⟩

theorem pGet_pPut (th : Thread) (k n : Nat) (v : Bool) (hn : n < 128) : pGet (pPut th k v) n = if n = k ∧ k ≠ 0 then v else pGet th n := by
  unfold pPut
  by_cases hk : k = 0
  · simp [hk]
  · simp only [hk, if_false, pGet, getLsbD_setBits _ _ _ _ _ hn]
    by_cases h : n = k
    · subst h
      cases v <;> simp [hk]
    · rw [if_neg (show ¬ (k ≤ n ∧ n < k + 1) by omega), if_neg fun e => h e.1]

/-- A group of predicates after it has landed: p0 stays true (R89). -/
theorem pGet_landGroup (th : Thread) (g : BitVec 1) (v : W64) (n : Nat) (hn : n < 128) :
    pGet (landThread th (.pg g v)) n = if n = 0 then true else if n / 64 = g.toNat then v.getLsbD (n % 64) else pGet th n := by
  have hg : 64 * g.toNat ≤ n ∧ n < 64 * g.toNat + 64 ↔ n / 64 = g.toNat := by omega
  simp only [landThread, pGet, getLsbD_setBits _ _ _ _ _ hn, hg]
  by_cases h0 : n = 0
  · simp [h0]
  · by_cases h : n / 64 = g.toNat
    · have hm : n - 64 * g.toNat = n % 64 := by omega
      simp only [h0, h, hm, decide_false, Bool.false_or, if_true, if_false]
      split_ifs with hz
      · have h1 : n % 64 ≠ 0 := by
          subst hz
          simp at h
          omega
        have hb : (1 : W64).getLsbD (n % 64) = false := BitVec.getLsbD_one.trans (by simp [h1])
        rw [BitVec.testBit_toNat, BitVec.getLsbD_and, BitVec.getLsbD_not, hb]
        simp [Nat.mod_lt]
      · exact BitVec.testBit_toNat v
    · simp [h0, h]

theorem ltGet_land (th : Thread) (n k : Reg) (mask v : BitVec 128) (b : Nat) (hb : b < 128) :
    (ltGet (landThread th (.lt n mask v)) k.toNat).getLsbD b
      = if k = n ∧ mask.getLsbD b = true then v.getLsbD b else (ltGet th k.toNat).getLsbD b := by
  simp only [landThread, ltGet, cellGet_set_eq, BitVec.toNat_inj]
  by_cases h : k = n
  · subst h
    rw [if_pos rfl, getLsbD_underMask _ _ _ _ hb]
    simp
  · simp [h]

theorem vGet_land (th : Thread) (d r : Reg) (mask v : BitVec 2048) (b : Nat) (hb : b < 2048) :
    (vGet (landThread th (.v d mask v)) r).getLsbD b
      = if r = d ∧ mask.getLsbD b = true then v.getLsbD b else (vGet th r).getLsbD b := by
  simp only [landThread, vGet, cellGet_set_eq, BitVec.toNat_inj]
  by_cases h : r = d
  · subst h
    rw [if_pos rfl, getLsbD_underMask _ _ _ _ hb]
    simp
  · simp [h]

theorem mGet_land (th : Thread) (d r : BitVec 3) (v : W64) :
    mGet (landThread th (.m d v)) r = if r = d ∧ d ≠ 0 then v else mGet th r := by
  simp only [landThread]
  by_cases hd : d = 0
  · simp [hd]
  · simp only [hd, if_false, mGet, cellGet_set_eq, BitVec.toNat_inj]
    by_cases h : r = d
    · subst h
      rw [if_neg hd, if_pos rfl, if_pos ⟨rfl, hd⟩]
    · simp only [h, false_and, if_false]

/-- A landing in a context leaves its place in the program, its pending registers and the results still on their way. -/
theorem landThread_context (th : Thread) (r : Res) :
    (landThread th r).pc = th.pc ∧ (landThread th r).pend = th.pend ∧ (landThread th r).flights = th.flights := by
  cases r with
  | x d v => exact xPut_context th d v false
  | p n v =>
    simp only [landThread, pPut]
    split <;> exact ⟨rfl, rfl, rfl⟩
  | m d v =>
    simp only [landThread]
    split <;> exact ⟨rfl, rfl, rfl⟩
  | pg | lt | v | latch | shift | side | row | rowAdd | rowClear | mst | msclr | cw | bytes => simp only [landThread, rowPut, and_self]

end Sys2Proof.Machine

namespace Sys2Proof

open Sys2Proof.Machine

/-- Settles O11: one lemma for each kind of register. -/
theorem resultsLand : Obligations.ResultsLand := by
  unfold Obligations.ResultsLand
  refine ⟨fun th d r v => xGet_xPut th d r v false, fun th q v n hn => ?_, pGet_landGroup, ltGet_land, vGet_land, mGet_land, landThread_context⟩
  have hq : q ≠ 0 ↔ q.toNat ≠ 0 := not_congr BitVec.toNat_inj.symm
  simp only [hq]
  exact pGet_pPut th q.toNat n v hn

end Sys2Proof
section
/-! PROOFS. What the commit of a plain bundle changes (10 R30, R98, R105), and what a signature and a format word do (R26, R105, R106). -/

namespace Sys2Proof.Machine

open Sys2Proof

/-! ## Reading a memory that a block of bytes overlays -/

/-- In a memory in canonical form the listed cells are the non-zero ones. -/
theorem mem_cells_iff {w lo : Nat} {m : Store w} (h : cellsFrom lo m = true) (k : Nat) (v : BitVec w) :
    (k, v) ∈ m ↔ cellGet m k = v ∧ v ≠ 0 := by
  induction m generalizing lo with
  | nil => simp only [List.not_mem_nil, cellGet, false_iff, not_and, not_not]; exact Eq.symm
  | cons p r ih =>
    obtain ⟨a, b⟩ := p
    obtain ⟨-, hb, hr⟩ := cellsFrom_cons.1 h
    simp only [List.mem_cons, Prod.mk.injEq, ih hr, cellGet]
    rcases Nat.lt_trichotomy a k with hlt | rfl | hgt
    · simp [Nat.ne_of_lt hlt, (Nat.ne_of_lt hlt).symm, Nat.not_lt_of_gt hlt]
    · have h0 : cellGet r a = 0 := cellGet_below hr (Nat.lt_succ_self a)
      simp only [true_and, if_true, h0]
      constructor
      · rintro (rfl | ⟨rfl, h⟩)
        · exact ⟨rfl, hb⟩
        · exact absurd rfl h
      · exact fun h => .inl h.1.symm
    · have h0 : cellGet r k = 0 := cellGet_below hr (by omega)
      simp only [Nat.ne_of_lt hgt, Nat.ne_of_gt hgt, hgt, false_and, false_or, if_false, if_true, h0]

/-- Memories in canonical form that list the same values of a cell read alike there. -/
theorem cellGet_of_mem_iff {w a b : Nat} {m n : Store w} {k : Nat} (hm : cellsFrom a m = true) (hn : cellsFrom b n = true)
    (h : ∀ v, (k, v) ∈ m ↔ (k, v) ∈ n) : cellGet m k = cellGet n k := by
  have key : ∀ v, v ≠ 0 → (cellGet m k = v ↔ cellGet n k = v) := fun v hv => by
    simpa only [mem_cells_iff hm, mem_cells_iff hn, and_iff_left hv] using h v
  by_cases hz : cellGet m k = 0
  · by_contra hne
    have hnz : cellGet n k ≠ 0 := fun e => hne (hz.trans e.symm)
    exact hnz (((key _ hnz).2 rfl).symm.trans hz)
  · exact ((key _ hz).1 rfl).symm

theorem cellsFrom_le {w lo : Nat} {m : Store w} (h : cellsFrom lo m = true) {p : Nat × BitVec w} (hp : p ∈ m) : lo ≤ p.1 := by
  by_contra hlt
  exact ((mem_cells_iff h p.1 p.2).1 hp).2 (((mem_cells_iff h p.1 p.2).1 hp).1.symm.trans (cellGet_below h (by omega)))

/-- A block of bytes changes nothing outside it. -/
theorem cellGet_blit_outside {m : Memory} (hm : m.wf = true) (a : Nat) (bs : List Byte) {k : Nat} (hk : k < a ∨ a + bs.length ≤ k) :
    cellGet (blit m a bs) k = cellGet m k := by
  refine cellGet_of_mem_iff (blit_wf a bs hm) hm fun v => ?_
  obtain ⟨hlow, hhigh⟩ := atAddr_filter_from a bs
  have hout : (k, v) ∉ (atAddr a bs).filter (fun p => decide (p.2 ≠ 0)) := fun hin => by
    have h1 := cellsFrom_le hlow hin
    have h2 := hhigh _ hin
    simp only at h1 h2
    omega
  simp only [blit, List.mem_append, List.mem_filter, decide_eq_true_eq, hout] at hout ⊢
  have : k < a ∨ a + bs.length ≤ k := hk
  tauto

/-- A list of writes leaves its last byte at every address that it names, and changes nothing else. -/
theorem cellGet_sets (m : Memory) (l : List (Nat × Byte)) (a : Nat) : cellGet (cellSets m l) a = (lastStored l a).getD (cellGet m a) := by
  induction l generalizing m with
  | nil => rfl
  | cons p r ih =>
    simp only [cellSets, lastStored, ih, cellGet_set_eq]
    cases lastStored r a with
    | some b => rfl
    | none =>
      by_cases h : p.1 = a
      · simp [h]
      · simp [h, Ne.symm h]

/-! ## The context of a write of SRAM: threads, control words, mode -/

theorem benchLine_context (t : Tile) (l : Nat) :
    (benchLine t l).th = t.th ∧ (benchLine t l).cw = t.cw ∧ (benchLine t l).sup = t.sup ∧ (benchLine t l).vt = t.vt := by
  unfold benchLine
  split
  · exact ⟨rfl, rfl, rfl, rfl⟩
  · split <;> exact ⟨rfl, rfl, rfl, rfl⟩

theorem benchLines_context (ls : List Nat) (t : Tile) :
    (ls.foldl benchLine t).th = t.th ∧ (ls.foldl benchLine t).cw = t.cw ∧ (ls.foldl benchLine t).sup = t.sup
      ∧ (ls.foldl benchLine t).vt = t.vt := by
  induction ls generalizing t with
  | nil => exact ⟨rfl, rfl, rfl, rfl⟩
  | cons l r ih =>
    obtain ⟨h1, h2, h3, h4⟩ := benchLine_context t l
    obtain ⟨g1, g2, g3, g4⟩ := ih (benchLine t l)
    exact ⟨g1.trans h1, g2.trans h2, g3.trans h3, g4.trans h4⟩

theorem regionWrite_context (t : Tile) (a : Nat) (bs : List Byte) :
    (regionWrite t a bs).th = t.th ∧ (regionWrite t a bs).cw = t.cw ∧ (regionWrite t a bs).sup = t.sup :=
  let ⟨h1, h2, h3, _⟩ := benchLines_context ((upto (bs.length / 64 + 1)).map (fun i => lineOf a + i)) t
  ⟨h1, h2, h3⟩

theorem trailRecord_context (t : Tile) (k place kind seg : Nat) (data : List Byte) :
    (trailRecord t k place kind seg data).th = t.th ∧ (trailRecord t k place kind seg data).cw = t.cw
      ∧ (trailRecord t k place kind seg data).sup = t.sup := by
  unfold trailRecord
  split
  · exact ⟨rfl, rfl, rfl⟩
  · exact regionWrite_context ..

theorem trailLine_context (t : Tile) (l : Nat) :
    (trailLine t l).th = t.th ∧ (trailLine t l).cw = t.cw ∧ (trailLine t l).sup = t.sup := by
  unfold trailLine
  split
  · exact ⟨rfl, rfl, rfl⟩
  · split
    · exact ⟨rfl, rfl, rfl⟩
    · exact trailRecord_context ..

theorem trailLines_context (ls : List Nat) (t : Tile) :
    (ls.foldl trailLine t).th = t.th ∧ (ls.foldl trailLine t).cw = t.cw ∧ (ls.foldl trailLine t).sup = t.sup := by
  induction ls generalizing t with
  | nil => exact ⟨rfl, rfl, rfl⟩
  | cons l r ih =>
    obtain ⟨h1, h2, h3⟩ := trailLine_context t l
    obtain ⟨g1, g2, g3⟩ := ih (trailLine t l)
    exact ⟨g1.trans h1, g2.trans h2, g3.trans h3⟩

/-- The tile after the trail records that a write makes. -/
def trailed (t : Tile) (trail : Bool) (bs : List (Nat × Byte)) : Tile := if trail && isOpt t then (linesOf bs).foldl trailLine t else t

theorem sramPut_mem (t : Tile) (trail : Bool) (ws : List Nat) (bs : List (Nat × Byte)) :
    (sramPut t trail ws bs).mem = cellSets (trailed t trail bs).mem bs := by
  simp only [sramPut, trailed, benchLines_mem]

theorem sramPut_context (t : Tile) (trail : Bool) (ws : List Nat) (bs : List (Nat × Byte)) :
    (sramPut t trail ws bs).th = t.th ∧ (sramPut t trail ws bs).cw = t.cw ∧ (sramPut t trail ws bs).sup = t.sup := by
  obtain ⟨g1, g2, g3, -⟩ := benchLines_context (linesOf bs) (trailed t trail bs)
  have h : (trailed t trail bs).th = t.th ∧ (trailed t trail bs).cw = t.cw ∧ (trailed t trail bs).sup = t.sup := by
    unfold trailed
    split
    · exact trailLines_context _ t
    · exact ⟨rfl, rfl, rfl⟩
  exact ⟨g1.trans h.1, g2.trans h.2.1, g3.trans h.2.2⟩

theorem cwGet_congr {t u : Tile} (hth : u.th = t.th) (hcw : u.cw = t.cw) (n : Nat) : cwGet u n = cwGet t n := by
  simp only [cwGet, hth, hcw]

/-! ## The trail region (R301) -/

/-- An address lies in the trail region of a tile. -/
def InTrail (t : Tile) (a : Nat) : Prop := regionBase t 0x013 ≤ a ∧ a < regionBase t 0x013 + regionSize t 0x013

/-- A record of 80 bytes changes the trail region alone. -/
theorem trailRecord_outside (t : Tile) (k place kind seg : Nat) {data : List Byte} (hd : data.length = 64) (hw : t.mem.wf = true) {a : Nat}
    (ha : ¬InTrail t a) :
    (trailRecord t k place kind seg data).mem.wf = true ∧ cellGet (trailRecord t k place kind seg data).mem a = cellGet t.mem a := by
  unfold trailRecord
  split
  · exact ⟨hw, rfl⟩
  · rename_i hcap
    have hslot : (t.vt.trailTail + k) % trailCap t < trailCap t := Nat.mod_lt _ (Nat.pos_of_ne_zero hcap)
    have hsize : trailCap t * 80 ≤ regionSize t 0x013 := Nat.div_mul_le_self _ 80
    simp only [regionWrite, benchLines_mem]
    refine ⟨blit_wf _ _ hw, cellGet_blit_outside hw _ _ ?_⟩
    simp only [List.length_append, leBytes_length, hd]
    simp only [InTrail] at ha
    omega

theorem trailLine_outside (t : Tile) (l : Nat) (hw : t.mem.wf = true) {a : Nat} (ha : ¬InTrail t a) :
    (trailLine t l).mem.wf = true ∧ cellGet (trailLine t l).mem a = cellGet t.mem a := by
  unfold trailLine
  split
  · exact ⟨hw, rfl⟩
  · split
    · exact ⟨hw, rfl⟩
    · exact trailRecord_outside t _ _ _ _ (leBytes_length ..) hw ha

theorem trailLines_outside (ls : List Nat) (t : Tile) (hw : t.mem.wf = true) {a : Nat} (ha : ¬InTrail t a) :
    cellGet (ls.foldl trailLine t).mem a = cellGet t.mem a := by
  induction ls generalizing t with
  | nil => rfl
  | cons l r ih =>
    obtain ⟨hwf, hget⟩ := trailLine_outside t l hw ha
    obtain ⟨hth, hcw, -⟩ := trailLine_context t l
    have hsame : ¬InTrail (trailLine t l) a := by
      simpa only [InTrail, regionBase, regionSize, cwGet_congr hth hcw] using ha
    exact (ih _ hwf hsame).trans hget

/-- What a write leaves at an address outside the trail region, or at any where it makes no trail records. -/
theorem sramPut_get (t : Tile) (trail : Bool) (ws : List Nat) (bs : List (Nat × Byte)) {a : Nat}
    (ha : (trail && isOpt t) = true → t.mem.wf = true ∧ ¬InTrail t a) :
    cellGet (sramPut t trail ws bs).mem a = (lastStored bs a).getD (cellGet t.mem a) := by
  rw [sramPut_mem, cellGet_sets]
  unfold trailed
  split
  · rw [trailLines_outside _ t (ha ‹_›).1 (ha ‹_›).2]
  · rfl

/-- The byte stored last is what an address holds, wherever it is. -/
theorem sramPut_get_stored (t : Tile) (trail : Bool) (ws : List Nat) {bs : List (Nat × Byte)} {a : Nat} {b : Byte}
    (hb : lastStored bs a = some b) : cellGet (sramPut t trail ws bs).mem a = b := by
  rw [sramPut_mem, cellGet_sets, hb]; rfl

/-! ## Control words and registers -/

/-- The registers of a task that change only where a result lands. -/
def registersOf (th : Thread) :=
  (th.x, th.p, th.v, th.m, th.lt, th.acc, th.latch, th.side)

@[simp] theorem cwPut_mem (t : Tile) (n : Nat) (v : W64) : (cwPut t n v).mem = t.mem := by unfold cwPut; split <;> rfl
@[simp] theorem cwPut_sup (t : Tile) (n : Nat) (v : W64) : (cwPut t n v).sup = t.sup := by unfold cwPut; split <;> rfl
@[simp] theorem cwPut_flights (t : Tile) (n : Nat) (v : W64) : (cwPut t n v).th.flights = t.th.flights := by unfold cwPut; split <;> rfl
@[simp] theorem cwPut_registers (t : Tile) (n : Nat) (v : W64) : registersOf (cwPut t n v).th = registersOf t.th := by
  unfold cwPut; split <;> rfl
theorem cwPut_th (t : Tile) {n : Nat} (v : W64) (h : cwOfTask n = false) : (cwPut t n v).th = t.th := by
  simp only [cwPut, h]; rfl

/-! ## The stages of a commit -/

theorem commitUnits_context (i : Issue) (t : Tile) :
    (commitUnits i t).mem = t.mem ∧ (commitUnits i t).sup = t.sup ∧ registersOf (commitUnits i t).th = registersOf t.th
      ∧ (commitUnits i t).th.flights = t.th.flights ++ slotOrder i.flights := by
  unfold commitUnits
  cases i.seed <;> cases i.vsave <;> cases i.mgset <;> simp [updRt] <;> rfl

theorem cwGet_commitUnits (i : Issue) (t : Tile) {n : Nat} (h2 : n ≠ 0x002) (h8 : n ≠ 0x008) : cwGet (commitUnits i t) n = cwGet t n := by
  have seed (u : Tile) : cwGet (match i.seed with | some v => cwPut u 0x002 v | none => u) n = cwGet u n := by
    cases i.seed <;> simp [cwGet_cwPut, h2]
  have vsave (u : Tile) : cwGet (match i.vsave with | some v => cwPut u 0x008 v | none => u) n = cwGet u n := by
    cases i.vsave <;> simp [cwGet_cwPut, h8]
  have mgset (u : Tile) : cwGet (match i.mgset with
      | some (g, v) => updRt u (fun r => { r with mgnew := r.mgnew ++ [(g, BitVec.ofNat 5 v)] })
      | none => u) n = cwGet u n := by
    cases i.mgset <;> rfl
  exact ((mgset _).trans ((vsave _).trans (seed _)))

/-- The loop state after the bundle's loop end, and the back-edge that it takes. -/
def flowLoop (i : Issue) (t : Tile) : W64 × W64 × Option Nat :=
  if !t.sup && !(i.jump.isSome || switching t i) && !i.lpop then loopEnd (cwGet t 0x070) (cwGet t 0x071) i.addr.toNat
  else (cwGet t 0x070, cwGet t 0x071, none)

/-- The loop words that the bundle leaves, a LOOP or LPOP of its own counted. -/
def flowWords (i : Issue) (t : Tile) : W64 × W64 := match i.loops with
  | some (a, b) => if i.lpop then (a, b) else (a, if lcAct (flowLoop i t).1 then (flowLoop i t).1 else (flowLoop i t).2.1)
  | none => ((flowLoop i t).1, (flowLoop i t).2.1)

/-- The bundle makes a taken transfer. -/
def flowTaken (i : Issue) (t : Tile) : Bool :=
  (i.jump.isSome || switching t i) || ((flowLoop i t).2.2.isSome && i.completing.isNone)

/-- The address of the next bundle. -/
def flowNext (i : Issue) (t : Tile) : LAddr := match i.jump, (flowLoop i t).2.2 with
  | some a, _ => a
  | none, some a => BitVec.ofNat 21 a
  | none, none => i.addr + BitVec.ofNat 21 (4 * i.words.length)

/-- The tile with the loop words and the running check that the bundle leaves. -/
def flowChecked (i : Issue) (t : Tile) : Tile :=
  let u := cwPut (cwPut t 0x070 (flowWords i t).1) 0x071 (flowWords i t).2
  if !t.sup then commitSig i (flowTaken i t) u else u

theorem commitFlow_eq (i : Issue) (t : Tile) :
    commitFlow i t = { flowChecked i t with th := { (flowChecked i t).th with
      pc := flowNext i t, squash := if i.jump.isSome || ((flowLoop i t).2.2.isSome && i.completing.isNone) then 2 else 0 } } := by
  rcases hL : flowLoop i t with ⟨l0, l1, back⟩
  have hL' := hL
  unfold flowLoop at hL'
  simp only [commitFlow, flowChecked, flowWords, flowTaken, flowNext, hL, hL'] <;> cases i.loops <;> cases i.lpop <;> rfl

theorem commitSig_context (i : Issue) (b : Bool) (t : Tile) :
    (commitSig i b t).mem = t.mem ∧ (commitSig i b t).sup = t.sup ∧ registersOf (commitSig i b t).th = registersOf t.th
      ∧ (commitSig i b t).th.flights = t.th.flights := by
  unfold commitSig
  cases i.sig <;> simp

theorem cwGet_commitSig (i : Issue) (b : Bool) (t : Tile) {n : Nat} (h0 : n ≠ 0x110) (h1 : n ≠ 0x111) :
    cwGet (commitSig i b t) n = cwGet t n := by
  unfold commitSig
  cases i.sig <;> simp [cwGet_cwPut, h0, h1]

theorem commitFlow_context (i : Issue) (t : Tile) :
    (commitFlow i t).mem = t.mem ∧ (commitFlow i t).sup = t.sup ∧ registersOf (commitFlow i t).th = registersOf t.th
      ∧ (commitFlow i t).th.flights = t.th.flights := by
  have h : (flowChecked i t).mem = t.mem ∧ (flowChecked i t).sup = t.sup ∧ registersOf (flowChecked i t).th = registersOf t.th
      ∧ (flowChecked i t).th.flights = t.th.flights := by
    unfold flowChecked
    split <;> simp [commitSig_context]
  rw [commitFlow_eq]
  exact h

theorem cwGet_commitFlow (i : Issue) (t : Tile) (n : Nat) : cwGet (commitFlow i t) n = cwGet (flowChecked i t) n := by
  rw [commitFlow_eq]; rfl

theorem cwGet_flowChecked (i : Issue) (t : Tile) {n : Nat} (h : n ∉ [0x070, 0x071, 0x110, 0x111]) : cwGet (flowChecked i t) n = cwGet t n := by
  simp only [List.mem_cons, List.not_mem_nil, or_false, not_or] at h
  obtain ⟨h0, h1, h2, h3⟩ := h
  unfold flowChecked
  cases t.sup <;> simp [cwGet_commitSig, cwGet_cwPut, h0, h1, h2, h3]

theorem spendCycle_context (t : Tile) :
    (spendCycle t).th = t.th ∧ (spendCycle t).cw = t.cw ∧ (spendCycle t).mem = t.mem ∧ (spendCycle t).sup = t.sup := by
  unfold spendCycle
  split <;> exact ⟨rfl, rfl, rfl, rfl⟩

theorem commitCounts_context (i : Issue) (t : Tile) (now : Nat) :
    (commitCounts i t now).th = t.th ∧ (commitCounts i t now).mem = t.mem ∧ (commitCounts i t now).sup = t.sup
      ∧ ∀ n, n ≠ 0x209 → cwGet (commitCounts i t now) n = cwGet t n := by
  unfold commitCounts
  extract_lets u1 u2 u3
  obtain ⟨hth, hcw, hmem, hsup⟩ := spendCycle_context u2
  split
  · exact ⟨(cwPut_th _ _ rfl).trans hth, (cwPut_mem ..).trans hmem, (cwPut_sup ..).trans hsup, fun n hn => by
      rw [cwGet_cwPut, if_neg hn]; exact cwGet_congr hth hcw n⟩
  · exact ⟨hth, hmem, hsup, fun n _ => cwGet_congr hth hcw n⟩

theorem tracePush_context (t : Tile) (st : Nat) (extra : List (BitVec 32)) (now : Nat) :
    (tracePush t st extra now).th = t.th ∧ (tracePush t st extra now).mem = t.mem ∧ (tracePush t st extra now).sup = t.sup
      ∧ ∀ n, n ≠ 0x20B → cwGet (tracePush t st extra now) n = cwGet t n := by
  unfold tracePush
  split
  · exact ⟨rfl, rfl, rfl, fun _ _ => rfl⟩
  · extract_lets delta ext ws
    split
    · exact ⟨cwPut_th _ _ rfl, cwPut_mem .., cwPut_sup .., fun n hn => by rw [traceLose, cwGet_cwPut, if_neg hn]⟩
    · exact ⟨rfl, rfl, rfl, fun _ _ => rfl⟩

theorem traceNote_context (t : Tile) (now : Nat) :
    (traceNote t now).th = t.th ∧ (traceNote t now).mem = t.mem ∧ (traceNote t now).sup = t.sup
      ∧ ∀ n, n ≠ 0x20B → cwGet (traceNote t now) n = cwGet t n := by
  unfold traceNote traceTo
  split
  · exact ⟨rfl, rfl, rfl, fun _ _ => rfl⟩
  · exact tracePush_context ..

/-- The tile after the stores of a plain bundle. -/
def storedTile (t : Tile) : Tile := if t.iss.stores = [] then t else sramPut t true t.iss.whole t.iss.stores

/-- The tile after the results and the transfer of a plain bundle. -/
def flowedTile (t : Tile) : Tile := commitFlow t.iss (commitUnits t.iss (storedTile t))

theorem storedTile_context (t : Tile) :
    (storedTile t).th = t.th ∧ (storedTile t).cw = t.cw ∧ (storedTile t).sup = t.sup := by
  unfold storedTile
  split
  · exact ⟨rfl, rfl, rfl⟩
  · exact sramPut_context ..

theorem checkRead_clean {s : State} (hp : s.tile.poison = []) (hs : s.tile.soft = []) (l : List Nat) (reader : Nat) (c : Bool) :
    checkRead s l reader c = s := if_pos ⟨hp, hs⟩

theorem trailRead_clean {s : State} (hp : s.tile.poison = []) (hs : s.tile.soft = []) (bs : List (Nat × Byte)) : trailRead s bs = s := by
  unfold trailRead
  split
  · rfl
  · simp only [checkRead_clean hp hs, ite_self]

/-- The commit of a bundle that has only produced results, stores and a transfer, where no bit of SRAM is bad: its stores, its results and
transfer, and the accounts of an issue. -/
theorem commitBundle_plain {s : State} (beats : Nat) (hg : plainGroup s.tile.iss) (hp : s.tile.poison = []) (hs : s.tile.soft = []) :
    ∃ now, commitBundle s beats = { s with tile := traceNote (commitCounts s.tile.iss (flowedTile s.tile) s.cyc) now } := by
  obtain ⟨hops, hcodes, hevent, hsys, hcomp, hspawn, hpop⟩ := hg
  have hstores : commitStores s.tile.iss s = { s with tile := storedTile s.tile } := by
    simp only [commitStores, trailRead_clean hp hs, mergeRead, hs, if_true, hcodes, storedTile]
  have htask (t : Tile) (now : Nat) : commitTask s.tile.iss t now = t := by simp only [commitTask, hspawn, hpop]
  refine ⟨hereCyc { s with tile := commitCounts s.tile.iss (flowedTile s.tile) s.cyc }, ?_⟩
  unfold commitBundle
  simp only [checkRead_clean hp hs, commitEvent, hevent, hstores, commitOp, hops, htask, commitSys, hsys, commitTrap, hcomp]
  rfl

/-! ## The tile after a plain bundle -/

theorem switching_none {i : Issue} (t : Tile) (h : i.sys = none) : switching t i = false := by simp only [switching, h]

section plain
variable {s : State} (beats : Nat) (hg : plainGroup s.tile.iss) (hp : s.tile.poison = []) (hs : s.tile.soft = [])
include hg hp hs

theorem commitBundle_th : (commitBundle s beats).tile.th = (flowedTile s.tile).th := by
  obtain ⟨now, h⟩ := commitBundle_plain beats hg hp hs
  rw [h]
  exact (traceNote_context ..).1.trans (commitCounts_context ..).1

theorem commitBundle_mem : (commitBundle s beats).tile.mem = (storedTile s.tile).mem := by
  obtain ⟨now, h⟩ := commitBundle_plain beats hg hp hs
  rw [h]
  obtain ⟨-, g1, -⟩ := traceNote_context (commitCounts s.tile.iss (flowedTile s.tile) s.cyc) now
  obtain ⟨-, g2, -⟩ := commitCounts_context s.tile.iss (flowedTile s.tile) s.cyc
  obtain ⟨g3, -⟩ := commitFlow_context s.tile.iss (commitUnits s.tile.iss (storedTile s.tile))
  obtain ⟨g4, -⟩ := commitUnits_context s.tile.iss (storedTile s.tile)
  exact g1.trans (g2.trans (g3.trans g4))

theorem commitBundle_sup : (commitBundle s beats).tile.sup = s.tile.sup := by
  obtain ⟨now, h⟩ := commitBundle_plain beats hg hp hs
  rw [h]
  obtain ⟨-, -, g1, -⟩ := traceNote_context (commitCounts s.tile.iss (flowedTile s.tile) s.cyc) now
  obtain ⟨-, -, g2, -⟩ := commitCounts_context s.tile.iss (flowedTile s.tile) s.cyc
  obtain ⟨-, g3, -⟩ := commitFlow_context s.tile.iss (commitUnits s.tile.iss (storedTile s.tile))
  obtain ⟨-, g4, -⟩ := commitUnits_context s.tile.iss (storedTile s.tile)
  obtain ⟨-, -, g5⟩ := storedTile_context s.tile
  exact g1.trans (g2.trans (g3.trans (g4.trans g5)))

/-- STEPCNT and TRDROP apart, the control words are those that the transfer leaves. -/
theorem commitBundle_cw {n : Nat} (h9 : n ≠ 0x209) (hb : n ≠ 0x20B) :
    cwGet (commitBundle s beats).tile n = cwGet (flowChecked s.tile.iss (commitUnits s.tile.iss (storedTile s.tile))) n := by
  obtain ⟨now, h⟩ := commitBundle_plain beats hg hp hs
  rw [h]
  obtain ⟨-, -, -, g1⟩ := traceNote_context (commitCounts s.tile.iss (flowedTile s.tile) s.cyc) now
  obtain ⟨-, -, -, g2⟩ := commitCounts_context s.tile.iss (flowedTile s.tile) s.cyc
  exact (g1 n hb).trans ((g2 n h9).trans (cwGet_commitFlow ..))

end plain

/-- Before the transfer the control words are the old ones, RSEED and VSAVE apart. -/
theorem cwGet_unitsStored (t : Tile) {n : Nat} (h2 : n ≠ 0x002) (h8 : n ≠ 0x008) :
    cwGet (commitUnits t.iss (storedTile t)) n = cwGet t n :=
  let ⟨hth, hcw, _⟩ := storedTile_context t
  (cwGet_commitUnits _ _ h2 h8).trans (cwGet_congr hth hcw n)

theorem sup_unitsStored (t : Tile) : (commitUnits t.iss (storedTile t)).sup = t.sup :=
  (commitUnits_context t.iss (storedTile t)).2.1.trans (storedTile_context t).2.2

/-- No transfer is due from a bundle in supervisor mode or outside a loop that has none of its own. -/
theorem flowLoop_none {i : Issue} {t : Tile} (h : t.sup = true ∨ lcAct (cwGet t 0x070) = false) : (flowLoop i t).2.2 = none := by
  unfold flowLoop
  split
  · rename_i hc
    rcases h with h | h
    · simp [h] at hc
    · simp [loopEnd, h]
  · rfl

end Sys2Proof.Machine
end

section
namespace Sys2Proof

open Machine

/-- Settles O10: the commit of a plain bundle is its stores, results, transfer and accounts, and each stage keeps what it does not name. -/
theorem commitFrame : Obligations.CommitFrame := by
  unfold Obligations.CommitFrame
  intro s beats hg hp hs
  have hth := commitBundle_th beats hg hp hs
  obtain ⟨-, -, hregs, hflights⟩ := commitFlow_context s.tile.iss (commitUnits s.tile.iss (storedTile s.tile))
  obtain ⟨-, -, hregs', hflights'⟩ := commitUnits_context s.tile.iss (storedTile s.tile)
  obtain ⟨hthS, -, hsupS⟩ := storedTile_context s.tile
  have hregsAll : registersOf (commitBundle s beats).tile.th = registersOf s.tile.th := by
    rw [hth, flowedTile, hregs, hregs', hthS]
  simp only [registersOf, Prod.mk.injEq] at hregsAll
  obtain ⟨hx, hpr, hv, hm, hlt, hacc, hlatch, hside⟩ := hregsAll
  obtain ⟨now, heq⟩ := commitBundle_plain beats hg hp hs
  refine ⟨?_, ?_, hx, hpr, hv, hm, hlt, hacc, hlatch, hside, ?_, ?_, commitBundle_sup beats hg hp hs, ?_⟩
  · intro a b hb
    rw [commitBundle_mem beats hg hp hs, storedTile, if_neg (fun e => by rw [e] at hb; cases hb)]
    exact sramPut_get_stored _ _ _ hb
  · intro a hnone hopt
    rw [commitBundle_mem beats hg hp hs, storedTile]
    split
    · rfl
    · rw [sramPut_get _ _ _ _ (fun h => hopt (by simpa using h)), hnone]; rfl
  · rw [hth, flowedTile, hflights, hflights', hthS]; rfl
  · intro n hn
    simp only [List.mem_cons, List.not_mem_nil, or_false, not_or] at hn
    obtain ⟨h2, h8, h70, h71, h110, h111, h209, h20B⟩ := hn
    rw [commitBundle_cw beats hg hp hs h209 h20B, cwGet_flowChecked _ _ (by simp [h70, h71, h110, h111]), cwGet_unitsStored _ h2 h8]
  · refine ⟨by rw [heq], by rw [heq], by rw [heq], by rw [heq], by rw [heq], by rw [heq], by rw [heq], ?_, ?_⟩
    · intro a ha
      rw [hth, flowedTile, commitFlow_eq]
      simp [flowNext, ha]
    · intro hj hcase
      have hloop : (flowLoop s.tile.iss (commitUnits s.tile.iss (storedTile s.tile))).2.2 = none :=
        flowLoop_none (by rwa [sup_unitsStored, cwGet_unitsStored _ (by decide) (by decide)])
      rw [hth, flowedTile, commitFlow_eq]
      simp [flowNext, hj, hloop]

end Sys2Proof
end
section
/-! PROOFS. Signatures and the running check (R26, R105, R106). -/

namespace Sys2Proof.Machine

open Sys2Proof

/-- The running check is the low half word of SIGACC. -/
theorem ofNat_bitsOf_low (v : W64) : BitVec.ofNat 16 (bitsOf v 0 16) = v.setWidth 16 := by
  apply BitVec.eq_of_toNat_eq
  simp [bitsOf]

/-- One step of the running check, as arithmetic: the feedback is the top bit against the bit fed. -/
theorem crcBit_toNat (c : BitVec 16) (b : Bool) :
    (crcBit c b).toNat = if c.getLsbD 15 = b then c.toNat * 2 % 2 ^ 16 else (c.toNat * 2 % 2 ^ 16) ^^^ 0x1021 := by
  have hd : (c <<< 1).toNat = c.toNat * 2 % 2 ^ 16 := by simp [BitVec.toNat_shiftLeft, Nat.shiftLeft_eq]
  unfold crcBit
  cases h : c.getLsbD 15 <;> cases b <;> simp [hd]

/-- The words are fed bit by bit, each from its most significant bit on. -/
theorem crcWords_bits (ws : List (BitVec 32)) (c : BitVec 16) :
    crcWords c ws = (ws.map (fun w => (upto 32).map (fun j => w.getLsbD (31 - j)))).flatten.foldl crcBit c := by
  induction ws generalizing c with
  | nil => rfl
  | cons w r ih =>
    rw [List.map_cons, List.flatten_cons, List.foldl_append, List.foldl_map, ← ih]
    rfl

theorem sigValue_eq (s : State) : sigValue s = crcWords ((cwGet s.tile 0x111).setWidth 16)
    (s.tile.iss.words.zipIdx.map (fun p => if p.2 = s.tile.iss.slot then p.1 &&& 0xFFFF0000 else p.1)) := by
  rw [sigValue, ofNat_bitsOf_low]

/-- SIG does nothing in supervisor mode (R353). -/
theorem execSig_sup {c : Ctl} {s : State} (k : BitVec 16) (h : runs s c) (hsup : s.tile.sup = true) : execSig c k s = .next s := by
  rw [execSig, plain_on _ h, if_pos hsup]

theorem execSig_user {c : Ctl} {s : State} (k : BitVec 16) (h : runs s c) (hsup : s.tile.sup = false) :
    execSig c k s = .next
      (if (cwGet s.tile 0x110).getLsbD 0 && !(cwGet s.tile 0x110).getLsbD 1 && sigValue s != k
       then raise (updIss s (fun i => { i with sig := some k })) [(0x19, BitVec.ofNat 64 (k.toNat + 65536 * (sigValue s).toNat))]
       else updIss s (fun i => { i with sig := some k })) := by
  rw [execSig, plain_on _ h, if_neg (by simp [hsup])]
  simp only [addCause_raise]

/-! ## The check after the commit of a bundle -/

/-- A user bundle makes a taken transfer by a transfer of its own or by the loop's back-edge. -/
theorem flowTaken_iff {i : Issue} {t : Tile} (hg : plainGroup i) (hsup : t.sup = false) :
    flowTaken i t = true ↔ i.jump ≠ none ∨ (i.lpop = false ∧ (loopEnd (cwGet t 0x070) (cwGet t 0x071) i.addr.toNat).2.2 ≠ none) := by
  obtain ⟨-, -, -, hsys, hcomp, -, -⟩ := hg
  simp only [flowTaken, flowLoop, switching_none t hsys, hcomp, hsup]
  cases i.jump with
  | some a => simp
  | none => cases i.lpop <;> simp [Option.isSome_iff_ne_none]

theorem flowChecked_sup {i : Issue} {t : Tile} (hsup : t.sup = true) {n : Nat} (h0 : n ≠ 0x070) (h1 : n ≠ 0x071) :
    cwGet (flowChecked i t) n = cwGet t n := by
  simp [flowChecked, hsup, cwGet_cwPut, h0, h1]

/-- An executed SIG clears SIGCTL.SKIP and starts the check anew. -/
theorem flowChecked_sig {i : Issue} {t : Tile} (hsup : t.sup = false) (hsig : i.sig ≠ none) :
    cwGet (flowChecked i t) 0x111 = 0xFFFF ∧ cwGet (flowChecked i t) 0x110 = cwGet t 0x110 &&& ~~~(2 : W64) := by
  obtain ⟨k, hk⟩ := Option.ne_none_iff_exists'.1 hsig
  simp [flowChecked, hsup, commitSig, hk, cwGet_cwPut]

/-- Any other user bundle feeds its words, and one bit more for a taken transfer. -/
theorem flowChecked_fed {i : Issue} {t : Tile} (hsup : t.sup = false) (hsig : i.sig = none) :
    let fed := crcWords ((cwGet t 0x111).setWidth 16) i.words
    cwGet (flowChecked i t) 0x110 = cwGet t 0x110
      ∧ cwGet (flowChecked i t) 0x111 = (if flowTaken i t then crcBit fed true else fed).setWidth 64 := by
  simp [flowChecked, hsup, commitSig, hsig, cwGet_cwPut, ofNat_bitsOf_low]

/-- Bit 1 cleared and nothing else. -/
theorem getLsbD_clear_skip (v : W64) {b : Nat} (hb : b < 64) : (v &&& ~~~(2 : W64)).getLsbD b = (v.getLsbD b && decide (b ≠ 1)) := by
  have h2 : (2 : W64).getLsbD b = decide (b = 1) := by
    interval_cases b <;> decide
  rw [BitVec.getLsbD_and, BitVec.getLsbD_not, h2]
  simp [hb]

end Sys2Proof.Machine
end

section
namespace Sys2Proof

open Machine

/-- Settles O26: the slots by their guard and mode, the check by induction over the words, and its commit by the stage of the transfer. -/
theorem signaturesAndFormats : Obligations.SignaturesAndFormats := by
  unfold Obligations.SignaturesAndFormats
  refine ⟨fun c k s hr => ?_, fun c fa fb g z s hr => ?_, fun c o z s => ?_, crcBit_toNat, fun c ws => crcWords_bits ws c,
    fun s beats hg hp hs => ?_⟩
  · intro i v t
    have hv : sigValue s = v := sigValue_eq s
    refine ⟨fun hsup => execSig_sup k hr hsup, fun hsup hno => ?_, fun hsup hen hskip hne => ?_⟩
    · refine (execSig_user k hr hsup).trans ?_
      rw [hv, if_neg]
      rcases hno with h | h | h <;> simp only [h] <;> simp
    · refine (execSig_user k hr hsup).trans ?_
      rw [hv, if_pos (by simp only [hen, hskip]; simp [hne])]
  · exact ⟨userSlot_on (fun s => setPfx s fa fb g z false) hr, userSlot_on (fun s => setPfx s fa fb g z true) hr⟩
  · rfl
  · have hcw {n : Nat} (h2 : n ≠ 0x002) (h8 : n ≠ 0x008) := cwGet_unitsStored s.tile h2 h8
    have hmode := sup_unitsStored s.tile
    refine ⟨fun hsup => ?_, fun hsup hsig => ?_, fun hsup hsig => ?_⟩
    · rw [commitBundle_cw beats hg hp hs (by decide) (by decide), commitBundle_cw beats hg hp hs (by decide) (by decide),
        flowChecked_sup (hmode.trans hsup) (by decide) (by decide), flowChecked_sup (hmode.trans hsup) (by decide) (by decide)]
      exact ⟨hcw (by decide) (by decide), hcw (by decide) (by decide)⟩
    · obtain ⟨hacc, hctl⟩ := flowChecked_sig (hmode.trans hsup) hsig
      rw [hcw (by decide) (by decide)] at hctl
      rw [commitBundle_cw beats hg hp hs (by decide) (by decide), commitBundle_cw beats hg hp hs (by decide) (by decide), hacc, hctl]
      exact ⟨rfl, fun b hb => getLsbD_clear_skip _ hb⟩
    · obtain ⟨hctl, hacc⟩ := flowChecked_fed (hmode.trans hsup) hsig
      have htaken := flowTaken_iff hg (hmode.trans hsup)
      simp only [hcw (n := 0x110) (by decide) (by decide), hcw (n := 0x111) (by decide) (by decide)] at hctl hacc
      simp only [hcw (n := 0x070) (by decide) (by decide), hcw (n := 0x071) (by decide) (by decide)] at htaken
      rw [commitBundle_cw beats hg hp hs (by decide) (by decide), commitBundle_cw beats hg hp hs (by decide) (by decide), hctl, hacc]
      exact ⟨rfl, fun h => by rw [if_pos (htaken.2 h)], fun h => by rw [if_neg (fun e => h (htaken.1 e))]⟩

end Sys2Proof
end
section
/-! PROOFS. A step of a tile that is clear to issue runs the bundle at its pc (R25, R27, R30, R357). -/

namespace Sys2Proof.Machine

open Sys2Proof

/-! ## What the landings of an issue cycle leave as it was -/

/-- The parts of a tile that no landing changes: its partition, the wait for a register, a trap held back; where no bit of its SRAM is bad
and no halo row lands, this stays so. -/
structure Undisturbed (t u : Tile) : Prop where
  pid : u.pid = t.pid
  idle : u.idle = t.idle
  trap : u.th.trap = t.th.trap
  poison : t.poison = [] → u.poison = []
  soft : t.soft = [] → u.soft = []
  haloOld : t.haloOld = [] → u.haloOld = []

namespace Undisturbed

theorem refl (t : Tile) : Undisturbed t t := ⟨rfl, rfl, rfl, id, id, id⟩

theorem trans {t u v : Tile} (h : Undisturbed t u) (g : Undisturbed u v) : Undisturbed t v :=
  ⟨g.pid.trans h.pid, g.idle.trans h.idle, g.trap.trans h.trap, g.poison ∘ h.poison, g.soft ∘ h.soft, g.haloOld ∘ h.haloOld⟩

/-- A change of other fields. -/
theorem of_eq {t u : Tile} (h1 : u.pid = t.pid) (h2 : u.idle = t.idle) (h3 : u.th.trap = t.th.trap) (h4 : u.poison = t.poison)
    (h5 : u.soft = t.soft) (h6 : u.haloOld = t.haloOld) : Undisturbed t u :=
  ⟨h1, h2, h3, h4.trans, h5.trans, h6.trans⟩

theorem foldl {α : Type} {f : Tile → α → Tile} (h : ∀ t a, Undisturbed t (f t a)) (l : List α) (t : Tile) : Undisturbed t (l.foldl f t) := by
  induction l generalizing t with
  | nil => exact refl t
  | cons a r ih => exact (h t a).trans (ih _)

end Undisturbed

theorem cwPut_undisturbed (t : Tile) (n : Nat) (v : W64) : Undisturbed t (cwPut t n v) := by
  unfold cwPut
  split <;> exact .of_eq rfl rfl rfl rfl rfl rfl

theorem traceOpen_undisturbed (t : Tile) (old new : W64) (now : Nat) : Undisturbed t (traceOpen t old new now) := by
  unfold traceOpen
  split
  · exact .of_eq rfl rfl rfl rfl rfl rfl
  · split <;> exact .of_eq rfl rfl rfl rfl rfl rfl

theorem cwWrite_undisturbed (t : Tile) (n : Nat) (v : W64) (now : Nat) : Undisturbed t (cwWrite t n v now) := by
  unfold cwWrite
  extract_lets old new u
  have h : Undisturbed t u := cwPut_undisturbed ..
  split
  · exact h.trans (traceOpen_undisturbed ..)
  · split
    · exact h.trans (.of_eq rfl rfl rfl rfl rfl rfl)
    · exact h

theorem mbLand_undisturbed (t : Tile) (n : Nat) (v : W64) (now : Nat) : Undisturbed t (mbLand t n v now) :=
  (cwWrite_undisturbed t n v now).trans (cwPut_undisturbed ..)

theorem raiseAsync_undisturbed (t : Tile) (code : Nat) (v : W64) : Undisturbed t (raiseAsync t code v) := by
  unfold raiseAsync
  split <;> exact .of_eq rfl rfl rfl rfl rfl rfl

theorem shortAt_undisturbed (t : Tile) (region used : Nat) : Undisturbed t (shortAt t region used) := by
  unfold shortAt
  split
  · exact raiseAsync_undisturbed ..
  · exact .of_eq rfl rfl rfl rfl rfl rfl

theorem benchLine_undisturbed (t : Tile) (l : Nat) : Undisturbed t (benchLine t l) := by
  unfold benchLine
  split
  · exact .refl t
  · split <;> exact .of_eq rfl rfl rfl rfl rfl rfl

theorem regionWrite_undisturbed (t : Tile) (a : Nat) (bs : List Byte) : Undisturbed t (regionWrite t a bs) := by
  have h := Undisturbed.foldl benchLine_undisturbed ((upto (bs.length / 64 + 1)).map (fun i => lineOf a + i)) t
  refine ⟨h.pid, h.idle, h.trap, fun e => ?_, fun e => ?_, h.haloOld⟩
  · simp only [regionWrite, h.poison e, List.filter_nil]
  · simp only [regionWrite, h.soft e, List.filter_nil]

theorem trailLine_undisturbed (t : Tile) (l : Nat) : Undisturbed t (trailLine t l) := by
  unfold trailLine
  split
  · exact .refl t
  · split
    · exact .refl t
    · have h : ∀ k place kind seg data, Undisturbed t (trailRecord t k place kind seg data) := fun k place kind seg data => by
        unfold trailRecord
        split
        · exact .refl t
        · exact regionWrite_undisturbed ..
      exact (h ..).trans (.of_eq rfl rfl rfl rfl rfl rfl)

theorem sramPut_undisturbed (t : Tile) (trail : Bool) (ws : List Nat) (bs : List (Nat × Byte)) : Undisturbed t (sramPut t trail ws bs) := by
  have ht : Undisturbed t (trailed t trail bs) := by
    unfold trailed
    split
    · exact .foldl trailLine_undisturbed _ t
    · exact .refl t
  have h := ht.trans (.foldl benchLine_undisturbed (linesOf bs) _)
  exact ⟨h.pid, h.idle, h.trap, fun e => if_pos (h.poison e), fun e => if_pos (h.soft e), fun e => if_pos (h.haloOld e)⟩

theorem xPut_trap (th : Thread) (d : Reg) (v : W64) (b : Bool) : (xPut th d v b).trap = th.trap := by
  unfold xPut
  split <;> rfl

theorem landThread_trap (th : Thread) (r : Res) : (landThread th r).trap = th.trap := by
  cases r with
  | x d v => exact xPut_trap th d v false
  | p n v =>
    simp only [landThread, pPut]
    split <;> rfl
  | m d v =>
    simp only [landThread]
    split <;> rfl
  | pg | lt | v | latch | shift | side | row | rowAdd | rowClear | mst | msclr | cw | bytes => simp only [landThread, rowPut]

theorem landTile_undisturbed (t : Tile) (r : Res) (now : Nat) : Undisturbed t (landTile t r now) := by
  have hth : Undisturbed t { t with th := landThread t.th r } := .of_eq rfl rfl (landThread_trap t.th r) rfl rfl rfl
  cases r with
  | cw n v =>
    simp only [landTile]
    split
    · exact mbLand_undisturbed ..
    · exact cwWrite_undisturbed ..
  | bytes bs => exact sramPut_undisturbed ..
  | mst k =>
    simp only [landTile]
    split
    · exact hth.trans (raiseAsync_undisturbed ..)
    · exact hth
  | _ => simpa only [landTile] using hth

theorem landDue_undisturbed (t : Tile) (f : Flight) (now : Nat) : Undisturbed t (landDue t f now) := by
  unfold landDue
  split
  · split
    · refine Undisturbed.trans ?_ (shortAt_undisturbed ..)
      exact .of_eq rfl rfl rfl rfl rfl rfl
    · exact landTile_undisturbed ..
  · exact landTile_undisturbed ..

theorem settleLate_trap (th : Thread) : (settleLate th).trap = th.trap := by
  have h (l : List (Reg × W64 × Bool)) (a : Thread) :
      (l.foldl (fun a p => { xPut a p.1 p.2.1 p.2.2 with pend := setBits a.pend p.1.toNat 1 0 }) a).trap = a.trap := by
    induction l generalizing a with
    | nil => rfl
    | cons p r ih => exact (ih _).trans (xPut_trap ..)
  exact h _ _

theorem beginCycle_undisturbed (t : Tile) (now : Nat) : Undisturbed t (beginCycle t now) := by
  unfold beginCycle
  split
  · exact .refl t
  · extract_lets fs due th u v
    have hu : Undisturbed t u := .of_eq rfl rfl rfl rfl rfl rfl
    have hv : Undisturbed t v := hu.trans (.foldl (fun a f => landDue_undisturbed a f now) due u)
    exact hv.trans (.of_eq rfl rfl (settleLate_trap v.th) rfl rfl rfl)

/-! ## The turn of a tile that is clear to issue -/

/-- The tile in focus runs and nothing comes before its bundle: what `clearToIssue` says of the state in which its turn begins. -/
structure Unhindered (s : State) : Prop where
  runs : partnRuns s s.tile.pid = true
  halted : s.tile.dbg.halted = false
  running : s.tile.disp.running = true
  ops : s.tile.eng.ops = []
  halt : haltWanted s.tile = none
  hold : s.tile.hold64 ≠ some s.cyc
  stale : s.tile.stale = []
  haloOld : s.tile.haloOld = []
  halos : s.tile.eng.halos = []
  poison : s.tile.poison = []
  soft : s.tile.soft = []
  inject : s.tile.dbg.inject = none
  squash : s.tile.th.squash = 0
  trap : s.tile.th.trap = none
  sync : s.tile.disp.sync = none
  idle : s.tile.idle = none
  budget : budgetLeft s = true

/-- The state after the landings, in which nothing comes before the bundle either. -/
structure Landed (s s1 : State) : Prop where
  eq : s1 = { s with tile := beginCycle s.tile (hereCyc s) }
  hits : debugHits s1 = []
  due : s1.tile.vt.due = []
  asyncs : s1.tile.asyncs = []
  armed : (cwGet s1.tile 0x208).getLsbD 63 = false

theorem unhindered_of_clear {s s1 : State} (h : clearToIssue s s1) :
    Unhindered { s with todo := s.todo.tail } ∧ Landed { s with todo := s.todo.tail } s1 := by
  obtain ⟨-, -, -, hruns, hhalted, hrun, hops, hhalt, hhold, hstale, hold, hhalos, hpoison, hsoft, hinj, -, hsquash, htrap, hsync, hidle, hbudget,
    hs1, hhits, -, hdue, hasync, harmed⟩ := h
  exact ⟨⟨hruns, hhalted, hrun, hops, hhalt, hhold, hstale, hold, hhalos, hpoison, hsoft, hinj, hsquash, htrap, hsync, hidle, hbudget⟩,
    ⟨hs1, hhits, hdue, hasync, harmed⟩⟩

/-- What the landings leave as it was. -/
theorem landed_undisturbed {s s1 : State} (g : Landed s s1) : Undisturbed s.tile s1.tile := by
  have h1 : s1.tile = beginCycle s.tile (hereCyc s) := by rw [g.eq]
  rw [h1]
  exact beginCycle_undisturbed ..

section turn
variable {s s1 : State} (h : Unhindered s) (g : Landed s s1)
include h g

/-- At such a boundary the tile comes to its bundle. -/
theorem atTurn_clear : atTurn s s1 false false [] = withInjection s1 false [] := by
  have hu := landed_undisturbed g
  have hroll : rollbackReady s1 = false := by simp [rollbackReady, g.due]
  have hidle : s1.tile.idle = none := hu.idle.trans h.idle
  have hgo : { s1 with tile := { s1.tile with idle := none } } = s1 := by rw [← hidle]
  have hasync : decide (s1.tile.asyncs ≠ []) = false := decide_eq_false (not_not.2 g.asyncs)
  simp only [atTurn, hroll, hu.trap.trans h.trap, hasync, h.budget, hgo, Bool.and_false, Bool.false_eq_true, if_false, if_true]

/-- The attempt to issue comes to the bundle at the pc. -/
theorem attempt_clear : attempt s = withInjection s1 false [] := by
  have hdrip : haloDrip s = s := if_pos (by rw [h.halos]; rfl)
  have hfree : { s with free := if s.tile.stale = [] ∧ s.tile.haloOld = [] then s.free else s.free + 8 } = s := by
    rw [if_pos ⟨h.stale, h.haloOld⟩]
  have hdrain : drainRead s = s := if_pos (.inr ⟨h.soft, h.poison⟩)
  have hlate : lateInject s.tile s.cyc = false := by simp only [lateInject, h.inject]
  have hidle : idleOver s.tile = true := by simp only [idleOver, h.idle]
  unfold attempt
  simp only [hdrip, hfree, h.halt, Option.filter_none, hlate, hdrain, h.squash, h.sync, hidle, h.hold, ← g.eq, g.hits, Bool.false_eq_true, if_false,
    ne_eq, not_true, Option.isSome_none, Bool.not_true, Bool.or_false, List.isEmpty_nil, Bool.false_and, decide_false]
  exact atTurn_clear h g

/-- The bundle at the pc of such a tile is the one that its words decode to. -/
theorem withInjection_clear {ws : List (BitVec 32)} {l : List Slot} (hscan : scanBundle s1 s1.tile.th.pc = .words ws)
    (hdec : decodeSlots 0 ws = .ok l) : withInjection s1 false [] = tryBundle s1 false [] ws l := by
  have hu := landed_undisturbed g
  have hruns : partnRuns s1 s1.tile.pid = true := by
    rw [hu.pid, g.eq]
    exact h.runs
  have hfetch : fetchBundle s1 false [] = tryBundle s1 false [] ws l := by
    unfold fetchBundle
    simp only [hscan, checkRead_clean (hu.poison h.poison) (hu.soft h.soft), hruns, hdec, Bool.not_true, Bool.false_eq_true, if_false]
  have hdue : injectDue s1.tile = false := by simp only [injectDue, g.armed, Bool.false_and]
  unfold withInjection
  rw [hfetch]
  cases tryBundle s1 false [] ws l <;> simp only [hdue, Bool.false_and, Bool.false_eq_true, if_false]

/-- The tile's turn is its attempt, which the trace unit records. -/
theorem fullTurn_clear {u : State} (hu : withInjection s1 false [] = .next u) :
    fullTurn s.tile.site s = .next { u with tile := traceNote u.tile (hereCyc u) } := by
  have hatt : attempt s = .next u := (attempt_clear h g).trans hu
  have htile : tileAt s s.tile.site = some s.tile := if_pos rfl
  have hfocus : focus s.tile.site s = s := if_pos rfl
  have hdrain : drainOps s = s := by rw [drainOps, h.ops]; rfl
  simp only [fullTurn, htile, hfocus, hdrain, issueTurn, h.runs, h.halted, h.running, hatt, Bool.not_true, Bool.or_false, Bool.false_eq_true,
    if_false, if_true]

end turn

/-- A step of a state in which the tile in focus is next to issue is its turn. -/
theorem step_turn {s : State} (hpf : s.mgr.pfail = false) (hag : s.agenda = []) (htodo : s.todo.head? = some s.tile.site) :
    step s = fullTurn s.tile.site { s with todo := s.todo.tail } := by
  obtain ⟨r, hr⟩ : ∃ r, s.todo = s.tile.site :: r := List.head?_eq_some_iff.1 htodo
  simp only [step, hpf, Bool.false_and, Bool.false_eq_true, if_false, hag, nextTurn, hr, List.tail_cons]

/-! ## The verdict on a decoded bundle -/

/-- What a decoded bundle comes to once its slots have executed: its event's wait, its trap, the task's giving way, or its verdict. -/
theorem tryBundle_ran {s1 s2 : State} {ws : List (BitVec 32)} {l : List Slot} (hold : s1.tile.haloOld = []) (hpend : pendingMask s1.tile l = 0)
    (hrun : runSlots (inOrder l) (openBundle s1 ws (earlyCauses s1.tile l [])) = .next s2) :
    ∃ beats, tryBundle s1 false [] ws l = .next
      (match (if s2.tile.iss.causes.any (fun c => decide (c.1 ≤ 0x02)) || s1.tile.sup then none else eventWait s1 s2),
          faultOf s2 s2.tile.iss with
        | some s', _ => s'
        | none, some (code, _, v) => trapBundle { s1 with free := s2.free } [] code v
        | none, none => (switchDue s1).getD (settle s1 l beats (if s2.tile.iss.causes = [] then s2 else completed s2))) := by
  have hseen : mailboxSeen s1.tile l = s1.tile := if_pos hold
  refine ⟨match runSlots (l.filter (fun x => x.info.cls = .matrix)) (openBundle s1 ws []) with
    | .next s3 => s3.tile.iss.reads.length
    | _ => 0, ?_⟩
  unfold tryBundle
  simp only [hseen, hpend, hrun, ne_eq, not_true, if_false, Bool.false_and, Bool.false_eq_true]
  generalize (if s2.tile.iss.causes.any (fun c => decide (c.1 ≤ 0x02)) || s1.tile.sup then none else eventWait s1 s2) = first
  cases first with
  | some s' => rfl
  | none =>
    cases faultOf s2 s2.tile.iss with
    | some c => rfl
    | none => cases switchDue s1 <;> rfl

/-! ## Causes -/

/-- The lowest cause is one of the causes, and none has a lower code. -/
theorem lowestCause_least {l : List (Nat × Nat × W64)} {c : Nat × Nat × W64} (h : lowestCause l = some c) :
    c ∈ l ∧ ∀ d ∈ l, c.1 ≤ d.1 := by
  induction l generalizing c with
  | nil => cases h
  | cons a r ih =>
    simp only [lowestCause] at h
    cases hr : lowestCause r with
    | none =>
      have hnil : r = [] := by
        cases r with
        | nil => rfl
        | cons b q =>
          simp only [lowestCause] at hr
          split at hr
          · split at hr <;> cases hr
          · cases hr
      simp only [hr, Option.some.injEq] at h
      subst h hnil
      exact ⟨List.mem_cons_self .., fun d hd => by rw [List.mem_singleton.1 hd]⟩
    | some d =>
      obtain ⟨hmem, hle⟩ := ih hr
      simp only [hr] at h
      split at h <;> obtain rfl := Option.some.inj h
      · refine ⟨List.mem_cons_of_mem _ hmem, fun e he => ?_⟩
        rcases List.mem_cons.1 he with rfl | he
        · omega
        · exact hle e he
      · refine ⟨List.mem_cons_self .., fun e he => ?_⟩
        rcases List.mem_cons.1 he with rfl | he
        · exact Nat.le_refl _
        · have := hle e he
          omega

/-- Running the slots of a bundle is running the first, then the others. -/
theorem runSlots_cons_iff (x : Slot) (r : List Slot) (s t : State) :
    runSlots (x :: r) s = .next t ↔ ∃ u, exec x.ins (updIss s (fun i => { i with slot := x.idx })) = .next u ∧ runSlots r u = .next t := by
  simp only [runSlots]
  cases exec x.ins (updIss s (fun i => { i with slot := x.idx })) <;> simp

end Sys2Proof.Machine
end

section
namespace Sys2Proof

open Machine

/-- Settles O9: the turn of a tile that is clear to issue comes to its decoded bundle, whose verdict goes by the causes that its slots leave. -/
theorem stepRunsDecodedBundle : Obligations.StepRunsDecodedBundle := by
  unfold Obligations.StepRunsDecodedBundle
  refine ⟨fun s s1 s2 ws l hclear hscan hdec hpend hrun => ?_, fun s i c hc => ?_, fun s i hc => by simp [faultOf, hc, lowestCause],
    runSlots_cons_iff, fun s => rfl⟩
  · intro goesTo early first fault
    obtain ⟨hready, hlanded⟩ := unhindered_of_clear hclear
    obtain ⟨hpf, hag, htodo, -⟩ := hclear
    have hhold : s1.tile.haloOld = [] := (landed_undisturbed hlanded).haloOld hready.haloOld
    obtain ⟨beats, htry⟩ := tryBundle_ran hhold hpend hrun
    have hstep := (step_turn hpf hag htodo).trans (fullTurn_clear hready hlanded ((withInjection_clear hready hlanded hscan hdec).trans htry))
    change goesTo (match first, fault with
      | some s', _ => s'
      | none, some (code, _, v) => trapBundle { s1 with free := s2.free } [] code v
      | none, none => (switchDue s1).getD (settle s1 l beats (if s2.tile.iss.causes = [] then s2 else completed s2))) at hstep
    refine ⟨fun hev => ?_, fun s' hfirst => ?_, fun hfirst code k v hfault => ?_, fun hfirst hfault s' hsw => ?_,
      fun hfirst hfault hsw => ⟨beats, ?_⟩⟩
    · show (if early || s1.tile.sup then none else eventWait s1 s2) = none
      simp [eventWait, hev]
    · rwa [hfirst] at hstep
    · rwa [hfirst, hfault] at hstep
    · rwa [hfirst, hfault, hsw] at hstep
    · rwa [hfirst, hfault, hsw] at hstep
  · obtain ⟨hmem, hle⟩ := lowestCause_least hc
    refine ⟨hmem, hle, fun hn => by simp [faultOf, hc, hn], fun k v hk hck => by simp [faultOf, hc, hk, hck], fun k v hk hkc hsig => ?_⟩
    simp [faultOf, hc, hk, hsig, Nat.not_le_of_lt hkc]

end Sys2Proof
end
section
/-! PROOFS. The start of an issue cycle and the dispatcher's choice (R34, R268 to R270, R272). -/

namespace Sys2Proof.Machine

open Sys2Proof

/-! ## Landings -/

/-- A result lands without touching the words that wait behind results in flight. -/
theorem landThread_late (th : Thread) (r : Res) : (landThread th r).late = th.late := by
  cases r with
  | x d v =>
    simp only [landThread, xPut]
    split <;> rfl
  | p n v =>
    simp only [landThread, pPut]
    split <;> rfl
  | m d v =>
    simp only [landThread]
    split <;> rfl
  | pg | lt | v | latch | shift | side | row | rowAdd | rowClear | mst | msclr | cw | bytes => simp only [landThread, rowPut]

theorem cwPut_late (t : Tile) (n : Nat) (v : W64) : (cwPut t n v).th.late = t.th.late := by
  unfold cwPut
  split <;> rfl

theorem traceOpen_th (t : Tile) (old new : W64) (now : Nat) : (traceOpen t old new now).th = t.th := by
  unfold traceOpen
  split
  · rfl
  · split <;> rfl

theorem cwWrite_late (t : Tile) (n : Nat) (v : W64) (now : Nat) : (cwWrite t n v now).th.late = t.th.late := by
  unfold cwWrite
  extract_lets old new u
  split
  · exact (congrArg Thread.late (traceOpen_th ..)).trans (cwPut_late ..)
  · split <;> exact cwPut_late ..

theorem raiseAsync_th (t : Tile) (code : Nat) (v : W64) : (raiseAsync t code v).th = t.th := by
  unfold raiseAsync
  split <;> rfl

theorem landTile_late (t : Tile) (r : Res) (now : Nat) : (landTile t r now).th.late = t.th.late := by
  have hth : (landThread t.th r).late = t.th.late := landThread_late ..
  cases r with
  | cw n v =>
    simp only [landTile]
    split
    · exact (cwPut_late ..).trans (cwWrite_late ..)
    · exact cwWrite_late ..
  | bytes bs => exact congrArg Thread.late (sramPut_context ..).1
  | mst k =>
    simp only [landTile]
    split
    · rw [raiseAsync_th]; exact hth
    · exact hth
  | _ => simpa only [landTile] using hth

/-- A result other than a drain lands as it is due. -/
theorem landDue_eq (t : Tile) (f : Flight) (now : Nat) (h : ∀ bs, f.res ≠ .bytes bs) : landDue t f now = landTile t f.res now := by
  unfold landDue
  split
  · exact absurd ‹_› (h _)
  · rfl

/-- Without a completion word waiting nothing settles. -/
theorem settleLate_none {th : Thread} (h : th.late = []) : settleLate th = th := by
  simp only [settleLate, h, List.filter_nil, List.foldl_nil]
  rw [← h]

theorem settleLate_tile {t : Tile} (h : t.th.late = []) : { t with th := settleLate t.th } = t := by rw [settleLate_none h]

/-- Results that are no drains land one after another, and no completion word waits behind them. -/
theorem foldl_landDue (l : List Flight) (g : Flight → Flight) (now : Nat) (t : Tile) (hg : ∀ f, (g f).res = f.res)
    (h : ∀ f ∈ l, ∀ bs, f.res ≠ .bytes bs) :
    (l.map g).foldl (fun u f => landDue u f now) t = l.foldl (fun u f => landTile u f.res now) t := by
  induction l generalizing t with
  | nil => rfl
  | cons f r ih =>
    have hf : ∀ bs, (g f).res ≠ .bytes bs := fun bs => (hg f).symm ▸ h f (List.mem_cons_self ..) bs
    rw [List.map_cons, List.foldl_cons, landDue_eq t (g f) now hf, hg, ih _ (fun f hf => h f (List.mem_cons_of_mem _ hf)), List.foldl_cons]

theorem foldl_landTile_late (l : List Flight) (now : Nat) (t : Tile) : (l.foldl (fun u f => landTile u f.res now) t).th.late = t.th.late := by
  induction l generalizing t with
  | nil => rfl
  | cons f r ih => exact (ih _).trans (landTile_late ..)

/-- The start of an issue cycle without drains and waiting words: what is due lands in issue order, the rest moves one cycle on. -/
theorem beginCycle_lands {t : Tile} (now : Nat) (hb : t.began = false) (hl : t.th.late = []) (hf : ∀ f ∈ t.th.flights, ∀ bs, f.res ≠ .bytes bs) :
    beginCycle t now = (t.th.flights.filter (fun f => decide (f.left ≤ 1))).foldl (fun u f => landTile u f.res now)
      { t with began := true, th := { t.th with
          flights := (t.th.flights.filter (fun f => decide (1 < f.left))).map (fun f => { f with left := f.left - 1 }) } } := by
  have hdue : (t.th.flights.map (fun f => { f with left := f.left - 1 })).filter (fun f => decide (f.left = 0))
      = (t.th.flights.filter (fun f => decide (f.left ≤ 1))).map (fun f => { f with left := f.left - 1 }) := by
    rw [List.filter_map]
    congr 2
    funext f
    exact decide_eq_decide.2 (show f.left - 1 = 0 ↔ f.left ≤ 1 by omega)
  have hleft : (t.th.flights.map (fun f => { f with left := f.left - 1 })).filter (fun f => decide (f.left ≠ 0))
      = (t.th.flights.filter (fun f => decide (1 < f.left))).map (fun f => { f with left := f.left - 1 }) := by
    rw [List.filter_map]
    congr 2
    funext f
    exact decide_eq_decide.2 (show f.left - 1 ≠ 0 ↔ 1 < f.left by omega)
  unfold beginCycle
  simp only [hb, Bool.false_eq_true, if_false, hdue, hleft]
  rw [foldl_landDue _ (fun f => { f with left := f.left - 1 }) now _ (fun _ => rfl) (fun f h => hf f (List.mem_filter.1 h).1)]
  exact settleLate_tile ((foldl_landTile_late ..).trans hl)

/-! ## The ready queue -/

/-- An entry stands behind those of its priority or a higher one, and before the first of a lower one. -/
theorem insertReady_stands (q : List Ready) (r : Ready) : ∃ a b, q = a ++ b ∧ insertReady q r = a ++ r :: b
    ∧ (∀ x ∈ a, readyPri r ≤ readyPri x) ∧ ∀ x y, b = x :: y → readyPri x < readyPri r := by
  refine ⟨q.takeWhile (fun x => decide (readyPri r ≤ readyPri x)), q.dropWhile (fun x => decide (readyPri r ≤ readyPri x)),
    List.takeWhile_append_dropWhile.symm, by simp [insertReady], fun x hx => ?_, fun x y hxy => ?_⟩
  · simpa using List.mem_takeWhile_imp hx
  · have h := List.head?_dropWhile_not (fun x => decide (readyPri r ≤ readyPri x)) q
    rw [hxy] at h
    simpa using h

/-! ## A fresh task -/

/-- What a fresh task finds: the mode, its record's pc, and what R270 gives a new task. -/
def FreshTask (t u : Tile) (r : TaskRec) : Prop :=
  u.disp.running = true ∧ u.sup = false ∧ u.th.pc = r.pc ∧ u.th.uid = t.disp.nextUid ∧ u.disp.nextUid = t.disp.nextUid + 1
    ∧ (∀ n, xGet u.th n = if n = 2 then BitVec.ofNat 64 (floorOf t - u.disp.slot * t.disp.stack)
        else if 10 ≤ n.toNat ∧ n.toNat < 15 then r.args.getD (n.toNat - 10) 0 else 0)
    ∧ (∀ n, 0 < n → n < 128 → pGet u.th n = false) ∧ u.th.pend = 0 ∧ u.th.flights = [] ∧ u.th.latchOk = 0 ∧ u.th.rowOk = 0 ∧ u.th.pfx = none
    ∧ cwGet u 0x004 = r.wid ∧ cwGet u 0x000 = cwGet t 0x000 &&& 0x300 ∧ cwGet u 0x002 = cwGet t 0x007 + 1 ∧ cwGet u 0x070 = 0
    ∧ cwGet u 0x111 = 0xFFFF ∧ bitsOf (cwGet u 0x006) 0 4 = r.pri % 16 ∧ (cwGet u 0x006).getLsbD 4 = r.np ∧ (cwGet u 0x006).getLsbD 5 = false
    ∧ u.mem = t.mem

/-- The registers of a fresh task: x2 is its stack, x10 to x14 its arguments. -/
theorem freshThread_x (t : Tile) (r : TaskRec) (slot : Nat) (idle : Bool) (n : Reg) :
    xGet (freshThread t r slot idle) n = if n = 2 then BitVec.ofNat 64 (floorOf t - slot * t.disp.stack)
      else if 10 ≤ n.toNat ∧ n.toNat < 15 then r.args.getD (n.toNat - 10) 0 else 0 := by
  have hn2 : n = 2 ↔ n.toNat = 2 := BitVec.toNat_inj.symm
  have hn0 : n = 0 ↔ n.toNat = 0 := BitVec.toNat_inj.symm
  have hx : (freshThread t r slot idle).x = cellSets [] [(2, BitVec.ofNat 64 (floorOf t - slot * t.disp.stack)), (10, r.args.getD 0 0),
    (11, r.args.getD 1 0), (12, r.args.getD 2 0), (13, r.args.getD 3 0), (14, r.args.getD 4 0)] := rfl
  have hlt := n.isLt
  simp only [xGet, hx, cellSets, cellGet_set_eq, hn2, hn0]
  generalize n.toNat = k at hlt ⊢
  by_cases h : 10 ≤ k ∧ k < 15
  · obtain ⟨h1, h2⟩ := h
    interval_cases k <;> rfl
  · have ⟨h10, h11, h12, h13, h14⟩ : k ≠ 10 ∧ k ≠ 11 ∧ k ≠ 12 ∧ k ≠ 13 ∧ k ≠ 14 := by omega
    simp only [h, h10, h11, h12, h13, h14, if_false]
    rcases Nat.eq_zero_or_pos k with rfl | hpos
    · rfl
    · rw [if_neg (by omega)]; rfl

/-- The word TASKPRI of a fresh task: its priority, NP and IDLE. -/
theorem priWord_bits {m : Nat} (hm : m < 16) (np idle : Bool) :
    let v : W64 := BitVec.ofNat 64 (m + (if np then 16 else 0) + (if idle then 32 else 0))
    bitsOf v 0 4 = m ∧ v.getLsbD 4 = np ∧ v.getLsbD 5 = idle := by
  cases np <;> cases idle <;> interval_cases m <;> decide

/-- The control words of a fresh task: those that its record and its tile give it, and the reset values of the others. -/
theorem freshThread_cw (t : Tile) (r : TaskRec) (slot : Nat) (idle : Bool) (n : Nat) :
    cellGet (freshThread t r slot idle).cw n =
      if n = 0x006 then BitVec.ofNat 64 (r.pri % 16 + (if r.np then 16 else 0) + (if idle then 32 else 0))
      else if n = 0x004 then r.wid else if n = 0x002 then cwGet t 0x007 + 1 else if n = 0x000 then cwGet t 0 &&& 0x300
      else cellGet Thread.zero.cw n := by
  simp only [freshThread, cellSets, cellGet_set_eq]

theorem startTask_cw (t : Tile) (r : TaskRec) (idle : Bool) {n : Nat} (h : cwOfTask n = true) :
    cwGet (startTask t r idle) n = cellGet (freshThread t r (freeSlot t.disp) idle).cw n := by
  simp only [cwGet, h, if_true]; rfl

/-- A task that starts from a record. -/
theorem startTask_fresh (t : Tile) (r : TaskRec) : FreshTask t (startTask t r false) r := by
  obtain ⟨hpri, hnp, hidle⟩ := priWord_bits (Nat.mod_lt r.pri (by decide : 16 > 0)) r.np false
  refine ⟨rfl, rfl, rfl, rfl, rfl, freshThread_x t r _ false, fun n h0 hn => ?_, rfl, rfl, rfl, rfl, rfl, ?_, ?_, ?_, ?_, ?_, ?_, ?_, ?_, rfl⟩
  · have hp : (startTask t r false).th.p = 0 := rfl
    simp [pGet, hp, Nat.ne_of_gt h0]
  all_goals rw [startTask_cw t r false rfl, freshThread_cw]
  exacts [rfl, rfl, rfl, rfl, rfl, hpri, hnp, hidle]

/-! ## The dispatcher's choice -/

section choice
variable {t : Tile}

theorem dispatchTile_keeps (h : t.disp.running = true ∨ t.disp.finished = true) : dispatchTile t = t := if_pos h

variable (hr : t.disp.running = false) (hf : t.disp.finished = false)
include hr hf

theorem dispatchTile_fresh {r : TaskRec} {c : Nat} {q : List Ready} (h : t.disp.ready = .fresh r c :: q) :
    dispatchTile t = startTask (updDisp t (fun d => { d with ready := q })) r false := by
  simp [dispatchTile, hr, hf, h]

theorem dispatchTile_parked {no pri c : Nat} {q : List Ready} {f : Frame} (h : t.disp.ready = .parked no pri c :: q)
    (hfind : t.disp.frames.find? (fun g => g.no = no) = some f) :
    dispatchTile t = { t with th := resumeThread t.th f.th, began := false, idle := none, iss := Issue.empty,
                              disp := { t.disp with ready := q, frames := t.disp.frames.filter (fun g => g.no ≠ no), running := true,
                                                    slot := f.slot } } := by
  simp [dispatchTile, hr, hf, h, hfind]

theorem dispatchTile_saved {pri c k : Nat} {q : List Ready} {th : Thread} (h : t.disp.ready = .saved pri c :: q)
    (hcsa : t.disp.csa = some (th, k)) :
    dispatchTile t = { t with th := th, began := false, idle := none, iss := Issue.empty,
                              disp := { t.disp with ready := q, csa := none, running := true, slot := k } } := by
  simp [dispatchTile, hr, hf, h, hcsa]

theorem dispatchTile_deque {r : TaskRec} {ds : List TaskRec} (h : t.disp.ready = []) (hd : t.disp.deque = ds ++ [r]) :
    dispatchTile t = startTask (updDisp t (fun d => { d with deque := ds })) r false := by
  simp [dispatchTile, hr, hf, h, hd, updDisp]

theorem dispatchTile_idle (h : t.disp.ready = []) (hd : t.disp.deque = []) (hpc : t.disp.idlePc ≠ 0) (hi : t.disp.idled = false) :
    dispatchTile t
      = startTask t { np := false, pri := 0, pc := t.disp.idlePc, wid := t.disp.initial.wid, vt := t.disp.initial.vt, args := [] } true := by
  rw [dispatchTile, if_neg (by simp [hr, hf])]
  simp only [h, hd, List.getLast?_nil]
  exact if_pos ⟨hpc, hi⟩

theorem dispatchTile_finishes (h : t.disp.ready = []) (hd : t.disp.deque = []) (hno : t.disp.idlePc = 0 ∨ t.disp.idled = true)
    (hfr : t.disp.frames = []) (hcsa : t.disp.csa = none) : dispatchTile t = updDisp t (fun d => { d with finished := true }) := by
  have hidle : ¬(t.disp.idlePc ≠ 0 ∧ t.disp.idled = false) := by
    rintro ⟨hpc, hi⟩
    rcases hno with h0 | h1
    · exact hpc h0
    · rw [hi] at h1; cases h1
  simp only [dispatchTile, hr, hf, h, hd, hidle, hfr, hcsa]
  rfl

end choice

end Sys2Proof.Machine
end
section
/-! PROOFS. A rollback (R305 to R307). -/

namespace Sys2Proof.Machine

open Sys2Proof

/-! ## Fields of a counter -/

theorem testBit_bitsOf {w : Nat} (v : BitVec w) (lo n i : Nat) : (bitsOf v lo n).testBit i = (decide (i < n) && v.getLsbD (lo + i)) := by
  simp [bitsOf, Nat.testBit_mod_two_pow, Nat.testBit_shiftRight, BitVec.testBit_toNat]

/-- A field written reads back; a field beside it reads as before. -/
theorem bitsOf_setBits_same {w : Nat} (v : BitVec w) (lo n x : Nat) (h : lo + n ≤ w) : bitsOf (setBits v lo n x) lo n = x % 2 ^ n := by
  apply Nat.eq_of_testBit_eq
  intro i
  rw [testBit_bitsOf, Nat.testBit_mod_two_pow]
  by_cases hi : i < n
  · rw [getLsbD_setBits _ _ _ _ _ (by omega), if_pos (by omega), Nat.add_sub_cancel_left]
  · simp [hi]

theorem bitsOf_setBits_other {w : Nat} (v : BitVec w) (lo n x lo' n' : Nat) (hw : lo' + n' ≤ w) (h : lo' + n' ≤ lo ∨ lo + n ≤ lo') :
    bitsOf (setBits v lo n x) lo' n' = bitsOf v lo' n' := by
  apply Nat.eq_of_testBit_eq
  intro i
  rw [testBit_bitsOf, testBit_bitsOf]
  by_cases hi : i < n'
  · rw [getLsbD_setBits _ _ _ _ _ (by omega), if_neg (by omega)]
  · simp [hi]

theorem countCw_same (t : Tile) (n lo : Nat) (h : lo + 32 ≤ 64) :
    bitsOf (cwGet (countCw t n lo) n) lo 32 = min 0xFFFFFFFF (bitsOf (cwGet t n) lo 32 + 1) := by
  simp only [countCw, bumpCw, cwGet_cwPut, if_true, bitsOf_setBits_same _ _ _ _ h]
  omega

theorem countCw_beside (t : Tile) (n lo lo' : Nat) (hw : lo' + 32 ≤ 64) (h : lo' + 32 ≤ lo ∨ lo + 32 ≤ lo') :
    bitsOf (cwGet (countCw t n lo) n) lo' 32 = bitsOf (cwGet t n) lo' 32 := by
  simp only [countCw, bumpCw, cwGet_cwPut, if_true, bitsOf_setBits_other _ _ _ _ _ _ hw h]

/-! ## Stores and masks filled cell by cell -/

theorem cellSets_append {w : Nat} (m : Store w) (l k : List (Nat × BitVec w)) : cellSets m (l ++ k) = cellSets (cellSets m l) k := by
  induction l generalizing m with
  | nil => rfl
  | cons p r ih => exact ih _

/-- Setting the cells of a list for which a condition holds. -/
theorem cellGet_foldl_set {w : Nat} (c : Nat → Bool) (f : Nat → BitVec w) (l : List Nat) (m : Store w) (n : Nat) :
    cellGet (l.foldl (fun st r => if c r then cellSet st r (f r) else st) m) n = if n ∈ l ∧ c n = true then f n else cellGet m n := by
  induction l generalizing m with
  | nil => simp
  | cons r q ih =>
    rw [List.foldl_cons, ih]
    by_cases hr : n = r
    · subst hr
      by_cases hc : c n = true
      · simp [hc, cellGet_set]
      · simp [hc]
    · have hset : cellGet (if c r then cellSet m r (f r) else m) n = cellGet m n := by
        split
        · exact cellGet_set_ne m _ hr
        · rfl
      simp [hset, hr]

/-- The number whose bits below 32 are the numbers for which a condition holds. -/
theorem testBit_maskSum (c : Nat → Bool) (k i : Nat) :
    ((upto k).foldl (fun n r => if c r then n + 2 ^ r else n) 0) < 2 ^ k
      ∧ ((upto k).foldl (fun n r => if c r then n + 2 ^ r else n) 0).testBit i = (decide (i < k) && c i) := by
  induction k with
  | zero => simp [upto]
  | succ k ih =>
    obtain ⟨hlt, hbit⟩ := ih
    simp only [upto, List.range_succ, List.foldl_append, List.foldl_cons, List.foldl_nil] at hlt hbit ⊢
    generalize (List.range k).foldl (fun n r => if c r then n + 2 ^ r else n) 0 = m at hlt hbit ⊢
    by_cases hc : c k = true
    · have hsum : m + 2 ^ k = 2 ^ k * 1 + m := by omega
      simp only [hc, if_true]
      refine ⟨by omega, ?_⟩
      rw [hsum, Nat.testBit_two_pow_mul_add 1 hlt]
      by_cases hi : i < k
      · rw [if_pos hi, hbit]
        simp [hi, Nat.lt_succ_of_lt hi]
      · rw [if_neg hi]
        by_cases hik : i = k
        · subst hik
          simp [hc]
        · rw [Nat.testBit_lt_two_pow (Nat.one_lt_two_pow (by omega))]
          simp [show ¬i < k + 1 by omega]
    · simp only [hc]
      refine ⟨Nat.lt_trans hlt (Nat.pow_lt_pow_right (by decide) (Nat.lt_succ_self k)), hbit.trans ?_⟩
      by_cases hik : i = k
      · subst hik
        simp [hc]
      · simp [show i < k ↔ i < k + 1 by omega]

/-! ## The frame restored into a context (R306) -/

/-- A register that waits at the waymark and that no undone operation was to write. -/
def keptReg (m : Waymark) (gone : List Reg) (r : Nat) : Bool := m.th.pend.getLsbD r && !gone.contains (BitVec.ofNat 5 r)

/-- What a register of the frame takes. -/
def frameReg (now : Thread) (m : Waymark) (gone : List Reg) (r : Nat) : W64 :=
  if keptReg m gone r then cellGet now.x r else if m.th.pend.getLsbD r then 0 else cellGet m.th.x r

theorem restoreFrame_x (now : Thread) (m : Waymark) (gone : List Reg) {n : Nat} (hn : n < 32) :
    cellGet (restoreFrame now m gone).x n = frameReg now m gone n := by
  have hx : (restoreFrame now m gone).x = (upto 32).foldl (fun st r => cellSet st r (frameReg now m gone r)) [] := by
    simp only [restoreFrame]
    exact List.foldl_ext _ _ _ fun st r _ => rfl
  have h := cellGet_foldl_set (fun _ => true) (frameReg now m gone) (upto 32) [] n
  simp only [show n ∈ upto 32 from List.mem_range.2 hn, and_self, if_true] at h
  rw [hx]
  exact h

theorem restoreFrame_v (now : Thread) (m : Waymark) (gone : List Reg) {n : Nat} (hn : n < 32) :
    cellGet (restoreFrame now m gone).v n = if (cellGet m.th.cw 0x008).getLsbD n then cellGet m.th.v n else cellGet now.v n := by
  have h := cellGet_foldl_set (fun r => (cellGet m.th.cw 0x008).getLsbD r) (cellGet m.th.v) (upto 32) now.v n
  simp only [show n ∈ upto 32 from List.mem_range.2 hn, true_and] at h
  exact h

theorem restoreFrame_pend (now : Thread) (m : Waymark) (gone : List Reg) {n : Nat} (hn : n < 32) :
    (restoreFrame now m gone).pend.getLsbD n = (now.pend.getLsbD n && keptReg m gone n) := by
  obtain ⟨-, h⟩ := testBit_maskSum (keptReg m gone) 32 n
  have hmask : (restoreFrame now m gone).pend
      = now.pend &&& BitVec.ofNat 32 ((upto 32).foldl (fun n r => if keptReg m gone r then n + 2 ^ r else n) 0) := rfl
  rw [hmask, BitVec.getLsbD_and, BitVec.getLsbD_ofNat, h]
  simp [hn]

theorem restoreFrame_cw (now : Thread) (m : Waymark) (gone : List Reg) {n : Nat}
    (hn : n ∈ [0x001, 0x002, 0x020, 0x021, 0x008, 0x070, 0x071, 0x111]) : cellGet (restoreFrame now m gone).cw n = cellGet m.th.cw n := by
  simp only [List.mem_cons, List.not_mem_nil, or_false] at hn
  rcases hn with rfl | rfl | rfl | rfl | rfl | rfl | rfl | rfl <;> simp [restoreFrame, markWords, cellSets, cellGet_set_eq]

/-- STATUS is that of the waymark with RB set. -/
theorem restoreFrame_status (now : Thread) (m : Waymark) (gone : List Reg) {b : Nat} (hb : b < 64) :
    (cellGet (restoreFrame now m gone).cw 0).getLsbD b = ((cellGet m.th.cw 0).getLsbD b || decide (b = 1)) := by
  have h : cellGet (restoreFrame now m gone).cw 0 = setBits (cellGet m.th.cw 0) 1 1 1 := by
    simp [restoreFrame, markWords, cellSets, cellGet_set_eq]
  rw [h, getLsbD_setBits _ _ _ _ _ hb]
  by_cases h1 : b = 1
  · subst h1; simp
  · rw [if_neg (by omega)]; simp [h1]

/-! ## The lines written back (R305) -/

/-- One old line is written back, its bad words with it. -/
def lineBack (bad : List Nat) (t : Tile) (p : Nat × BitVec 512) : Tile :=
  { sramWrite t false (atAddr (64 * p.1) (leBytes p.2.toNat 64)) with
    poison := (sramWrite t false (atAddr (64 * p.1) (leBytes p.2.toNat 64))).poison ++ bad.filter (fun w => w / 8 = p.1) }

theorem writeBack_eq (t : Tile) (gs : List Segment) : writeBack t gs = gs.foldl (fun t g => g.lines.foldl (lineBack g.bad) t) t := rfl

theorem sramWrite_plain_mem (t : Tile) (bs : List (Nat × Byte)) : (sramWrite t false bs).mem = cellSets t.mem bs := by
  rw [sramWrite, sramPut_mem, trailed, Bool.false_and, if_neg Bool.false_ne_true]

theorem lineBack_mem (bad : List Nat) (t : Tile) (p : Nat × BitVec 512) :
    (lineBack bad t p).mem = cellSets t.mem (atAddr (64 * p.1) (leBytes p.2.toNat 64)) := by
  simp only [lineBack, sramWrite_plain_mem]

theorem linesBack_mem (bad : List Nat) (ls : List (Nat × BitVec 512)) (t : Tile) :
    (ls.foldl (lineBack bad) t).mem = cellSets t.mem (ls.map (fun p => atAddr (64 * p.1) (leBytes p.2.toNat 64))).flatten := by
  induction ls generalizing t with
  | nil => rfl
  | cons p r ih => rw [List.foldl_cons, ih, List.map_cons, List.flatten_cons, cellSets_append, lineBack_mem]

theorem writeBack_mem (gs : List Segment) (t : Tile) :
    (writeBack t gs).mem = cellSets t.mem (((gs.map (·.lines)).flatten).map (fun p => atAddr (64 * p.1) (leBytes p.2.toNat 64))).flatten := by
  rw [writeBack_eq]
  induction gs generalizing t with
  | nil => rfl
  | cons g r ih =>
    rw [List.foldl_cons, ih, linesBack_mem, List.map_cons, List.flatten_cons, List.map_append, List.flatten_append, cellSets_append]

/-! ## What the steps of a rollback leave as it was -/

/-- The task, the control words, the virtual-time unit and the engines are as before. -/
structure SameContext (t u : Tile) : Prop where
  th : u.th = t.th
  cw : u.cw = t.cw
  vt : u.vt = t.vt
  eng : u.eng = t.eng

theorem SameContext.trans {t u v : Tile} (h : SameContext t u) (g : SameContext u v) : SameContext t v :=
  ⟨g.th.trans h.th, g.cw.trans h.cw, g.vt.trans h.vt, g.eng.trans h.eng⟩

theorem SameContext.foldl {α : Type} {f : Tile → α → Tile} (h : ∀ t a, SameContext t (f t a)) (l : List α) (t : Tile) :
    SameContext t (l.foldl f t) := by
  induction l generalizing t with
  | nil => exact ⟨rfl, rfl, rfl, rfl⟩
  | cons a r ih => exact (h t a).trans (ih _)

theorem benchLine_same (t : Tile) (l : Nat) : SameContext t (benchLine t l) := by
  unfold benchLine
  split
  · exact ⟨rfl, rfl, rfl, rfl⟩
  · split <;> exact ⟨rfl, rfl, rfl, rfl⟩

theorem sramWrite_plain_same (t : Tile) (bs : List (Nat × Byte)) : SameContext t (sramWrite t false bs) := by
  obtain ⟨h1, h2, h3, h4⟩ := SameContext.foldl benchLine_same (linesOf bs) t
  unfold sramWrite sramPut
  simp only [Bool.false_and, Bool.false_eq_true, if_false]
  exact ⟨h1, h2, h3, h4⟩

theorem lineBack_same (bad : List Nat) (t : Tile) (p : Nat × BitVec 512) : SameContext t (lineBack bad t p) := by
  unfold lineBack
  generalize atAddr (64 * p.1) (leBytes p.2.toNat 64) = bs
  obtain ⟨h1, h2, h3, h4⟩ := sramWrite_plain_same t bs
  exact ⟨h1, h2, h3, h4⟩

theorem linesBack_same (bad : List Nat) (ls : List (Nat × BitVec 512)) (t : Tile) : SameContext t (ls.foldl (lineBack bad) t) := by
  induction ls generalizing t with
  | nil => exact ⟨rfl, rfl, rfl, rfl⟩
  | cons p r ih =>
    rw [List.foldl_cons]
    exact (lineBack_same bad t p).trans (ih (lineBack bad t p))

theorem writeBack_same (gs : List Segment) (t : Tile) : SameContext t (writeBack t gs) := by
  rw [writeBack_eq]
  induction gs generalizing t with
  | nil => exact ⟨rfl, rfl, rfl, rfl⟩
  | cons g r ih =>
    rw [List.foldl_cons]
    exact (linesBack_same g.bad g.lines t).trans (ih _)

/-- The memory, the task, the virtual-time unit and the engines are as before, and the control words but for those of a list. -/
structure CountedIn (ns : List Nat) (t u : Tile) : Prop where
  mem : u.mem = t.mem
  th : u.th = t.th
  vt : u.vt = t.vt
  eng : u.eng = t.eng
  cw : ∀ n, n ∉ ns → cwGet u n = cwGet t n

theorem cwPut_counted (t : Tile) {n : Nat} (v : W64) (hn : cwOfTask n = false) : CountedIn [n] t (cwPut t n v) := by
  have h (k : Nat) (hk : k ∉ [n]) : cwGet (cwPut t n v) k = cwGet t k := by
    rw [cwGet_cwPut, if_neg (fun e => hk (List.mem_singleton.2 e))]
  refine ⟨cwPut_mem .., cwPut_th t v hn, ?_, ?_, h⟩ <;> (simp only [cwPut, hn]; rfl)

theorem tracePush_counted (t : Tile) (st : Nat) (extra : List (BitVec 32)) (now : Nat) : CountedIn [0x20B] t (tracePush t st extra now) := by
  unfold tracePush
  split
  · exact ⟨rfl, rfl, rfl, rfl, fun _ _ => rfl⟩
  · extract_lets delta ext ws
    split
    · exact cwPut_counted t _ rfl
    · exact ⟨rfl, rfl, rfl, rfl, fun _ _ => rfl⟩

theorem traceTo_counted (t : Tile) (st now : Nat) : CountedIn [0x20B] t (traceTo t st now) := by
  unfold traceTo
  split
  · exact ⟨rfl, rfl, rfl, rfl, fun _ _ => rfl⟩
  · obtain ⟨h1, h2, h3, h4, h5⟩ := tracePush_counted { t with dbg := { t.dbg with tstate := st } } st [] now
    exact ⟨h1, h2, h3, h4, h5⟩

/-! ## Anti-messages (R308) -/

/-- What the sending of anti-messages leaves as it was: all but ANTIS and the counts of messages. -/
structure AntiSent (t u : Tile) : Prop where
  mem : u.mem = t.mem
  th : u.th = t.th
  cw : ∀ n, n ≠ 0x034 → cwGet u n = cwGet t n
  segs : u.vt.segs = t.vt.segs
  log : u.vt.log = t.vt.log
  commits : u.vt.commits = t.vt.commits
  key : u.vt.key = t.vt.key
  six : u.vt.six = t.vt.six
  due : u.vt.due = t.vt.due
  hamper : u.eng.hamper = t.eng.hamper
  posted : u.eng.posted = t.eng.posted

theorem AntiSent.refl (t : Tile) : AntiSent t t := ⟨rfl, rfl, fun _ _ => rfl, rfl, rfl, rfl, rfl, rfl, rfl, rfl, rfl⟩

theorem AntiSent.trans {t u v : Tile} (h : AntiSent t u) (g : AntiSent u v) : AntiSent t v :=
  ⟨g.mem.trans h.mem, g.th.trans h.th, fun n hn => (g.cw n hn).trans (h.cw n hn), g.segs.trans h.segs, g.log.trans h.log,
    g.commits.trans h.commits, g.key.trans h.key, g.six.trans h.six, g.due.trans h.due, g.hamper.trans h.hamper, g.posted.trans h.posted⟩

theorem sendPkt_tile (s : State) (src dst plane : Nat) (p : Packet) : (sendPkt s src dst plane p).tile = s.tile := by
  unfold sendPkt
  split
  · rfl
  · split <;> rfl

/-- A packet that leaves changes the counts of messages alone. -/
theorem tileSend_sent (s : State) (dst plane : Nat) (p : Packet) :
    AntiSent s.tile (tileSend s dst plane p).tile ∧ cwGet (tileSend s dst plane p).tile 0x034 = cwGet s.tile 0x034 := by
  have h : (tileSend s dst plane p).tile = (stampAs s.tile.bench.colour s p).2.tile := sendPkt_tile ..
  rw [h]
  have he (b : Bool) : (if b then { s.tile.eng with msgOut := s.tile.eng.msgOut + 1 } else s.tile.eng).hamper = s.tile.eng.hamper
      ∧ (if b then { s.tile.eng with msgOut := s.tile.eng.msgOut + 1 } else s.tile.eng).posted = s.tile.eng.posted := by
    cases b <;> exact ⟨rfl, rfl⟩
  exact ⟨⟨rfl, rfl, fun _ _ => rfl, rfl, rfl, rfl, rfl, rfl, rfl, (he _).1, (he _).2⟩, rfl⟩

theorem countCw_sent (t : Tile) : AntiSent t (countCw t 0x034 0) := by
  obtain ⟨h1, h2, h3, h4, h5⟩ := cwPut_counted t (setBits (cwGet t 0x034) 0 32 (min 0xFFFFFFFF (bitsOf (cwGet t 0x034) 0 32 + 1))) (n := 0x034) rfl
  exact ⟨h1, h2, fun n hn => h5 n (fun e => hn (List.mem_singleton.1 e)), congrArg VTime.segs h3, congrArg VTime.log h3,
    congrArg VTime.commits h3, congrArg VTime.key h3, congrArg VTime.six h3, congrArg VTime.due h3, congrArg Engine.hamper h4,
    congrArg Engine.posted h4⟩

/-- An anti-message is counted, whether it leaves or not. -/
theorem sendAnti_sent (s : State) (e : LogEntry) : AntiSent s.tile (sendAnti s e).tile
    ∧ bitsOf (cwGet (sendAnti s e).tile 0x034) 0 32 = min 0xFFFFFFFF (bitsOf (cwGet s.tile 0x034) 0 32 + 1) := by
  have hc := countCw_sent s.tile
  have hn := countCw_same s.tile 0x034 0 (by decide)
  unfold sendAnti
  extract_lets u v v1 v2
  split
  · exact ⟨hc, hn⟩
  · obtain ⟨hv, hcw⟩ := tileSend_sent u (endOf u e.dst.toNat (dieOf u.tile.site)) 1 ⟨antiHdr u.tile e, []⟩
    have hsent := AntiSent.trans hc hv
    have hcount : bitsOf (cwGet v.tile 0x034) 0 32 = min 0xFFFFFFFF (bitsOf (cwGet s.tile 0x034) 0 32 + 1) := (congrArg (bitsOf · 0 32) hcw).trans hn
    split
    · obtain ⟨h1, h2, h3, h4, h5, h6, h7, h8, h9, h10, h11⟩ := hsent
      exact ⟨⟨h1, h2, h3, h4, h5, h6, h7, h8, h9, h10, h11⟩, hcount⟩
    · exact ⟨hsent, hcount⟩

theorem sendAntis_sent (es : List LogEntry) (s : State) : AntiSent s.tile (es.foldl sendAnti s).tile
    ∧ bitsOf (cwGet (es.foldl sendAnti s).tile 0x034) 0 32 = min 0xFFFFFFFF (bitsOf (cwGet s.tile 0x034) 0 32 + es.length) := by
  induction es generalizing s with
  | nil =>
    have hlt : bitsOf (cwGet s.tile 0x034) 0 32 < 2 ^ 32 := Nat.mod_lt _ (by decide)
    exact ⟨.refl _, by rw [List.foldl_nil, List.length_nil]; omega⟩
  | cons e r ih =>
    obtain ⟨h1, h2⟩ := sendAnti_sent s e
    obtain ⟨g1, g2⟩ := ih (sendAnti s e)
    refine ⟨h1.trans g1, ?_⟩
    rw [List.foldl_cons, g2, h2, List.length_cons]
    omega

/-! ## A tile whose engines hold nothing -/

theorem updEng_self {s : State} {f : Engine → Engine} (h : f s.tile.eng = s.tile.eng) : updEng s f = s := by
  simp only [updEng, h]

theorem flushSends_none {s : State} (hops : s.tile.eng.ops = []) (hsends : s.tile.eng.sends = []) : flushSends s = s := by
  have hup : updEng s (fun e => { e with ops := e.ops.filter (fun o => !isSendOp o) }) = s := by
    simp only [updEng, hops, List.filter_nil]
    rw [← hops]
  simp only [flushSends, hops, List.filter_nil, List.foldl_nil, hup, hsends]

theorem dropRanges_nil (s : State) : dropRanges s [] = s := by
  have h : s.tile.eng.ranges.filter (fun r => !([] : List Nat).contains r.id) = s.tile.eng.ranges := by simp
  simp only [dropRanges, freeRanges, h]

theorem dropUndone_none {s : State} (n : Nat) (hops : s.tile.eng.ops = []) (hwaits : s.tile.eng.waits = []) (hposted : s.tile.eng.posted = [])
    (hreqs : s.tile.eng.reqs = []) : dropUndone s n = ([], s) := by
  simp only [dropUndone, hops, hwaits, hposted, hreqs, List.filter_nil, List.map_nil, List.flatten_nil, List.append_nil, dropRanges_nil]
  rw [updEng_self (by simp)]

theorem settleOne_none {s : State} (hposted : s.tile.eng.posted = []) (hneg : ∀ x ∈ s.tile.eng.hamper, x.neg = false) (x : HamEntry) :
    settleOne s x = s := by
  unfold settleOne
  split
  · rfl
  · rename_i e he
    have hmem := List.mem_of_find?_eq_some he
    have hfirst : firstPosted s.tile e.hdr = none := by simp [firstPosted, hposted]
    simp only [hneg e hmem, hfirst, Bool.false_eq_true, if_false, ite_self]

/-- Without posted receives and waiting anti-messages nothing settles. -/
theorem settleHamper_none {s : State} (hposted : s.tile.eng.posted = []) (hneg : ∀ x ∈ s.tile.eng.hamper, x.neg = false) : settleHamper s = s := by
  unfold settleHamper
  generalize sortBy (fun a b => decide (a.seq ≤ b.seq)) s.tile.eng.hamper = l
  induction l with
  | nil => rfl
  | cons x r ih => rw [List.foldl_cons, settleOne_none hposted hneg, ih]

end Sys2Proof.Machine
end

section
namespace Sys2Proof.Machine

open Sys2Proof

/-! ## The steps of a rollback (R305) -/

/-- Steps 4 to 7: anti-messages for the undone sends, the consumed messages returned, the counts, the entries that wait. -/
def rollbackEnd (n : Nat) (sec : Bool) (undone : List LogEntry) (w : State) : State :=
  let s := undone.foldl sendAnti w
  let s := updEng s (fun e => { e with hamper := e.hamper.map (fun x => match x.consumed with
    | some k => if n ≤ k then { x with consumed := none } else x
    | none => x) })
  let t := countCw s.tile 0x033 0
  let s := settleHamper { s with tile := if sec then countCw t 0x033 32 else t }
  { s with tile := traceNote s.tile (hereCyc s) }

/-- The actions queued in the undone segments and not released. -/
def droppedCommits (t : Tile) (g : Segment) : List Commit := t.vt.commits.filter (fun c => decide (g.no ≤ c.seg) && !c.released)

/-- The lines saved in the undone segments. -/
def undoneLines (t : Tile) (g : Segment) : List (Nat × BitVec 512) := ((t.vt.segs.filter (fun h => decide (g.no ≤ h.no))).map (·.lines)).flatten

/-- What steps 1 to 3 make of a tile whose engines hold nothing. -/
structure Restored (t : Tile) (g : Segment) (u : Tile) : Prop where
  mem : u.mem = cellSets t.mem ((undoneLines t g).map (fun p => atAddr (64 * p.1) (leBytes p.2.toNat 64))).flatten
  th : u.th = restoreFrame { t.th with flights := [] } g.mark ((droppedCommits t g).map (·.op.tok))
  cw : ∀ n, cwOfTask n = false → n ∉ [0x030, 0x035, 0x20B] → cwGet u n = cwGet t n
  lvt : cwGet u 0x030 = g.mark.lvt
  segs : u.vt.segs = t.vt.segs.filter (fun h => decide (h.no < g.no))
  log : u.vt.log = t.vt.log.filter (fun e => decide (e.seg < g.no))
  commits : u.vt.commits = t.vt.commits.filter (fun c => !(droppedCommits t g).contains c)
  key : u.vt.key = g.mark.key
  six : u.vt.six = g.mark.six
  due : u.vt.due = []
  eng : u.eng.hamper = t.eng.hamper ∧ u.eng.posted = t.eng.posted

/-- The tile once the results in flight are gone and the undone lines are written back. -/
structure Written (t : Tile) (g : Segment) (u : Tile) : Prop where
  mem : u.mem = cellSets t.mem ((undoneLines t g).map (fun p => atAddr (64 * p.1) (leBytes p.2.toNat 64))).flatten
  th : u.th = { t.th with flights := [] }
  cw : ∀ n, cwOfTask n = false → n ≠ 0x20B → cellGet u.cw n = cwGet t n
  vt : u.vt = t.vt
  eng : u.eng.hamper = t.eng.hamper ∧ u.eng.posted = t.eng.posted

theorem writeBack_written {t u : Tile} {g : Segment} (ids : List Nat) (h : CountedIn [0x20B] { t with th := { t.th with flights := [] } } u)
    (heng : u.eng = t.eng) : Written t g (writeBack (freeRanges u ids) (u.vt.segs.filter (fun h => decide (g.no ≤ h.no)))) := by
  obtain ⟨hmem, hth, hvt, -, hcw⟩ := h
  obtain ⟨gth, gcw, gvt, geng⟩ := writeBack_same (u.vt.segs.filter (fun h => decide (g.no ≤ h.no))) (freeRanges u ids)
  refine ⟨?_, gth.trans hth, fun n hn hne => ?_, gvt.trans hvt, ?_⟩
  · rw [writeBack_mem, hvt]
    exact congrArg (cellSets · _) hmem
  · have h1 := hcw n (fun e => hne (List.mem_singleton.1 e))
    simp only [cwGet, hn] at h1 ⊢
    rw [gcw]
    exact h1
  · rw [geng, ← heng]
    exact ⟨rfl, rfl⟩

/-- The frame, the lists of the virtual-time unit and the LVT of the waymark are put in place (R305 step 3, R306). -/
theorem restored_of_written {t t1 t2 : Tile} {g : Segment} (wayvt : W64) (h : Written t g t1) (hmem : t2.mem = t1.mem)
    (hth : t2.th = restoreFrame t1.th g.mark ((droppedCommits t g).map (·.op.tok))) (hcw : t2.cw = t1.cw) (heng : t2.eng = t1.eng)
    (hvt : t2.vt = { t1.vt with segs := t1.vt.segs.filter (fun h => decide (h.no < g.no)), key := g.mark.key, six := g.mark.six, due := [],
                                log := t1.vt.log.filter (fun e => decide (e.seg < g.no)),
                                commits := t1.vt.commits.filter (fun c => !(droppedCommits t g).contains c) }) :
    Restored t g (cwPut (cwPut t2 0x030 g.mark.lvt) 0x035 wayvt) := by
  obtain ⟨wmem, wth, wcw, wvt, weng⟩ := h
  have h1 := cwPut_counted t2 g.mark.lvt (n := 0x030) rfl
  have h2 := cwPut_counted (cwPut t2 0x030 g.mark.lvt) wayvt (n := 0x035) rfl
  have hvt' := (h2.vt.trans h1.vt).trans hvt
  rw [wvt] at hvt'
  refine ⟨h2.mem.trans (h1.mem.trans (hmem.trans wmem)), h2.th.trans (h1.th.trans (hth.trans (by rw [wth]))), fun k hk hn => ?_, ?_, by rw [hvt'],
    by rw [hvt'], by rw [hvt'], by rw [hvt'], by rw [hvt'], by rw [hvt'], by rw [h2.eng, h1.eng, heng]; exact weng⟩
  · have hne (m : Nat) (hm : m ∈ [0x030, 0x035, 0x20B]) : k ∉ [m] := fun e => hn (List.mem_singleton.1 e ▸ hm)
    rw [h2.cw k (hne _ (by decide)), h1.cw k (hne _ (by decide)), cwGet, hk, hcw]
    exact wcw k hk (fun e => hne 0x20B (by decide) (List.mem_singleton.2 e))
  · rw [h2.cw 0x030 (by decide), cwGet_cwPut, if_pos rfl]

/-- A rollback of a tile whose engines hold nothing is its steps 1 to 3, then 4 to 7. -/
theorem doRollback_steps {s : State} {g : Segment} {sec : Bool} (ht : rollbackTarget s.tile = some (g, sec)) (hops : s.tile.eng.ops = [])
    (hsends : s.tile.eng.sends = []) (hposted : s.tile.eng.posted = []) (hreqs : s.tile.eng.reqs = []) (hwaits : s.tile.eng.waits = [])
    (hlate : s.tile.th.late = []) :
    ∃ w : State, Restored s.tile g w.tile
      ∧ doRollback s = rollbackEnd g.no sec (s.tile.vt.log.filter (fun e => decide (g.no ≤ e.seg))) w := by
  have htr := traceTo_counted s.tile 4 (hereCyc s)
  unfold doRollback
  split
  · rename_i h
    rw [ht] at h
    cases h
  · rename_i g' sec' h
    obtain ⟨rfl, rfl⟩ : g = g' ∧ sec = sec' := by simpa using ht.symm.trans h
    extract_lets n s1 undone sent late s2 src1 src2 s3 loose
    have heng : s1.tile.eng = s.tile.eng := htr.eng
    have hs2 : s2 = s1 := flushSends_none (heng ▸ hops) (heng ▸ hsends)
    have hsent : sent.map (·.tok) = [] := by
      have h0 : s1.tile.eng.sends = [] := heng ▸ hsends
      simp only [sent, h0, List.filter_nil, List.map_nil]
    have hlate' : late = [] := by
      have h0 : s1.tile.eng.ops = [] := heng ▸ hops
      simp only [late, h0, List.filter_nil, List.map_nil]
    have hundone : undone = s.tile.vt.log.filter (fun e => decide (g.no ≤ e.seg)) := by
      have h0 : s1.tile.vt = s.tile.vt := htr.vt
      simp only [undone, h0, n]
    have h3 : CountedIn [0x20B] { s.tile with th := { s.tile.th with flights := [] } } s3.tile := by
      obtain ⟨h1, h2, h3, h4, h5⟩ := htr
      have hth : s3.tile.th = settleLate { s1.tile.th with flights := [] } := by rw [← hs2]
      have hrest : s3.tile = { s1.tile with th := s3.tile.th } := by rw [← hs2]
      have hth' : s3.tile.th = { s.tile.th with flights := [] } := by
        rw [hth, settleLate_none (by rw [h2]; exact hlate), h2]
      refine ⟨by rw [hrest]; exact h1, hth', by rw [hrest]; exact h3, by rw [hrest]; exact h4, fun n hn => ?_⟩
      have hcw : s3.tile.cw = s1.tile.cw := by rw [hrest]
      have hget := h5 n hn
      simp only [cwGet, h2] at hget
      simp only [cwGet, hth', hcw]
      exact hget
    have heng3 : s3.tile.eng = s.tile.eng := h3.eng
    have hloose : loose = [] := by
      have h0 : s3.tile.eng.posted = [] := heng3 ▸ hposted
      simp only [loose, looseBytes, h0, List.filter_nil, List.map_nil, List.flatten_nil]
    have hdrop : dropUndone s3 n = ([], s3) := dropUndone_none n (heng3 ▸ hops) (heng3 ▸ hwaits) (heng3 ▸ hposted) (heng3 ▸ hreqs)
    clear_value s3 loose
    subst hloose
    split
    rename_i toks s3' hsplit
    obtain ⟨rfl, rfl⟩ := Prod.mk.inj (hdrop.symm.trans hsplit)
    extract_lets cs s4 gone s5 t1 segs wayvt b d v t2 t3 w1 w2 t4 w3
    refine ⟨{ s5 with tile := t3 }, ?_, by rw [← hundone]; rfl⟩
    have hcs : cs = droppedCommits s.tile g := by
      have h0 : s3.tile.vt = s.tile.vt := h3.vt
      simp only [cs, h0, n, droppedCommits]
    have hgone : gone = (droppedCommits s.tile g).map (·.op.tok) := by
      simp only [gone, hsent, hlate', hcs, List.nil_append]
    have hw : Written s.tile g t1 := by
      rw [show t1 = writeBack s4.tile (s4.tile.vt.segs.filter (fun h => decide (n ≤ h.no))) from congrArg State.tile (if_pos rfl)]
      exact writeBack_written _ h3 heng3
    exact restored_of_written _ hw rfl (by rw [← hgone]) rfl rfl (by rw [← hcs])

/-- A message that a segment from `n` on has consumed is returned. -/
def returned (n : Nat) (x : HamEntry) : HamEntry := match x.consumed with
  | some k => if n ≤ k then { x with consumed := none } else x
  | none => x

theorem returned_neg (n : Nat) (x : HamEntry) : (returned n x).neg = x.neg := by
  unfold returned
  split
  · split <;> rfl
  · rfl

/-- What steps 4 to 7 make of a tile: the counts, the messages returned, and nothing else of what is named here. -/
structure Ended (n : Nat) (sec : Bool) (sends : Nat) (t u : Tile) : Prop where
  mem : u.mem = t.mem
  th : u.th = t.th
  cw : ∀ k, k ∉ [0x033, 0x034, 0x20B] → cwGet u k = cwGet t k
  antis : bitsOf (cwGet u 0x034) 0 32 = min 0xFFFFFFFF (bitsOf (cwGet t 0x034) 0 32 + sends)
  rolls : bitsOf (cwGet u 0x033) 0 32 = min 0xFFFFFFFF (bitsOf (cwGet t 0x033) 0 32 + 1)
  secondary : bitsOf (cwGet u 0x033) 32 32 = min 0xFFFFFFFF (bitsOf (cwGet t 0x033) 32 32 + (if sec then 1 else 0))
  segs : u.vt.segs = t.vt.segs
  log : u.vt.log = t.vt.log
  commits : u.vt.commits = t.vt.commits
  key : u.vt.key = t.vt.key
  six : u.vt.six = t.vt.six
  due : u.vt.due = t.vt.due
  hamper : u.eng.hamper = t.eng.hamper.map (returned n)

theorem countCw_counted (t : Tile) {n : Nat} (lo : Nat) (hn : cwOfTask n = false) : CountedIn [n] t (countCw t n lo) := cwPut_counted t _ hn

/-- ROLLS counts the rollback, and one that an anti-message causes in its upper half too. -/
theorem countRoll (t : Tile) (sec : Bool) :
    CountedIn [0x033] t (if sec then countCw (countCw t 0x033 0) 0x033 32 else countCw t 0x033 0)
    ∧ bitsOf (cwGet (if sec then countCw (countCw t 0x033 0) 0x033 32 else countCw t 0x033 0) 0x033) 0 32
        = min 0xFFFFFFFF (bitsOf (cwGet t 0x033) 0 32 + 1)
    ∧ bitsOf (cwGet (if sec then countCw (countCw t 0x033 0) 0x033 32 else countCw t 0x033 0) 0x033) 32 32
        = min 0xFFFFFFFF (bitsOf (cwGet t 0x033) 32 32 + (if sec then 1 else 0)) := by
  obtain ⟨h1, h2, h3, h4, h5⟩ := countCw_counted t 0 (n := 0x033) rfl
  have low := countCw_same t 0x033 0 (by decide)
  have high : bitsOf (cwGet (countCw t 0x033 0) 0x033) 32 32 = bitsOf (cwGet t 0x033) 32 32 := countCw_beside t 0x033 0 32 (by decide) (.inr (by decide))
  cases sec with
  | false =>
    have hlt : bitsOf (cwGet t 0x033) 32 32 < 2 ^ 32 := Nat.mod_lt _ (by decide)
    refine ⟨⟨h1, h2, h3, h4, h5⟩, low, ?_⟩
    simp only [Bool.false_eq_true, if_false, high]
    omega
  | true =>
    obtain ⟨g1, g2, g3, g4, g5⟩ := countCw_counted (countCw t 0x033 0) 32 (n := 0x033) rfl
    refine ⟨⟨g1.trans h1, g2.trans h2, g3.trans h3, g4.trans h4, fun k hk => (g5 k hk).trans (h5 k hk)⟩, ?_, ?_⟩
    · exact (countCw_beside (countCw t 0x033 0) 0x033 32 0 (by decide) (.inl (by decide))).trans low
    · exact (countCw_same (countCw t 0x033 0) 0x033 32 (by decide)).trans (by rw [high]; rfl)

theorem rollbackEnd_ended (n : Nat) (sec : Bool) (undone : List LogEntry) {w : State} (hposted : w.tile.eng.posted = [])
    (hneg : ∀ x ∈ w.tile.eng.hamper, x.neg = false) : Ended n sec undone.length w.tile (rollbackEnd n sec undone w).tile := by
  obtain ⟨hs, hanti⟩ := sendAntis_sent undone w
  unfold rollbackEnd
  extract_lets s1 s2 t s3
  have h2 : s2.tile.eng.hamper = w.tile.eng.hamper.map (returned n) := congrArg (List.map (returned n)) hs.hamper
  obtain ⟨hc, hlow, hhigh⟩ := countRoll s2.tile sec
  have h3 : s3 = { s2 with tile := if sec then countCw t 0x033 32 else t } := by
    refine settleHamper_none ?_ fun x hx => ?_
    · exact (congrArg Engine.posted hc.eng).trans (hs.posted.trans hposted)
    · rw [show (if sec then countCw t 0x033 32 else t).eng.hamper = _ from (congrArg Engine.hamper hc.eng).trans h2] at hx
      obtain ⟨y, hy, rfl⟩ := List.mem_map.1 hx
      rw [returned_neg]
      exact hneg y hy
  have ht : s3.tile = if sec then countCw t 0x033 32 else t := by rw [h3]
  obtain ⟨c1, c2, c3, c4, c5⟩ : CountedIn [0x033] s2.tile s3.tile := by rw [ht]; exact hc
  rw [← ht] at hlow hhigh
  obtain ⟨n1, n2, n3, n4, n5⟩ : CountedIn [0x20B] s3.tile (traceNote s3.tile (hereCyc s3)) := traceTo_counted ..
  have hvt : (traceNote s3.tile (hereCyc s3)).vt = s1.tile.vt := n3.trans c3
  have hcw (k : Nat) (h33 : k ≠ 0x033) (h20 : k ≠ 0x20B) : cwGet (traceNote s3.tile (hereCyc s3)) k = cwGet s1.tile k :=
    (n5 k (fun e => h20 (List.mem_singleton.1 e))).trans (c5 k (fun e => h33 (List.mem_singleton.1 e)))
  have h33 : cwGet (traceNote s3.tile (hereCyc s3)) 0x033 = cwGet s3.tile 0x033 := n5 0x033 (by decide)
  have hold : cwGet s2.tile 0x033 = cwGet w.tile 0x033 := hs.cw 0x033 (by decide)
  refine ⟨n1.trans (c1.trans hs.mem), n2.trans (c2.trans hs.th), fun k hk => ?_, ?_, ?_, ?_, (congrArg VTime.segs hvt).trans hs.segs,
    (congrArg VTime.log hvt).trans hs.log, (congrArg VTime.commits hvt).trans hs.commits, (congrArg VTime.key hvt).trans hs.key,
    (congrArg VTime.six hvt).trans hs.six, (congrArg VTime.due hvt).trans hs.due, (congrArg Engine.hamper (n4.trans c4)).trans h2⟩
  · simp only [List.mem_cons, List.not_mem_nil, or_false, not_or] at hk
    obtain ⟨hk33, hk34, hk20⟩ := hk
    exact (hcw k hk33 hk20).trans (hs.cw k hk34)
  · exact (congrArg (bitsOf · 0 32) (hcw 0x034 (by decide) (by decide))).trans hanti
  · exact (congrArg (bitsOf · 0 32) h33).trans (hlow.trans (by rw [hold]))
  · exact (congrArg (bitsOf · 32 32) h33).trans (hhigh.trans (by rw [hold]))

end Sys2Proof.Machine
end

section
namespace Sys2Proof

open Machine

/-- Settles O52: the landings, the ready queue and the dispatcher by their cases, the rollback by its steps. -/
theorem landingsDispatchAndRollback : Obligations.LandingsDispatchAndRollback := by
  unfold Obligations.LandingsDispatchAndRollback
  refine ⟨fun t now hb => if_pos hb, fun t now hb hl hf => beginCycle_lands now hb hl hf, insertReady_stands, fun t h => dispatchTile_keeps h,
    fun t r c q no pri f th k ds hr hf => ?_, fun s g anti ht hops hsends hposted hreqs hwaits hlate hwf hham => ?_⟩
  · intro u fresh
    refine ⟨fun h => ?_, fun h hfind => ?_, fun h hcsa => ?_, fun h hd => ?_, fun h hd hpc hi => ?_, fun h hd hno hfr hcsa => ?_⟩
    · have hu : u = startTask (updDisp t (fun d => { d with ready := q })) r false := dispatchTile_fresh hr hf h
      have hfresh : FreshTask t u r := by rw [hu]; exact startTask_fresh (updDisp t (fun d => { d with ready := q })) r
      exact ⟨hfresh, by rw [hu]; rfl, by rw [hu]; rfl⟩
    · have hu : u = _ := dispatchTile_parked hr hf h hfind
      clear_value u
      subst hu
      exact ⟨rfl, rfl, rfl, rfl, rfl, rfl, rfl, rfl, rfl, rfl, rfl, rfl, rfl, rfl, rfl⟩
    · have hu : u = _ := dispatchTile_saved hr hf h hcsa
      clear_value u
      subst hu
      exact ⟨rfl, rfl, rfl, rfl, rfl, rfl⟩
    · have hu : u = startTask (updDisp t (fun d => { d with deque := ds })) r false := dispatchTile_deque hr hf h hd
      have hfresh : FreshTask t u r := by rw [hu]; exact startTask_fresh (updDisp t (fun d => { d with deque := ds })) r
      exact ⟨hfresh, by rw [hu]; rfl⟩
    · have hu := dispatchTile_idle hr hf h hd hpc hi
      obtain ⟨-, -, hidle⟩ := priWord_bits (by decide : 0 < 16) false true
      refine ⟨by rw [show u = _ from hu]; rfl, by rw [show u = _ from hu]; rfl, ?_, ?_⟩
      · rw [show u = _ from hu, startTask_cw _ _ _ rfl, freshThread_cw]; rfl
      · rw [show u = _ from hu, startTask_cw _ _ _ rfl, freshThread_cw]; exact hidle
    · have hu := dispatchTile_finishes hr hf h hd hno hfr hcsa
      exact ⟨by rw [show u = _ from hu]; rfl, by rw [show u = _ from hu]; exact hr⟩
  · intro t undone dropped lines
    obtain ⟨w, hw, heq⟩ := doRollback_steps ht hops hsends hposted hreqs hwaits hlate
    have he : Ended g.no anti undone.length w.tile t := by
      show Ended g.no anti undone.length w.tile (doRollback s).tile
      rw [heq]
      exact rollbackEnd_ended _ _ _ (hw.eng.2.trans hposted) (fun x hx => (hham x (hw.eng.1 ▸ hx)).1)
    have hth : t.th = restoreFrame { s.tile.th with flights := [] } g.mark (dropped.map (·.op.tok)) := he.th.trans hw.th
    have htask {n : Nat} (hn : cwOfTask n = true) : cwGet t n = cellGet t.th.cw n := by simp only [cwGet, hn, if_true]
    have hkeep {n : Nat} (hp : g.mark.th.pend.getLsbD n = false) : keptReg g.mark (dropped.map (·.op.tok)) n = false := by
      simp only [keptReg, hp, Bool.false_and]
    have hkept {n : Nat} (hn : n < 32) (hp : g.mark.th.pend.getLsbD n = true) (hd : ∀ c ∈ dropped, c.op.tok.toNat ≠ n) :
        keptReg g.mark (dropped.map (·.op.tok)) n = true := by
      have hout : BitVec.ofNat 5 n ∉ dropped.map (·.op.tok) := fun hin => by
        obtain ⟨c, hc, hcn⟩ := List.mem_map.1 hin
        exact hd c hc (by rw [hcn, BitVec.toNat_ofNat, Nat.mod_eq_of_lt hn])
      simp [keptReg, hp, hout]
    refine ⟨fun a => ?_, by rw [hth]; rfl, by rw [hth]; rfl, by rw [hth]; rfl, by rw [hth]; rfl, by rw [hth]; rfl, by rw [hth]; rfl,
      by rw [hth]; rfl, by rw [hth]; rfl, fun n h0 hn hp => ?_, fun n h0 hn hp hd => ?_, fun n hn hp => ?_, by rw [hth]; rfl, by rw [hth]; rfl,
      fun n hn => ?_, by rw [hth]; rfl, fun n hn => ?_, fun b hb => ?_, fun n hn => ?_, ?_, he.key.trans hw.key, he.six.trans hw.six,
      he.segs.trans hw.segs, he.log.trans hw.log, he.commits.trans hw.commits, he.due.trans hw.due, ?_, ?_, ?_, ?_⟩
    · rw [he.mem, hw.mem, cellGet_sets]; rfl
    · rw [hth, restoreFrame_x _ _ _ hn, frameReg, hkeep hp, hp]; rfl
    · rw [hth, restoreFrame_x _ _ _ hn, restoreFrame_pend _ _ _ hn, frameReg, hkept hn hp hd]
      exact ⟨rfl, Bool.and_true _⟩
    · rw [hth, restoreFrame_pend _ _ _ hn, hkeep hp, Bool.and_false]
    · rw [hth, restoreFrame_v _ _ _ hn]
    · have hcwOf : cwOfTask n = true := by
        simp only [List.mem_cons, List.not_mem_nil, or_false] at hn
        rcases hn with rfl | rfl | rfl | rfl | rfl | rfl | rfl | rfl <;> rfl
      rw [htask hcwOf, hth, restoreFrame_cw _ _ _ hn]
    · rw [htask rfl, hth, restoreFrame_status _ _ _ hb]
    · have hrange : cwOfTask n = false ∧ n ∉ [0x030, 0x035, 0x20B] ∧ n ∉ [0x033, 0x034, 0x20B] := by
        simp only [List.mem_cons, List.not_mem_nil, or_false] at hn
        rcases hn with rfl | rfl | rfl | rfl | rfl | rfl | rfl <;> decide
      obtain ⟨hcwOf, hlow, hhigh⟩ := hrange
      exact (he.cw n hhigh).trans (hw.cw n hcwOf hlow)
    · exact (he.cw 0x030 (by decide)).trans hw.lvt
    · exact he.antis.trans (by rw [hw.cw 0x034 rfl (by decide)])
    · exact he.rolls.trans (by rw [hw.cw 0x033 rfl (by decide)])
    · exact he.secondary.trans (by rw [hw.cw 0x033 rfl (by decide)])
    · rw [he.hamper, hw.eng.1]; rfl

end Sys2Proof
end

section
/-! PROOFS. Steps of the routers, links and fences, of results, traps, tasks and virtual time (O58). -/

namespace Sys2Proof.Machine

open Sys2Proof

/-! ## Boundaries -/

theorem drainRead_clean {s : State} (hs : s.tile.soft = []) (hp : s.tile.poison = []) : drainRead s = s := if_pos (.inr ⟨hs, hp⟩)

theorem reachBoundary_clean {s : State} (hs : s.tile.soft = []) (hp : s.tile.poison = []) :
    reachBoundary s = { s with tile := beginCycle s.tile (hereCyc s) } := by
  unfold reachBoundary
  rw [drainRead_clean hs hp]

/-- The tile as a trap for an asynchronous cause finds it: the cause is pending no more, and the cause ends a wait for SYNC. -/
def asyncTaken (t : Tile) (c : Nat) : Tile :=
  updDisp { t with asyncs := t.asyncs.filter (fun p => p.1 ≠ c), stall := none } (fun d => { d with sync := none })

/-- The pending asynchronous cause of the lowest code is taken. -/
theorem takeAsync_lowest {s : State} {c : Nat} {x : W64} (h : lowestAsync s.tile = some (c, x)) :
    takeAsync s = takeTrap { s with tile := asyncTaken s.tile c } c x s.tile.th.pc := by
  unfold takeAsync
  rw [h]
  rfl

theorem dequeIdle_iff (d : Dispatcher) (now : Nat) :
    dequeIdle d now = true ↔ d.served ≠ some now ∧ d.popped ≠ some now ∧ ∀ y ∈ d.pushed, y.1 ≠ now := by
  cases hp : d.pushed <;> simp [dequeIdle, hp, and_assoc]

/-! ## The barrier (R110) -/

theorem foldl_max_le {α : Type} (f : α → Nat) {m : Nat} (l : List α) (n : Nat) (hn : n ≤ m) (h : ∀ a ∈ l, f a ≤ m) :
    l.foldl (fun n a => max n (f a)) n ≤ m := by
  induction l generalizing n with
  | nil => exact hn
  | cons a r ih => exact ih _ (max_le hn (h a (List.mem_cons_self ..))) (fun b hb => h b (List.mem_cons_of_mem _ hb))

/-- SYNC is released once every tile of the partition has waited for 64 cycles. -/
theorem execSyncRelease_due {s : State} {pid : Nat} {q : Partn} (hq : partnOf s pid = some q) (hrun : q.st = .running)
    (hall : ∀ t ∈ allTiles s, q.sites.contains t.site = true → t.dbg.gang = false ∧ t.disp.running = true ∧ t.disp.release = none
      ∧ ∃ x, t.disp.sync = some x ∧ x + 64 ≤ s.cyc) (hcyc : 64 ≤ s.cyc) :
    execSyncRelease pid s = .next (mapPartn s pid (fun t => updDisp t (fun d => { d with sync := none, release := none }))) := by
  have hts : ∀ t ∈ (allTiles s).filter (fun t => q.sites.contains t.site), t.dbg.gang = false ∧ t.disp.running = true ∧ t.disp.release = none
      ∧ ∃ x, t.disp.sync = some x ∧ x + 64 ≤ s.cyc := fun t ht => hall t (List.mem_filter.1 ht).1 (List.mem_filter.1 ht).2
  unfold execSyncRelease
  rw [hq]
  dsimp only
  generalize (allTiles s).filter (fun t => q.sites.contains t.site) = ts at hts ⊢
  have hgang : ts.any (fun t => t.dbg.gang) = false := List.any_eq_false.2 fun t ht => by simp [(hts t ht).1]
  have hwait : ts.all (fun t => t.disp.sync.isSome && t.disp.running) = true := List.all_eq_true.2 fun t ht => by
    obtain ⟨-, hr, -, x, hx, -⟩ := hts t ht
    simp [hr, hx]
  have hlast : ts.foldl (fun n t => max n (t.disp.sync.getD 0)) 0 ≤ s.cyc - 64 := foldl_max_le _ ts 0 (Nat.zero_le _) fun t ht => by
    obtain ⟨-, -, -, x, hx, hle⟩ := hts t ht
    rw [hx, Option.getD_some]
    omega
  have hrel : ts.findSome? (fun t => t.disp.release) = none := List.findSome?_eq_none_iff.2 fun t ht => (hts t ht).2.2.1
  rw [if_pos]
  refine ⟨hrun, by rw [hgang]; rfl, hwait, ?_⟩
  rw [hrel, Option.getD_none]
  omega

/-! ## Halo rows (R244, R245) -/

/-- Bytes of a row land over a memory without bad bits; nothing else named here changes. -/
structure HaloLanded (bs : List (Nat × Byte)) (s t : State) : Prop where
  net : t.net = s.net
  mem : t.tile.mem = cellSets s.tile.mem bs
  eng : t.tile.eng = s.tile.eng
  cw : ∀ n, cwGet t.tile n = cwGet s.tile n

theorem storeRead_clean {s : State} (hs : s.tile.soft = []) (bs : List (Nat × Byte)) : storeRead s bs = s := if_pos hs

theorem haloBytesLand_landed {s : State} (src : Nat) (bs : List (Nat × Byte)) (hs : s.tile.soft = []) : HaloLanded bs s (haloBytesLand src bs s) := by
  unfold haloBytesLand
  split
  · rename_i h
    rw [h]
    exact ⟨rfl, rfl, rfl, fun _ => rfl⟩
  · obtain ⟨hth, hcw, -, heng⟩ := sramWrite_plain_same s.tile bs
    have hmem := sramWrite_plain_mem s.tile bs
    rw [storeRead_clean hs]
    exact ⟨rfl, hmem, heng, cwGet_congr hth hcw⟩

/-- A row joins those that are landing. -/
def rowJoined (s : State) (r : HaloRow) : State := updEng s (fun e => { e with halos := e.halos ++ [r] })

theorem haloLand_joined (src : Nat) (p : Packet) (s : State) : haloLand src p s = haloDrip (rowJoined s
    ⟨src, s.cyc, ltSpanOk s.tile (haloEntry p), if ltSpanOk s.tile (haloEntry p) then haloBytes p else []⟩) := rfl

/-- The only row that is landing: some of its bytes land, the others stay. -/
theorem haloDrip_one {s : State} {r : HaloRow} (hr : s.tile.eng.halos = [r]) (hs : s.tile.soft = []) :
    (haloDrip s).tile.eng.halos = [{ r with left := dripLater s.free r }] ∧ (haloDrip s).net = s.net
      ∧ (haloDrip s).tile.mem = cellSets s.tile.mem (dripNow s.free r) := by
  unfold haloDrip
  simp only [hr, List.all_cons, List.all_nil, Bool.and_true, List.foldl_cons, List.foldl_nil]
  split
  · rename_i he
    have hb : r.left = [] := List.isEmpty_iff.1 he
    have hlater : dripLater s.free r = [] := by rw [dripLater, hb]; rfl
    have hnow : dripNow s.free r = [] := by rw [dripNow, hb]; rfl
    exact ⟨by rw [hlater, hr, ← hb], rfl, by rw [hnow]; rfl⟩
  · obtain ⟨h1, h2, h3, -⟩ := haloBytesLand_landed r.src (dripNow s.free r) hs
    refine ⟨?_, h1, h2⟩
    simp only [updEng, h3, hr, List.map_cons, List.map_nil]

/-- What a packet that comes in leaves as it was, its place in a channel of the bench and the counts of messages aside. -/
structure CameIn (s t : State) : Prop where
  net : t.net = s.net
  mem : t.tile.mem = s.tile.mem
  soft : t.tile.soft = s.tile.soft
  halos : t.tile.eng.halos = s.tile.eng.halos
  cw : ∀ n, cwGet t.tile n = cwGet s.tile n

theorem recordChannel_cameIn (s : State) (p : Packet) : CameIn s (recordChannel s p) := by
  unfold recordChannel
  split
  · extract_lets mine
    split <;> exact ⟨rfl, rfl, rfl, rfl, fun _ => rfl⟩
  · exact ⟨rfl, rfl, rfl, rfl, fun _ => rfl⟩

theorem countIn_cameIn (s : State) (h : BitVec 512) : CameIn s (countIn s h) := by
  refine ⟨rfl, rfl, rfl, ?_, fun _ => rfl⟩
  unfold countIn
  dsimp only
  split <;> rfl

/-- A mailbox counts an arrival, and BAD marks a row that may not land. -/
theorem mbCount_get (t : Tile) (n now : Nat) (good : Bool) : (mbCount t n now good).mem = t.mem ∧ (mbCount t n now good).eng = t.eng
    ∧ cwGet (mbCount t n now good) n
      = setBits (cwGet t n) 0 32 ((cwGet t n).toNat % 2 ^ 32 + 1) ||| (if good then 0 else 0x8000000000000000) := by
  refine ⟨cwPut_mem .., ?_, ?_⟩
  · simp only [mbCount, cwPut]
    split <;> rfl
  · simp only [mbCount, cwGet_cwPut, if_true, bitsOf, Nat.shiftRight_zero]
    cases good <;> simp

/-- The first landing of a row that arrives where none is landing: its bytes land now or later, by the free choice of the cycle. -/
theorem haloLand_first {s : State} (src : Nat) (p : Packet) (hh : s.tile.eng.halos = []) (hs : s.tile.soft = []) :
    let bytes := if ltSpanOk s.tile (haloEntry p) then haloBytes p else []
    let later (b : Bool) := (bytes.zipIdx.filter (fun x => Config.oldByte s.free x.2 == b)).map (·.1)
    (haloLand src p s).tile.eng.halos = [⟨src, s.cyc, ltSpanOk s.tile (haloEntry p), later true⟩] ∧ (haloLand src p s).net = s.net
      ∧ (haloLand src p s).tile.mem = cellSets s.tile.mem (later false) := by
  intro bytes later
  have hrow : (rowJoined s ⟨src, s.cyc, ltSpanOk s.tile (haloEntry p), bytes⟩).tile.eng.halos = [⟨src, s.cyc, ltSpanOk s.tile (haloEntry p), bytes⟩] :=
    congrArg (· ++ [_]) hh
  obtain ⟨h1, h2, h3⟩ := haloDrip_one hrow hs
  have hlater : later true = dripLater s.free ⟨src, s.cyc, ltSpanOk s.tile (haloEntry p), bytes⟩ := by simp only [later, dripLater, beq_true]
  have hnow : later false = dripNow s.free ⟨src, s.cyc, ltSpanOk s.tile (haloEntry p), bytes⟩ := by simp only [later, dripNow, beq_false]
  rw [haloLand_joined, hlater, hnow]
  exact ⟨h1, h2, h3⟩

/-- A row whose last bytes land is counted by the mailbox of its side. -/
theorem haloCount_counted {r : HaloRow} (p : Packet) {s : State} (hs : s.tile.soft = []) (hr : s.tile.eng.halos = [r]) :
    (haloCount r p s).net = s.net ∧ (haloCount r p s).tile.eng.halos = [] ∧ (haloCount r p s).tile.mem = cellSets s.tile.mem r.left
      ∧ cwGet (haloCount r p s).tile (0x050 + (hdrTag p.hdr).toNat % 4)
        = setBits (cwGet s.tile (0x050 + (hdrTag p.hdr).toNat % 4)) 0 32 ((cwGet s.tile (0x050 + (hdrTag p.hdr).toNat % 4)).toNat % 2 ^ 32 + 1)
          ||| (if r.good then 0 else 0x8000000000000000) := by
  obtain ⟨a1, a2, a3, a4, a5⟩ := recordChannel_cameIn s p
  obtain ⟨b1, b2, b3, b4, b5⟩ := countIn_cameIn (recordChannel s p) p.hdr
  obtain ⟨c1, c2, c3, c4⟩ := haloBytesLand_landed r.src r.left (b3.trans (a3.trans hs))
  unfold haloCount
  extract_lets n s1 s2 old
  have hget (k : Nat) : cwGet { s2.tile with haloOld := old } k = cwGet s.tile k := (c4 k).trans ((b5 k).trans (a5 k))
  have hleft : s1.tile.eng.halos = [r] := (congrArg Engine.halos c3).trans (b4.trans (a4.trans hr))
  obtain ⟨d1, d2, d3⟩ := mbCount_get { s2.tile with haloOld := old } n (hereCyc s2) r.good
  refine ⟨c1.trans (b1.trans a1), (congrArg Engine.halos d2).trans ?_, d1.trans (c2.trans (by rw [b2, a2])), d3.trans (by rw [hget])⟩
  show s1.tile.eng.halos.filter (fun x => x.src ≠ r.src) = []
  simp [hleft]

/-! ## Taking a packet -/

/-- The packet at the head of a way comes out of the fabric; nothing else changes. -/
theorem headFor_net {s s' : State} {src dst plane eng : Nat} {ok : BitVec 512 → Bool} {p : Packet} (h : headFor s src dst plane eng ok = some (p, s')) :
    s' = { s with net := s'.net } := by
  unfold headFor takeFor at h
  split at h
  · rename_i x hx
    split at hx
    · split at h
      · cases h
        cases hx
        rfl
      · cases h
    · cases hx
  · cases h

theorem focus_pick (site : Nat) (s : State) : (focus site s).pick = s.pick := by
  unfold focus
  split
  · rfl
  · split <;> rfl

/-! ## Set-aside queues (R238) -/

theorem tileAt_site {s : State} {site : Nat} {t : Tile} (h : tileAt s site = some t) : t.site = site := by
  unfold tileAt at h
  split at h
  · cases h; assumption
  · simpa using List.find?_some h

/-- A change of the tile of a site is seen there, where it keeps its site. -/
theorem tileAt_mapTile {s : State} {site : Nat} {t : Tile} {f : Tile → Tile} (hf : ∀ t, (f t).site = t.site) (h : tileAt s site = some t) :
    tileAt (mapTile s site f) site = some (f t) := by
  unfold tileAt at h
  unfold mapTile
  split at h
  · rename_i hs
    cases h
    rw [if_pos hs, tileAt, if_pos ((hf _).trans hs)]
  · rename_i hs
    rw [if_neg hs, tileAt, if_neg hs]
    show (s.rest.map _).find? _ = _
    rw [List.find?_map]
    have hcomp : ((fun t => decide (t.site = site)) ∘ fun t => if t.site = site then f t else t) = fun t => decide (t.site = site) := by
      funext x
      simp only [Function.comp_apply]
      split
      · rw [hf]
      · rfl
    rw [hcomp, h]
    have : t.site = site := by simpa using List.find?_some h
    simp [this]

/-- A change of every tile that keeps sites is seen at each. -/
theorem tileAt_map {s : State} {site : Nat} {t : Tile} {f : Tile → Tile} (hf : ∀ t, (f t).site = t.site) (h : tileAt s site = some t) :
    tileAt { s with tile := f s.tile, rest := s.rest.map f } site = some (f t) := by
  unfold tileAt at h ⊢
  simp only [hf]
  split at h
  · rename_i hs
    cases h
    rw [if_pos hs]
  · rename_i hs
    rw [if_neg hs, List.find?_map]
    have hcomp : ((fun t => decide (t.site = site)) ∘ f) = fun t => decide (t.site = site) := by
      funext x
      simp only [Function.comp_apply, hf]
    rw [hcomp, h]
    rfl

/-- A packet that comes to the head of an output's queue is watched from then on. -/
theorem standAt_watches {s : State} {site : Nat} {x : Tile} (port : Nat) (y : Transit) (h : tileAt s site = some x) :
    ∃ z, tileAt (standAt s site port y) site = some z ∧ (port, y, s.cyc) ∈ z.rt.watch ∧ (standAt s site port y).net = s.net := by
  unfold standAt
  extract_lets leave s1
  have hleave (t : Tile) : (leave t).site = t.site := by
    show (if t.rt.watch = [] then t else updRt t (fun r => { r with watch := r.watch.filter (fun w => w.2.1 ≠ y) })).site = _
    split <;> rfl
  have h1 : tileAt s1 site = some (leave x) := tileAt_map hleave h
  refine ⟨_, tileAt_mapTile (fun t => rfl) h1, ?_, ?_⟩
  · simp [updRt, s1]
  · unfold mapTile
    split <;> rfl

/-! ## Markers between modules (R250) -/

/-- A marker whose count agrees with the packets received starts the received count again and is answered. -/
theorem execFenceMarker_equal {s : State} {die other n sent : Nat} {up : Bool}
    (h : s.pairs.find? (fun x => x.1 = die && x.2.1 = other) = some (die, other, up, sent, n)) :
    execFenceMarker die other n s = .next { s with
      pairs := s.pairs.map (fun q => if q.1 = die ∧ q.2.1 = other then (q.1, q.2.1, q.2.2.1, q.2.2.2.1, 0) else q),
      outPort := s.outPort ++ [⟨4352 + die, 4352 + die, 2, ⟨mkHdr (other * 8192) (modIdx s * 8192) 0 (flagsOf 15 2 1 false false false) 0 0 0 0 n n 0, []⟩⟩] } := by
  simp only [execFenceMarker, h, if_true]

/-! ## The timed queue (R221) -/

section queue
variable {u : State} {p : Packet} {r : List Packet} (hqueue : u.tile.rt.queue = p :: r) (htakes : takes u = true)
  (hgo : ¬(u.tile.rt.fed = some u.cyc ∨ colourOk u p.hdr = false))
include hqueue htakes hgo

/-- The first packet of the queue enters the matching engine, or waits where the engine has no room for it. -/
theorem feedQueue_enters {w : State}
    (h : admitMsg (recordChannel { u with tile := updRt u.tile (fun x => { x with queue := r, fed := some u.cyc }) } p) p.hdr p.body = some w) :
    feedQueue u = noteArrival (countIn w p.hdr) := by
  simp only [feedQueue, hqueue, htakes, Bool.true_eq_false, if_false, if_neg hgo, h]

theorem feedQueue_waits
    (h : admitMsg (recordChannel { u with tile := updRt u.tile (fun x => { x with queue := r, fed := some u.cyc }) } p) p.hdr p.body = none) :
    feedQueue u = u := by
  simp only [feedQueue, hqueue, htakes, Bool.true_eq_false, if_false, if_neg hgo, h]

end queue

/-! ## Rounds of GVT (R311, R312) -/

/-- In a partition that has joined no domain, unequal sums are reported again. -/
theorem combine_unequal {s : State} {pid : Nat} {q : Partn} (hq : partnOf s pid = some q) (hd : q.domain = none)
    (hne : (rectTiles s q).foldl (fun k t => k + t.vt.oldSent) 0 ≠ (rectTiles s q).foldl (fun k t => k + t.vt.oldRecv) 0) :
    combine s pid = mapPart s pid (fun x => { x with round := some 1, roundAt := s.cyc }) := by
  simp only [combine, hq, hd, Bool.false_eq_true, if_false, Bool.not_false, Bool.true_and, decide_true, hne, ne_eq, not_false_iff, Bool.true_or, if_true]

/-- GVT 0 reaches no multiple. -/
theorem vtMultiple_zero (p : Partn) (old : Nat) : vtMultiple p old 0 = none := by
  simp [vtMultiple]

/-- Equal sums release, of a plain partition with GVT 0. -/
theorem combine_equal {s : State} {pid : Nat} {q : Partn} (hq : partnOf s pid = some q) (hd : q.domain = none)
    (heq : (rectTiles s q).foldl (fun k t => k + t.vt.oldSent) 0 = (rectTiles s q).foldl (fun k t => k + t.vt.oldRecv) 0)
    (hplain : isOptPartn q = false) : combine s pid = mapPart s pid (fun x => { x with round := some 2, gvt := 0, roundAt := s.cyc }) := by
  simp [combine, hq, hd, heq, hplain, vtMultiple_zero]

/-- A tile whose values have been applied ends its part of a release: its old segments are freed. -/
theorem execGvtRelease_done {s u : State} {site : Nat} {q : Partn} (hu : atSite s site u) (hq : partnOf u u.tile.pid = some q)
    (hround : q.round = some 2) (hdone : u.tile.vt.relDone = false) (hrep : u.tile.vt.reported = true)
    (happ : allApplied (releaseAll u).tile = true) (hcut : cutDue q = none) :
    execGvtRelease site s = .next { releaseAll u with
      tile := { fossils (releaseAll u).tile with vt := { (fossils (releaseAll u).tile).vt with relDone := true } } } := by
  rw [execGvtRelease, atTile_eq hu, hq]
  simp only [hround, hdone, hrep, happ, hcut, ne_eq, not_true, Bool.not_true, Bool.false_eq_true, or_self, if_false, if_true]

end Sys2Proof.Machine
end

section
namespace Sys2Proof

open Machine

/-- Settles O58: each step is unfolded at its tile; the barrier, the halo rows, the watched packets and the rounds of GVT by their lemmas. -/
theorem fabricTaskAndTimeEvents : Obligations.FabricTaskAndTimeEvents := by
  unfold Obligations.FabricTaskAndTimeEvents
  intro s u v w src dst site port plane die other n pid p q
  refine ⟨?_, ?_, ?_, ?_, ?_, ?_, ?_, ?_, ?_, ?_, ?_, ?_, ?_, ?_, ?_, ?_, ?_, ?_, ?_, ?_, ?_, ?_, ?_, ?_, ?_, ?_, ?_⟩
  -- RESULT_LAND, ASYNC_TRAP, DISPATCH, ROLLBACK
  · intro hu hruns hrun hhalt hs hp
    show execResultLand site s = _
    rw [execResultLand, atTile_eq hu, if_pos (by simp [hruns, hrun, hhalt]), drainRead_clean hs hp]
  · intro c x hu hb hdue htrap hhalt hlooms hs hp z t hlow
    show execAsyncTrap site s = _
    rw [execAsyncTrap, atTile_eq hu, if_pos (by simp [hb, hdue, htrap, hhalt, hlooms]), reachBoundary_clean hs hp]
    exact congrArg _ (takeAsync_lowest hlow)
  · intro hu hruns hhalt htodo d t
    have hexec : exec (.dispatch site) s = .next (if dequeIdle u.tile.disp u.cyc then { u with tile := dispatchAt u.tile u.cyc } else u) := by
      show execDispatch site s = _
      rw [execDispatch, atTile_eq hu]
      simp [hruns, hhalt, htodo]
    rw [hexec]
    refine ⟨fun h1 h2 h3 => by rw [if_pos ((dequeIdle_iff _ _).2 ⟨h1, h2, h3⟩)]; rfl, fun h => ?_⟩
    rw [if_neg]
    intro hidle
    obtain ⟨h1, h2, h3⟩ := (dequeIdle_iff _ _).1 hidle
    rcases h with h | h | ⟨y, hy, h⟩
    · exact h1 h
    · exact h2 h
    · exact h3 y hy h
  · intro hu hready hsq hhalt hlooms hs hp
    show execRollback site s = _
    rw [execRollback, atTile_eq hu, if_pos (by simp [hready, hsq, hhalt, hlooms]), reachBoundary_clean hs hp]
  -- TASK_PREEMPT, PMASK_EXPIRE, SYNC_RELEASE
  · intro hu hquiet hno hruns hsw
    refine ⟨?_, fun hmask hleft => ?_⟩
    · show execTaskPreempt site s = _
      rw [execTaskPreempt, atTile_eq hu, if_pos (by simp [hquiet, hno, hruns]), hsw, Option.getD_some]
    · show execPmaskExpire site s = _
      rw [execPmaskExpire, atTile_eq hu, if_pos (by simp [hmask, hleft, hquiet, hno, hruns]), hsw, Option.getD_some]
  · exact execSyncRelease_due
  -- SCHEDULED_FLIT_FORWARD, SENDT_DEPART, TIMED_ARRIVAL, TIMED_QUEUE_DELIVER, MULTICAST_FORWARD
  · intro x hu hport hfind z outs
    show execScheduledFlitForward site port s = _
    rw [execScheduledFlitForward, atTile_eq hu, forwardFlit, hfind]
    simp only [bitsOf, Nat.shiftRight_eq_div_pow]
    rfl
  · simp only [schedOut, if_true, List.contains_eq_mem, decide_eq_false_iff_not]
  · intro f hu hbuf hd hnow hhalt hst
    show execSendtDepart site s = _
    have hfind : u.tile.rt.buffer.find? (fun f => f.d = hereCyc u) = some f := by simp [hbuf, hnow]
    rw [execSendtDepart, atTile_eq hu, departFlit, hhalt, if_neg Bool.false_ne_true, hfind]
    simp only [hst, hd, if_true]
  · intro x hu hfind z
    show execTimedArrival site s = _
    rw [execTimedArrival, atTile_eq hu, queueFlit, hfind]
  · intro r hu hqueue hfed htakes hcol z
    have hexec : exec (.timedQueueDeliver site) s = .next (feedQueue u) := atTile_eq hu feedQueue
    have hgo : ¬(u.tile.rt.fed = some u.cyc ∨ colourOk u p.hdr = false) := by simp [hfed, hcol]
    exact ⟨fun hadm => hexec.trans (congrArg _ (feedQueue_enters hqueue htakes hgo hadm)),
      fun hadm => hexec.trans (congrArg _ (feedQueue_waits hqueue htakes hgo hadm))⟩
  · intro r hu hqueue htakes
    show execTimedQueueDeliver site s = _
    rw [execTimedQueueDeliver, atTile_eq hu, feedQueue, hqueue]
    simp only [htakes, if_true]
  · intro m r hu hheld z outs
    show execMulticastForward site s = _
    rw [execMulticastForward, atTile_eq hu, hheld]
  -- HALO_ARRIVAL
  · intro hu htakes hstop hhead e k bytes later
    have hv := headFor_net hhead
    have hgo : (!takes u || u.tile.eng.stopped.isSome) = false := by simp [htakes, hstop]
    refine ⟨fun hh hs => ⟨haloLand src p u, ?_, haloLand_first src p hh hs⟩, fun c good left hh hc hs => ⟨haloCount ⟨src, c, good, left⟩ p v, ?_⟩⟩
    · show execHaloArrival src dst s = _
      simp only [execHaloArrival, atTile_eq hu, hgo, Bool.false_eq_true, if_false, hhead, hh, List.find?_nil]
    · have htile : v.tile = u.tile := by rw [hv]
      obtain ⟨h1, h2, h3, h4⟩ := haloCount_counted (r := ⟨src, c, good, left⟩) p (s := v) (htile ▸ hs) (htile ▸ hh)
      rw [htile] at h3 h4
      refine ⟨?_, h1, h2, h3, h4⟩
      show execHaloArrival src dst s = _
      simp only [execHaloArrival, atTile_eq hu, hgo, Bool.false_eq_true, if_false, hhead, hh, List.find?_cons, decide_true, hc, if_true]
  -- CONGESTION_DETECT, CONGESTION_NOTICE, SETASIDE_RELEASE
  · intro x hx
    refine ⟨fun k y hpick hy => ?_, fun y hpick hy => ?_⟩
    · obtain ⟨z, h1, h2, h3⟩ := standAt_watches port y hx
      refine ⟨_, z, ?_, h1, h2, h3⟩
      show execCongestionDetect site port plane dst s = _
      simp only [execCongestionDetect, hx, hpick, hy]
    · show execCongestionDetect site port plane dst s = _
      simp only [execCongestionDetect, hx, hpick, hy, ← Nat.not_le, ite_not]
  · intro x hn hx hany
    show execCongestionNotice site port plane dst s = _
    simp only [execCongestionNotice, hn, hx, hany, if_true]
  · intro t ht
    simp only [assignAside, updRt, ht]
    rfl
  · rfl
  -- FENCE_VERDICT, FENCE_MARKER, LINK_CRC_RETRY, LINK_FAIL
  · intro x hu hfind hleast z sent
    have hpick : u.pick = s.pick := by rw [hu.2]; exact focus_pick site s
    show execFenceVerdict site n s = _
    have hfind' : u.tile.eng.waits.find? (fun o => decide (o.kind = .fencex) && decide (bitsOf o.a 0 16 = u.pick)) = some x := by
      rw [hpick]; exact hfind
    have hfirst : (allTiles u).any (fun t => dieOf t.site = dieOf site && t.eng.waits.any (fun q =>
        (decide (q.kind = .fencex) && decide (bitsOf q.a 0 16 = u.pick)) && decide (q.c.toNat < x.c.toNat))) = false := by
      rw [List.any_eq_false]
      intro t ht hany
      obtain ⟨hdie, hany⟩ := Bool.and_eq_true_iff.1 hany
      obtain ⟨y, hy, hyx⟩ := List.any_eq_true.1 hany
      simp only [Bool.and_eq_true, decide_eq_true_eq, hpick] at hyx hdie
      obtain ⟨⟨hkind, hpeer⟩, hlt⟩ := hyx
      have := hleast t ht hdie y hy hkind hpeer
      omega
    rw [execFenceVerdict, atTile_eq hu]
    simp only [hfind', hfirst, Bool.false_eq_true, if_false]
    rfl
  · intro up sent hfind
    exact ⟨_, execFenceMarker_equal hfind, rfl, List.length_append, rfl⟩
  · rfl
  · intro h16 z mine
    show execLinkFail die other s = _
    rw [execLinkFail, if_neg (by omega)]
  -- GVT_ROUND_START, GVT_REPORT_RETRY, GVT_RELEASE, GVT_ROUND_END
  · intro hq hround hrun hcyc
    show execGvtRoundStart pid s = _
    rw [execGvtRoundStart, hq]
    dsimp only
    rw [if_neg (by simp [hround, hrun, hcyc])]
  · intro hq hround hcyc
    show execGvtReportRetry pid s = _
    rw [execGvtReportRetry, hq]
    dsimp only
    rw [if_pos ⟨hround, hcyc⟩]
  · exact fun hq hd => ⟨combine_unequal hq hd, combine_equal hq hd⟩
  · intro hu hq hround hdone hrep happ hcut
    exact ⟨_, execGvtRelease_done hu hq hround hdone hrep happ hcut, rfl, rfl, rfl⟩
  · intro hq hround hdone hblocked hgang
    have hall : (roundTiles s q).all (fun t => t.vt.relDone || !isOptPartn q) = true := List.all_eq_true.2 fun t ht => by simp [hdone t ht]
    have hrunning : (roundTiles s q).any (fun t => t.dbg.gang) = false := List.any_eq_false.2 fun t ht => by simp [hgang t ht]
    have hbusy : (roundTiles s q).all isBlocked = false := by
      obtain ⟨t, ht, hb⟩ := hblocked
      exact List.all_eq_false.2 ⟨t, ht, by simp [hb]⟩
    show execGvtRoundEnd pid s = _
    rw [execGvtRoundEnd, hq]
    simp [hround, hall, hrunning, hbusy]

end Sys2Proof
end
section
/-! PROOFS. The values of exact numbers: order, sums, products and negation as in ℚ (R47, R57, R68). -/

namespace Sys2Proof.Machine

open Sys2Proof

/-! ## Finite numbers and their values -/

/-- A number that is neither a NaN nor an infinity. -/
def IsFin (x : Num) : Prop := ∃ neg m e, x = .fin neg m e

/-- The sign of a number as a factor. -/
def signOf (neg : Bool) : ℚ := if neg then -1 else 1

@[simp] theorem signOf_false : signOf false = 1 := rfl
@[simp] theorem signOf_true : signOf true = -1 := rfl

theorem isFin_fin (neg : Bool) (m : Nat) (e : Int) : IsFin (.fin neg m e) := ⟨neg, m, e, rfl⟩

theorem numVal_fin (neg : Bool) (m : Nat) (e : Int) : numVal (.fin neg m e) = signOf neg * m * 2 ^ e := rfl

/-- A magnitude as a multiple of a smaller power of two. -/
theorem magnitude_aligned (m : Nat) {e lo : Int} (h : lo ≤ e) : (((m : Int) * 2 ^ (e - lo).toNat : Int) : ℚ) * 2 ^ lo = m * 2 ^ e := by
  push_cast
  rw [mul_assoc, ← zpow_natCast, ← zpow_add₀ two_ne_zero]
  congr 2
  omega

/-- A finite number in units of a smaller power of two. -/
def unitsOf (neg : Bool) (m : Nat) (e lo : Int) : Int := if neg then -((m : Int) * 2 ^ (e - lo).toNat) else (m : Int) * 2 ^ (e - lo).toNat

theorem numVal_unitsOf (neg : Bool) (m : Nat) {e lo : Int} (h : lo ≤ e) : (unitsOf neg m e lo : ℚ) * 2 ^ lo = numVal (.fin neg m e) := by
  cases neg
  · simpa [unitsOf, numVal_fin] using magnitude_aligned m h
  · simpa [unitsOf, numVal_fin] using congrArg Neg.neg (magnitude_aligned m h)

/-- The number that stands for an integral multiple of a power of two. -/
theorem numVal_ofMultiple (v lo : Int) : numVal (.fin (decide (v < 0)) v.natAbs lo) = v * 2 ^ lo := by
  rw [numVal_fin, Nat.cast_natAbs, Int.cast_abs]
  by_cases h : v < 0
  · have hq : (v : ℚ) < 0 := by exact_mod_cast h
    simp [h, abs_of_neg hq]
  · have hq : (0 : ℚ) ≤ v := by exact_mod_cast not_lt.1 h
    simp [h, abs_of_nonneg hq]

theorem numVal_zero (neg : Bool) (e : Int) : numVal (.fin neg 0 e) = 0 := by simp [numVal_fin]

theorem numVal_natural (n : Nat) : numVal (.fin false n 0) = n := by simp [numVal_fin]

theorem numVal_eq_zero {neg : Bool} {m : Nat} {e : Int} : numVal (.fin neg m e) = 0 ↔ m = 0 := by
  have h2 : (2 : ℚ) ^ e ≠ 0 := zpow_ne_zero _ two_ne_zero
  cases neg <;> simp [numVal_fin, h2]

theorem numAdd_zeros (rdn s t : Bool) (e g : Int) : numAdd rdn (.fin s 0 e) (.fin t 0 g) = .fin (if s = t then s else rdn) 0 0 := by
  simp only [numAdd, and_self, if_true]
  split <;> rfl

/-- The sum of two numbers that are not both zero, in units of the smaller of their exponents. -/
theorem numAdd_units (rdn s t : Bool) {m n : Nat} (e g : Int) (h : ¬(m = 0 ∧ n = 0)) : numAdd rdn (.fin s m e) (.fin t n g)
    = if unitsOf s m e (min e g) + unitsOf t n g (min e g) = 0 then .fin rdn 0 0
      else .fin (decide (unitsOf s m e (min e g) + unitsOf t n g (min e g) < 0))
        (unitsOf s m e (min e g) + unitsOf t n g (min e g)).natAbs (min e g) := if_neg h

/-- The sum of two finite numbers is finite and has the sum of their values. -/
theorem numAdd_exact (rdn : Bool) {x y : Num} (hx : IsFin x) (hy : IsFin y) :
    IsFin (numAdd rdn x y) ∧ numVal (numAdd rdn x y) = numVal x + numVal y := by
  obtain ⟨s, m, e, rfl⟩ := hx
  obtain ⟨t, n, g, rfl⟩ := hy
  by_cases h0 : m = 0 ∧ n = 0
  · obtain ⟨rfl, rfl⟩ := h0
    rw [numAdd_zeros]
    exact ⟨isFin_fin .., by simp [numVal_zero]⟩
  · rw [numAdd_units rdn s t e g h0, ← numVal_unitsOf s m (min_le_left e g), ← numVal_unitsOf t n (min_le_right e g), ← add_mul,
      ← Int.cast_add]
    split
    next hv => exact ⟨isFin_fin .., by simp [hv, numVal_zero]⟩
    next hv => exact ⟨isFin_fin .., numVal_ofMultiple _ _⟩

theorem isFin_numAdd (rdn : Bool) {x y : Num} (hx : IsFin x) (hy : IsFin y) : IsFin (numAdd rdn x y) := (numAdd_exact rdn hx hy).1

theorem numVal_numAdd (rdn : Bool) {x y : Num} (hx : IsFin x) (hy : IsFin y) : numVal (numAdd rdn x y) = numVal x + numVal y :=
  (numAdd_exact rdn hx hy).2

theorem isFin_numNeg {x : Num} (hx : IsFin x) : IsFin (numNeg x) := by
  obtain ⟨s, m, e, rfl⟩ := hx
  exact isFin_fin ..

theorem numVal_numNeg (x : Num) : numVal (numNeg x) = -numVal x := by
  cases x with
  | nan | inf => simp [numNeg, numVal]
  | fin s m e => cases s <;> simp [numNeg, numVal_fin]

theorem isFin_numMul {x y : Num} (hx : IsFin x) (hy : IsFin y) : IsFin (numMul x y) := by
  obtain ⟨s, m, e, rfl⟩ := hx
  obtain ⟨t, n, g, rfl⟩ := hy
  exact isFin_fin ..

theorem numVal_numMul {x y : Num} (hx : IsFin x) (hy : IsFin y) : numVal (numMul x y) = numVal x * numVal y := by
  obtain ⟨s, m, e, rfl⟩ := hx
  obtain ⟨t, n, g, rfl⟩ := hy
  have hs : signOf (s != t) = signOf s * signOf t := by cases s <;> cases t <;> simp
  simp only [numMul, numVal_fin, hs, Nat.cast_mul, zpow_add₀ (two_ne_zero (α := ℚ))]
  ring

/-- The comparison of two finite numbers is that of their values. -/
theorem numCmp_exact {x y : Num} (hx : IsFin x) (hy : IsFin y) :
    numCmp x y = if numVal x < numVal y then -1 else if numVal x = numVal y then 0 else 1 := by
  obtain ⟨s, m, e, rfl⟩ := hx
  obtain ⟨t, n, g, rfl⟩ := hy
  rw [← numVal_unitsOf s m (min_le_left e g), ← numVal_unitsOf t n (min_le_right e g)]
  have h2 : (0 : ℚ) < 2 ^ min e g := by positivity
  simp only [mul_lt_mul_iff_left₀ h2, mul_left_inj' h2.ne', Int.cast_lt, Int.cast_inj, ← sub_neg (a := unitsOf s m e (min e g)),
    ← sub_eq_zero (a := unitsOf s m e (min e g))]
  rfl

theorem numCmp_lt_zero {x y : Num} (hx : IsFin x) (hy : IsFin y) : numCmp x y < 0 ↔ numVal x < numVal y := by
  rw [numCmp_exact hx hy]
  split_ifs <;> simp_all

theorem numCmp_eq_zero {x y : Num} (hx : IsFin x) (hy : IsFin y) : numCmp x y = 0 ↔ numVal x = numVal y := by
  rw [numCmp_exact hx hy]
  split_ifs with h1 h2
  · simpa using h1.ne
  · simpa using h2
  · simpa using h2

theorem numCmp_le_zero {x y : Num} (hx : IsFin x) (hy : IsFin y) : numCmp x y ≤ 0 ↔ numVal x ≤ numVal y := by
  rw [Int.le_iff_lt_or_eq, numCmp_lt_zero hx hy, numCmp_eq_zero hx hy, le_iff_lt_or_eq]

theorem numCmp_pos {x y : Num} (hx : IsFin x) (hy : IsFin y) : 0 < numCmp x y ↔ numVal y < numVal x := by
  rw [← not_le, numCmp_le_zero hx hy, not_le]

theorem numCmp_nonneg {x y : Num} (hx : IsFin x) (hy : IsFin y) : 0 ≤ numCmp x y ↔ numVal y ≤ numVal x := by
  rw [← not_lt, numCmp_lt_zero hx hy, not_lt]

end Sys2Proof.Machine
end
section
/-! PROOFS. Rounding: to multiples of a unit, and to the numbers that a float format represents (R57, R60). -/

namespace Sys2Proof.Machine

open Sys2Proof

/-! ## Rounding to multiples of a unit -/

/-- The magnitude m × 2^e in units of 2^q, rounded: what rounding to a float and rounding to an integer share. -/
def roundUnits (mode : Rnd) (neg : Bool) (m : Nat) (e q : Int) : Nat :=
  if q ≤ e then m <<< (e - q).toNat else roundShift mode neg m (q - e).toNat

/-- A number that is not negative and stands a fraction `t` of the way from its neighbour of smaller magnitude to the next one goes to the
next one; `odd` is the least significant bit of the smaller one (R57). -/
def roundsUp (mode : Rnd) (odd : Bool) (t : ℚ) : Bool :=
  match mode with
  | .rtz | .rdn => false
  | .rup => decide (0 < t)
  | .rne => decide (1 / 2 < t ∨ (t = 1 / 2 ∧ odd = true))
  | .rna => decide (1 / 2 ≤ t)
  | .sr r => decide (1 ≤ t + r / 65536)

/-- The random bits of a stochastic rounding are 16. -/
def SixteenBits (mode : Rnd) : Prop := ∀ r, mode = .sr r → r < 65536

theorem roundsUp_exact {mode : Rnd} (h : SixteenBits mode) (odd : Bool) : roundsUp mode odd 0 = false := by
  cases mode with
  | rtz | rdn => rfl
  | rup | rne | rna => simp [roundsUp]
  | sr r =>
    have hr : (r : ℚ) < 65536 := by exact_mod_cast h r rfl
    simp only [roundsUp, zero_add, decide_eq_false_iff_not, not_le]
    linarith

/-- At a whole unit or more, the modes that round up at all do so. -/
theorem roundsUp_whole {mode : Rnd} (odd : Bool) {t : ℚ} (h : 1 ≤ t) : roundsUp mode odd t = decide (mode ≠ .rtz ∧ mode ≠ .rdn) := by
  have h2 : 1 / 2 < t := by linarith
  cases mode with
  | rtz | rdn => rfl
  | rup => simpa [roundsUp] using by linarith
  | rne => simpa [roundsUp] using Or.inl (by linarith : (2 : ℚ)⁻¹ < t)
  | rna => simpa [roundsUp] using h2.le
  | sr r =>
    have hr : (0 : ℚ) ≤ r / 65536 := by positivity
    simpa [roundsUp] using by linarith

/-- A negative magnitude is rounded as a positive one with RDN and RUP exchanged. -/
theorem roundUnits_mirror (mode : Rnd) (m : Nat) (e q : Int) : roundUnits mode true m e q = roundUnits (mirror mode) false m e q := by
  unfold roundUnits roundShift
  cases mode <;> rfl

/-- The quotient and the remainder of a magnitude by the unit. -/
theorem roundShift_rtz (neg : Bool) (m s : Nat) : roundShift .rtz neg m s = m / 2 ^ s := by
  simp [roundShift, Nat.shiftRight_eq_div_pow]

/-- No mode rounds a magnitude below its truncation. -/
theorem roundShift_ge (mode : Rnd) (neg : Bool) (m s : Nat) : m / 2 ^ s ≤ roundShift mode neg m s := by
  have hsr (x : Nat) : m / 2 ^ s ≤ (m * 65536 + x * 2 ^ s) >>> (s + 16) := by
    rw [Nat.shiftRight_eq_div_pow, pow_add, Nat.le_div_iff_mul_le (by positivity)]
    have := Nat.div_mul_le_self m (2 ^ s)
    calc m / 2 ^ s * (2 ^ s * 2 ^ 16) = m / 2 ^ s * 2 ^ s * 65536 := by ring
      _ ≤ m * 65536 + x * 2 ^ s := by omega
  simp only [roundShift, Nat.shiftRight_eq_div_pow] at hsr ⊢
  cases mode with
  | sr x =>
    dsimp only
    split
    · exact le_rfl
    · exact hsr x
  | rne | rna | rtz | rdn | rup => dsimp only; split_ifs <;> omega

theorem roundShift_exact (mode : Rnd) (neg : Bool) {m s : Nat} (h : m % 2 ^ s = 0) : roundShift mode neg m s = m / 2 ^ s := by
  simp [roundShift, h, Nat.shiftRight_eq_div_pow]

/-- The sum that SR truncates reaches the next multiple exactly if the remainder and the random bits come to a whole unit. -/
theorem stochastic_carry (m x s : Nat) (hx : x < 65536) : (m * 65536 + x * 2 ^ s) >>> (s + 16)
    = m / 2 ^ s + if 65536 * 2 ^ s ≤ m % 2 ^ s * 65536 + x * 2 ^ s then 1 else 0 := by
  have hpos : 0 < 2 ^ s := by positivity
  have hr := Nat.mod_lt m hpos
  have hm := Nat.div_add_mod m (2 ^ s)
  rw [Nat.shiftRight_eq_div_pow, pow_add]
  generalize 2 ^ s = D at *
  generalize m / D = k at *
  generalize m % D = r at *
  have hsplit : m * 65536 + x * D = r * 65536 + x * D + k * (D * 65536) := by rw [← hm]; ring
  have hlt : r * 65536 + x * D < 2 * (D * 65536) := by nlinarith
  rw [show (2 : Nat) ^ 16 = 65536 from rfl, hsplit, Nat.add_mul_div_right _ _ (by omega), Nat.add_comm]
  congr 1
  split
  · next h => exact Nat.div_eq_of_lt_le (by omega) (by omega)
  · next h => exact Nat.div_eq_of_lt (by omega)

/-- A remainder against half a unit. -/
theorem half_lt_remainder (r : Nat) {s : Nat} (hs : s ≠ 0) : (1 : ℚ) / 2 < r / 2 ^ s ↔ 2 ^ (s - 1) < r := by
  obtain ⟨k, rfl⟩ := Nat.exists_eq_succ_of_ne_zero hs
  rw [div_lt_div_iff₀ two_pos (by positivity), one_mul, pow_succ, mul_lt_mul_iff_left₀ two_pos]
  exact_mod_cast Iff.rfl

theorem half_eq_remainder (r : Nat) {s : Nat} (hs : s ≠ 0) : (r : ℚ) / 2 ^ s = 1 / 2 ↔ 2 ^ (s - 1) = r := by
  obtain ⟨k, rfl⟩ := Nat.exists_eq_succ_of_ne_zero hs
  rw [div_eq_div_iff (by positivity) two_ne_zero, one_mul, pow_succ, mul_left_inj' two_ne_zero, eq_comm]
  exact_mod_cast Iff.rfl

/-- A remainder and the random bits against a whole unit. -/
theorem whole_le_remainder (r x s : Nat) : (1 : ℚ) ≤ r / 2 ^ s + x / 65536 ↔ 65536 * 2 ^ s ≤ r * 65536 + x * 2 ^ s := by
  rw [div_add_div _ _ (by positivity) (by norm_num), one_le_div (by positivity), mul_comm 65536 (2 ^ s), mul_comm x]
  exact_mod_cast Iff.rfl

/-- A positive magnitude is truncated, and a unit is added where the mode rounds up. -/
theorem roundShift_up {mode : Rnd} (hsr : SixteenBits mode) (m : Nat) {s : Nat} (hs : s ≠ 0) : roundShift mode false m s
    = m / 2 ^ s + if roundsUp mode (decide (m / 2 ^ s % 2 = 1)) ((m % 2 ^ s : Nat) / 2 ^ s) then 1 else 0 := by
  by_cases h0 : m % 2 ^ s = 0
  · rw [roundShift_exact _ _ h0, h0, Nat.cast_zero, zero_div, roundsUp_exact hsr]
    rfl
  · have hle : (1 : ℚ) / 2 ≤ (m % 2 ^ s : Nat) / 2 ^ s ↔ 2 ^ (s - 1) ≤ m % 2 ^ s := by
      rw [le_iff_lt_or_eq, half_lt_remainder _ hs, eq_comm, half_eq_remainder _ hs, Nat.le_iff_lt_or_eq]
    have hup : (0 : ℚ) < (m % 2 ^ s : Nat) / 2 ^ s := div_pos (by exact_mod_cast Nat.pos_of_ne_zero h0) (by positivity)
    simp only [roundShift, h0, Nat.shiftRight_eq_div_pow, if_false]
    cases mode with
    | rtz | rdn => rfl
    | rup => simp only [roundsUp, hup, decide_true, if_true, Bool.false_eq_true, if_false]
    | rne =>
      simp only [roundsUp, half_lt_remainder _ hs, half_eq_remainder _ hs, decide_eq_true_eq]
      split <;> rfl
    | rna =>
      simp only [roundsUp, hle, decide_eq_true_eq]
      split <;> rfl
    | sr x =>
      simp only [roundsUp, whole_le_remainder, decide_eq_true_eq]
      rw [← Nat.shiftRight_eq_div_pow]
      exact stochastic_carry m x s (hsr x rfl)

/-- A magnitude in units of 2^q. -/
def inUnits (m : Nat) (e q : Int) : ℚ := m * 2 ^ (e - q)

theorem inUnits_mul (m : Nat) (e q : Int) : inUnits m e q * 2 ^ q = m * 2 ^ e := by
  rw [inUnits, mul_assoc, ← zpow_add₀ two_ne_zero, sub_add_cancel]

theorem inUnits_le {m : Nat} {e q : Int} (h : q ≤ e) : inUnits m e q = (m <<< (e - q).toNat : Nat) := by
  rw [inUnits, Nat.shiftLeft_eq]
  push_cast
  rw [← zpow_natCast, Int.toNat_of_nonneg (by omega)]

theorem inUnits_lt {m : Nat} {e q : Int} (h : ¬q ≤ e) :
    inUnits m e q = (m / 2 ^ (q - e).toNat : Nat) + ((m % 2 ^ (q - e).toNat : Nat) : ℚ) / 2 ^ (q - e).toNat := by
  have hsplit : (m : ℚ) = 2 ^ (q - e).toNat * (m / 2 ^ (q - e).toNat : Nat) + (m % 2 ^ (q - e).toNat : Nat) := by
    exact_mod_cast (Nat.div_add_mod m _).symm
  have hpow : (2 : ℚ) ^ (e - q) = (2 ^ (q - e).toNat)⁻¹ := by
    rw [← zpow_natCast, Int.toNat_of_nonneg (by omega), ← zpow_neg, neg_sub]
  have hD : (2 : ℚ) ^ (q - e).toNat ≠ 0 := by positivity
  rw [inUnits, hpow]
  conv_lhs => rw [hsplit]
  field_simp

/-- Truncation gives the whole units of a magnitude. -/
theorem roundUnits_rtz (m : Nat) (e q : Int) :
    (roundUnits .rtz false m e q : ℚ) ≤ inUnits m e q ∧ inUnits m e q < roundUnits .rtz false m e q + 1 := by
  unfold roundUnits
  split
  next h => simp [inUnits_le h]
  next h =>
    have hD : (0 : ℚ) < 2 ^ (q - e).toNat := by positivity
    have hr : ((m % 2 ^ (q - e).toNat : Nat) : ℚ) < 2 ^ (q - e).toNat := by exact_mod_cast Nat.mod_lt m (by positivity)
    rw [inUnits_lt h, roundShift_rtz]
    exact ⟨le_add_of_nonneg_right (by positivity), by rw [add_lt_add_iff_left, div_lt_one hD]; exact hr⟩

/-- Each mode adds a unit to the truncated magnitude where it rounds up. -/
theorem roundUnits_up {mode : Rnd} (hsr : SixteenBits mode) (m : Nat) (e q : Int) : roundUnits mode false m e q
    = roundUnits .rtz false m e q
      + if roundsUp mode (decide (roundUnits .rtz false m e q % 2 = 1)) (inUnits m e q - roundUnits .rtz false m e q) then 1 else 0 := by
  unfold roundUnits
  split
  next h => simp [inUnits_le h, roundsUp_exact hsr]
  next h => rw [inUnits_lt h, roundShift_rtz, add_sub_cancel_left]; exact roundShift_up hsr m (by omega)

theorem roundUnits_ge (mode : Rnd) (neg : Bool) (m : Nat) (e q : Int) : roundUnits .rtz false m e q ≤ roundUnits mode neg m e q := by
  unfold roundUnits
  split
  · exact le_rfl
  · rw [roundShift_rtz]
    exact roundShift_ge mode neg m _

/-- A whole number of units is rounded to itself in every mode. -/
theorem roundUnits_exact (mode : Rnd) (neg : Bool) {m : Nat} {e q : Int} (h : inUnits m e q = roundUnits .rtz false m e q) :
    roundUnits mode neg m e q = roundUnits .rtz false m e q := by
  unfold roundUnits at *
  split
  · rfl
  next hq =>
    rw [if_neg hq, inUnits_lt hq, roundShift_rtz, add_eq_left, div_eq_zero_iff, or_iff_left (by positivity)] at h
    rw [roundShift_exact _ _ (by exact_mod_cast h), roundShift_rtz]

end Sys2Proof.Machine
end
section
/-! PROOFS. The numbers that a float format represents, in order, and rounding to them (R46, R47, R57, R60). -/

namespace Sys2Proof.Machine

open Sys2Proof

/-! ## The represented magnitudes -/

/-- Steps between represented magnitudes at the bits `n`: the weight of the least significant bit (R57). -/
def gridUlp (f : FloatFmt) (n : Nat) : ℚ := 2 ^ (max ((n / 2 ^ f.frac : Nat) : Int) 1 - f.bias - f.frac)

/-- The significand of the bits of a magnitude. -/
def gridMant (f : FloatFmt) (n : Nat) : Nat := if n / 2 ^ f.frac = 0 then n % 2 ^ f.frac else 2 ^ f.frac + n % 2 ^ f.frac

/-- The magnitude that the bits `n` stand for, with an exponent range unbounded above (R47, R57). -/
def gridVal (f : FloatFmt) (n : Nat) : ℚ := gridMant f n * gridUlp f n

theorem gridUlp_pos (f : FloatFmt) (n : Nat) : 0 < gridUlp f n := by
  unfold gridUlp
  positivity

theorem gridVal_zero (f : FloatFmt) : gridVal f 0 = 0 := by simp [gridVal, gridMant]

/-- A significand over the subnormal exponent, or a normal one over any exponent, gives its bits by addition. -/
theorem grid_of_significand (f : FloatFmt) {g x : Nat} (hg : g < 2 * 2 ^ f.frac) (hx : x = 0 ∨ 2 ^ f.frac ≤ g) :
    gridMant f (g + x * 2 ^ f.frac) = g ∧ gridUlp f (g + x * 2 ^ f.frac) = 2 ^ ((x : Int) + 1 - f.bias - f.frac) := by
  have hpos : 0 < 2 ^ f.frac := by positivity
  unfold gridMant gridUlp
  rw [Nat.add_mul_div_right _ _ hpos, Nat.add_mul_mod_self_right]
  by_cases hlow : g < 2 ^ f.frac
  · obtain rfl : x = 0 := hx.resolve_right (by omega)
    simp [Nat.div_eq_of_lt hlow, Nat.mod_eq_of_lt hlow]
  · have hdiv : g / 2 ^ f.frac = 1 := Nat.div_eq_of_lt_le (by omega) (by omega)
    have hmod : g % 2 ^ f.frac = g - 2 ^ f.frac := by rw [Nat.mod_eq_sub_mod (by omega), Nat.mod_eq_of_lt (by omega)]
    rw [hdiv, hmod, if_neg (by omega)]
    refine ⟨by omega, ?_⟩
    congr 3
    omega

theorem gridVal_of_significand (f : FloatFmt) {g x : Nat} (hg : g < 2 * 2 ^ f.frac) (hx : x = 0 ∨ 2 ^ f.frac ≤ g) :
    gridVal f (g + x * 2 ^ f.frac) = g * 2 ^ ((x : Int) + 1 - f.bias - f.frac) := by
  obtain ⟨hm, hu⟩ := grid_of_significand f hg hx
  rw [gridVal, hm, hu]

/-- Every magnitude's bits are a significand over an exponent. -/
theorem exists_significand (f : FloatFmt) (n : Nat) :
    ∃ g x, n = g + x * 2 ^ f.frac ∧ g < 2 * 2 ^ f.frac ∧ (x = 0 ∨ 2 ^ f.frac ≤ g) := by
  have hpos : 0 < 2 ^ f.frac := by positivity
  have hmod := Nat.mod_lt n hpos
  have hn := Nat.div_add_mod' n (2 ^ f.frac)
  cases hx : n / 2 ^ f.frac with
  | zero => exact ⟨n, 0, by omega, by rw [hx] at hn; omega, .inl rfl⟩
  | succ x =>
    rw [hx, Nat.succ_mul] at hn
    exact ⟨n % 2 ^ f.frac + 2 ^ f.frac, x, by omega, by omega, .inr (by omega)⟩

/-- The next magnitude stands one step further. -/
theorem gridVal_succ (f : FloatFmt) (n : Nat) : gridVal f (n + 1) = gridVal f n + gridUlp f n := by
  obtain ⟨g, x, rfl, hg, hx⟩ := exists_significand f n
  rw [gridVal_of_significand f hg hx, (grid_of_significand f hg hx).2]
  by_cases hlast : g + 1 = 2 * 2 ^ f.frac
  · have hpos : 0 < 2 ^ f.frac := by positivity
    have hbits : g + x * 2 ^ f.frac + 1 = 2 ^ f.frac + (x + 1) * 2 ^ f.frac := by rw [Nat.succ_mul]; omega
    have hcast : (g : ℚ) + 1 = 2 * 2 ^ f.frac := by exact_mod_cast hlast
    rw [hbits, gridVal_of_significand f (by omega) (.inr le_rfl), ← add_one_mul, hcast]
    push_cast
    rw [show (x : Int) + 1 + 1 - f.bias - f.frac = (x + 1 - f.bias - f.frac) + 1 by ring, zpow_add_one₀ two_ne_zero]
    ring
  · rw [Nat.add_right_comm, gridVal_of_significand f (by omega) (hx.imp_right (by omega))]
    push_cast
    ring

theorem gridVal_strictMono (f : FloatFmt) : StrictMono (gridVal f) := strictMono_nat_of_lt_succ fun n => by
  rw [gridVal_succ]
  exact lt_add_of_pos_right _ (gridUlp_pos f n)

/-- A magnitude that lies between a represented one and the next has only one such neighbour below it. -/
theorem grid_neighbour_unique (f : FloatFmt) {n k : Nat} {x : ℚ} (hn : gridVal f n ≤ x ∧ x < gridVal f (n + 1))
    (hk : gridVal f k ≤ x ∧ x < gridVal f (k + 1)) : n = k := by
  have h1 := (gridVal_strictMono f).lt_iff_lt.1 (hn.1.trans_lt hk.2)
  have h2 := (gridVal_strictMono f).lt_iff_lt.1 (hk.1.trans_lt hn.2)
  omega

/-! ## Rounding with an unbounded exponent range -/

/-- The bits of a magnitude rounded as if the exponent range had no upper end (R57). -/
def gridBits (f : FloatFmt) (mode : Rnd) (neg : Bool) (m : Nat) (e : Int) : Nat :=
  if m = 0 then 0 else
  let q : Int := max ((Nat.log2 m : Int) + e) (1 - (f.bias : Int)) - f.frac
  roundUnits mode neg m e q + (q + f.frac + f.bias - 1).toNat * 2 ^ f.frac

/-- Rounding is that of R57 followed by the overflow of R60. -/
theorem roundTo_fin (f : FloatFmt) (mode : Rnd) (sat neg : Bool) (m : Nat) (e : Int) : roundTo f mode sat (.fin neg m e)
    = if f.top < gridBits f mode neg m e then overflowBits f mode sat neg
      else (if neg then 2 ^ (f.width - 1) else 0) + gridBits f mode neg m e := by
  by_cases h : m = 0
  · simp [roundTo, gridBits, h]
  · simp only [roundTo, gridBits, h, if_false]
    rfl

theorem gridBits_mirror (f : FloatFmt) (mode : Rnd) (m : Nat) (e : Int) : gridBits f mode true m e = gridBits f (mirror mode) false m e := by
  simp only [gridBits, roundUnits_mirror]

theorem gridBits_ge (f : FloatFmt) (mode : Rnd) (neg : Bool) (m : Nat) (e : Int) : gridBits f .rtz false m e ≤ gridBits f mode neg m e := by
  unfold gridBits
  split
  · exact le_rfl
  · exact Nat.add_le_add_right (roundUnits_ge mode neg m e _) _

/-- The unit at which a magnitude is rounded makes its truncation a significand of the format. -/
theorem significand_of_unit (f : FloatFmt) {m : Nat} (hm : m ≠ 0) (e : Int) {q : Int} {x : Nat}
    (hq : q = max ((Nat.log2 m : Int) + e) (1 - (f.bias : Int)) - f.frac) (hx : x = (q + f.frac + f.bias - 1).toNat) :
    roundUnits .rtz false m e q < 2 * 2 ^ f.frac ∧ (x = 0 ∨ 2 ^ f.frac ≤ roundUnits .rtz false m e q)
      ∧ (x : Int) + 1 - f.bias - f.frac = q := by
  obtain ⟨hlo, hhi⟩ := roundUnits_rtz m e q
  refine ⟨?_, ?_, by omega⟩
  · have hm2 : (m : ℚ) < 2 ^ ((Nat.log2 m : Int) + 1) := by exact_mod_cast Nat.lt_log2_self
    have hunits : inUnits m e q < 2 ^ ((f.frac : Int) + 1) :=
      calc inUnits m e q < 2 ^ ((Nat.log2 m : Int) + 1) * 2 ^ (e - q) := mul_lt_mul_of_pos_right hm2 (by positivity)
        _ = 2 ^ ((Nat.log2 m : Int) + 1 + (e - q)) := (zpow_add₀ two_ne_zero _ _).symm
        _ ≤ 2 ^ ((f.frac : Int) + 1) := zpow_le_zpow_right₀ one_le_two (by omega)
    have := hlo.trans_lt hunits
    rw [zpow_add_one₀ two_ne_zero, mul_comm] at this
    exact_mod_cast this
  · by_cases h0 : x = 0
    · exact .inl h0
    · have hm2 : (2 : ℚ) ^ (Nat.log2 m : Int) ≤ m := by exact_mod_cast Nat.log2_self_le hm
      have hunits : (2 : ℚ) ^ (f.frac : Int) ≤ inUnits m e q :=
        calc (2 : ℚ) ^ (f.frac : Int) = 2 ^ ((Nat.log2 m : Int) + (e - q)) := by congr 1; omega
          _ = 2 ^ (Nat.log2 m : Int) * 2 ^ (e - q) := zpow_add₀ two_ne_zero _ _
          _ ≤ inUnits m e q := mul_le_mul_of_nonneg_right hm2 (by positivity)
      have := hunits.trans_lt hhi
      exact .inr (Nat.lt_succ_iff.1 (by exact_mod_cast this))

/-- How far a magnitude stands above the represented one below it, as a fraction of the step there. -/
def gridPart (f : FloatFmt) (n : Nat) (x : ℚ) : ℚ := (x - gridVal f n) / gridUlp f n

/-- RTZ gives the represented magnitude below, and each mode the next one where it rounds up (R57). -/
theorem gridBits_spec (f : FloatFmt) (hfrac : f.frac ≠ 0) (m : Nat) (e : Int) :
    let n := gridBits f .rtz false m e
    let x := numVal (.fin false m e)
    (gridVal f n ≤ x ∧ x < gridVal f (n + 1))
    ∧ ∀ mode, SixteenBits mode → gridBits f mode false m e = n + if roundsUp mode (decide (n % 2 = 1)) (gridPart f n x) then 1 else 0 := by
  intro n x
  by_cases hm : m = 0
  · have hn : n = 0 := if_pos hm
    have hx : x = 0 := numVal_eq_zero.2 hm
    rw [hn, hx, gridVal_succ, gridVal_zero, zero_add]
    refine ⟨⟨le_rfl, gridUlp_pos f 0⟩, fun mode hsr => ?_⟩
    rw [gridPart, gridVal_zero, sub_zero, zero_div, roundsUp_exact hsr]
    exact if_pos hm
  · generalize hq : max ((Nat.log2 m : Int) + e) (1 - (f.bias : Int)) - f.frac = q
    generalize hE : (q + f.frac + f.bias - 1).toNat = E
    have hgrid (mode : Rnd) : gridBits f mode false m e = roundUnits mode false m e q + E * 2 ^ f.frac := by
      simp only [gridBits, hm, if_false, hq, hE]
    have hn : n = roundUnits .rtz false m e q + E * 2 ^ f.frac := hgrid .rtz
    obtain ⟨hlt, hnormal, hexp⟩ := significand_of_unit f hm e hq.symm hE.symm
    obtain ⟨hlo, hhi⟩ := roundUnits_rtz m e q
    have hv : gridVal f n = roundUnits .rtz false m e q * 2 ^ q := by rw [hn, gridVal_of_significand f hlt hnormal, hexp]
    have hu : gridUlp f n = 2 ^ q := by rw [hn, (grid_of_significand f hlt hnormal).2, hexp]
    have hx : x = inUnits m e q * 2 ^ q := by rw [inUnits_mul]; simp [x, numVal_fin]
    have hpos : (0 : ℚ) < 2 ^ q := by positivity
    rw [gridVal_succ, hv, hu, hx, ← add_one_mul]
    refine ⟨⟨mul_le_mul_of_nonneg_right hlo hpos.le, mul_lt_mul_of_pos_right hhi hpos⟩, fun mode hsr => ?_⟩
    have hodd : n % 2 = roundUnits .rtz false m e q % 2 := by
      obtain ⟨k, hk⟩ := Nat.exists_eq_succ_of_ne_zero hfrac
      rw [hn, hk, pow_succ, ← mul_assoc, Nat.add_mul_mod_self_right]
    have hpart : gridPart f n (inUnits m e q * 2 ^ q) = inUnits m e q - roundUnits .rtz false m e q := by
      rw [gridPart, hv, hu, ← sub_mul, mul_div_cancel_right₀ _ hpos.ne']
    rw [hgrid, roundUnits_up hsr, hodd, hpart, hn, Nat.add_right_comm]

theorem gridBits_between (f : FloatFmt) (hfrac : f.frac ≠ 0) (m : Nat) (e : Int) :
    gridVal f (gridBits f .rtz false m e) ≤ numVal (.fin false m e) ∧ numVal (.fin false m e) < gridVal f (gridBits f .rtz false m e + 1) :=
  (gridBits_spec f hfrac m e).1

theorem gridBits_up (f : FloatFmt) (hfrac : f.frac ≠ 0) {mode : Rnd} (hsr : SixteenBits mode) (m : Nat) (e : Int) : gridBits f mode false m e
    = gridBits f .rtz false m e + if roundsUp mode (decide (gridBits f .rtz false m e % 2 = 1))
        (gridPart f (gridBits f .rtz false m e) (numVal (.fin false m e))) then 1 else 0 :=
  (gridBits_spec f hfrac m e).2 mode hsr

/-- A represented magnitude is rounded to itself in every mode. -/
theorem gridBits_exact (f : FloatFmt) (mode : Rnd) (neg : Bool) {m : Nat} {e : Int} {n : Nat} (hfrac : f.frac ≠ 0)
    (h : numVal (.fin false m e) = gridVal f n) : gridBits f mode neg m e = n := by
  have hn : gridBits f .rtz false m e = n := grid_neighbour_unique f (gridBits_between f hfrac m e)
    ⟨h.ge, h.trans_lt (gridVal_strictMono f (Nat.lt_succ_self n))⟩
  by_cases hm : m = 0
  · rw [← hn]
    simp [gridBits, hm]
  · rw [← hn] at h ⊢
    simp only [gridBits, hm, if_false]
    generalize hq : max ((Nat.log2 m : Int) + e) (1 - (f.bias : Int)) - f.frac = q at *
    obtain ⟨hlt, hnormal, hexp⟩ := significand_of_unit f hm e hq.symm rfl
    have hpos : (2 : ℚ) ^ q ≠ 0 := by positivity
    simp only [gridBits, hm, if_false, hq, gridVal_of_significand f hlt hnormal, hexp] at h
    rw [roundUnits_exact mode neg (mul_right_cancel₀ hpos ((inUnits_mul m e q).trans (Eq.trans (by simp [numVal_fin]) h)))]

end Sys2Proof.Machine
end
section
/-! PROOFS. The limits of the float formats, the values of their elements, and the neighbours of a rounding (R46, R47, R57, R60). -/

namespace Sys2Proof.Machine

open Sys2Proof

/-! ## The limits of the formats (R46, R48, R53) -/

/-- The float formats of elements and of accumulator cells. -/
def floatFormats : List FloatFmt := [fF32, fF64, fF16, fBF16, fE4M3, fE5M2, fE2M1, fFX96]

/-- What the limits of every float format have in common: a fraction field, a largest magnitude that does not end a row of equal exponents,
and above it the infinity, or none. -/
structure FormatOk (f : FloatFmt) : Prop where
  frac : f.frac ≠ 0
  top_lt : f.top < 2 ^ (f.width - 1)
  top_fraction : f.top % 2 ^ f.frac ≠ 0
  top_normal : f.top / 2 ^ f.frac ≠ 0
  inf : f.inf.all (fun i => decide (i = f.top + 1 ∧ i < 2 ^ (f.width - 1))) = true
  nan : f.inf = none → f.nan.all (fun n => decide (f.top < n ∧ n < 2 ^ (f.width - 1))) = true

theorem formatOk_of_mem {f : FloatFmt} (h : f ∈ floatFormats) : FormatOk f := by
  simp only [floatFormats, List.mem_cons, List.not_mem_nil, or_false] at h
  rcases h with rfl | rfl | rfl | rfl | rfl | rfl | rfl | rfl <;>
    exact ⟨by decide, by decide, by decide, by decide, by decide, by decide⟩

/-- The canonical NaN of a format without infinities is a magnitude above the largest finite one. -/
theorem FormatOk.notNumber {f : FloatFmt} (ok : FormatOk f) (hnone : f.inf = none) {n : Nat} (h : f.nan = some n) :
    f.top < n ∧ n < 2 ^ (f.width - 1) := by
  have hall := ok.nan hnone
  rw [h] at hall
  exact of_decide_eq_true hall

/-- The infinity of a format is the next magnitude after the largest finite one. -/
theorem FormatOk.infinity {f : FloatFmt} (ok : FormatOk f) {i : Nat} (h : f.inf = some i) : i = f.top + 1 ∧ i < 2 ^ (f.width - 1) := by
  have hall := ok.inf
  rw [h] at hall
  exact of_decide_eq_true hall

/-! ## The value of an element (R47) -/

/-- The bits of the sign. -/
def signBit (f : FloatFmt) (neg : Bool) : Nat := if neg then 2 ^ (f.width - 1) else 0

/-- The weight of the least significant bit of an element, as an exponent. -/
def ulpExp (f : FloatFmt) (n : Nat) : Int := max ((n / 2 ^ f.frac : Nat) : Int) 1 - f.bias - f.frac

theorem two_pow_width (f : FloatFmt) : 2 ^ f.width = 2 * 2 ^ (f.width - 1) := by
  rw [← pow_succ', show f.width - 1 + 1 = f.width by simp [FloatFmt.width]; omega]

theorem floatVal_bits (f : FloatFmt) (neg : Bool) {mag : Nat} (h : mag < 2 ^ (f.width - 1)) : floatVal f (signBit f neg + mag)
    = if f.top < mag then (if f.inf = some mag then .inf neg else .nan) else .fin neg (gridMant f mag) (ulpExp f mag) := by
  have hw := two_pow_width f
  have hb : (signBit f neg + mag) % 2 ^ f.width = signBit f neg + mag := Nat.mod_eq_of_lt (by unfold signBit; split <;> omega)
  have hneg : decide (2 ^ (f.width - 1) ≤ signBit f neg + mag) = neg := by cases neg <;> simp [signBit, h]
  have hmag : (signBit f neg + mag) % 2 ^ (f.width - 1) = mag := by cases neg <;> simp [signBit, Nat.mod_eq_of_lt h]
  simp only [floatVal, hb, hneg, hmag]
  split
  · rfl
  · unfold gridMant ulpExp
    split
    next h0 => simp [h0]
    next h0 => rw [max_eq_left (by exact_mod_cast Nat.one_le_iff_ne_zero.2 h0)]

theorem floatVal_finite {f : FloatFmt} (ok : FormatOk f) (neg : Bool) {mag : Nat} (h : mag ≤ f.top) :
    floatVal f (signBit f neg + mag) = .fin neg (gridMant f mag) (ulpExp f mag) := by
  rw [floatVal_bits f neg (h.trans_lt ok.top_lt), if_neg (not_lt.2 h)]

theorem numVal_grid (f : FloatFmt) (neg : Bool) (n : Nat) : numVal (.fin neg (gridMant f n) (ulpExp f n)) = signOf neg * gridVal f n := by
  rw [numVal_fin, mul_assoc]
  rfl

/-- The positive elements are the magnitudes in order. -/
theorem floatVal_magnitude {f : FloatFmt} (ok : FormatOk f) {n : Nat} (h : n ≤ f.top) :
    IsFin (floatVal f n) ∧ numVal (floatVal f n) = gridVal f n := by
  have hv := floatVal_finite ok false h
  rw [show signBit f false + n = n from Nat.zero_add n] at hv
  rw [hv]
  exact ⟨isFin_fin .., by simpa using numVal_grid f false n⟩

/-- The largest magnitude and the one before it have the same step. -/
theorem gridUlp_top {f : FloatFmt} (ok : FormatOk f) : gridUlp f (f.top - 1) = gridUlp f f.top := by
  have h1 := ok.top_fraction
  have h2 := Nat.div_add_mod f.top (2 ^ f.frac)
  have hlt := Nat.mod_lt f.top (show 0 < 2 ^ f.frac by positivity)
  have hpred : (f.top - 1) / 2 ^ f.frac = f.top / 2 ^ f.frac := by
    rw [Nat.div_eq_iff (by positivity)]
    rw [mul_comm] at h2
    constructor <;> omega
  simp only [gridUlp, hpred]

/-! ## The neighbours of a rounding (R57) -/

/-- The distance from an element to the next, or at the largest one from the one before. -/
def gapAt (f : FloatFmt) (n : Nat) : Num :=
  if n < f.top then numAdd false (floatVal f (n + 1)) (numNeg (floatVal f n)) else numAdd false (floatVal f n) (numNeg (floatVal f (n - 1)))

theorem numVal_gapAt {f : FloatFmt} (ok : FormatOk f) {n : Nat} (h : n ≤ f.top) : IsFin (gapAt f n) ∧ numVal (gapAt f n) = gridUlp f n := by
  obtain ⟨hfin, hval⟩ := floatVal_magnitude ok h
  unfold gapAt
  split
  next hlt =>
    obtain ⟨hfin', hval'⟩ := floatVal_magnitude ok (show n + 1 ≤ f.top from hlt)
    refine ⟨isFin_numAdd _ hfin' (isFin_numNeg hfin), ?_⟩
    rw [numVal_numAdd _ hfin' (isFin_numNeg hfin), numVal_numNeg, hval, hval', gridVal_succ]
    ring
  next hge =>
    obtain rfl : n = f.top := by omega
    have hpos : f.top - 1 + 1 = f.top := Nat.succ_pred_eq_of_ne_zero fun h0 => ok.top_fraction (by rw [show f.top = 0 from h0, Nat.zero_mod])
    obtain ⟨hfin', hval'⟩ := floatVal_magnitude ok (Nat.sub_le f.top 1)
    refine ⟨isFin_numAdd _ hfin (isFin_numNeg hfin'), ?_⟩
    have hstep := gridVal_succ f (f.top - 1)
    rw [hpos, gridUlp_top ok] at hstep
    rw [numVal_numAdd _ hfin (isFin_numNeg hfin'), numVal_numNeg, hval, hval', hstep]
    ring

/-- Overflow of a positive number in a format with infinities: the modes that round up give the infinity, the others the largest magnitude. -/
theorem overflowBits_inf {f : FloatFmt} (ok : FormatOk f) (h : f.inf ≠ none) (mode : Rnd) :
    overflowBits f mode false false = f.top + if decide (mode ≠ .rtz ∧ mode ≠ .rdn) = true then 1 else 0 := by
  obtain ⟨i, hi⟩ := Option.ne_none_iff_exists'.1 h
  obtain ⟨rfl, -⟩ := ok.infinity hi
  cases mode <;> simp [overflowBits, hi]

/-- In a format without infinities a number that RTZ brings below the largest magnitude does not overflow. -/
theorem gridBits_lt_top {f : FloatFmt} (ok : FormatOk f) {m : Nat} {e : Int} (hnone : f.inf = none)
    (h : roundTo f .rtz false (.fin false m e) < f.top) : gridBits f .rtz false m e < f.top := by
  rw [roundTo_fin] at h
  split at h
  next hover =>
    unfold overflowBits at h
    rw [hnone] at h
    cases hn : f.nan with
    | none => simp [hn] at h
    | some n =>
      have := ok.notNumber hnone hn
      simp [hn] at h
      omega
  next => simpa using h

/-- A positive number that is not beyond the range lies between two neighbours, and each mode chooses one of them; beyond the range the
infinity, where there is one, takes the place of the larger. -/
theorem roundTo_neighbours {f : FloatFmt} (ok : FormatOk f) {mode : Rnd} (hsr : SixteenBits mode) {m : Nat} {e : Int}
    (hend : f.inf = none → roundTo f .rtz false (.fin false m e) < f.top) :
    let lo := roundTo f .rtz false (.fin false m e)
    let x := numVal (.fin false m e)
    lo ≤ f.top ∧ gridVal f lo ≤ x ∧ (lo < f.top → x < gridVal f (lo + 1))
    ∧ roundTo f mode false (.fin false m e) = lo + if roundsUp mode (decide (lo % 2 = 1)) (gridPart f lo x) then 1 else 0 := by
  intro lo x
  obtain ⟨hlow, hhigh⟩ := gridBits_between f ok.frac m e
  have hup := gridBits_up f ok.frac hsr m e
  have hge := gridBits_ge f mode false m e
  by_cases hn : gridBits f .rtz false m e ≤ f.top
  · have hlo : lo = gridBits f .rtz false m e := by simp [lo, roundTo_fin, not_lt.2 hn]
    rw [← hlo] at hup hlow hhigh hn
    refine ⟨hn, hlow, fun _ => hhigh, ?_⟩
    rw [roundTo_fin]
    split
    next hover =>
      by_cases hr : roundsUp mode (decide (lo % 2 = 1)) (gridPart f lo x) = true
      · rw [if_pos hr] at hup ⊢
        have htop : lo = f.top := by omega
        have hmode : mode ≠ .rtz ∧ mode ≠ .rdn := by constructor <;> rintro rfl <;> simp [roundsUp] at hr
        rw [overflowBits_inf ok (fun h => (hend h).ne htop), if_pos (decide_eq_true hmode), htop]
      · rw [if_neg hr] at hup
        omega
    next => rw [hup, if_neg Bool.false_ne_true, Nat.zero_add]
  · have hinf : f.inf ≠ none := fun h => hn (gridBits_lt_top ok h (hend h)).le
    have hlo : lo = f.top := by
      simp only [lo, roundTo_fin, not_le.1 hn, if_true, overflowBits_inf ok hinf]
      simp
    have hbeyond : gridVal f (f.top + 1) ≤ x := ((gridVal_strictMono f).monotone (not_le.1 hn)).trans hlow
    have hwhole : 1 ≤ gridPart f f.top x := by
      rw [gridPart, le_div_iff₀ (gridUlp_pos f _), one_mul, le_sub_iff_add_le', ← gridVal_succ]
      exact hbeyond
    rw [hlo]
    refine ⟨le_rfl, ((gridVal_strictMono f).monotone (Nat.le_succ _)).trans hbeyond, fun h => absurd h (lt_irrefl _), ?_⟩
    rw [roundTo_fin, if_pos (by omega), overflowBits_inf ok hinf, roundsUp_whole _ hwhole]

theorem sixteenBits_mirror {mode : Rnd} (h : SixteenBits mode) : SixteenBits (mirror mode) := fun r hr =>
  h r (by cases mode <;> simp_all [mirror])

/-- A negative number rounds as its magnitude does, with RDN and RUP exchanged (R57). -/
theorem roundTo_negative {f : FloatFmt} (ok : FormatOk f) {mode : Rnd} (hsr : SixteenBits mode) {m : Nat} {e : Int}
    (hend : f.inf = none → roundTo f .rtz false (.fin false m e) < f.top) :
    roundTo f mode false (.fin true m e) = 2 ^ (f.width - 1) + roundTo f (mirror mode) false (.fin false m e) := by
  rw [roundTo_fin, roundTo_fin, gridBits_mirror]
  split
  next hover =>
    cases hinf : f.inf with
    | none =>
      have hlt := gridBits_lt_top ok hinf (hend hinf)
      have hup := gridBits_up f ok.frac (sixteenBits_mirror hsr) m e
      split at hup <;> omega
    | some i => cases mode <;> simp [overflowBits, hinf, mirror]
  next => simp

/-! ## The fraction between the neighbours, by comparing exact numbers -/

/-- Rounding up where a condition holds. -/
theorem add_up_eq_ite {α : Type} [AddZeroClass α] [One α] (lo : α) {up : Bool} {c : Prop} [Decidable c] (h : up = decide c) :
    (lo + if up = true then 1 else 0) = if c then lo + 1 else lo := by
  rw [h]
  by_cases hc : c <;> simp [hc]

theorem numVal_twice {past : Num} (hp : IsFin past) {t u : ℚ} (ht : t * u = numVal past) :
    numVal (numMul (.fin false 2 0) past) = t * 2 * u := by
  rw [numVal_numMul (isFin_fin ..) hp, numVal_natural, ← ht]
  push_cast
  ring

section fraction

variable {past gap : Num} {t : ℚ} (hp : IsFin past) (hg : IsFin gap) (hpos : 0 < numVal gap) (ht : t * numVal gap = numVal past)
include hp hg hpos ht

theorem part_lt_one : numCmp past gap < 0 ↔ t < 1 := by
  rw [numCmp_lt_zero hp hg, ← ht, mul_lt_iff_lt_one_left hpos]

theorem half_lt_part : 0 < numCmp (numMul (.fin false 2 0) past) gap ↔ 1 / 2 < t := by
  rw [numCmp_pos (isFin_numMul (isFin_fin ..) hp) hg, numVal_twice hp ht, lt_mul_iff_one_lt_left hpos, div_lt_iff₀ two_pos]

theorem half_eq_part : numCmp (numMul (.fin false 2 0) past) gap = 0 ↔ t = 1 / 2 := by
  rw [numCmp_eq_zero (isFin_numMul (isFin_fin ..) hp) hg, numVal_twice hp ht, mul_eq_right₀ hpos.ne', eq_div_iff two_ne_zero]

theorem half_le_part : 0 ≤ numCmp (numMul (.fin false 2 0) past) gap ↔ 1 / 2 ≤ t := by
  rw [numCmp_nonneg (isFin_numMul (isFin_fin ..) hp) hg, numVal_twice hp ht, le_mul_iff_one_le_left hpos, div_le_iff₀ two_pos]

theorem whole_le_part (r : Nat) :
    0 ≤ numCmp (numAdd false (numMul (.fin false 65536 0) past) (numMul (.fin false r 0) gap)) (numMul (.fin false 65536 0) gap)
      ↔ 1 ≤ t + r / 65536 := by
  have fin1 : IsFin (numMul (.fin false 65536 0) past) := isFin_numMul (isFin_fin ..) hp
  have fin2 : IsFin (numMul (.fin false r 0) gap) := isFin_numMul (isFin_fin ..) hg
  have hsum : (65536 : Nat) * (t * numVal gap) + r * numVal gap = (t + r / 65536) * ((65536 : Nat) * numVal gap) := by
    push_cast
    ring
  rw [numCmp_nonneg (isFin_numAdd _ fin1 fin2) (isFin_numMul (isFin_fin ..) hg), numVal_numAdd _ fin1 fin2, numVal_numMul (isFin_fin ..) hp,
    numVal_numMul (isFin_fin ..) hg, numVal_numMul (isFin_fin ..) hg, numVal_natural, numVal_natural, ← ht, hsum,
    le_mul_iff_one_le_left (by positivity)]

end fraction

end Sys2Proof.Machine

namespace Sys2Proof

open Machine

/-- Settles O39: each condition of the statement, on exact numbers, says of the fraction between the neighbours when the mode rounds up. -/
theorem roundingNeighbours : Obligations.RoundingNeighbours := by
  unfold Obligations.RoundingNeighbours
  intro f hf m e mode x k lo hi A gap past hsr hend
  have ok : FormatOk f := formatOk_of_mem (by simp only [floatFormats, List.mem_cons, List.not_mem_nil, or_false] at hf ⊢; tauto)
  obtain ⟨htop, hlow, hhigh, hchoice⟩ : lo ≤ f.top ∧ gridVal f lo ≤ numVal x ∧ (lo < f.top → numVal x < gridVal f (lo + 1))
      ∧ hi = lo + if roundsUp mode (decide (lo % 2 = 1)) (gridPart f lo (numVal x)) then 1 else 0 := roundTo_neighbours ok hsr hend
  have hchoose (c : Prop) [Decidable c] (h : roundsUp mode (decide (lo % 2 = 1)) (gridPart f lo (numVal x)) = decide c) :
      hi = if c then lo + 1 else lo := hchoice.trans (add_up_eq_ite lo h)
  obtain ⟨finA, valA⟩ := floatVal_magnitude ok htop
  obtain ⟨finG, valG⟩ : IsFin gap ∧ numVal gap = gridUlp f lo := numVal_gapAt ok htop
  have finX : IsFin x := isFin_fin ..
  have finP : IsFin past := isFin_numAdd _ finX (isFin_numNeg finA)
  have valP : numVal past = numVal x - gridVal f lo := by rw [numVal_numAdd _ finX (isFin_numNeg finA), numVal_numNeg, valA, sub_eq_add_neg]
  have hpos : 0 < numVal gap := valG ▸ gridUlp_pos f lo
  have hpart : gridPart f lo (numVal x) * numVal gap = numVal past := by rw [gridPart, valG, div_mul_cancel₀ _ (gridUlp_pos f lo).ne', valP]
  have hmoved : numCmp A x < 0 ↔ 0 < gridPart f lo (numVal x) := by
    rw [numCmp_lt_zero finA finX, valA, gridPart, div_pos_iff_of_pos_right (gridUlp_pos f lo), sub_pos]
  refine ⟨htop, (numCmp_le_zero finA finX).2 (valA.trans_le hlow), ?_, ?_, ?_, ?_, ?_, ?_, roundTo_negative ok hsr hend⟩
  · intro hlt
    rw [part_lt_one finP finG hpos hpart, gridPart, div_lt_one (gridUlp_pos f lo), sub_lt_iff_lt_add', ← gridVal_succ]
    exact hhigh hlt
  · rintro (rfl | rfl) <;> exact hchoice
  · rintro rfl
    exact hchoose _ (decide_eq_decide.2 hmoved.symm)
  · rintro rfl
    refine hchoose _ (decide_eq_decide.2 ?_)
    rw [half_lt_part finP finG hpos hpart, half_eq_part finP finG hpos hpart, decide_eq_true_eq]
  · rintro rfl
    exact hchoose _ (decide_eq_decide.2 (half_le_part finP finG hpos hpart).symm)
  · rintro r rfl
    exact hchoose _ (decide_eq_decide.2 (whole_le_part finP finG hpos hpart r).symm)

end Sys2Proof
end
section
/-! PROOFS. Conversions: representable numbers, overflow, integers, and MX blocks (R47, R51, R57, R60 to R65). -/

namespace Sys2Proof.Machine

open Sys2Proof

/-! ## Elements and representable numbers -/

/-- The bits of an exponent field and a fraction field. -/
theorem fields_split (f : FloatFmt) {x fr : Nat} (hx : x < 2 ^ f.exp) (hfr : fr < 2 ^ f.frac) :
    (x * 2 ^ f.frac + fr) / 2 ^ f.frac = x ∧ (x * 2 ^ f.frac + fr) % 2 ^ f.frac = fr ∧ x * 2 ^ f.frac + fr < 2 ^ (f.width - 1) := by
  have hpos : 0 < 2 ^ f.frac := by positivity
  have hw : f.width - 1 = f.exp + f.frac := by
    unfold FloatFmt.width
    omega
  refine ⟨?_, ?_, ?_⟩
  · rw [Nat.add_comm, Nat.add_mul_div_right _ _ hpos, Nat.div_eq_of_lt hfr, Nat.zero_add]
  · rw [Nat.mul_add_mod_self_right, Nat.mod_eq_of_lt hfr]
  · rw [hw, pow_add]
    calc x * 2 ^ f.frac + fr < (x + 1) * 2 ^ f.frac := by rw [Nat.succ_mul]; omega
      _ ≤ 2 ^ f.exp * 2 ^ f.frac := Nat.mul_le_mul_right _ hx

/-- The magnitude of an element by its fields (R47). -/
theorem gridVal_fields (f : FloatFmt) {x fr : Nat} (hx : x < 2 ^ f.exp) (hfr : fr < 2 ^ f.frac) : gridVal f (x * 2 ^ f.frac + fr)
    = if x = 0 then (fr : ℚ) * 2 ^ (1 - (f.bias : Int) - f.frac) else (2 ^ f.frac + fr : ℚ) * 2 ^ ((x : Int) - f.bias - f.frac) := by
  obtain ⟨hdiv, hmod, -⟩ := fields_split f hx hfr
  rw [gridVal, gridMant, gridUlp, hdiv, hmod]
  split
  next h => simp [h]
  next h =>
    rw [max_eq_left (by exact_mod_cast Nat.one_le_iff_ne_zero.2 h)]
    push_cast
    rfl

theorem signOf_ne_zero (neg : Bool) : signOf neg ≠ 0 := by cases neg <;> simp

/-- A number that an element represents converts to the bits of that element, whatever the mode. -/
theorem roundTo_represented {f : FloatFmt} (ok : FormatOk f) (mode : Rnd) (sat neg : Bool) {mag m : Nat} {e : Int} (hmag : mag ≤ f.top)
    (h : numVal (.fin neg m e) = signOf neg * gridVal f mag) : roundTo f mode sat (.fin neg m e) = signBit f neg + mag := by
  have hval : numVal (.fin false m e) = gridVal f mag := by
    refine mul_left_cancel₀ (signOf_ne_zero neg) (Eq.trans ?_ h)
    rw [numVal_fin, numVal_fin, signOf_false, one_mul, mul_assoc]
  rw [roundTo_fin, gridBits_exact f mode neg ok.frac hval, if_neg (not_lt.2 hmag)]
  rfl

/-! ## Overflow (R60) -/

/-- A saturating overflow gives the largest magnitude with the sign of the number. -/
theorem overflowBits_sat (f : FloatFmt) (mode : Rnd) (neg : Bool) : overflowBits f mode true neg = signBit f neg + f.top := by
  unfold overflowBits signBit
  cases f.inf with
  | some i => rfl
  | none => cases f.nan <;> rfl

theorem signBit_mod (f : FloatFmt) (neg : Bool) (n : Nat) : (signBit f neg + n) % 2 ^ (f.width - 1) = n % 2 ^ (f.width - 1) := by
  cases neg <;> simp [signBit]

/-- An overflow that does not saturate gives an infinity, a NaN or the largest magnitude with the sign of the number. -/
theorem overflowBits_cases {f : FloatFmt} (ok : FormatOk f) (mode : Rnd) (neg : Bool) :
    overflowBits f mode false neg = signBit f neg + f.top ∨ f.top < overflowBits f mode false neg % 2 ^ (f.width - 1) := by
  have habove {n : Nat} (h : f.top < n ∧ n < 2 ^ (f.width - 1)) (b : Bool) : f.top < (signBit f b + n) % 2 ^ (f.width - 1) := by
    rw [signBit_mod, Nat.mod_eq_of_lt h.2]
    exact h.1
  cases hinf : f.inf with
  | none =>
    cases hnan : f.nan with
    | none => exact .inl (by simp [overflowBits, signBit, hinf, hnan])
    | some n => exact .inr (by simpa [overflowBits, signBit, hinf, hnan] using habove (ok.notNumber hinf hnan) false)
  | some i =>
    obtain ⟨hi, hlt⟩ := ok.infinity hinf
    have hab (b : Bool) := habove ⟨Nat.lt_of_lt_of_eq (Nat.lt_succ_self _) hi.symm, hlt⟩ b
    cases mode with
    | rtz => exact .inl (by simp [overflowBits, signBit, hinf])
    | rne | rna | sr => exact .inr (by simpa [overflowBits, signBit, hinf] using hab neg)
    | rdn => cases neg with
      | false => exact .inl (by simp [overflowBits, signBit, hinf])
      | true => exact .inr (by simpa [overflowBits, signBit, hinf] using hab true)
    | rup => cases neg with
      | false => exact .inr (by simpa [overflowBits, signBit, hinf] using hab false)
      | true => exact .inl (by simp [overflowBits, signBit, hinf])

/-- Saturation changes what lies beyond the largest magnitude and nothing else. -/
theorem roundTo_sat {f : FloatFmt} (ok : FormatOk f) (mode : Rnd) (neg : Bool) (m : Nat) (e : Int) : roundTo f mode true (.fin neg m e)
    = if roundTo f mode false (.fin neg m e) % 2 ^ (f.width - 1) ≤ f.top then roundTo f mode false (.fin neg m e)
      else signBit f neg + f.top := by
  rw [roundTo_fin, roundTo_fin]
  by_cases hover : f.top < gridBits f mode neg m e
  · rw [if_pos hover, if_pos hover, overflowBits_sat]
    rcases overflowBits_cases ok mode neg with h | h
    · rw [h, ite_self]
    · rw [if_neg (not_le.2 h)]
  · rw [if_neg hover, if_neg hover]
    refine (if_pos ?_).symm
    rw [show (if neg = true then 2 ^ (f.width - 1) else 0) = signBit f neg from rfl, signBit_mod, Nat.mod_eq_of_lt]
    · exact not_lt.1 hover
    · exact (not_lt.1 hover).trans_lt ok.top_lt

/-- Twice the largest magnitude and more overflows in every mode. -/
theorem gridBits_overflow {f : FloatFmt} (ok : FormatOk f) (mode : Rnd) (neg : Bool) {m : Nat} {e : Int}
    (h : 0 ≤ numCmp (.fin false m e) (numAdd false (floatVal f f.top) (floatVal f f.top))) : f.top < gridBits f mode neg m e := by
  obtain ⟨finT, valT⟩ := floatVal_magnitude ok le_rfl
  rw [numCmp_nonneg (isFin_fin ..) (isFin_numAdd _ finT finT), numVal_numAdd _ finT finT, valT] at h
  have hmant : (1 : ℚ) ≤ gridMant f f.top := by
    have : 0 < 2 ^ f.frac := by positivity
    rw [gridMant, if_neg ok.top_normal]
    exact_mod_cast (by omega : 1 ≤ 2 ^ f.frac + f.top % 2 ^ f.frac)
  have hstep : gridUlp f f.top ≤ gridVal f f.top := le_mul_of_one_le_left (gridUlp_pos f _).le hmant
  have hnext : gridVal f (f.top + 1) ≤ numVal (.fin false m e) := by
    rw [gridVal_succ]
    linarith
  have := (gridVal_strictMono f).lt_iff_lt.1 (hnext.trans_lt (gridBits_between f ok.frac m e).2)
  have := gridBits_ge f mode neg m e
  omega

theorem roundTo_overflow {f : FloatFmt} (ok : FormatOk f) (mode : Rnd) (sat neg : Bool) {m : Nat} {e : Int}
    (h : 0 ≤ numCmp (.fin false m e) (numAdd false (floatVal f f.top) (floatVal f f.top))) :
    roundTo f mode sat (.fin neg m e) = overflowBits f mode sat neg := by
  rw [roundTo_fin, if_pos (gridBits_overflow ok mode neg h)]

/-! ## Integers (R62 to R64) -/

theorem intLo_eq (w : Nat) (signed : Bool) : intLo w signed = if signed then -2 ^ (w - 1) else 0 := by
  cases signed <;> simp [intLo]

theorem intHi_eq (w : Nat) (signed : Bool) : intHi w signed = if signed then 2 ^ (w - 1) - 1 else 2 ^ w - 1 := by
  cases signed <;> simp [intHi]

/-- A conversion into an integer format. -/
theorem convert_integer {code w : Nat} {signed : Bool} (h : codeInt code = some (w, signed)) (mode : Rnd) (sat : Bool) :
    (∀ x, convert code mode sat (.flt x) = toIntBits w signed mode x) ∧ ∀ i, convert code mode sat (.int i) = narrowInt w signed sat i := by
  unfold convert
  rw [h]
  exact ⟨fun _ => rfl, fun _ => rfl⟩

theorem convert_float {code : Nat} {f : FloatFmt} (hi : codeInt code = none) (hf : codeFloat code = some f) (mode : Rnd) (sat : Bool) :
    (∀ x, convert code mode sat (.flt x) = roundTo f mode sat x) ∧ ∀ i, convert code mode sat (.int i) = roundTo f mode sat (numOfInt i) := by
  unfold convert
  rw [hi, hf]
  exact ⟨fun _ => rfl, fun _ => rfl⟩

/-- Rounding to an integer is rounding to multiples of 1. -/
theorem roundInt_fin (mode : Rnd) (neg : Bool) (m : Nat) (e : Int) :
    roundInt mode (.fin neg m e) = if neg then -(roundUnits mode neg m e 0 : Int) else roundUnits mode neg m e 0 := by
  simp only [roundInt, roundUnits, sub_zero, zero_sub]

theorem roundInt_positive (mode : Rnd) (m : Nat) (e : Int) : roundInt mode (.fin false m e) = roundUnits mode false m e 0 :=
  roundInt_fin mode false m e

theorem inUnits_one (m : Nat) (e : Int) : inUnits m e 0 = numVal (.fin false m e) := by simp [inUnits, numVal_fin]

/-- A positive number lies between two integers, and each mode chooses one of them. -/
theorem roundInt_neighbours {mode : Rnd} (hsr : SixteenBits mode) (m : Nat) (e : Int) :
    let v := numVal (.fin false m e)
    let lo := roundInt .rtz (.fin false m e)
    0 ≤ lo ∧ (lo : ℚ) ≤ v ∧ v < lo + 1
    ∧ roundInt mode (.fin false m e) = lo + if roundsUp mode (decide (lo % 2 = 1)) (v - lo) then 1 else 0 := by
  obtain ⟨hlo, hhi⟩ := roundUnits_rtz m e 0
  have hup := roundUnits_up hsr m e 0
  have hodd : (roundUnits .rtz false m e 0 : Int) % 2 = 1 ↔ roundUnits .rtz false m e 0 % 2 = 1 := by omega
  simp only [roundInt_positive, inUnits_one, hodd] at hlo hhi hup ⊢
  refine ⟨by positivity, by exact_mod_cast hlo, by exact_mod_cast hhi, ?_⟩
  rw [hup]
  push_cast
  rfl

theorem roundInt_negative (mode : Rnd) (m : Nat) (e : Int) : roundInt mode (.fin true m e) = -roundInt (mirror mode) (.fin false m e) := by
  rw [roundInt_fin, if_pos rfl, roundInt_positive, roundUnits_mirror]

/-! ## MX blocks (R65) -/

/-- A finite number with a magnitude other than 0 has its logarithm as the floor of that of the magnitude. -/
theorem numLog_bounds (neg : Bool) {m : Nat} (hm : m ≠ 0) (e : Int) :
    (2 : ℚ) ^ numLog (.fin neg m e) ≤ |numVal (.fin neg m e)| ∧ |numVal (.fin neg m e)| < 2 ^ (numLog (.fin neg m e) + 1) := by
  have habs : |numVal (.fin neg m e)| = m * 2 ^ e := by
    have hpos : (0 : ℚ) ≤ m * 2 ^ e := by positivity
    cases neg <;> simp [numVal_fin, abs_of_nonneg hpos, -abs_mul]
  have h2 : (0 : ℚ) < 2 ^ e := by positivity
  have hlow : (2 : ℚ) ^ (Nat.log2 m : Int) ≤ m := by exact_mod_cast Nat.log2_self_le hm
  have hhigh : (m : ℚ) < 2 ^ ((Nat.log2 m : Int) + 1) := by exact_mod_cast Nat.lt_log2_self
  rw [habs, numLog, add_right_comm, zpow_add₀ two_ne_zero, zpow_add₀ two_ne_zero]
  exact ⟨mul_le_mul_of_nonneg_right hlow h2.le, mul_lt_mul_of_pos_right hhigh h2⟩

/-- The largest logarithm so far, with one more number. -/
def logStep (a : Option Int) (x : Num) : Option Int := some (match a with
  | some b => max b (numLog x)
  | none => numLog x)

/-- The largest of some logarithms. -/
theorem foldl_logStep (l : List Num) (b : Int) :
    ∃ L, l.foldl logStep (some b) = some L ∧ b ≤ L ∧ (∀ x ∈ l, numLog x ≤ L) ∧ (L = b ∨ ∃ x ∈ l, numLog x = L) := by
  induction l generalizing b with
  | nil => exact ⟨b, rfl, le_rfl, List.forall_mem_nil _, .inl rfl⟩
  | cons y r ih =>
    obtain ⟨L, hfold, hb, hr, hmem⟩ := ih (max b (numLog y))
    refine ⟨L, hfold, (le_max_left ..).trans hb, List.forall_mem_cons.2 ⟨(le_max_right ..).trans hb, hr⟩, ?_⟩
    rcases hmem with rfl | ⟨x, hx, rfl⟩
    · rcases max_choice b (numLog y) with h | h
      · exact .inl h
      · exact .inr ⟨y, List.mem_cons_self, h.symm⟩
    · exact .inr ⟨x, List.mem_cons_of_mem _ hx, rfl⟩

theorem exists_largest_log {l : List Num} (h : l ≠ []) :
    ∃ L, l.foldl logStep none = some L ∧ (∀ x ∈ l, numLog x ≤ L) ∧ ∃ x ∈ l, numLog x = L := by
  obtain ⟨y, r, rfl⟩ := List.exists_cons_of_ne_nil h
  obtain ⟨L, hfold, hb, hr, hmem⟩ := foldl_logStep r (numLog y)
  refine ⟨L, hfold, List.forall_mem_cons.2 ⟨hb, hr⟩, ?_⟩
  rcases hmem with rfl | ⟨x, hx, rfl⟩
  · exact ⟨y, List.mem_cons_self, rfl⟩
  · exact ⟨x, List.mem_cons_of_mem _ hx, rfl⟩

/-- A NaN or an infinity. -/
def isSpecial (x : Num) : Bool := match x with
  | .fin _ _ _ => false
  | _ => true

theorem mxBlock_special {code : Nat} {xs : List Num} (h : ∃ x ∈ xs, ∀ neg m e, x ≠ .fin neg m e) :
    mxBlock code xs = (255, fun _ _ => 0) := by
  obtain ⟨x, hx, hne⟩ := h
  refine if_pos (List.any_eq_true.2 ⟨x, hx, ?_⟩)
  cases x with
  | nan | inf => rfl
  | fin neg m e => exact absurd rfl (hne neg m e)

theorem not_any_special {xs : List Num} (h : ∀ x ∈ xs, IsFin x) : ¬xs.any isSpecial = true := fun hany => by
  obtain ⟨x, hx, hs⟩ := List.any_eq_true.1 hany
  obtain ⟨neg, m, e, rfl⟩ := h x hx
  exact Bool.false_ne_true hs

theorem mxBlock_zeros {code : Nat} {xs : List Num} (h : ∀ x ∈ xs, ∃ neg e, x = .fin neg 0 e) : (mxBlock code xs).1 = 0
    ∧ ∀ mode neg e, (mxBlock code xs).2 mode (.fin neg 0 e) = signBit (fmtOf code) neg := by
  have hfin : ¬xs.any isSpecial = true := not_any_special fun x hx => by
    obtain ⟨neg, e, rfl⟩ := h x hx
    exact isFin_fin ..
  have hzero : xs.all numIsZero = true := List.all_eq_true.2 fun x hx => by
    obtain ⟨neg, e, rfl⟩ := h x hx
    rfl
  have hblock : mxBlock code xs = (0, fun _ x => match x with
      | .fin neg _ _ => if neg then 2 ^ ((fmtOf code).width - 1) else 0
      | _ => 0) := (if_neg hfin).trans (if_pos hzero)
  rw [hblock]
  exact ⟨rfl, fun _ _ _ => rfl⟩

/-- The exponent of a block's scale, from the largest logarithm in the block. -/
def blockExp (code : Nat) (L : Int) : Int := max (-127) (min 127 (L - (if code = 5 then 8 else 2)))

theorem mxBlock_scaled (code : Nat) {xs : List Num} (hfin : ∀ x ∈ xs, IsFin x) (hnz : ∃ x ∈ xs, numIsZero x = false) :
    ∃ L : Int, (∀ x ∈ xs, |numVal x| < 2 ^ (L + 1)) ∧ (∃ x ∈ xs, (2 : ℚ) ^ L ≤ |numVal x|)
      ∧ mxBlock code xs = ((blockExp code L + 127).toNat, fun mode x => roundTo (fmtOf code) mode true (numScale x (blockExp code L))) := by
  obtain ⟨y, hy, hyz⟩ := hnz
  have hlist : xs.filter (fun x => !numIsZero x) ≠ [] := List.ne_nil_of_mem (List.mem_filter.2 ⟨hy, by simp [hyz]⟩)
  obtain ⟨L, hfold, hmax, x, hx, hL⟩ := exists_largest_log hlist
  have hnonzero {z : Num} (hz : z ∈ xs) (h : numIsZero z = false) :
      (2 : ℚ) ^ numLog z ≤ |numVal z| ∧ |numVal z| < 2 ^ (numLog z + 1) := by
    obtain ⟨neg, m, e, rfl⟩ := hfin z hz
    exact numLog_bounds neg (of_decide_eq_false h) e
  refine ⟨L, fun z hz => ?_, ⟨x, (List.mem_filter.1 hx).1, ?_⟩, ?_⟩
  · cases h : numIsZero z with
    | true =>
      obtain ⟨neg, m, e, rfl⟩ := hfin z hz
      obtain rfl : m = 0 := of_decide_eq_true h
      rw [numVal_zero, abs_zero]
      positivity
    | false =>
      have hle := hmax z (List.mem_filter.2 ⟨hz, by simp [h]⟩)
      exact (hnonzero hz h).2.trans_le (zpow_le_zpow_right₀ one_le_two (by omega))
  · obtain ⟨hxs, hxz⟩ := List.mem_filter.1 hx
    exact hL ▸ (hnonzero hxs (by simpa using hxz)).1
  · have hsome : ¬xs.all numIsZero = true := fun hall => by simp [List.all_eq_true.1 hall y hy] at hyz
    have htop : (List.foldl logStep none (xs.filter fun x => !numIsZero x)).getD 0 = L := by rw [hfold]; rfl
    rw [← htop]
    exact (if_neg (not_any_special hfin)).trans (if_neg hsome)

end Sys2Proof.Machine

namespace Sys2Proof

open Machine

/-- Settles O40: elements by their fields, overflow by the format's limits, integers by rounding to multiples of 1, and the cases of an MX block. -/
theorem numberConversions : Obligations.NumberConversions := by
  unfold Obligations.NumberConversions
  intro floats ints all
  refine ⟨?_, ?_, ?_, ?_, ?_, ?_, ?_⟩
  -- an element and the numbers that it represents
  · intro f hf neg x fr hx hfr mag bits v
    have ok : FormatOk f := formatOk_of_mem hf
    obtain ⟨-, -, hwidth⟩ := fields_split f hx hfr
    have hv : v = _ := floatVal_bits f neg hwidth
    have hval (h : mag ≤ f.top) : v = .fin neg (gridMant f mag) (ulpExp f mag) := floatVal_finite ok neg h
    refine ⟨fun h => hv.trans (if_pos h), fun h => ?_, fun h mode sat m e _ hcmp => ?_⟩
    · rw [hval h, numVal_grid, gridVal_fields f hx hfr]
      exact ⟨⟨_, _, rfl⟩, rfl⟩
    · rw [hval h, numCmp_eq_zero (isFin_fin ..) (isFin_fin ..), numVal_grid] at hcmp
      exact roundTo_represented ok mode sat neg h hcmp
  -- overflow
  · intro f hf mode sat neg m e sign hi
    have ok : FormatOk f := formatOk_of_mem hf
    refine ⟨rfl, rfl, fun i h => ?_, ?_, roundTo_sat ok mode neg m e, fun h => ⟨?_, ?_, ?_, fun i hinf => ?_⟩⟩
    · simp [roundTo, h, sign]
    · rintro rfl
      cases sat <;> rfl
    · rw [roundTo_overflow ok mode true neg h, overflowBits_sat]
      rfl
    · rintro rfl
      exact roundTo_overflow ok mode false neg h
    · rintro rfl
      exact roundTo_overflow ok mode false neg h
    · rw [show hi = _ from roundTo_overflow ok mode false neg h, overflowBits, hinf]
      cases mode <;> rfl
  -- float targets
  · intro p hp mode sat x i
    have hcode : codeInt p.1 = none ∧ codeFloat p.1 = some p.2 := by
      simp only [floats, List.mem_cons, List.not_mem_nil, or_false] at hp
      rcases hp with rfl | rfl | rfl | rfl | rfl | rfl <;> exact ⟨rfl, rfl⟩
    obtain ⟨hflt, hint⟩ := convert_float hcode.1 hcode.2 mode sat
    exact ⟨hflt x, hint i⟩
  -- integer targets
  · intro p hp mode sat neg m e i w low high bits clamp
    have hcode : codeInt p.1 = some (p.2.1, p.2.2) := by
      simp only [ints, List.mem_cons, List.not_mem_nil, or_false] at hp
      rcases hp with rfl | rfl | rfl | rfl | rfl <;> rfl
    obtain ⟨hflt, hint⟩ := convert_integer hcode mode sat
    have hlow : low = intLo w p.2.2 := (intLo_eq w p.2.2).symm
    have hhigh : high = intHi w p.2.2 := (intHi_eq w p.2.2).symm
    have hclamp (v : Int) : clamp v = clampInt w p.2.2 v := by simp only [clamp, hlow, hhigh, clampInt]
    rw [hlow, hhigh, hclamp, hclamp]
    exact ⟨hflt .nan, hflt (.inf neg), hflt (.fin neg m e), hint i⟩
  -- rounding to an integer
  · intro mode m e hsr v lo hi
    obtain ⟨hpos, hlow, hhigh, hup⟩ := roundInt_neighbours hsr m e
    have hchoose (c : Prop) [Decidable c] (h : roundsUp mode (decide (lo % 2 = 1)) (v - lo) = decide c) : hi = if c then lo + 1 else lo :=
      hup.trans (add_up_eq_ite lo h)
    refine ⟨hpos, hlow, hhigh, ?_, ?_, ?_, ?_, ?_, roundInt_negative mode m e⟩
    · rintro rfl
      exact hup.trans (add_zero _)
    · rintro rfl
      exact hchoose _ (decide_eq_decide.2 sub_pos)
    · rintro rfl
      exact hchoose _ (decide_eq_decide.2 (by rw [decide_eq_true_eq]))
    · rintro rfl
      exact hchoose _ rfl
    · rintro r rfl
      exact hchoose _ rfl
  -- MX elements
  · intro p hp bits scale
    simp only [List.mem_cons, List.not_mem_nil, or_false] at hp
    rcases hp with rfl | rfl <;> rfl
  -- MX blocks
  · intro p hp xs b
    have hcode : fmtOf p.1 = p.2.1 ∧ ∀ L : Int, blockExp p.1 L = max (-127) (min 127 (L - p.2.2)) := by
      simp only [List.mem_cons, List.not_mem_nil, or_false] at hp
      rcases hp with rfl | rfl <;> exact ⟨rfl, fun _ => rfl⟩
    obtain ⟨hfmt, hexp⟩ := hcode
    refine ⟨fun h => ?_, fun h => ?_, fun hfin hnz => ?_⟩
    · rw [show b = _ from mxBlock_special h]
      exact ⟨rfl, fun _ _ => rfl⟩
    · obtain ⟨hscale, helem⟩ := mxBlock_zeros (code := p.1) h
      rw [hfmt] at helem
      exact ⟨hscale, helem⟩
    · obtain ⟨L, hbelow, habove, hblock⟩ := mxBlock_scaled p.1 hfin hnz
      rw [hexp, hfmt] at hblock
      refine ⟨L, hbelow, habove, ?_, fun mode neg m e => ?_⟩
      · rw [show b = _ from hblock]
        exact Int.toNat_of_nonneg (by omega)
      · rw [show b = _ from hblock]
        rfl

end Sys2Proof
end
section
/-! PROOFS. The exact sum of a column of a beat (R51, R52, R67, R68, R165). -/

namespace Sys2Proof.Machine

open Sys2Proof

/-! ## Sums with NaNs, infinities and zeros (R68) -/

@[simp] theorem numAdd_nan_left (r : Bool) (y : Num) : numAdd r .nan y = .nan := rfl

@[simp] theorem numAdd_nan_right (r : Bool) (x : Num) : numAdd r x .nan = .nan := by cases x <;> rfl

/-- A sum with an infinity is that infinity or a NaN. -/
theorem numAdd_inf (r s : Bool) {x y : Num} (h : x = .inf s ∨ y = .inf s) : numAdd r x y = .inf s ∨ numAdd r x y = .nan := by
  cases x with
  | nan => exact .inr rfl
  | inf t =>
    cases y with
    | nan => exact .inr rfl
    | inf u => cases s <;> cases t <;> cases u <;> simp [numAdd] at h ⊢
    | fin => simpa [numAdd] using h
  | fin =>
    cases y with
    | nan => exact .inr rfl
    | inf u => simpa [numAdd] using h
    | fin => simp at h

theorem eq_or_of_numAdd_inf (r : Bool) {s : Bool} {x y : Num} (h : numAdd r x y = .inf s) : x = .inf s ∨ y = .inf s := by
  cases x with
  | nan => exact absurd h (by simp)
  | inf t =>
    cases y with
    | nan => exact absurd h (by simp)
    | inf u => cases t <;> cases u <;> simp_all [numAdd]
    | fin => exact .inl h
  | fin s' m e =>
    cases y with
    | nan => exact absurd h (by simp)
    | inf u => exact .inr h
    | fin t' n g =>
      obtain ⟨_, _, _, hfin⟩ := isFin_numAdd r (isFin_fin s' m e) (isFin_fin t' n g)
      rw [hfin] at h
      cases h

/-- A sum is a NaN only of a NaN or of infinities of both signs. -/
theorem of_numAdd_nan (r : Bool) {x y : Num} (h : numAdd r x y = .nan) : x = .nan ∨ y = .nan ∨ ∃ s, x = .inf s ∧ y = .inf (!s) := by
  cases x with
  | nan => exact .inl rfl
  | inf t =>
    cases y with
    | nan => exact .inr (.inl rfl)
    | inf u => exact .inr (.inr ⟨t, rfl, by cases t <;> cases u <;> simp_all [numAdd]⟩)
    | fin => cases h
  | fin s' m e =>
    cases y with
    | nan => exact .inr (.inl rfl)
    | inf u => cases h
    | fin t' n g =>
      obtain ⟨_, _, _, hfin⟩ := isFin_numAdd r (isFin_fin s' m e) (isFin_fin t' n g)
      rw [hfin] at h
      cases h

/-- A number that is −0. -/
def IsNegZero (x : Num) : Prop := ∃ e, x = .fin true 0 e

/-- The sum of two finite numbers is −0 only if both are. -/
theorem isNegZero_numAdd {x y : Num} (hx : IsFin x) (hy : IsFin y) : IsNegZero (numAdd false x y) ↔ IsNegZero x ∧ IsNegZero y := by
  obtain ⟨s, m, e, rfl⟩ := hx
  obtain ⟨t, n, g, rfl⟩ := hy
  by_cases h0 : m = 0 ∧ n = 0
  · obtain ⟨rfl, rfl⟩ := h0
    rw [numAdd_zeros]
    cases s <;> cases t <;> simp [IsNegZero]
  · rw [numAdd_units false s t e g h0]
    have hparts : ¬(IsNegZero (.fin s m e) ∧ IsNegZero (.fin t n g)) := by
      rintro ⟨⟨_, hx⟩, _, hy⟩
      cases hx
      cases hy
      exact h0 ⟨rfl, rfl⟩
    refine iff_of_false ?_ hparts
    rintro ⟨_, hsum⟩
    split at hsum
    · cases hsum
    next hv =>
      injection hsum with _ hzero _
      exact hv (Int.natAbs_eq_zero.1 hzero)

/-- What stands at the head of a sum, or below it, stands there after the first addition too, or a NaN does. -/
theorem nan_mem_numAdd {x y : Num} {r : List Num} (h : .nan ∈ x :: y :: r) : .nan ∈ numAdd false x y :: r := by
  simp only [List.mem_cons] at h ⊢
  rcases h with rfl | rfl | h
  · exact .inl rfl
  · exact .inl (numAdd_nan_right _ _).symm
  · exact .inr h

theorem inf_mem_numAdd {x y : Num} {r : List Num} {s : Bool} (h : .inf s ∈ x :: y :: r) :
    .inf s ∈ numAdd false x y :: r ∨ .nan ∈ numAdd false x y :: r := by
  simp only [List.mem_cons] at h ⊢
  have hsum (hxy : x = .inf s ∨ y = .inf s) := numAdd_inf false s hxy
  rcases h with h | h | h
  · exact (hsum (.inl h.symm)).imp (fun e => .inl e.symm) (fun e => .inl e.symm)
  · exact (hsum (.inr h.symm)).imp (fun e => .inl e.symm) (fun e => .inl e.symm)
  · exact .inl (.inr h)

theorem foldl_numAdd_of_nan (r : List Num) {x : Num} (h : .nan ∈ x :: r) : r.foldl (numAdd false) x = .nan := by
  induction r generalizing x with
  | nil => exact (List.mem_singleton.1 h).symm
  | cons y r ih => exact ih (nan_mem_numAdd h)

theorem foldl_numAdd_of_infs (r : List Num) {x : Num} (h1 : .inf false ∈ x :: r) (h2 : .inf true ∈ x :: r) :
    r.foldl (numAdd false) x = .nan := by
  induction r generalizing x with
  | nil => cases (List.mem_singleton.1 h1).trans (List.mem_singleton.1 h2).symm
  | cons y r ih =>
    rcases inf_mem_numAdd h1, inf_mem_numAdd h2 with ⟨h1 | h1, h2 | h2⟩
    · exact ih h1 h2
    · exact foldl_numAdd_of_nan r h2
    · exact foldl_numAdd_of_nan r h1
    · exact foldl_numAdd_of_nan r h1

theorem foldl_numAdd_of_inf (r : List Num) {x : Num} {s : Bool} (hnan : .nan ∉ x :: r) (hs : .inf s ∈ x :: r) (hother : .inf (!s) ∉ x :: r) :
    r.foldl (numAdd false) x = .inf s := by
  induction r generalizing x with
  | nil => exact (List.mem_singleton.1 hs).symm
  | cons y r ih =>
    simp only [List.mem_cons, not_or] at hnan hother
    have hnan' : .nan ∉ numAdd false x y :: r := by
      simp only [List.mem_cons, not_or]
      refine ⟨fun e => ?_, hnan.2.2⟩
      rcases of_numAdd_nan false e.symm with rfl | rfl | ⟨t, rfl, rfl⟩
      · exact hnan.1 rfl
      · exact hnan.2.1 rfl
      · cases s <;> cases t <;> simp at hother
    refine ih hnan' ((inf_mem_numAdd hs).resolve_right hnan') ?_
    simp only [List.mem_cons, not_or]
    refine ⟨fun e => ?_, hother.2.2⟩
    rcases eq_or_of_numAdd_inf false e.symm with rfl | rfl
    · exact hother.1 rfl
    · exact hother.2.1 rfl

/-- The sum of finite numbers is finite and exact, and −0 only if all of them are. -/
theorem foldl_numAdd_fin (r : List Num) {x : Num} (h : ∀ y ∈ x :: r, IsFin y) : IsFin (r.foldl (numAdd false) x)
    ∧ numVal (r.foldl (numAdd false) x) = ((x :: r).map numVal).sum
    ∧ (IsNegZero (r.foldl (numAdd false) x) ↔ ∀ y ∈ x :: r, IsNegZero y) := by
  induction r generalizing x with
  | nil => exact ⟨h x List.mem_cons_self, by simp, by simp⟩
  | cons y r ih =>
    obtain ⟨hx, hy, hr⟩ : IsFin x ∧ IsFin y ∧ ∀ z ∈ r, IsFin z := by simpa using h
    obtain ⟨hfin, hsum, hzero⟩ := ih (x := numAdd false x y) (List.forall_mem_cons.2 ⟨isFin_numAdd _ hx hy, hr⟩)
    refine ⟨hfin, hsum.trans ?_, hzero.trans ?_⟩
    · simp only [List.map_cons, List.sum_cons, numVal_numAdd _ hx hy, add_assoc]
    · simp only [List.forall_mem_cons, isNegZero_numAdd hx hy, and_assoc]

theorem isFin_of_not {x : Num} (hnan : x ≠ .nan) (hinf : ∀ s, x ≠ .inf s) : IsFin x := by
  cases x with
  | nan => exact absurd rfl hnan
  | inf s => exact absurd rfl (hinf s)
  | fin => exact isFin_fin ..

/-- The sum of R68 over some first term: its special values, and its value and the sign of its zero where all terms are finite. -/
theorem sumNums_spec {terms : List Num} (hne : terms ≠ []) :
    (.nan ∈ terms → sumNums terms = .nan)
    ∧ (.inf false ∈ terms → .inf true ∈ terms → sumNums terms = .nan)
    ∧ (∀ neg, .nan ∉ terms → .inf neg ∈ terms → .inf (!neg) ∉ terms → sumNums terms = .inf neg)
    ∧ (.nan ∉ terms → (∀ neg, .inf neg ∉ terms) → (∃ neg m e, sumNums terms = .fin neg m e) ∧ numVal (sumNums terms) = (terms.map numVal).sum
        ∧ (numVal (sumNums terms) = 0 → ((∃ e, sumNums terms = .fin true 0 e) ↔ ∀ x ∈ terms, ∃ e, x = .fin true 0 e))) := by
  obtain ⟨x, r, rfl⟩ := List.exists_cons_of_ne_nil hne
  refine ⟨foldl_numAdd_of_nan r, foldl_numAdd_of_infs r, fun _ => foldl_numAdd_of_inf r, fun hnan hinf => ?_⟩
  obtain ⟨hfin, hsum, hzero⟩ := foldl_numAdd_fin r fun y hy => isFin_of_not (ne_of_mem_of_not_mem hy hnan) fun s => ne_of_mem_of_not_mem hy (hinf s)
  exact ⟨hfin, hsum, fun _ => hzero⟩

/-! ## The terms of a column (R165) -/

theorem intVal_bmod (w : Nat) (hw : w ≠ 0) (bits : Nat) : intVal w true bits = Int.bmod bits (2 ^ w) := by
  obtain ⟨k, rfl⟩ := Nat.exists_eq_succ_of_ne_zero hw
  have hlt := Nat.mod_lt bits (show 0 < 2 ^ (k + 1) by positivity)
  have hcast : ((bits : Int) % ((2 ^ (k + 1) : Nat) : Int)) = ((bits % 2 ^ (k + 1) : Nat) : Int) := by push_cast; rfl
  have hpow : 2 ^ (k + 1) = 2 * 2 ^ k := pow_succ' 2 k
  simp only [intVal, Int.bmod, hcast, Bool.true_and, Nat.succ_eq_add_one, Nat.add_sub_cancel, decide_eq_true_eq]
  generalize bits % 2 ^ (k + 1) = r at *
  have hint : (2 : Int) ^ (k + 1) = ((2 ^ (k + 1) : Nat) : Int) := by push_cast; rfl
  rw [hint]
  generalize 2 ^ (k + 1) = P at *
  split_ifs <;> omega

/-- The product of two integers is the exact integer, and its zero is +0. -/
theorem elemMul_integers {fa : Nat} (h : (isGroup fa || (codeInt fa).isSome) = true) (a b : Int) :
    elemMul fa (numOfInt a) (numOfInt b) = numOfInt (a * b) := by
  unfold elemMul
  have hprod : numMul (numOfInt a) (numOfInt b) = .fin (decide (a < 0) != decide (b < 0)) (a.natAbs * b.natAbs) 0 := rfl
  simp only [h, hprod, Bool.true_and, numIsZero, decide_eq_true_eq]
  split
  next hz =>
    have : a * b = 0 := by rwa [← Int.natAbs_mul, Int.natAbs_eq_zero] at hz
    rw [this]
    rfl
  next hz =>
    have ha : a ≠ 0 := by rintro rfl; simp at hz
    have hb : b ≠ 0 := by rintro rfl; simp at hz
    have hsign : (decide (a < 0) != decide (b < 0)) = decide (a * b < 0) := by
      rcases lt_or_gt_of_ne ha with ha' | ha' <;> rcases lt_or_gt_of_ne hb with hb' | hb'
      · simp [ha', hb', (mul_pos_of_neg_of_neg ha' hb').le]
      · simp [ha', not_lt.2 hb'.le, mul_neg_of_neg_of_pos ha' hb']
      · simp [not_lt.2 ha'.le, hb', mul_neg_of_pos_of_neg ha' hb']
      · simp [not_lt.2 ha'.le, not_lt.2 hb'.le, (mul_pos ha' hb').le]
    rw [numOfInt, hsign, Int.natAbs_mul]

/-- A list of groups in a row is one list. -/
theorem flatten_groups {α : Type} (F : Nat → Nat → α) (n : Nat) {g : Nat} (hg : 0 < g) :
    ((upto n).map (fun i => (upto g).map (fun j => F i (i * g + j)))).flatten = (upto (n * g)).map (fun k => F (k / g) k) := by
  induction n with
  | zero => simp [upto]
  | succ n ih =>
    simp only [upto] at ih ⊢
    rw [List.range_succ, List.map_append, List.flatten_append, ih, Nat.succ_mul, List.range_add, List.map_append]
    congr 1
    simp only [List.map_cons, List.map_nil, List.flatten_cons, List.flatten_nil, List.append_nil, List.map_map]
    refine List.map_congr_left fun j hj => ?_
    have hdiv : (n * g + j) / g = n := by
      rw [Nat.add_comm, Nat.add_mul_div_right _ _ hg, Nat.div_eq_of_lt (List.mem_range.1 hj), Nat.zero_add]
    simp [hdiv]

/-- The pairs of operand formats (R66): 8-bit integers, 4-bit integers, or floats. -/
theorem rowMode_pairs {fa fb : Nat} (h : (rowMode fa fb).isSome = true) : ((fa = 7 ∨ fa = 9) ∧ (fb = 7 ∨ fb = 9))
    ∨ ((fa = 8 ∨ fa = 10) ∧ (fb = 8 ∨ fb = 10))
    ∨ ((fa = 1 ∨ fa = 2) ∧ (fb = 1 ∨ fb = 2)) ∨ ((fa = 3 ∨ fa = 4 ∨ fa = 5) ∧ (fb = 3 ∨ fb = 4 ∨ fb = 5)) ∨ (fa = 6 ∧ fb = 6) := by
  unfold rowMode at h
  simp only [List.contains_cons, List.contains_nil, Bool.or_false, Bool.and_eq_true, Bool.or_eq_true, beq_iff_eq] at h
  split_ifs at h with h1 h2 h3 h4 h5
  · exact .inr (.inr (.inl h1))
  · exact .inr (.inr (.inr (.inl h2)))
  · exact .inr (.inr (.inr (.inr h3)))
  · clear h1 h2 h3
    omega
  · exact h5.imp_right .inl
  · cases h

theorem beatScale_eq (code word : Nat) : beatScale code word
    = if code = 5 ∨ code = 6 then (if word % 256 = 255 then .nan else .fin false 1 ((word % 256 : Nat) - 127 : Int))
      else if code = 7 ∨ code = 8 then floatVal fF16 (word % 65536) else .fin false 1 0 := by
  simp only [beatScale, isMx, isGroup, Bool.or_eq_true, decide_eq_true_eq]

theorem beatZero_eq (code : Nat) (zp : Bool) (word : Nat) :
    beatZero code zp word = if zp = true ∧ (code = 7 ∨ code = 8) then Int.bmod (word / 65536) (2 ^ 8) else 0 := by
  simp only [beatZero, isGroup, Bool.and_eq_true, Bool.or_eq_true, decide_eq_true_eq, intVal_bmod 8 (by decide)]
  push_cast
  rfl

theorem beatElem_integer {code : Nat} (bits : Nat) (z : Int) :
    (code = 7 ∨ code = 9 → beatElem code bits z = numOfInt (Int.bmod bits (2 ^ 8) - z))
    ∧ (code = 8 ∨ code = 10 → beatElem code bits z = numOfInt (Int.bmod bits (2 ^ 4) - z)) := by
  constructor <;> rintro (rfl | rfl) <;> simp [beatElem, intVal_bmod]

theorem beatElem_float {code : Nat} (bits : Nat) (z : Int) (h7 : code ≠ 7) (h8 : code ≠ 8) (h9 : code ≠ 9) (h10 : code ≠ 10) :
    beatElem code bits z = floatVal (fmtOf code) bits := by
  simp [beatElem, h7, h8, h9, h10]

/-- The product of an A element and a latch element: of two integers, or of two floats. -/
theorem elemMul_pair {fa fb : Nat} (h : (rowMode fa fb).isSome = true) (x y : Nat) (zx zy : Int) :
    elemMul fa (beatElem fa x zx) (beatElem fb y zy)
      = if [7, 8, 9, 10].contains fa then numOfInt ((Int.bmod x (2 ^ opWidth fa) - zx) * (Int.bmod y (2 ^ opWidth fa) - zy))
        else numMul (floatVal (fmtOf fa) x) (floatVal (fmtOf fb) y) := by
  rcases rowMode_pairs h with ⟨hfa, hfb⟩ | ⟨hfa, hfb⟩ | ⟨hfa, hfb⟩ | ⟨hfa, hfb⟩ | ⟨hfa, hfb⟩
  · rw [(beatElem_integer x zx).1 hfa, (beatElem_integer y zy).1 hfb]
    rcases hfa with rfl | rfl <;> exact elemMul_integers rfl _ _
  · rw [(beatElem_integer x zx).2 hfa, (beatElem_integer y zy).2 hfb]
    rcases hfa with rfl | rfl <;> exact elemMul_integers rfl _ _
  all_goals
    rw [beatElem_float x zx (by omega) (by omega) (by omega) (by omega), beatElem_float y zy (by omega) (by omega) (by omega) (by omega)]
  · rcases hfa with rfl | rfl <;> simp [elemMul, isGroup, codeInt]
  · rcases hfa with rfl | rfl | rfl <;> simp [elemMul, isGroup, codeInt]
  · simp [hfa, elemMul, isGroup, codeInt]

/-- Elements of a group or block along K, by whether the pair is group-scaled. -/
theorem groupLen_eq {p : Pfx} {grouped : Bool} (hg : grouped = (isGroup p.fa.toNat || isGroup p.fb.toNat)) (h : grouped = true → p.g ≠ 0) :
    groupLen p = if grouped = true then 32 * 2 ^ (p.g.toNat - 1) else 32 := by
  cases hb : grouped with
  | false => simp [groupLen, ← hg, hb]
  | true =>
    rw [groupLen, ← hg, hb, Bool.true_and, if_pos (decide_eq_true (h hb))]
    rfl

/-- Whole groups fill the K elements of a beat. -/
theorem groups_fill {p : Pfx} (h : (rowMode p.fa.toNat p.fb.toNat).isSome = true) :
    0 < groupLen p ∧ opK p.fa.toNat / groupLen p * groupLen p = opK p.fa.toNat := by
  have hlen : groupLen p = 32 ∨ groupLen p = 64 ∨ groupLen p = 128 := by
    have : p.g.toNat = 0 ∨ p.g.toNat = 1 ∨ p.g.toNat = 2 ∨ p.g.toNat = 3 := by omega
    unfold groupLen
    split
    · rcases this with h | h | h | h <;> simp [h]
    · exact .inl rfl
  have hshort (hfa : p.fa.toNat = 1 ∨ p.fa.toNat = 2) (hfb : p.fb.toNat = 1 ∨ p.fb.toNat = 2) : groupLen p = 32 := by
    rcases hfa with ha | ha <;> rcases hfb with hb | hb <;> simp [groupLen, isGroup, ha, hb]
  refine ⟨by omega, ?_⟩
  rcases rowMode_pairs h with ⟨hfa, -⟩ | ⟨hfa, -⟩ | ⟨hfa, hfb⟩ | ⟨hfa, -⟩ | ⟨hfa, -⟩
  · rcases hfa with ha | ha <;> rcases hlen with hl | hl | hl <;> rw [ha, hl] <;> rfl
  · rcases hfa with ha | ha <;> rcases hlen with hl | hl | hl <;> rw [ha, hl] <;> rfl
  · rw [hshort hfa hfb]
    rcases hfa with ha | ha <;> rw [ha] <;> rfl
  · rcases hfa with ha | ha | ha <;> rcases hlen with hl | hl | hl <;> rw [ha, hl] <;> rfl
  · rcases hlen with hl | hl | hl <;> rw [hfa, hl] <;> rfl

theorem opK_pos {fa fb : Nat} (h : (rowMode fa fb).isSome = true) : 0 < opK fa := by
  rcases rowMode_pairs h with ⟨hfa | hfa, -⟩ | ⟨hfa | hfa, -⟩ | ⟨hfa | hfa, -⟩ | ⟨hfa | hfa | hfa, -⟩ | ⟨hfa, -⟩ <;> rw [hfa] <;> decide

/-- One product of a column, with the scales of its group (R67). -/
def beatTerm (s : State) (p : Pfx) (a : BitVec 1024) (sa : List Nat) (l n i k : Nat) : Num :=
  numMul (numMul (beatScale p.fa.toNat (sa.getD i 0)) (beatScale p.fb.toNat (sideB s l i n)))
    (elemMul p.fa.toNat (beatElem p.fa.toNat (elemOf a (opWidth p.fa.toNat) k) (beatZero p.fa.toNat p.zp (sa.getD i 0)))
      (beatElem p.fb.toNat (latchElem s l (opWidth p.fa.toNat) k n) (beatZero p.fb.toNat p.zp (sideB s l i n))))

/-- A column's sum runs over the K products in order. -/
theorem beatSum_terms (s : State) {p : Pfx} (a : BitVec 1024) (sa : List Nat) (l n : Nat) (h : (rowMode p.fa.toNat p.fb.toNat).isSome = true) :
    beatSum s p a sa l n = sumNums ((upto (opK p.fa.toNat)).map (fun k => beatTerm s p a sa l n (k / groupLen p) k)) := by
  obtain ⟨hpos, hfill⟩ := groups_fill h
  have hflat := flatten_groups (beatTerm s p a sa l n) (opK p.fa.toNat / groupLen p) hpos
  rw [hfill] at hflat
  rw [← hflat]
  rfl

/-! ## The side word of a group of the A row (R163, R165) -/

theorem sideAddr_eq (xa xb : W64) : sideAddr xa xb = xa.toNat % 2 ^ 21 + xa.toNat / 2 ^ 32 % 2 ^ 16 / 64 * (xb.toNat / 2 ^ 16 % 2 ^ 16)
    + xa.toNat / 2 ^ 32 % 2 ^ 16 % 64 * (xb.toNat % 2 ^ 16) + xb.toNat / 2 ^ 40 % 2 ^ 16 := by
  simp only [sideAddr, matBase, bitsOf, Nat.shiftRight_eq_div_pow, pow_zero, Nat.div_one]

theorem sideA_mx {s : State} {p : Pfx} (r : Reg) (h sp : BitVec 1) (i : Nat) (hfa : isMx p.fa.toNat = true) : sideA s p r h sp i
    = if sp = 0 then elemOf (V s (r + 1)) 8 ((h.toNat * opK p.fa.toNat + i * groupLen p) / 32)
      else readLe (seen s) (sideAddr (X s r) (X s (r + 1)) + i) 1 := by
  simp only [sideA, hfa, if_true]

theorem sideA_group {s : State} {p : Pfx} (r : Reg) (h sp : BitVec 1) (i : Nat) (hmx : isMx p.fa.toNat = false) (hfa : isGroup p.fa.toNat = true) :
    sideA s p r h sp i = if sp = 0 then elemOf (V s (r + 1)) 32 ((h.toNat * opK p.fa.toNat + i * groupLen p) / groupLen p)
      else readLe (seen s) (sideAddr (X s r) (X s (r + 1)) + 4 * i) 4 := by
  simp only [sideA, hmx, hfa, if_true, Bool.false_eq_true, if_false]

end Sys2Proof.Machine
end
section
/-! PROOFS. What the landings of matrix results and of words change (R54, R70, R171 to R179). -/

namespace Sys2Proof.Machine

open Sys2Proof

/-! ## Cells in a row -/

theorem cellGet_cellSets_range {w : Nat} (m : Store w) (base n : Nat) (f : Nat → BitVec w) (j : Nat) :
    cellGet (cellSets m ((upto n).map (fun i => (base + i, f i)))) j = if base ≤ j ∧ j < base + n then f (j - base) else cellGet m j := by
  induction n with
  | zero => simp [upto, cellSets, show ¬(base ≤ j ∧ j < base) by omega]
  | succ n ih =>
    have hsplit : (upto (n + 1)).map (fun i => (base + i, f i)) = (upto n).map (fun i => (base + i, f i)) ++ [(base + n, f n)] := by
      simp [upto, List.range_succ]
    rw [hsplit, cellSets_append, cellSets, cellSets, cellGet_set_eq, ih]
    by_cases hj : j = base + n
    · subst hj
      simp
    · rw [if_neg hj]
      exact if_congr (by omega) rfl rfl

/-- The cells of a list, each at its place from a base on. -/
theorem zipIdx_cells {w : Nat} (base : Nat) (cells : List (BitVec w)) :
    cells.zipIdx.map (fun p => (base + p.2, p.1)) = (upto cells.length).map (fun i => (base + i, cells.getD i 0)) := by
  refine List.ext_getElem (by simp [upto]) fun i h1 h2 => ?_
  have hi : i < cells.length := by simpa using h1
  simp [upto, hi]

/-- A row of 64 cells written into the accumulator. -/
theorem cellGet_rowPut (th : Thread) (k j n : Nat) {cells : List (BitVec 96)} (hn : n < 64) (hlen : cells.length = 64) :
    cellGet (rowPut th k cells).acc (64 * j + n) = if j = k then cells.getD n 0 else cellGet th.acc (64 * j + n) := by
  simp only [rowPut, zipIdx_cells, hlen, cellGet_cellSets_range]
  by_cases hj : j = k
  · subst hj
    rw [if_pos (by omega), if_pos rfl, Nat.add_sub_cancel_left]
  · rw [if_neg (by omega), if_neg hj]

theorem rowGet_getElem? (th : Thread) (k n : Nat) (hn : n < 64) : (rowGet th k)[n]? = some (cellGet th.acc (64 * k + n)) := by
  simp [rowGet, upto, hn]

/-- The row with exact sums added to its cells. -/
theorem getD_addedRow (th : Thread) (k n : Nat) (int : Bool) {sums : List Num} (hn : n < 64) (hlen : sums.length = 64) :
    ((rowGet th k).zipWith (fun c x => cellOf int (numAdd false (cellNum int c) x)) sums).length = 64
    ∧ ((rowGet th k).zipWith (fun c x => cellOf int (numAdd false (cellNum int c) x)) sums).getD n 0
      = cellOf int (numAdd false (cellNum int (cellGet th.acc (64 * k + n))) (sums.getD n .nan)) := by
  have hrow : (rowGet th k).length = 64 := by simp [rowGet, upto]
  refine ⟨by simp [hrow, hlen], ?_⟩
  have hs : n < sums.length := by omega
  simp [List.getD_eq_getElem?_getD, List.getElem?_zipWith, rowGet_getElem? th k n hn, hs]

/-- A bit of a mode or a status after a write of one bit. -/
theorem getLsbD_setBit {w : Nat} (v : BitVec w) (k x i : Nat) (hi : i < w) :
    (setBits v k 1 x).getLsbD i = if i = k then x.testBit 0 else v.getLsbD i := by
  rw [getLsbD_setBits _ _ _ _ _ hi]
  by_cases h : i = k
  · subst h
    rw [if_pos (by omega), if_pos rfl, Nat.sub_self]
  · rw [if_neg (by omega), if_neg h]

theorem cellOf_integer (neg : Bool) (m : Nat) : cellOf true (.fin neg m 0) = BitVec.ofInt 96 (if neg then -(m : Int) else m) := by
  simp [cellOf, numToInt]

/-! ## Landings in a context -/

theorem cellGet_landShift (th : Thread) (l j : Nat) (v : BitVec 1024) : cellGet (landThread th (.shift l v)).latch j
    = if j / 64 = l then (if j % 64 = 63 then v else cellGet th.latch (j + 1)) else cellGet th.latch j := by
  simp only [landThread, cellSets_append, cellSets, cellGet_set_eq, cellGet_cellSets_range]
  by_cases hl : j / 64 = l
  · rw [if_pos hl]
    by_cases hlast : j % 64 = 63
    · rw [if_pos hlast, if_pos (by omega)]
    · rw [if_neg hlast, if_neg (by omega), if_pos (by omega)]
      congr 1
      omega
  · rw [if_neg hl, if_neg (by omega), if_neg (by omega)]

theorem cellGet_landRow (th : Thread) (k j n : Nat) (int : Bool) {cells : List (BitVec 96)} (hn : n < 64) (hlen : cells.length = 64) :
    cellGet (landThread th (.row k int cells)).acc (64 * j + n) = if j = k then cells.getD n 0 else cellGet th.acc (64 * j + n) :=
  cellGet_rowPut th k j n hn hlen

theorem cellGet_landRowAdd (th : Thread) (k j n : Nat) (int : Bool) {sums : List Num} (hn : n < 64) (hlen : sums.length = 64) :
    cellGet (landThread th (.rowAdd k int sums)).acc (64 * j + n)
      = if j = k then cellOf int (numAdd false (cellNum int (cellGet th.acc (64 * k + n))) (sums.getD n .nan)) else cellGet th.acc (64 * j + n) := by
  obtain ⟨hrow, hcell⟩ := getD_addedRow th k n int hn hlen
  rw [← hcell]
  exact cellGet_rowPut th k j n hn hrow

theorem cellGet_landRowClear (th : Thread) (k j n : Nat) (hn : n < 64) :
    cellGet (landThread th (.rowClear k)).acc (64 * j + n) = if j = k then 0 else cellGet th.acc (64 * j + n) := by
  have h := cellGet_rowPut th k j n hn (List.length_replicate (n := 64) (a := (0 : BitVec 96)))
  rwa [List.getD_eq_getElem?_getD, List.getElem?_replicate, if_pos hn, Option.getD_some] at h

/-- The mode of a row after a result of that row. -/
theorem getLsbD_rowMode (v : BitVec 128) (k : Nat) (int : Bool) {i : Nat} (hi : i < 128) :
    (setBits v k 1 (if int then 1 else 0)).getLsbD i = if i = k then int else v.getLsbD i := by
  rw [getLsbD_setBit _ _ _ _ hi]
  cases int <;> rfl

theorem getLsbD_rowModes (th : Thread) (k : Nat) (int : Bool) (cells : List (BitVec 96)) (sums : List Num) {i : Nat} (hi : i < 128) :
    (landThread th (.row k int cells)).cmode.getLsbD i = (if i = k then int else th.cmode.getLsbD i)
    ∧ (landThread th (.rowAdd k int sums)).cmode.getLsbD i = (if i = k then int else th.cmode.getLsbD i)
    ∧ (landThread th (.rowClear k)).cmode.getLsbD i = th.cmode.getLsbD i := by
  simp only [landThread, rowPut, getLsbD_rowMode _ _ _ hi, and_self]

theorem getLsbD_landMst (th : Thread) {k b j : Nat} (hj : j < 64) : (cellGet (landThread th (.mst k)).cw (0x040 + b)).getLsbD j
    = ((cellGet th.cw (0x040 + b)).getLsbD j || decide (k = 64 * b + j)) := by
  simp only [landThread, cellGet_set_eq]
  by_cases hb : b = k / 64
  · rw [if_pos (by omega), getLsbD_setBit _ _ _ _ hj, hb]
    by_cases hk : j = k % 64
    · rw [if_pos hk, decide_eq_true (by omega), Bool.or_true]
      rfl
    · rw [if_neg hk, decide_eq_false (by omega), Bool.or_false]
  · rw [if_neg (by omega), decide_eq_false (by omega), Bool.or_false]

theorem getLsbD_landMsclr (th : Thread) (b : Nat) (mask : W64) {j : Nat} (hj : j < 64) :
    (cellGet (landThread th (.msclr b mask)).cw (0x040 + b)).getLsbD j = ((cellGet th.cw (0x040 + b)).getLsbD j && !mask.getLsbD j) := by
  simp [landThread, cellGet_set, hj]

/-- The fields of a context that no result of the matrix unit lands in. -/
structure MatrixFrame (th u : Thread) : Prop where
  x : u.x = th.x
  p : u.p = th.p
  v : u.v = th.v
  m : u.m = th.m
  lt : u.lt = th.lt
  tag : u.tag = th.tag
  rowOk : u.rowOk = th.rowOk
  latchOk : u.latchOk = th.latchOk

theorem matrixFrame_land (th : Thread) (k l b : Nat) (v : BitVec 1024) (int : Bool) (cells : List (BitVec 96)) (sums : List Num) (mask : W64) :
    ∀ r ∈ [Res.latch k v, .shift l v, .side k v, .row k int cells, .rowAdd k int sums, .rowClear k, .mst k, .msclr b mask],
      MatrixFrame th (landThread th r) ∧ ∀ n, n ≠ 0x040 + b → n ≠ 0x040 + k / 64 → cellGet (landThread th r).cw n = cellGet th.cw n := by
  simp only [List.forall_mem_cons, landThread, rowPut, implies_true, and_true]
  refine ⟨?_, ?_, ?_, ?_, ?_, ?_, ⟨?_, fun n _ hk => cellGet_set_ne _ _ hk⟩, ⟨?_, fun n hb _ => cellGet_set_ne _ _ hb⟩, List.forall_mem_nil _⟩
  all_goals exact ⟨rfl, rfl, rfl, rfl, rfl, rfl, rfl, rfl⟩

/-! ## Landings in a tile -/

theorem landTile_bytes {t : Tile} (bs : List (Nat × Byte)) (now a : Nat) (h : isOpt t = false) :
    cellGet (landTile t (.bytes bs) now).mem a = (lastStored bs a).getD (cellGet t.mem a) ∧ (landTile t (.bytes bs) now).th = t.th
      ∧ ∀ n, cwGet (landTile t (.bytes bs) now) n = cwGet t n := by
  obtain ⟨hth, hcw, -⟩ := sramPut_context t true (wholeWords bs) bs
  refine ⟨?_, hth, cwGet_congr hth hcw⟩
  have hmem := sramPut_mem t true (wholeWords bs) bs
  rw [show trailed t true bs = t by simp [trailed, h]] at hmem
  rw [← cellGet_sets, ← hmem]
  rfl

/-- A stored control word leaves SRAM and the registers. -/
theorem cwPut_keeps (t : Tile) (n : Nat) (v : W64) : (cwPut t n v).mem = t.mem ∧ (cwPut t n v).th.x = t.th.x ∧ (cwPut t n v).th.v = t.th.v
    ∧ (cwPut t n v).th.acc = t.th.acc := by
  unfold cwPut
  split <;> exact ⟨rfl, rfl, rfl, rfl⟩

/-- A landed control word outside the mailboxes and the trace control: the word that is written and nothing else. -/
theorem landTile_cw (t : Tile) {n : Nat} (k : Nat) (v : W64) (now : Nat) (hmb : ¬(0x050 ≤ n ∧ n ≤ 0x053)) (htr : n ≠ 0x120) :
    cwGet (landTile t (.cw n v) now) k = (if k = n then cwWritten (cwGet t n) n v else cwGet t k) ∧ (landTile t (.cw n v) now).mem = t.mem
      ∧ (landTile t (.cw n v) now).th.x = t.th.x ∧ (landTile t (.cw n v) now).th.v = t.th.v ∧ (landTile t (.cw n v) now).th.acc = t.th.acc := by
  have hput := cwGet_cwPut t n k (cwWritten (cwGet t n) n v)
  have hregs := cwPut_keeps t n (cwWritten (cwGet t n) n v)
  simp only [landTile, hmb, if_false, cwWrite, htr]
  split
  · exact ⟨hput, hregs⟩
  · exact ⟨hput, hregs⟩

/-- NANDRAIN becomes pending under STATUS.NANT, unless it is pending already. -/
theorem landTile_mst (t : Tile) (k now : Nat) : (landTile t (.mst k) now).th = landThread t.th (.mst k)
    ∧ (statusBit t 3 = true → t.asyncs.all (fun x => decide (x.1 ≠ 0x17)) = true →
        (landTile t (.mst k) now).asyncs = t.asyncs ++ [(0x17, BitVec.ofNat 64 k)])
    ∧ (statusBit t 3 = false → (landTile t (.mst k) now).asyncs = t.asyncs) := by
  simp only [landTile]
  refine ⟨?_, fun hnant hnone => ?_, fun hnant => ?_⟩
  · split
    · exact raiseAsync_th _ _ _
    · rfl
  · have hany : ¬t.asyncs.any (fun p => decide (p.1 = 0x17)) = true := fun h => by
      obtain ⟨x, hx, heq⟩ := List.any_eq_true.1 h
      exact of_decide_eq_true (List.all_eq_true.1 hnone x hx) (of_decide_eq_true heq)
    rw [if_pos hnant, raiseAsync, if_neg hany]
  · rw [if_neg (by rw [hnant]; exact Bool.false_ne_true)]

end Sys2Proof.Machine

namespace Sys2Proof

open Machine

/-- Settles O51: the sums by induction along the terms, the side words by their addresses, and one lemma for each kind of landing. -/
theorem matrixSumsAndLandings : Obligations.MatrixSumsAndLandings := by
  unfold Obligations.MatrixSumsAndLandings
  refine ⟨?_, ?_, fun _ => rfl, cellOf_integer, fun _ => ⟨rfl, rfl⟩, ?_, cellGet_landShift, ?_, ?_, ?_, ?_, ?_, ?_⟩
  -- the sum of a column
  · intro s p a sa l n fa fb grouped hpair hgroup _ w g whole wordA wordB scale zero bitsA bitsB prod term K terms S
    have hlen : groupLen p = g := groupLen_eq rfl hgroup
    have hpair' : (rowMode p.fa.toNat p.fb.toNat).isSome = true := hpair
    have hterm (k : Nat) : beatTerm s p a sa l n (k / groupLen p) k = term k := by
      simp only [beatTerm, elemMul_pair hpair', beatScale_eq, beatZero_eq, hlen]
      rfl
    have hS : S = sumNums terms := (beatSum_terms s a sa l n hpair').trans (congrArg sumNums (List.map_congr_left fun k _ => hterm k))
    have hne : terms ≠ [] := fun h => (opK_pos hpair').ne' (List.range_eq_nil.1 (List.map_eq_nil_iff.1 h))
    rw [hS]
    exact sumNums_spec hne
  -- the side word of a group of the A row
  · intro s p src h sp i fa xa xb idx side G
    refine ⟨fun hfa => ?_, fun hfa hg => ?_⟩
    · have hmx : isMx p.fa.toNat = true := by rcases hfa with h | h <;> rw [show p.fa.toNat = _ from h] <;> rfl
      have hK : opK p.fa.toNat = 1024 / codeWidth fa := by rcases hfa with h | h <;> rw [h, show p.fa.toNat = _ from h] <;> rfl
      rw [sideA_mx src h sp i hmx, hK, sideAddr_eq]
    · have hmx : isMx p.fa.toNat = false := by rcases hfa with h | h <;> rw [show p.fa.toNat = _ from h] <;> rfl
      have hgr : isGroup p.fa.toNat = true := by rcases hfa with h | h <;> rw [show p.fa.toNat = _ from h] <;> rfl
      have hK : opK p.fa.toNat = if fa = 7 then 128 else 256 := by rcases hfa with h | h <;> rw [h, show p.fa.toNat = _ from h] <;> rfl
      have hlen : groupLen p = G := groupLen_eq (grouped := true) (by rw [hgr, Bool.true_or]) fun _ => hg
      rw [sideA_group src h sp i hmx hgr, hK, sideAddr_eq, hlen]
  -- latches, side lines and rows
  · intro th k j v
    exact ⟨cellGet_set_eq .., cellGet_set_eq ..⟩
  · intro th k j n int cells sums hk hn hcells hsums u w z
    exact ⟨cellGet_landRow th k j n int hn hcells, cellGet_landRowAdd th k j n int hn hsums, cellGet_landRowClear th k j n hn,
      fun i hi => getLsbD_rowModes th k int cells sums hi⟩
  -- the status bits of drains
  · intro th k b mask j _ hj
    exact ⟨getLsbD_landMst th hj, getLsbD_landMsclr th b mask hj⟩
  · intro th k l b v int cells sums mask r hr u
    obtain ⟨hframe, hcw⟩ := matrixFrame_land th k l b v int cells sums mask r hr
    exact ⟨hframe.x, hframe.p, hframe.v, hframe.m, hframe.lt, hframe.tag, hframe.rowOk, hframe.latchOk, hcw⟩
  -- landings outside the context
  · intro t bs now a h
    exact landTile_bytes bs now a h
  · intro t n k v now hmb htr
    exact landTile_cw t k v now hmb htr
  · intro t k now
    exact landTile_mst t k now

end Sys2Proof
end
section
/-! PROOFS. Vector results: the elements written, the working format, and one rounding for each element (R57, R58, R136 to R138, R142). -/

namespace Sys2Proof.Machine

open Sys2Proof

/-! ## Numbers put together from elements -/

/-- Element `e` of width `w` of a number (R50). -/
def digitAt (w N e : Nat) : Nat := N / 2 ^ (w * e) % 2 ^ w

/-- An element added where there is none changes that one and no other. -/
theorem digitAt_add {w N i x : Nat} (hN : digitAt w N i = 0) (hx : x < 2 ^ w) (e : Nat) :
    digitAt w (N + x * 2 ^ (w * i)) e = if e = i then x else digitAt w N e := by
  unfold digitAt at *
  have hpos (k : Nat) : 0 < 2 ^ k := by positivity
  rcases lt_trichotomy e i with h | rfl | h
  · obtain ⟨k, rfl⟩ := Nat.exists_eq_add_of_lt h
    have hterm : x * 2 ^ (w * (e + k + 1)) = x * 2 ^ (w * k) * 2 ^ w * 2 ^ (w * e) := by
      rw [show w * (e + k + 1) = w * k + w + w * e by ring, pow_add, pow_add]
      ring
    rw [if_neg h.ne, hterm, Nat.add_mul_div_right _ _ (hpos _), Nat.add_mul_mod_self_right]
  · rw [if_pos rfl, Nat.add_mul_div_right _ _ (hpos _), Nat.add_mod, hN, Nat.zero_add, Nat.mod_mod, Nat.mod_eq_of_lt hx]
  · obtain ⟨k, rfl⟩ := Nat.exists_eq_add_of_lt h
    have hexp : 2 ^ (w * (i + k + 1)) = 2 ^ (w * i) * 2 ^ w * 2 ^ (w * k) := by
      rw [show w * (i + k + 1) = w * i + w + w * k by ring, pow_add, pow_add]
    have hcarry : (N + x * 2 ^ (w * i)) / 2 ^ (w * i) / 2 ^ w = N / 2 ^ (w * i) / 2 ^ w := by
      have hq := Nat.div_add_mod (N / 2 ^ (w * i)) (2 ^ w)
      rw [hN, Nat.add_zero] at hq
      rw [Nat.add_mul_div_right _ _ (hpos _), ← hq, Nat.mul_add_div (hpos _), Nat.div_eq_of_lt hx, Nat.mul_div_cancel_left _ (hpos _),
        Nat.add_zero]
    rw [if_neg (by omega), hexp, ← Nat.div_div_eq_div_mul, ← Nat.div_div_eq_div_mul, hcarry,
      ← Nat.div_div_eq_div_mul, ← Nat.div_div_eq_div_mul]

/-- The number that has given elements. -/
def packedAt (w : Nat) (els : List (Nat × Nat)) (N : Nat) : Nat := els.foldl (fun v p => v + (p.2 % 2 ^ w) * 2 ^ (w * p.1)) N

theorem digitAt_packedAt (w : Nat) (els : List (Nat × Nat)) {N : Nat}
    (hnd : (els.map (·.1)).Nodup) (hN : ∀ p ∈ els, digitAt w N p.1 = 0) (e : Nat) :
    (∀ x, (e, x) ∈ els → digitAt w (packedAt w els N) e = x % 2 ^ w)
    ∧ (e ∉ els.map (·.1) → digitAt w (packedAt w els N) e = digitAt w N e) := by
  induction els generalizing N with
  | nil => exact ⟨fun _ h => absurd h List.not_mem_nil, fun _ => rfl⟩
  | cons p r ih =>
    obtain ⟨hp, hr⟩ := List.forall_mem_cons.1 hN
    obtain ⟨hpr, hnd⟩ := List.nodup_cons.1 hnd
    have hstep := digitAt_add hp (Nat.mod_lt p.2 (show 0 < 2 ^ w by positivity))
    have hrest : ∀ q ∈ r, digitAt w (N + (p.2 % 2 ^ w) * 2 ^ (w * p.1)) q.1 = 0 := fun q hq => by
      have hne : q.1 ≠ p.1 := fun h => hpr (show p.1 ∈ r.map (·.1) from h ▸ List.mem_map_of_mem (f := (·.1)) hq)
      rw [hstep, if_neg hne, hr q hq]
    obtain ⟨hin, hout⟩ := ih hnd hrest
    refine ⟨fun x hx => ?_, fun he => ?_⟩
    · rcases List.mem_cons.1 hx with rfl | hx
      · exact (hout hpr).trans ((hstep e).trans (if_pos rfl))
      · exact hin x hx
    · rw [List.map_cons, List.mem_cons, not_or] at he
      exact (hout he.2).trans ((hstep e).trans (if_neg he.1))

theorem elemOf_ofNat {v N w e : Nat} (h : w * e + w ≤ v) : elemOf (BitVec.ofNat v N) w e = digitAt w N e := by
  refine Nat.eq_of_testBit_eq fun i => ?_
  rw [elemOf, testBit_bitsOf, digitAt, Nat.testBit_mod_two_pow, Nat.testBit_div_two_pow, BitVec.getLsbD_ofNat]
  by_cases hi : i < w
  · rw [Nat.add_comm i, decide_eq_true (show w * e + i < v by omega), Bool.true_and]
  · simp [hi]

theorem elem_bound {w e : Nat} (h : e < 2048 / w) : w * e + w ≤ 2048 := by
  have := Nat.mul_le_mul_left w h
  rw [Nat.mul_succ] at this
  exact this.trans (Nat.mul_div_le 2048 w)

/-! ## What a vector result writes (R138) -/

theorem elemMask_packed (w : Nat) (es : List Nat) : elemMask w es = BitVec.ofNat 2048 (packedAt w (es.map (fun e => (e, 2 ^ w - 1))) 0) := by
  have hmod : (2 ^ w - 1) % 2 ^ w = 2 ^ w - 1 := Nat.mod_eq_of_lt (Nat.sub_lt (by positivity) one_pos)
  simp only [elemMask, packedAt, List.foldl_map, hmod]

/-- A vector result writes the elements listed, each once, and no other. -/
theorem addV_out (s : State) (n : Nat) (d : Reg) (w : Nat) {els : List (Nat × Nat)} {g : Nat → Option Nat} (hnd : (els.map (·.1)).Nodup)
    (hsome : ∀ e x, g e = some x → e < 2048 / w → (e, x) ∈ els) (hnone : ∀ e, g e = none → e ∉ els.map (·.1)) :
    vectorOut s (addV s n d w els) n w d g := by
  refine ⟨_, _, rfl, fun e he => ?_⟩
  have hzero (i : Nat) : digitAt w 0 i = 0 := by simp [digitAt]
  have hbits := elem_bound he
  obtain ⟨hval, -⟩ := digitAt_packedAt w els hnd (fun _ _ => hzero _) e
  have hfst : ((els.map (·.1)).map (fun e => (e, 2 ^ w - 1))).map (·.1) = els.map (·.1) := by simp
  obtain ⟨hmask, hfree⟩ := digitAt_packedAt w ((els.map (·.1)).map (fun e => (e, 2 ^ w - 1))) (hfst.symm ▸ hnd) (fun _ _ => hzero _) e
  rw [elemMask_packed, elemOf_ofNat hbits]
  cases hg : g e with
  | some x =>
    have hmem := hsome e x hg he
    refine ⟨?_, (elemOf_ofNat hbits).trans (hval x hmem)⟩
    rw [hmask _ (List.mem_map_of_mem (List.mem_map_of_mem (f := (·.1)) hmem)), Nat.mod_eq_of_lt (Nat.sub_lt (by positivity) one_pos)]
  | none => exact (hfree (hfst.symm ▸ hnone e hg)).trans (hzero e)

/-- A vector result over a list of elements, the value of each given by a function. -/
theorem addV_out_map (s : State) (n : Nat) (d : Reg) (w : Nat) {l : List Nat} (f : Nat → Nat) {g : Nat → Option Nat} (hnd : l.Nodup)
    (hg : ∀ e, e < 2048 / w → g e = if e ∈ l then some (f e) else none) (hl : ∀ e ∈ l, e < 2048 / w) :
    vectorOut s (addV s n d w (l.map (fun e => (e, f e)))) n w d g := by
  have hfst : (l.map (fun e => (e, f e))).map (·.1) = l := by simp [Function.comp_def]
  refine addV_out s n d w (hfst.symm ▸ hnd) (fun e x hx he => ?_) fun e hx => ?_
  · rw [hg e he] at hx
    split at hx
    next hmem =>
      cases hx
      exact List.mem_map_of_mem hmem
    next => cases hx
  · rw [hfst]
    intro hmem
    rw [hg e (hl e hmem), if_pos hmem] at hx
    cases hx

/-! ## Enabled elements (R138) -/

theorem mem_enabled {s : State} {m : BitVec 3} {w e : Nat} : e ∈ enabled w (M s m) ↔ e < 2048 / w ∧ laneOn s m w e = true := by
  rw [enabled, List.mem_filter, upto, List.mem_range, laneOn, Nat.mul_comm]

theorem enabled_nodup (w : Nat) (mk : W64) : (enabled w mk).Nodup := List.nodup_range.filter _

theorem enabled_lanes (s : State) (m : BitVec 3) (w : Nat) : enabled w (M s m) = (upto (2048 / w)).filter (laneOn s m w) :=
  List.filter_congr fun e _ => by rw [laneOn, Nat.mul_comm]

/-- A result over the enabled elements. -/
theorem addV_out_enabled (s t : State) (n : Nat) (d : Reg) (w : Nat) (m : BitVec 3) (f : Nat → Nat) :
    vectorOut t (addV t n d w ((enabled w (M s m)).map (fun e => (e, f e)))) n w d (onLanes s m w f) := by
  refine addV_out_map t n d w f (enabled_nodup ..) (fun e he => ?_) fun e he => (mem_enabled.1 he).1
  rw [onLanes]
  exact if_congr (by rw [mem_enabled, and_iff_right he]) rfl rfl

theorem mapV_out (s : State) (n : Nat) (d : Reg) (w : Nat) (m : BitVec 3) (f : Nat → Nat) :
    vectorOut s (mapV s n d w m f) n w d (onLanes s m w f) := addV_out_enabled s s n d w m f

/-- An element that passes a filter stands in the list at the number of those below it that do. -/
theorem zipIdx_filter (p : Nat → Bool) (n : Nat) :
    ((upto n).filter p).zipIdx = ((upto n).filter p).map (fun e => (e, (upto e).countP p)) := by
  induction n with
  | zero => rfl
  | succ n ih =>
    simp only [upto] at ih ⊢
    rw [List.range_succ, List.filter_append, List.zipIdx_append, List.map_append, ih]
    congr 1
    cases hp : p n <;> simp [hp, List.countP_eq_length_filter]

/-! ## One rounding for each element (R57, R58) -/

/-- The elements of a list in order, each under the random bits of its own advance. -/
theorem roundList_eq (s : State) (l : List Nat) (f : Rnd → Nat → Nat) (g : W64) : roundList s l f g
    = (l.zipIdx.map (fun q => (q.1, f (modeOf (rmode s) (if isSr (rmode s) then (nextRandom (seedAfter g q.2)).2 else 0)) q.1)),
      if isSr (rmode s) then seedAfter g l.length else g) := by
  induction l generalizing g with
  | nil => simp [roundList, seedAfter]
  | cons e r ih =>
    rw [roundList, List.zipIdx_cons, List.zipIdx_succ, List.map_cons, List.map_map]
    cases hsr : isSr (rmode s) with
    | false => simp only [ih, hsr, Bool.false_eq_true, if_false, Function.comp_def]
    | true =>
      simp only [ih, hsr, if_true]
      rfl

/-- Rounding the elements of a list from the generator's present state. -/
theorem roundList_at (s : State) (l : List Nat) (f : Rnd → Nat → Nat) : roundList s l f (seedOf s)
    = (l.zipIdx.map (fun q => (q.1, f (roundAt s q.2) q.1)), if isSr (rmode s) then seedAfter (seedOf s) l.length else seedOf s) :=
  roundList_eq s l f (seedOf s)

/-- The generator's state is set where SR has advanced it. -/
theorem setSeed_seeded (s : State) (n : Nat) :
    (if isSr (rmode s) then setSeed s (if isSr (rmode s) then seedAfter (seedOf s) n else seedOf s) else s) = seeded s n := by
  unfold seeded setSeed
  cases isSr (rmode s) <;> rfl

/-- A merging form that rounds: each enabled element under the rounding that those below leave to it. -/
theorem roundV_out (s : State) (n : Nat) (d : Reg) (w : Nat) (m : BitVec 3) (f : Rnd → Nat → Nat) :
    vectorOut (seeded s (lanesBelow s m w (2048 / w))) (roundV s n d w m f) n w d
      (onLanes s m w (fun e => f (roundAt s (lanesBelow s m w e)) e)) := by
  have hels : (enabled w (M s m)).zipIdx.map (fun q => (q.1, f (roundAt s q.2) q.1))
      = (enabled w (M s m)).map (fun e => (e, f (roundAt s (lanesBelow s m w e)) e)) := by
    rw [enabled_lanes, zipIdx_filter, List.map_map]
    rfl
  have hlen : (enabled w (M s m)).length = lanesBelow s m w (2048 / w) := by rw [enabled_lanes, lanesBelow, List.countP_eq_length_filter]
  simp only [roundV, roundList_at, setSeed_seeded, hels, hlen]
  exact addV_out_enabled s _ n d w m _

/-! ## The working format (R136, R137, R140) -/

theorem worksIn_iff (s : State) (dflt code : Nat) : worksIn s dflt code ↔ workFmt s dflt = code ∧ pfxPlain s = true := by
  unfold worksIn workFmt pfxPlain vPfx
  cases s.tile.th.pfx with
  | none => exact ⟨fun h => ⟨h.symm, rfl⟩, fun h => h.1.symm⟩
  | some p =>
    cases hv : p.vec with
    | false =>
      simp only [hv, Bool.false_eq_true, if_false]
      exact ⟨fun h => ⟨h.symm, trivial⟩, fun h => h.1.symm⟩
    | true => simp [hv]

/-- The state that the body of a V slot starts from: an F64 form of VEC0 or VEC1 holds the float datapath. -/
def slotState (fp : Bool) (s : State) (code : Nat) : State := if fp = true then heldFor s code else s

theorem slotState_issue (fp : Bool) (s : State) (code : Nat) :
    ∃ h, slotState fp s code = updIss s h ∧ (h s.tile.iss).seed = s.tile.iss.seed := by
  unfold slotState heldFor
  split
  · split
    · exact ⟨_, rfl, rfl⟩
    · exact ⟨id, rfl, rfl⟩
  · exact ⟨id, rfl, rfl⟩

theorem vSlot_state (fp : Bool) (s : State) :
    (if fp && decide (workFmt s 0 = 11) then updIss s (fun i => { i with hold64 := true }) else s) = slotState fp s (workFmt s 0) := by
  unfold slotState heldFor
  cases fp with
  | false => rfl
  | true => simp

theorem runsUser_slotState {c : Ctl} {s : State} (fp : Bool) (code : Nat) (h : runsUser s c) : runsUser (slotState fp s code) c := by
  obtain ⟨_, heq, -⟩ := slotState_issue fp s code
  rw [heq]
  exact h

theorem workFmt_slotState (fp : Bool) (s : State) (code dflt : Nat) :
    workFmt (slotState fp s code) dflt = workFmt s dflt ∧ pfxPlain (slotState fp s code) = pfxPlain s := by
  obtain ⟨_, heq, -⟩ := slotState_issue fp s code
  rw [heq]
  exact ⟨rfl, rfl⟩

/-- A V slot over a working format that has g and zp clear. -/
theorem vFmt_on {fp : Bool} {dflt code : Nat} {ok : List Nat} {c : Ctl} {s : State} (f : Nat → State → State) (hr : runsUser s c)
    (hw : worksIn s dflt code) (hfp : fp = true → dflt = 0) :
    vFmt fp dflt ok c s f = .next (if code ∈ ok then f code (slotState fp s code) else refusedAs (slotState fp s code)) := by
  obtain ⟨rfl, hplain⟩ := (worksIn_iff s dflt code).1 hw
  have hstate : slotState fp s (workFmt s 0) = slotState fp s (workFmt s dflt) := by
    cases fp with
    | false => rfl
    | true => rw [hfp rfl]
  obtain ⟨hfmt, hpfx⟩ := workFmt_slotState fp s (workFmt s dflt) dflt
  rw [vFmt, vSlot, vSlot_state, hstate, unitSlot_on _ (runsUser_slotState fp _ hr)]
  simp only [hfmt, hpfx, hplain, if_true, List.contains_iff_mem]
  rfl

/-- A V slot under a pending V-target format with g or zp set is refused. -/
theorem vFmt_odd {fp : Bool} {dflt : Nat} {ok : List Nat} {c : Ctl} {s : State} (f : Nat → State → State) {i : Instr}
    (h : exec i s = vFmt fp dflt ok c s f) : oddPrefix c s i fp := by
  intro p hr hpfx hvec hodd
  have hv : vPfx s = some p := by rw [vPfx, hpfx]; exact if_pos hvec
  have hfmt : workFmt s 0 = p.fa.toNat := by rw [workFmt, hv]
  have hplain : pfxPlain s = false := by
    have heq : pfxPlain s = (decide (p.g = 0) && !p.zp) := by rw [pfxPlain, hv]
    rw [heq]
    rcases hodd with hg | hz
    · rw [decide_eq_false hg, Bool.false_and]
    · rw [hz, Bool.not_true, Bool.and_false]
  rw [h, vFmt, vSlot, vSlot_state, hfmt, unitSlot_on _ (runsUser_slotState fp _ hr)]
  simp only [(workFmt_slotState fp s p.fa.toNat 0).2, hplain]
  rfl

end Sys2Proof.Machine
end
section
/-! PROOFS. Vector float arithmetic: VEC0 and VRINT (R57, R58, R142, R143, R151). -/

namespace Sys2Proof.Machine

open Sys2Proof

/-! ## What a slot reads while it holds the float datapath -/

theorem slotState_reads (fp : Bool) (s : State) (code : Nat) : V (slotState fp s code) = V s ∧ M (slotState fp s code) = M s
    ∧ rmode (slotState fp s code) = rmode s ∧ seedOf (slotState fp s code) = seedOf s := by
  obtain ⟨h, heq, hseed⟩ := slotState_issue fp s code
  rw [heq]
  exact ⟨rfl, rfl, rfl, by rw [seedOf, updIss_iss, hseed]; rfl⟩

theorem laneOn_slotState (fp : Bool) (s : State) (code : Nat) : laneOn (slotState fp s code) = laneOn s := by
  funext m w e
  rw [laneOn, (slotState_reads fp s code).2.1, laneOn]

theorem lanesBelow_slotState (fp : Bool) (s : State) (code : Nat) : lanesBelow (slotState fp s code) = lanesBelow s := by
  funext m w e
  rw [lanesBelow, laneOn_slotState, lanesBelow]

theorem onLanes_slotState (fp : Bool) (s : State) (code : Nat) : onLanes (slotState fp s code) = onLanes s := by
  funext m w f e
  rw [onLanes, laneOn_slotState, onLanes]

theorem roundAt_slotState (fp : Bool) (s : State) (code k : Nat) : roundAt (slotState fp s code) k = roundAt s k := by
  obtain ⟨-, -, hmode, hseed⟩ := slotState_reads fp s code
  rw [roundAt, hmode, hseed, roundAt]

theorem isRdn_eq (s : State) : isRdn s = decide ((rmode s).toNat % 8 = 2) := rfl

/-- The float formats of VEC0 and VEC1 have the width of their codes. -/
theorem width_fmtOf {code : Nat} (h : code ∈ [0, 11, 1, 2]) : (fmtOf code).width = codeWidth code := by
  simp only [List.mem_cons, List.not_mem_nil, or_false] at h
  rcases h with rfl | rfl | rfl | rfl <;> rfl

/-! ## The shapes of the forms -/

/-- A form that rounds each element of its working format by a function of the state. -/
theorem roundingForm_of_roundV {c : Ctl} {s : State} {i : Instr} {fp : Bool} {n : Nat} {d : Reg} {m : BitVec 3}
    {f : FloatFmt → Rnd → Nat → Nat} {g : State → FloatFmt → Rnd → Nat → Nat}
    (hexec : exec i s = vFmt fp 0 [0, 11, 1, 2] c s (fun code t => roundV t n d (fmtOf code).width m (g t (fmtOf code))))
    (hg : ∀ code ∈ [0, 11, 1, 2], ∀ r e, g (slotState fp s code) (fmtOf code) r e = f (fmtOf code) r e) :
    roundingForm c s i fp n d m f := by
  refine ⟨vFmt_odd _ hexec, fun code hr hw => ?_⟩
  rw [hexec, vFmt_on _ hr hw fun _ => rfl]
  by_cases hok : code ∈ [0, 11, 1, 2]
  · simp only [hok, if_true, width_fmtOf hok]
    refine ⟨_, rfl, ?_⟩
    have hout := roundV_out (slotState fp s code) n d (codeWidth code) m (g (slotState fp s code) (fmtOf code))
    simp only [lanesBelow_slotState, onLanes_slotState, roundAt_slotState, hg code hok] at hout
    exact hout
  · simp only [hok, if_false]
    rfl

/-- A merging form whose elements are a function of the state. -/
theorem mergingForm_of_mapV {c : Ctl} {s : State} {i : Instr} {fp : Bool} {dflt : Nat} {ok : List Nat} {n : Nat} {d : Reg} {m : BitVec 3}
    {f : Nat → Nat → Nat} {g : State → Nat → Nat → Nat} {width : Nat → Nat}
    (hexec : exec i s = vFmt fp dflt ok c s (fun code t => mapV t n d (width code) m (g t code))) (hfp : fp = true → dflt = 0)
    (hwidth : ∀ code ∈ ok, width code = codeWidth code) (hg : ∀ code ∈ ok, ∀ e, g (slotState fp s code) code e = f code e) :
    mergingForm c s i fp dflt ok n d m f := by
  refine ⟨vFmt_odd _ hexec, fun code hr hw => ?_⟩
  rw [hexec, vFmt_on _ hr hw hfp]
  by_cases hok : code ∈ ok
  · simp only [hok, if_true, hwidth code hok, funext (hg code hok)]
    refine ⟨_, rfl, ?_⟩
    have hout := mapV_out (slotState fp s code) n d (codeWidth code) m (f code)
    rw [onLanes_slotState] at hout
    exact hout
  · simp only [hok, if_false]
    rfl

/-- The arithmetic forms: one rounding of an exact value of the two sources and the old destination. -/
theorem vecFloat_rounds {c : Ctl} {s : State} {i : Instr} {n : Nat} {d a b : Reg} {m : BitVec 3} (x : Bool → Num → Num → Num → Num)
    (hexec : exec i s = vecFloat n x c d a b m s) : roundingForm c s i true n d m (fun f r e => roundTo f r false
      (x (decide ((rmode s).toNat % 8 = 2)) (floatVal f (elemOf (V s a) f.width e)) (floatVal f (elemOf (V s b) f.width e))
        (floatVal f (elemOf (V s d) f.width e)))) := by
  refine roundingForm_of_roundV (g := fun t f r e => roundTo f r false
    (x (isRdn t) (floatVal f (elemOf (V t a) f.width e)) (floatVal f (elemOf (V t b) f.width e)) (floatVal f (elemOf (V t d) f.width e))))
    hexec fun code _ r e => ?_
  obtain ⟨hV, -, hmode, -⟩ := slotState_reads true s code
  simp only [isRdn_eq, hV, hmode]

/-! ## The lesser and the greater of two elements (R143) -/

theorem numCmp_zeros {x y : Num} (hx : numIsZero x = true) (hy : numIsZero y = true) : numCmp x y = 0 := by
  cases x with
  | nan | inf => cases hx
  | fin s m e =>
    cases y with
    | nan | inf => cases hy
    | fin t n g =>
      rw [numCmp_eq_zero (isFin_fin ..) (isFin_fin ..), numVal_eq_zero.2 (of_decide_eq_true hx), numVal_eq_zero.2 (of_decide_eq_true hy)]

/-- A number that compares equal to a zero is one. -/
theorem numIsZero_of_cmp {x y : Num} (hx : numIsZero x = true) (hy : numIsNan y = false) (h : numCmp x y = 0) : numIsZero y = true := by
  cases x with
  | nan | inf => cases hx
  | fin s m e =>
    cases y with
    | nan => cases hy
    | inf t => cases t <;> simp [numCmp] at h
    | fin t n g =>
      rw [numCmp_eq_zero (isFin_fin ..) (isFin_fin ..), numVal_eq_zero.2 (of_decide_eq_true hx)] at h
      exact decide_eq_true (numVal_eq_zero.1 h.symm)

/-- Which source is the lesser: by value, and of two zeros the one with the sign. -/
theorem less_iff (f : FloatFmt) (p : Nat) {x y : Num} (hy : numIsNan y = false) :
    (if numIsZero x && numIsZero y then decide (2 ^ (f.width - 1) ≤ p) else decide (numCmp x y ≤ 0)) = true
      ↔ numCmp x y < 0 ∨ (numCmp x y = 0 ∧ (numIsZero x → 2 ^ (f.width - 1) ≤ p)) := by
  cases hx : numIsZero x with
  | false =>
    simp only [Bool.false_and, Bool.false_eq_true, if_false, decide_eq_true_eq, false_implies, and_true]
    omega
  | true =>
    cases hz : numIsZero y with
    | true => simp [numCmp_zeros hx hz]
    | false =>
      have hne : numCmp x y ≠ 0 := fun h => by simp [numIsZero_of_cmp hx hy h] at hz
      simp only [Bool.and_false, Bool.false_eq_true, if_false, decide_eq_true_eq]
      omega

theorem minMaxBits_eq (f : FloatFmt) (p q : Nat) : minMaxBits f false p q = lesserOf f p q ∧ minMaxBits f true p q = greaterOf f p q := by
  unfold minMaxBits lesserOf greaterOf
  simp only [Bool.or_eq_true]
  by_cases hnan : numIsNan (floatVal f p) = true ∨ numIsNan (floatVal f q) = true
  · simp only [hnan, if_true, and_self]
  · have hy : numIsNan (floatVal f q) = false := by
      rw [not_or] at hnan
      simpa using hnan.2
    simp only [hnan, if_false, Bool.false_eq_true, if_true]
    exact ⟨if_congr (less_iff f p hy) rfl rfl, if_congr (less_iff f p hy) rfl rfl⟩

/-- VMIN and VMAX: the element that the choice picks. -/
theorem vecMinMax_merges {c : Ctl} {s : State} {i : Instr} {d a b : Reg} {m : BitVec 3} {greater : Bool}
    {pick : FloatFmt → Nat → Nat → Nat}
    (hexec : exec i s = vecMinMax greater c d a b m s) (hpick : ∀ f p q, minMaxBits f greater p q = pick f p q) :
    mergingForm c s i true 0 [0, 11, 1, 2] 4 d m
      (fun code e => pick (fmtOf code) (elemOf (V s a) (codeWidth code) e) (elemOf (V s b) (codeWidth code) e)) := by
  refine mergingForm_of_mapV (width := fun code => (fmtOf code).width) (g := fun t code e =>
    minMaxBits (fmtOf code) greater (elemOf (V t a) (fmtOf code).width e) (elemOf (V t b) (fmtOf code).width e))
    hexec (fun _ => rfl) (fun code => width_fmtOf) fun code hok e => ?_
  obtain ⟨hV, -⟩ := slotState_reads true s code
  simp only [hV, hpick, width_fmtOf hok]

/-! ## Rounding to an integral value (R151) -/

/-- Bits of a width are a sign and a magnitude. -/
theorem exists_sign (f : FloatFmt) {bits : Nat} (h : bits < 2 ^ f.width) :
    ∃ neg mag, bits = signBit f neg + mag ∧ mag < 2 ^ (f.width - 1) := by
  have hw := two_pow_width f
  by_cases hb : 2 ^ (f.width - 1) ≤ bits
  · exact ⟨true, bits - 2 ^ (f.width - 1), by simp [signBit]; omega, by omega⟩
  · exact ⟨false, bits, by simp [signBit], by omega⟩

/-- An element that is an infinity has the bits of its sign and of the format's infinity. -/
theorem floatVal_eq_inf {f : FloatFmt} {bits : Nat} {neg : Bool} (h : bits < 2 ^ f.width) (hv : floatVal f bits = .inf neg) :
    bits = f.inf.getD 0 + (if neg then 2 ^ (f.width - 1) else 0) := by
  obtain ⟨sign, mag, rfl, hmag⟩ := exists_sign f h
  rw [floatVal_bits f sign hmag] at hv
  split at hv
  next =>
    split at hv
    next hinf =>
      cases hv
      rw [hinf, Nat.add_comm]
      rfl
    next => cases hv
  next => cases hv

theorem elemOf_lt {v : Nat} (b : BitVec v) (w e : Nat) : elemOf b w e < 2 ^ w := Nat.mod_lt _ (by positivity)

theorem rintBits_eq (f : FloatFmt) (r : Rnd) {bits : Nat} (h : bits < 2 ^ f.width) : rintBits f r bits = match floatVal f bits with
    | .nan => f.nan.getD 0
    | .inf neg => f.inf.getD 0 + (if neg then 2 ^ (f.width - 1) else 0)
    | .fin neg k x =>
      let i := roundInt r (.fin neg k x)
      if i = 0 then (if neg then 2 ^ (f.width - 1) else 0) else roundTo f .rne false (numOfInt i) := by
  unfold rintBits
  cases hv : floatVal f bits with
  | nan | fin => rfl
  | inf neg => exact floatVal_eq_inf h hv

end Sys2Proof.Machine

namespace Sys2Proof

open Machine

/-- Settles O38: the arithmetic forms and VRINT by their one rounding, VMIN and VMAX by the choice of a source. -/
theorem floatArithmetic : Obligations.FloatArithmetic := by
  unfold Obligations.FloatArithmetic
  intro c d a b m s A B D down
  refine ⟨vecFloat_rounds (fun r x y _ => numAdd r x y) rfl, vecFloat_rounds (fun r x y _ => numAdd r x (numNeg y)) rfl,
    vecFloat_rounds (fun _ x y _ => numMul x y) rfl, vecFloat_rounds (fun r x y z => numAdd r (numMul x y) z) rfl,
    vecFloat_rounds (fun r x y z => numAdd r z (numNeg (numMul x y))) rfl, vecFloat_rounds (fun r x y z => numAdd r (numMul x y) (numNeg z)) rfl,
    vecMinMax_merges rfl fun f p q => (minMaxBits_eq f p q).1, vecMinMax_merges rfl fun f p q => (minMaxBits_eq f p q).2, ?_⟩
  refine roundingForm_of_roundV (g := fun t f r e => rintBits f r (elemOf (V t a) f.width e)) rfl fun code _ r e => ?_
  obtain ⟨hV, -⟩ := slotState_reads false s code
  simp only [hV, rintBits_eq _ _ (elemOf_lt _ _ _)]
  rfl

end Sys2Proof
end
section
/-! PROOFS. Matrix drains (R70, R163, R175, R176). -/

namespace Sys2Proof.Machine

open Sys2Proof

/-! ## Rows in SRAM (R163) -/

theorem matBase_rowBase (s : State) (r : Reg) : matBase (X s r) (X s (r + 1)) = rowBase s r := by
  simp only [matBase, rowBase, bitsOf, Nat.shiftRight_eq_div_pow, pow_zero, Nat.div_one]

theorem matAddr_rowByte (s : State) (r : Reg) (rb b : Nat) : matAddr (X s r) (X s (r + 1)) rb b = rowByte s r rb b := by
  simp only [matAddr, rowByte, matBase_rowBase, bitsOf, Nat.shiftRight_eq_div_pow]
  rfl

theorem sideAddr_rowBase (s : State) (r : Reg) : sideAddr (X s r) (X s (r + 1)) = rowBase s r + (X s (r + 1)).toNat / 2 ^ 40 % 2 ^ 16 := by
  simp only [sideAddr, matBase_rowBase, bitsOf, Nat.shiftRight_eq_div_pow]

theorem rangeOk_user {s : State} (h : s.tile.sup = false) (a : Int) (n : Nat) : rangeOk s.tile false a n = spanOk s.tile a n := by
  rw [← rangeOk_spanOk, h]

/-- Causes raised where a condition fails. -/
theorem raise_unless (s : State) (c : Prop) [Decidable c] (l : List (Nat × W64)) :
    (if c then s else raise s l) = raise s (if c then [] else l) := by
  split
  · exact (raise_nil s).symm
  · rfl

theorem rangeOk_raise (s : State) (l : List (Nat × W64)) (a : Int) (n : Nat) :
    rangeOk (raise s l).tile false a n = rangeOk s.tile false a n := rfl

theorem aligned_four (a : Nat) : (a : Int) % ((4 : Nat) : Int) = 0 ↔ a % 4 = 0 := by omega

/-- The checks of a row in SRAM raise its causes and nothing else. -/
theorem matCheck_raise {s : State} (h : s.tile.sup = false) (r : Reg) (rb side : Nat) :
    matCheck s (X s r) (X s (r + 1)) rb side = raise s (rowFaults s r 1 rb side) := by
  have hone : (1 : BitVec 1) ≠ 0 := by decide
  unfold matCheck rowFaults
  simp only [matAddr_rowByte, matBase_rowBase, sideAddr_rowBase, rangeOk_user h, upto, hone, if_false]
  generalize ((List.range (rb / 64)).map fun k => rowByte s r rb (64 * k)).find? (fun a : Nat => !spanOk s.tile a 64) = line
  cases line with
  | none =>
    by_cases hz : side = 0
    · simp only [hz, if_true, addCause_raise, raise_unless, List.nil_append, List.append_nil]
    · simp only [hz, if_false, addCause_raise, raise_unless, rangeOk_raise, rangeOk_user h, accessFaults, aligned_four, BitVec.ofInt_natCast]
      simp only [raise_raise, List.nil_append, List.append_assoc]
  | some a =>
    by_cases hz : side = 0
    · simp only [hz, if_true, addCause_raise, raise_unless, List.append_nil]
      simp only [raise_raise]
    · simp only [hz, if_false, addCause_raise, raise_unless, rangeOk_raise, rangeOk_user h, accessFaults, aligned_four, BitVec.ofInt_natCast]
      simp only [raise_raise, List.append_assoc]

theorem rowFaults_none (s : State) (r : Reg) (rb side : Nat) : rowFaults s r 0 rb side = [] := rfl

/-- The row number one further, modulo 2^16. -/
theorem setBits_index (v : W64) (x : Nat) : setBits v 32 16 x
    = BitVec.ofNat 64 (v.toNat - v.toNat / 2 ^ 32 % 2 ^ 16 * 2 ^ 32 + x % 2 ^ 16 * 2 ^ 32) := by
  have hx := Nat.mod_lt x (show 0 < 2 ^ 16 by decide)
  refine BitVec.eq_of_getLsbD_eq fun i hi => ?_
  rw [getLsbD_setBits _ _ _ _ _ hi, BitVec.getLsbD_ofNat, decide_eq_true hi, Bool.true_and, ← BitVec.testBit_toNat]
  generalize hN : v.toNat - v.toNat / 2 ^ 32 % 2 ^ 16 * 2 ^ 32 + x % 2 ^ 16 * 2 ^ 32 = N
  have hlow : N % 2 ^ 32 = v.toNat % 2 ^ 32 := by omega
  have hmid : N / 2 ^ 32 % 2 ^ 16 = x % 2 ^ 16 := by omega
  have hhigh : N / 2 ^ 48 = v.toNat / 2 ^ 48 := by omega
  by_cases h1 : i < 32
  · have hbit := congrArg (Nat.testBit · i) hlow
    simp only [Nat.testBit_mod_two_pow, h1, decide_true, Bool.true_and] at hbit
    rw [if_neg (by omega), hbit]
  · by_cases h2 : i < 48
    · have hbit := congrArg (Nat.testBit · (i - 32)) hmid
      simp only [Nat.testBit_mod_two_pow, Nat.testBit_div_two_pow, show i - 32 < 16 by omega, decide_true, Bool.true_and,
        Nat.sub_add_cancel (not_lt.1 h1)] at hbit
      rw [if_pos (by omega), hbit]
    · have hbit := congrArg (Nat.testBit · (i - 48)) hhigh
      simp only [Nat.testBit_div_two_pow, Nat.sub_add_cancel (not_lt.1 h2)] at hbit
      rw [if_neg (by omega), hbit]

/-- The post-increment is the row's step. -/
theorem matInc_emit (s : State) (r : Reg) : matInc s r = emit s (rowStep s r 1) := by
  unfold matInc rowStep
  simp only [true_and, setBits_index, bitsOf, Nat.shiftRight_eq_div_pow]
  split
  · rfl
  · exact (emit_nil s).symm

/-! ## The 64 cells of a row, packed -/

theorem packNat_lt (w : Nat) (l : List Nat) : packNat w l < 2 ^ (w * l.length) := by
  induction l with
  | nil => exact one_pos
  | cons x r ih =>
    have hx := Nat.mod_lt x (show 0 < 2 ^ w by positivity)
    rw [packNat, List.length_cons, Nat.mul_succ, Nat.add_comm (w * r.length), pow_add]
    calc x % 2 ^ w + 2 ^ w * packNat w r < 2 ^ w * (packNat w r + 1) := by rw [Nat.mul_succ]; omega
      _ ≤ 2 ^ w * 2 ^ (w * r.length) := Nat.mul_le_mul_left _ ih

theorem digitAt_packNat (w : Nat) (l : List Nat) (e : Nat) : digitAt w (packNat w l) e = l.getD e 0 % 2 ^ w := by
  induction l generalizing e with
  | nil => simp [digitAt, packNat]
  | cons x r ih =>
    have hpos : 0 < 2 ^ w := by positivity
    cases e with
    | zero => simp [digitAt, packNat]
    | succ e =>
      rw [List.getD_cons_succ, ← ih, digitAt, packNat, Nat.mul_succ, Nat.add_comm (w * e), pow_add, ← Nat.div_div_eq_div_mul,
        Nat.add_mul_div_left _ _ hpos, Nat.div_eq_of_lt (Nat.mod_lt x hpos), Nat.zero_add, digitAt]

/-- Elements moved up by a number of places. -/
theorem digitAt_shifted (w N b e : Nat) : digitAt w (N * 2 ^ (w * b)) e = if b ≤ e then digitAt w N (e - b) else 0 := by
  unfold digitAt
  split
  next h =>
    obtain ⟨k, rfl⟩ := Nat.exists_eq_add_of_le h
    rw [Nat.mul_add, pow_add, ← Nat.div_div_eq_div_mul, Nat.mul_div_cancel _ (by positivity), Nat.add_sub_cancel_left]
  next h =>
    obtain ⟨k, rfl⟩ := Nat.exists_eq_add_of_lt (not_le.1 h)
    rw [show w * (e + k + 1) = w * k + w + w * e by ring, pow_add, pow_add, ← mul_assoc, ← mul_assoc, Nat.mul_div_cancel _ (by positivity),
      Nat.mul_mod_left]

theorem digitAt_ones (w n e : Nat) : digitAt w (2 ^ (w * n) - 1) e = if e < n then 2 ^ w - 1 else 0 := by
  refine Nat.eq_of_testBit_eq fun i => ?_
  rw [digitAt, Nat.testBit_mod_two_pow, Nat.testBit_div_two_pow, Nat.testBit_two_pow_sub_one]
  split
  next h =>
    have := Nat.mul_le_mul_left w h
    rw [Nat.mul_succ] at this
    rw [Nat.testBit_two_pow_sub_one]
    by_cases hi : i < w
    · simp [hi, show i + w * e < w * n by omega]
    · simp [hi]
  next h =>
    have := Nat.mul_le_mul_left w (not_lt.1 h)
    simp [show ¬i + w * e < w * n by omega]

theorem getD_upto (f : Nat → Nat) {k n : Nat} (h : n < k) : ((upto k).map f).getD n 0 = f n := by simp [upto, h]

/-- A part of a vector register takes 64 packed elements and nothing else of it changes. -/
theorem writesElems_part (w base : Nat) (f : Nat → Nat) :
    writesElems w (vMask (w * base) (64 * w)) (BitVec.ofNat 2048 (packNat w ((upto 64).map f) * 2 ^ (w * base)))
      (fun e => if base ≤ e ∧ e < base + 64 then some (f (e - base)) else none) := by
  intro e he
  have hbits := elem_bound he
  have hmask : elemOf (vMask (w * base) (64 * w)) w e = if base ≤ e ∧ e < base + 64 then 2 ^ w - 1 else 0 := by
    rw [vMask, elemOf_ofNat hbits, digitAt_shifted, Nat.mul_comm 64 w, digitAt_ones, ← ite_and]
    exact if_congr (by omega) rfl rfl
  by_cases h : base ≤ e ∧ e < base + 64
  · rw [if_pos h] at hmask
    simp only [h, and_self, if_true]
    exact ⟨hmask, by rw [elemOf_ofNat hbits, digitAt_shifted, if_pos h.1, digitAt_packNat, getD_upto f (by omega)]⟩
  · rw [if_neg h] at hmask
    simp only [h, if_false]
    exact hmask

/-- The bytes of 64 packed elements. -/
theorem elemOf_packedBytes {w : Nat} (f : Nat → Nat) (hw : w ≤ 32) {n : Nat} (hn : n < 64) :
    elemOf (BitVec.ofNat 2048 (leNat (leBytes (packNat w ((upto 64).map f)) (8 * w)))) w n = f n % 2 ^ w := by
  have hlt := packNat_lt w ((upto 64).map f)
  have hbytes : 256 ^ (8 * w) = 2 ^ (w * ((upto 64).map f).length) := by
    rw [show 256 = 2 ^ 8 from rfl, ← pow_mul, List.length_map, upto, List.length_range]
    congr 1
    ring
  have hbits : w * n + w ≤ 2048 := by nlinarith
  rw [leNat_leBytes, hbytes, Nat.mod_eq_of_lt hlt, elemOf_ofNat hbits, digitAt_packNat, getD_upto f hn]

/-! ## The drain (R175, R176) -/

/-- The formats that a drain accepts are at most 32 bits wide. -/
theorem drain_width {c : Ctl} {b : BitVec 1} {r : BitVec 6} {d : Reg} {p h clr : BitVec 1} {fmt : BitVec 4} {sat : BitVec 1}
    (hwf : (Instr.mdrain c b r d p h clr fmt sat).wf = true) : codeWidth fmt.toNat ≤ 32 := by
  simp only [Instr.wf, Bool.and_eq_true] at hwf
  obtain ⟨-, ⟨hfmt, -⟩, -⟩ := hwf
  simp only [drainFmt, List.contains_iff_mem, List.mem_cons, List.not_mem_nil, or_false] at hfmt
  rcases hfmt with h | h | h | h | h | h | h | h | h <;> rw [h] <;> decide

/-- Cell `n` of a row as the source of a conversion (R54). -/
def cellSrc (s : State) (k n : Nat) : Src :=
  if s.tile.th.cmode.getLsbD k then .int (cellGet s.tile.th.acc (64 * k + n)).toInt
  else .flt (floatVal fFX96 (cellGet s.tile.th.acc (64 * k + n)).toNat)

theorem srcNum_cellSrc (s : State) (k n : Nat) :
    srcNum (cellSrc s k n) = cellNum (s.tile.th.cmode.getLsbD k) (cellGet s.tile.th.acc (64 * k + n)) := by
  unfold cellSrc cellNum
  cases s.tile.th.cmode.getLsbD k <;> rfl

/-- The cells of a row converted in order, each under the random bits of its own advance (R58, R70). -/
theorem drainRow_at (s : State) (k fmt : Nat) (sat : Bool) : drainRow s k fmt sat
    = ((upto 64).map (fun n => (n, convert fmt (roundAt s n) (sat || rsat s) (cellSrc s k n))),
      if isSr (rmode s) then seedAfter (seedOf s) 64 else seedOf s) := by
  have hidx : (upto 64).zipIdx = (upto 64).map (fun n => (n, n)) := by decide
  rw [drainRow, roundList_at, hidx, List.map_map]
  rfl

/-- The status bit of a drain: a NaN among the cells or among the converted elements (R70). -/
theorem drainNan_eq (s : State) (k fmt : Nat) (y : Nat → Nat) :
    drainNan fmt ((rowGet s.tile.th k).map (fun v => cellNum (s.tile.th.cmode.getLsbD k) v)) ((upto 64).map y)
      = (upto 64).any (fun n => numIsNan (srcNum (cellSrc s k n)) || (match codeFloat fmt with
        | some f => numIsNan (floatVal f (y n))
        | none => false)) := by
  simp only [drainNan, rowGet, srcNum_cellSrc, List.map_map, List.any_map, Function.comp_def]
  cases codeFloat fmt with
  | none => simp
  | some f =>
    rw [Bool.eq_iff_iff]
    simp only [Bool.or_eq_true, List.any_eq_true, ← exists_or, ← and_or_left]

/-! ## What a drain adds to its bundle -/

theorem rowStep_emit (s : State) (l : List Flight) (r : Reg) (p : BitVec 1) : rowStep (emit s l) r p = rowStep s r p := rfl

theorem rowStep_seeded (s : State) (n : Nat) (r : Reg) (p : BitVec 1) : rowStep (seeded s n) r p = rowStep s r p := by
  unfold seeded
  split <;> rfl

theorem emit_unless (s : State) (c : Prop) [Decidable c] (l : List Flight) : (if c then emit s l else s) = emit s (if c then l else []) := by
  split
  · rfl
  · exact (emit_nil s).symm

/-- The causes of a drain: those of its row in SRAM, then the MLATCH trap of an invalid row. -/
def drainFaults (s : State) (b : BitVec 1) (r : BitVec 6) (d : Reg) (p : BitVec 1) (w : Nat) : List (Nat × W64) :=
  rowFaults s d p (8 * w) 0
    ++ (if s.tile.th.rowOk.getLsbD (64 * b.toNat + r.toNat) then [] else [(0x11, BitVec.ofNat 64 (256 + 128 * b.toNat + r.toNat))])

/-- The checks of a drain raise its causes and nothing else. -/
theorem drainChecks_raise {s : State} (h : s.tile.sup = false) (b : BitVec 1) (r : BitVec 6) (d : Reg) (p : BitVec 1) (w : Nat) :
    (if s.tile.th.rowOk.getLsbD (rowIdx b r) then (if p = 1 then matCheck s (X s d) (X s (d + 1)) (8 * w) 0 else s)
      else badRow (if p = 1 then matCheck s (X s d) (X s (d + 1)) (8 * w) 0 else s) (rowIdx b r)) = raise s (drainFaults s b r d p w) := by
  have hrow : (if p = 1 then matCheck s (X s d) (X s (d + 1)) (8 * w) 0 else s) = raise s (rowFaults s d p (8 * w) 0) := by
    by_cases hp : p = 1
    · rw [if_pos hp, matCheck_raise h, hp]
    · obtain rfl : p = 0 := (BitVec.eq_zero_or_eq_one p).resolve_right hp
      rw [if_neg hp, rowFaults_none, raise_nil]
  have hdiv : (64 * b.toNat + r.toNat) / 64 = b.toNat := by omega
  have hmod : (64 * b.toNat + r.toNat) % 64 = r.toNat := by omega
  rw [hrow, badRow, rowIdx, hdiv, hmod, addCause_raise, raise_unless, raise_raise]
  rfl

theorem faulty_raise {s : State} (h : s.tile.iss.causes = []) (l : List (Nat × W64)) : faulty (raise s l) = decide (l ≠ []) := by
  simp [faulty, raise, h]

/-- A drain whose checks fail raises their causes. -/
theorem execMdrain_faults {c : Ctl} {b : BitVec 1} {r : BitVec 6} {d : Reg} {p h clr : BitVec 1} {fmt : BitVec 4} {sat : BitVec 1} {s : State}
    (hr : runsUser s c) (hs : s.tile.iss.causes = []) (hf : drainFaults s b r d p (codeWidth fmt.toNat) ≠ []) :
    execMdrain c b r d p h clr fmt sat s = .next (raise s (drainFaults s b r d p (codeWidth fmt.toNat))) := by
  rw [execMdrain, unitSlot_on _ hr]
  simp only [drainChecks_raise hr.1, faulty_raise hs, hf, ne_eq, not_false_eq_true, decide_true, if_true]

/-- The converted elements of a drain. -/
def drainedElem (s : State) (b : BitVec 1) (r : BitVec 6) (fmt : BitVec 4) (sat : BitVec 1) (n : Nat) : Nat :=
  convert fmt.toNat (roundAt s n) (sat = 1 || rsat s) (cellSrc s (64 * b.toNat + r.toNat) n)

/-- The status bit and the clearing of a drain. -/
def drainRest (s : State) (b : BitVec 1) (r : BitVec 6) (clr : BitVec 1) (fmt : BitVec 4) (sat : BitVec 1) : List Flight :=
  (if (upto 64).any (fun n => numIsNan (srcNum (cellSrc s (64 * b.toNat + r.toNat) n)) || (match codeFloat fmt.toNat with
      | some f => numIsNan (floatVal f (drainedElem s b r fmt sat n))
      | none => false)) then [⟨4, true, .mst (64 * b.toNat + r.toNat)⟩] else [])
    ++ (if clr = 1 then [⟨8, true, .rowClear (64 * b.toNat + r.toNat)⟩] else [])

/-- A drain whose checks pass: the elements land in the register or in SRAM, then come the status bit and the clearing. -/
theorem execMdrain_lands {c : Ctl} {b : BitVec 1} {r : BitVec 6} {d : Reg} {p h clr : BitVec 1} {fmt : BitVec 4} {sat : BitVec 1} {s : State}
    (hr : runsUser s c) (hs : s.tile.iss.causes = []) (hf : drainFaults s b r d p (codeWidth fmt.toNat) = []) :
    let w := codeWidth fmt.toNat
    let bits := packNat w ((upto 64).map (drainedElem s b r fmt sat))
    execMdrain c b r d p h clr fmt sat s = .next (emit (seeded s 64) ((if p = 0
        then [⟨6, true, .v d (vMask (w * (64 * h.toNat)) (64 * w)) (BitVec.ofNat 2048 (bits * 2 ^ (w * (64 * h.toNat))))⟩]
        else ⟨6, true, .bytes ((leBytes bits (8 * w)).zipIdx.map (fun q => (rowByte s d (8 * w) q.2, q.1)))⟩ :: rowStep s d 1)
      ++ drainRest s b r clr fmt sat)) := by
  intro w bits
  have hok : faulty s = false := by simp [faulty, hs]
  have hels : ((drainRow s (rowIdx b r) fmt.toNat (sat = 1)).1.map (·.2)) = (upto 64).map (drainedElem s b r fmt sat) := by
    rw [drainRow_at, List.map_map]
    rfl
  have hseed : (if isSr (rmode s) then setSeed s (drainRow s (rowIdx b r) fmt.toNat (sat = 1)).2 else s) = seeded s 64 := by
    rw [drainRow_at, setSeed_seeded]
  rw [execMdrain, unitSlot_on _ hr]
  simp only [drainChecks_raise hr.1, hf, raise_nil, hok, Bool.false_eq_true, if_false, hels, hseed, drainNan_eq, matAddr_rowByte, matInc_emit,
    addFlight_emit, emit_unless, rowStep_emit, rowStep_seeded]
  rw [show rowIdx b r = 64 * b.toNat + r.toNat from rfl, show 8 * codeWidth fmt.toNat * (8 * h.toNat) = w * (64 * h.toNat) by ring,
    show 64 * codeWidth fmt.toNat * h.toNat = w * (64 * h.toNat) by ring]
  by_cases hp : p = 0
  · simp only [hp, if_true, emit_emit, List.append_assoc]
    rfl
  · simp only [hp, if_false, emit_emit, List.append_assoc]
    rfl

end Sys2Proof.Machine

namespace Sys2Proof

open Machine

/-- Settles O50: the checks by the causes they raise, the elements by their places in the register or in the bytes of the row. -/
theorem matrixDrains : Obligations.MatrixDrains := by
  unfold Obligations.MatrixDrains
  intro c b r d p h clr fmt sat s hwf hr hs k w faults cell val y nan rest
  refine ⟨fun hf => ⟨_, execMdrain_faults hr hs hf, rfl, rfl, rfl⟩, fun hf hp => ?_, fun hf hp => ?_⟩
  · have hlands := execMdrain_lands (d := d) (p := p) (h := h) (clr := clr) (sat := sat) hr hs hf
    simp only [hp, if_true] at hlands ⊢
    exact ⟨_, _, hlands, writesElems_part w (64 * h.toNat) (drainedElem s b r fmt sat)⟩
  · have hlands := execMdrain_lands (d := d) (p := p) (h := h) (clr := clr) (sat := sat) hr hs hf
    have hone : (1 : BitVec 1) ≠ 0 := by decide
    simp only [hp, hone, if_false] at hlands ⊢
    exact ⟨_, leBytes_length _ _, fun n hn => elemOf_packedBytes (drainedElem s b r fmt sat) (drain_width hwf) hn, hlands⟩

end Sys2Proof
end
section
/-! PROOFS. The results of the scalar slots: each meaning as arithmetic on the numbers that its registers hold, or bit by bit (R74 to R90). -/

namespace Sys2Proof.Machine

open Sys2Proof

/-! ## Slots of one and of two registers -/

/-- A two-register slot has the result `g` where its meaning `f` and `g` agree on all words. -/
theorem binaryResult_of {op : Ctl → Reg → Reg → Reg → Instr} {lat : Nat} {g : W64 → W64 → W64} (f : W64 → W64 → W64) (h : ∀ x y, f x y = g x y)
    (hop : ∀ c d a b s, exec (op c d a b) s = binX lat f c d a b s := by intros; rfl) : binaryResult op lat g :=
  fun c d a b s hr => by rw [hop, binX, plain_on _ hr, addX_emit, h]

theorem binaryWhere_of {op : Ctl → Reg → Reg → Reg → Instr} {lat : Nat} {rel : W64 → W64 → W64 → Prop} (f : W64 → W64 → W64) (h : ∀ x y, rel x y (f x y))
    (hop : ∀ c d a b s, exec (op c d a b) s = binX lat f c d a b s := by intros; rfl) : binaryWhere op lat rel :=
  fun c d a b s hr => ⟨_, h _ _, binaryResult_of f (fun _ _ => rfl) hop c d a b s hr⟩

theorem unaryResult_of {op : Ctl → Reg → Reg → Instr} {g : W64 → W64} (f : W64 → W64) (h : ∀ x, f x = g x)
    (hop : ∀ c d a s, exec (op c d a) s = unX f c d a s := by intros; rfl) : unaryResult op 1 g :=
  fun c d a s hr => by rw [hop, unX, plain_on _ hr, addX_emit, h]

theorem unaryWhere_of {op : Ctl → Reg → Reg → Instr} {rel : W64 → W64 → Prop} (f : W64 → W64) (h : ∀ x, rel x (f x))
    (hop : ∀ c d a s, exec (op c d a) s = unX f c d a s := by intros; rfl) : unaryWhere op 1 rel :=
  fun c d a s hr => ⟨_, h _, unaryResult_of f (fun _ => rfl) hop c d a s hr⟩

/-! ## Words as numbers -/

theorem ofInt_sub_ofInt (w : Nat) (m n : Int) : BitVec.ofInt w m - BitVec.ofInt w n = BitVec.ofInt w (m - n) := by
  rw [sub_eq_add_neg m, BitVec.ofInt_add, BitVec.ofInt_neg, ← BitVec.sub_eq_add_neg]

theorem shiftLeft_ofNat {w : Nat} (x : BitVec w) (n : Nat) : x <<< n = BitVec.ofNat w (x.toNat * 2 ^ n) := by
  apply BitVec.eq_of_toNat_eq
  simp [Nat.shiftLeft_eq]

theorem ushiftRight_ofNat {w : Nat} (x : BitVec w) (n : Nat) : x >>> n = BitVec.ofNat w (x.toNat / 2 ^ n) := by
  rw [← Nat.shiftRight_eq_div_pow, ← BitVec.toNat_ushiftRight, BitVec.ofNat_toNat, BitVec.setWidth_eq]

theorem sshiftRight_ofInt {w : Nat} (x : BitVec w) (n : Nat) : x.sshiftRight n = BitVec.ofInt w (x.toInt / 2 ^ n) := by
  rw [← BitVec.ofInt_toInt (x := x.sshiftRight n), BitVec.toInt_sshiftRight, Int.shiftRight_eq_div_pow]
  norm_cast

theorem low32_toNat (x : W64) : (low32 x).toNat = lowU x := by simp [low32, lowU]

theorem low32_toInt (x : W64) : (low32 x).toInt = lowS x := by
  rw [BitVec.toInt_eq_toNat_bmod, low32_toNat, lowU, lowS, BitVec.toInt_eq_toNat_bmod]
  simp only [Int.bmod_def]
  omega

/-- A 32-bit result is sign-extended, whichever integer gives its 32 bits. -/
theorem sext32_ofInt (n : Int) : sext32 (BitVec.ofInt 32 n) = wrap32 n := by
  rw [sext32, BitVec.signExtend, BitVec.toInt_ofInt, wrap32]

theorem sext32_ofNat (n : Nat) : sext32 (BitVec.ofNat 32 n) = wrap32 n := by
  rw [← sext32_ofInt, BitVec.ofInt_natCast]

theorem low32_ofInt (x : W64) : low32 x = BitVec.ofInt 32 x.toInt := by
  apply BitVec.eq_of_toInt_eq
  rw [low32_toInt, BitVec.toInt_ofInt, lowS]

theorem toInt_min (x y : W64) : (if y.slt x then y else x) = BitVec.ofInt 64 (min x.toInt y.toInt) := by
  by_cases h : y.toInt < x.toInt
  · rw [if_pos (BitVec.slt_iff_toInt_lt.2 h), min_eq_right h.le, BitVec.ofInt_toInt]
  · rw [if_neg (mt BitVec.slt_iff_toInt_lt.1 h), min_eq_left (not_lt.1 h), BitVec.ofInt_toInt]

theorem toInt_max (x y : W64) : (if x.slt y then y else x) = BitVec.ofInt 64 (max x.toInt y.toInt) := by
  by_cases h : x.toInt < y.toInt
  · rw [if_pos (BitVec.slt_iff_toInt_lt.2 h), max_eq_right h.le, BitVec.ofInt_toInt]
  · rw [if_neg (mt BitVec.slt_iff_toInt_lt.1 h), max_eq_left (not_lt.1 h), BitVec.ofInt_toInt]

theorem toNat_min (x y : W64) : (if y.ult x then y else x) = BitVec.ofNat 64 (min x.toNat y.toNat) := by
  by_cases h : y.toNat < x.toNat
  · rw [if_pos (BitVec.ult_iff_lt.2 h), min_eq_right h.le, BitVec.ofNat_toNat, BitVec.setWidth_eq]
  · rw [if_neg (mt BitVec.ult_iff_lt.1 h), min_eq_left (not_lt.1 h), BitVec.ofNat_toNat, BitVec.setWidth_eq]

theorem toNat_max (x y : W64) : (if x.ult y then y else x) = BitVec.ofNat 64 (max x.toNat y.toNat) := by
  by_cases h : x.toNat < y.toNat
  · rw [if_pos (BitVec.ult_iff_lt.2 h), max_eq_right h.le, BitVec.ofNat_toNat, BitVec.setWidth_eq]
  · rw [if_neg (mt BitVec.ult_iff_lt.1 h), max_eq_left (not_lt.1 h), BitVec.ofNat_toNat, BitVec.setWidth_eq]

/-! ## Rotations bit by bit -/

theorem getLsbD_rotateRight_mod (x : W64) (n : Nat) {i : Nat} (hi : i < 64) : (x.rotateRight (n % 64)).getLsbD i = x.getLsbD ((i + n) % 64) := by
  rw [BitVec.getLsbD_rotateRight]
  by_cases h : i < 64 - n % 64 % 64
  · rw [decide_eq_true h, cond_true]
    congr 1
    omega
  · rw [decide_eq_false h, cond_false, decide_eq_true hi, Bool.true_and]
    congr 1
    omega

theorem getLsbD_rotateLeft_mod (x : W64) (n : Nat) {i : Nat} (hi : i < 64) : (x.rotateLeft (n % 64)).getLsbD ((i + n) % 64) = x.getLsbD i := by
  rw [BitVec.getLsbD_rotateLeft]
  by_cases h : (i + n) % 64 < n % 64 % 64
  · rw [decide_eq_true h, cond_true]
    congr 1
    omega
  · rw [decide_eq_false h, cond_false, decide_eq_true (Nat.mod_lt _ (by norm_num)), Bool.true_and]
    congr 1
    omega

end Sys2Proof.Machine

namespace Sys2Proof

open Machine

/-- Settles O14: each meaning of SALU is the arithmetic of its registers' numbers, by the lemma on words as numbers that speaks of it. -/
theorem scalarArithmetic : Obligations.ScalarArithmetic := by
  unfold Obligations.ScalarArithmetic
  refine ⟨binaryResult_of (fun x y => x + y) fun x y => ?add, binaryResult_of (fun x y => x - y) fun x y => ?sub,
    binaryWhere_of (fun x y => x &&& y) fun x y i hi => BitVec.getLsbD_and, binaryWhere_of (fun x y => x ||| y) fun x y i hi => BitVec.getLsbD_or,
    binaryWhere_of (fun x y => x ^^^ y) fun x y i hi => BitVec.getLsbD_xor, binaryWhere_of (fun x y => x &&& ~~~y) fun x y i hi => ?andn,
    binaryWhere_of (fun x y => x ||| ~~~y) fun x y i hi => ?orn, binaryWhere_of (fun x y => ~~~(x ^^^ y)) fun x y i hi => ?xnor,
    binaryResult_of (fun x y => x <<< bitsOf y 0 6) fun x y => shiftLeft_ofNat x _,
    binaryResult_of (fun x y => x >>> bitsOf y 0 6) fun x y => ushiftRight_ofNat x _,
    binaryResult_of (fun x y => x.sshiftRight (bitsOf y 0 6)) fun x y => sshiftRight_ofInt x _,
    binaryWhere_of (fun x y => x.rotateRight (bitsOf y 0 6)) fun x y i hi => getLsbD_rotateRight_mod x y.toNat hi,
    binaryWhere_of (fun x y => x.rotateLeft (bitsOf y 0 6)) fun x y i hi => getLsbD_rotateLeft_mod x y.toNat hi,
    binaryResult_of (fun x y => if x.slt y then 1 else 0) fun x y => ?slt, binaryResult_of (fun x y => if x.ult y then 1 else 0) fun x y => ?sltu,
    binaryResult_of (fun x y => if y.slt x then y else x) toInt_min, binaryResult_of (fun x y => if x.slt y then y else x) toInt_max,
    binaryResult_of (fun x y => if y.ult x then y else x) toNat_min, binaryResult_of (fun x y => if x.ult y then y else x) toNat_max,
    binaryResult_of (fun x y => sext32 (low32 x + low32 y)) fun x y => ?addw, binaryResult_of (fun x y => sext32 (low32 x - low32 y)) fun x y => ?subw,
    binaryResult_of (fun x y => sext32 (low32 x <<< bitsOf y 0 5)) fun x y => ?sllw,
    binaryResult_of (fun x y => sext32 (low32 x >>> bitsOf y 0 5)) fun x y => ?srlw,
    binaryResult_of (fun x y => sext32 ((low32 x).sshiftRight (bitsOf y 0 5))) fun x y => ?sraw⟩
  case add => simp [BitVec.ofNat_add]
  case sub => rw [← ofInt_sub_ofInt, BitVec.ofInt_natCast, BitVec.ofInt_natCast, BitVec.ofNat_toNat, BitVec.ofNat_toNat, BitVec.setWidth_eq, BitVec.setWidth_eq]
  case andn => simp [hi]
  case orn => simp [hi]
  case xnor => rw [BitVec.getLsbD_not, BitVec.getLsbD_xor, decide_eq_true hi, Bool.true_and]; cases x.getLsbD i <;> cases y.getLsbD i <;> rfl
  case slt => simp only [BitVec.slt_iff_toInt_lt]
  case sltu => simp only [BitVec.ult_iff_lt, BitVec.lt_def]
  case addw => rw [low32_ofInt, low32_ofInt, ← BitVec.ofInt_add, sext32_ofInt]
  case subw => rw [low32_ofInt, low32_ofInt, ofInt_sub_ofInt, sext32_ofInt]
  case sllw => rw [shiftLeft_ofNat, sext32_ofNat, low32_toNat]; rfl
  case srlw => rw [ushiftRight_ofNat, sext32_ofNat, low32_toNat]; rfl
  case sraw => rw [sshiftRight_ofInt, sext32_ofInt, low32_toInt]; rfl

end Sys2Proof
end
section
/-! PROOFS. Products, quotients and remainders (R77, R78). -/

namespace Sys2Proof.Machine

open Sys2Proof

/-! ## Quotients and remainders at every width (R78) -/

theorem mulHigh_natCast (a b : Nat) : mulHigh a b = BitVec.ofNat 64 (a * b / 2 ^ 64) := by
  rw [mulHigh, ← BitVec.ofInt_natCast]
  push_cast
  rfl

/-- The greatest magnitude and its negative are one word. -/
theorem ofInt_neg_two_pow {w : Nat} (hw : 0 < w) : BitVec.ofInt w (-2 ^ (w - 1)) = BitVec.ofInt w (2 ^ (w - 1)) := by
  have h : (2 : Int) ^ w = 2 ^ (w - 1) + 2 ^ (w - 1) := by rw [← two_mul, ← pow_succ', Nat.sub_add_cancel hw]
  apply BitVec.eq_of_toInt_eq
  rw [BitVec.toInt_ofInt, BitVec.toInt_ofInt, ← Int.add_mul_bmod_self_right (-2 ^ (w - 1)) 1]
  congr 1
  push_cast
  linarith

theorem toInt_eq_zero {w : Nat} {b : BitVec w} : b.toInt = 0 ↔ b = 0 := by rw [← BitVec.toInt_zero, BitVec.toInt_inj]; rfl

theorem toNat_eq_zero {w : Nat} {b : BitVec w} : b.toNat = 0 ↔ b = 0 := by rw [← BitVec.toNat_zero, BitVec.toNat_inj]; rfl

theorem divS_quot {w : Nat} (hw : 0 < w) (a b : BitVec w) : divS a b = BitVec.ofInt w (divQuot w a.toInt b.toInt) := by
  unfold divS divQuot
  by_cases hb : b.toInt = 0
  · rw [if_pos (toInt_eq_zero.1 hb), if_pos hb, ← BitVec.neg_one_eq_allOnes, BitVec.ofInt_neg]
    rfl
  · rw [if_neg (mt toInt_eq_zero.2 hb), if_neg hb]
    by_cases h : a.toInt = -2 ^ (w - 1) ∧ b.toInt = -1
    · rw [if_pos h, h.1, h.2, Int.neg_tdiv_neg, Int.tdiv_one, ofInt_neg_two_pow hw]
    · rw [if_neg h]

theorem remS_rem {w : Nat} (a b : BitVec w) : remS a b = BitVec.ofInt w (divRem w a.toInt b.toInt) := by
  unfold remS divRem
  by_cases hb : b.toInt = 0
  · rw [if_pos (toInt_eq_zero.1 hb), if_pos hb, BitVec.ofInt_toInt]
  · rw [if_neg (mt toInt_eq_zero.2 hb), if_neg hb]
    by_cases h : a.toInt = -2 ^ (w - 1) ∧ b.toInt = -1
    · rw [if_pos h, h.2, Int.tmod_neg, Int.tmod_one]
    · rw [if_neg h, Int.tmod_def, mul_comm]

theorem divU_quot {w : Nat} (a b : BitVec w) : divU a b = BitVec.ofNat w (divQuotU w a.toNat b.toNat) := by
  unfold divU divQuotU
  by_cases hb : b = 0
  · rw [if_pos hb, hb, if_pos (by simp), ← BitVec.toNat_allOnes, BitVec.ofNat_toNat, BitVec.setWidth_eq]
  · rw [if_neg hb, if_neg (mt toNat_eq_zero.1 hb), ← BitVec.toNat_udiv, BitVec.ofNat_toNat, BitVec.setWidth_eq]

theorem remU_rem {w : Nat} (a b : BitVec w) : remU a b = BitVec.ofNat w (divRemU a.toNat b.toNat) := by
  unfold remU divRemU
  by_cases hb : b = 0
  · rw [if_pos hb, hb, if_pos (by simp), BitVec.ofNat_toNat, BitVec.setWidth_eq]
  · rw [if_neg hb, if_neg (mt toNat_eq_zero.1 hb), mul_comm, ← Nat.mod_eq_sub_mul_div, ← BitVec.toNat_umod, BitVec.ofNat_toNat, BitVec.setWidth_eq]

end Sys2Proof.Machine

namespace Sys2Proof

open Machine

/-- Settles O15: products by the low and the high half of the exact product, quotients and remainders by the four lemmas for every width, at 64 bits
and at the low 32 bits. -/
theorem multipliesAndDivides : Obligations.MultipliesAndDivides := by
  unfold Obligations.MultipliesAndDivides
  refine ⟨binaryResult_of (fun x y => x * y) fun x y => ?mul, binaryResult_of (fun x y => mulHigh x.toInt y.toInt) fun x y => rfl,
    binaryResult_of (fun x y => mulHigh x.toNat y.toNat) fun x y => mulHigh_natCast _ _,
    binaryResult_of (fun x y => mulHigh x.toInt y.toNat) fun x y => rfl,
    binaryResult_of (fun x y => sext32 (low32 x * low32 y)) fun x y => ?mulw,
    binaryResult_of (fun x y => divS x y) fun x y => divS_quot (by norm_num) x y, binaryResult_of (fun x y => remS x y) fun x y => remS_rem x y,
    binaryResult_of (fun x y => divU x y) fun x y => divU_quot x y, binaryResult_of (fun x y => remU x y) fun x y => remU_rem x y,
    binaryResult_of (fun x y => sext32 (divS (low32 x) (low32 y))) fun x y => ?divw,
    binaryResult_of (fun x y => sext32 (remS (low32 x) (low32 y))) fun x y => ?remw,
    binaryResult_of (fun x y => sext32 (divU (low32 x) (low32 y))) fun x y => ?divuw,
    binaryResult_of (fun x y => sext32 (remU (low32 x) (low32 y))) fun x y => ?remuw, by decide, by decide, by decide, by decide, by decide, by decide⟩
  case mul => rw [BitVec.ofInt_mul, BitVec.ofInt_toInt, BitVec.ofInt_toInt]
  case mulw => rw [← low32_toInt, ← low32_toInt, ← sext32_ofInt, BitVec.ofInt_mul, BitVec.ofInt_toInt, BitVec.ofInt_toInt]
  case divw => rw [divS_quot (by norm_num), sext32_ofInt, low32_toInt, low32_toInt]
  case remw => rw [remS_rem, sext32_ofInt, low32_toInt, low32_toInt]
  case divuw => rw [divU_quot, sext32_ofNat, low32_toNat, low32_toNat]
  case remuw => rw [remU_rem, sext32_ofNat, low32_toNat, low32_toNat]

end Sys2Proof
end
section
/-! PROOFS. The bit forms and the field extracts (R79, R80). -/

namespace Sys2Proof.Machine

open Sys2Proof

/-! ## Sign extension of a field (R74) -/

theorem sextNat_bmod (v : Nat) {w : Nat} (hw : 0 < w) : sextNat v w = BitVec.ofInt 64 (Int.bmod v (2 ^ w)) := by
  obtain ⟨k, rfl⟩ := Nat.exists_eq_add_of_lt hw
  have hp : 2 ^ (0 + k + 1) = 2 * 2 ^ k := by ring
  rw [sextNat, Int.bmod_def, hp]
  congr 1
  have hk : 0 + k + 1 - 1 = k := by omega
  have hc : (2 : Int) ^ (0 + k + 1) = ((2 * 2 ^ k : Nat) : Int) := by push_cast; ring
  rw [hk, hc]
  simp only
  split <;> split <;> omega

theorem sextNat_signExtend (v : Nat) {w : Nat} (hw : 0 < w) : sextNat v w = (BitVec.ofNat w v).signExtend 64 := by
  rw [sextNat_bmod v hw, BitVec.signExtend, BitVec.toInt_ofNat']

theorem sextNat_toInt (x : W64) {w : Nat} (hw : 0 < w) (h : w ≤ 64) : sextNat x.toNat w = BitVec.ofInt 64 (Int.bmod x.toInt (2 ^ w)) := by
  rw [sextNat_bmod _ hw, BitVec.toInt_eq_toNat_bmod, Int.bmod_bmod_of_dvd (by exact_mod_cast Nat.pow_dvd_pow 2 h)]

/-- Above the field stands its top bit. -/
theorem getLsbD_sextNat (v : Nat) {w i : Nat} (hw : 0 < w) (hi : i < 64) : (sextNat v w).getLsbD i = if i < w then v.testBit i else v.testBit (w - 1) := by
  have htop : w - 1 < w := by omega
  rw [sextNat_signExtend v hw, BitVec.getLsbD_signExtend, BitVec.msb_eq_getLsbD_last]
  simp only [BitVec.getLsbD_ofNat, hi, htop, decide_true, Bool.true_and]
  split
  · next h => rw [decide_eq_true h, Bool.true_and]
  · rfl

/-- The low bits of a word under a mask. -/
theorem and_mask (x : W64) (n : Nat) : x &&& BitVec.ofNat 64 (2 ^ n - 1) = BitVec.ofNat 64 (x.toNat % 2 ^ n) := by
  apply BitVec.eq_of_getLsbD_eq
  intro i hi
  rw [BitVec.getLsbD_and, BitVec.getLsbD_ofNat, BitVec.getLsbD_ofNat, Nat.testBit_two_pow_sub_one, Nat.testBit_mod_two_pow, BitVec.testBit_toNat,
    decide_eq_true hi, Bool.true_and, Bool.true_and, Bool.and_comm]

/-! ## Zeros before and after the set bits (R79) -/

theorem leadZeros_spec {w : Nat} (v : BitVec w) : leadZeros v ≤ w ∧ (∀ i, w - leadZeros v ≤ i → i < w → v.getLsbD i = false)
    ∧ (leadZeros v < w → v.getLsbD (w - 1 - leadZeros v) = true) := by
  unfold leadZeros
  by_cases hv : v = 0
  · rw [if_pos hv, hv]
    exact ⟨le_rfl, fun i _ _ => BitVec.getLsbD_zero, fun h => absurd h (lt_irrefl w)⟩
  · rw [if_neg hv]
    have hne : v.toNat ≠ 0 := mt toNat_eq_zero.1 hv
    have hlog : v.toNat.log2 < w := (Nat.log2_lt hne).2 v.isLt
    refine ⟨by omega, fun i hi _ => ?_, fun _ => ?_⟩
    · rw [← BitVec.testBit_toNat, Nat.testBit_lt_two_pow ((Nat.log2_lt hne).1 (by omega))]
    · rw [show w - 1 - (w - 1 - v.toNat.log2) = v.toNat.log2 by omega, ← BitVec.testBit_toNat, Nat.testBit_log2 hne]

theorem trailZeros_spec {w : Nat} (v : BitVec w) : trailZeros v ≤ w ∧ (∀ i, i < trailZeros v → v.getLsbD i = false)
    ∧ (trailZeros v < w → v.getLsbD (trailZeros v) = true) := by
  unfold trailZeros upto
  cases h : (List.range w).find? (fun i => v.getLsbD i) with
  | none =>
    have hzero := List.find?_range_eq_none.1 h
    exact ⟨le_rfl, fun i hi => by simpa using hzero i hi, fun hlt => absurd hlt (lt_irrefl w)⟩
  | some n =>
    obtain ⟨hset, hmem, hzero⟩ := List.find?_range_eq_some.1 h
    exact ⟨(List.mem_range.1 hmem).le, fun i hi => by simpa using hzero i hi, fun _ => hset⟩

/-! ## Bytes in reverse (R79) -/

theorem testBit_leNat (l : List Byte) (i : Nat) {b : Nat} (hb : b < 8) : (leNat l).testBit (8 * i + b) = (l.getD i 0).getLsbD b := by
  induction l generalizing i with
  | nil => simp [leNat]
  | cons x r ih =>
    have hx : x.toNat < 2 ^ 8 := x.isLt
    rw [leNat, add_comm, show (256 : Nat) = 2 ^ 8 from rfl, Nat.testBit_two_pow_mul_add _ hx]
    cases i with
    | zero => simp [hb, BitVec.testBit_toNat]
    | succ i =>
      rw [if_neg (by omega), show 8 * (i + 1) + b - 8 = 8 * i + b by omega, ih]
      simp

theorem getD_leBytes (v : Nat) {n i : Nat} (hi : i < n) : (leBytes v n).getD i 0 = BitVec.ofNat 8 (v / 256 ^ i) := by
  induction n generalizing v i with
  | zero => omega
  | succ n ih =>
    cases i with
    | zero => simp [leBytes]
    | succ i =>
      rw [leBytes, List.getD_cons_succ, ih _ (by omega), Nat.div_div_eq_div_mul, pow_succ']

theorem getLsbD_swapped (x : W64) {i b : Nat} (hi : i < 8) (hb : b < 8) :
    (BitVec.ofNat 64 (leNat (bytesOf x).reverse)).getLsbD (8 * (7 - i) + b) = x.getLsbD (8 * i + b) := by
  have hlen : (bytesOf x).length = 8 := leBytes_length _ _
  have hbyte : (bytesOf x).reverse.getD (7 - i) 0 = BitVec.ofNat 8 (x.toNat / 256 ^ i) := by
    rw [List.getD_eq_getElem _ _ (by simp [hlen]; omega), List.getElem_reverse, ← List.getD_eq_getElem _ 0]
    rw [show (bytesOf x).length - 1 - (7 - i) = i by omega]
    exact getD_leBytes _ hi
  have hpos : 8 * (7 - i) + b < 64 := by omega
  rw [BitVec.getLsbD_ofNat, decide_eq_true hpos, Bool.true_and, testBit_leNat _ _ hb, hbyte, BitVec.getLsbD_ofNat, decide_eq_true hb, Bool.true_and,
    show (256 : Nat) = 2 ^ 8 from rfl, ← pow_mul, Nat.testBit_div_two_pow, BitVec.testBit_toNat, add_comm b]

/-! ## One bit of a word (R80) -/

theorem getLsbD_oneAt (y : W64) {i : Nat} (hi : i < 64) : ((1 : W64) <<< bitsOf y 0 6).getLsbD i = decide (i = y.toNat % 64) := by
  have hone (k : Nat) : (1 : W64).getLsbD k = decide (k = 0) := by simp
  rw [show bitsOf y 0 6 = y.toNat % 64 from rfl, BitVec.getLsbD_shiftLeft, hone, decide_eq_true hi, Bool.true_and, ← decide_not, ← Bool.decide_and]
  congr 1
  exact propext (by omega)

theorem bitsOf_one (x : W64) (n : Nat) : BitVec.ofNat 64 (bitsOf x n 1) = if x.getLsbD n then 1 else 0 := by
  have h := testBit_bitsOf x n 1 0
  have hlt : bitsOf x n 1 < 2 := Nat.mod_lt _ (by norm_num)
  rw [Nat.testBit_zero] at h
  have hbit : x.getLsbD n = decide (bitsOf x n 1 = 1) := by
    simpa [Nat.mod_eq_of_lt hlt] using h.symm
  rw [hbit]
  by_cases h1 : bitsOf x n 1 = 1
  · simp [h1]
  · simp [show bitsOf x n 1 = 0 by omega]

/-! ## Field extracts (R80) -/

theorem bitField_fieldRel (signed : Bool) (x y : W64) : fieldRel signed x y (bitField signed x y) := by
  have hlen : min (bitsOf y 8 7) 64 = min (y.toNat / 256 % 128) 64 := by rw [bitsOf, Nat.shiftRight_eq_div_pow]; rfl
  unfold fieldRel bitField
  simp only [hlen, show bitsOf y 0 6 = y.toNat % 64 from rfl]
  generalize y.toNat % 64 = pos, hl : min (y.toNat / 256 % 128) 64 = len
  by_cases hzero : len = 0
  · rw [if_pos hzero, if_pos hzero]
  · rw [if_neg hzero, if_neg hzero]
    intro i hi
    have hle : len ≤ 64 := by omega
    cases signed with
    | false =>
      simp only [Bool.false_eq_true, if_false, Bool.false_and, BitVec.getLsbD_ofNat, hi, decide_true, Bool.true_and, testBit_bitsOf]
      by_cases hin : i < len
      · rw [if_pos hin, decide_eq_true hin, Bool.true_and]
        split
        · rfl
        · next h => exact BitVec.getLsbD_of_ge _ _ (by omega)
      · rw [if_neg hin, decide_eq_false hin, Bool.false_and]
    | true =>
      have hbit (k : Nat) (hk : k < 64) : (x.sshiftRight pos).toNat.testBit k = if pos + k ≤ 63 then x.getLsbD (pos + k) else x.getLsbD 63 := by
        rw [BitVec.testBit_toNat, BitVec.getLsbD_sshiftRight, BitVec.msb_eq_getLsbD_last, decide_eq_false (by omega), Bool.not_false, Bool.true_and]
        congr 1
        exact propext (by omega)
      rw [if_pos rfl, getLsbD_sextNat _ (Nat.pos_of_ne_zero hzero) hi, hbit i hi, hbit (len - 1) (by omega)]
      simp only [Bool.true_and]

end Sys2Proof.Machine

namespace Sys2Proof

open Machine

/-- Settles O16: counts by what they say of the bits, the other forms bit by bit. -/
theorem bitManipulation : Obligations.BitManipulation := by
  unfold Obligations.BitManipulation
  refine ⟨unaryWhere_of (fun x => BitVec.ofNat 64 (leadZeros x)) fun x => ⟨_, rfl, leadZeros_spec x⟩,
    unaryWhere_of (fun x => BitVec.ofNat 64 (trailZeros x)) fun x => ⟨_, rfl, trailZeros_spec x⟩,
    unaryWhere_of (fun x => BitVec.ofNat 64 (leadZeros (low32 x))) fun x => ?clzw,
    unaryResult_of (fun x => BitVec.ofNat 64 (popCount x)) fun x => ?popc,
    unaryWhere_of (fun x => x.reverse) fun x i hi => ?brev,
    unaryWhere_of (fun x => BitVec.ofNat 64 (leNat (bytesOf x).reverse)) fun x i b hi hb => getLsbD_swapped x hi hb,
    unaryResult_of (fun x => sextNat x.toNat 8) fun x => sextNat_toInt x (by norm_num) (by norm_num),
    unaryResult_of (fun x => sextNat x.toNat 16) fun x => sextNat_toInt x (by norm_num) (by norm_num),
    unaryResult_of (fun x => x &&& 0xFF) fun x => and_mask x 8,
    unaryResult_of (fun x => x &&& 0xFFFF) fun x => and_mask x 16,
    unaryResult_of (fun x => x &&& 0xFFFFFFFF) fun x => and_mask x 32,
    binaryResult_of (fun x y => BitVec.ofNat 64 (bitsOf x (bitsOf y 0 6) 1)) fun x y => bitsOf_one x _,
    binaryWhere_of (fun x y => x ||| ((1 : W64) <<< bitsOf y 0 6)) fun x y i hi => ?bset,
    binaryWhere_of (fun x y => x &&& ~~~((1 : W64) <<< bitsOf y 0 6)) fun x y i hi => ?bclr,
    binaryWhere_of (fun x y => x ^^^ ((1 : W64) <<< bitsOf y 0 6)) fun x y i hi => ?binv⟩
  case clzw =>
    have hlow (i : Nat) (hi : i < 32) : (low32 x).getLsbD i = x.getLsbD i := by simp [low32, hi]
    obtain ⟨hle, hzero, hone⟩ := leadZeros_spec (low32 x)
    exact ⟨_, rfl, hle, fun i h1 h2 => (hlow i h2).symm.trans (hzero i h1 h2), fun h => (hlow _ (by omega)).symm.trans (hone h)⟩
  case popc => rw [popCount, List.countP_eq_length_filter]
  case brev => rw [BitVec.getLsbD_reverse, BitVec.getMsbD_eq_getLsbD, decide_eq_true (by omega), Bool.true_and, show 64 - 1 - (63 - i) = i by omega]
  case bset =>
    rw [BitVec.getLsbD_or, getLsbD_oneAt y hi]
    by_cases h : i = y.toNat % 64 <;> simp [h]
  case bclr =>
    rw [BitVec.getLsbD_and, BitVec.getLsbD_not, getLsbD_oneAt y hi]
    by_cases h : i = y.toNat % 64 <;> simp [h, hi]
  case binv =>
    rw [BitVec.getLsbD_xor, getLsbD_oneAt y hi]
    by_cases h : i = y.toNat % 64 <;> simp [h]

/-- Settles O17, by the bits of the field's model. -/
theorem fieldExtracts : Obligations.FieldExtracts :=
  ⟨binaryWhere_of (fun x y => bitField false x y) (bitField_fieldRel false), binaryWhere_of (fun x y => bitField true x y) (bitField_fieldRel true)⟩

end Sys2Proof
end
section
/-! PROOFS. Immediate forms, shifts by a constant, constants, selects, compares and predicates (R81 to R90). -/

namespace Sys2Proof.Machine

open Sys2Proof

/-! ## Constants (R81 to R84) -/

theorem plain_addX {c : Ctl} {s : State} (n : Nat) (d : Reg) (f : State → W64) (h : runs s c) :
    plain c s (fun s => addX s n d (f s)) = .next (emit s (xOut n false d (f s))) := by
  rw [plain_on _ h, addX_emit]

theorem getLsbD_signExtend_imm (k : BitVec 11) {i : Nat} (hi : i < 64) : (k.signExtend 64).getLsbD i = k.getLsbD (min i 10) := by
  rw [BitVec.getLsbD_signExtend, decide_eq_true hi, Bool.true_and, BitVec.msb_eq_getLsbD_last]
  by_cases h : i < 11
  · rw [if_pos h, min_eq_left (by omega)]
  · rw [if_neg h, min_eq_right (by omega)]

/-- LDHn replaces the bits of its field. -/
theorem getLsbD_half (x : W64) (n : Nat) (k : BitVec 16) {i : Nat} (hi : i < 64) :
    (setBits x (16 * n) 16 k.toNat).getLsbD i = if i / 16 = n then k.getLsbD (i % 16) else x.getLsbD i := by
  rw [getLsbD_setBits _ _ _ _ _ hi]
  by_cases h : i / 16 = n
  · rw [if_pos (by omega), if_pos h, BitVec.testBit_toNat, show i - 16 * n = i % 16 by omega]
  · rw [if_neg (by omega), if_neg h]

/-! ## Addresses (R85) -/

theorem addScaled (x y : W64) (h : BitVec 3) : x + (y <<< h.toNat) = BitVec.ofNat 64 (x.toNat + y.toNat * 2 ^ h.toNat) := by
  rw [shiftLeft_ofNat, BitVec.ofNat_add, BitVec.ofNat_toNat, BitVec.setWidth_eq]

theorem addScaled_local (x y : W64) (h : BitVec 3) : (x + (y <<< h.toNat)) &&& 0x1FFFFF = BitVec.ofNat 64 ((x.toNat + y.toNat * 2 ^ h.toNat) % 2 ^ 21) := by
  rw [addScaled, show (0x1FFFFF : W64) = BitVec.ofNat 64 (2 ^ 21 - 1) from rfl, and_mask, BitVec.toNat_ofNat, Nat.mod_mod_of_dvd _ (by norm_num)]

/-! ## Compares and predicates (R86 to R89) -/

/-- A slot whose result is a predicate. -/
theorem plain_addP {c : Ctl} {s : State} (q : BitVec 7) (f : State → Bool) {v : Bool} (h : runs s c) (hv : f s = v) :
    plain c s (fun s => addP s q (f s)) = .next (emit s (pOut q v)) := by
  rw [plain_on _ h, addP_emit, hv]

theorem exec_cmp {c : Ctl} {s : State} (q : BitVec 7) (a b : Reg) (cc : BitVec 3) {v : Bool} (h : runs s c) (hv : cmpCond cc (X s a) (X s b) = v) :
    exec (.cmp c q a b cc) s = .next (emit s (pOut q v)) := plain_addP q (fun s => cmpCond cc (X s a) (X s b)) h hv

theorem exec_cmpi {c : Ctl} {s : State} (q : BitVec 7) (a : Reg) (cc : BitVec 3) (k : BitVec 6) {v : Bool} (h : runs s c)
    (hv : cmpiCond cc (X s a) k = v) : exec (.cmpi c q a cc k) s = .next (emit s (pOut q v)) :=
  plain_addP q (fun s => cmpiCond cc (X s a) k) h hv

theorem predResult_of {op : Ctl → BitVec 7 → BitVec 7 → BitVec 7 → Instr} (f : Bool → Bool → Bool)
    (hop : ∀ c q a b s, exec (op c q a b) s = plain c s (fun s => addP s q (f (P s a) (P s b))) := by intros; rfl) : predResult op f :=
  fun c q a b s hr => (hop c q a b s).trans (plain_addP q (fun s => f (P s a) (P s b)) hr rfl)

/-- Two words share a set bit where their conjunction is not zero. -/
theorem and_ne_zero_iff (x y : W64) : decide (x &&& y ≠ 0) = (upto 64).any (fun i => x.getLsbD i && y.getLsbD i) := by
  rw [Bool.eq_iff_iff, decide_eq_true_iff, List.any_eq_true]
  simp only [upto, List.mem_range, ← BitVec.getLsbD_and]
  constructor
  · intro h
    by_contra hno
    push Not at hno
    exact h (BitVec.eq_of_getLsbD_eq fun i hi => by simpa using hno i hi)
  · rintro ⟨i, -, hi⟩ h
    rw [h] at hi
    simp at hi

theorem not_slt (x y : W64) : (!x.slt y) = decide (y.toInt ≤ x.toInt) := by
  rw [BitVec.slt_eq_decide, ← decide_not]
  exact decide_eq_decide.2 not_lt

theorem not_ult (x y : W64) : (!x.ult y) = decide (y.toNat ≤ x.toNat) := by
  rw [BitVec.ult_eq_decide, ← decide_not]
  exact decide_eq_decide.2 not_lt

theorem cmpCond_and_zero (x y : W64) : cmpCond 7 x y = !(upto 64).any (fun i => x.getLsbD i && y.getLsbD i) := by
  rw [← and_ne_zero_iff]
  show decide (x &&& y = 0) = !decide (x &&& y ≠ 0)
  simp

theorem imm_toInt (k : BitVec 6) : (k.signExtend 64).toInt = k.toInt := BitVec.toInt_signExtend_of_le (by norm_num)

theorem imm_toNat (k : BitVec 6) : ((k.signExtend 64).toNat : Int) = k.toInt % 2 ^ 64 := by
  have hmod : ((k.signExtend 64).toNat : Int).bmod (2 ^ 64) % (2 ^ 64 : Nat) = (k.signExtend 64).toNat % (2 ^ 64 : Nat) := Int.bmod_emod
  rw [← imm_toInt, BitVec.toInt_eq_toNat_bmod]
  have hlt := (k.signExtend 64).isLt
  omega

/-- The compares of CMPI are those of the numbers, signed and unsigned, that the sign-extended constant stands for. -/
theorem cmpiCond_order (x : W64) (k : BitVec 6) : cmpiCond 0 x k = decide (x.toInt = k.toInt) ∧ cmpiCond 1 x k = decide (x.toInt ≠ k.toInt)
    ∧ cmpiCond 2 x k = decide (x.toInt < k.toInt) ∧ cmpiCond 3 x k = decide (k.toInt ≤ x.toInt)
    ∧ cmpiCond 4 x k = decide ((x.toNat : Int) < k.toInt % 2 ^ 64) ∧ cmpiCond 5 x k = decide (k.toInt % 2 ^ 64 ≤ (x.toNat : Int)) := by
  rw [← imm_toNat, ← imm_toInt]
  simp only [Int.ofNat_lt, Int.ofNat_le]
  exact ⟨decide_eq_decide.2 BitVec.toInt_inj.symm, decide_eq_decide.2 (not_congr BitVec.toInt_inj.symm), rfl, not_slt _ _, rfl, not_ult _ _⟩

theorem getLsbD_pGroup (s : State) (g : BitVec 1) {i : Nat} (hi : i < 64) : (pGroup s.tile.th g.toNat).getLsbD i = pGet s.tile.th (64 * g.toNat + i) := by
  rw [pGroup, BitVec.getLsbD_or, BitVec.getLsbD_ofNat, testBit_bitsOf, decide_eq_true hi, Bool.true_and, Bool.true_and, pGet, Bool.or_comm]
  congr 1
  obtain rfl | rfl := BitVec.eq_zero_or_eq_one g
  · simp
  · simp

end Sys2Proof.Machine

namespace Sys2Proof

open Machine

/-- Settles O18: bit `i` of the extended constant is bit `i` of the constant, or its top bit. -/
theorem immediateForms : Obligations.ImmediateForms := by
  unfold Obligations.ImmediateForms
  intro k
  refine ⟨unaryResult_of (fun x => x + k.signExtend 64) fun x => ?addi, unaryWhere_of (fun x => x &&& k.signExtend 64) fun x i hi => ?andi,
    unaryWhere_of (fun x => x ||| k.signExtend 64) fun x i hi => ?ori, unaryWhere_of (fun x => x ^^^ k.signExtend 64) fun x i hi => ?xori⟩
  case addi => rw [BitVec.ofInt_add, BitVec.ofInt_toInt, BitVec.signExtend]
  case andi => rw [BitVec.getLsbD_and, getLsbD_signExtend_imm k hi]
  case ori => rw [BitVec.getLsbD_or, getLsbD_signExtend_imm k hi]
  case xori => rw [BitVec.getLsbD_xor, getLsbD_signExtend_imm k hi]

/-- Settles O19: shifts as products and quotients by a power of two, LDHn by the bits of the field that it replaces. -/
theorem shiftsAndConstants : Obligations.ShiftsAndConstants := by
  unfold Obligations.ShiftsAndConstants
  refine ⟨fun n => ⟨unaryResult_of (fun x => x <<< n.toNat) fun x => shiftLeft_ofNat x _, unaryResult_of (fun x => x >>> n.toNat) fun x => ushiftRight_ofNat x _,
      unaryResult_of (fun x => x.sshiftRight n.toNat) fun x => sshiftRight_ofInt x _, unaryWhere_of (fun x => x.rotateRight n.toNat) fun x i hi => ?rori⟩,
    fun n => ⟨unaryResult_of (fun x => sext32 (low32 x <<< n.toNat)) fun x => ?slliw, unaryResult_of (fun x => sext32 (low32 x >>> n.toNat)) fun x => ?srliw,
      unaryResult_of (fun x => sext32 ((low32 x).sshiftRight n.toNat)) fun x => ?sraiw⟩,
    fun c d k s hr p hp => ?ldh, fun c d k s hr => ?ldi⟩
  case rori => rw [← getLsbD_rotateRight_mod x _ hi, Nat.mod_eq_of_lt n.isLt]
  case slliw => rw [shiftLeft_ofNat, sext32_ofNat, low32_toNat]
  case srliw => rw [ushiftRight_ofNat, sext32_ofNat, low32_toNat]
  case sraiw => rw [sshiftRight_ofInt, sext32_ofInt, low32_toInt]
  case ldh =>
    refine ⟨setBits (X s d) (16 * p.1) 16 k.toNat, ?_, fun i hi => getLsbD_half _ _ _ hi⟩
    simp only [List.mem_cons, List.not_mem_nil, or_false] at hp
    rcases hp with rfl | rfl | rfl
    · exact plain_addX 1 d (fun s => setBits (X s d) 16 16 k.toNat) hr
    · exact plain_addX 1 d (fun s => setBits (X s d) 32 16 k.toNat) hr
    · exact plain_addX 1 d (fun s => setBits (X s d) 48 16 k.toNat) hr
  case ldi => exact plain_addX 1 d (fun _ => k.signExtend 64) hr

/-- Settles O20: address forms as sums, compares as those of the numbers that the words stand for, a predicate group bit by bit. -/
theorem selectsComparesAndPredicates : Obligations.SelectsComparesAndPredicates := by
  unfold Obligations.SelectsComparesAndPredicates
  refine ⟨fun c d a b p s hr => ?sel, fun h => ⟨binaryResult_of (fun x y => x + (y <<< h.toNat)) fun x y => addScaled x y h,
      binaryResult_of (fun x y => (x + (y <<< h.toNat)) &&& 0x1FFFFF) fun x y => addScaled_local x y h⟩,
    fun c a b s hr => ?chku, fun c q a b s hr => ?cmp, fun c q a k s hr => ?cmpi,
    predResult_of fun x y => x && y, predResult_of fun x y => x || y, predResult_of fun x y => xor x y, predResult_of fun x y => x && !y,
    fun c d g s hr => ⟨_, plain_addX 1 d (fun s => pGroup s.tile.th g.toNat) hr, fun i hi => getLsbD_pGroup s g hi⟩, fun c b g s hr => plain_on (fun s => addFlight s 1 false (.pg g (X s b))) hr⟩
  case sel => exact (plain_addX 1 d (fun s => if P s (p.setWidth 7) then X s a else X s b) hr).trans (by rw [P, BitVec.toNat_setWidth_of_le (by norm_num)])
  case chku =>
    refine (plain_on (fun s => if (X s a).ult (X s b) then s else addCause s 0x07 (X s a)) hr).trans ?_
    simp only [BitVec.ult_iff_lt, BitVec.lt_def]
    rfl
  case cmp =>
    exact ⟨exec_cmp q a b 0 hr rfl, exec_cmp q a b 1 hr rfl, exec_cmp q a b 2 hr rfl, exec_cmp q a b 3 hr (not_slt _ _), exec_cmp q a b 4 hr rfl,
      exec_cmp q a b 5 hr (not_ult _ _), exec_cmp q a b 6 hr (and_ne_zero_iff _ _), exec_cmp q a b 7 hr (cmpCond_and_zero _ _)⟩
  case cmpi =>
    obtain ⟨heq, hne, hlt, hge, hltu, hgeu⟩ := cmpiCond_order (X s a) k
    exact ⟨exec_cmpi q a 0 k hr heq, exec_cmpi q a 1 k hr hne, exec_cmpi q a 2 k hr hlt, exec_cmpi q a 3 k hr hge, exec_cmpi q a 4 k hr hltu,
      exec_cmpi q a 5 k hr hgeu, exec_cmpi q a 6 k hr rfl, exec_cmpi q a 7 k hr rfl⟩

end Sys2Proof
end
section
/-! PROOFS. Reads and writes of control words by RDW and WRW (R91 to R95, R116, R362). -/

namespace Sys2Proof.Machine

open Sys2Proof

/-! ## The rows of the access table (R92) -/

section checks
variable {n : Nat} (write : Bool) {sup : Bool}

theorem cwCause_debug (h : 0x200 ≤ n) : cwCause n write sup = some 0x03 := if_pos h

theorem cwCause_supervisor (h : 0x100 ≤ n) (hs : sup = false) : cwCause n write sup = some 0x03 := by
  unfold cwCause
  split
  · rfl
  · rw [if_pos ⟨h, hs⟩]

section assigned
variable (h : n < 0x200) (hs : 0x100 ≤ n → sup = true)
include h hs

/-- Neither the row for debug words nor that for supervisor words applies: the class of the word decides. -/
theorem cwCause_open : ¬0x200 ≤ n ∧ ¬(0x100 ≤ n ∧ sup = false) :=
  ⟨by omega, fun hc => by rw [hs hc.1] at hc; exact Bool.noConfusion hc.2⟩

theorem cwCause_unassigned (hn : cwClass n = none) : cwCause n write sup = some 0x01 := by
  obtain ⟨hdebug, hsup⟩ := cwCause_open h hs
  rw [cwCause, if_neg hdebug, if_neg hsup, hn]

theorem cwCause_readOnly (hn : cwClass n = some .ur) : cwCause n write sup = if write && !sup then some 0x03 else none := by
  obtain ⟨hdebug, hsup⟩ := cwCause_open h hs
  rw [cwCause, if_neg hdebug, if_neg hsup, hn]

theorem cwCause_writable (hn : cwClass n ≠ none) (hu : cwClass n ≠ some .ur) : cwCause n write sup = none := by
  obtain ⟨hdebug, hsup⟩ := cwCause_open h hs
  rw [cwCause, if_neg hdebug, if_neg hsup]
  cases hc : cwClass n with
  | none => exact absurd hc hn
  | some k =>
    cases k with
    | ur => exact absurd hc hu
    | _ => rfl

end assigned

end checks

theorem cwCause_read {n : Nat} {sup : Bool} (h : n < 0x200) (hs : 0x100 ≤ n → sup = true) (hn : cwClass n ≠ none) : cwCause n false sup = none := by
  by_cases hu : cwClass n = some .ur
  · exact cwCause_readOnly false h hs hu
  · exact cwCause_writable false h hs hn hu

/-! ## The bits of a boundary and of STATUS (R93, R116) -/

/-- The bits [20:12] of a word. -/
theorem boundary_toNat (v : W64) : (v &&& 0x1FF000).toNat = v.toNat / 4096 % 512 * 4096 := by
  have hmask : (0x1FF000 : W64).toNat = (2 ^ 9 - 1) * 2 ^ 12 := rfl
  rw [BitVec.toNat_and, hmask, show v.toNat / 4096 % 512 * 4096 = v.toNat / 2 ^ 12 % 2 ^ 9 * 2 ^ 12 from rfl]
  apply Nat.eq_of_testBit_eq
  intro i
  rw [Nat.testBit_and, Nat.testBit_mul_two_pow, Nat.testBit_mul_two_pow, Nat.testBit_mod_two_pow, Nat.testBit_two_pow_sub_one, Nat.testBit_div_two_pow]
  by_cases h : 12 ≤ i
  · rw [Nat.sub_add_cancel h]
    exact (Bool.and_comm _ _).trans (Bool.and_assoc _ _ _)
  · simp [h]

theorem xbRefused_iff (t : Tile) (n : BitVec 12) (v : W64) : xbRefused t n.toNat v = true
    ↔ n = 0x010 ∧ (v.toNat / 4096 % 512 * 4096 < 0x1000 ∨ (cwGet t 0x011).toNat < v.toNat / 4096 % 512 * 4096) := by
  have hn : n.toNat = 0x010 ↔ n = 0x010 := BitVec.toNat_inj (y := 0x010#12)
  rw [xbRefused, boundary_toNat, Bool.and_eq_true, Bool.or_eq_true, decide_eq_true_iff, decide_eq_true_iff, decide_eq_true_iff, hn]

/-- STATUS with PFP in bit 0. -/
theorem getLsbD_status (s : State) {i : Nat} (hi : i < 64) :
    (cwRead s 0).getLsbD i = ((cwGet s.tile 0).getLsbD i || (decide (i = 0) && s.tile.th.pfx.isSome)) := by
  rw [cwRead, if_pos rfl, BitVec.getLsbD_or]
  cases s.tile.th.pfx.isSome <;> simp [hi]

/-! ## RDW and WRW (R91, R92, R116) -/

section forms
variable {c : Ctl} {s : State} (d : Reg) {n : BitVec 12} {code : Nat} (hr : runs s c)
include hr

theorem exec_rdw_refused (hc : cwCause n.toNat false s.tile.sup = some code) :
    exec (.rdw c d n) s = .next (raise s [(code, BitVec.ofNat 64 n.toNat)]) := by
  show execRdw c d n s = _
  rw [execRdw, plain_on _ hr, hc, BitVec.ofNat_toNat]
  rfl

theorem exec_rdw_reads (hc : cwCause n.toNat false s.tile.sup = none) : exec (.rdw c d n) s = .next (emit s (xOut 2 false d (cwRead s n.toNat))) := by
  show execRdw c d n s = _
  rw [execRdw, plain_on _ hr, hc, ← addX_emit]

theorem exec_wrw_refused (hc : cwCause n.toNat true s.tile.sup = some code) :
    exec (.wrw c d n) s = .next (raise s [(code, BitVec.ofNat 64 n.toNat)]) := by
  show execWrw c d n s = _
  rw [execWrw, plain_on _ hr, hc, BitVec.ofNat_toNat]
  rfl

theorem exec_wrw_readOnly (hc : cwCause n.toNat true s.tile.sup = none) (hu : cwClass n.toNat = some .ur) : exec (.wrw c d n) s = .next s := by
  have hxb : ¬xbRefused s.tile n.toNat (X s d) = true := by
    rw [xbRefused_iff]
    rintro ⟨rfl, -⟩
    exact absurd hu (by decide)
  show execWrw c d n s = _
  rw [execWrw, plain_on _ hr, hc]
  exact congrArg _ ((if_neg hxb).trans (if_pos hu))

theorem exec_wrw_writes (hc : cwCause n.toNat true s.tile.sup = none) (hu : cwClass n.toNat ≠ some .ur) : exec (.wrw c d n) s
    = .next (if xbRefused s.tile n.toNat (X s d) then raise s [(0x07, X s d)] else emit s [⟨1, false, .cw n.toNat (X s d)⟩]) := by
  show execWrw c d n s = _
  rw [execWrw, plain_on _ hr, hc]
  exact congrArg _ (if_congr Iff.rfl rfl (if_neg hu))

end forms

end Sys2Proof.Machine

namespace Sys2Proof

open Machine

/-- Settles O21: the checks of R92 in their order, then the view or the stored word. -/
theorem controlWordReads : Obligations.ControlWordReads := by
  unfold Obligations.ControlWordReads
  intro c d n s hr
  refine ⟨fun h => exec_rdw_refused d hr (cwCause_debug _ h), fun h hs => exec_rdw_refused d hr (cwCause_supervisor _ h hs), fun hlt hsup =>
    ⟨fun hn => exec_rdw_refused d hr (cwCause_unassigned _ hlt hsup hn), fun hn => ⟨_, exec_rdw_reads d hr (cwCause_read hlt hsup hn), ?_⟩⟩⟩
  refine ⟨?_, ?_, ?_, fun hcyc hlen hstatus => ?_⟩
  · rintro rfl
    rfl
  · rintro rfl
    rfl
  · rintro rfl i hi
    exact getLsbD_status s hi
  · have hne {k : BitVec 12} (h : n ≠ k) : n.toNat ≠ k.toNat := mt BitVec.toNat_inj.1 h
    exact (if_neg (hne hstatus)).trans ((if_neg (hne hcyc)).trans (if_neg (hne hlen)))

/-- Settles O22: the checks of R92 in their order; the boundary's limits last. -/
theorem controlWordWrites : Obligations.ControlWordWrites := by
  unfold Obligations.ControlWordWrites
  intro c d n s hr
  refine ⟨fun h => exec_wrw_refused d hr (cwCause_debug _ h), fun h hs => exec_wrw_refused d hr (cwCause_supervisor _ h hs), fun hlt hsup =>
    ⟨fun hn => exec_wrw_refused d hr (cwCause_unassigned _ hlt hsup hn), fun hn => ?_, fun hn hu => ?_⟩⟩
  · have hc := cwCause_readOnly true hlt hsup hn
    by_cases hs : s.tile.sup = true
    · rw [if_pos hs]
      exact exec_wrw_readOnly d hr (hc.trans (by rw [hs]; rfl)) hn
    · rw [if_neg hs]
      exact exec_wrw_refused d hr (hc.trans (by rw [Bool.eq_false_iff.2 hs]; rfl))
  · rw [exec_wrw_writes d hr (cwCause_writable true hlt hsup hn hu) hu]
    simp only [xbRefused_iff]

end Sys2Proof
end
section
/-! PROOFS. What the machine holds after the start (R95, R417). -/

namespace Sys2Proof.Machine

open Sys2Proof

/-- A word of a blank tile above TILEID: the two that are not zero are the same at every site. -/
theorem cwGet_blank (site : Nat) {k : Nat} (hk : 7 < k) (ht : cwOfTask k = false) :
    cwGet (Tile.blank site) k = cellGet [(0x035, BitVec.allOnes 64), (0x110, 1)] k := by
  rw [cwGet, if_neg (by rw [ht]; exact Bool.false_ne_true)]
  by_cases hs : site = 0
  · subst hs
    rfl
  · simp only [Tile.blank, if_neg hs, List.cons_append, List.nil_append]
    rw [cellGet, if_neg (by omega), if_neg (by omega)]
    rfl

end Sys2Proof.Machine

namespace Sys2Proof

open Machine

/-- Settles O4: the state after the start is a literal, and so are the words of a task; the tile's other words stand above TILEID. -/
theorem resetValues : Obligations.ResetValues := by
  unfold Obligations.ResetValues
  exact ⟨rfl, rfl, rfl, fun _ => rfl, rfl, fun site => ⟨fun _ => rfl, rfl, rfl, rfl, rfl, rfl, rfl, cwGet_blank site (by decide) rfl,
    cwGet_blank site (by decide) rfl, rfl, cwGet_blank site (by decide) rfl⟩⟩

end Sys2Proof
end
section
/-! PROOFS. Partitions and benches looked up after a change, and the steps of benches up to the sealing (R326 to R339, R345, R349). -/

namespace Sys2Proof.Machine

open Sys2Proof

/-! ## Looking up partitions and benches -/

theorem partnOf_pid {s : State} {pid : Nat} {q : Partn} (h : partnOf s pid = some q) : q.pid = pid := by
  simpa using List.find?_some (p := fun p : Partn => decide (p.pid = pid)) h

/-- A change of a partition is found there, where it keeps the partition's number. -/
theorem partnOf_mapPart {s : State} {pid : Nat} {q : Partn} {f : Partn → Partn} (hf : ∀ p, (f p).pid = p.pid) (h : partnOf s pid = some q) :
    partnOf (mapPart s pid f) pid = some (f q) := by
  have hcomp : ((fun p : Partn => decide (p.pid = pid)) ∘ fun p => if p.pid = pid then f p else p) = fun p => decide (p.pid = pid) := by
    funext p
    simp only [Function.comp_apply]
    split
    · rw [hf]
    · rfl
  unfold partnOf mapPart at *
  rw [List.find?_map, hcomp, h, Option.map_some, if_pos (partnOf_pid h)]

theorem benchOf_some {s : State} {pid id : Nat} {q : Partn} (h : partnOf s pid = some q) :
    benchOf s pid id = q.benches.find? (fun b => b.id = id && decide (id ≠ 0)) := by
  rw [benchOf, h]

theorem benchOf_congr {s t : State} (h : t.partns = s.partns) (pid id : Nat) : benchOf t pid id = benchOf s pid id := by
  rw [benchOf, benchOf, partnOf, partnOf, h]

theorem benchOf_id {s : State} {pid id : Nat} {b : Bench} (h : benchOf s pid id = some b) : b.id = id ∧ id ≠ 0 := by
  unfold benchOf at h
  split at h
  · simpa using List.find?_some h
  · cases h

/-- A change of the benches of a partition is found in the bench of an id, where it keeps the ids. -/
theorem benchOf_mapPart {s : State} {pid id : Nat} {q : Partn} {b : Bench} {f : Partn → Partn} {k : Bench → Bench} (hf : ∀ p, (f p).pid = p.pid)
    (hk : ∀ b, (k b).id = b.id) (hq : partnOf s pid = some q) (hfk : (f q).benches = q.benches.map k) (hb : benchOf s pid id = some b) :
    benchOf (mapPart s pid f) pid id = some (k b) := by
  rw [benchOf_some hq] at hb
  have hcomp : ((fun b : Bench => b.id = id && decide (id ≠ 0)) ∘ k) = fun b => b.id = id && decide (id ≠ 0) := by
    funext b
    simp only [Function.comp_apply, hk]
  rw [benchOf_some (partnOf_mapPart hf hq), hfk, List.find?_map, hcomp, hb, Option.map_some]

theorem benchOf_updBench {s : State} {pid id : Nat} {q : Partn} {b : Bench} {f : Bench → Bench} (hf : ∀ b, (f b).id = b.id)
    (hq : partnOf s pid = some q) (hb : benchOf s pid id = some b) : benchOf (updBench s pid id f) pid id = some (f b) := by
  have hk (b : Bench) : (if b.id = id then f b else b).id = b.id := by split <;> simp [hf]
  unfold updBench
  refine Eq.trans (benchOf_mapPart (k := fun b => if b.id = id then f b else b) (fun _ => rfl) hk hq rfl hb) ?_
  rw [if_pos (benchOf_id hb).1]

theorem partnOf_updBench {s : State} {pid id : Nat} {q : Partn} {f : Bench → Bench} (hq : partnOf s pid = some q) :
    partnOf (updBench s pid id f) pid = some { q with benches := q.benches.map (fun b => if b.id = id then f b else b) } :=
  partnOf_mapPart (fun _ => rfl) hq

/-- The counts of pages that a bench shows are all that the display changes of it. -/
theorem benchOf_showBench {s : State} {pid id : Nat} {q : Partn} {b : Bench} (hq : partnOf s pid = some q) (hb : benchOf s pid id = some b) :
    benchOf (showBench s pid) pid id = some { b with held := heldOf q b } :=
  (benchOf_congr rfl pid id).trans (benchOf_mapPart (k := fun b => { b with held := heldOf q b }) (fun _ => rfl) (fun _ => rfl) hq rfl hb)

theorem partnOf_showBench {s : State} {pid : Nat} {q : Partn} (hq : partnOf s pid = some q) :
    partnOf (showBench s pid) pid = some { q with benches := q.benches.map (fun b => { b with held := heldOf q b }) } :=
  partnOf_mapPart (s := s) (fun _ => rfl) hq

/-! ## Words that wake tiles -/

/-- Completion words change tiles and nothing else. -/
structure TilesOnly (s t : State) : Prop where
  partns : t.partns = s.partns
  mgr : t.mgr = s.mgr

theorem tilesOnly_mapTile (s : State) (site : Nat) (f : Tile → Tile) : TilesOnly s (mapTile s site f) := by
  unfold mapTile
  split
  · exact ⟨rfl, rfl⟩
  · exact ⟨rfl, rfl⟩

theorem tilesOnly_wakeTokens (s : State) (ws : List (Nat × Nat × Reg)) (w : W64) : TilesOnly s (wakeTokens s ws w) := by
  unfold wakeTokens
  induction ws generalizing s with
  | nil => exact ⟨rfl, rfl⟩
  | cons a r ih =>
    obtain ⟨hp, hm⟩ := ih (mapTile s a.1 (fun t => complete t a.2.1 a.2.2 w true s.cyc))
    obtain ⟨hp', hm'⟩ := tilesOnly_mapTile s a.1 (fun t => complete t a.2.1 a.2.2 w true s.cyc)
    exact ⟨hp.trans hp', hm.trans hm'⟩

/-! ## Requests (R326, R349) -/

/-- A bench at its cut. -/
def cutBench (k g n : Nat) (cut : W64) : Bench := { Bench.zero with id := k, gen := g, st := 1, cutVt := n, cut := cut }

/-- A partition in which a bench is cut: a plain one changes its colour. -/
def cutPartn (b : Bench) (p : Partn) : Partn := { p with benches := p.benches ++ [b], colour := if isOptPartn p then p.colour else !p.colour }

section request
variable {s : State} {pid n : Nat} {q : Partn} {ws : List (Nat × Nat × Reg)} (hq : partnOf s pid = some q)
include hq

theorem acceptBench_joins {y : Bench} (hc : cutting q = some y) :
    acceptBench s pid n ws = some (updBench s pid y.id (fun z => { z with waitB := z.waitB ++ ws })) := by
  simp only [acceptBench, hq, hc]

theorem acceptBench_waits (hc : cutting q = none) (h : capturing q = true ∨ settled s q = false) : acceptBench s pid n ws = none := by
  have hwait : (capturing q || !settled s q) = true := by rcases h with h | h <;> simp [h]
  simp only [acceptBench, hq, hc, hwait, if_true]

section ready
variable (hc : cutting q = none) (hcap : capturing q = false) (hset : settled s q = true)
include hc hcap hset

theorem acceptBench_fails (hn : newBench s pid n = none) : acceptBench s pid n ws = some (wakeTokens s ws (compErr 0x0A 0)) := by
  simp only [acceptBench, hq, hc, hcap, hset, Bool.not_true, Bool.or_self, Bool.false_eq_true, if_false, hn]

theorem acceptBench_begins {k : Nat} {t : State} (hn : newBench s pid n = some (k, t)) :
    acceptBench s pid n ws = some (updBench t pid k (fun b => { b with waitB := ws })) := by
  simp only [acceptBench, hq, hc, hcap, hset, Bool.not_true, Bool.or_self, Bool.false_eq_true, if_false, hn]

end ready

/-- Without an id or a generation no bench begins. -/
theorem newBench_none (h : freeBenchId q = none ∨ freeGen s = none) : newBench s pid n = none := by
  unfold newBench
  rw [hq]
  rcases h with h | h
  · simp only [h]
  · simp only [h]
    cases freeBenchId q <;> rfl

/-- A bench that begins is the only one with its id. -/
theorem newBench_begins {k g : Nat} (hk : freeBenchId q = some k) (hg : freeGen s = some g) : ∃ t r y, newBench s pid n = some (k, t)
    ∧ partnOf t pid = some r ∧ r.colour = (if isOptPartn q then q.colour else !q.colour) ∧ benchOf t pid k = some y
    ∧ y.st = 1 ∧ y.gen = g ∧ y.cutVt = n ∧ y.acks = [] ∧ y.frozen = [] ∧ y.shared = [] := by
  have hmem : k ∈ [1, 2, 3, 4, 5, 6, 7] := List.mem_of_find?_eq_some hk
  have hne : k ≠ 0 := by rintro rfl; simp at hmem
  have hfree : q.benches.find? (fun b => b.id = k && decide (k ≠ 0)) = none := by
    have hany : (!q.benches.any (fun b => b.id = k)) = true := List.find?_some (p := fun i => !q.benches.any (fun b => b.id = i)) hk
    rw [Bool.not_eq_true', List.any_eq_false] at hany
    exact List.find?_eq_none.2 fun x hx hxk => hany x hx (Bool.and_eq_true_iff.1 hxk).1
  let b := cutBench k g n (BitVec.ofNat 64 (if isOptPartn q then 0 else s.cyc))
  have hp : partnOf (mapPart s pid (cutPartn b)) pid = some (cutPartn b q) := partnOf_mapPart (fun _ => rfl) hq
  have hb : benchOf (mapPart s pid (cutPartn b)) pid k = some b := by
    rw [benchOf_some hp]
    show (q.benches ++ [b]).find? _ = _
    rw [List.find?_append, hfree]
    simp [b, cutBench, hne]
  refine ⟨_, _, _, ?_, partnOf_showBench hp, rfl, benchOf_showBench hp hb, rfl, rfl, rfl, rfl, rfl, rfl⟩
  simp only [newBench, hq, hk, hg]
  rfl

end request

end Sys2Proof.Machine
end
section
/-! PROOFS. Flips, the sweep of a line, and the sealing of a bench (R329, R331, R332, R337, R339, R345, R349). -/

namespace Sys2Proof.Machine

open Sys2Proof

/-! ## Flips (R329, R331) -/

/-- The colours' check changes the state of benches and nothing else of them. -/
theorem checkFlipped_bench {s : State} {pid id : Nat} {q : Partn} {b : Bench} (hq : partnOf s pid = some q) (hb : benchOf s pid id = some b) :
    (checkFlipped s pid).quarry = s.quarry ∧ ∃ st, benchOf (checkFlipped s pid) pid id = some { b with st := st } := by
  simp only [checkFlipped, hq]
  split
  · refine ⟨rfl, _, (benchOf_mapPart (k := fun b => { b with st := if b.st = 1 && (benchOwners s q).all (fun o => b.acks.contains o) then 2 else b.st })
      (fun _ => rfl) (fun _ => rfl) hq (List.map_congr_left fun b _ => ?_) hb)⟩
    split <;> rfl
  · exact ⟨rfl, _, hb⟩

theorem quarryFlip_flips {s : State} {pid n : Nat} {q : Partn} {b : Bench} (hq : partnOf s pid = some q)
    (hdue : q.benches.find? (fun b => ((b.st = 1 && recField q.rec_ 3 1 % 2 = 0) || b.st = 2) && !b.acks.contains n) = some b)
    (hb : benchOf s pid b.id = some b) : ∃ y, benchOf (quarryFlip s pid n) pid b.id = some y ∧ y.acks = b.acks ++ [n] ∧ y.frozen = b.frozen
      ∧ (quarryFlip s pid n).quarry = s.quarry
      ∧ y.shared = b.shared ++ (if recField q.rec_ 16 2 = 0 then [] else (mappedPages s (recField q.rec_ 16 2) n).map (fun g => (n, g))) := by
  let pages := if recField q.rec_ 16 2 = 0 then [] else mappedPages s (recField q.rec_ 16 2) n
  let f (b : Bench) : Bench := { b with acks := b.acks ++ [n], shared := b.shared ++ pages.map (fun g => (n, g)) }
  have hflip : quarryFlip s pid n = checkFlipped (updBench s pid b.id f) pid := by
    simp only [quarryFlip, hq, hdue]
    rfl
  obtain ⟨hquarry, st, hy⟩ := checkFlipped_bench (partnOf_updBench (f := f) hq) (benchOf_updBench (f := f) (fun _ => rfl) hq hb)
  rw [hflip]
  refine ⟨{ f b with st := st }, hy, rfl, rfl, hquarry, ?_⟩
  show b.shared ++ pages.map _ = _
  simp only [pages]
  split <;> rfl

/-! ## The sweep of a line (R337, R399) -/

/-- A line within a page that nothing holds and no copy was made of goes into the image as it stands. -/
theorem execBenchSweep_line {s u : State} {site : Nat} {c : Capture} (hu : atSite s site u) (hcap : u.tile.bench.cap = some c) (hdone : c.done = false)
    (hlt : c.sweep < 0x8000) (hpage : c.sweep % 256 ≠ 0) (hheld : lineHeld u.tile c c.sweep = false)
    (hcopy : c.copied.find? (fun y => y.1 = c.sweep) = none) (hp : u.tile.poison = []) (hs : u.tile.soft = []) :
    execBenchSweep site s = .next (updCap u (fun y =>
      { y with sweep := c.sweep + 1, img := blit y.img (64 * c.sweep) (readBytes u.tile.mem (64 * c.sweep) 64) })) := by
  have hnot : ¬0x8000 ≤ c.sweep := by omega
  rw [execBenchSweep, atTile_eq hu]
  simp only [hcap, hdone, hnot, hheld, hpage, hcopy, checkRead_clean hp hs _ 2, Bool.false_eq_true, if_false]

/-! ## The sealing of a bench (R339, R345, R349) -/

/-- The images that the tiles of a partition have taken. -/
def takenImages (s : State) (p : Partn) : List (Nat × Capture) :=
  ((allTiles s).filter (fun t => p.sites.contains t.site)).filterMap (fun t => t.bench.cap.map (fun c => (t.site, c)))

/-- A tile of a partition whose bench is sealed: its image has left it, LASTBENCH and BENCHST.LAST name the bench. -/
def sealedTile (id : Nat) (cut : W64) (t : Tile) : Tile :=
  cwPut (cwPut { t with bench := { t.bench with cap := none } } 0x061 cut) 0x060 (setBits (cwGet { t with bench := { t.bench with cap := none } } 0x060) 8 3 id)

/-- A tile that shows the bench in progress and the pages held. -/
def shownTile (id held : Nat) (t : Tile) : Tile :=
  let t := cwPut t 0x060 (setBits (setBits (cwGet t 0x060) 0 3 id) 6 1 (if (match t.bench.cap with
    | some c => !c.done
    | none => false) then 1 else 0))
  cwPut t 0x062 (setBits (cwGet t 0x062) 32 32 held)

/-- Where the policy of the oldest bench does not apply, a sealing is the waking of its tokens and the change of bench, count and tiles. -/
theorem sealBench_plain {s : State} {pid id : Nat} {q : Partn} {b : Bench} (hq : partnOf s pid = some q) (hb : benchOf s pid id = some b)
    (hplain : (recField q.rec_ 48 1).testBit 2 = false) : ∃ t u, TilesOnly s t ∧ t = wakeTokens s b.waitB (compOk id)
      ∧ u = updBench t pid id (fun b => { b with st := 3, images := takenImages t q, waitB := [], seq := t.mgr.sealSeq })
      ∧ sealBench s pid id = showBench (mapPartn { u with mgr := { u.mgr with sealSeq := t.mgr.sealSeq + 1 } } pid (sealedTile id b.cut)) pid := by
  refine ⟨_, _, tilesOnly_wakeTokens s b.waitB (compOk id), rfl, rfl, ?_⟩
  simp only [sealBench, hq, hb, hplain, Bool.false_eq_true, false_and, if_false]
  rfl

theorem mem_allTiles_mapPartn {s : State} {pid : Nat} {f : Tile → Tile} {x : Tile} (hx : x ∈ allTiles (mapPartn s pid f))
    (hp : x.pid = pid) : ∃ t ∈ allTiles s, t.pid = pid ∧ x = f t := by
  have hmem : x ∈ (allTiles s).map (fun t => if t.pid = pid then f t else t) := hx
  obtain ⟨t, ht, rfl⟩ := List.mem_map.1 hmem
  by_cases h : t.pid = pid
  · exact ⟨t, ht, h, if_pos h⟩
  · rw [if_neg h] at hp
    exact absurd hp h

theorem shownTile_keeps (id held : Nat) (t : Tile) : (shownTile id held t).pid = t.pid ∧ (shownTile id held t).bench = t.bench
    ∧ cwGet (shownTile id held t) 0x061 = cwGet t 0x061 ∧ bitsOf (cwGet (shownTile id held t) 0x060) 8 3 = bitsOf (cwGet t 0x060) 8 3 := by
  refine ⟨rfl, rfl, ?_, ?_⟩
  · simp [shownTile, cwGet_cwPut]
  · simp only [shownTile, cwGet_cwPut, Nat.reduceEqDiff, if_true, if_false]
    rw [bitsOf_setBits_other _ _ _ _ _ _ (by norm_num) (by norm_num), bitsOf_setBits_other _ _ _ _ _ _ (by norm_num) (by norm_num)]

theorem sealedTile_shows (id : Nat) (cut : W64) (t : Tile) : (sealedTile id cut t).pid = t.pid ∧ (sealedTile id cut t).bench.cap = none
    ∧ cwGet (sealedTile id cut t) 0x061 = cut ∧ bitsOf (cwGet (sealedTile id cut t) 0x060) 8 3 = id % 8 := by
  refine ⟨rfl, rfl, ?_, ?_⟩
  · simp [sealedTile, cwGet_cwPut]
  · simp only [sealedTile, cwGet_cwPut, if_true]
    exact bitsOf_setBits_same _ _ _ _ (by norm_num)

/-- What the display of a bench makes of a tile of the partition. -/
theorem mem_allTiles_showBench {s : State} {pid : Nat} {x : Tile} (hx : x ∈ allTiles (showBench s pid)) (hp : x.pid = pid) :
    ∃ t ∈ allTiles s, t.pid = pid ∧ ∃ id held, x = shownTile id held t := by
  obtain ⟨t, ht, htp, rfl⟩ := mem_allTiles_mapPartn hx hp
  exact ⟨t, ht, htp, _, _, rfl⟩

/-- A tile of the partition of a sealed bench. -/
theorem sealBench_tile {s : State} {pid id : Nat} {q : Partn} {b : Bench} (hq : partnOf s pid = some q) (hb : benchOf s pid id = some b)
    (hplain : (recField q.rec_ 48 1).testBit 2 = false) : ∀ x ∈ allTiles (sealBench s pid id), x.pid = pid →
      x.bench.cap = none ∧ cwGet x 0x061 = b.cut ∧ bitsOf (cwGet x 0x060) 8 3 = id % 8 := by
  obtain ⟨t, u, -, -, -, hseal⟩ := sealBench_plain hq hb hplain
  intro x hx hp
  rw [hseal] at hx
  obtain ⟨y, hy, hyp, k, held, rfl⟩ := mem_allTiles_showBench hx hp
  obtain ⟨z, -, -, rfl⟩ := mem_allTiles_mapPartn hy hyp
  obtain ⟨-, hbench, hlast, hid⟩ := shownTile_keeps k held (sealedTile id b.cut z)
  obtain ⟨-, hcap, hcut, hsealed⟩ := sealedTile_shows id b.cut z
  exact ⟨by rw [hbench, hcap], hlast.trans hcut, hid.trans hsealed⟩

/-- The bench itself, and the count of sealings. -/
theorem sealBench_bench {s : State} {pid id : Nat} {q : Partn} {b : Bench} (hq : partnOf s pid = some q) (hb : benchOf s pid id = some b)
    (hplain : (recField q.rec_ 48 1).testBit 2 = false) : (sealBench s pid id).mgr.sealSeq = s.mgr.sealSeq + 1
      ∧ ∃ y, benchOf (sealBench s pid id) pid id = some y ∧ y.st = 3 ∧ y.waitB = [] ∧ y.seq = s.mgr.sealSeq ∧ y.frozen = b.frozen ∧ y.shared = b.shared
        ∧ y.images = takenImages (wakeTokens s b.waitB (compOk id)) q := by
  obtain ⟨t, u, ht, rfl, rfl, hseal⟩ := sealBench_plain hq hb hplain
  have hq' : partnOf (wakeTokens s b.waitB (compOk id)) pid = some q := by rw [partnOf, ht.partns]; exact hq
  have hb' := (benchOf_congr ht.partns pid id).trans hb
  rw [hseal]
  refine ⟨congrArg (· + 1) (congrArg Manager.sealSeq ht.mgr), ?_⟩
  exact ⟨_, benchOf_showBench (s := mapPartn _ pid _) (partnOf_updBench hq') (benchOf_updBench (fun _ => rfl) hq' hb'), rfl, rfl, congrArg Manager.sealSeq ht.mgr, rfl, rfl, rfl⟩

/-- A channel record without a packet takes no page. -/
theorem channelPages_empty {c : Capture} (h : c.channel = []) : channelPages c = 0 := by
  rw [channelPages, h]
  rfl

theorem foldl_takePage_none {pid id : Nat} (l : List (Nat × Nat)) (s : State) (h : ∀ n ∈ l, n.2 = 0) :
    l.foldl (fun (a : Option State) n => a.bind (fun s => if n.2 = 0 then some s else takePage s pid id n.1 n.2)) (some s) = some s := by
  induction l with
  | nil => rfl
  | cons n r ih =>
    rw [List.foldl_cons, Option.bind_some, if_pos (h n (List.mem_cons_self ..))]
    exact ih fun m hm => h m (List.mem_cons_of_mem _ hm)

/-- A bench whose channel records are empty is sealed at once. -/
theorem execBenchSeal_seals {s : State} {pid id : Nat} {q : Partn} {b : Bench} (hq : partnOf s pid = some q) (hb : benchOf s pid id = some b)
    (hs : sealable s q b = true) (hch : ∀ t ∈ allTiles s, ∀ c, t.bench.cap = some c → c.channel = []) :
    execBenchSeal pid id s = .next (sealBench s pid id) := by
  have hst : b.st = 2 := by
    simp only [sealable, Bool.and_eq_true] at hs
    exact of_decide_eq_true hs.1.1.1.1
  have hneed : ∀ n ∈ ((allTiles s).filter (fun t => q.sites.contains t.site)).filterMap (fun t => t.bench.cap.map (fun c => (t.site, channelPages c))),
      n.2 = 0 := by
    intro n hn
    obtain ⟨t, ht, heq⟩ := List.mem_filterMap.1 hn
    obtain ⟨c, hc, rfl⟩ := Option.map_eq_some_iff.1 heq
    exact channelPages_empty (hch t (List.mem_filter.1 ht).1 c hc)
  simp only [execBenchSeal, hq, hb, hs, Bool.not_true, Bool.false_eq_true, if_false, foldl_takePage_none _ s hneed, hst, if_true]

end Sys2Proof.Machine
end
section
/-! PROOFS. Pages on haul, the bytes of a stored page, and the failure of power (R341, R342, R344). -/

namespace Sys2Proof.Machine

open Sys2Proof

/-! ## Pages on haul (R341) -/

section haul
variable {s v : State} {pid id : Nat} {q : Partn} {b y z : Bench} {g : HaulPage} (hq : partnOf s pid = some q) (hb : benchOf s pid id = some b)
include hq hb

section reads
variable (hpick : s.pick = 0) (hhaul : haulable s q b = true) (hplace : placeBench s b = some y)
include hpick hhaul hplace

theorem execHaulPage_takes (hnext : nextPage s q y = some (g, z, v)) (hroom : s.mgr.haul.countP (fun x => x.die = g.die) < 4) :
    execHaulPage pid id s = .next (showBench (updBench { v with mgr := { v.mgr with haul := v.mgr.haul ++ [g] } } q.pid y.id (fun _ => { z with st := 4 }))
      q.pid) := by
  simp only [execHaulPage, hq, hb, hpick, ne_eq, not_true_eq_false, if_false, haulRead, hhaul, hplace, hnext, Bool.not_true, Bool.false_eq_true, hroom, if_true]

theorem execHaulPage_ends (hnext : nextPage s q y = none) (hin : inHaul s q.pid y.id = []) : execHaulPage pid id s = .next (endHaul s q y) := by
  simp only [execHaulPage, hq, hb, hpick, ne_eq, not_true_eq_false, if_false, haulRead, hhaul, hplace, hnext, Bool.not_true, Bool.false_eq_true, hin,
    List.isEmpty_nil, if_true]

end reads

/-- The page that an engine has held longest is written, or its bench fails with the expander. -/
theorem execHaulPage_writes {r : List HaulPage} (hpick : s.pick ≠ 0) (hin : inHaul s pid id = g :: r) :
    let z := { s with mgr := { s.mgr with haul := s.mgr.haul.erase g }, free := s.free + 1 }
    let bs := pageBytes b.id g.kind g.origin g.page
    execHaulPage pid id s = .next (if Config.expanderFails s.free ∨ Config.capBytes < (cellGet s.mgr.w2 0).toNat + (cellGet s.mgr.w2 8).toNat
      then abandon z pid id else showBench (updBench { z with cap := writeBytes s.cap ((cellGet s.mgr.w2 0).toNat + b.next) bs } pid id
        (fun x => { x with stored := x.stored + 1, next := (x.next + bs.length + 63) / 64 * 64 })) pid) := by
  intro z bs
  have hg : g ∈ inHaul s pid id := hin ▸ List.mem_cons_self ..
  have hmine : g.pid = pid ∧ g.id = id := by simpa [inHaul] using (List.mem_filter.1 hg).2
  simp only [execHaulPage, hq, hb, hin, if_pos hpick, haulWrite, hmine, Nat.add_sub_cancel]
  rw [show benchOf z pid id = some b from hb]

end haul

/-! ## The order of pages (R329, R340 to R342) -/

section next
variable {s v : State} {q : Partn} {b : Bench} (himgs : ∀ i ∈ b.imgs, i.2 = 0)
include himgs

theorem imgs_taken : b.imgs.find? (fun i => decide (i.2 ≠ 0)) = none := List.find?_eq_none.2 fun i hi => by simp [himgs i hi]

theorem nextPage_frozen {f : Nat × Nat × Nat × List Byte} {r : List (Nat × Nat × Nat × List Byte)} (hf : b.frozen = f :: r) :
    nextPage s q b = some (⟨f.1 / 16, q.pid, b.id, 0, pageQva s q f.1 f.2.1, f.2.2.2⟩,
      { b with frozen := r, store := (f.1, f.2.1, pageQva s q f.1 f.2.1) :: b.store }, s) := by
  simp only [nextPage, imgs_taken himgs, hf]

theorem nextPage_shared {o k : Nat} {r : List (Nat × Nat)} {bytes : List Byte} (hf : b.frozen = []) (hs : b.shared = (o, k) :: r)
    (hread : pageRead s o k = (bytes, v)) : nextPage s q b
      = some (⟨o / 16, q.pid, b.id, 0, pageQva s q o k, bytes⟩, { b with shared := r, store := (o, k, pageQva s q o k) :: b.store }, v) := by
  simp only [nextPage, imgs_taken himgs, hf, hs, hread]

theorem nextPage_none (hf : b.frozen = []) (hs : b.shared = []) : nextPage s q b = none := by
  simp only [nextPage, imgs_taken himgs, hf, hs]

end next

/-! ## A stored page (R342) -/

/-- A field of a byte string, and what follows it. -/
theorem leNat_field {bs post : List Byte} {v n : Nat} (k : Nat) (h : bs.drop k = leBytes v n ++ post) (hv : v < 256 ^ n) :
    leNat ((bs.drop k).take n) = v ∧ bs.drop (k + n) = post := by
  refine ⟨?_, ?_⟩
  · rw [h, List.take_left' (leBytes_length v n), leNat_leBytes, Nat.mod_eq_of_lt hv]
  · rw [← List.drop_drop, h, List.drop_left' (leBytes_length v n)]

/-- The header of 32 bytes, field by field, and the body. -/
theorem pageBytes_fields (id : Nat) {kind origin : Nat} {page : List Byte} {form : Nat} {body : List Byte} (hbody : pageBody page = (form, body))
    (hform : form < 2) (hkind : kind < 4) (horigin : origin < 2 ^ 64) (hlen : body.length < 2 ^ 32) :
    let bs := pageBytes id kind origin page
    bs.drop 32 = body ∧ leNat (bs.take 2) = form ∧ leNat ((bs.drop 2).take 1) = kind ∧ leNat ((bs.drop 3).take 1) = id % 8
      ∧ leNat ((bs.drop 4).take 4) = body.length ∧ leNat ((bs.drop 8).take 8) = origin ∧ leNat ((bs.drop 16).take 4) = (crc32 page).toNat
      ∧ leNat ((bs.drop 20).take 12) = 0 := by
  intro bs
  have hbs : bs.drop 0 = leBytes form 2 ++ (leBytes kind 1 ++ (leBytes (id % 8) 1 ++ (leBytes body.length 4 ++ (leBytes origin 8
      ++ (leBytes (crc32 page).toNat 4 ++ (leBytes 0 12 ++ body)))))) := by
    simp only [bs, pageBytes, hbody, List.append_assoc, List.drop_zero]
    rfl
  have hcrc := (crc32 page).isLt
  have hid : id % 8 < 8 := Nat.mod_lt _ (by norm_num)
  obtain ⟨vForm, h2⟩ := leNat_field 0 hbs (by omega)
  obtain ⟨vKind, h3⟩ := leNat_field 2 h2 (by omega)
  obtain ⟨vId, h4⟩ := leNat_field 3 h3 (by omega)
  obtain ⟨vLength, h8⟩ := leNat_field 4 h4 (by omega)
  obtain ⟨vOrigin, h16⟩ := leNat_field 8 h8 (by omega)
  obtain ⟨vCrc, h20⟩ := leNat_field 16 h16 (by omega)
  obtain ⟨vRest, h32⟩ := leNat_field 20 h20 (by omega)
  exact ⟨h32, vForm, vKind, vId, vLength, vOrigin, vCrc, vRest⟩

/-! ## The failure of power (R344) -/

/-- A write of the directory, which changes neither quarry memory nor the tile in focus. -/
structure StoreOnly (s t : State) : Prop where
  quarry : t.quarry = s.quarry
  tile : t.tile = s.tile

theorem storeOnly_dirWrite (s : State) (i : Nat) : StoreOnly s (dirWrite s i) := by
  unfold dirWrite
  split
  · exact ⟨rfl, rfl⟩
  · exact ⟨rfl, rfl⟩

theorem storeOnly_dirAdd (s : State) (e : DirEntry) : StoreOnly s (dirAdd s e) := by
  unfold dirAdd
  split
  · obtain ⟨h, h'⟩ := storeOnly_dirWrite { s with mgr := { s.mgr with dir := s.mgr.dir.set _ e } } _
    exact ⟨h, h'⟩
  · split
    · obtain ⟨h, h'⟩ := storeOnly_dirWrite { s with mgr := { s.mgr with dir := s.mgr.dir ++ [e] } } s.mgr.dir.length
      exact ⟨h, h'⟩
    · exact ⟨rfl, rfl⟩

theorem storeOnly_foldl {α : Type} (f : State → α → State) (hf : ∀ s a, StoreOnly s (f s a)) (l : List α) (s : State) : StoreOnly s (l.foldl f s) := by
  induction l generalizing s with
  | nil => exact ⟨rfl, rfl⟩
  | cons a r ih => exact ⟨(ih _).quarry.trans (hf s a).quarry, (ih _).tile.trans (hf s a).tile⟩

theorem storeOnly_writeIncomplete (s : State) : StoreOnly s (writeIncomplete s) :=
  storeOnly_foldl _ (fun s _ => storeOnly_foldl _ (fun s _ => storeOnly_dirAdd s _) _ s) _ s

end Sys2Proof.Machine
end
section
/-! PROOFS. Containment, the ends of partitions, and the tiles that leave them (R264, R280, R372). -/

namespace Sys2Proof.Machine

open Sys2Proof

/-! ## Records and tiles put in place -/

/-- A record of the reliability log leaves tiles and held requests as they are. -/
structure RecordFrame (s t : State) : Prop where
  tile : t.tile = s.tile
  rest : t.rest = s.rest
  qheld : t.qheld = s.qheld

theorem recordFrame_useRow (s : State) (owner row : Nat) : RecordFrame s (useRow s owner row).2 := by
  unfold useRow
  extract_lets k v v'
  split <;> exact ⟨rfl, rfl, rfl⟩

theorem recordFrame_ringWrite (s : State) (owner off rec_ : Nat) : RecordFrame s (ringWrite s owner off rec_).2 := by
  obtain ⟨ht, hr, hq⟩ := recordFrame_useRow s owner (Config.dramRow (off / 64))
  unfold ringWrite
  dsimp only
  exact ⟨ht, hr, hq⟩

theorem recordFrame_relRecords (fuel : Nat) (s : State) (typ sev src rank addr d1 d2 ltag qasid : Nat) :
    RecordFrame s (relRecords fuel s typ sev src rank addr d1 d2 ltag qasid) := by
  induction fuel generalizing s typ sev src rank addr d1 d2 ltag qasid with
  | zero =>
    unfold relRecords
    extract_lets
    split
    · exact ⟨rfl, rfl, rfl⟩
    · split
      next e =>
        obtain ⟨ht, hr, hq⟩ := e ▸ recordFrame_ringWrite _ _ _ _
        exact ⟨ht, hr, hq⟩
  | succ k ih =>
    unfold relRecords
    extract_lets
    split
    · exact ⟨rfl, rfl, rfl⟩
    · split
      next row _ e =>
        obtain ⟨ht, hr, hq⟩ := e ▸ recordFrame_ringWrite _ _ _ _
        cases row with
        | none => exact ⟨ht, hr, hq⟩
        | some _ =>
          obtain ⟨ht', hr', hq'⟩ := ih (w0Put _ _ _) 0x12 1 1 _ 0 _ 0 0 0
          exact ⟨ht'.trans ht, hr'.trans hr, hq'.trans hq⟩

theorem putTile_qheld (s : State) (t : Tile) : (putTile s t).qheld = s.qheld := by
  unfold putTile
  split <;> rfl

theorem filter_qheld_nil {s : State} (p : Transit → Bool) (h : s.qheld = []) : { s with qheld := s.qheld.filter p } = s := by
  rw [h, List.filter_nil, ← h]

/-! ## Containment (R372) -/

theorem execContainment_one {s : State} {pid : Nat} {q : Partn} {t : Tile} (hq : partnOf s pid = some q) (hst : q.st = .containing) (hb : q.benches = [])
    (hc : causeOf q ≠ 0x100) (ht : roundTiles s q = [t]) (hheld : s.qheld = []) :
    let z := relRecord s 0x30 3 0 (causeRank s q) 0 (causeOf q) (causeDetail q) (recField q.rec_ 62 2) (lQasid q.rec_)
    execContainment pid s = .next (mapPart (putTile z (resetTile z t)) pid
      (fun y => { y with st := .contained, round := none, halt := none, resume := none, again := none, colour := false })) := by
  intro z
  have hz : RecordFrame s z := recordFrame_relRecords ..
  have hround : roundTiles z q = [t] := by rw [roundTiles, allTiles, hz.tile, hz.rest]; exact ht
  have hnone : (putTile z (resetTile z t)).qheld = [] := by rw [putTile_qheld, hz.qheld, hheld]
  simp only [execContainment, hq, hst, hb, List.filter_nil, List.foldl_nil, ne_eq, not_true_eq_false, if_false, if_neg hc]
  change Host.Outcome.next (mapPart { (roundTiles z q).foldl (fun s t => putTile s (resetTile s t)) z with
    qheld := ((roundTiles z q).foldl (fun s t => putTile s (resetTile s t)) z).qheld.filter _ } pid _) = _
  rw [hround]
  exact congrArg (fun s => Host.Outcome.next (mapPart s pid _)) (filter_qheld_nil _ hnone)

/-! ## The ends of partitions (R264, R280, R326) -/

/-- A partition under its boot image keeps its record. -/
theorem execContainmentDrained_boot {s : State} {pid : Nat} {q : Partn} (hq : partnOf s pid = some q) (hst : q.st = .contained) (hs : q.sites ≠ [])
    (hfly : flying s pid (fun _ => true) = false) (hboot : s.mgr.boot.isSome = true) :
    execContainmentDrained pid s = .next (mapPart s pid (fun y => { y with sites := [] })) := by
  simp only [execContainmentDrained, hq, hst, hs, hfly, hboot, ne_eq, not_true_eq_false, or_self, Bool.false_eq_true, if_false, if_true]

/-- A contained partition without benches is gone before the next placement. -/
theorem execContainmentDrained_frees {s : State} {pid : Nat} {q : Partn} (hq : partnOf s pid = some q) (hst : q.st = .contained) (hs : q.sites ≠ [])
    (hfly : flying s pid (fun _ => true) = false) (hboot : s.mgr.boot = none) (hb : q.benches = []) :
    ∃ z, execContainmentDrained pid s = .next (placementPass (powerState z)) ∧ z.partns.all (fun y => decide (y.pid ≠ pid)) = true := by
  let u := mapPart (freeSites (completePart s q 4 (causeOf q) 0) q) pid (fun p => { p with sites := [], benches := p.benches.filter (fun b => b.st ≠ 6) })
  refine ⟨{ u with partns := u.partns.filter (fun y => y.pid ≠ pid) }, ?_, List.all_eq_true.2 fun y hy => (List.mem_filter.1 hy).2⟩
  simp only [execContainmentDrained, hq, hst, hs, hfly, hboot, hb, ne_eq, not_true_eq_false, or_self, Bool.false_eq_true, if_false, Option.isSome_none,
    List.all_nil, if_true]
  rfl

theorem execPreemptionCaptured_benched {s v : State} {pid id : Nat} {q q' : Partn} (hq : partnOf s pid = some q) (hst : q.st = .preempting)
    (hdr : drained s q = true) (hcap : capturing q = false) (hcut : cutting q = none) (hpre : preemptBench s pid = some (id, v))
    (hq' : partnOf v pid = some q') : execPreemptionCaptured pid s = .next (placementPass (mapPart (freeSites (completePart v q' 5 id 0) q') pid
      (fun y => { y with st := .waiting, sites := [], from_ := id, round := none, halt := none, resume := none, again := none }))) := by
  simp only [execPreemptionCaptured, hq, hst, hdr, hcap, hcut, hpre, hq', ne_eq, not_true_eq_false, Bool.true_eq_false, Bool.false_eq_true, or_self,
    Option.isSome_none, if_false]

theorem execPartitionEnd_ends {s : State} {pid : Nat} {q : Partn} (hq : partnOf s pid = some q) (hst : q.st = .running)
    (hfin : ∀ t ∈ roundTiles s q, t.disp.finished = true) (hidle : idleFabric s q = true) (hboot : s.mgr.boot = none) :
    let a := q.benches.foldl (fun a b => stopHaul a pid b.id) s
    let z := dirEnd (freeSites (completePart a q 3 0 (leftEntries a q)) q) q
    execPartitionEnd pid s = .next (placementPass (powerState { z with partns := z.partns.filter (fun y => y.pid ≠ pid) })) := by
  have hall : (roundTiles s q).all (fun t => t.disp.finished) = true := List.all_eq_true.2 hfin
  simp only [execPartitionEnd, hq, hst, hall, hidle, hboot, ne_eq, not_true_eq_false, Bool.true_eq_false, or_self, Option.isSome_none, Bool.false_eq_true, if_false]

/-- A tile that leaves its partition keeps the words that are not its halt's. -/
theorem cwGet_leaveTile (t : Tile) {k : Nat} (hk : k ≠ 0x200) : cwGet (leaveTile t) k = cwGet t k := by
  unfold cwGet
  split
  · rfl
  · exact cellGet_set_ne t.cw _ hk

end Sys2Proof.Machine
end
section
/-! PROOFS. Halts, steps, injections, the trace sink and the scrubber (R382 to R400). -/

namespace Sys2Proof.Machine

open Sys2Proof

/-! ## Halts (R384, R385) -/

theorem tracePush_dbg (t : Tile) (st : Nat) (extra : List (BitVec 32)) (now : Nat) : (tracePush t st extra now).dbg.halted = t.dbg.halted
    ∧ (tracePush t st extra now).dbg.cause = t.dbg.cause ∧ (tracePush t st extra now).dbg.stepping = t.dbg.stepping := by
  unfold tracePush
  split
  · exact ⟨rfl, rfl, rfl⟩
  · extract_lets delta ext ws
    split
    · unfold traceLose cwPut
      split <;> exact ⟨rfl, rfl, rfl⟩
    · exact ⟨rfl, rfl, rfl⟩

theorem traceNote_dbg (t : Tile) (now : Nat) : (traceNote t now).dbg.halted = t.dbg.halted ∧ (traceNote t now).dbg.cause = t.dbg.cause
    ∧ (traceNote t now).dbg.stepping = t.dbg.stepping := by
  unfold traceNote traceTo
  split
  · exact ⟨rfl, rfl, rfl⟩
  · exact tracePush_dbg ..

/-- A tile that a halt stops: HALTED, HCAUSE, HCYC and HMSG. -/
structure Halted (t u : Tile) (c now : Nat) : Prop where
  halted : u.dbg.halted = true
  cause : u.dbg.cause = c
  stepping : u.dbg.stepping = false
  bit : (cwGet u 0x200).getLsbD 16 = true
  code : bitsOf (cwGet u 0x200) 32 8 = c % 256
  cycle : cwGet u 0x20C = BitVec.ofNat 64 now
  messages : (cwGet u 0x20D).toNat = t.eng.msgIn % 2 ^ 32 + t.eng.msgOut % 2 ^ 32 * 2 ^ 32
  th : u.th = t.th
  mem : u.mem = t.mem

theorem haltTile_halted {t : Tile} (h : t.dbg.halted = false) (cause now : Nat) : Halted t (haltTile t cause now) cause now := by
  have hmsg : t.eng.msgIn % 2 ^ 32 + t.eng.msgOut % 2 ^ 32 * 2 ^ 32 < 2 ^ 64 := by omega
  unfold haltTile
  rw [if_neg (by rw [h]; exact Bool.false_ne_true)]
  refine ⟨rfl, rfl, rfl, ?_, ?_, ?_, ?_, rfl, rfl⟩
  · simp only [haltBits, cwGet_cwPut, Nat.reduceEqDiff, if_true, if_false]
    rw [getLsbD_setBits _ _ _ _ _ (by norm_num), if_neg (by norm_num), getLsbD_setBits _ _ _ _ _ (by norm_num), if_pos (by norm_num)]
    rfl
  · simp only [haltBits, cwGet_cwPut, Nat.reduceEqDiff, if_true, if_false]
    exact bitsOf_setBits_same _ _ _ _ (by norm_num)
  · simp only [cwGet_cwPut, Nat.reduceEqDiff, if_true, if_false]
  · simp only [cwGet_cwPut, if_true, BitVec.toNat_ofNat]
    exact Nat.mod_eq_of_lt hmsg

theorem traceNote_halted {t u : Tile} {cause now : Nat} (h : Halted t u cause now) (n : Nat) : Halted t (traceNote u n) cause now := by
  obtain ⟨hth, hmem, -, hcw⟩ := traceNote_context u n
  obtain ⟨hhalt, hcause, hstep⟩ := traceNote_dbg u n
  exact ⟨hhalt.trans h.halted, hcause.trans h.cause, hstep.trans h.stepping, by rw [hcw _ (by decide)]; exact h.bit, by rw [hcw _ (by decide)]; exact h.code,
    by rw [hcw _ (by decide)]; exact h.cycle, by rw [hcw _ (by decide)]; exact h.messages, hth.trans h.th, hmem.trans h.mem⟩

/-- A halt that arises at a tile, and the halt of the partition that it asks for with GANG = 1. -/
theorem haltHere_tile {s : State} (h : s.tile.dbg.halted = false) (c : Nat) : Halted s.tile (haltHere s c).tile c (cycAt s s.tile.site).toNat := by
  have hu := traceNote_halted (haltTile_halted (t := updDbg s.tile (fun d => { d with gang := d.gang || (cwGet s.tile 0x200).getLsbD 5 })) h c
    (cycAt s s.tile.site).toNat) (dieCyc s s.tile.site)
  have htile : (haltHere s c).tile = traceNote (haltTile (updDbg s.tile (fun d => { d with gang := d.gang || (cwGet s.tile 0x200).getLsbD 5 })) c
      (cycAt s s.tile.site).toNat) (dieCyc s s.tile.site) := by
    unfold haltHere
    extract_lets
    split <;> rfl
  rw [htile]
  exact ⟨hu.1, hu.2, hu.3, hu.4, hu.5, hu.6, hu.7, hu.8, hu.9⟩

theorem haltHere_partns {s : State} (h : (cwGet s.tile 0x200).getLsbD 5 = false) (c : Nat) : (haltHere s c).partns = s.partns := by
  simp only [haltHere, h, Bool.false_eq_true, if_false]

theorem haltHere_gang {s : State} {q : Partn} (h : (cwGet s.tile 0x200).getLsbD 5 = true) (hq : partnOf s s.tile.pid = some q) (hh : q.halt = none) (c : Nat) :
    ∃ y, partnOf (haltHere s c) s.tile.pid = some y ∧ y.halt = some s.cyc := by
  have hask : partnOf (askHalt s s.tile.pid) s.tile.pid = some { q with halt := some s.cyc } := by
    refine (partnOf_mapPart (fun p => ?_) hq).trans (by rw [hh])
    split
    · rfl
    · split <;> rfl
  refine ⟨{ q with halt := some s.cyc }, ?_, rfl⟩
  rw [← hask]
  simp only [haltHere, h, if_true]
  rfl

/-! ## Stepping and the partition's halt (R385, R388) -/

theorem execTileHalt_halts {s u : State} {site c : Nat} (hu : atSite s site u) (hc : haltWanted u.tile = some c)
    (h : c ≠ 5 ∨ (eventLooms u.tile = false ∧ u.tile.th.squash = 0)) : execTileHalt site s = .next (haltHere u c) := by
  have hgo : (c = 5 && (eventLooms u.tile || decide (u.tile.th.squash ≠ 0))) = false := by
    rcases h with h | ⟨he, hs⟩
    · simp [h]
    · simp [he, hs]
  rw [execTileHalt, atTile_eq hu]
  simp only [hc, hgo, Bool.false_eq_true, if_false]

theorem execStepDone_halts {s u : State} {site : Nat} (hu : atSite s site u) (hs : u.tile.dbg.stepping = true) (hh : u.tile.dbg.halted = false)
    (hn : cwGet u.tile 0x209 = 0) : execStepDone site s = .next (haltHere u 7) := by
  rw [execStepDone, atTile_eq hu]
  simp only [hs, hh, hn, Bool.not_false, decide_true, Bool.and_self, if_true]

theorem execGangStop_stops {s : State} {pid h : Nat} {q : Partn} (hq : partnOf s pid = some q) (hh : q.halt = some h) (hc : s.cyc = h + 64) :
    execGangStop pid s = .next (mapPartn s pid (fun t =>
      traceNote (updDbg (haltTile t 2 (cycAt s t.site).toNat) (fun d => { d with gang := true })) (dieCyc s t.site))) := by
  simp only [execGangStop, hq, hh, hc, ne_eq, not_true_eq_false, if_false]

theorem execGangResume_resumes {s : State} {pid h r : Nat} {q : Partn} (hq : partnOf s pid = some q) (hh : q.halt = some h) (hr : q.resume = some r)
    (hc : r + 64 ≤ s.cyc) : execGangResume pid s = .next (mapPart (mapPartn s pid (fun t => resumeTile (shiftTimes t (h + 64) (r + 64)))) pid
      (fun y => { y with halt := y.again, resume := none, again := none })) := by
  simp only [execGangResume, hq, hh, hr, if_neg (not_lt.2 hc)]

/-! ## Writes of the debug words (R382, R384, R387, R388, R393) -/

section halted
variable {s u : State} {site : Nat} (x : W64) (hu : atSite s site u) (hh : u.tile.dbg.halted = true)
include hu hh

theorem execDbgpcWrite_halted : execDbgpcWrite site x s = .next { u with tile := { u.tile with th := { u.tile.th with pc := x.setWidth 21 } } } := by
  rw [execDbgpcWrite, atTile_eq hu, if_pos hh]

theorem execStepcntWrite_halted : execStepcntWrite site x s = .next { u with tile := cwPut u.tile 0x209 (x &&& 0xFFFF) } := by
  rw [execStepcntWrite, atTile_eq hu, if_pos hh]

theorem execDbgctlResume_halted (hg : u.tile.dbg.gang = false) : execDbgctlResume site s = .next { u with tile := resumeTile u.tile } := by
  rw [execDbgctlResume, atTile_eq hu, if_neg (by rw [hg]; exact Bool.false_ne_true), if_pos hh]

end halted

theorem atPage_eq {s u : State} {site : Nat} (hlt : site < 4096) (hn : site ∉ s.mgr.retired) (hu : u = focus site (listSite s site)) (f : State → State) :
    atPage s site f = .next (f u) := by
  have hno : ¬(s.mgr.retired.contains site = true ∨ 4096 ≤ site) := by
    rintro (h | h)
    · exact hn (by simpa using h)
    · omega
  rw [atPage, if_neg hno, hu]

theorem execDbgctlHalt_asks {s u : State} {site : Nat} (hlt : site < 4096) (hn : site ∉ s.mgr.retired) (hu : u = focus site (listSite s site))
    (hh : u.tile.dbg.halted = false) : execDbgctlHalt site s = .next { u with tile := updDbg u.tile (fun d => { d with want := some 1 }) } := by
  rw [execDbgctlHalt, atPage_eq hlt hn hu, if_neg (by rw [hh]; exact Bool.false_ne_true)]

theorem haltBits_dbg (t : Tile) (c : Nat) (b : Bool) : (haltBits t c b).dbg = t.dbg := by
  unfold haltBits cwPut
  split <;> rfl

theorem execDbgctlStep_steps {s u : State} {site : Nat} (hu : atSite s site u) (hh : u.tile.dbg.halted = true) (hn : cwGet u.tile 0x209 ≠ 0)
    (hr : ∀ y, partnOf u u.tile.pid = some y → y.resume = none) :
    ∃ t, execDbgctlStep site s = .next t ∧ t.tile.dbg.halted = false ∧ t.tile.dbg.stepping = true := by
  refine ⟨_, (atTile_eq hu _).trans (congrArg _ (if_neg ?_)), by rw [haltBits_dbg]; rfl, by rw [haltBits_dbg]; rfl⟩
  have hcount : decide (cwGet u.tile 0x209 = 0) = false := decide_eq_false hn
  cases hp : partnOf u u.tile.pid with
  | none => simp only [hh, hcount, Bool.not_true, Bool.or_self, Bool.false_eq_true, not_false_eq_true]
  | some y => simp only [hh, hcount, hr y hp, Option.isSome_none, Bool.not_true, Bool.or_self, Bool.false_eq_true, not_false_eq_true]

theorem updDbg_cwGet (t : Tile) (f : Debug → Debug) (n : Nat) : cwGet (updDbg t f) n = cwGet t n := rfl

theorem execFinjWrite_stores {s u : State} {site : Nat} (x : W64) (hlt : site < 4096) (hn : site ∉ s.mgr.retired) (hu : u = focus site (listSite s site)) :
    ∃ t, execFinjWrite site x s = .next t ∧ cwGet t.tile 0x208 = finjStored x
      ∧ t.tile.dbg.inject = if (finjStored x).getLsbD 63 = true ∧ (finjStored x).getLsbD 59 = false then some u.cyc else none := by
  refine ⟨_, atPage_eq hlt hn hu _, ?_, ?_⟩
  · rw [updDbg_cwGet, cwGet_cwPut, if_pos rfl]
  · simp [updDbg]

/-! ## Injections (R393, R394) -/

theorem execFaultInjectDeferred_injects {s u : State} {site : Nat} (hu : atSite s site u) (hrun : u.tile.disp.running = true) (hh : u.tile.dbg.halted = false)
    (hp : partnRuns u u.tile.pid = true) (hs : u.tile.th.squash = 0) (hd : injectDue u.tile = true) : execFaultInjectDeferred site s = .next (injectNow u) := by
  rw [execFaultInjectDeferred, atTile_eq hu]
  simp only [hrun, hh, hp, hs, hd, Bool.not_false, decide_true, Bool.and_self, if_true]

/-- What an injected bit leaves of a tile: its control words and SRAM. -/
theorem injectBit_keeps (t : Tile) (tgt loc bit : Nat) : (injectBit t tgt loc bit).mem = t.mem ∧ (injectBit t tgt loc bit).cw = t.cw
    ∧ (injectBit t tgt loc bit).th.cw = t.th.cw := by
  unfold injectBit
  split
  · exact ⟨rfl, rfl, rfl⟩
  · exact ⟨rfl, rfl, rfl⟩
  · split <;> exact ⟨rfl, rfl, rfl⟩
  · exact ⟨rfl, rfl, rfl⟩
  · exact ⟨rfl, rfl, rfl⟩
  · exact ⟨rfl, rfl, rfl⟩

/-- One inverted bit of a store. -/
theorem cellGet_flipCell {w : Nat} (m : Store w) (j b k : Nat) :
    cellGet (flipCell m j b) k = cellGet m k ^^^ (if k = j then BitVec.ofNat w (2 ^ b) else 0) := by
  rw [flipCell, cellGet_set_eq]
  by_cases h : k = j
  · rw [if_pos h, if_pos h, h]
  · rw [if_neg h, if_neg h]
    exact BitVec.xor_zero.symm

/-- TGT 0: the bit joins the soft errors of the tile, or leaves them where it stood. -/
theorem injectBit_soft (t : Tile) (loc bit : Nat) :
    (injectBit t 0 loc bit).soft = if (loc, bit) ∈ t.soft then t.soft.erase (loc, bit) else (loc, bit) :: t.soft :=
  if_congr List.contains_iff_mem rfl rfl

/-- TGT 2: a scalar register but x0. -/
theorem injectBit_x (t : Tile) {loc : Nat} (hl : loc ≠ 0) (bit : Nat) : (injectBit t 2 loc bit).th.x = flipCell t.th.x loc bit :=
  congrArg (fun u : Tile => u.th.x) (if_neg hl)

theorem injectBit_v (t : Tile) (loc bit : Nat) : (injectBit t 3 loc bit).th.v = flipCell t.th.v (loc % 32) (32 * (loc / 32) + bit) := rfl

theorem injectBit_acc (t : Tile) (loc bit : Nat) :
    (injectBit t 4 loc bit).th.acc = flipCell t.th.acc ((64 * (loc % 2) + loc / 2 % 64) * 64 + loc / 128) bit := rfl

theorem injectBit_latch (t : Tile) (loc bit : Nat) : (injectBit t 5 loc bit).th.latch = flipCell t.th.latch (64 * (loc % 4) + loc / 4) bit := rfl

/-- At an issue cycle that has begun, an injection of one bit: DONE is set and ARM cleared. -/
theorem injectNow_one {s : State} (hb : s.tile.began = true) (harm : (cwGet s.tile 0x208).getLsbD 63 = true) (htwo : (cwGet s.tile 0x208).getLsbD 58 = false) :
    let i := injectBit s.tile (bitsOf (cwGet s.tile 0x208) 60 3) (bitsOf (cwGet s.tile 0x208) 10 30) (bitsOf (cwGet s.tile 0x208) 0 10)
    let t := (injectNow s).tile
    t.th = i.th ∧ t.mem = i.mem ∧ t.soft = i.soft ∧ cwGet t 0x208 = setBits (setBits (cwGet s.tile 0x208) 63 1 0) 57 1 1 := by
  have hbegin : beginCycle s.tile (hereCyc s) = s.tile := if_pos hb
  simp only [injectNow, hbegin, inject, harm, htwo, Bool.not_true, Bool.false_eq_true, if_false]
  exact ⟨rfl, rfl, rfl, (cwGet_cwPut ..).trans (if_pos rfl)⟩

/-! ## The trace sink (R395, R397) -/

theorem sinkNext_full {k : Sink} (h : sinkSize k < k.off + 64) : sinkNext k = if k.ctl.getLsbD 62
    then (k.words.take 16, 64, { k with words := k.words.drop 16, off := 128, wrap := k.wrap + 1 }) else ([], 0, { k with full := true, words := [] }) := by
  simp only [sinkNext, if_neg (not_le.2 h)]

/-- The 16 words of a batch are 64 bytes. -/
theorem batch_length {l : List (BitVec 32)} (h : 16 ≤ l.length) : (((l.take 16).map (fun y => leBytes y.toNat 4)).flatten).length = 64 := by
  simp [leBytes_length, h, Function.comp_def]

theorem sinkStep_batch {u v w z : State} {k : Sink} (hlen : 16 ≤ k.words.length) (hroom : k.off + 64 ≤ sinkSize k) (hr : sinkRoom u k 0 = (v, true))
    (hw : sinkWrite v k k.off ((k.words.take 16).map (fun y => leBytes y.toNat 4)).flatten = (some 0, w))
    (hz : sinkWrite w { k with words := k.words.drop 16, off := k.off + 64 } 0 (sinkHeader w.tile { k with words := k.words.drop 16, off := k.off + 64 })
      = (some 0, z)) : sinkStep u k = (.done { k with words := k.words.drop 16, off := k.off + 64 }, z) := by
  have hwords : k.words ≠ [] := by rintro h; simp [h] at hlen
  have htake : k.words.take 16 ≠ [] := by rintro h; simpa [h] using batch_length hlen
  have hnext : sinkNext k = (k.words.take 16, k.off, { k with words := k.words.drop 16, off := k.off + 64 }) := by
    simp only [sinkNext, if_pos hroom]
  simp only [sinkStep, if_neg hwords, hnext, hr, if_neg htake, batch_length hlen, Nat.sub_self, List.replicate_zero, List.append_nil, hw, hz]

theorem execTraceBatchWrite_batch {s u v w z : State} {site : Nat} (hu : atSite s site u) (hf : u.tile.dbg.flush = []) (hon : traceOn u.tile = true)
    (hlen : 16 ≤ u.tile.dbg.queue.length) {k : Sink} (hk : k = sinkOf u.tile (cwGet u.tile 0x120)) (hroom : k.off + 64 ≤ sinkSize k)
    (hr : sinkRoom u k 0 = (v, true))
    (hw : sinkWrite v k k.off ((k.words.take 16).map (fun y => leBytes y.toNat 4)).flatten = (some 0, w))
    (hz : sinkWrite w { k with words := k.words.drop 16, off := k.off + 64 } 0 (sinkHeader w.tile { k with words := k.words.drop 16, off := k.off + 64 })
      = (some 0, z)) : execTraceBatchWrite site s = .next { z with tile := updDbg z.tile (fun e =>
        { e with queue := k.words.drop 16, toff := k.off + 64, twrap := k.wrap, tfull := k.full }) } := by
  have hstep := sinkStep_batch (hk ▸ hlen) hroom hr hw hz
  rw [execTraceBatchWrite, atTile_eq hu]
  simp only [hf, hon, not_lt.2 hlen, Bool.not_true, decide_false, Bool.or_self, Bool.false_eq_true, if_false, ← hk, hstep]

/-! ## The scrubber (R400) -/

theorem focus_cyc (site : Nat) (s : State) : (focus site s).cyc = s.cyc := by
  unfold focus
  split
  · rfl
  · split <;> rfl

theorem execSramScrub_reads {s u : State} {site line : Nat} (hu : atSite s site u) (hl : line = scrubLine u.cyc) (hs : u.tile.scrubbed ≠ u.cyc / 1024 + 1) :
    ∃ t, execSramScrub site line s = .next t ∧ t = { checkRead u ((upto 64).map (fun i => 64 * scrubLine u.cyc + i)) 3 false with
      tile := { (checkRead u ((upto 64).map (fun i => 64 * scrubLine u.cyc + i)) 3 false).tile with scrubbed := u.cyc / 1024 + 1 } } := by
  refine ⟨_, (atTile_eq hu _).trans (congrArg _ (if_pos hl)), ?_⟩
  simp only [scrubTile, if_neg hs]

theorem execSramScrub_idle {s u : State} {site line : Nat} (hu : atSite s site u) (h : u.tile.scrubbed = u.cyc / 1024 + 1 ∨ line ≠ scrubLine u.cyc) :
    execSramScrub site line s = .next u := by
  refine (atTile_eq hu _).trans (congrArg _ ?_)
  rcases h with h | h
  · simp only [scrubTile, if_pos h, ite_self]
  · rw [if_neg h]

/-! ## Words that land (R93, R116, R245) -/

theorem traceOpen_keeps (t : Tile) (old new : W64) (now : Nat) :
    (traceOpen t old new now).mem = t.mem ∧ ∀ k, cwGet (traceOpen t old new now) k = cwGet t k := by
  unfold traceOpen
  split
  · exact ⟨rfl, fun _ => rfl⟩
  · split <;> exact ⟨rfl, fun _ => rfl⟩

/-- A word takes the value that its access rules give it; SRAM stays as it is. -/
theorem cwWrite_takes (t : Tile) (n : Nat) (v : W64) (now : Nat) :
    (cwWrite t n v now).mem = t.mem ∧ cwGet (cwWrite t n v now) n = cwWritten (cwGet t n) n v := by
  have hput : cwGet (cwPut t n (cwWritten (cwGet t n) n v)) n = cwWritten (cwGet t n) n v := (cwGet_cwPut ..).trans (if_pos rfl)
  unfold cwWrite
  dsimp only
  split
  · obtain ⟨hmem, hcw⟩ := traceOpen_keeps (cwPut t n (cwWritten (cwGet t n) n v)) (cwGet t n) (cwWritten (cwGet t n) n v) now
    exact ⟨hmem.trans (cwPut_mem ..), (hcw n).trans hput⟩
  · split <;> exact ⟨cwPut_mem .., hput⟩

theorem landWord_takes (n : Nat) (x : W64) (s : State) :
    ∃ t, landWord n x s = .next t ∧ cwGet t.tile n = cwWritten (cwGet s.tile n) n x ∧ t.tile.mem = s.tile.mem ∧ t.rest = s.rest :=
  ⟨_, rfl, (cwWrite_takes _ _ _ (hereCyc s)).2, (cwWrite_takes _ _ _ (hereCyc s)).1, rfl⟩

/-- A mailbox that a word of WRW lands in: the arrivals counted in the same cycle are added. -/
theorem mbLand_adds (t : Tile) (n : Nat) (v : W64) (now : Nat) : (mbLand t n v now).mem = t.mem
    ∧ cwGet (mbLand t n v now) n = setBits (cwWritten (cwGet t n) n v) 0 32 ((cwWritten (cwGet t n) n v).toNat % 2 ^ 32 + (mbOf t n now).1)
      ||| (if (mbOf t n now).2 then 0x8000000000000000 else 0) := by
  obtain ⟨hmem, hcw⟩ := cwWrite_takes t n v now
  refine ⟨(cwPut_mem ..).trans hmem, (cwGet_cwPut ..).trans ?_⟩
  rw [if_pos rfl, hcw]
  rfl

theorem execXbWrite_bound {s : State} {x : W64}
    (h : x.toNat / 2 ^ 12 % 2 ^ 9 * 4096 < 0x1000 ∨ (cwGet s.tile 0x011).toNat < x.toNat / 2 ^ 12 % 2 ^ 9 * 4096) :
    execXbWrite x s = .next (takeTrap s 0x07 x s.tile.th.pc) := by
  rw [← Nat.shiftRight_eq_div_pow] at h
  exact if_pos h

theorem execXbWrite_takes {s : State} {x : W64} (hlow : 0x1000 ≤ x.toNat / 2 ^ 12 % 2 ^ 9 * 4096)
    (hhigh : x.toNat / 2 ^ 12 % 2 ^ 9 * 4096 ≤ (cwGet s.tile 0x011).toNat) :
    ∃ t, execXbWrite x s = .next t ∧ cwGet t.tile 0x010 = x &&& 0x1FF000 := by
  rw [← Nat.shiftRight_eq_div_pow] at hlow hhigh
  exact ⟨_, if_neg (fun h => by rcases h with h | h <;> exact absurd h (not_lt.2 ‹_›)), (cwWrite_takes _ _ _ (hereCyc s)).2⟩

end Sys2Proof.Machine
end
section
/-! PROOFS. Benches, containment, debugging and landings: every clause by its step's lemma (O59). -/

namespace Sys2Proof

open Machine

/-- Settles O59: each step at its tile or partition, by the lemma that says what it comes to there. -/
theorem benchDebugAndLandingEvents : Obligations.BenchDebugAndLandingEvents := by
  unfold Obligations.BenchDebugAndLandingEvents
  intro s u v w site pid id line n x q q' b
  refine ⟨?accept, ?take, ?periodic, ?flip, ?quarryFlip, ?request, ?sweep, ?sealing, ?sealed, ?haulRead, ?haulWrite, ?pages, ?stored, ?pfail, ?containment,
    ?drainedBoot, ?drained, ?preempted, ?ended, ?left, ?tileHalt, ?halt, ?stepDone, ?gangStop, ?gangResume, ?dbgctlHalt, ?dbgWrites, ?finj, ?deferred,
    ?inject, ?batch, ?sink, ?scrub, ?xb, ?words, ?mailbox⟩
  -- requests and flips
  case accept =>
    intro o hfind hacc
    show execBenchAccept pid s = _
    simp only [execBenchAccept, hfind, hacc]
  case take =>
    intro y k hfind htake
    show execBenchAccept pid s = _
    simp only [execBenchAccept, hfind, htake]
  case periodic =>
    intro hq hmode hst hdue hcut hcap hacc
    show execPeriodicBench pid s = _
    simp only [execPeriodicBench, hq, hmode, hst, hdue, hcut, hcap, hacc, Option.isSome_none, Bool.or_self, Bool.false_eq_true, if_false, and_self, if_true,
      Option.getD_some]
  case flip =>
    intro hu hq hb hopt hcol hops
    show execBenchFlip site s = _
    rw [execBenchFlip, atTile_eq hu]
    simp only [hq, hb, hopt, hcol, hops, decide_false, Bool.or_self, Bool.false_eq_true, if_false, List.isEmpty_nil, Bool.not_true]
  case quarryFlip =>
    intro hq due
    refine ⟨fun hnone => ?_, fun hsome hb => ?_⟩
    · show Host.Outcome.next (quarryFlip s pid n) = _
      simp only [quarryFlip, hq]
      rw [show q.benches.find? _ = none from hnone]
    · obtain ⟨y, hy, hacks, hfrozen, hquarry, hshared⟩ := quarryFlip_flips hq hsome hb
      exact ⟨_, y, rfl, hy, hacks, hfrozen, hquarry, hshared⟩
  case request =>
    intro ws hq
    refine ⟨fun y hy => acceptBench_joins hq hy, fun hc h => acceptBench_waits hq hc h, fun hc hcap hset =>
      ⟨fun h => acceptBench_fails hq hc hcap hset (newBench_none hq h), fun k g hk hg => ?_⟩⟩
    obtain ⟨t, r, y, hnew, hr, hcol, hy, hst, hgen, hcut, hacks, hfrozen, hshared⟩ := newBench_begins (n := n) hq hk hg
    refine ⟨_, _, acceptBench_begins hq hc hcap hset hnew, benchOf_updBench (fun _ => rfl) hr hy, hst, hgen, hcut, rfl, hacks, hfrozen, hshared, fun r' hr' => ?_⟩
    rw [partnOf_updBench hr] at hr'
    cases hr'
    exact hcol
  case sweep =>
    intro c hu hcap hdone hlt hpage hheld hcopy hp hs
    exact execBenchSweep_line hu hcap hdone hlt hpage hheld hcopy hp hs
  -- sealing, haul and the failure of power
  case sealing => exact execBenchSeal_seals
  case sealed =>
    intro hq hb hplain
    obtain ⟨hseq, hbench⟩ := sealBench_bench hq hb hplain
    exact ⟨hbench, hseq, sealBench_tile hq hb hplain⟩
  case haulRead =>
    intro y g hpick hq hb hhaul hplace
    exact ⟨fun z hnext hroom => execHaulPage_takes hq hb hpick hhaul hplace hnext hroom, fun hnext hin => execHaulPage_ends hq hb hpick hhaul hplace hnext hin⟩
  case haulWrite =>
    intro g r hpick hq hb hin
    exact execHaulPage_writes hq hb hpick hin
  case pages =>
    intro himgs
    exact ⟨fun f r hf => ⟨_, _, nextPage_frozen himgs hf, rfl, rfl, rfl, rfl, rfl⟩,
      fun o k r bytes hf hs hread => ⟨_, _, nextPage_shared himgs hf hs hread, rfl, rfl, rfl, rfl⟩, nextPage_none himgs⟩
  case stored =>
    intro kind origin page hlen hkind horigin bs body
    rcases pageBody_cases page with hraw | ⟨z, hz, hshort, hunlz⟩
    · obtain ⟨hbody, hform, hrest⟩ := pageBytes_fields id hraw (by norm_num) hkind horigin (by rw [hlen]; norm_num)
      refine ⟨.inl ⟨hform, hbody⟩, ?_⟩
      rw [show body = page from hbody]
      exact hrest
    · obtain ⟨hbody, hform, hrest⟩ := pageBytes_fields id hz (by norm_num) hkind horigin (by omega)
      rw [show body = z from hbody]
      exact ⟨.inr ⟨hform, hshort, hunlz⟩, hrest⟩
  case pfail =>
    refine ⟨_, rfl, rfl, fun hhaul => ?_⟩
    obtain ⟨hquarry, htile⟩ := storeOnly_writeIncomplete s
    simp only [powerFail, hhaul, List.foldl_nil]
    exact ⟨hquarry, htile⟩
  -- containment and the ends of partitions
  case containment =>
    intro t hq hst hb hc ht hheld
    exact execContainment_one hq hst hb hc ht hheld
  case drainedBoot => exact execContainmentDrained_boot
  case drained => exact execContainmentDrained_frees
  case preempted => exact execPreemptionCaptured_benched
  case ended => exact execPartitionEnd_ends
  case left => exact ⟨rfl, rfl, rfl, rfl, rfl, rfl, fun k hk => cwGet_leaveTile _ hk⟩
  -- halts and the debug words
  case tileHalt =>
    intro c hu hc h
    exact execTileHalt_halts hu hc h
  case halt =>
    intro c hh t
    have hhalt := haltHere_tile hh c
    exact ⟨hhalt.halted, hhalt.cause, hhalt.stepping, hhalt.bit, hhalt.code, by rw [hhalt.cycle]; simp, hhalt.messages, hhalt.th, hhalt.mem,
      fun h => haltHere_partns h c, fun h hq hn => haltHere_gang h hq hn c⟩
  case stepDone => exact execStepDone_halts
  case gangStop =>
    intro h hq hh hc
    exact execGangStop_stops hq hh hc
  case gangResume =>
    intro h r hq hh hr hc
    exact execGangResume_resumes hq hh hr hc
  case dbgctlHalt => exact execDbgctlHalt_asks
  case dbgWrites =>
    intro hu hh
    exact ⟨execDbgpcWrite_halted x hu hh, execStepcntWrite_halted x hu hh, execDbgctlResume_halted hu hh, execDbgctlStep_steps hu hh⟩
  case finj => exact execFinjWrite_stores x
  case deferred => exact execFaultInjectDeferred_injects
  case inject =>
    intro word loc bit t mark hb harm htwo
    obtain ⟨hth, hmem, hsoft, hword⟩ := injectNow_one hb harm htwo
    refine ⟨hword, hmem.trans (injectBit_keeps _ _ _ _).1, fun h => ?_, fun h hl k => ?_, fun h k => ?_, fun h k => ?_, fun h k => ?_⟩
    · exact hsoft.trans (by rw [h]; exact injectBit_soft ..)
    · refine (congrArg (fun y => cellGet y.x k) hth).trans ?_
      rw [h, injectBit_x _ hl]
      exact cellGet_flipCell ..
    · refine (congrArg (fun y => cellGet y.v k) hth).trans ?_
      rw [h, injectBit_v]
      exact cellGet_flipCell ..
    · refine (congrArg (fun y => cellGet y.acc k) hth).trans ?_
      rw [h, injectBit_acc]
      exact cellGet_flipCell ..
    · refine (congrArg (fun y => cellGet y.latch k) hth).trans ?_
      rw [h, injectBit_latch]
      exact cellGet_flipCell ..
  -- the trace sink and the scrubber
  case batch =>
    intro k next hu hf hon hlen hroom hr hw z hz d t
    exact execTraceBatchWrite_batch hu hf hon hlen rfl hroom hr hw hz
  case sink => exact fun k hk => sinkNext_full hk
  case scrub =>
    intro hu due
    have hcyc : u.cyc = s.cyc := by
      rw [hu.2, focus_cyc]
    refine ⟨fun hs => ?_, fun h => ?_⟩
    · obtain ⟨t, ht, rfl⟩ := execSramScrub_reads (line := due) hu (by rw [hcyc]; rfl) (by rwa [hcyc])
      rw [hcyc] at ht
      exact ⟨_, ht, rfl, rfl, rfl, rfl⟩
    · exact execSramScrub_idle hu (by rwa [hcyc])
  -- words that land
  case xb => exact ⟨execXbWrite_takes, execXbWrite_bound⟩
  case words =>
    simp only [List.forall_mem_cons, List.not_mem_nil, false_implies, implies_true, and_true]
    exact ⟨landWord_takes 0x000 x s, landWord_takes 0x001 x s, landWord_takes 0x002 x s, landWord_takes 0x120 x s⟩
  case mailbox =>
    intro k y late
    obtain ⟨hmem, hcw⟩ := mbLand_adds s.tile k x (hereCyc s)
    exact ⟨_, rfl, hmem, rfl, hcw⟩

end Sys2Proof
end
section
/-! PROOFS. Transfers, links and loops: where a bundle goes next, and the loop words that it leaves (R98 to R104). -/

namespace Sys2Proof.Machine

open Sys2Proof

/-! ## Targets and links (R98 to R100) -/

/-- A link is an address of 21 bits in a register of 64. -/
theorem nextAddr_link (s : State) :
    (nextAddr s).setWidth 64 = BitVec.ofNat 64 ((s.tile.iss.addr.toNat + 4 * s.tile.iss.words.length) % 2 ^ 21) := by
  apply BitVec.eq_of_toNat_eq
  simp [nextAddr]

/-- An offset counts words. -/
theorem relTarget_ofInt (s : State) (k : BitVec 21) : relTarget s k = BitVec.ofInt 21 (s.tile.iss.addr.toNat + 4 * k.toInt) := by
  have hshift : k <<< 2 = BitVec.ofInt 21 (4 * k.toInt) := by
    rw [BitVec.ofInt_mul, BitVec.ofInt_toInt, BitVec.shiftLeft_eq_mul_twoPow, BitVec.mul_comm]
    rfl
  rw [relTarget, hshift, BitVec.ofInt_add, BitVec.ofInt_natCast, BitVec.ofNat_toNat, BitVec.setWidth_eq]

theorem and_three_eq_zero_iff (v : W64) : v &&& 3 = 0 ↔ v.toNat % 4 = 0 := by
  rw [show (3 : W64) = BitVec.ofNat 64 (2 ^ 2 - 1) from rfl, and_mask, ← BitVec.toNat_inj, BitVec.toNat_ofNat]
  show v.toNat % 2 ^ 2 % 2 ^ 64 = 0 ↔ _
  omega

theorem jumpReg_aligned (s : State) {v : W64} (h : v.toNat % 4 = 0) : jumpReg s v = jumping s (BitVec.ofNat 21 v.toNat) := by
  rw [jumpReg, if_pos ((and_three_eq_zero_iff v).2 h), BitVec.ofNat_toNat]
  rfl

theorem jumpReg_misaligned (s : State) {v : W64} (h : v.toNat % 4 ≠ 0) : jumpReg s v = raise s [(0x06, v)] := by
  rw [jumpReg, if_neg (mt (and_three_eq_zero_iff v).1 h), addCause_raise]

section forms
variable {c : Ctl} {s : State} (hr : runs s c)
include hr

theorem exec_br_jumps (k : BitVec 21) : exec (.br c k) s = .next (jumping s (relTarget s k)) := plain_on (fun s => addJump s (relTarget s k)) hr

theorem exec_call_jumps (k : BitVec 21) :
    exec (.call c k) s = .next (jumping (emit s [⟨1, false, .x 1 ((nextAddr s).setWidth 64)⟩]) (relTarget s k)) :=
  plain_on (fun s => addJump (addX s 1 1 ((nextAddr s).setWidth 64)) (relTarget s k)) hr

theorem exec_jr_jumps (a : Reg) : exec (.jr c a) s = .next (jumpReg s (X s a)) := plain_on (fun s => jumpReg s (X s a)) hr

theorem exec_jalr_jumps (d a : Reg) :
    exec (.jalr c d a) s = .next (jumpReg (emit s (xOut 1 false d ((nextAddr s).setWidth 64))) (X s a)) := by
  rw [← addX_emit]
  exact plain_on (fun s => jumpReg (addX s 1 d ((nextAddr s).setWidth 64)) (X s a)) hr

end forms

/-! ## The fields of a loop word (R101) -/

/-- The active bit is the top bit. -/
theorem active_iff (v : W64) : v.getLsbD 63 = true ↔ 2 ^ 63 ≤ v.toNat := by
  rw [← BitVec.msb_eq_getLsbD_last, BitVec.msb_eq_decide, decide_eq_true_iff]

theorem lcWord_fields {fin start count : Nat} (hf : fin < 2 ^ 21) (hf4 : fin % 4 = 0) (hs : start < 2 ^ 21) (hs4 : start % 4 = 0) (hc : count < 2 ^ 25) :
    (lcWord fin start count).getLsbD 63 = true ∧ 4 * bitsOf (lcWord fin start count) 44 19 = fin
      ∧ 4 * bitsOf (lcWord fin start count) 25 19 = start ∧ bitsOf (lcWord fin start count) 0 25 = count := by
  have hn : (lcWord fin start count).toNat = 2 ^ 63 + fin / 4 * 2 ^ 44 + start / 4 * 2 ^ 25 + count := by
    rw [lcWord, BitVec.toNat_ofNat]
    omega
  simp only [active_iff, bitsOf, Nat.shiftRight_eq_div_pow, hn]
  omega

/-- One iteration counted off leaves the other fields. -/
theorem countedOff_fields {v : W64} (h : 1 < v.toNat % 2 ^ 25) :
    (v - 1).getLsbD 63 = v.getLsbD 63 ∧ bitsOf (v - 1) 44 19 = bitsOf v 44 19 ∧ bitsOf (v - 1) 25 19 = bitsOf v 25 19
      ∧ (v - 1).toNat % 2 ^ 25 = v.toNat % 2 ^ 25 - 1 := by
  have hn : (v - 1).toNat = v.toNat - 1 := BitVec.toNat_sub_of_le (show 1 ≤ v.toNat by omega)
  have hlt := v.isLt
  rw [Bool.eq_iff_iff]
  simp only [active_iff, bitsOf, Nat.shiftRight_eq_div_pow, hn]
  omega

/-! ## LOOP and LPOP (R102, R104) -/

/-- LOOP by its checks in their order. -/
theorem exec_loop_eq {c : Ctl} {s : State} (r : Reg) (k : BitVec 16) (hr : runsUser s c) :
    let start := s.tile.iss.addr.toNat + 4 * s.tile.iss.words.length
    let fin := s.tile.iss.addr.toNat + 4 * k.toNat
    let lc0 := cwGet s.tile 0x070
    let lc1 := cwGet s.tile 0x071
    let t := X s r
    exec (.loop c r k) s = .next
      (if fin < start ∨ 0x200000 ≤ fin ∨ (lc0.getLsbD 63 = true ∧ lc1.getLsbD 63 = true) then refusedAs s
       else if 2 ^ 25 ≤ t.toNat then raise s [(0x07, t)]
       else if t.toNat = 0 then loopSkip s fin
       else updIss s (fun i => { i with loops := some (lcWord fin start t.toNat, if lc0.getLsbD 63 then lc0 else lc1) })) := by
  intro start fin lc0 lc1 t
  have hzero : t.toNat = 0 ↔ t = 0 := BitVec.toNat_inj (y := (0 : W64))
  show execLoop c r k s = _
  rw [execLoop, userSlot_on _ hr, ← illop_raise, ← addCause_raise]
  simp only [hzero, ← or_assoc]
  by_cases hrange : fin < start ∨ 0x200000 ≤ fin
  · rw [if_pos hrange, if_pos (.inl hrange)]
  · rw [if_neg hrange]
    exact congrArg _ (if_congr (and_comm.trans (or_iff_right hrange).symm) rfl rfl)

/-! ## The end of a loop (R103) -/

/-- A loop word is active and its last bundle is the one at `a`. -/
abbrev loopEndsAt (v : W64) (a : Nat) : Prop := v.getLsbD 63 = true ∧ a = 4 * bitsOf v 44 19

theorem loopEnd_eq (lc0 lc1 : W64) (a : Nat) : loopEnd lc0 lc1 a =
    if loopEndsAt lc0 a then
      if 1 < lc0.toNat % 2 ^ 25 then (lc0 - 1, lc1, some (4 * bitsOf lc0 25 19))
      else if loopEndsAt lc1 a then
        if 1 < lc1.toNat % 2 ^ 25 then (lc1 - 1, 0, some (4 * bitsOf lc1 25 19)) else (0, 0, none)
      else (lc1, 0, none)
    else (lc0, lc1, none) := by
  simp only [loopEnd, Bool.and_eq_true, decide_eq_true_iff]
  rfl

/-! ## The loop words and the next address after the commit of a bundle (R97 to R104) -/

theorem cwGet_flowChecked_loops (i : Issue) (t : Tile) :
    cwGet (flowChecked i t) 0x070 = (flowWords i t).1 ∧ cwGet (flowChecked i t) 0x071 = (flowWords i t).2 := by
  unfold flowChecked
  cases t.sup <;> simp [cwGet_commitSig, cwGet_cwPut]

theorem flowWords_none {i : Issue} (t : Tile) (h : i.loops = none) : flowWords i t = ((flowLoop i t).1, (flowLoop i t).2.1) := by
  simp only [flowWords, h]

theorem flowWords_some {i : Issue} (t : Tile) {x y : W64} (h : i.loops = some (x, y)) :
    flowWords i t = (x, if i.lpop = true then y else if (flowLoop i t).1.getLsbD 63 = true then (flowLoop i t).1 else (flowLoop i t).2.1) := by
  simp only [flowWords, h, lcAct]
  split <;> rfl

/-- A user bundle without a transfer, a task switch or an LPOP of its own is handled by the loop words that it finds. -/
theorem flowLoop_stored {t : Tile} (h : t.iss.sys = none) : flowLoop t.iss (commitUnits t.iss (storedTile t)) =
    if t.sup = false ∧ t.iss.jump = none ∧ t.iss.lpop = false then loopEnd (cwGet t 0x070) (cwGet t 0x071) t.iss.addr.toNat
    else (cwGet t 0x070, cwGet t 0x071, none) := by
  rw [flowLoop, sup_unitsStored, cwGet_unitsStored _ (by decide) (by decide), cwGet_unitsStored _ (by decide) (by decide), switching_none _ h]
  refine if_congr ?_ rfl rfl
  cases t.sup <;> cases t.iss.jump <;> cases t.iss.lpop <;> simp

section plain
variable {s : State} (beats : Nat) (hg : plainGroup s.tile.iss) (hp : s.tile.poison = []) (hs : s.tile.soft = [])
include hg hp hs

theorem commitBundle_loops :
    cwGet (commitBundle s beats).tile 0x070 = (flowWords s.tile.iss (commitUnits s.tile.iss (storedTile s.tile))).1
      ∧ cwGet (commitBundle s beats).tile 0x071 = (flowWords s.tile.iss (commitUnits s.tile.iss (storedTile s.tile))).2 := by
  rw [commitBundle_cw beats hg hp hs (by decide) (by decide), commitBundle_cw beats hg hp hs (by decide) (by decide)]
  exact cwGet_flowChecked_loops ..

/-- Without a transfer of its own the bundle is followed by the target of its back-edge, after two squashed cycles, or by its neighbour. -/
theorem commitBundle_next (hj : s.tile.iss.jump = none) {back : Option Nat}
    (hb : (flowLoop s.tile.iss (commitUnits s.tile.iss (storedTile s.tile))).2.2 = back) :
    (commitBundle s beats).tile.th.pc
        = (back.map (BitVec.ofNat 21)).getD (s.tile.iss.addr + BitVec.ofNat 21 (4 * s.tile.iss.words.length))
      ∧ (commitBundle s beats).tile.th.squash = if back.isSome then 2 else 0 := by
  obtain ⟨-, -, -, -, hcomp, -, -⟩ := id hg
  rw [commitBundle_th beats hg hp hs, flowedTile, commitFlow_eq]
  simp only [flowNext, hj, hb, hcomp]
  cases back <;> exact ⟨rfl, rfl⟩

end plain

end Sys2Proof.Machine

namespace Sys2Proof

open Machine

/-- Settles O23: the slots by their guard, a register's target by its two low bits. -/
theorem transfersAndLinks : Obligations.TransfersAndLinks := by
  unfold Obligations.TransfersAndLinks
  intro c d a k s hr base next va
  have hnext : (nextAddr s).setWidth 64 = next := nextAddr_link s
  have hjalr := exec_jalr_jumps hr d a
  rw [hnext] at hjalr
  refine ⟨?br, ?call, fun h => ⟨?jr, ?jalr⟩, fun h => ⟨?jrAlign, ?jalrAlign⟩⟩
  case br => rw [exec_br_jumps hr, relTarget_ofInt]
  case call => rw [exec_call_jumps hr, relTarget_ofInt, hnext]
  case jr => rw [exec_jr_jumps hr, jumpReg_aligned s h]
  case jalr => rw [hjalr, jumpReg_aligned _ h]
  case jrAlign => rw [exec_jr_jumps hr, jumpReg_misaligned s h]
  case jalrAlign => rw [hjalr, jumpReg_misaligned _ h]

/-- Settles O24: the checks of LOOP in their order, then its count: too great, zero, or set with the fields of the loop word. -/
theorem loopForms : Obligations.LoopForms := by
  unfold Obligations.LoopForms
  refine ⟨fun c r k s hr => ?_, fun c s hr => plain_on (fun s => updIss s (fun i => { i with loops := some (cwGet s.tile 0x071, 0), lpop := true })) hr⟩
  intro start fin lc0 lc1 t
  refine ⟨fun h => (exec_loop_eq r k hr).trans (congrArg _ (if_pos h)), fun hlow hhigh hact => ?_⟩
  have hopen : ¬(fin < start ∨ 0x200000 ≤ fin ∨ (lc0.getLsbD 63 = true ∧ lc1.getLsbD 63 = true)) := by
    rintro (h | h | h)
    · exact absurd h (not_lt.2 hlow)
    · exact absurd h (not_le.2 hhigh)
    · exact hact h
  have heq := (exec_loop_eq r k hr).trans (congrArg _ (if_neg hopen))
  have hskip (h0 : t.toNat = 0) : exec (.loop c r k) s = .next (loopSkip s fin) :=
    heq.trans (congrArg _ ((if_neg (h0.trans_lt (by norm_num)).not_ge).trans (if_pos h0)))
  refine ⟨fun h => heq.trans (congrArg _ (if_pos h)), fun h0 ws hw => ?words, fun h0 hw => ?noStop, fun h0 a hw => ?xfetch, fun h0 h hal => ?set⟩
  case words | noStop | xfetch =>
    rw [hskip h0, loopSkip, hw]
    rfl
  case set => exact ⟨_, heq.trans (congrArg _ ((if_neg (not_le.2 h)).trans (if_neg h0.ne'))), lcWord_fields hhigh (by omega) (by omega) (by omega) h⟩

/-- Settles O25: the branches of loop-end processing, then the stage of the commit that makes the transfer. That a LOOP in the bundle that ends
the enclosing loop keeps in LC1 what this loop end leaves is the model's choice (log 19). -/
theorem loopEndProcessing : Obligations.LoopEndProcessing := by
  unfold Obligations.LoopEndProcessing
  intro lc0 lc1 a ends n
  refine ⟨fun h => ?elsewhere, fun h hn => ?again, fun h hn h1 => ?popped, fun h hn h1 hn1 => ?outerAgain, fun h hn h1 hn1 => ?bothPopped,
    fun s beats hg hp hs => ?commit⟩
  case elsewhere => rw [loopEnd_eq, if_neg h]
  case again =>
    obtain ⟨hact, hfin, hstart, hcount⟩ := countedOff_fields hn
    exact ⟨lc0 - 1, by rw [loopEnd_eq, if_pos h, if_pos hn], hact.trans h.1, hfin, hstart, hcount⟩
  case popped => rw [loopEnd_eq, if_pos h, if_neg (not_lt.2 hn), if_neg h1]
  case outerAgain =>
    obtain ⟨hact, hfin, hstart, hcount⟩ := countedOff_fields hn1
    exact ⟨lc1 - 1, by rw [loopEnd_eq, if_pos h, if_neg (not_lt.2 hn), if_pos h1, if_pos hn1], hact.trans h1.1, hfin, hstart, hcount⟩
  case bothPopped => rw [loopEnd_eq, if_pos h, if_neg (not_lt.2 hn), if_pos h1, if_neg (not_lt.2 hn1)]
  case commit =>
    intro i t e
    obtain ⟨-, -, -, hsys, -, -, -⟩ := id hg
    have hloop : flowLoop i (commitUnits i (storedTile s.tile)) = e := flowLoop_stored hsys
    obtain ⟨h0, h1⟩ := commitBundle_loops beats hg hp hs
    refine ⟨fun h => ?_, fun x y h => ?_, fun b hj hb => ?_, fun hj hb => ?_⟩
    · rw [flowWords_none _ h, hloop] at h0 h1
      exact ⟨h0, h1⟩
    · rw [flowWords_some _ h, hloop] at h0 h1
      exact ⟨h0, h1⟩
    · exact commitBundle_next beats hg hp hs hj (by rw [hloop, hb])
    · exact commitBundle_next beats hg hp hs hj (by rw [hloop, hb])

end Sys2Proof
end
section
/-! PROOFS. The SYS functions of either mode, and what the commit of their bundle does (R110, R366 to R368). -/

namespace Sys2Proof.Machine

open Sys2Proof

/-! ## SSTAT.PMASK (R368) -/

theorem getLsbD_pmaskBit {b : Nat} (hb : b < 64) : (0x40000 : W64).getLsbD b = decide (b = 18) := by
  interval_cases b <;> decide

/-- MASKP leaves PMASK set, and gives 4096 cycles where it was clear. -/
theorem maskTasks_masks (t : Tile) : pmasked (maskTasks t) = true
    ∧ (maskTasks t).disp.maskLeft = if pmasked t then t.disp.maskLeft else 4096 := by
  unfold maskTasks
  cases hm : pmasked t with
  | true => exact ⟨hm, rfl⟩
  | false => exact ⟨by rw [if_neg Bool.false_ne_true, pmasked, cwGet_cwPut, if_pos rfl, BitVec.getLsbD_or, getLsbD_pmaskBit (by decide)]; simp, rfl⟩

/-- UNMASKP clears PMASK and no other bit of SSTAT. -/
theorem getLsbD_clearMask (t : Tile) {b : Nat} (hb : b < 64) :
    (cwGet (clearMask t) 0x104).getLsbD b = (decide (b ≠ 18) && (cwGet t 0x104).getLsbD b) := by
  rw [clearMask, cwGet_cwPut, if_pos rfl, BitVec.getLsbD_and, BitVec.getLsbD_not, getLsbD_pmaskBit hb, decide_eq_true hb, Bool.true_and, ← decide_not,
    Bool.and_comm]

/-- A slot of SYS leaves its function and its operand for the commit. -/
theorem plain_addSys {c : Ctl} {s : State} (fn : Nat) (v : State → W64) (hr : runs s c) :
    plain c s (fun s => addSys s fn (v s)) = .next (acting s fn (v s)) := plain_on _ hr

end Sys2Proof.Machine

namespace Sys2Proof

open Machine

/-- Settles O27: each slot leaves its function, and the commit performs it. -/
theorem systemFormsOfBothModes : Obligations.SystemFormsOfBothModes := by
  unfold Obligations.SystemFormsOfBothModes
  intro c a s hr
  refine ⟨plain_addSys 0x03 (fun s => X s a) hr, plain_addSys 0x04 (fun _ => 0) hr, plain_addSys 0x05 (fun _ => 0) hr,
    plain_addSys 0x06 (fun _ => 0) hr, plain_addSys 0x10 (fun _ => 0) hr, fun i u => ⟨fun v h => ?idle, fun v h => ?ifence, fun v h => ?maskp,
    fun v h b hb => ?unmaskp, fun v h => ?sync⟩⟩
  case idle => simp only [commitSys, h]
  case ifence => simp only [commitSys, h]
  case maskp =>
    simp only [commitSys, h]
    exact maskTasks_masks u.tile
  case unmaskp =>
    simp only [commitSys, h]
    exact getLsbD_clearMask u.tile hb
  case sync =>
    simp only [commitSys, h]
    rfl

end Sys2Proof
end
section
/-! PROOFS. Scalar and vector loads and stores (R117, R119, R127 to R130). -/

namespace Sys2Proof.Machine

open Sys2Proof

/-! ## Bytes of SRAM and of a register (R3) -/

theorem getD_readBytes (m : Memory) (a : Nat) {n i : Nat} (hi : i < n) : (readBytes m a n).getD i 0 = cellGet m (a + i) := by
  induction n generalizing a i with
  | zero => omega
  | succ n ih =>
    cases i with
    | zero => rfl
    | succ i => rw [readBytes, List.getD_cons_succ, ih _ (Nat.lt_of_succ_lt_succ hi), Nat.add_right_comm, Nat.add_assoc]

/-- Element `e` of eight bits of a little-endian number is its byte `e`. -/
theorem digitAt_leNat (l : List Byte) (e : Nat) : digitAt 8 (leNat l) e = (l.getD e 0).toNat := by
  refine Nat.eq_of_testBit_eq fun i => ?_
  rw [digitAt, Nat.testBit_mod_two_pow, Nat.testBit_div_two_pow, BitVec.testBit_toNat]
  by_cases hi : i < 8
  · rw [decide_eq_true hi, Bool.true_and, Nat.add_comm, testBit_leNat l e hi]
  · rw [decide_eq_false hi, Bool.false_and, BitVec.getLsbD_of_ge _ _ (not_lt.1 hi)]

/-- The little-endian bytes of a register, each as a shift of it. -/
theorem leBytes_shifts {w : Nat} (v : BitVec w) (n : Nat) : leBytes v.toNat n = (upto n).map (fun i => (v >>> (8 * i)).setWidth 8) := by
  refine List.ext_getElem (by simp [leBytes_length, upto]) fun i hi _ => ?_
  rw [leBytes_length] at hi
  rw [← List.getD_eq_getElem _ 0, getD_leBytes _ hi]
  simp only [upto, List.getElem_map, List.getElem_range]
  apply BitVec.eq_of_toNat_eq
  rw [BitVec.toNat_ofNat, BitVec.toNat_setWidth, BitVec.toNat_ushiftRight, Nat.shiftRight_eq_div_pow, pow_mul]
  rfl

/-! ## SRAM as a load finds it (R119) -/

theorem lastStored_none {l : List (Nat × Byte)} {a : Nat} (h : ∀ p ∈ l, p.1 ≠ a) : lastStored l a = none := by
  induction l with
  | nil => rfl
  | cons p r ih =>
    obtain ⟨hp, hr⟩ := List.forall_mem_cons.1 h
    rw [lastStored, ih hr]
    exact if_neg hp

/-- A byte on which no halo row lands reads as it stands. -/
theorem cellGet_seen_of_ne {s : State} {a : Nat} (h : ∀ x ∈ s.tile.haloOld, x.addr ≠ a) : cellGet (seen s) a = cellGet s.tile.mem a := by
  unfold seen
  split
  · rfl
  · rw [cellGet_sets, lastStored_none, Option.getD_none]
    intro p hp
    obtain ⟨q, hq, rfl⟩ := List.mem_map.1 hp
    exact h _ (List.fst_mem_of_mem_zipIdx (List.mem_of_mem_filter hq))

/-- A byte on which one halo row lands reads as it stands or as it stood before. -/
theorem cellGet_seen_single {s : State} {x : HaloByte} (h : s.tile.haloOld = [x]) :
    cellGet (seen s) x.addr = cellGet s.tile.mem x.addr ∨ cellGet (seen s) x.addr = x.old := by
  have hne : s.tile.haloOld ≠ [] := h ▸ List.cons_ne_nil _ _
  rw [seen, if_neg hne, h]
  cases hold : Config.oldByte s.free 0 with
  | true =>
    right
    simp [hold, cellGet_sets, lastStored]
  | false =>
    left
    simp [hold, cellSets]

/-! ## Slots that load or store (R117) -/

section forms
variable {c : Ctl} {s : State} {i : Instr} {ea : Int} {al : Nat} (f : State → State) (hr : runs s c)
include hr

/-- A slot that loads, whatever results it makes of the value. -/
theorem loadForm_of {n : Nat} {k : State → Nat → State} {out : Nat → List Flight} (hi : exec i s = plain c s f)
    (hf : f s = loadWith s ea n al k) (hk : ∀ t v, k t v = emit t (out v)) : loadForm i s ea n al out := by
  rw [loadForm, hi, plain_on _ hr, hf, loadWith_cases, hk]
  rfl

/-- A slot that stores bytes. -/
theorem storeForm_of {bs : List Byte} (hi : exec i s = plain c s f) (hf : f s = storeWith s ea al bs) :
    storeForm i s ea al bs := by
  rw [storeForm, hi, plain_on _ hr, hf, storeWith_cases]
  rfl

end forms

/-! ## Scalar loads and stores (R127 to R129) -/

/-- The value of a load, extended from its top bit or with zeros. -/
theorem loadVal_extends (w : BitVec 2) (x : BitVec 1) (v : Nat) :
    loadVal w x v = if x = 1 then BitVec.ofInt 64 (Int.bmod v (2 ^ (8 * 2 ^ w.toNat))) else BitVec.ofNat 64 v := by
  rw [loadVal, sextNat_bmod v (by positivity)]

theorem lsAddr_eq (s : State) (a : Reg) (w : BitVec 2) (k : BitVec 8) :
    lsAddr s a w k = (X s a).toNat + k.toInt * ((2 ^ w.toNat : Nat) : Int) := by
  push_cast
  rfl

theorem lsxAddr_eq (s : State) (a b : Reg) (sc : BitVec 1) (w : BitVec 2) :
    lsxAddr s a b sc w = (X s a).toNat + (X s b).toInt * (if sc = 1 then ((2 ^ w.toNat : Nat) : Int) else 1) := by
  push_cast
  rfl

/-! ## Vector loads and stores (R130) -/

theorem elemOf_vMask {w e : Nat} (base n : Nat) (he : e < 2048 / w) :
    elemOf (vMask (w * base) (w * n)) w e = if base ≤ e ∧ e < base + n then 2 ^ w - 1 else 0 := by
  rw [vMask, elemOf_ofNat (elem_bound he), digitAt_shifted, digitAt_ones, ← ite_and]
  exact if_congr (by omega) rfl rfl

/-- A load of `n` bytes writes the bytes of a register from byte `base` on and no other. -/
theorem writesElems_loaded (m : Memory) (a base n : Nat) :
    writesElems 8 (vMask (8 * base) (8 * n)) (BitVec.ofNat 2048 (readLe m a n * 2 ^ (8 * base)))
      (fun i => if base ≤ i ∧ i < base + n then some (cellGet m (a + i - base)).toNat else none) := by
  intro e he
  have hmask := elemOf_vMask base n he
  by_cases h : base ≤ e ∧ e < base + n
  · rw [if_pos h] at hmask
    simp only [h, and_self, if_true]
    refine ⟨hmask, ?_⟩
    rw [elemOf_ofNat (elem_bound he), digitAt_shifted, if_pos h.1, readLe, digitAt_leNat, getD_readBytes m a (by omega),
      Nat.add_sub_assoc h.1, Nat.mod_eq_of_lt (BitVec.isLt _)]
  · rw [if_neg h] at hmask
    simp only [h, if_false]
    exact hmask

/-- Only the elements of a register matter. -/
theorem writesElems_congr {w : Nat} {mask val : BitVec 2048} {g h : Nat → Option Nat} (hw : writesElems w mask val g)
    (hgh : ∀ e, e < 2048 / w → g e = h e) : writesElems w mask val h := fun e he => hgh e he ▸ hw e he

section vector
variable {c : Ctl} {s : State} {i : Instr} {d a : Reg} {k : BitVec 9} {n : Nat} (base : Nat) (hr : runs s c)
  (hi : exec i s = plain c s (fun s => loadV s d (vlsAddr s a k) n (8 * base)))
include hr hi

/-- A vector load writes the bytes that it reads, with latency 6. -/
theorem loadV_lands (hok : accessFaults s.tile (vlsAddr s a k) n 128 = []) :
    ∃ mask val, exec i s = .next (emit (reading s (vlsAddr s a k).toNat n) [⟨6, true, .v d mask val⟩])
      ∧ writesElems 8 mask val
        (fun e => if base ≤ e ∧ e < base + n then some (cellGet (seen s) ((vlsAddr s a k).toNat + e - base)).toNat else none) := by
  refine ⟨_, _, ?_, writesElems_loaded (seen s) (vlsAddr s a k).toNat base n⟩
  rw [hi, plain_on _ hr, loadV, loadWith_cases, if_pos hok]
  rfl

theorem loadV_faults (hbad : accessFaults s.tile (vlsAddr s a k) n 128 ≠ []) :
    exec i s = .next (raise s (accessFaults s.tile (vlsAddr s a k) n 128)) := by
  rw [hi, plain_on _ hr, loadV, loadWith_cases, if_neg hbad]

end vector

/-- A store of a whole register. -/
theorem exec_vst {c : Ctl} {s : State} (d a : Reg) (k : BitVec 9) (hr : runs s c) :
    storeForm (.vst c d a k) s ((X s a).toNat + k.toInt * 128) 128 ((upto 256).map (fun i => ((V s d) >>> (8 * i)).setWidth 8)) := by
  rw [← leBytes_shifts]
  exact storeForm_of (fun s => storeWith s (vlsAddr s a k) 128 (bytesOf (V s d))) hr rfl rfl

end Sys2Proof.Machine

namespace Sys2Proof

open Machine

/-- Settles O33: a load is the access with its checks, then the value extended. -/
theorem loads : Obligations.Loads := by
  unfold Obligations.Loads
  refine ⟨fun s a => cellGet_seen_of_ne, fun s a x h hx => hx ▸ cellGet_seen_single h, fun c d a b w x sc k s hr => ⟨?ld, ?ldx⟩⟩
  case ld =>
    rw [← lsAddr_eq]
    exact loadForm_of (fun s => loadX s d (lsAddr s a w k) w x) hr rfl rfl fun t v => by rw [addX_emit, loadVal_extends]
  case ldx =>
    rw [← lsxAddr_eq]
    exact loadForm_of (fun s => loadX s d (lsxAddr s a b sc w) w x) hr rfl rfl fun t v => by rw [addX_emit, loadVal_extends]

/-- Settles O34: a store is the access with its checks, then the register's low bytes. -/
theorem stores : Obligations.Stores := by
  unfold Obligations.Stores
  intro c d a b w sc k s hr n bs
  have hlen : bs.length = n := by simp [bs, upto]
  have hbs : bs = leBytes (X s d).toNat n := (leBytes_shifts _ _).symm
  refine ⟨?st, ?stx⟩
  case st =>
    rw [← lsAddr_eq, hbs]
    exact storeForm_of (fun s => storeX s d (lsAddr s a w k) w) hr rfl rfl
  case stx =>
    rw [← lsxAddr_eq, hbs]
    exact storeForm_of (fun s => storeX s d (lsxAddr s a b sc w) w) hr rfl rfl

/-- Settles O35: byte by byte, for a load by the bytes that it puts into the register. -/
theorem vectorLoadsAndStores : Obligations.VectorLoadsAndStores := by
  unfold Obligations.VectorLoadsAndStores
  intro c d a k s hr ea
  have hst : exec (.vst c d a k) s = _ := exec_vst d a k hr
  simp only [upto, List.length_map, List.length_range] at hst
  refine ⟨fun hok => ⟨hst.trans (congrArg _ (if_pos hok)), ?vld⟩,
    fun hbad => List.forall_mem_cons.2 ⟨hst.trans (congrArg _ (if_neg hbad)), List.forall_mem_singleton.2 (loadV_faults 0 hr rfl hbad)⟩,
    fun hok => List.forall_mem_cons.2 ⟨loadV_lands 0 hr rfl hok, List.forall_mem_singleton.2 (loadV_lands 128 hr rfl hok)⟩,
    fun hbad => List.forall_mem_cons.2 ⟨loadV_faults 0 hr rfl hbad, List.forall_mem_singleton.2 (loadV_faults 128 hr rfl hbad)⟩⟩
  case vld =>
    obtain ⟨mask, val, hex, hw⟩ := loadV_lands (i := .vld c d a k) (d := d) 0 hr rfl hok
    exact ⟨mask, val, hex, writesElems_congr hw fun e he => if_pos ⟨e.zero_le, by omega⟩⟩

end Sys2Proof
end
section
/-! PROOFS. Gathers, scatters and masked transfers (R117, R131, R132). -/

namespace Sys2Proof.Machine

open Sys2Proof

/-! ## Enabled lanes and their addresses -/

/-- The lanes with their addresses, as the forms that share a rule of addresses list them. -/
def lanesAt (s : State) (m : BitVec 3) (addr : Nat → Int) : List (Nat × Int) := (laneList s m).map (fun i => (i, addr i))

theorem laneAddrs_index (s : State) (a b : Reg) (z : Nat) (m : BitVec 3) : laneAddrs s a (some b) z m = lanesAt s m (laneAddr s a b z) := rfl

theorem laneAddrs_row (s : State) (a : Reg) (z : Nat) (m : BitVec 3) : laneAddrs s a none z m = lanesAt s m (rowAddr s a) := rfl

theorem laneList_nodup (s : State) (m : BitVec 3) : (laneList s m).Nodup := List.nodup_range.filter _

theorem laneList_lt {s : State} {m : BitVec 3} {l : Nat} (h : l ∈ laneList s m) : l < 64 := List.mem_range.1 (List.mem_of_mem_filter h)

section lanes
variable (s : State) (addr : Nat → Int) (z : Nat) (m : BitVec 3)

/-! ## The checks of the lanes (R117) -/

theorem laneFaults_nil_iff : laneFaults s addr z m = [] ↔ ∀ i ∈ laneList s m, spanOk s.tile (addr i) z = true ∧ addr i % (z : Int) = 0 := by
  have hfind : laneFaults s addr z m = [] ↔ (laneList s m).find? (fun i => !spanOk s.tile (addr i) z) = none
      ∧ (laneList s m).find? (fun i => decide (addr i % (z : Int) ≠ 0)) = none := by
    unfold laneFaults
    generalize (laneList s m).find? (fun i => !spanOk s.tile (addr i) z) = x
    generalize (laneList s m).find? (fun i => decide (addr i % (z : Int) ≠ 0)) = y
    cases x <;> cases y <;> simp
  rw [hfind, List.find?_eq_none, List.find?_eq_none]
  simp [← forall_and]

/-- The lanes pass where no cause is found. -/
theorem lanesOk_iff : lanesOk s (lanesAt s m addr) z = true ↔ laneFaults s addr z m = [] := by
  rw [laneFaults_nil_iff]
  simp [lanesOk, lanesAt, accessOk, rangeOk_spanOk]

/-- The causes found are raised. -/
theorem checkLanes_raise : checkLanes s (lanesAt s m addr) z = raise s (laneFaults s addr z m) := by
  unfold checkLanes laneFaults lanesAt
  simp only [rangeOk_spanOk, List.find?_map, Function.comp_def]
  generalize (laneList s m).find? (fun i => !spanOk s.tile (addr i) z) = x
  generalize (laneList s m).find? (fun i => decide (addr i % (z : Int) ≠ 0)) = y
  cases x <;> cases y <;> simp [addCause_raise, raise_raise, raise_nil]

/-! ## Gathers and scatters (R131) -/

theorem readLe_lt (M : Memory) (a n : Nat) : readLe M a n < 256 ^ n := by
  unfold readLe
  induction n generalizing a with
  | zero => exact one_pos
  | succ n ih =>
    have hb := (cellGet M a).isLt
    have := ih (a + 1)
    rw [readBytes, leNat, pow_succ]
    omega

/-- The bytes of the lanes are marked as read, in order. -/
def readingLanes (s : State) (addr : Nat → Int) (z : Nat) (m : BitVec 3) : State :=
  updIss s (fun i => { i with reads := i.reads ++ (laneList s m).map (fun l => ((addr l).toNat, z)) })

theorem addRead_foldl (l : List (Nat × Int)) : l.foldl (fun t p => addRead t p.2.toNat z) s
    = updIss s (fun i => { i with reads := i.reads ++ l.map (fun p => (p.2.toNat, z)) }) := by
  induction l generalizing s with
  | nil => simp [updIss]
  | cons p r ih =>
    rw [List.foldl_cons, ih]
    simp [addRead, updIss]

theorem addRead_lanes : (lanesAt s m addr).foldl (fun t p => addRead t p.2.toNat z) s = readingLanes s addr z m := by
  rw [addRead_foldl, lanesAt, List.map_map]
  rfl

/-- A gather whose lanes pass writes the enabled elements as a vector result does. -/
theorem gather_addV {d a : Reg} {idx : Option Reg} (hz : z ≤ 4) (hls : laneAddrs s a idx z m = lanesAt s m addr) (hok : laneFaults s addr z m = []) :
    gather s d a idx z m = addV (readingLanes s addr z m) 12 d 32
      ((laneList s m).map (fun l => (l, readLe (seen s) (addr l).toNat z))) := by
  have hlt (l : Nat) : readLe (seen s) (addr l).toNat z % 2 ^ 32 = readLe (seen s) (addr l).toNat z :=
    Nat.mod_eq_of_lt ((readLe_lt _ _ _).trans_le (Nat.pow_le_pow_right (by norm_num) hz))
  rw [gather, hls, if_pos ((lanesOk_iff s addr z m).2 hok), addRead_lanes, addV, elemMask]
  simp only [lanesAt, List.foldl_map, List.map_map, Function.comp_def, hlt]
  rfl

end lanes

section forms
variable {c : Ctl} {s : State} {i : Ctl → Instr} {d a : Reg} {idx : Option Reg} {addr : Nat → Int} {z : Nat} {m : BitVec 3}
  (hls : laneAddrs s a idx z m = lanesAt s m addr)
include hls

theorem gatherForm_of (hr : runs s c) (hz : z ≤ 4) (hi : exec (i c) s = plain c s (fun s => gather s d a idx z m)) :
    gatherForm i s c addr z d m := by
  refine ⟨fun hok => ?_, fun hbad => ?_⟩
  · obtain ⟨mask, val, hout, hw⟩ := addV_out_map
      (readingLanes s addr z m)
      12 d 32 (fun l => readLe (seen s) (addr l).toNat z) (laneList_nodup s m) (fun _ _ => rfl) (fun _ => laneList_lt)
    refine ⟨mask, val, ?_, hw⟩
    rw [hi, plain_on _ hr, gather_addV s addr z m hz hls hok, hout]
    rfl
  · rw [hi, plain_on _ hr, gather, hls, if_neg (mt (lanesOk_iff s addr z m).1 hbad), checkLanes_raise]

theorem scatterForm_of (hr : runs s c) (hi : exec (i c) s = plain c s (fun s => scatter s d a idx z m)) : scatterForm i s c addr z d m := by
  rw [scatterForm, hi, plain_on _ hr, scatter, hls, checkLanes_raise, if_congr (lanesOk_iff s addr z m) rfl rfl, lanesAt, List.map_map]
  rfl

end forms

end Sys2Proof.Machine

namespace Sys2Proof

open Machine

/-- Settles O36: the forms differ in the lanes' addresses and in the size of an access. -/
theorem gathersAndScatters : Obligations.GathersAndScatters := by
  unfold Obligations.GathersAndScatters
  intro c d a b m s hr
  have hindex (z : Nat) := laneAddrs_index s a b z m
  have hrow := laneAddrs_row s a 4 m
  exact ⟨gatherForm_of (hindex 4) hr le_rfl rfl, gatherForm_of (hindex 2) hr (by norm_num) rfl, gatherForm_of (hindex 1) hr (by norm_num) rfl,
    gatherForm_of hrow hr le_rfl rfl, scatterForm_of (hindex 4) hr rfl, scatterForm_of (hindex 2) hr rfl, scatterForm_of (hindex 1) hr rfl,
    scatterForm_of hrow hr rfl⟩

end Sys2Proof
end
section
/-! PROOFS. The layout table instructions and the code writes (R117, R133, R134). -/

namespace Sys2Proof.Machine

open Sys2Proof

/-! ## Parts of a layout entry (R133) -/

/-- Two words as one layout entry. -/
theorem append_words (x y : W64) : y ++ x = BitVec.ofNat 128 (y.toNat * 2 ^ 64 + x.toNat) := by
  apply BitVec.eq_of_toNat_eq
  rw [BitVec.toNat_append, ← Nat.shiftLeft_add_eq_or_of_lt x.isLt, BitVec.toNat_ofNat, Nat.shiftLeft_eq, Nat.mod_eq_of_lt]
  have hx := x.isLt
  have hy := y.isLt
  omega

/-- The base of an entry is the word within 21 bits. -/
theorem setWidth_base (x : W64) : x.setWidth 128 &&& 0x1FFFFF = BitVec.ofNat 128 (x.toNat % 2 ^ 21) := by
  have hx := x.isLt
  apply BitVec.eq_of_toNat_eq
  rw [BitVec.toNat_and, show (0x1FFFFF : BitVec 128).toNat = 2 ^ 21 - 1 from rfl, Nat.and_two_pow_sub_one_eq_mod, BitVec.toNat_setWidth,
    BitVec.toNat_ofNat]
  omega

/-! ## Code writes (R134) -/

theorem atAddr_fst (a : Nat) (bs : List Byte) : (atAddr a bs).map (·.1) = (upto bs.length).map (fun k => a + k) := by
  induction bs generalizing a with
  | nil => rfl
  | cons b r ih =>
    rw [atAddr, List.map_cons, ih, List.length_cons]
    simp [upto, List.range_succ_eq_map, Nat.add_assoc, Nat.add_comm 1]

/-- The words covered whole depend on the addresses alone. -/
theorem wholeWords_congr {l l' : List (Nat × Byte)} (h : l.map (·.1) = l'.map (·.1)) : wholeWords l = wholeWords l' := by
  have hkeys (l : List (Nat × Byte)) : wholeWords l = (((l.map (·.1)).map (· / 8)).dedup).filter
      (fun w => (upto 8).all (fun i => (l.map (·.1)).any (fun a => decide (a = 8 * w + i)))) := by
    simp [wholeWords, List.any_map, Function.comp_def]
  rw [hkeys, hkeys, h]

theorem leBytes_drop (v n k : Nat) : (leBytes v n).drop k = leBytes (v / 256 ^ k) (n - k) := by
  induction k generalizing v n with
  | zero => simp
  | succ k ih =>
    cases n with
    | zero => simp [leBytes]
    | succ n => rw [leBytes, List.drop_succ_cons, ih, Nat.div_div_eq_div_mul, ← pow_succ', Nat.add_sub_add_right]

theorem leBytes_take (v : Nat) {n m : Nat} (h : m ≤ n) : (leBytes v n).take m = leBytes v m := by
  induction m generalizing v n with
  | zero => rfl
  | succ m ih =>
    obtain ⟨n, rfl⟩ := Nat.exists_eq_succ_of_ne_zero (by omega : n ≠ 0)
    rw [leBytes, leBytes, List.take_succ_cons, ih _ (by omega)]

/-- The words that a code write makes of the bytes of a register are its 32-bit elements. -/
theorem leNat_word {w : Nat} (v : BitVec w) {n j : Nat} (h : 4 * j + 4 ≤ n) :
    leNat (((leBytes v.toNat n).drop (4 * j)).take 4) = elemOf v 32 j := by
  rw [leBytes_drop, leBytes_take _ (by omega), leNat_leBytes, show 256 ^ (4 * j) = 2 ^ (32 * j) by rw [pow_mul, pow_mul]; rfl,
    ← Nat.shiftRight_eq_div_pow]
  rfl

/-- The lowest element of a word. -/
theorem ofNat_elemOf_zero {w : Nat} (v : BitVec w) (n : Nat) : BitVec.ofNat n (elemOf v n 0) = v.setWidth n := by
  apply BitVec.eq_of_toNat_eq
  simp [elemOf, bitsOf]

/-- A code write of bytes of a register: the causes of its address, or its words. -/
theorem codeForm_of {c : Ctl} {s : State} {i : Instr} {w ea n al : Nat} {ws : List (Nat × BitVec 32)} (f : State → State) (v : BitVec w)
    (hr : runs s c) (hi : exec i s = plain c s f) (hf : f s = codeStore s ea al (leBytes v.toNat n))
    (hws : (upto (n / 4)).map (fun j => (ea + 4 * j, BitVec.ofNat 32 (elemOf v 32 j))) = ws) : codeForm i s ea n al ws := by
  have hwhole : wholeWords (atAddr ea (leBytes v.toNat n)) = wholeWords ((upto n).map (fun k => (ea + k, (0 : Byte)))) :=
    wholeWords_congr (by rw [atAddr_fst, leBytes_length]; simp)
  have hwords : (upto (n / 4)).map (fun j => (ea + 4 * j, BitVec.ofNat 32 (leNat (((leBytes v.toNat n).drop (4 * j)).take 4)))) = ws := by
    rw [← hws]
    refine List.map_congr_left fun j hj => ?_
    have := List.mem_range.1 hj
    rw [leNat_word v (by omega)]
  rw [codeForm, hi, plain_on _ hr, hf]
  congr 1
  unfold codeStore
  simp only [leBytes_length, hwhole, hwords, decide_eq_true_eq, addCause_raise, raise_unless]
  simp only [raise_raise]
  by_cases h : ea + n ≤ (cwGet s.tile 0x010).toNat ∧ ea % al = 0
  · obtain ⟨hin, hal⟩ := h
    simp only [xbOf, hin, hal, and_self, if_true, List.append_nil, raise_nil]
  · rw [if_neg h]
    exact if_neg h

end Sys2Proof.Machine

namespace Sys2Proof

open Machine

/-- Settles O37: accesses of 16 bytes, results by the numbers of the words, code writes by the words that they hold. -/
theorem layoutTableAndCode : Obligations.LayoutTableAndCode := by
  unfold Obligations.LayoutTableAndCode
  intro c d a b s hr
  have haddr : effAddr (X s a) 0 = (X s a).toNat := add_zero _
  refine ⟨?ltld, ?ltst, ?ltw, ?ltrl, ?ltrh, ?ltbase, ?istw, ?istv⟩
  case ltld =>
    rw [← haddr]
    exact loadForm_of (fun s => loadWith s (effAddr (X s a) 0) 16 16 (fun s v => addFlight s 4 false (.lt d ltAll (BitVec.ofNat 128 v)))) hr rfl rfl
      fun t v => addFlight_emit t 4 false _
  case ltst =>
    rw [← haddr, ← leBytes_shifts]
    exact storeForm_of (fun s => storeWith s (effAddr (X s a) 0) 16 (bytesOf (LT s d.toNat))) hr rfl rfl
  case ltw =>
    rw [← append_words]
    exact plain_on (fun s => addFlight s 1 false (.lt d ltAll (X s b ++ X s a))) hr
  case ltrl => exact plain_addX 1 d (fun s => (LT s a.toNat).setWidth 64) hr
  case ltrh =>
    rw [← Nat.shiftRight_eq_div_pow, ← BitVec.toNat_ushiftRight]
    exact plain_addX 1 d (fun s => (LT s a.toNat >>> 64).setWidth 64) hr
  case ltbase =>
    rw [← setWidth_base]
    exact plain_on (fun s => addFlight s 1 false (.lt d 0x1FFFFF ((X s a).setWidth 128 &&& 0x1FFFFF))) hr
  case istw =>
    refine codeForm_of (fun s => codeStore s (X s a).toNat 4 (leBytes (X s b).toNat 4)) (X s b) hr rfl rfl ?_
    rw [← ofNat_elemOf_zero]
    rfl
  case istv => exact codeForm_of (fun s => codeStore s (X s a).toNat 256 (bytesOf (V s b))) (V s b) hr rfl rfl rfl

end Sys2Proof
end
section
/-! PROOFS. The message forms at issue (R126, R185, R201, R203 to R208, R295, R296). -/

namespace Sys2Proof.Machine

open Sys2Proof

/-! ## What a slot hands to the engines -/

theorem addOp_handed (s : State) (o : EngOp) : addOp s o = handed s o := rfl

theorem addSpan_spanning (s : State) (e : BitVec 128) (write : Bool) : addSpan s e write = spanning s e write := rfl

theorem checkLt_raise (s : State) (n : Nat) (dest : Bool) : checkLt s n dest = raise s (layoutFault s n dest) := by
  rw [checkLt, addCause_raise, raise_unless]
  rfl

theorem engOp_fields (s : State) (k : EngKind) (tok : Reg) (x y z : W64) (lts : List (BitVec 128)) : engOp s k tok x y z lts =
    { kind := k, word := s.tile.iss.words.getD s.tile.iss.slot 0, uid := s.tile.th.uid, tok := tok, a := x, b := y, c := z, lts := lts, rng := [],
      grp := (cwGet s.tile 0x020).setWidth 16, mask := (cwGet s.tile 0x021).setWidth 32, lvt := cwGet s.tile 0x030, six := s.tile.vt.six,
      seg := curSeg s.tile, cyc := s.cyc } := by
  rw [← ofNat_elemOf_zero, ← ofNat_elemOf_zero]
  rfl

/-- An E-class slot that raises causes, marks spans and hands on an operation. -/
theorem engineForm_of {c : Ctl} {s : State} {i : Instr} {causes : List (Nat × W64)} {spans : List (BitVec 128 × Bool)} {o : EngOp}
    (f : State → State) (hi : exec i s = engSlot c s f) (hf : f s = handed (spans.foldl (fun s p => spanning s p.1 p.2) (raise s causes)) o) :
    engineForm c s i causes spans o := fun hr => by rw [hi, engSlot_on _ hr, hf]

/-! ## SEND (R201, R295, R296) -/

/-- The causes of a send: its layout entry and, in an optimistic partition, a message that is not eager. -/
def sendFaults (s : State) (forced : Bool) (l : BitVec 5) : List (Nat × W64) :=
  layoutFault s l.toNat false
    ++ (if isOpt s.tile = true ∧ (forced = true ∨ (cwGet s.tile 0x022).toNat % 2 ^ 14 < ltSize (LT s l.toNat))
      then [(0x18, BitVec.ofNat 64 (ltSize (LT s l.toNat)))] else [])

/-- A send with its causes, to the receiver or, where it is not admissible, back to the sender. -/
theorem sendSlot_handed (forced : Bool) (t a b : Reg) (l : BitVec 5) (s : State) : sendSlot forced t a b l s
    = if isOpt s.tile = true ∧ admissible s.tile (X s b) = false
      then handed (raise s (sendFaults s forced l)) (engOp s .backSend t (X s a) (X s b) 0 [LT s l.toNat])
      else handed (spanning (raise s (sendFaults s forced l)) (LT s l.toNat) false) (engOp s (.send forced) t (X s a) (X s b) 0 [LT s l.toNat]) := by
  have hlate : (isOpt s.tile && (forced || decide (eagerLimit s.tile < ltSize (LT s l.toNat)))) = true
      ↔ isOpt s.tile = true ∧ (forced = true ∨ (cwGet s.tile 0x022).toNat % 2 ^ 14 < ltSize (LT s l.toNat)) := by
    rw [Bool.and_eq_true, Bool.or_eq_true, decide_eq_true_iff]
    rfl
  have hback : (isOpt s.tile && !admissible s.tile (X s b)) = true ↔ isOpt s.tile = true ∧ admissible s.tile (X s b) = false := by
    rw [Bool.and_eq_true, Bool.not_eq_true']
  have hcauses : (if (isOpt s.tile && (forced || decide (eagerLimit s.tile < ltSize (LT s l.toNat)))) = true
      then addCause (checkLt s l.toNat false) 0x18 (BitVec.ofNat 64 (ltSize (LT s l.toNat))) else checkLt s l.toNat false)
      = raise s (sendFaults s forced l) := by
    rw [if_congr hlate rfl rfl, checkLt_raise, addCause_raise, raise_raise, sendFaults]
    split
    · rfl
    · rw [List.append_nil]
  rw [sendSlot, hcauses, if_congr hback rfl rfl]
  rfl

theorem send_engineForm {c : Ctl} {s : State} {t a b : Reg} {l : BitVec 5} {i : Instr} (forced : Bool)
    (hi : exec i s = engSlot c s (sendSlot forced t a b l)) :
    if isOpt s.tile = true ∧ admissible s.tile (X s b) = false
    then engineForm c s i (sendFaults s forced l) [] (engOp s .backSend t (X s a) (X s b) 0 [LT s l.toNat])
    else engineForm c s i (sendFaults s forced l) [(LT s l.toNat, false)] (engOp s (.send forced) t (X s a) (X s b) 0 [LT s l.toNat]) := by
  have hslot := sendSlot_handed forced t a b l s
  split
  next h => exact engineForm_of _ hi (hslot.trans (if_pos h))
  next h => exact engineForm_of _ hi (hslot.trans (if_neg h))

/-! ## CANCEL, WAITANY and ENVR (R206 to R208) -/

/-- CANCEL names a register other than x0. -/
theorem exec_cancel_handed (c : Ctl) (s : State) {a : Reg} (h : a ≠ 0) : engineForm c s (.cancel c a) [] [] (engOp s (.cancel a) 0 0 0 0 []) :=
  engineForm_of (fun s => if a = 0 then illop s else addOp s (engOp s (.cancel a) 0 0 0 0 [])) rfl (by rw [if_neg h, List.foldl_nil, raise_nil]; rfl)

/-- The first register of the set, but x0, that is not pending. -/
theorem find_anySet (v : W64) (p : Nat → Bool) : (anySet v).find? p = (upto 32).find? (fun n => decide (n ≠ 0) && v.getLsbD n && p n) := by
  rw [anySet, List.find?_filter, List.find?_filter]
  refine congrArg (fun q => List.find? q (upto 32)) (funext fun n => ?_)
  cases v.getLsbD n <;> simp

/-- What ENVR reads: a doubleword of the envelope in the slot that a handle names, where it is of the handle's generation. -/
def envelopeWord (s : State) (handle index : W64) : W64 :=
  let slot := handle.toNat % 256
  let gen := handle.toNat / 256 % 256
  if gen ≠ 0 ∧ (cellGet s.tile.eng.envGen slot).toNat = gen
  then BitVec.ofNat 64 ((cellGet s.tile.eng.env slot).toNat / 2 ^ (64 * (index.toNat % 8)) % 2 ^ 64) else BitVec.allOnes 64

/-- A handle of a generation other than 0 is not 0, and its slot and generation are its two low bytes. -/
theorem execEnvr_emit {c : Ctl} {s : State} (d a b : Reg) (hr : runsUser s c) :
    execEnvr c d a b s = .next (emit s (xOut 2 false d (envelopeWord s (X s a) (X s b)))) := by
  have hlow : bitsOf (X s a) 0 16 = (X s a).toNat % 2 ^ 16 := rfl
  have hslot : bitsOf (X s a) 0 16 % 256 = (X s a).toNat % 256 := by omega
  have hgen : bitsOf (X s a) 0 16 / 256 = (X s a).toNat / 256 % 256 := by omega
  have hindex : bitsOf (X s b) 0 3 = (X s b).toNat % 8 := rfl
  have hok : (decide (bitsOf (X s a) 0 16 ≠ 0) && decide ((X s a).toNat / 256 % 256 ≠ 0)
      && decide ((cellGet s.tile.eng.envGen ((X s a).toNat % 256)).toNat = (X s a).toNat / 256 % 256)) = true
      ↔ (X s a).toNat / 256 % 256 ≠ 0 ∧ (cellGet s.tile.eng.envGen ((X s a).toNat % 256)).toNat = (X s a).toNat / 256 % 256 := by
    simp only [Bool.and_eq_true, decide_eq_true_eq]
    omega
  rw [execEnvr, engSlot_on _ hr]
  simp only [addX_emit, hslot, hgen, hindex, if_congr hok rfl rfl]
  simp only [envelopeWord, bitsOf, Nat.shiftRight_eq_div_pow]

end Sys2Proof.Machine

namespace Sys2Proof

open Machine

/-- Settles O53: each slot by its causes, its spans and the operation that it hands on. -/
theorem messageForms : Obligations.MessageForms := by
  unfold Obligations.MessageForms
  intro c t d a b l s e
  refine ⟨List.forall_mem_cons.2 ⟨send_engineForm false rfl, List.forall_mem_singleton.2 (send_engineForm true rfl)⟩, ?recv, ?probe,
    exec_cancel_handed c s, fun hr ha => ?cancelZero, fun hr => ⟨?testt, ?waitany, ?envr⟩, engOp_fields s⟩
  case recv =>
    refine engineForm_of (fun s => addOp (addSpan (checkLt s l.toNat true) (LT s l.toNat) true) (engOp s .recv t (X s a) 0 0 [LT s l.toNat])) rfl ?_
    simp only [checkLt_raise, addSpan_spanning, addOp_handed, List.foldl_cons, List.foldl_nil, e]
  case probe => exact engineForm_of (fun s => addOp s (engOp s .probe d (X s a) 0 0 [])) rfl (by rw [List.foldl_nil, raise_nil]; rfl)
  case cancelZero =>
    refine (engSlot_on (fun s => if a = 0 then illop s else addOp s (engOp s (.cancel a) 0 0 0 0 [])) hr).trans ?_
    rw [if_pos ha, illop_raise]
  case testt =>
    refine (engSlot_on (fun s => addX s 2 d (if isPend s.tile.th a.toNat then 1 else 0)) hr).trans ?_
    rw [addX_emit]
  case waitany =>
    refine (engSlot_on (fun s => addX s 1 d (BitVec.ofNat 64 (((anySet (X s a)).find? (fun n => !isPend s.tile.th n)).getD 0))) hr).trans ?_
    rw [addX_emit, find_anySet]
  case envr => exact execEnvr_emit d a b hr

end Sys2Proof
end
section
/-! PROOFS. F32 numbers beside an exact one: distances, rounding to the nearest, and the free choices of the special functions (R57, R144, log 6). -/

namespace Sys2Proof.Machine

open Sys2Proof

/-! ## Elements of F32 (R47, R53) -/

theorem f32_ok : FormatOk fF32 := formatOk_of_mem (by simp [floatFormats])

/-- An element of a format that stands for a finite number is a sign with a magnitude of the format. -/
theorem exists_magnitude {f : FloatFmt} (ok : FormatOk f) {bits : Nat} (h : bits < 2 ^ f.width) {neg : Bool} {m : Nat} {e : Int}
    (hv : floatVal f bits = .fin neg m e) :
    ∃ g, g ≤ f.top ∧ bits = signBit f neg + g ∧ m = gridMant f g ∧ e = ulpExp f g := by
  obtain ⟨sign, g, rfl, hg⟩ := exists_sign f h
  by_cases hle : g ≤ f.top
  · rw [floatVal_finite ok sign hle] at hv
    cases hv
    exact ⟨g, hle, rfl, rfl, rfl⟩
  · rw [floatVal_bits f sign hg, if_pos (not_le.1 hle)] at hv
    split at hv <;> cases hv

theorem gridMant_lt (f : FloatFmt) (n : Nat) : gridMant f n < 2 * 2 ^ f.frac := by
  have := Nat.mod_lt n (show 0 < 2 ^ f.frac by positivity)
  unfold gridMant
  split <;> omega

/-- The number of an element with a sign. -/
theorem floatVal_signed {f : FloatFmt} (ok : FormatOk f) (neg : Bool) {g : Nat} (h : g ≤ f.top) :
    IsFin (floatVal f (signBit f neg + g)) ∧ numVal (floatVal f (signBit f neg + g)) = signOf neg * gridVal f g := by
  rw [floatVal_finite ok neg h]
  exact ⟨isFin_fin .., numVal_grid f neg g⟩

theorem numVal_signed (neg : Bool) (m : Nat) (e : Int) : numVal (.fin neg m e) = signOf neg * numVal (.fin false m e) := by
  rw [numVal_fin, numVal_fin, signOf_false, one_mul, mul_assoc]

theorem abs_signOf_mul_sub (neg : Bool) (a b : ℚ) : |signOf neg * a - signOf neg * b| = |a - b| := by
  rw [← mul_sub, abs_mul]
  cases neg <;> simp

/-- The largest magnitude of F32. -/
theorem gridVal_top : gridVal fF32 fF32.top = (2 ^ 24 - 1) * 2 ^ 104 := by norm_num [gridVal, gridMant, gridUlp, fF32]

/-! ## Binades -/

/-- The binade of a positive number is that of its significand and its exponent. -/
theorem binade_bounds {m : Nat} (hm : m ≠ 0) (e : Int) : (2 : ℚ) ^ ((Nat.log2 m : Int) + e) ≤ numVal (.fin false m e)
    ∧ numVal (.fin false m e) < 2 ^ ((Nat.log2 m : Int) + e + 1) := by
  have hpos : 0 ≤ numVal (.fin false m e) := by rw [numVal_fin, signOf_false]; positivity
  have := numLog_bounds false hm e
  rwa [abs_of_nonneg hpos] at this

/-- A binade that reaches up to a bound below a power of two is not above it. -/
theorem binade_le {m : Nat} (hm : m ≠ 0) {e k : Int} (h : numVal (.fin false m e) < 2 ^ (k + 1)) : (Nat.log2 m : Int) + e ≤ k := by
  have := (zpow_lt_zpow_iff_right₀ one_lt_two).1 ((binade_bounds hm e).1.trans_lt h)
  omega

theorem le_binade {m : Nat} (hm : m ≠ 0) {e k : Int} (h : (2 : ℚ) ^ k ≤ numVal (.fin false m e)) : k ≤ (Nat.log2 m : Int) + e := by
  have := (zpow_lt_zpow_iff_right₀ one_lt_two).1 (h.trans_lt (binade_bounds hm e).2)
  omega

/-! ## Distances -/

/-- A number lies within a tolerance of another exactly if the distance of their values does. -/
theorem nearTo_iff {v x tol : Num} (hv : IsFin v) (hx : IsFin x) (ht : IsFin tol) : nearTo v x tol ↔ |numVal v - numVal x| ≤ numVal tol := by
  rw [nearTo, numCmp_le_zero hx (isFin_numAdd _ hv ht), numCmp_nonneg hx (isFin_numAdd _ hv (isFin_numNeg ht)), numVal_numAdd _ hv ht,
    numVal_numAdd _ hv (isFin_numNeg ht), numVal_numNeg, abs_le]
  constructor <;> rintro ⟨h1, h2⟩ <;> constructor <;> linarith

/-- The exponent of the least significant bit of F32 at a number (R144). -/
def stepExp (m : Nat) (e : Int) : Int := max ((Nat.log2 m : Int) + e) (-126) - 23

theorem ulps_fin (n : Nat) (neg : Bool) (m : Nat) (e : Int) : ulps n (.fin neg m e) = .fin false n (stepExp m e) := rfl

theorem isFin_ulps (n : Nat) {x : Num} (h : IsFin x) : IsFin (ulps n x) := by
  obtain ⟨neg, m, e, rfl⟩ := h
  exact isFin_fin ..

theorem numVal_ulps (n : Nat) (neg : Bool) (m : Nat) (e : Int) : numVal (ulps n (.fin neg m e)) = n * 2 ^ stepExp m e := by
  rw [ulps_fin, numVal_fin, signOf_false, one_mul]

theorem numVal_apart (n : Nat) : numVal (apart n) = 2 ^ (-(n : Int)) := by simp [apart, numVal_fin]

/-! ## Neighbours in F32 -/

/-- The step of a format at the truncation of a number is that of the number's binade. -/
theorem gridUlp_truncated (f : FloatFmt) {m : Nat} (hm : m ≠ 0) (e : Int) :
    gridUlp f (gridBits f .rtz false m e) = 2 ^ (max ((Nat.log2 m : Int) + e) (1 - (f.bias : Int)) - f.frac) := by
  obtain ⟨hlt, hnormal, hexp⟩ := significand_of_unit f hm e rfl rfl
  simp only [gridBits, hm, if_false]
  rw [(grid_of_significand f hlt hnormal).2, hexp]

theorem gridUlp_stepExp {m : Nat} (hm : m ≠ 0) (e : Int) : gridUlp fF32 (gridBits fF32 .rtz false m e) = 2 ^ stepExp m e := gridUlp_truncated fF32 hm e

/-- A number not beyond the largest magnitude is not truncated beyond it. -/
theorem gridBits_rtz_le {f : FloatFmt} (ok : FormatOk f) {m : Nat} {e : Int} (h : numVal (.fin false m e) ≤ gridVal f f.top) :
    gridBits f .rtz false m e ≤ f.top :=
  (gridVal_strictMono f).le_iff_le.1 ((gridBits_between f ok.frac m e).1.trans h)

theorem roundTo_rtz {f : FloatFmt} (ok : FormatOk f) (neg : Bool) {m : Nat} {e : Int} (h : numVal (.fin false m e) ≤ gridVal f f.top) :
    roundTo f .rtz false (.fin neg m e) = signBit f neg + gridBits f .rtz false m e := by
  have hbits : gridBits f .rtz neg m e = gridBits f .rtz false m e := by cases neg <;> simp [gridBits_mirror, mirror]
  rw [roundTo_fin, hbits, if_neg (not_lt.2 (gridBits_rtz_le ok h))]
  rfl

/-- Rounding to the nearest moves a number by half a step at most. -/
theorem gridBits_rne_near {f : FloatFmt} (ok : FormatOk f) (m : Nat) (e : Int) :
    |gridVal f (gridBits f .rne false m e) - numVal (.fin false m e)| ≤ gridUlp f (gridBits f .rtz false m e) / 2 := by
  obtain ⟨hlo, hhi⟩ := gridBits_between f ok.frac m e
  have hup := gridBits_up f ok.frac (mode := .rne) (fun _ h => by cases h) m e
  have hpos := gridUlp_pos f (gridBits f .rtz false m e)
  rw [gridVal_succ] at hhi
  rw [hup, roundsUp, gridPart, abs_le]
  split
  next h =>
    have hhalf : 1 / 2 ≤ (numVal (.fin false m e) - gridVal f (gridBits f .rtz false m e)) / gridUlp f (gridBits f .rtz false m e) := by
      rcases of_decide_eq_true h with h | h
      · exact h.le
      · exact h.1.ge
    rw [le_div_iff₀ hpos] at hhalf
    rw [gridVal_succ]
    constructor <;> linarith
  next h =>
    have hhalf := not_lt.1 (not_or.1 (mt decide_eq_true h)).1
    rw [div_le_iff₀ hpos] at hhalf
    rw [add_zero]
    constructor <;> linarith

/-- A number not beyond the largest magnitude is rounded to the nearest without overflow. -/
theorem gridBits_rne_le {f : FloatFmt} (ok : FormatOk f) {m : Nat} {e : Int} (h : numVal (.fin false m e) ≤ gridVal f f.top) :
    gridBits f .rne false m e ≤ f.top := by
  have hup := gridBits_up f ok.frac (mode := .rne) (fun _ h => by cases h) m e
  rcases (gridBits_rtz_le ok h).lt_or_eq with hlt | heq
  · split at hup <;> omega
  · have hval := le_antisymm h (heq ▸ (gridBits_between f ok.frac m e).1)
    exact (gridBits_exact f .rne false ok.frac hval).le

/-- Half a step of F32 at a number that is not zero: what rounding to the nearest moves it by at most. -/
def halfStep (m : Nat) (e : Int) : ℚ := if m = 0 then 0 else 2 ^ (stepExp m e - 1)

theorem halfStep_le (m : Nat) (e : Int) : halfStep m e ≤ 2 ^ (stepExp m e - 1) := by
  unfold halfStep
  split
  · positivity
  · exact le_rfl

theorem half_step_near (m : Nat) (e : Int) : |gridVal fF32 (gridBits fF32 .rne false m e) - numVal (.fin false m e)| ≤ halfStep m e := by
  by_cases hm : m = 0
  · have hbits : gridBits fF32 .rne false m e = 0 := if_pos hm
    rw [hbits, gridVal_zero, hm, numVal_zero, sub_zero, abs_zero]
    exact le_rfl
  · refine (gridBits_rne_near f32_ok m e).trans_eq ?_
    rw [gridUlp_stepExp hm, halfStep, if_neg hm, zpow_sub_one₀ two_ne_zero]
    rfl

/-- Rounding to the nearest in F32: a magnitude half a step away at most, with the sign. -/
theorem roundTo_rne_near (neg : Bool) {m : Nat} {e : Int} (h : numVal (.fin false m e) ≤ gridVal fF32 fF32.top) :
    ∃ g, g ≤ fF32.top ∧ roundTo fF32 .rne false (.fin neg m e) = signBit fF32 neg + g
      ∧ |gridVal fF32 g - numVal (.fin false m e)| ≤ halfStep m e := by
  have hbits : gridBits fF32 .rne neg m e = gridBits fF32 .rne false m e := by cases neg <;> simp [gridBits_mirror, mirror]
  refine ⟨_, gridBits_rne_le f32_ok h, ?_, half_step_near m e⟩
  rw [roundTo_fin, hbits, if_neg (not_lt.2 (gridBits_rne_le f32_ok h))]
  rfl

/-! ## A free value within a tolerance (log 6) -/

/-- What is chosen is the candidate where it is near enough, or else the nearest number. -/
theorem within_cases (x tol : Num) (cand : Nat) :
    (within x tol cand = cand ∧ IsFin (floatVal fF32 cand) ∧ nearTo (floatVal fF32 cand) x tol) ∨ within x tol cand = roundTo fF32 .rne false x := by
  unfold within
  cases h : floatVal fF32 cand with
  | nan | inf => exact .inr rfl
  | fin neg m e =>
    dsimp only
    split
    next hnear => exact .inl ⟨rfl, isFin_fin .., hnear⟩
    next => exact .inr rfl

/-- Where half a step is not more than the tolerance, the choice lies within it. -/
theorem within_near {neg : Bool} {m : Nat} {e : Int} {tol : Num} (cand : Nat) (ht : IsFin tol)
    (htop : numVal (.fin false m e) ≤ gridVal fF32 fF32.top) (hstep : halfStep m e ≤ numVal tol) :
    nearTo (floatVal fF32 (within (.fin neg m e) tol cand)) (.fin neg m e) tol := by
  rcases within_cases (.fin neg m e) tol cand with ⟨hw, -, hnear⟩ | hw
  · rwa [hw]
  · obtain ⟨g, hg, hround, hdist⟩ := roundTo_rne_near neg htop
    obtain ⟨hfin, hval⟩ := floatVal_signed f32_ok neg hg
    rw [hw, hround, nearTo_iff hfin (isFin_fin ..) ht, hval, numVal_signed, abs_signOf_mul_sub]
    exact hdist.trans hstep

/-- Of a number that is not negative, with a candidate without a sign, the choice is a magnitude. -/
theorem within_positive {m : Nat} {e : Int} {tol : Num} {cand : Nat} (hc : cand < 2 ^ 31) (ht : IsFin tol)
    (htop : numVal (.fin false m e) ≤ gridVal fF32 fF32.top) (hstep : halfStep m e ≤ numVal tol) :
    within (.fin false m e) tol cand ≤ fF32.top
    ∧ |gridVal fF32 (within (.fin false m e) tol cand) - numVal (.fin false m e)| ≤ numVal tol := by
  have hle : within (.fin false m e) tol cand ≤ fF32.top := by
    rcases within_cases (.fin false m e) tol cand with ⟨hw, ⟨neg, n, k, hfin⟩, -⟩ | hw
    · rw [hw]
      obtain ⟨g, hg, hbits, -⟩ := exists_magnitude f32_ok (hc.trans (by decide)) hfin
      cases neg with
      | false => simpa [signBit, hbits] using hg
      | true =>
        have hsign : signBit fF32 true = 2 ^ 31 := rfl
        omega
    · obtain ⟨g, hg, hround, -⟩ := roundTo_rne_near false htop
      rw [hw, hround]
      simpa [signBit] using hg
  obtain ⟨hfin, hval⟩ := floatVal_magnitude f32_ok hle
  refine ⟨hle, ?_⟩
  rw [← hval]
  exact (nearTo_iff hfin (isFin_fin ..) ht).1 (within_near cand ht htop hstep)

end Sys2Proof.Machine
end
section
/-! PROOFS. Quotients and roots with a sticky bit stand on the same side of short numbers as the exact ones do; VRCP and VRSQ (R144, log 6). -/

namespace Sys2Proof.Machine

open Sys2Proof

/-! ## Quotients -/

/-- Twice a truncated result, and a sticky bit where it is not exact. -/
def stickied (q : Nat) (exact : Prop) [Decidable exact] : Nat := 2 * q + if exact then 0 else 1

/-- A quotient with its sticky bit stands on the same side of a whole number as the exact quotient. -/
theorem quotient_side (a n N : Nat) (hn : 0 < n) :
    (stickied (a / n) (a % n = 0) ≤ 2 * N ↔ a ≤ N * n) ∧ (2 * N ≤ stickied (a / n) (a % n = 0) ↔ N * n ≤ a) := by
  have hq := Nat.div_add_mod' a n
  have hr := Nat.mod_lt a hn
  unfold stickied
  generalize a / n = q at *
  generalize a % n = r at *
  subst hq
  constructor
  · rcases Nat.lt_or_ge N q with h | h
    · have := Nat.mul_le_mul_right n h
      rw [Nat.succ_mul] at this
      split <;> omega
    · rcases h.eq_or_lt with rfl | h
      · split <;> omega
      · have := Nat.mul_le_mul_right n h
        rw [Nat.succ_mul] at this
        split <;> omega
  · rcases Nat.lt_or_ge q N with h | h
    · have := Nat.mul_le_mul_right n h
      rw [Nat.succ_mul] at this
      split <;> omega
    · have := Nat.mul_le_mul_right n h
      split <;> omega

/-- A number of 25 bits and a little more: a magnitude of F32 in half its unit, and its neighbours. -/
def shortBound : Nat := 2 ^ 25 + 4

/-- A value stands on the same side of every short number `y` as the number that the conditions `le y` and `ge y` compare. -/
def SameSide (d : ℚ) (le ge : ℚ → Prop) : Prop :=
  ∀ (Y : Nat) (p : Int), Y ≤ shortBound → (d ≤ Y * 2 ^ p ↔ le (Y * 2 ^ p)) ∧ (Y * 2 ^ p ≤ d ↔ ge (Y * 2 ^ p))

/-- The significand of a reciprocal with its sticky bit. -/
def rcpMant (n : Nat) : Nat := stickied (2 ^ (64 + Nat.log2 n + 1) / n) (2 ^ (64 + Nat.log2 n + 1) % n = 0)

theorem numDiv_one (neg : Bool) {n : Nat} (hn : n ≠ 0) (g : Int) :
    numDiv 64 (.fin false 1 0) (.fin neg n g) = .fin neg (rcpMant n) (-g - (64 + Nat.log2 n + 1 : Nat) - 1) := by
  simp only [numDiv, hn, one_ne_zero, if_false, Bool.false_bne, zero_sub, Nat.one_shiftLeft]
  rfl

/-- A reciprocal of more than 64 bits. -/
theorem le_rcpQuotient {n : Nat} (hn : n ≠ 0) : 2 ^ 64 ≤ 2 ^ (64 + Nat.log2 n + 1) / n := by
  rw [Nat.le_div_iff_mul_le (Nat.pos_of_ne_zero hn), Nat.add_assoc, pow_add]
  exact Nat.mul_le_mul_left _ Nat.lt_log2_self.le

theorem rcpMant_ne_zero {n : Nat} (hn : n ≠ 0) : rcpMant n ≠ 0 := by
  have := le_rcpQuotient hn
  unfold rcpMant stickied
  omega

/-- A short number over a power of two against the reciprocal of a significand. -/
theorem rcpMant_side {n : Nat} (hn : n ≠ 0) {Y : Nat} (hY : Y ≤ shortBound) (i : Int) :
    ((rcpMant n : ℚ) ≤ 2 * (Y * 2 ^ i) ↔ (2 : ℚ) ^ (64 + Nat.log2 n + 1) ≤ Y * 2 ^ i * n)
    ∧ (2 * (Y * 2 ^ i) ≤ (rcpMant n : ℚ) ↔ Y * 2 ^ i * n ≤ (2 : ℚ) ^ (64 + Nat.log2 n + 1)) := by
  rcases le_or_gt 0 i with hi | hi
  · obtain ⟨k, rfl⟩ := Int.eq_ofNat_of_zero_le hi
    have h := quotient_side (2 ^ (64 + Nat.log2 n + 1)) n (Y * 2 ^ k) (Nat.pos_of_ne_zero hn)
    rw [zpow_natCast]
    exact_mod_cast h
  · have hq : ((2 ^ 64 : Nat) : ℚ) ≤ (2 ^ (64 + Nat.log2 n + 1) / n : Nat) := by exact_mod_cast le_rcpQuotient hn
    have hmant : ((2 ^ (64 + Nat.log2 n + 1) / n : Nat) : ℚ) ≤ rcpMant n := by
      exact_mod_cast (by unfold rcpMant stickied; omega : 2 ^ (64 + Nat.log2 n + 1) / n ≤ rcpMant n)
    have hprod : ((2 ^ (64 + Nat.log2 n + 1) / n : Nat) : ℚ) * n ≤ 2 ^ (64 + Nat.log2 n + 1) := by
      exact_mod_cast Nat.div_mul_le_self (2 ^ (64 + Nat.log2 n + 1)) n
    have hsmall : (Y : ℚ) * 2 ^ i < 2 ^ 26 := by
      have hYq : (Y : ℚ) ≤ shortBound := by exact_mod_cast hY
      have hpow : (2 : ℚ) ^ i ≤ 1 := zpow_le_one_of_nonpos₀ one_le_two hi.le
      calc (Y : ℚ) * 2 ^ i ≤ shortBound * 1 := mul_le_mul hYq hpow (by positivity) (by positivity)
        _ < 2 ^ 26 := by norm_num [shortBound]
    have hnq : (0 : ℚ) < n := by exact_mod_cast Nat.pos_of_ne_zero hn
    have hfar : (Y : ℚ) * 2 ^ i * n < 2 ^ (64 + Nat.log2 n + 1) := by
      refine lt_of_lt_of_le (mul_lt_mul_of_pos_right ?_ hnq) hprod
      push_cast at hq ⊢
      linarith
    have hless : 2 * ((Y : ℚ) * 2 ^ i) < rcpMant n := by
      push_cast at hq
      linarith
    exact ⟨iff_of_false (not_le.2 hless) (not_le.2 hfar), iff_of_true hless.le hfar.le⟩

/-- The reciprocal with a sticky bit stands where the exact one does. -/
theorem numDiv_sameSide {n : Nat} (hn : n ≠ 0) (g : Int) :
    SameSide (numVal (numDiv 64 (.fin false 1 0) (.fin false n g))) (fun y => 1 ≤ y * numVal (.fin false n g)) (fun y => y * numVal (.fin false n g) ≤ 1) := by
  intro Y p hY
  obtain ⟨hle, hge⟩ := rcpMant_side hn hY (p + g + (64 + Nat.log2 n + 1 : Nat))
  rw [numDiv_one _ hn, numVal_fin, numVal_fin, signOf_false, one_mul, one_mul]
  generalize 64 + Nat.log2 n + 1 = j at *
  have hunit : (0 : ℚ) < 2 ^ (-g - (j : Int) - 1) := by positivity
  have hscale : (0 : ℚ) < 2 ^ (-(j : Int)) := by positivity
  have hY2 : (Y : ℚ) * 2 ^ p = 2 * (Y * 2 ^ (p + g + j)) * 2 ^ (-g - (j : Int) - 1) := by
    rw [mul_comm 2, mul_assoc, mul_assoc, ← zpow_one_add₀ two_ne_zero, ← zpow_add₀ two_ne_zero]
    congr 2
    ring
  have hprod : (Y : ℚ) * 2 ^ p * (n * 2 ^ g) = Y * 2 ^ (p + g + j) * n * 2 ^ (-(j : Int)) := by
    have : (2 : ℚ) ^ (p + g + j) * 2 ^ (-(j : Int)) = 2 ^ p * 2 ^ g := by
      rw [← zpow_add₀ two_ne_zero, ← zpow_add₀ two_ne_zero]
      congr 1
      ring
    linear_combination -((Y : ℚ) * n) * this
  have hone : (1 : ℚ) = 2 ^ j * 2 ^ (-(j : Int)) := by rw [← zpow_natCast, ← zpow_add₀ two_ne_zero, add_neg_cancel, zpow_zero]
  simp only [hprod]
  rw [hY2, mul_le_mul_iff_left₀ hunit, mul_le_mul_iff_left₀ hunit, hle, hge, hone, mul_le_mul_iff_left₀ hscale, mul_le_mul_iff_left₀ hscale]
  exact ⟨Iff.rfl, Iff.rfl⟩

/-! ## Square roots (R145) -/

theorem isqrtFrom_spec (m i r : Nat) (hlo : r * r ≤ m) (hhi : m < (r + 2 ^ i) * (r + 2 ^ i)) :
    isqrtFrom m i r * isqrtFrom m i r ≤ m ∧ m < (isqrtFrom m i r + 1) * (isqrtFrom m i r + 1) := by
  induction i generalizing r with
  | zero => exact ⟨hlo, hhi⟩
  | succ i ih =>
    rw [isqrtFrom]
    split
    next h => exact ih _ h (by rw [Nat.add_assoc, ← Nat.two_mul, ← pow_succ']; exact hhi)
    next h => exact ih _ hlo (not_le.1 h)

/-- The integer square root. -/
theorem isqrt_spec (m : Nat) : isqrt m * isqrt m ≤ m ∧ m < (isqrt m + 1) * (isqrt m + 1) := by
  refine isqrtFrom_spec m _ 0 (Nat.zero_le m) ?_
  rw [Nat.zero_add, ← pow_add]
  exact Nat.lt_log2_self.trans_le (Nat.pow_le_pow_right two_pos (by omega))

/-- A root with its sticky bit: less than, equal to or more than a quotient `C / Y` as the exact root is, where the radicand has few bits before
its zeros and `Y` is short. -/
theorem root_side {m Y c : Nat} (hm : m < 2 ^ 25) (hY : Y ≤ shortBound) (hc : 64 ≤ c) :
    let a := m * 2 ^ 128
    let s := stickied (isqrt a) (isqrt a * isqrt a = a)
    (Y * Y * a < 2 ^ c * 2 ^ c → Y * s < 2 * 2 ^ c) ∧ (Y * Y * a = 2 ^ c * 2 ^ c → Y * s = 2 * 2 ^ c)
    ∧ (2 ^ c * 2 ^ c < Y * Y * a → 2 * 2 ^ c < Y * s) := by
  intro a s
  obtain ⟨hlo, hhi⟩ := isqrt_spec a
  have hs : s = stickied (isqrt a) (isqrt a * isqrt a = a) := rfl
  -- squares of 2^c and the products Y²a are multiples of 2^128, so that they differ by that much or not at all
  obtain ⟨k, hk⟩ : ∃ k, 2 ^ c * 2 ^ c = 2 ^ 128 * k :=
    ⟨2 ^ (c + c - 128), by rw [← pow_add, ← pow_add, Nat.add_sub_cancel' (by omega)]⟩
  have ha : Y * Y * a = 2 ^ 128 * (Y * Y * m) := by
    simp only [a]
    ring
  have hroot : isqrt a < 2 ^ 77 := by
    by_contra h
    have hsq := Nat.mul_le_mul (not_lt.1 h) (not_lt.1 h)
    have : a < 2 ^ 25 * 2 ^ 128 := Nat.mul_lt_mul_of_pos_right hm (by positivity)
    omega
  have hYY : Y * Y ≤ shortBound * shortBound := Nat.mul_le_mul hY hY
  have hsmall : Y * Y * (4 * isqrt a + 1) < 4 * 2 ^ 128 :=
    (Nat.mul_le_mul hYY (show 4 * isqrt a + 1 ≤ 4 * 2 ^ 77 by omega)).trans_lt (by norm_num [shortBound])
  have hupper : s * s ≤ 4 * a + (4 * isqrt a + 1) := by
    rw [hs, stickied]
    split <;> nlinarith
  have hlower : 4 * a ≤ s * s + (4 * isqrt a + 1) := by
    rw [hs, stickied]
    split
    next h => nlinarith
    next h => nlinarith
  have hsquare (x : Nat) : Y * x * (Y * x) = Y * Y * (x * x) := by ring
  have hdouble : 2 * 2 ^ c * (2 * 2 ^ c) = 4 * (2 ^ c * 2 ^ c) := by ring
  refine ⟨fun h => ?_, fun h => ?_, fun h => ?_⟩
  · by_contra hge
    have hsq := Nat.mul_le_mul (not_lt.1 hge) (not_lt.1 hge)
    rw [hsquare, hdouble] at hsq
    have hup := Nat.mul_le_mul_left (Y * Y) hupper
    rw [Nat.mul_add] at hup
    have hstep : Y * Y * a + 2 ^ 128 ≤ 2 ^ c * 2 ^ c := by
      rw [ha, hk] at h ⊢
      have := Nat.lt_of_mul_lt_mul_left h
      omega
    have : Y * Y * (4 * a) = 4 * (Y * Y * a) := by ring
    omega
  · obtain ⟨z, hz⟩ : Y ∣ 2 ^ c := by
      rw [← Nat.pow_dvd_pow_iff two_ne_zero, sq, sq, ← h]
      exact Nat.dvd_mul_right _ _
    have hYpos : 0 < Y * Y := by
      rcases Nat.eq_zero_or_pos Y with rfl | hpos
      · have : 0 < 2 ^ c := by positivity
        omega
      · exact Nat.mul_pos hpos hpos
    have hza : a = z * z := by
      refine Nat.eq_of_mul_eq_mul_left hYpos (h.trans ?_)
      rw [hz]
      ring
    have hsqrt : isqrt a = z := by
      rw [hza] at hlo hhi ⊢
      have h1 := Nat.mul_self_le_mul_self_iff.1 hlo
      have h2 := Nat.mul_self_lt_mul_self_iff.1 hhi
      omega
    rw [hs, stickied, hsqrt, if_pos hza.symm, hz]
    ring
  · by_contra hle
    have hsq := Nat.mul_le_mul (not_lt.1 hle) (not_lt.1 hle)
    rw [hsquare, hdouble] at hsq
    have hlow := Nat.mul_le_mul_left (Y * Y) hlower
    rw [Nat.mul_add] at hlow
    have hstep : 2 ^ c * 2 ^ c + 2 ^ 128 ≤ Y * Y * a := by
      rw [ha, hk] at h ⊢
      have := Nat.lt_of_mul_lt_mul_left h
      omega
    have : Y * Y * (4 * a) = 4 * (Y * Y * a) := by ring
    omega

/-- The parity of an exponent, as bits of the significand. -/
def oddBit (e : Int) : Nat := (e % 2).toNat

/-- The significand of a root with its sticky bit. -/
def rootMant (m : Nat) (e : Int) : Nat :=
  let a := m * 2 ^ oddBit e * 2 ^ 128
  stickied (isqrt a) (isqrt a * isqrt a = a)

theorem numSqrt_fin {m : Nat} (hm : m ≠ 0) (e : Int) : numSqrt 64 (.fin false m e) = .fin false (rootMant m e) ((e - oddBit e) / 2 - 64 - 1) := by
  simp only [numSqrt, hm, if_false, Bool.false_eq_true, Nat.shiftLeft_eq]
  rfl

/-- A root of more than 64 bits. -/
theorem le_rootMant {m : Nat} (hm : m ≠ 0) (e : Int) : 2 * 2 ^ 64 ≤ rootMant m e := by
  have hroot : 2 ^ 64 ≤ isqrt (m * 2 ^ oddBit e * 2 ^ 128) := by
    have ha : 2 ^ 128 ≤ m * 2 ^ oddBit e * 2 ^ 128 := Nat.le_mul_of_pos_left _ (Nat.mul_pos (Nat.pos_of_ne_zero hm) (by positivity))
    by_contra h
    have hhi := (isqrt_spec (m * 2 ^ oddBit e * 2 ^ 128)).2
    have hsq := Nat.mul_le_mul (not_le.1 h) (not_le.1 h)
    rw [Nat.succ_eq_add_one] at hsq
    omega
  exact (Nat.mul_le_mul_left 2 hroot).trans (Nat.le_add_right _ _)

/-- The root with a sticky bit against a short number, as the exact root. -/
theorem numSqrt_side {m : Nat} (hm : m ≠ 0) (hlt : m < 2 ^ 24) (e : Int) {Y : Nat} (p : Int) (hY : Y ≤ shortBound) :
    let y : ℚ := Y * 2 ^ p
    let s := numVal (numSqrt 64 (.fin false m e))
    let x := numVal (.fin false m e)
    (y ^ 2 * x < 1 → y * s < 1) ∧ (y ^ 2 * x = 1 → y * s = 1) ∧ (1 < y ^ 2 * x → 1 < y * s) := by
  intro y s x
  obtain ⟨h, hh⟩ : ∃ h, e = 2 * h + oddBit e := ⟨(e - oddBit e) / 2, by unfold oddBit; omega⟩
  have hodd : oddBit e ≤ 1 := by unfold oddBit; omega
  generalize hm' : m * 2 ^ oddBit e = m'
  have hs : s = rootMant m e * 2 ^ (h - 64 - 1) := by
    have hhalf : (e - oddBit e) / 2 = h := by omega
    simp only [s]
    rw [numSqrt_fin hm, numVal_fin, signOf_false, one_mul, hhalf]
  have hx : x = m' * 2 ^ (2 * h) := by
    simp only [x]
    rw [numVal_fin, signOf_false, one_mul, ← hm', hh, zpow_add₀ two_ne_zero, zpow_natCast, ← hh]
    push_cast
    ring
  generalize hc : 64 - p - h = c
  have hlt' : m' < 2 ^ 25 := by
    rw [← hm', pow_succ]
    exact Nat.mul_lt_mul_of_lt_of_le hlt (by rcases Nat.le_one_iff_eq_zero_or_eq_one.1 hodd with h | h <;> simp [h]) (by positivity)
  have hys : y * s = Y * rootMant m e / (2 * 2 ^ c) := by
    have : (2 : ℚ) ^ p * 2 ^ (h - 64 - 1) * (2 ^ (1 : Int) * 2 ^ c) = 1 := by
      rw [← zpow_add₀ two_ne_zero, ← zpow_add₀ two_ne_zero, ← zpow_add₀ two_ne_zero, zpow_eq_one_iff_right₀ two_pos.le (by norm_num)]
      omega
    rw [zpow_one] at this
    rw [hs, eq_div_iff (by positivity)]
    linear_combination ((Y : ℚ) * rootMant m e) * this
  have hyx : y ^ 2 * x = Y * Y * (m' * 2 ^ 128) / (2 ^ c * 2 ^ c) := by
    have : (2 : ℚ) ^ p * 2 ^ p * 2 ^ (2 * h) * (2 ^ c * 2 ^ c) = 2 ^ (128 : Int) := by
      rw [← zpow_add₀ two_ne_zero, ← zpow_add₀ two_ne_zero, ← zpow_add₀ two_ne_zero, ← zpow_add₀ two_ne_zero]
      congr 1
      omega
    rw [hx, eq_div_iff (by positivity)]
    linear_combination ((Y : ℚ) * Y * m') * this
  have hpos : (0 : ℚ) < 2 * 2 ^ c := by positivity
  have hpos2 : (0 : ℚ) < 2 ^ c * 2 ^ c := by positivity
  rw [hys, hyx, div_lt_one hpos, div_lt_one hpos2, one_lt_div hpos, one_lt_div hpos2, div_eq_one_iff_eq hpos.ne', div_eq_one_iff_eq hpos2.ne']
  rcases le_or_gt 64 c with h64 | h64
  · obtain ⟨k, rfl⟩ := Int.eq_ofNat_of_zero_le (show 0 ≤ c by omega)
    have hside := root_side hlt' hY (show 64 ≤ k by omega)
    rw [← hm'] at hside ⊢
    simp only [zpow_natCast]
    exact_mod_cast hside
  · rcases Nat.eq_zero_or_pos Y with rfl | hYpos
    · simp [hpos, hpos2.ne, hpos2.not_gt]
    · have hcle : (2 : ℚ) ^ c ≤ 2 ^ 63 := by
        rw [← zpow_natCast]
        exact zpow_le_zpow_right₀ one_le_two (by omega)
      have hYq : (1 : ℚ) ≤ Y := by exact_mod_cast hYpos
      have hmq : (1 : ℚ) ≤ m' := by exact_mod_cast (hm' ▸ Nat.mul_pos (Nat.pos_of_ne_zero hm) (by positivity) : 0 < m')
      have hroot : (2 * 2 ^ 64 : ℚ) ≤ rootMant m e := by exact_mod_cast le_rootMant hm e
      have hfar : 2 * (2 : ℚ) ^ c < Y * rootMant m e := by nlinarith
      have hfar2 : (2 : ℚ) ^ c * 2 ^ c < Y * Y * (m' * 2 ^ 128) := by
        have h1 : (2 : ℚ) ^ c * 2 ^ c ≤ 2 ^ 63 * 2 ^ 63 := mul_le_mul hcle hcle (by positivity) (by positivity)
        have h2 : (1 : ℚ) ≤ Y * Y * m' := one_le_mul_of_one_le_of_one_le (one_le_mul_of_one_le_of_one_le hYq hYq) hmq
        linarith
      exact ⟨fun h => absurd h hfar2.not_gt, fun h => absurd h hfar2.ne', fun _ => hfar⟩

/-- Two numbers on the same side of 1. -/
theorem one_side {a b : ℚ} (hlt : a < 1 → b < 1) (heq : a = 1 → b = 1) (hgt : 1 < a → 1 < b) : (1 ≤ b ↔ 1 ≤ a) ∧ (b ≤ 1 ↔ a ≤ 1) := by
  rcases lt_trichotomy a 1 with h | h | h
  · exact ⟨iff_of_false (hlt h).not_ge h.not_ge, iff_of_true (hlt h).le h.le⟩
  · exact ⟨iff_of_true (heq h).ge h.ge, iff_of_true (heq h).le h.le⟩
  · exact ⟨iff_of_true (hgt h).le h.le, iff_of_false (hgt h).not_ge h.not_ge⟩

/-- The reciprocal of a root, each with its sticky bit, stands where the exact one does. -/
theorem numDiv_numSqrt_sameSide {m : Nat} (hm : m ≠ 0) (hlt : m < 2 ^ 24) (e : Int) :
    SameSide (numVal (numDiv 64 (.fin false 1 0) (numSqrt 64 (.fin false m e))))
      (fun y => 1 ≤ y ^ 2 * numVal (.fin false m e)) (fun y => y ^ 2 * numVal (.fin false m e) ≤ 1) := by
  intro Y p hY
  have hroot : rootMant m e ≠ 0 := by
    have := le_rootMant hm e
    omega
  have hrcp := numDiv_sameSide hroot ((e - oddBit e) / 2 - 64 - 1) Y p hY
  obtain ⟨hbelow, hequal, habove⟩ := numSqrt_side hm hlt e p hY
  rw [← numSqrt_fin hm] at hrcp
  obtain ⟨hge, hle⟩ := one_side hbelow hequal habove
  exact ⟨hrcp.1.trans hge, hrcp.2.trans hle⟩

/-! ## The choice among the neighbours (log 6) -/

/-- Two magnitudes below, the step is half as long at least. -/
theorem gridVal_multiple (f : FloatFmt) {g n : Nat} (h : n ≤ g + 2) (hf : 2 ≤ 2 ^ f.frac) : ∃ Y : Nat, gridVal f g = Y * (gridUlp f n / 2) := by
  have hdiv : n / 2 ^ f.frac ≤ g / 2 ^ f.frac + 1 := by
    rw [← Nat.add_div_right _ (by positivity)]
    exact Nat.div_le_div_right (by omega)
  obtain ⟨k, hk⟩ : ∃ k : Nat, max ((g / 2 ^ f.frac : Nat) : Int) 1 - f.bias - f.frac = (max ((n / 2 ^ f.frac : Nat) : Int) 1 - f.bias - f.frac - 1) + k :=
    ⟨(max ((g / 2 ^ f.frac : Nat) : Int) 1 - (max ((n / 2 ^ f.frac : Nat) : Int) 1 - 1)).toNat, by omega⟩
  refine ⟨gridMant f g * 2 ^ k, ?_⟩
  rw [gridVal, gridUlp, gridUlp, hk, zpow_add₀ two_ne_zero, zpow_sub_one₀ two_ne_zero, zpow_natCast]
  push_cast
  ring

/-- The sign and the magnitude of an element of F32. -/
theorem signBit_parts (neg : Bool) {n : Nat} (h : n < 2 ^ 31) :
    (signBit fF32 neg + n) / 2 ^ 31 * 2 ^ 31 = signBit fF32 neg ∧ (signBit fF32 neg + n) % 2 ^ 31 = n := by
  have hs : signBit fF32 neg = if neg then 2 ^ 31 else 0 := rfl
  rw [hs]
  split <;> omega

/-- The free value: a magnitude within a step of the number, and a whole number of half steps. -/
theorem withinUlp_spec (neg : Bool) {m : Nat} (hm : m ≠ 0) {e : Int} (k : Nat) (htop : numVal (.fin false m e) ≤ gridVal fF32 fF32.top) :
    ∃ g, g ≤ fF32.top ∧ withinUlp (.fin neg m e) k = signBit fF32 neg + g
      ∧ |gridVal fF32 g - numVal (.fin false m e)| ≤ 2 ^ stepExp m e ∧ ∃ Y : Nat, gridVal fF32 g = Y * 2 ^ (stepExp m e - 1) := by
  generalize hn : gridBits fF32 .rtz false m e = n
  have hle : n ≤ fF32.top := hn ▸ gridBits_rtz_le f32_ok htop
  have hlo : roundTo fF32 .rtz false (.fin neg m e) = signBit fF32 neg + n := hn ▸ roundTo_rtz f32_ok neg htop
  have hulp : gridUlp fF32 n = 2 ^ stepExp m e := hn ▸ gridUlp_stepExp hm e
  have hhalf : gridUlp fF32 n / 2 = 2 ^ (stepExp m e - 1) := by rw [hulp, zpow_sub_one₀ two_ne_zero]; rfl
  have hmult {g : Nat} (h : n ≤ g + 2) : ∃ Y : Nat, gridVal fF32 g = Y * 2 ^ (stepExp m e - 1) := hhalf ▸ gridVal_multiple fF32 h (by decide)
  obtain ⟨hsign, hmag⟩ := signBit_parts neg (hle.trans_lt (by decide))
  simp only [withinUlp, hlo, hsign, hmag]
  split
  next hcond =>
    obtain ⟨hnear, hg⟩ := Bool.and_eq_true_iff.1 hcond
    obtain ⟨h1, h2⟩ := Bool.and_eq_true_iff.1 hnear
    have hg := of_decide_eq_true hg
    obtain ⟨hfin, hval⟩ := floatVal_signed f32_ok neg hg
    have hdist := (nearTo_iff hfin (isFin_fin ..) (isFin_fin ..)).1 ⟨of_decide_eq_true h1, of_decide_eq_true h2⟩
    rw [hval, numVal_signed neg m e, abs_signOf_mul_sub, numVal_fin false 1, signOf_false, Nat.cast_one, one_mul, one_mul] at hdist
    exact ⟨_, hg, rfl, hdist, hmult (by omega)⟩
  next =>
    obtain ⟨hlow, hhigh⟩ := hn ▸ gridBits_between fF32 f32_ok.frac m e
    rw [gridVal_succ, hulp] at hhigh
    refine ⟨n, hle, rfl, ?_, hmult (by omega)⟩
    rw [abs_le]
    constructor <;> linarith

/-- A choice within a step of a number lies within a step of whatever stands on the same side of short numbers as that number. -/
theorem sameSide_near {m : Nat} (hm : m ≠ 0) {e : Int} {le ge : ℚ → Prop} (h : SameSide (numVal (.fin false m e)) le ge)
    (hlow : -128 ≤ (Nat.log2 m : Int) + e) {v : ℚ} (hv : |v - numVal (.fin false m e)| ≤ 2 ^ stepExp m e) (hY : ∃ Y : Nat, v = Y * 2 ^ (stepExp m e - 1)) :
    2 ^ stepExp m e ≤ v ∧ ge (v - 2 ^ stepExp m e) ∧ le (v + 2 ^ stepExp m e) := by
  obtain ⟨hbelow, habove⟩ := abs_le.1 hv
  obtain ⟨hK, hK'⟩ := binade_bounds hm e
  obtain ⟨Y, hY⟩ := hY
  have hunit : (0 : ℚ) < 2 ^ (stepExp m e - 1) := by positivity
  have hstep : (2 : ℚ) ^ stepExp m e = 2 * 2 ^ (stepExp m e - 1) := by rw [← zpow_one_add₀ two_ne_zero]; congr 1; ring
  have htwo : 2 * (2 : ℚ) ^ stepExp m e ≤ numVal (.fin false m e) := by
    rw [← zpow_one_add₀ two_ne_zero]
    exact (zpow_le_zpow_right₀ one_le_two (by unfold stepExp; omega)).trans hK
  have hbinade : (2 : ℚ) ^ ((Nat.log2 m : Int) + e + 1) ≤ 2 ^ 25 * 2 ^ (stepExp m e - 1) := by
    rw [← zpow_natCast 2 25, ← zpow_add₀ two_ne_zero]
    exact zpow_le_zpow_right₀ one_le_two (by unfold stepExp; push_cast; omega)
  have hYlow : 2 ≤ Y := by
    have : (2 : ℚ) * 2 ^ (stepExp m e - 1) ≤ Y * 2 ^ (stepExp m e - 1) := by rw [← hY, ← hstep]; linarith
    exact_mod_cast le_of_mul_le_mul_right this hunit
  have hYhigh : Y + 2 ≤ shortBound := by
    have : ((Y + 2 : Nat) : ℚ) * 2 ^ (stepExp m e - 1) ≤ shortBound * 2 ^ (stepExp m e - 1) := by
      rw [shortBound]
      push_cast
      rw [add_mul, ← hY, ← hstep]
      linarith
    exact_mod_cast le_of_mul_le_mul_right this hunit
  have hminus : v - 2 ^ stepExp m e = (Y - 2 : Nat) * 2 ^ (stepExp m e - 1) := by rw [Nat.cast_sub hYlow, sub_mul, ← hY, hstep, Nat.cast_two]
  have hplus : v + 2 ^ stepExp m e = (Y + 2 : Nat) * 2 ^ (stepExp m e - 1) := by rw [Nat.cast_add, add_mul, ← hY, hstep, Nat.cast_two]
  refine ⟨by linarith, ?_, ?_⟩
  · rw [hminus]
    exact (h _ _ (by omega)).2.1 (by rw [← hminus]; linarith)
  · rw [hplus]
    exact (h _ _ hYhigh).1.1 (by rw [← hplus]; linarith)

/-! ## Sources of F32 -/

/-- A source of F32 that is finite and not zero. -/
structure Source32 (bits : Nat) (neg : Bool) (m : Nat) (e : Int) : Prop where
  val : floatVal fF32 bits = .fin neg m e
  ne_zero : m ≠ 0
  mant : m < 2 ^ 24
  low : -149 ≤ e
  high : numVal (.fin false m e) < 2 ^ (128 : Int)

theorem gridVal_lt (f : FloatFmt) (n : Nat) : gridVal f n < 2 * 2 ^ f.frac * gridUlp f n :=
  mul_lt_mul_of_pos_right (by exact_mod_cast gridMant_lt f n) (gridUlp_pos f n)

/-- What the bits of a source say of its significand and its exponent. -/
theorem source32_of_bits {bits : Nat} (h : bits < 2 ^ 32) {neg : Bool} {m : Nat} {e : Int} (hv : floatVal fF32 bits = .fin neg m e) (hm : m ≠ 0) :
    ∃ g, g ≤ fF32.top ∧ bits = signBit fF32 neg + g ∧ numVal (.fin false m e) = gridVal fF32 g ∧ Source32 bits neg m e := by
  obtain ⟨g, hg, hbits, rfl, rfl⟩ := exists_magnitude f32_ok h hv
  have hval : numVal (.fin false (gridMant fF32 g) (ulpExp fF32 g)) = gridVal fF32 g := by rw [numVal_grid, signOf_false, one_mul]
  refine ⟨g, hg, hbits, hval, hv, hm, gridMant_lt fF32 g, ?_, ?_⟩
  · have hbias : fF32.bias = 127 ∧ fF32.frac = 23 := ⟨rfl, rfl⟩
    unfold ulpExp
    omega
  · rw [hval]
    refine ((gridVal_strictMono fF32).monotone hg).trans_lt ?_
    rw [gridVal_top]
    norm_num

/-- A source is one of the least magnitude at least. -/
theorem Source32.least {bits : Nat} {neg : Bool} {m : Nat} {e : Int} (h : Source32 bits neg m e) : (2 : ℚ) ^ (-149 : Int) ≤ numVal (.fin false m e) := by
  have hm : (1 : ℚ) ≤ m := by exact_mod_cast Nat.one_le_iff_ne_zero.2 h.ne_zero
  have hpow : (2 : ℚ) ^ (-149 : Int) ≤ 2 ^ e := zpow_le_zpow_right₀ one_le_two h.low
  rw [numVal_fin, signOf_false, one_mul]
  exact hpow.trans (le_mul_of_one_le_left (by positivity) hm)

/-- The largest magnitude of F32 is a short number. -/
theorem top_short : gridVal fF32 fF32.top = (2 ^ 24 - 1 : Nat) * 2 ^ (104 : Int) := by
  rw [gridVal_top]
  norm_num

theorem two_pow_short (k : Int) : (2 : ℚ) ^ k = (1 : Nat) * 2 ^ k := by simp

/-! ## VRCP (R144, R145) -/

/-- The exact result that 1/x is told from. -/
theorem beyondF32_iff (neg : Bool) (m : Nat) (e : Int) : beyondF32 (.fin neg m e) = true ↔ gridVal fF32 fF32.top < numVal (.fin false m e) := by
  obtain ⟨hfin, hval⟩ := floatVal_magnitude f32_ok le_rfl
  rw [beyondF32, decide_eq_true_iff, numCmp_pos (isFin_fin ..) hfin, hval]

theorem rcpF32_source {bits : Nat} {neg : Bool} {m : Nat} {e : Int} (h : Source32 bits neg m e) :
    rcpF32 bits = if beyondF32 (numDiv 64 (.fin false 1 0) (.fin neg m e)) = true then (if neg then 0xFF800000 else 0x7F800000)
      else withinUlp (numDiv 64 (.fin false 1 0) (.fin neg m e)) (Config.vrcpPick (BitVec.ofNat 32 bits)).toNat := by
  unfold rcpF32
  rw [h.val]
  exact if_neg h.ne_zero

/-- 1/x lies beyond the range exactly if its approximation does. -/
theorem rcp_beyond {m : Nat} (hm : m ≠ 0) (neg : Bool) (e : Int) :
    beyondF32 (numDiv 64 (.fin false 1 0) (.fin neg m e)) = true ↔ gridVal fF32 fF32.top * numVal (.fin false m e) < 1 := by
  have hside := (numDiv_sameSide hm e (2 ^ 24 - 1) 104 (by decide)).1
  rw [← top_short] at hside
  rw [numDiv_one neg hm, beyondF32_iff, ← numDiv_one false hm, ← not_le, hside, not_le]

/-- VRCP within one step of 1/x, in the binade of 1/x. -/
theorem rcpF32_near {bits : Nat} {neg : Bool} {m : Nat} {e : Int} (h : Source32 bits neg m e)
    (htop : 1 ≤ gridVal fF32 fF32.top * numVal (.fin false m e)) :
    ∃ k : Int, 2 ^ k * numVal (.fin false m e) ≤ 1 ∧ 1 < 2 ^ (k + 1) * numVal (.fin false m e) ∧ ∃ g, g ≤ fF32.top ∧ rcpF32 bits = signBit fF32 neg + g
      ∧ |gridVal fF32 g * numVal (.fin false m e) - 1| ≤ 2 ^ (max k (-126) - 23) * numVal (.fin false m e) := by
  have hside := numDiv_sameSide h.ne_zero e
  have hin : ¬beyondF32 (numDiv 64 (.fin false 1 0) (.fin neg m e)) = true := by rw [rcp_beyond h.ne_zero]; exact not_lt.2 htop
  rw [rcpF32_source h, if_neg hin]
  rw [numDiv_one neg h.ne_zero] at hin ⊢
  rw [numDiv_one false h.ne_zero] at hside
  have hd := rcpMant_ne_zero h.ne_zero
  generalize rcpMant m = n at *
  generalize -e - (64 + Nat.log2 m + 1 : Nat) - 1 = g at *
  obtain ⟨hK, hK'⟩ := binade_bounds hd g
  have hx := h.high
  generalize numVal (.fin false m e) = x at *
  have hpow (k : Int) := hside 1 k (by decide)
  simp only [← two_pow_short] at hpow
  have hlow : -128 ≤ (Nat.log2 n : Int) + g := le_binade hd ((hpow (-128)).2.2 (by
    rw [zpow_neg, inv_mul_le_one₀ (by positivity)]
    exact hx.le))
  obtain ⟨c, hc, hw, hdist, hmult⟩ := withinUlp_spec neg hd (e := g) (Config.vrcpPick (BitVec.ofNat 32 bits)).toNat
    (not_lt.1 (mt (beyondF32_iff neg n g).2 hin))
  obtain ⟨-, hge, hle⟩ := sameSide_near hd hside hlow hdist hmult
  refine ⟨(Nat.log2 n : Int) + g, (hpow _).2.1 hK, not_le.1 (mt (hpow _).2.2 (not_le.2 hK')), c, hc, hw, ?_⟩
  rw [sub_mul] at hge
  rw [add_mul] at hle
  rw [show max ((Nat.log2 n : Int) + g) (-126) - 23 = stepExp n g from rfl]
  exact abs_le.2 ⟨by linarith, by linarith⟩

/-! ## VRSQ (R144) -/

theorem rsqF32_source {bits m : Nat} {e : Int} (h : Source32 bits false m e) :
    rsqF32 bits = withinUlp (numDiv 64 (.fin false 1 0) (numSqrt 64 (.fin false m e))) (Config.vrsqPick (BitVec.ofNat 32 bits)).toNat := by
  unfold rsqF32
  rw [h.val]
  exact (if_neg h.ne_zero).trans (if_neg Bool.false_ne_true)

/-- VRSQ within one step of 1/√x, in the binade of 1/√x. -/
theorem rsqF32_near {bits m : Nat} {e : Int} (h : Source32 bits false m e) :
    ∃ k : Int, (2 ^ k) ^ 2 * numVal (.fin false m e) ≤ 1 ∧ 1 < (2 ^ (k + 1)) ^ 2 * numVal (.fin false m e) ∧ ∃ g, g ≤ fF32.top ∧ rsqF32 bits = g
      ∧ 2 ^ (max k (-126) - 23) ≤ gridVal fF32 g ∧ (gridVal fF32 g - 2 ^ (max k (-126) - 23)) ^ 2 * numVal (.fin false m e) ≤ 1
      ∧ 1 ≤ (gridVal fF32 g + 2 ^ (max k (-126) - 23)) ^ 2 * numVal (.fin false m e) := by
  have hside := numDiv_numSqrt_sameSide h.ne_zero h.mant e
  have hroot : rootMant m e ≠ 0 := by
    have := le_rootMant h.ne_zero e
    omega
  rw [rsqF32_source h]
  rw [numSqrt_fin h.ne_zero, numDiv_one false hroot] at hside ⊢
  have hd := rcpMant_ne_zero hroot
  generalize rcpMant (rootMant m e) = n at *
  generalize -((e - oddBit e) / 2 - 64 - 1) - (64 + Nat.log2 (rootMant m e) + 1 : Nat) - 1 = g at *
  obtain ⟨hK, hK'⟩ := binade_bounds hd g
  have hx := h.high
  have hx' := h.least
  generalize numVal (.fin false m e) = x at *
  have hpow (k : Int) := hside 1 k (by decide)
  simp only [← two_pow_short] at hpow
  have hlow : -64 ≤ (Nat.log2 n : Int) + g := le_binade hd ((hpow (-64)).2.2 (by
    rw [← zpow_natCast, ← zpow_mul, Nat.cast_ofNat, show (-64 : Int) * 2 = -128 from rfl, zpow_neg, inv_mul_le_one₀ (by positivity)]
    exact hx.le))
  have hhigh : numVal (.fin false n g) ≤ 2 ^ (75 : Int) := (hpow 75).1.2 (by
    rw [← zpow_natCast, ← zpow_mul]
    calc (1 : ℚ) ≤ 2 ^ ((75 : Int) * (2 : Nat)) * 2 ^ (-149 : Int) := by norm_num
      _ ≤ 2 ^ ((75 : Int) * (2 : Nat)) * x := mul_le_mul_of_nonneg_left hx' (by positivity))
  obtain ⟨c, hc, hw, hdist, hmult⟩ := withinUlp_spec false hd (e := g) (Config.vrsqPick (BitVec.ofNat 32 bits)).toNat
    (hhigh.trans (by rw [gridVal_top]; norm_num))
  obtain ⟨hstep, hge, hle⟩ := sameSide_near hd hside (by omega) hdist hmult
  exact ⟨(Nat.log2 n : Int) + g, (hpow _).2.1 hK, not_le.1 (mt (hpow _).2.2 (not_le.2 hK')), c, hc, hw.trans (Nat.zero_add c), hstep, hge, hle⟩

end Sys2Proof.Machine
end
section
/-! PROOFS. 2^x, log2 x, sin(π x) and tanh x: the sizes of the model's fixed-point values, and the choices within their bounds (R144, log 6). -/

namespace Sys2Proof.Machine

open Sys2Proof

/-! ## 2^x in fixed point -/

theorem expTail_mono (fuel k : Nat) {y y' t t' : Nat} (hy : y ≤ y') (ht : t ≤ t') : expTail y fuel k t ≤ expTail y' fuel k t' := by
  induction fuel generalizing k t t' with
  | zero => exact le_rfl
  | succ fuel ih => exact Nat.add_le_add ht (ih (k + 1) (Nat.div_le_div_right (Nat.div_le_div_right (Nat.mul_le_mul ht hy))))

theorem fixExp2_mono {f f' : Nat} (h : f ≤ f') : fixExp2 f ≤ fixExp2 f' :=
  expTail_mono 80 1 (Nat.div_le_div_right (Nat.mul_le_mul_right fixLn2 h)) le_rfl

theorem fixExp2_zero : fixExp2 0 = 2 ^ 320 := by decide +kernel

theorem le_fixExp2 (f : Nat) : 2 ^ 320 ≤ fixExp2 f := fixExp2_zero.symm.trans_le (fixExp2_mono (Nat.zero_le f))

/-- 2^f over the whole unit, and up to the last fraction that a source of F32 below 128 has. -/
theorem fixExp2_unit : fixExp2 (2 ^ 320) ≤ 2 ^ 321 + 2 ^ 298 := by decide +kernel
theorem fixExp2_last : fixExp2 (2 ^ 320 - 2 ^ 303) + 2 ^ 297 ≤ 2 ^ 321 := by decide +kernel

/-- A magnitude of F32 in fixed point is exact. -/
theorem fixOf_exact (m : Nat) {e : Int} (h : -149 ≤ e) : (fixOf m e : ℚ) = numVal (.fin false m e) * 2 ^ (320 : Int) := by
  obtain ⟨k, hk⟩ := Int.eq_ofNat_of_zero_le (show 0 ≤ e + 320 by omega)
  rw [fixOf, if_pos (by omega), hk, Int.toNat_natCast, Nat.shiftLeft_eq, numVal_fin, signOf_false, one_mul, mul_assoc, ← zpow_add₀ two_ne_zero, hk]
  push_cast
  rfl

/-- A number in fixed point, with its sign. -/
theorem exp2Num_eq (neg : Bool) (m : Nat) {e : Int} (h : -149 ≤ e) : ∃ v : Int, (v : ℚ) = numVal (.fin neg m e) * 2 ^ (320 : Int)
    ∧ exp2Num neg m e = .fin false (fixExp2 (v % 2 ^ 320).toNat) (v / 2 ^ 320 - 320) := by
  refine ⟨if neg then -(fixOf m e : Int) else fixOf m e, ?_, rfl⟩
  rw [numVal_signed, mul_assoc, ← fixOf_exact m h]
  cases neg <;> simp

/-- 2^x from the whole part and the fraction of x. -/
theorem exp2_value (v : Int) : numVal (.fin false (fixExp2 (v % 2 ^ 320).toNat) (v / 2 ^ 320 - 320))
    = fixExp2 (v % 2 ^ 320).toNat * 2 ^ (v / 2 ^ 320 - 320) := by rw [numVal_fin, signOf_false, one_mul]

/-- Up to a whole part `n`, 2^x is not more than 2^(n + 1) and a little. -/
theorem exp2_value_le {v n : Int} (h : v / 2 ^ 320 ≤ n) :
    numVal (.fin false (fixExp2 (v % 2 ^ 320).toNat) (v / 2 ^ 320 - 320)) ≤ 2 ^ (n + 1) + 2 ^ (n - 22) := by
  have hfrac : (v % 2 ^ 320).toNat ≤ 2 ^ 320 := by
    have := Int.emod_lt_of_pos v (show (0 : Int) < 2 ^ 320 by positivity)
    omega
  have hmant : (fixExp2 (v % 2 ^ 320).toNat : ℚ) ≤ 2 ^ (321 : Int) + 2 ^ (298 : Int) := by exact_mod_cast (fixExp2_mono hfrac).trans fixExp2_unit
  have hpow : (2 : ℚ) ^ (v / 2 ^ 320 - 320) ≤ 2 ^ (n - 320) := zpow_le_zpow_right₀ one_le_two (by omega)
  rw [exp2_value]
  calc _ ≤ ((2 : ℚ) ^ (321 : Int) + 2 ^ (298 : Int)) * 2 ^ (n - 320) := mul_le_mul hmant hpow (by positivity) (by positivity)
    _ = 2 ^ (n + 1) + 2 ^ (n - 22) := by
      rw [add_mul, ← zpow_add₀ two_ne_zero, ← zpow_add₀ two_ne_zero]
      congr 2 <;> ring

/-- Below 128, 2^x does not exceed the range of F32. -/
theorem exp2_value_top {v : Int} (h : v ≤ 2 ^ 327 - 2 ^ 303) :
    numVal (.fin false (fixExp2 (v % 2 ^ 320).toNat) (v / 2 ^ 320 - 320)) ≤ gridVal fF32 fF32.top := by
  rw [gridVal_top]
  rcases le_or_gt (v / 2 ^ 320) 126 with hn | hn
  · exact (exp2_value_le hn).trans (by norm_num)
  · have hdiv : v / 2 ^ 320 = 127 := by omega
    have hfrac : (v % 2 ^ 320).toNat ≤ 2 ^ 320 - 2 ^ 303 := by omega
    have hmant : (fixExp2 (v % 2 ^ 320).toNat + 2 ^ (297 : Int) : ℚ) ≤ 2 ^ (321 : Int) := by
      exact_mod_cast (Nat.add_le_add_right (fixExp2_mono hfrac) _).trans fixExp2_last
    rw [exp2_value, hdiv]
    calc _ ≤ ((2 : ℚ) ^ (321 : Int) - 2 ^ (297 : Int)) * 2 ^ (127 - 320 : Int) := mul_le_mul_of_nonneg_right (by linarith) (by positivity)
      _ = (2 ^ 24 - 1) * 2 ^ 104 := by rw [sub_mul, ← zpow_add₀ two_ne_zero, ← zpow_add₀ two_ne_zero]; norm_num

/-! ## Whole numbers -/

theorem integral_fin (neg : Bool) (m : Nat) (e : Int) : integral (.fin neg m e) = if m = 0 then some 0
    else if 0 ≤ e then some (numToInt (.fin neg m e))
    else if m % 2 ^ (-e).toNat = 0 then some (if neg then -((m >>> (-e).toNat : Nat) : Int) else ((m >>> (-e).toNat : Nat) : Int)) else none := rfl

theorem integral_eq_some {neg : Bool} {m : Nat} {e i : Int} : integral (.fin neg m e) = some i ↔ numVal (.fin neg m e) = i := by
  rw [numVal_fin, integral_fin]
  split
  next h =>
    rw [h, Nat.cast_zero, mul_zero, zero_mul, Option.some_inj]
    exact_mod_cast Iff.rfl
  next h =>
    split
    next he =>
      obtain ⟨k, rfl⟩ := Int.eq_ofNat_of_zero_le he
      rw [Option.some_inj, zpow_natCast]
      cases neg
      · simp only [numToInt, Int.toNat_natCast, signOf_false, one_mul, Bool.false_eq_true, if_false]
        exact_mod_cast Iff.rfl
      · simp only [numToInt, Int.toNat_natCast, signOf_true, neg_mul, one_mul, if_true]
        exact_mod_cast Iff.rfl
    next he =>
      obtain ⟨k, hk⟩ := Int.eq_ofNat_of_zero_le (show 0 ≤ -e by omega)
      obtain rfl : e = -(k : Int) := by omega
      have hD : (2 : ℚ) ^ k ≠ 0 := by positivity
      rw [neg_neg, Int.toNat_natCast, zpow_neg, zpow_natCast, ← div_eq_mul_inv, div_eq_iff hD, Nat.shiftRight_eq_div_pow]
      split
      next hmod =>
        obtain ⟨q, rfl⟩ := Nat.dvd_of_mod_eq_zero hmod
        rw [Nat.mul_div_cancel_left q (by positivity), Option.some_inj]
        push_cast
        cases neg
        · rw [signOf_false, one_mul, mul_comm, mul_left_inj' hD]
          exact_mod_cast Iff.rfl
        · rw [signOf_true, neg_one_mul, mul_comm, ← neg_mul, mul_left_inj' hD]
          exact_mod_cast Iff.rfl
      next hmod =>
        refine ⟨fun h => (by cases h), fun h => absurd ?_ hmod⟩
        have hdvd : (2 : Int) ^ k ∣ m := by
          cases neg
          · exact ⟨i, by rw [signOf_false, one_mul] at h; rw [mul_comm]; exact_mod_cast h⟩
          · exact ⟨-i, by rw [signOf_true, neg_one_mul, neg_eq_iff_eq_neg, ← neg_mul] at h; rw [mul_comm]; exact_mod_cast h⟩
        exact Nat.mod_eq_zero_of_dvd (by exact_mod_cast hdvd)

theorem integral_eq_none {neg : Bool} {m : Nat} {e : Int} : integral (.fin neg m e) = none ↔ ∀ i : Int, numVal (.fin neg m e) ≠ i := by
  rw [Option.eq_none_iff_forall_ne_some]
  exact forall_congr' fun i => not_congr integral_eq_some

/-- 2^n for a whole number n. -/
theorem exp2Num_integral {neg : Bool} {m : Nat} {e n : Int} (h : -149 ≤ e) (hn : numVal (.fin neg m e) = n) :
    exp2Num neg m e = .fin false (2 ^ 320) (n - 320) := by
  obtain ⟨v, hv, heq⟩ := exp2Num_eq neg m h
  obtain rfl : v = n * 2 ^ 320 := by
    rw [hn] at hv
    exact_mod_cast hv
  rw [heq, Int.mul_emod_left, Int.mul_ediv_cancel _ (by positivity), Int.toNat_zero, fixExp2_zero]

/-! ## VEXP2 (R144, R145) -/

/-- The free candidate of VEXP2. -/
def exp2Pick (bits : Nat) : Nat := (Config.vexp2 (BitVec.ofNat 32 bits)).toNat % 2 ^ 31

theorem exp2Pick_lt (bits : Nat) : exp2Pick bits < 2 ^ 31 := Nat.mod_lt _ (by positivity)

theorem exp2F32_fin {bits : Nat} {neg : Bool} {m : Nat} {e : Int} (h : floatVal fF32 bits = .fin neg m e) : exp2F32 bits
    = if 0 ≤ numCmp (.fin neg m e) (.fin false 128 0) then 0x7F800000
      else if numCmp (.fin neg m e) (.fin true 200 0) ≤ 0 then within (.fin false 0 0) (ulps 2 (.fin false 1 (-149))) (exp2Pick bits)
      else match integral (.fin neg m e) with
        | some n => if -149 ≤ n then roundTo fF32 .rne false (.fin false 1 n) else within (exp2Num neg m e) (ulps 2 (exp2Num neg m e)) (exp2Pick bits)
        | none => if numCmp (.fin neg m e) (.fin true 126 0) < 0
            then min 0x7FFFFF (within (exp2Num neg m e) (ulps 2 (exp2Num neg m e)) (exp2Pick bits))
            else within (exp2Num neg m e) (ulps 2 (exp2Num neg m e)) (exp2Pick bits) := by
  unfold exp2F32
  rw [h]
  rfl

/-- The bounds of the source that VEXP2 tells apart. -/
theorem le_cmp_natural {x : Num} (hx : IsFin x) (n : Nat) : (0 ≤ numCmp x (.fin false n 0) ↔ (n : ℚ) ≤ numVal x)
    ∧ (numCmp x (.fin true n 0) ≤ 0 ↔ numVal x ≤ -n) ∧ (numCmp x (.fin true n 0) < 0 ↔ numVal x < -n) := by
  rw [numCmp_nonneg hx (isFin_fin ..), numCmp_le_zero hx (isFin_fin ..), numCmp_lt_zero hx (isFin_fin ..), numVal_natural, numVal_signed true,
    numVal_natural, signOf_true, neg_one_mul]
  exact ⟨Iff.rfl, Iff.rfl, Iff.rfl⟩

section
variable {bits : Nat} {neg : Bool} {m : Nat} {e : Int} (h : floatVal fF32 bits = .fin neg m e)
include h

theorem exp2F32_over (hx : 128 ≤ numVal (.fin neg m e)) : exp2F32 bits = 0x7F800000 := by
  rw [exp2F32_fin h, if_pos ((le_cmp_natural (isFin_fin ..) 128).1.2 (by exact_mod_cast hx))]

theorem exp2F32_under (hx : numVal (.fin neg m e) ≤ -200) :
    exp2F32 bits = within (.fin false 0 0) (ulps 2 (.fin false 1 (-149))) (exp2Pick bits) := by
  rw [exp2F32_fin h, if_neg (mt (le_cmp_natural (isFin_fin ..) 128).1.1 (by push_cast; linarith)),
    if_pos ((le_cmp_natural (isFin_fin ..) 200).2.1.2 (by exact_mod_cast hx))]

variable (hlow : -200 < numVal (.fin neg m e)) (hhigh : numVal (.fin neg m e) < 128)
include hlow hhigh

theorem exp2F32_integral {n : Int} (hn : numVal (.fin neg m e) = n) : exp2F32 bits
    = if -149 ≤ n then roundTo fF32 .rne false (.fin false 1 n) else within (exp2Num neg m e) (ulps 2 (exp2Num neg m e)) (exp2Pick bits) := by
  rw [exp2F32_fin h, if_neg (mt (le_cmp_natural (isFin_fin ..) 128).1.1 (by push_cast; linarith)),
    if_neg (mt (le_cmp_natural (isFin_fin ..) 200).2.1.1 (by push_cast; linarith)), integral_eq_some.2 hn]

theorem exp2F32_fraction (hn : ∀ n : Int, numVal (.fin neg m e) ≠ n) : exp2F32 bits = if numVal (.fin neg m e) < -126
    then min 0x7FFFFF (within (exp2Num neg m e) (ulps 2 (exp2Num neg m e)) (exp2Pick bits))
    else within (exp2Num neg m e) (ulps 2 (exp2Num neg m e)) (exp2Pick bits) := by
  rw [exp2F32_fin h, if_neg (mt (le_cmp_natural (isFin_fin ..) 128).1.1 (by push_cast; linarith)),
    if_neg (mt (le_cmp_natural (isFin_fin ..) 200).2.1.1 (by push_cast; linarith)), integral_eq_none.2 hn]
  exact if_congr ((le_cmp_natural (isFin_fin ..) 126).2.2.trans (by push_cast; exact Iff.rfl)) rfl rfl

end

/-- A magnitude of F32 below 128 leaves room for a last fraction. -/
theorem gridVal_below_128 {g : Nat} (h : gridVal fF32 g < 128) : gridVal fF32 g ≤ 128 - 2 ^ (-17 : Int) := by
  have h128 : gridVal fF32 0x43000000 = 128 := by norm_num [gridVal, gridMant, gridUlp, fF32]
  have hlast : gridVal fF32 0x42FFFFFF = 128 - 2 ^ (-17 : Int) := by norm_num [gridVal, gridMant, gridUlp, fF32]
  have hg := (gridVal_strictMono fF32).lt_iff_lt.1 (h.trans_eq h128.symm)
  exact hlast ▸ (gridVal_strictMono fF32).monotone (by omega)

/-- The least normal magnitude and the largest subnormal one. -/
theorem gridVal_least_normal : gridVal fF32 0x800000 = 2 ^ (-126 : Int) := by norm_num [gridVal, gridMant, gridUlp, fF32]
theorem gridVal_largest_subnormal : gridVal fF32 0x7FFFFF = 2 ^ (-126 : Int) - 2 ^ (-149 : Int) := by norm_num [gridVal, gridMant, gridUlp, fF32]

theorem lt_least_normal {g : Nat} (h : gridVal fF32 g < 2 ^ (-126 : Int)) : g < 0x800000 :=
  (gridVal_strictMono fF32).lt_iff_lt.1 (h.trans_eq gridVal_least_normal.symm)

theorem neg_149_le_stepExp (m : Nat) (e : Int) : -149 ≤ stepExp m e := by unfold stepExp; omega

/-- Half a step is within two steps. -/
theorem half_step_le_ulps (neg : Bool) (m : Nat) (e : Int) : halfStep m e ≤ numVal (ulps 2 (.fin neg m e)) := by
  have hle : (2 : ℚ) ^ (stepExp m e - 1) ≤ 2 ^ stepExp m e := zpow_le_zpow_right₀ one_le_two (by omega)
  have hpos : (0 : ℚ) < 2 ^ stepExp m e := by positivity
  have := halfStep_le m e
  rw [numVal_ulps]
  push_cast
  linarith

/-- 2^x does not exceed the range of F32 for a source below 128, and for one below −126 it is subnormal or a little more. -/
theorem exp2Num_bounds {bits : Nat} {neg : Bool} {m : Nat} {e : Int} (h : Source32 bits neg m e) (hbits : bits < 2 ^ 32)
    (hhigh : numVal (.fin neg m e) < 128) :
    ∃ n k, exp2Num neg m e = .fin false n k ∧ numVal (.fin false n k) ≤ gridVal fF32 fF32.top
      ∧ (numVal (.fin neg m e) < -126 → numVal (.fin false n k) ≤ 2 ^ (-126 : Int) + 2 ^ (-149 : Int)) := by
  obtain ⟨v, hv, heq⟩ := exp2Num_eq neg m h.low
  obtain ⟨g, -, -, hg, -⟩ := source32_of_bits hbits h.val h.ne_zero
  have hpow : (0 : ℚ) < 2 ^ (320 : Int) := by positivity
  refine ⟨_, _, heq, exp2_value_top ?_, fun hlow => (exp2_value_le (n := -127) ?_).trans_eq (by norm_num)⟩
  · have hx : numVal (.fin neg m e) ≤ 128 - 2 ^ (-17 : Int) := by
      rw [numVal_signed, hg] at hhigh ⊢
      cases neg
      · rw [signOf_false, one_mul] at hhigh ⊢
        exact gridVal_below_128 hhigh
      · have : 0 ≤ gridVal fF32 g := by rw [← gridVal_zero fF32]; exact (gridVal_strictMono fF32).monotone (Nat.zero_le g)
        rw [signOf_true]
        norm_num
        linarith
    have : (v : ℚ) ≤ (128 - 2 ^ (-17 : Int)) * 2 ^ (320 : Int) := hv ▸ mul_le_mul_of_nonneg_right hx hpow.le
    rw [show (128 : ℚ) = 2 ^ (7 : Int) by norm_num, sub_mul, ← zpow_add₀ two_ne_zero, ← zpow_add₀ two_ne_zero, show (7 : Int) + 320 = 327 from rfl,
      show (-17 : Int) + 320 = 303 from rfl] at this
    exact_mod_cast this
  · have : (v : ℚ) < -126 * 2 ^ (320 : Int) := hv ▸ mul_lt_mul_of_pos_right hlow hpow
    have hq : v < -126 * 2 ^ 320 := by exact_mod_cast this
    omega

/-- VEXP2 between its limits: a magnitude within two steps of 2^x, subnormal or +0 for a source below −126. -/
theorem exp2F32_near {bits : Nat} {neg : Bool} {m : Nat} {e : Int} (h : Source32 bits neg m e) (hbits : bits < 2 ^ 32)
    (hlow : -200 < numVal (.fin neg m e)) (hhigh : numVal (.fin neg m e) < 128) :
    exp2F32 bits ≤ fF32.top ∧ |gridVal fF32 (exp2F32 bits) - numVal (exp2Num neg m e)| ≤ numVal (ulps 2 (exp2Num neg m e))
    ∧ (numVal (.fin neg m e) < -126 → exp2F32 bits < 0x800000) := by
  obtain ⟨n, k, hy, htop, hsmall⟩ := exp2Num_bounds h hbits hhigh
  have hwithin := within_positive (exp2Pick_lt bits) (isFin_ulps 2 (isFin_fin false n k)) htop (half_step_le_ulps false n k)
  have hstep : (2 : ℚ) ^ (-149 : Int) ≤ 2 ^ stepExp n k := zpow_le_zpow_right₀ one_le_two (neg_149_le_stepExp n k)
  by_cases hint : ∃ i : Int, numVal (.fin neg m e) = i
  · obtain ⟨i, hi⟩ := hint
    have hnk : Num.fin false n k = .fin false (2 ^ 320) (i - 320) := hy.symm.trans (exp2Num_integral h.low hi)
    have hval : numVal (.fin false n k) = 2 ^ i := by
      rw [hnk, numVal_fin, signOf_false, one_mul, Nat.cast_pow, Nat.cast_ofNat, ← zpow_natCast, ← zpow_add₀ two_ne_zero]
      congr 1
      push_cast
      ring
    have hexp : stepExp n k = max i (-126) - 23 := by
      cases hnk
      rw [stepExp, Nat.log2_two_pow]
      congr 2
      push_cast
      ring
    have hnear : exp2F32 bits ≤ fF32.top ∧ |gridVal fF32 (exp2F32 bits) - numVal (.fin false n k)| ≤ numVal (ulps 2 (.fin false n k)) := by
      rw [exp2F32_integral h.val hlow hhigh hi, hy]
      split
      next hi149 =>
        have hone : numVal (.fin false 1 i) = 2 ^ i := by rw [numVal_fin, signOf_false, Nat.cast_one, one_mul, one_mul]
        obtain ⟨g, hg, hround, hdist⟩ := roundTo_rne_near false (m := 1) (e := i) (by rw [hone, ← hval]; exact htop)
        have hstep1 : stepExp 1 i = stepExp n k := by
          rw [hexp, stepExp, show Nat.log2 1 = 0 from by decide]
          congr 2
          push_cast
          ring
        rw [hround, show signBit fF32 false + g = g from Nat.zero_add g, hval, ← hone]
        have hle := hdist.trans (half_step_le_ulps false 1 i)
        rw [numVal_ulps, hstep1, ← numVal_ulps 2 false n k] at hle
        exact ⟨hg, hle⟩
      next => exact hwithin
    rw [hy]
    refine ⟨hnear.1, hnear.2, fun hneg => lt_least_normal ?_⟩
    have hi127 : i ≤ -127 := by
      rw [hi] at hneg
      have : i < -126 := by exact_mod_cast hneg
      omega
    have hle : (2 : ℚ) ^ i ≤ 2 ^ (-127 : Int) := zpow_le_zpow_right₀ one_le_two hi127
    have hdist := (abs_le.1 hnear.2).2
    rw [hval, numVal_ulps, hexp, max_eq_right (by omega)] at hdist
    refine lt_of_le_of_lt (b := (2 : ℚ) ^ (-127 : Int) + 2 * 2 ^ (-149 : Int)) ?_ (by norm_num)
    push_cast at hdist
    norm_num at hdist ⊢
    norm_num at hle
    linarith
  · rw [not_exists] at hint
    rw [exp2F32_fraction h.val hlow hhigh hint, hy]
    generalize within (.fin false n k) (ulps 2 (.fin false n k)) (exp2Pick bits) = w at *
    split
    next hneg =>
      refine ⟨(Nat.min_le_left _ _).trans (by decide), ?_, fun _ => Nat.lt_succ_of_le (Nat.min_le_left _ _)⟩
      rcases Nat.le_total 0x7FFFFF w with hw | hw
      · have hmono := (gridVal_strictMono fF32).monotone hw
        obtain ⟨-, habove⟩ := abs_le.1 hwithin.2
        have hs := hsmall hneg
        rw [Nat.min_eq_left hw, abs_le]
        rw [numVal_ulps] at habove ⊢
        push_cast at habove ⊢
        rw [gridVal_largest_subnormal] at hmono ⊢
        constructor <;> linarith
      · rw [Nat.min_eq_right hw]
        exact hwithin.2
    next hneg => exact ⟨hwithin.1, hwithin.2, fun h => absurd h hneg⟩

/-- Far below its range, VEXP2 gives next to nothing. -/
theorem exp2F32_tiny {bits : Nat} {neg : Bool} {m : Nat} {e : Int} (h : floatVal fF32 bits = .fin neg m e) (hx : numVal (.fin neg m e) ≤ -200) :
    exp2F32 bits ≤ fF32.top ∧ |gridVal fF32 (exp2F32 bits)| ≤ 2 * 2 ^ (-149 : Int) := by
  have htop : numVal (.fin false 0 0) ≤ gridVal fF32 fF32.top := by
    rw [numVal_zero, gridVal_top]
    positivity
  have htol : ulps 2 (.fin false 1 (-149)) = .fin false 2 (-149) := by decide
  have hw := within_positive (m := 0) (e := 0) (exp2Pick_lt bits) (isFin_ulps 2 (isFin_fin false 1 (-149))) htop (by
    rw [htol, numVal_fin, signOf_false, halfStep, if_pos rfl]
    positivity)
  rw [← exp2F32_under h hx, numVal_zero, sub_zero, htol, numVal_fin, signOf_false, one_mul] at hw
  exact hw

/-! ## VLOG2 (R144, R145) -/

theorem logDigits_lt (k y : Nat) : logDigits k y < 2 ^ k := by
  induction k generalizing y with
  | zero => exact Nat.one_pos
  | succ k ih =>
    rw [logDigits, pow_succ]
    split
    · have := ih (y * y / 2 ^ 320 / 2)
      omega
    · have := ih (y * y / 2 ^ 320)
      omega

theorem log2Num_eq (m : Nat) (e : Int) : ∃ d : Nat, d < 2 ^ 256 ∧ log2Num m e
    = .fin (decide (((Nat.log2 m : Int) + e) * 2 ^ 256 + d < 0)) (((Nat.log2 m : Int) + e) * 2 ^ 256 + d).natAbs (-256) :=
  ⟨_, logDigits_lt 256 _, rfl⟩

/-- The logarithm lies between those of the ends of the binade. -/
theorem log2Num_bounds (m : Nat) (e : Int) : ∃ s n, log2Num m e = .fin s n (-256)
    ∧ (((Nat.log2 m : Int) + e : Int) : ℚ) ≤ numVal (.fin s n (-256)) ∧ numVal (.fin s n (-256)) < (((Nat.log2 m : Int) + e : Int) : ℚ) + 1 := by
  obtain ⟨d, hd, heq⟩ := log2Num_eq m e
  have hunit : (2 : ℚ) ^ (256 : Int) * 2 ^ (-256 : Int) = 1 := by rw [← zpow_add₀ two_ne_zero, add_neg_cancel, zpow_zero]
  have hdq : (d : ℚ) < 2 ^ (256 : Int) := by exact_mod_cast hd
  have hpos : (0 : ℚ) < 2 ^ (-256 : Int) := by positivity
  generalize (Nat.log2 m : Int) + e = K at *
  refine ⟨_, _, heq, ?_, ?_⟩
  · rw [numVal_ofMultiple]
    push_cast
    have : 0 ≤ (d : ℚ) * 2 ^ (-256 : Int) := by positivity
    linear_combination this - (K : ℚ) * hunit
  · rw [numVal_ofMultiple]
    push_cast
    have := mul_lt_mul_of_pos_right hdq hpos
    linear_combination this + (K : ℚ) * hunit + hunit

theorem log2F32_fin {bits m : Nat} {e : Int} (h : floatVal fF32 bits = .fin false m e) (hm : m ≠ 0) : log2F32 bits
    = if m = 2 ^ Nat.log2 m then roundTo fF32 .rne false (numOfInt ((Nat.log2 m : Int) + e))
      else within (log2Num m e) (if (Nat.log2 m : Int) + e = 0 ∨ (Nat.log2 m : Int) + e = -1 then apart 22 else ulps 2 (log2Num m e))
        (Config.vlog2 (BitVec.ofNat 32 bits)).toNat := by
  unfold log2F32
  rw [h]
  exact (if_neg hm).trans (if_neg Bool.false_ne_true)

/-- Half a step at a number below a power of two. -/
theorem halfStep_of_lt {neg : Bool} {m : Nat} {e k : Int} (h : |numVal (.fin neg m e)| < 2 ^ (k + 1)) (hk : -126 ≤ k) : halfStep m e ≤ 2 ^ (k - 24) := by
  unfold halfStep
  split
  · positivity
  next hm =>
    have hK := (zpow_lt_zpow_iff_right₀ one_lt_two).1 ((numLog_bounds neg hm e).1.trans_lt h)
    refine zpow_le_zpow_right₀ one_le_two ?_
    rw [numLog] at hK
    unfold stepExp
    omega

/-- The magnitude of a number. -/
theorem abs_numVal (neg : Bool) (m : Nat) (e : Int) : |numVal (.fin neg m e)| = numVal (.fin false m e) := by
  have hpos : 0 ≤ numVal (.fin false m e) := by
    rw [numVal_fin, signOf_false]
    positivity
  rw [numVal_signed, abs_mul, abs_of_nonneg hpos]
  cases neg <;> simp

/-- A choice for a number of a known size, under an absolute bound. -/
theorem within_apart {neg : Bool} {m : Nat} {e k : Int} {n : Nat} (cand : Nat) (h : |numVal (.fin neg m e)| < 2 ^ (k + 1)) (hk : -126 ≤ k) (hk' : k ≤ 126)
    (hn : (n : Int) ≤ 24 - k) : nearTo (floatVal fF32 (within (.fin neg m e) (apart n) cand)) (.fin neg m e) (apart n) := by
  refine within_near cand (isFin_fin ..) ?_ ?_
  · rw [← abs_numVal neg, gridVal_top]
    refine h.le.trans ((zpow_le_zpow_right₀ one_le_two (show k + 1 ≤ 127 by omega)).trans ?_)
    norm_num
  · rw [numVal_apart]
    exact (halfStep_of_lt h hk).trans (zpow_le_zpow_right₀ one_le_two (by omega))

/-- A choice for a number of a known size, within two steps. -/
theorem within_ulps {neg : Bool} {m : Nat} {e k : Int} (cand : Nat) (h : |numVal (.fin neg m e)| < 2 ^ (k + 1)) (hk : k ≤ 126) :
    nearTo (floatVal fF32 (within (.fin neg m e) (ulps 2 (.fin neg m e)) cand)) (.fin neg m e) (ulps 2 (.fin neg m e)) := by
  refine within_near cand (isFin_ulps 2 (isFin_fin ..)) ?_ (half_step_le_ulps neg m e)
  rw [← abs_numVal neg, gridVal_top]
  refine h.le.trans ((zpow_le_zpow_right₀ one_le_two (show k + 1 ≤ 127 by omega)).trans ?_)
  norm_num

/-- The binade of a source. -/
theorem Source32.binade {bits : Nat} {neg : Bool} {m : Nat} {e : Int} (h : Source32 bits neg m e) :
    -149 ≤ (Nat.log2 m : Int) + e ∧ (Nat.log2 m : Int) + e ≤ 127 :=
  ⟨le_binade h.ne_zero h.least, binade_le h.ne_zero h.high⟩

/-- A source is a power of two exactly if its significand is. -/
theorem two_pow_log2_iff {m : Nat} {e : Int} (h : ∀ k : Int, numVal (.fin false m e) ≠ 2 ^ k) : m ≠ 2 ^ Nat.log2 m := fun hm =>
  h ((Nat.log2 m : Int) + e) (by
    rw [numVal_fin, signOf_false, one_mul, zpow_add₀ two_ne_zero, zpow_natCast]
    congr 1
    exact_mod_cast hm)

/-- VLOG2 of a number that is no power of two: within 2^−22 between 1/2 and 2, else within two steps. -/
theorem log2F32_near {bits m : Nat} {e : Int} (h : Source32 bits false m e) (hpow : ∀ k : Int, numVal (.fin false m e) ≠ 2 ^ k) :
    nearTo (floatVal fF32 (log2F32 bits)) (log2Num m e)
      (if 1 / 2 ≤ numVal (.fin false m e) ∧ numVal (.fin false m e) ≤ 2 then apart 22 else ulps 2 (log2Num m e)) := by
  obtain ⟨hK, hK'⟩ := binade_bounds h.ne_zero e
  obtain ⟨hlow, hhigh⟩ := h.binade
  have hrange : (Nat.log2 m : Int) + e = 0 ∨ (Nat.log2 m : Int) + e = -1 ↔ 1 / 2 ≤ numVal (.fin false m e) ∧ numVal (.fin false m e) ≤ 2 := by
    constructor
    · rintro (h0 | h0) <;> rw [h0] at hK hK' <;> norm_num at hK hK' ⊢ <;> constructor <;> linarith
    · rintro ⟨h1, h2⟩
      have hlt : numVal (.fin false m e) < 2 ^ ((0 : Int) + 1) := lt_of_le_of_ne (by simpa using h2) (hpow _)
      have := binade_le h.ne_zero hlt
      have := le_binade h.ne_zero (show (2 : ℚ) ^ (-1 : Int) ≤ numVal (.fin false m e) by norm_num at h1 ⊢; exact h1)
      omega
  obtain ⟨s, n, hy, hlo, hhi⟩ := log2Num_bounds m e
  rw [log2F32_fin h.val h.ne_zero, if_neg (two_pow_log2_iff hpow), if_congr hrange rfl rfl, hy]
  generalize (Nat.log2 m : Int) + e = K at *
  have hlowq : (-149 : ℚ) ≤ K := by exact_mod_cast hlow
  have hhighq : (K : ℚ) ≤ 127 := by exact_mod_cast hhigh
  split
  next hin =>
    refine within_apart (k := 0) _ (abs_lt.2 ?_) (by omega) (by omega) (by norm_num)
    rcases hrange.2 hin with rfl | rfl <;> norm_num at hlo hhi ⊢ <;> constructor <;> linarith
  next => exact within_ulps (k := 7) _ (abs_lt.2 ⟨by norm_num; linarith, by norm_num; linarith⟩) (by norm_num)

/-! ## VSINP (R144, R145) -/

/-- A magnitude in fixed point. -/
theorem abs_lt_of_units {s : Bool} {n k : Nat} (h : n < 2 ^ (320 + k)) : |numVal (.fin s n (-320))| < 2 ^ (k : Int) := by
  have hq : (n : ℚ) < 2 ^ ((320 : Int) + k) := by exact_mod_cast h
  rw [abs_numVal, numVal_fin, signOf_false, one_mul, zpow_neg, ← div_eq_mul_inv, div_lt_iff₀ (by positivity), ← zpow_add₀ two_ne_zero, add_comm]
  exact hq

theorem sinTail_le (q fuel k : Nat) : sinTail q fuel k ≤ 2 ^ 320 := by
  cases fuel with
  | zero => exact le_rfl
  | succ fuel => exact Nat.sub_le _ _

/-- sin(π x) in fixed point does not exceed 2 in magnitude. -/
theorem sinpNum_bound (neg : Bool) (m : Nat) (e : Int) : ∃ s n, sinpNum neg m e = .fin s n (-320) ∧ |numVal (.fin s n (-320))| < 2 ^ ((1 : Int) + 1) := by
  refine ⟨_, _, rfl, ?_⟩
  have hy : min (fixOf m e % 2 ^ 321 % 2 ^ 320) (2 ^ 320 - fixOf m e % 2 ^ 321 % 2 ^ 320) * fixPi / 2 ^ 320 ≤ fixPi := by
    refine Nat.div_le_of_le_mul (Nat.mul_le_mul_right _ ((Nat.min_le_left _ _).trans (Nat.mod_lt _ (by positivity)).le))
  generalize min (fixOf m e % 2 ^ 321 % 2 ^ 320) (2 ^ 320 - fixOf m e % 2 ^ 321 % 2 ^ 320) * fixPi / 2 ^ 320 = y at *
  have hmag : y * sinTail (y * y / 2 ^ 320) 40 1 / 2 ^ 320 < 2 ^ 322 :=
    (Nat.div_le_of_le_mul ((Nat.mul_le_mul hy (sinTail_le _ 40 1)).trans_eq (Nat.mul_comm _ _))).trans_lt (by decide +kernel : fixPi < 2 ^ 322)
  exact abs_lt_of_units hmag

/-- VSINP of a number that is not whole, within 2^−22. -/
theorem sinpF32_near {bits : Nat} {neg : Bool} {m : Nat} {e : Int} (h : floatVal fF32 bits = .fin neg m e) (hint : ∀ i : Int, numVal (.fin neg m e) ≠ i) :
    nearTo (floatVal fF32 (sinpF32 bits)) (sinpNum neg m e) (apart 22) := by
  obtain ⟨s, n, hy, hbound⟩ := sinpNum_bound neg m e
  have hval : sinpF32 bits = within (sinpNum neg m e) (apart 22) (Config.vsinp (BitVec.ofNat 32 bits)).toNat := by
    unfold sinpF32
    rw [h]
    dsimp only
    rw [integral_eq_none.2 hint]
  rw [hval, hy]
  exact within_apart (k := 1) _ hbound (by norm_num) (by norm_num) (by norm_num)

/-! ## VTANH (R144, R145) -/

/-- tanh x in the model's arithmetic stays below 2 in magnitude. -/
theorem tanhNum_bound (neg : Bool) (m : Nat) (e : Int) : ∃ s n k, tanhNum neg m e = .fin s n k ∧ |numVal (.fin s n k)| < 2 ^ ((0 : Int) + 1) := by
  unfold tanhNum
  split
  next hsmall =>
    obtain ⟨s, n, k, hsum⟩ := isFin_numAdd false (isFin_fin neg m e) (isFin_fin (!neg) (m ^ 3) (3 * e - 2))
    refine ⟨s, n, k, hsum, ?_⟩
    rw [numCmp_lt_zero (isFin_fin ..) (isFin_fin ..), numVal_fin false 1, signOf_false, Nat.cast_one, one_mul, one_mul] at hsmall
    have hcube : numVal (.fin false (m ^ 3) (3 * e - 2)) = numVal (.fin false m e) ^ 3 / 4 := by
      rw [numVal_fin, numVal_fin, signOf_false, zpow_sub₀ two_ne_zero, mul_comm 3 e, zpow_mul]
      norm_num
      ring
    rw [← hsum, numVal_numAdd _ (isFin_fin ..) (isFin_fin ..)]
    refine (abs_add_le _ _).trans_lt ?_
    rw [abs_numVal, abs_numVal, hcube]
    have hpos : 0 ≤ numVal (.fin false m e) := abs_numVal neg m e ▸ abs_nonneg _
    have hle : numVal (.fin false m e) ≤ 1 := hsmall.le.trans (by norm_num)
    have hpow : numVal (.fin false m e) ^ 3 ≤ 1 := pow_le_one₀ hpos hle
    norm_num at hsmall ⊢
    linarith
  next =>
    split
    next =>
      refine ⟨_, _, _, rfl, ?_⟩
      rw [abs_numVal, numVal_fin]
      norm_num
    next =>
      refine ⟨_, _, _, rfl, ?_⟩
      generalize fixExp2 (2 * fixOf m e * 2 ^ 320 / fixLn2 % 2 ^ 320) <<< (2 * fixOf m e * 2 ^ 320 / fixLn2 / 2 ^ 320) = E
      have hmag : (E - 2 ^ 320) * 2 ^ 320 / (E + 2 ^ 320) < 2 ^ 321 :=
        (Nat.div_le_of_le_mul (Nat.mul_le_mul_right _ ((Nat.sub_le _ _).trans (Nat.le_add_right _ _)))).trans_lt (Nat.pow_lt_pow_right (by norm_num) (by norm_num))
      exact abs_lt_of_units hmag

theorem tanhF32_source {bits : Nat} {neg : Bool} {m : Nat} {e : Int} (h : floatVal fF32 bits = .fin neg m e) (hm : m ≠ 0) : tanhF32 bits
    = within (tanhNum neg m e) (if numCmp (ulps 2 (tanhNum neg m e)) (apart 24) ≤ 0 then ulps 2 (tanhNum neg m e) else apart 24)
      (Config.vtanh (BitVec.ofNat 32 bits)).toNat := by
  unfold tanhF32
  rw [h]
  exact if_neg hm

/-- A larger tolerance. -/
theorem nearTo_mono {v x tol tol' : Num} (hv : IsFin v) (hx : IsFin x) (ht : IsFin tol) (ht' : IsFin tol') (hle : numVal tol ≤ numVal tol')
    (h : nearTo v x tol) : nearTo v x tol' :=
  (nearTo_iff hv hx ht').2 (((nearTo_iff hv hx ht).1 h).trans hle)

/-- What is chosen for a number in the range of F32 is finite. -/
theorem isFin_within {neg : Bool} {m : Nat} {e : Int} (tol : Num) (cand : Nat) (htop : numVal (.fin false m e) ≤ gridVal fF32 fF32.top) :
    IsFin (floatVal fF32 (within (.fin neg m e) tol cand)) := by
  rcases within_cases (.fin neg m e) tol cand with ⟨hw, hfin, -⟩ | hw
  · rwa [hw]
  · obtain ⟨g, hg, hround, -⟩ := roundTo_rne_near neg htop
    rw [hw, hround]
    exact (floatVal_signed f32_ok neg hg).1

/-- VTANH within both bounds, the smaller of which it keeps. -/
theorem tanhF32_near {bits : Nat} {neg : Bool} {m : Nat} {e : Int} (h : floatVal fF32 bits = .fin neg m e) (hm : m ≠ 0) :
    nearTo (floatVal fF32 (tanhF32 bits)) (tanhNum neg m e) (ulps 2 (tanhNum neg m e)) ∧ nearTo (floatVal fF32 (tanhF32 bits)) (tanhNum neg m e) (apart 24) := by
  obtain ⟨s, n, k, hy, hbound⟩ := tanhNum_bound neg m e
  rw [tanhF32_source h hm, hy]
  have hfin : IsFin (ulps 2 (.fin s n k)) := isFin_ulps 2 (isFin_fin ..)
  have htop : numVal (.fin false n k) ≤ gridVal fF32 fF32.top := by
    rw [← abs_numVal s, gridVal_top]
    exact hbound.le.trans (by norm_num)
  have hv (tol : Num) (cand : Nat) := isFin_within (neg := s) tol cand htop
  split
  next hle =>
    have hnear := within_ulps (neg := s) (Config.vtanh (BitVec.ofNat 32 bits)).toNat hbound (by norm_num)
    exact ⟨hnear, nearTo_mono (hv _ _) (isFin_fin ..) hfin (isFin_fin ..) ((numCmp_le_zero hfin (isFin_fin ..)).1 hle) hnear⟩
  next hle =>
    have hnear := within_apart (neg := s) (n := 24) (Config.vtanh (BitVec.ofNat 32 bits)).toNat hbound (by norm_num) (by norm_num) (by norm_num)
    exact ⟨nearTo_mono (hv _ _) (isFin_fin ..) (isFin_fin ..) hfin (le_of_not_ge (mt (numCmp_le_zero hfin (isFin_fin ..)).2 hle)) hnear, hnear⟩

end Sys2Proof.Machine

namespace Sys2Proof

open Machine

/-- The values of a source and of a result of F32 under the same sign. -/
theorem signed_product (neg : Bool) (v x : ℚ) : signOf neg * v * (signOf neg * x) = v * x := by cases neg <;> simp

/-- Settles O42: a quotient or root with its sticky bit decides as the exact value does, and each choice lies within its tolerance or is the
nearest number, half a step away. -/
theorem specialFunctionBounds : Obligations.SpecialFunctionBounds := by
  unfold Obligations.SpecialFunctionBounds
  intro bits neg m e hbits hval hm x mag top ulp val
  obtain ⟨-, -, -, -, h⟩ := source32_of_bits hbits hval (Nat.pos_iff_ne_zero.1 hm)
  have htop : top = gridVal fF32 fF32.top := (floatVal_magnitude f32_ok le_rfl).2
  refine ⟨fun hin => ?rcp, fun hover => ?rcpOver, ?rsq, fun hlow hhigh => ?exp2, fun htiny => ?exp2Tiny, ?log2, fun hint => ?sinp, ?tanh⟩
  case rcp =>
    obtain ⟨k, hk, hk', g, hg, hbitsOut, hdist⟩ := rcpF32_near h (htop ▸ hin)
    have hout : val rcpF32 = floatVal fF32 (signBit fF32 neg + g) := congrArg (floatVal fF32) hbitsOut
    refine ⟨k, hk, hk', hout ▸ ⟨_, _, floatVal_finite f32_ok neg hg⟩, ?_⟩
    rw [hout, (floatVal_signed f32_ok neg hg).2, numVal_signed neg m e, signed_product]
    exact hdist
  case rcpOver => rw [rcpF32_source h, if_pos ((rcp_beyond h.ne_zero neg e).2 (htop ▸ hover))]
  case rsq =>
    rintro rfl
    obtain ⟨k, hk, hk', g, hg, hbitsOut, hstep, hbelow, habove⟩ := rsqF32_near h
    have hout : numVal (val rsqF32) = gridVal fF32 g := by
      rw [← (floatVal_magnitude f32_ok hg).2, ← hbitsOut]
    refine ⟨k, hk, hk', ?_⟩
    rw [hout]
    exact ⟨hstep, hbelow, habove⟩
  case exp2 =>
    obtain ⟨n, j, hy, -, -⟩ := exp2Num_bounds h hbits hhigh
    obtain ⟨hle, hdist, -⟩ := exp2F32_near h hbits hlow hhigh
    obtain ⟨hfin, hv⟩ := floatVal_magnitude f32_ok hle
    rw [hy] at hdist ⊢
    exact (nearTo_iff hfin (isFin_fin ..) (isFin_ulps 2 (isFin_fin ..))).2 (hv ▸ hdist)
  case exp2Tiny =>
    obtain ⟨hle, hdist⟩ := exp2F32_tiny hval htiny
    obtain ⟨hfin, hv⟩ := floatVal_magnitude f32_ok hle
    refine (nearTo_iff hfin (isFin_fin ..) (isFin_fin ..)).2 ?_
    rw [numVal_zero, sub_zero, numVal_fin, signOf_false, one_mul]
    exact hv ▸ hdist
  case log2 =>
    rintro rfl hpow
    exact log2F32_near h hpow
  case sinp =>
    refine sinpF32_near hval fun i hi => hint (if neg then -i else i) ?_
    rw [numVal_signed] at hi
    cases neg
    · simpa using hi
    · push_cast [← hi]
      simp [mag]
  case tanh => exact tanhF32_near hval h.ne_zero

end Sys2Proof
end
section
/-! PROOFS. Division, square root and the special functions: special sources, exact results, and the forms of VEC1 (R144, R145). -/

namespace Sys2Proof.Machine

open Sys2Proof

/-! ## Numbers that F32 represents -/

/-- A significand of 24 bits over an exponent of F32 is a magnitude of F32, if it is not beyond the largest. -/
theorem exists_gridVal {m : Nat} {e : Int} (hm : m < 2 ^ 24) (he : -149 ≤ e) (htop : numVal (.fin false m e) ≤ gridVal fF32 fF32.top) :
    ∃ g, g ≤ fF32.top ∧ numVal (.fin false m e) = gridVal fF32 g := by
  refine ⟨_, gridBits_rtz_le f32_ok htop, ?_⟩
  obtain ⟨hlo, hhi⟩ := gridBits_between fF32 f32_ok.frac m e
  by_cases h0 : m = 0
  · have hbits : gridBits fF32 .rtz false m e = 0 := if_pos h0
    rw [hbits, gridVal_zero, h0, numVal_zero]
  · have hlog : Nat.log2 m < 24 := (Nat.log2_lt h0).2 hm
    obtain ⟨k, hk⟩ := Int.eq_ofNat_of_zero_le (show 0 ≤ e - stepExp m e by unfold stepExp; omega)
    have hx : numVal (.fin false m e) = (m * 2 ^ k : Nat) * 2 ^ stepExp m e := by
      rw [numVal_fin, signOf_false, one_mul, show e = (k : Int) + stepExp m e by omega, zpow_add₀ two_ne_zero, zpow_natCast, ← hk]
      push_cast
      rw [show e - stepExp m e + stepExp m e = e by ring]
      ring
    have hpos : (0 : ℚ) < 2 ^ stepExp m e := by positivity
    rw [gridVal_succ, gridVal, gridUlp_stepExp h0, ← add_one_mul, hx, mul_lt_mul_iff_left₀ hpos] at hhi
    rw [gridVal, gridUlp_stepExp h0, hx, mul_le_mul_iff_left₀ hpos] at hlo
    have hle : gridMant fF32 (gridBits fF32 .rtz false m e) ≤ m * 2 ^ k := by exact_mod_cast hlo
    have hlt : m * 2 ^ k < gridMant fF32 (gridBits fF32 .rtz false m e) + 1 := by exact_mod_cast hhi
    rw [hx, gridVal, gridUlp_stepExp h0, le_antisymm hle (Nat.lt_succ_iff.1 hlt)]

/-- A represented number is rounded to its own bits, whose value is that number. -/
theorem roundTo_exact32 (neg : Bool) {m : Nat} {e : Int} {g : Nat} (hg : g ≤ fF32.top) (hval : numVal (.fin false m e) = gridVal fF32 g) :
    roundTo fF32 .rne false (.fin neg m e) = signBit fF32 neg + g
    ∧ ∃ m' e', floatVal fF32 (signBit fF32 neg + g) = .fin neg m' e' ∧ numVal (.fin neg m' e') = numVal (.fin neg m e) := by
  have hsigned : numVal (.fin neg m e) = signOf neg * gridVal fF32 g := by rw [numVal_signed, hval]
  exact ⟨roundTo_represented f32_ok .rne false neg hg hsigned, _, _, floatVal_finite f32_ok neg hg, by rw [numVal_grid, hsigned]⟩

theorem numVal_numOfInt (n : Int) : numVal (numOfInt n) = n := by
  rw [numOfInt, numVal_ofMultiple, zpow_zero, mul_one]

/-- A whole number up to 2^24 in magnitude is a number of F32. -/
theorem exists_gridVal_whole {n : Nat} (h : n ≤ 2 ^ 24) : ∃ g, g ≤ fF32.top ∧ numVal (.fin false n 0) = gridVal fF32 g := by
  rcases h.lt_or_eq with hlt | rfl
  · refine exists_gridVal hlt (by norm_num) ?_
    have : (n : ℚ) ≤ 2 ^ 24 := by exact_mod_cast h
    rw [numVal_natural, gridVal_top]
    exact this.trans (by norm_num)
  · obtain ⟨g, hg, hval⟩ := exists_gridVal (m := 1) (e := 24) (by norm_num) (by norm_num) (by rw [gridVal_top]; norm_num [numVal_fin])
    exact ⟨g, hg, Eq.trans (by norm_num [numVal_fin]) hval⟩

/-- A power of two in the range of F32 is a number of F32. -/
theorem exists_gridVal_two_pow {n : Int} (hlow : -149 ≤ n) (hhigh : n ≤ 127) : ∃ g, g ≤ fF32.top ∧ numVal (.fin false 1 n) = gridVal fF32 g := by
  refine exists_gridVal (by norm_num) hlow ?_
  rw [numVal_fin, signOf_false, Nat.cast_one, one_mul, one_mul, gridVal_top]
  exact (zpow_le_zpow_right₀ one_le_two hhigh).trans (by norm_num)

/-! ## Sources by their bits -/

/-- A magnitude of F32 other than 0, with a sign, is a source. -/
theorem exists_source32 (neg : Bool) {g : Nat} (hpos : 0 < g) (hg : g ≤ fF32.top) :
    ∃ m e, Source32 (signBit fF32 neg + g) neg m e ∧ numVal (.fin false m e) = gridVal fF32 g := by
  have hv := floatVal_finite f32_ok neg hg
  have hval : numVal (.fin false (gridMant fF32 g) (ulpExp fF32 g)) = gridVal fF32 g := by rw [numVal_grid, signOf_false, one_mul]
  have hm : gridMant fF32 g ≠ 0 := fun h0 => by
    have hlt := gridVal_strictMono fF32 hpos
    rw [gridVal_zero, ← hval, numVal_eq_zero.2 h0] at hlt
    exact lt_irrefl _ hlt
  have hbits : signBit fF32 neg + g < 2 ^ 32 := by
    have hs : signBit fF32 neg ≤ 2 ^ 31 := by cases neg <;> decide
    have ht : fF32.top < 2 ^ 31 := by decide
    omega
  obtain ⟨-, -, -, -, hsource⟩ := source32_of_bits hbits hv hm
  exact ⟨_, _, hsource, hval⟩

/-- The bits of a negative source. -/
theorem negative_bits {x : Nat} (hlow : 0x80000001 ≤ x) (hhigh : x < 0xFF800000) :
    ∃ g, x = signBit fF32 true + g ∧ 0 < g ∧ g ≤ fF32.top := by
  have hs : signBit fF32 true = 0x80000000 := rfl
  have ht : fF32.top = 0x7F7FFFFF := rfl
  exact ⟨x - 0x80000000, by omega, by omega, by omega⟩

theorem signBit_false (f : FloatFmt) (n : Nat) : signBit f false + n = n := Nat.zero_add n

/-- VRSQ and VLOG2 of a number below 0 (R145). -/
theorem rsq_log2_negative {x : Nat} (hlow : 0x80000001 ≤ x) (hhigh : x < 0xFF800000) : rsqF32 x = 0x7FC00000 ∧ log2F32 x = 0x7FC00000 := by
  obtain ⟨g, rfl, hpos, hg⟩ := negative_bits hlow hhigh
  obtain ⟨m, e, h, -⟩ := exists_source32 true hpos hg
  constructor
  · unfold rsqF32
    rw [h.val]
    exact (if_neg h.ne_zero).trans (if_pos rfl)
  · unfold log2F32
    rw [h.val]
    exact (if_neg h.ne_zero).trans (if_pos rfl)

/-- VRCP of a number whose reciprocal exceeds the range (R145). -/
theorem rcp_overflows {x : Nat} (hpos : 0 < x) (hx : x ≤ 0x00200000) (neg : Bool) :
    rcpF32 (signBit fF32 neg + x) = if neg then 0xFF800000 else 0x7F800000 := by
  obtain ⟨m, e, h, hval⟩ := exists_source32 neg hpos (hx.trans (by decide))
  have hlast : gridVal fF32 0x00200000 = 2 ^ (-128 : Int) := by norm_num [gridVal, gridMant, gridUlp, fF32]
  have hle := hlast ▸ (gridVal_strictMono fF32).monotone hx
  rw [rcpF32_source h, if_pos ((rcp_beyond h.ne_zero neg e).2 ?_)]
  rw [hval, gridVal_top]
  refine (mul_le_mul_of_nonneg_left hle (by norm_num)).trans_lt ?_
  norm_num

/-- VEXP2 of a number below −126 is subnormal or +0 (R145). -/
theorem exp2_underflows {x : Nat} (hlow : 0xC2FC0001 ≤ x) (hhigh : x < 0xFF800000) : exp2F32 x < 0x00800000 := by
  obtain ⟨g, rfl, hpos, hg⟩ := negative_bits (by omega) hhigh
  obtain ⟨m, e, h, hval⟩ := exists_source32 true hpos hg
  have hs : signBit fF32 true = 0x80000000 := rfl
  have hbits : signBit fF32 true + g < 2 ^ 32 := by omega
  have h126 : gridVal fF32 0x42FC0000 = 126 := by norm_num [gridVal, gridMant, gridUlp, fF32]
  have hx : numVal (.fin true m e) < -126 := by
    have := gridVal_strictMono fF32 (show 0x42FC0000 < g by omega)
    rw [numVal_signed, hval, signOf_true]
    linarith
  rcases le_or_gt (numVal (.fin true m e)) (-200) with hfar | hnear
  · refine lt_least_normal ((le_abs_self _).trans_lt ((exp2F32_tiny h.val hfar).2.trans_lt ?_))
    norm_num
  · exact (exp2F32_near h hbits hnear (by linarith)).2.2 hx

/-- VEXP2 of 128 and more (R145). -/
theorem exp2_overflows {x : Nat} (hlow : 0x43000000 ≤ x) (hhigh : x < 0x7F800000) : exp2F32 x = 0x7F800000 := by
  obtain ⟨m, e, h, hval⟩ := exists_source32 false (g := x) (by omega) (show x ≤ 0x7F7FFFFF by omega)
  have h128 : gridVal fF32 0x43000000 = 128 := by norm_num [gridVal, gridMant, gridUlp, fF32]
  rw [signBit_false] at h
  refine exp2F32_over h.val ?_
  rw [hval, ← h128]
  exact (gridVal_strictMono fF32).monotone hlow

/-- VEXP2 of a whole number, and VLOG2 of a power of two, are exact (R144). -/
theorem exp2_log2_exact {n : Int} (hlow : -149 ≤ n) (hhigh : n ≤ 127) :
    exp2F32 (roundTo fF32 .rne false (numOfInt n)) = roundTo fF32 .rne false (.fin false 1 n)
    ∧ log2F32 (roundTo fF32 .rne false (.fin false 1 n)) = roundTo fF32 .rne false (numOfInt n) := by
  constructor
  · obtain ⟨g, hg, hval⟩ := exists_gridVal_whole (n := n.natAbs) (by omega)
    obtain ⟨hround, m, e, hfloat, hnum⟩ := roundTo_exact32 (decide (n < 0)) hg hval
    have hx : numVal (.fin (decide (n < 0)) m e) = n := hnum.trans (numVal_numOfInt n)
    have hlowq : (-149 : ℚ) ≤ n := by exact_mod_cast hlow
    have hhighq : (n : ℚ) ≤ 127 := by exact_mod_cast hhigh
    rw [numOfInt, hround, exp2F32_integral hfloat (by linarith) (by linarith) hx, if_pos hlow]
  · obtain ⟨g, hg, hval⟩ := exists_gridVal_two_pow hlow hhigh
    obtain ⟨hround, m, e, hfloat, hnum⟩ := roundTo_exact32 false hg hval
    have hpow : numVal (.fin false m e) = 2 ^ n := by rw [hnum, numVal_fin, signOf_false, Nat.cast_one, one_mul, one_mul]
    have hm : m ≠ 0 := fun h0 => (zpow_pos two_pos n).ne' (hpow.symm.trans (numVal_eq_zero.2 h0))
    have hbinade : (Nat.log2 m : Int) + e = n :=
      le_antisymm (binade_le hm (hpow.trans_lt (zpow_lt_zpow_right₀ one_lt_two (lt_add_one n)))) (le_binade hm hpow.ge)
    have hmant : m = 2 ^ Nat.log2 m := by
      rw [numVal_fin, signOf_false, one_mul, ← hbinade, zpow_add₀ two_ne_zero, zpow_natCast] at hpow
      exact_mod_cast mul_right_cancel₀ (zpow_ne_zero e two_ne_zero) hpow
    rw [hround, log2F32_fin hfloat hm, if_pos hmant, hbinade]

/-- VSINP of a whole number is a zero with its sign (R145). -/
theorem sinp_whole {n : Int} (hlow : -2 ^ 24 ≤ n) (hhigh : n ≤ 2 ^ 24) :
    sinpF32 (roundTo fF32 .rne false (numOfInt n)) = if n < 0 then 0x80000000 else 0 := by
  obtain ⟨g, hg, hval⟩ := exists_gridVal_whole (n := n.natAbs) (by omega)
  obtain ⟨hround, m, e, hfloat, hnum⟩ := roundTo_exact32 (decide (n < 0)) hg hval
  have hsign : sinpF32 (signBit fF32 (decide (n < 0)) + g) = (signBit fF32 (decide (n < 0)) + g) / 2 ^ 31 * 2 ^ 31 := by
    unfold sinpF32
    rw [hfloat]
    dsimp only
    rw [integral_eq_some.2 (hnum.trans (numVal_numOfInt n))]
  rw [numOfInt, hround, hsign, (signBit_parts _ (hg.trans_lt (by decide))).1]
  by_cases h : n < 0 <;> simp only [h, decide_true, decide_false, if_true, if_false] <;> rfl

/-! ## The forms (R137, R144) -/

/-- A slot accepts formats in whatever order they are listed. -/
theorem vFmt_of_same {fp : Bool} {dflt : Nat} {ok ok' : List Nat} {c : Ctl} {s : State} (f : Nat → State → State) (h : ∀ code, code ∈ ok ↔ code ∈ ok') :
    vFmt fp dflt ok c s f = vFmt fp dflt ok' c s f := by
  have hsame (code : Nat) : ok.contains code = ok'.contains code := by rw [Bool.eq_iff_iff, List.contains_iff_mem, List.contains_iff_mem, h]
  simp only [vFmt, hsame]

/-- RMODE.MODE with SR taken as RNE (R59). -/
theorem rneMode_eq (s : State) : (if isSr (rmode s) = true then Rnd.rne else rneMode s) = rneMode s := by
  split
  next h => simp only [rneMode, modeOf, of_decide_eq_true h]
  next => rfl

theorem rneMode_slotState (fp : Bool) (s : State) (code : Nat) : rneMode (slotState fp s code) = rneMode s := by
  rw [rneMode, (slotState_reads fp s code).2.2.1, rneMode]

/-- Functions 0 to 5: the F32 result of the widened source, converted by RNE. -/
theorem vecSpecial_merges {c : Ctl} {s : State} {i : Instr} {d a : Reg} {m : BitVec 3} (g : Nat → Nat) (hexec : exec i s = vecSpecial g c d a m s) :
    mergingForm c s i true 0 [0, 1, 2] 8 d m (fun code e => roundTo (fmtOf code) .rne false (floatVal fF32
      (g (roundTo fF32 .rne false (floatVal (fmtOf code) (elemOf (V s a) (codeWidth code) e)))))) := by
  have hwidth : ∀ code ∈ [0, 1, 2], (fmtOf code).width = codeWidth code := fun code h => width_fmtOf (by simp at h ⊢; omega)
  refine mergingForm_of_mapV (width := fun code => (fmtOf code).width) (g := fun t code e => roundTo (fmtOf code) .rne false (floatVal fF32
    (g (roundTo fF32 .rne false (floatVal (fmtOf code) (elemOf (V t a) (fmtOf code).width e)))))) hexec (fun _ => rfl) hwidth fun code hok e => ?_
  simp only [(slotState_reads true s code).1, hwidth code hok]

/-- VDIV and VSQRT: one rounding of an exact value of the sources by RMODE, SR taken as RNE. -/
theorem vecExact_merges {c : Ctl} {s : State} {i : Instr} {d : Reg} {m : BitVec 3} (x : (Reg → BitVec 2048) → FloatFmt → Nat → Nat → Num)
    (hexec : exec i s = vFmt true 0 [0, 1, 2, 11] c s (fun code t => mapV t 8 d (fmtOf code).width m (fun e =>
      roundTo (fmtOf code) (rneMode t) false (x (V t) (fmtOf code) (fmtOf code).width e)))) :
    mergingForm c s i true 0 [0, 11, 1, 2] 8 d m (fun code e => roundTo (fmtOf code) (if isSr (rmode s) = true then .rne else rneMode s) false
      (x (V s) (fmtOf code) (codeWidth code) e)) := by
  rw [vFmt_of_same (ok' := [0, 11, 1, 2]) _ (by simp; omega)] at hexec
  refine mergingForm_of_mapV (width := fun code => (fmtOf code).width) (g := fun t code e => roundTo (fmtOf code) (rneMode t) false
    (x (V t) (fmtOf code) (fmtOf code).width e)) hexec (fun _ => rfl) (fun code => width_fmtOf) fun code hok e => ?_
  simp only [(slotState_reads true s code).1, rneMode_slotState, rneMode_eq, width_fmtOf hok]

end Sys2Proof.Machine

namespace Sys2Proof

open Machine

/-- Settles O41: special sources by evaluation, exact results by the numbers that F32 represents, and the forms of VEC1 by their elements. -/
theorem specialFunctions : Obligations.SpecialFunctions := by
  unfold Obligations.SpecialFunctions
  intro special
  refine ⟨by decide, by decide, by decide, by decide, by decide, by decide, fun x => rsq_log2_negative, fun x hpos hx => ⟨?rcp, rcp_overflows hpos hx true⟩,
    fun n => exp2_log2_exact, fun x => exp2_underflows, fun x => exp2_overflows, fun n => sinp_whole, ?unary, ?rounded⟩
  case rcp => simpa [signBit] using rcp_overflows hpos hx false
  case unary =>
    intro c d a m s p hp
    simp only [List.mem_cons, List.not_mem_nil, or_false] at hp
    rcases hp with rfl | rfl | rfl | rfl | rfl | rfl <;> exact vecSpecial_merges _ rfl
  case rounded =>
    intro c d a b m s r
    exact ⟨vecExact_merges (fun v f w e => numDiv 128 (floatVal f (elemOf (v a) w e)) (floatVal f (elemOf (v b) w e))) rfl,
      vecExact_merges (fun v f w e => numSqrt 128 (floatVal f (elemOf (v a) w e))) rfl⟩

end Sys2Proof
end
section
/-! PROOFS. Vector integer arithmetic, logic and shifts (R146, R147). -/

namespace Sys2Proof.Machine

open Sys2Proof

/-! ## Values modulo the width (R138) -/

/-- A vector result counts modulo the width of its elements. -/
theorem vectorOut_congr {s t : State} {lat w : Nat} {d : Reg} {g g' : Nat → Option Nat}
    (h : ∀ e, e < 2048 / w → (g e).map (· % 2 ^ w) = (g' e).map (· % 2 ^ w)) (ho : vectorOut s t lat w d g) : vectorOut s t lat w d g' := by
  obtain ⟨mask, val, rfl, hw⟩ := ho
  refine ⟨mask, val, rfl, fun e he => ?_⟩
  have helem := hw e he
  have hsame := h e he
  cases hg : g e <;> cases hg' : g' e <;> rw [hg, hg'] at hsame
  · simpa [hg] using helem
  · cases hsame
  · cases hsame
  · rw [hg] at helem
    exact ⟨helem.1, helem.2.trans (Option.some_inj.1 hsame)⟩

theorem elementForm_congr {c : Ctl} {s : State} {i : Instr} {fp : Bool} {dflt : Nat} {ok : List Nat} {lat : Nat} {d : Reg}
    {g g' : Nat → Nat → Option Nat}
    (h : ∀ code ∈ ok, ∀ e, e < 2048 / codeWidth code → (g code e).map (· % 2 ^ codeWidth code) = (g' code e).map (· % 2 ^ codeWidth code))
    (hf : elementForm c s i fp dflt ok lat d g) : elementForm c s i fp dflt ok lat d g' := by
  refine ⟨hf.1, fun code hr hw => ?_⟩
  have := hf.2 code hr hw
  by_cases hok : code ∈ ok
  · simp only [hok, if_true] at this ⊢
    obtain ⟨t, ht, ho⟩ := this
    exact ⟨t, ht, vectorOut_congr (h code hok) ho⟩
  · simp only [hok, if_false] at this ⊢
    exact this

theorem mergingForm_congr {c : Ctl} {s : State} {i : Instr} {fp : Bool} {dflt : Nat} {ok : List Nat} {lat : Nat} {d : Reg} {m : BitVec 3}
    {f f' : Nat → Nat → Nat} (h : ∀ code ∈ ok, ∀ e, f code e % 2 ^ codeWidth code = f' code e % 2 ^ codeWidth code)
    (hf : mergingForm c s i fp dflt ok lat d m f) : mergingForm c s i fp dflt ok lat d m f' := by
  refine elementForm_congr (fun code hok e _ => ?_) hf
  simp only [onLanes]
  split
  · exact congrArg some (h code hok e)
  · rfl

/-! ## Integer formats (R49, R146) -/

/-- The integer working formats, with N32 the unsigned one. -/
def vecInts : List Nat := [12, 13, 9, 14]

/-- The value of an element of an integer working format. -/
def vecVal (code x : Nat) : Int := if code = 14 then (x : Int) else Int.bmod x (2 ^ codeWidth code)

theorem intOf_eq {code : Nat} (h : code ∈ vecInts) : intOf code = (codeWidth code, decide (code ≠ 14)) := by
  simp only [vecInts, List.mem_cons, List.not_mem_nil, or_false] at h
  rcases h with rfl | rfl | rfl | rfl <;> rfl

theorem codeWidth_pos {code : Nat} (h : code ≤ 14) : 0 < codeWidth code := by
  interval_cases code <;> decide

theorem intVal_vecVal {code x : Nat} (h : code ∈ vecInts) (hx : x < 2 ^ codeWidth code) : intVal (codeWidth code) (decide (code ≠ 14)) x = vecVal code x := by
  unfold vecVal
  split
  next h14 => simp [intVal, h14, Nat.mod_eq_of_lt (h14 ▸ hx)]
  next h14 =>
    rw [decide_eq_true h14]
    exact intVal_bmod _ (codeWidth_pos (by simp only [vecInts, List.mem_cons, List.not_mem_nil, or_false] at h; omega)).ne' x

/-- The value of an element of a register. -/
theorem intVal_elemOf {code : Nat} (h : code ∈ vecInts) (v : BitVec 2048) (e : Nat) :
    intVal (codeWidth code) (decide (code ≠ 14)) (elemOf v (codeWidth code) e) = vecVal code (elemOf v (codeWidth code) e) :=
  intVal_vecVal h (elemOf_lt v _ e)

/-- VEC2: the low bits of an exact function of the values. -/
theorem vecInt_merges {c : Ctl} {s : State} {i : Instr} {d a b : Reg} {m : BitVec 3} (g : Nat → Bool → Int → Int → Int) (f : Nat → Int → Int → Int)
    (hexec : exec i s = vecInt g c d a b m s) (hg : ∀ code ∈ vecInts, ∀ x y, g (codeWidth code) (decide (code ≠ 14)) x y = f code x y) :
    mergingForm c s i false 12 vecInts 2 d m (fun code e => intBits (codeWidth code)
      (f code (vecVal code (elemOf (V s a) (codeWidth code) e)) (vecVal code (elemOf (V s b) (codeWidth code) e)))) := by
  refine mergingForm_of_mapV (width := fun code => (intOf code).1) (g := fun t code e => intBits (intOf code).1 (g (intOf code).1 (intOf code).2
    (intVal (intOf code).1 (intOf code).2 (elemOf (V t a) (intOf code).1 e)) (intVal (intOf code).1 (intOf code).2 (elemOf (V t b) (intOf code).1 e))))
    hexec (fun h => by cases h) (fun code hok => by rw [intOf_eq hok]) fun code hok e => ?_
  simp only [(slotState_reads false s code).1, intOf_eq hok, intVal_elemOf hok, hg code hok]

/-- Saturation to the range of a format (R146). -/
theorem clampInt_vec (code : Nat) (x : Int) : clampInt (codeWidth code) (decide (code ≠ 14)) x
    = if code = 14 then max 0 (min (2 ^ 32 - 1) x) else max (-2 ^ (codeWidth code - 1)) (min (2 ^ (codeWidth code - 1) - 1) x) := by
  rw [clampInt, intLo_eq, intHi_eq]
  by_cases h14 : code = 14 <;> simp [h14, codeWidth]

/-! ## Logic and shifts (R147) -/

/-- VEC3: a function of the elements of the three sources. -/
theorem vecLogic_merges {c : Ctl} {s : State} {i : Instr} {d a b : Reg} {m : BitVec 3} (g : Nat → Nat → Nat → Nat → Nat) {ok ok' : List Nat}
    (hexec : exec i s = vecLogic g ok' c d a b m s) (hok : ∀ code, code ∈ ok' ↔ code ∈ ok) : mergingForm c s i false 12 ok 2 d m (fun code e =>
      g (codeWidth code) (elemOf (V s a) (codeWidth code) e) (elemOf (V s b) (codeWidth code) e) (elemOf (V s d) (codeWidth code) e)) := by
  refine mergingForm_of_mapV (width := codeWidth) (g := fun t code e =>
    g (codeWidth code) (elemOf (V t a) (codeWidth code) e) (elemOf (V t b) (codeWidth code) e) (elemOf (V t d) (codeWidth code) e))
    (hexec.trans (vFmt_of_same _ hok)) (fun h => by cases h) (fun _ _ => rfl) fun code _ e => ?_
  simp only [(slotState_reads false s code).1]

/-- The complement of an element, bit by bit. -/
theorem testBit_complement {w y k : Nat} (hy : y < 2 ^ w) (hk : k < w) : (2 ^ w - 1 - y).testBit k = !y.testBit k := by
  rw [Nat.sub_sub, Nat.add_comm, Nat.testBit_two_pow_sub_succ hy, decide_eq_true hk, Bool.true_and]

end Sys2Proof.Machine

namespace Sys2Proof

open Machine

/-- Settles O43: integer forms by the values of their elements, logic bit by bit, shifts by powers of two. -/
theorem integerVectors : Obligations.IntegerVectors := by
  unfold Obligations.IntegerVectors
  intro c d a b m s ints wide val wrap clamp A B D
  have hints : ∀ code, code ∈ [12, 14, 13, 9] ↔ code ∈ ints := fun code => by simp [ints]; omega
  refine ⟨fun p hp => ?arithmetic, fun p hp => ?logic, ?sll, ?srl, ?sra⟩
  case arithmetic =>
    simp only [List.mem_cons, List.not_mem_nil, or_false] at hp
    rcases hp with rfl | rfl | rfl | rfl | rfl | rfl | rfl | rfl
    · exact vecInt_merges (fun _ _ x y => x + y) (fun _ x y => x + y) rfl fun _ _ _ _ => rfl
    · exact vecInt_merges (fun _ _ x y => x - y) (fun _ x y => x - y) rfl fun _ _ _ _ => rfl
    · exact vecInt_merges (fun _ _ x y => x * y) (fun _ x y => x * y) rfl fun _ _ _ _ => rfl
    · exact vecInt_merges (fun w _ x y => x * y / (2 ^ w : Nat)) (fun code x y => x * y / ((2 ^ codeWidth code : Nat) : Int)) rfl fun _ _ _ _ => rfl
    · exact vecInt_merges (fun w g x y => clampInt w g (x + y)) (fun code x y => clamp code (x + y)) rfl fun _ _ _ _ => clampInt_vec ..
    · exact vecInt_merges (fun w g x y => clampInt w g (x - y)) (fun code x y => clamp code (x - y)) rfl fun _ _ _ _ => clampInt_vec ..
    · exact vecInt_merges (fun _ _ => min) (fun _ x y => if x ≤ y then x else y) rfl fun _ _ x y => min_def x y
    · exact vecInt_merges (fun _ _ => max) (fun _ x y => if x ≤ y then y else x) rfl fun _ _ x y => max_def x y
  case logic =>
    have hB (code e k : Nat) (hk : k < codeWidth code) : (2 ^ codeWidth code - 1 - B code e).testBit k = !(B code e).testBit k :=
      testBit_complement (elemOf_lt _ _ _) hk
    have hD (code e k : Nat) (hk : k < codeWidth code) : (2 ^ codeWidth code - 1 - D code e).testBit k = !(D code e).testBit k :=
      testBit_complement (elemOf_lt _ _ _) hk
    simp only [List.mem_cons, List.not_mem_nil, or_false] at hp
    rcases hp with rfl | rfl | rfl | rfl | rfl
    · exact ⟨_, vecLogic_merges (fun _ x y _ => x &&& y) rfl fun _ => Iff.rfl, fun _ _ _ _ _ => Nat.testBit_and ..⟩
    · exact ⟨_, vecLogic_merges (fun _ x y _ => x ||| y) rfl fun _ => Iff.rfl, fun _ _ _ _ _ => Nat.testBit_or ..⟩
    · exact ⟨_, vecLogic_merges (fun _ x y _ => x ^^^ y) rfl fun _ => Iff.rfl, fun _ _ _ _ _ => Nat.testBit_xor ..⟩
    · refine ⟨_, vecLogic_merges (fun w x y _ => x &&& (2 ^ w - 1 - y)) rfl fun _ => Iff.rfl, fun code e k _ hk => ?_⟩
      rw [Nat.testBit_and, hB code e k hk]
    · refine ⟨_, vecLogic_merges (fun w x y z => (z &&& x) ||| ((2 ^ w - 1 - z) &&& y)) rfl fun _ => Iff.rfl, fun code e k _ hk => ?_⟩
      rw [Nat.testBit_or, Nat.testBit_and, Nat.testBit_and, hD code e k hk]
      cases (D code e).testBit k <;> simp [A, B]
  case sll =>
    refine mergingForm_congr (fun code _ e => ?_) (vecLogic_merges (fun w x y _ => x <<< (y % w)) rfl hints)
    rw [Nat.mod_mod, Nat.shiftLeft_eq]
  case srl =>
    refine mergingForm_congr (fun code _ e => ?_) (vecLogic_merges (fun w x y _ => x >>> (y % w)) rfl hints)
    rw [Nat.shiftRight_eq_div_pow]
  case sra =>
    refine mergingForm_congr (fun code hok e => ?_)
      (vecLogic_merges (fun w x y _ => intBits w (intVal w true x / (2 ^ (y % w) : Nat))) rfl fun _ => Iff.rfl)
    have hsigned : code ∈ vecInts ∧ decide (code ≠ 14) = true := by
      simp only [vecInts, List.mem_cons, List.not_mem_nil, or_false, decide_eq_true_eq] at hok ⊢
      omega
    have hval := intVal_elemOf hsigned.1 (V s a) e
    rw [hsigned.2] at hval
    rw [hval]
    rfl

end Sys2Proof
end
section
/-! PROOFS. Vector compares and mask logic (R148, R158). -/

namespace Sys2Proof.Machine

open Sys2Proof

/-! ## Bits that elements set -/

/-- Where each element of a list sets its `u` bits, a bit is set exactly if its element is in the list. -/
theorem testBit_elements {u : Nat} (hu : 0 < u) {l : List Nat} (hnd : l.Nodup) (k : Nat) :
    (l.foldl (fun v e => v + (2 ^ u - 1) * 2 ^ (u * e)) 0).testBit k = decide (k / u ∈ l) := by
  have hones : (2 ^ u - 1) % 2 ^ u = 2 ^ u - 1 := Nat.mod_eq_of_lt (Nat.sub_lt (by positivity) one_pos)
  have hpacked : l.foldl (fun v e => v + (2 ^ u - 1) * 2 ^ (u * e)) 0 = packedAt u (l.map (fun e => (e, 2 ^ u - 1))) 0 := by
    simp only [packedAt, List.foldl_map, hones]
  have hfst : (l.map (fun e => (e, 2 ^ u - 1))).map (·.1) = l := by simp [Function.comp_def]
  have hzero (i : Nat) : digitAt u 0 i = 0 := by simp [digitAt]
  obtain ⟨hin, hout⟩ := digitAt_packedAt u (l.map (fun e => (e, 2 ^ u - 1))) (hfst.symm ▸ hnd) (fun _ _ => hzero _) (k / u)
  have hbit (N : Nat) : N.testBit k = (digitAt u N (k / u)).testBit (k % u) := by
    rw [digitAt, Nat.testBit_mod_two_pow, Nat.testBit_div_two_pow, Nat.mod_add_div, decide_eq_true (Nat.mod_lt k hu), Bool.true_and]
  rw [hpacked, hbit]
  by_cases hmem : k / u ∈ l
  · rw [hin _ (List.mem_map_of_mem hmem), hones, Nat.testBit_two_pow_sub_one, decide_eq_true hmem, decide_eq_true (Nat.mod_lt k hu)]
  · rw [hout (hfst.symm ▸ hmem), hzero, Nat.zero_testBit, decide_eq_false hmem]

/-! ## The compares (R148) -/

/-- The bits of the value of an element are its own. -/
theorem intBits_vecVal {code x : Nat} (hx : x < 2 ^ codeWidth code) : intBits (codeWidth code) (vecVal code x) = x := by
  have hmod : (x : Int) % ((2 ^ codeWidth code : Nat) : Int) = x := Int.emod_eq_of_lt (Int.natCast_nonneg x) (by exact_mod_cast hx)
  unfold intBits vecVal
  split
  · rw [hmod, Int.toNat_natCast]
  · rw [Int.bmod_emod, hmod, Int.toNat_natCast]

/-- The condition of a compare for an element: of integers in an integer format, else of floats. -/
def vecCond (g : Num → Num → Bool) (h : Int → Int → Bool) (code x y : Nat) : Bool :=
  if code = 12 ∨ code = 14 then h (vecVal code x) (vecVal code y) else g (floatVal (fmtOf code) x) (floatVal (fmtOf code) y)

theorem compareForm_congr {c : Ctl} {s : State} {i : Instr} {dflt : Nat} {ok : List Nat} {d m : BitVec 3} {cond cond' : Nat → Nat → Bool}
    (h : ∀ code ∈ ok, ∀ e, cond code e = cond' code e) (hf : compareForm c s i dflt ok d m cond) : compareForm c s i dflt ok d m cond' := by
  refine ⟨hf.1, fun code hr hw => ?_⟩
  have := hf.2 code hr hw
  by_cases hok : code ∈ ok
  · simpa only [hok, if_true, h code hok] using this
  · simpa only [hok, if_false] using this

/-- The condition as the model takes it by the kind of the format, on an element of two registers. -/
def elemCond (g : Num → Num → Bool) (h : Int → Int → Bool) (code : Nat) (x y : BitVec 2048) (e : Nat) : Bool :=
  match codeInt code with
  | some (_, sg) => h (intVal (codeWidth code) sg (elemOf x (codeWidth code) e)) (intVal (codeWidth code) sg (elemOf y (codeWidth code) e))
  | none => g (floatVal (fmtOf code) (elemOf x (codeWidth code) e)) (floatVal (fmtOf code) (elemOf y (codeWidth code) e))

theorem vecCmp_eq (g : Num → Num → Bool) (h : Int → Int → Bool) (dflt : Nat) (ok : List Nat) (c : Ctl) (d : BitVec 3) (a b : Reg) (m : BitVec 3)
    (s : State) : vecCmp g h dflt ok c d a b m s = vFmt false dflt ok c s (fun code s => addFlight s 2 true (.m d (BitVec.ofNat 64
      (((enabled (codeWidth code) (M s m)).filter (elemCond g h code (V s a) (V s b))).foldl
        (fun v e => v + (2 ^ (codeWidth code / 32) - 1) * 2 ^ (codeWidth code / 32 * e)) 0)))) := rfl

theorem elemCond_eq (g : Num → Num → Bool) (h : Int → Int → Bool) {code : Nat} (hok : code ∈ [0, 11, 12, 14]) (x y : BitVec 2048) (e : Nat) :
    elemCond g h code x y e = vecCond g h code (elemOf x (codeWidth code) e) (elemOf y (codeWidth code) e) := by
  simp only [List.mem_cons, List.not_mem_nil, or_false] at hok
  rcases hok with rfl | rfl | rfl | rfl
  · rfl
  · rfl
  · rw [vecCond, if_pos (.inl rfl), ← intVal_elemOf (code := 12) (by decide), ← intVal_elemOf (code := 12) (by decide)]
    rfl
  · rw [vecCond, if_pos (.inr rfl), ← intVal_elemOf (code := 14) (by decide), ← intVal_elemOf (code := 14) (by decide)]
    rfl

/-- A compare: each bit of the mask by the element of its lane. -/
theorem vecCmp_compares {c : Ctl} {s : State} {i : Instr} {d m : BitVec 3} {a b : Reg} {dflt : Nat} {ok : List Nat} (g : Num → Num → Bool)
    (h : Int → Int → Bool) (hexec : exec i s = vecCmp g h dflt ok c d a b m s) (hok : ∀ code ∈ ok, code ∈ [0, 11, 12, 14]) :
    compareForm c s i dflt ok d m (fun code e => vecCond g h code (elemOf (V s a) (codeWidth code) e) (elemOf (V s b) (codeWidth code) e)) := by
  refine ⟨vFmt_odd _ hexec, fun code hr hw => ?_⟩
  rw [hexec, vecCmp_eq, vFmt_on _ hr hw fun h => by cases h]
  by_cases hin : code ∈ ok
  · simp only [hin, if_true]
    refine ⟨_, rfl, fun k hk => ?_⟩
    obtain ⟨u, hu, hw, hcount⟩ : ∃ u, 0 < u ∧ codeWidth code = 32 * u ∧ 2048 / codeWidth code * u = 64 := by
      have := hok code hin
      simp only [List.mem_cons, List.not_mem_nil, or_false] at this
      rcases this with rfl | rfl | rfl | rfl
      exacts [⟨1, by decide, rfl, rfl⟩, ⟨2, by decide, rfl, rfl⟩, ⟨1, by decide, rfl, rfl⟩, ⟨1, by decide, rfl, rfl⟩]
    have hlane : 32 * k / codeWidth code = k / u := by rw [hw, Nat.mul_div_mul_left _ _ (by decide)]
    have hbits : codeWidth code / 32 = u := by rw [hw, Nat.mul_div_cancel_left _ (by decide)]
    have hrange : k / u < 2048 / codeWidth code := by rwa [Nat.div_lt_iff_lt_mul hu, hcount]
    rw [BitVec.getLsbD_ofNat, decide_eq_true hk, Bool.true_and, hbits, testBit_elements hu ((enabled_nodup _ _).filter _), hlane, Bool.eq_iff_iff,
      decide_eq_true_iff, List.mem_filter, mem_enabled, and_iff_right hrange, elemCond_eq g h (hok code hin), Bool.and_eq_true]
    rfl
  · simp only [hin, if_false]
    rfl

/-! ## Mask operations (R158) -/

/-- A V slot without a working format, where no pending format refuses it. -/
theorem vSlot_on {c : Ctl} {s : State} {dflt code : Nat} (f : State → State) (hr : runsUser s c) (hw : worksIn s dflt code) :
    vSlot false c s f = .next (f s) := by
  obtain ⟨-, hplain⟩ := (worksIn_iff s dflt code).1 hw
  refine (unitSlot_on _ hr).trans ?_
  rw [if_pos hplain]

/-- It is refused under a pending V-target format with g or zp set. -/
theorem vSlot_odd {c : Ctl} {s : State} (f : State → State) {i : Instr} (h : exec i s = vSlot false c s f) : oddPrefix c s i false := by
  intro p hr hpfx hvec hodd
  have hv : vPfx s = some p := by rw [vPfx, hpfx]; exact if_pos hvec
  have hplain : ¬pfxPlain s = true := by
    have heq : pfxPlain s = (decide (p.g = 0) && !p.zp) := by rw [pfxPlain, hv]
    rw [heq, Bool.and_eq_true, decide_eq_true_iff]
    rintro ⟨hg, hz⟩
    rcases hodd with h | h
    · exact h hg
    · simp [h] at hz
  rw [h]
  refine (unitSlot_on _ hr).trans ?_
  rw [if_neg hplain]
  rfl

/-- A result of a unit in a scalar register, which x0 discards. -/
theorem addFlight_xOut (s : State) (n : Nat) (d : Reg) (v : W64) : (if d = 0 then s else addFlight s n true (.x d v)) = emit s (xOut n true d v) := by
  unfold xOut
  split
  · rw [emit_nil]
  · rfl

/-- A mask form of two masks. -/
theorem maskOp_on {c : Ctl} {s : State} {code : Nat} (g : W64 → W64 → W64) (d a b : BitVec 3) (hr : runsUser s c) (hw : worksIn s 12 code) :
    maskOp g c d a b s = .next (emit s [⟨2, true, .m d (g (M s a) (M s b))⟩]) := vSlot_on _ hr hw

/-- A mask form that writes a scalar register. -/
theorem maskX_on {c : Ctl} {s : State} {code : Nat} (g : W64 → W64) (d : Reg) (a : BitVec 3) (hr : runsUser s c) (hw : worksIn s 12 code) :
    maskX g c d a s = .next (emit s (xOut 2 true d (g (M s a)))) := by
  rw [maskX, vSlot_on _ hr hw, addFlight_xOut]

theorem maskOp_odd {c : Ctl} {s : State} {i : Instr} (g : W64 → W64 → W64) {d a b : BitVec 3} (h : exec i s = maskOp g c d a b s) :
    oddPrefix c s i false := vSlot_odd _ h

theorem maskX_odd {c : Ctl} {s : State} {i : Instr} (g : W64 → W64) {d : Reg} {a : BitVec 3} (h : exec i s = maskX g c d a s) :
    oddPrefix c s i false := vSlot_odd _ h

end Sys2Proof.Machine

namespace Sys2Proof

open Machine

/-- Settles O44: each compare by the condition of its elements, each mask slot by its result. -/
theorem comparesAndMasks : Obligations.ComparesAndMasks := by
  unfold Obligations.ComparesAndMasks
  refine ⟨fun c d m a b s => ?compares, fun c d a b r s i hi => ?odd, fun c d a b r code s hr hw => ?masks⟩
  case compares =>
    intro A B i nan int
    have hfour : ∀ code ∈ [0, 11, 12, 14], code ∈ [0, 11, 12, 14] := fun _ h => h
    have hi {code : Nat} (h : code = 12 ∨ code = 14) (r : Reg) (e : Nat) : vecVal code (elemOf (V s r) (codeWidth code) e) = i code r e := by
      rcases h with rfl | rfl <;> rfl
    have hord (code e : Nat) : numOrdered (A code e) (B code e) = !nan code e := (Bool.not_or _ _).symm
    -- a condition on floats and one on integers, as the statement has them
    have hcond (g : Sys2Proof.Num → Sys2Proof.Num → Bool) (h : Int → Int → Bool) (code e : Nat) :
        vecCond g h code (elemOf (V s a) (codeWidth code) e) (elemOf (V s b) (codeWidth code) e)
          = if int code = true then h (i code a e) (i code b e) else g (A code e) (B code e) := by
      by_cases hc : code = 12 ∨ code = 14
      · rw [vecCond, if_pos hc, hi hc, hi hc, if_pos (decide_eq_true hc)]
      · rw [vecCond, if_neg hc, if_neg (by simpa [int] using hc)]
    refine ⟨?eq, ?ne, ?lt, ?le, ?un, ?tst⟩
    case eq =>
      refine compareForm_congr (fun code _ e => ?_)
        (vecCmp_compares (fun x y => numOrdered x y && decide (numCmp x y = 0)) (fun x y => decide (x = y)) rfl hfour)
      rw [hcond, hord]
    case ne =>
      refine compareForm_congr (fun code _ e => ?_)
        (vecCmp_compares (fun x y => !(numOrdered x y) || decide (numCmp x y ≠ 0)) (fun x y => decide (x ≠ y)) rfl hfour)
      rw [hcond, hord, Bool.not_not]
    case lt =>
      refine compareForm_congr (fun code _ e => ?_)
        (vecCmp_compares (fun x y => numOrdered x y && decide (numCmp x y < 0)) (fun x y => decide (x < y)) rfl hfour)
      rw [hcond, hord]
    case le =>
      refine compareForm_congr (fun code _ e => ?_)
        (vecCmp_compares (fun x y => numOrdered x y && decide (numCmp x y ≤ 0)) (fun x y => decide (x ≤ y)) rfl hfour)
      rw [hcond, hord]
    case un =>
      refine compareForm_congr (fun code hok e => ?_)
        (vecCmp_compares (fun x y => !(numOrdered x y)) (fun _ _ => false) rfl (fun code h => by simp at h ⊢; omega))
      have hfloat : ¬int code = true := by
        simp at hok
        simp [int]
        omega
      rw [hcond, if_neg hfloat, hord, Bool.not_not]
    case tst =>
      refine compareForm_congr (fun code hok e => ?_)
        (vecCmp_compares (fun _ _ => false) (fun x y => decide (intBits 32 x &&& intBits 32 y ≠ 0)) rfl (fun code h => by simp at h ⊢; omega))
      have hint : code = 12 ∨ code = 14 := by simpa using hok
      have hbits (r : Reg) : intBits 32 (i code r e) = elemOf (V s r) 32 e := by
        rcases hint with rfl | rfl
        · exact intBits_vecVal (code := 12) (elemOf_lt _ _ _)
        · exact intBits_vecVal (code := 14) (elemOf_lt _ _ _)
      rw [hcond, if_pos (decide_eq_true hint), hbits, hbits]
  case odd =>
    simp only [List.mem_cons, List.not_mem_nil, or_false] at hi
    rcases hi with rfl | rfl | rfl | rfl | rfl | rfl | rfl | rfl
    · exact maskOp_odd (· &&& ·) rfl
    · exact maskOp_odd (· ||| ·) rfl
    · exact maskOp_odd (· ^^^ ·) rfl
    · exact maskOp_odd (fun x y => x &&& ~~~y) rfl
    · exact vSlot_odd (fun s => addFlight s 2 true (.m d (X s r))) rfl
    · exact maskX_odd (fun v => v) rfl
    · exact maskX_odd (fun v => BitVec.ofNat 64 (popCount v)) rfl
    · exact maskX_odd (fun v => BitVec.ofNat 64 (trailZeros v)) rfl
  case masks =>
    exact ⟨maskOp_on (· &&& ·) d a b hr hw, maskOp_on (· ||| ·) d a b hr hw, maskOp_on (· ^^^ ·) d a b hr hw,
      maskOp_on (fun x y => x &&& ~~~y) d a b hr hw, vSlot_on (fun s => addFlight s 2 true (.m d (X s r))) hr hw, maskX_on (fun v => v) r a hr hw,
      maskX_on (fun v => BitVec.ofNat 64 (popCount v)) r a hr hw, _, ⟨_, rfl, trailZeros_spec (M s a)⟩,
      maskX_on (fun v => BitVec.ofNat 64 (trailZeros v)) r a hr hw⟩

end Sys2Proof
end
section
/-! PROOFS. Vector moves, scalar moves and permutes (R152, R156, R157). -/

namespace Sys2Proof.Machine

open Sys2Proof

/-! ## The shapes of the forms -/

/-- A form outside VEC0 and VEC1 whose slot makes a vector result. -/
theorem elementForm_of_out {c : Ctl} {s : State} {i : Instr} {dflt : Nat} {ok ok' : List Nat} {lat : Nat} {d : Reg} {F : Nat → State → State}
    {g : Nat → Nat → Option Nat} (hexec : exec i s = vFmt false dflt ok' c s F) (hok : ∀ code, code ∈ ok' ↔ code ∈ ok)
    (hout : ∀ code ∈ ok, vectorOut s (F code s) lat (codeWidth code) d (g code)) : elementForm c s i false dflt ok lat d g := by
  refine ⟨vFmt_odd F hexec, fun code hr hw => ?_⟩
  rw [hexec, vFmt_on (fp := false) F hr hw (fun h => absurd h Bool.false_ne_true), if_congr (hok code) rfl rfl]
  by_cases hin : code ∈ ok
  · rw [if_pos hin, if_pos hin]
    exact ⟨_, rfl, hout code hin⟩
  · rw [if_neg hin, if_neg hin]
    rfl

/-- Of those, a merging form whose elements are a function of the state. -/
theorem mergingForm_of_elems {c : Ctl} {s : State} {i : Instr} {dflt : Nat} {ok ok' : List Nat} {lat : Nat} {d : Reg} {m : BitVec 3}
    (width : Nat → Nat) (g : State → Nat → Nat → Nat) {f : Nat → Nat → Nat}
    (hexec : exec i s = vFmt false dflt ok' c s (fun code t => mapV t lat d (width code) m (g t code))) (hok : ∀ code, code ∈ ok' ↔ code ∈ ok)
    (hwidth : ∀ code ∈ ok, width code = codeWidth code) (hg : ∀ code ∈ ok, ∀ e, g s code e = f code e) : mergingForm c s i false dflt ok lat d m f := by
  refine elementForm_of_out hexec hok fun code hin => ?_
  rw [hwidth code hin, funext (hg code hin)]
  exact mapV_out s lat d (codeWidth code) m (f code)

/-- A result that writes every element. -/
theorem addV_out_all (s : State) (n : Nat) (d : Reg) (w : Nat) (f : Nat → Nat) :
    vectorOut s (addV s n d w ((upto (2048 / w)).map (fun e => (e, f e)))) n w d (fun e => some (f e)) :=
  addV_out_map s n d w f List.nodup_range (fun _ he => (if_pos (List.mem_range.2 he)).symm) fun _ he => List.mem_range.1 he

/-- The formats of the moves: every width of 8 bits or more (R152, R156, R157). -/
theorem mem_vsclFmts (code : Nat) : code ∈ vsclFmts ↔ code ∈ [0, 1, 2, 3, 4, 5, 9, 11, 12, 13, 14] := by
  simp [vsclFmts, wideFmts]
  omega

/-! ## Signs (R152) -/

/-- What VABS and VNEG make of an element: of an integer by its value, of a float by its bits. -/
def signElem (g : Nat → Nat → Nat) (h : Int → Int) (code x : Nat) : Nat :=
  match codeInt code with
  | some (_, sg) => intBits (codeWidth code) (h (intVal (codeWidth code) sg x))
  | none => g (codeWidth code) x

theorem vecSign_eq (g : Nat → Nat → Nat) (h : Int → Int) (c : Ctl) (d a : Reg) (m : BitVec 3) (s : State) : vecSign g h c d a m s
    = vFmt false 0 [0, 11, 1, 2, 12, 13, 9] c s (fun code t => mapV t 2 d (codeWidth code) m
        (fun e => signElem g h code (elemOf (V t a) (codeWidth code) e))) := rfl

theorem vecSign_merges {c : Ctl} {s : State} {i : Instr} {d a : Reg} {m : BitVec 3} {f : Nat → Nat → Nat} (g : Nat → Nat → Nat) (h : Int → Int)
    (hexec : exec i s = vecSign g h c d a m s)
    (hg : ∀ code ∈ [0, 11, 1, 2, 12, 13, 9], ∀ e, signElem g h code (elemOf (V s a) (codeWidth code) e) = f code e) :
    mergingForm c s i false 0 [0, 11, 1, 2, 12, 13, 9] 2 d m f :=
  mergingForm_of_elems codeWidth (fun t code e => signElem g h code (elemOf (V t a) (codeWidth code) e)) (hexec.trans (vecSign_eq g h c d a m s))
    (fun _ => Iff.rfl) (fun _ _ => rfl) hg

theorem signElem_integer (g : Nat → Nat → Nat) (h : Int → Int) {code x : Nat} (hc : code ∈ [12, 13, 9]) (hx : x < 2 ^ codeWidth code) :
    signElem g h code x = intBits (codeWidth code) (h (vecVal code x)) := by
  have hsigned : codeInt code = some (codeWidth code, true) ∧ code ∈ vecInts ∧ decide (code ≠ 14) = true := by
    simp only [List.mem_cons, List.not_mem_nil, or_false] at hc
    rcases hc with rfl | rfl | rfl <;> exact ⟨rfl, by decide, by decide⟩
  obtain ⟨hcode, hmem, hdec⟩ := hsigned
  rw [signElem, hcode, ← intVal_vecVal hmem hx, hdec]

theorem signElem_float (g : Nat → Nat → Nat) (h : Int → Int) {code : Nat} (x : Nat) (hc : code ∈ [0, 11, 1, 2]) :
    signElem g h code x = g (codeWidth code) x := by
  simp only [List.mem_cons, List.not_mem_nil, or_false] at hc
  rcases hc with rfl | rfl | rfl | rfl <;> rfl

/-- A signed value from the bits: those from half the range on are negative. -/
theorem vecVal_signed {code x : Nat} (hc : code ∈ [12, 13, 9]) (hx : x < 2 ^ codeWidth code) :
    vecVal code x = if 2 ^ (codeWidth code - 1) ≤ x then (x : Int) - (2 ^ codeWidth code : Nat) else x := by
  have hsigned : code ∈ vecInts ∧ decide (code ≠ 14) = true := by
    simp only [vecInts, List.mem_cons, List.not_mem_nil, or_false, decide_eq_true_eq] at hc ⊢
    omega
  rw [← intVal_vecVal hsigned.1 hx, hsigned.2]
  simp [intVal, Nat.mod_eq_of_lt hx]

/-- The sum with half the range changes the top bit. -/
theorem xor_top {x k : Nat} (hx : x < 2 * 2 ^ k) : x ^^^ 2 ^ k = (x + 2 ^ k) % (2 * 2 ^ k) := by
  have hpos : 0 < 2 ^ k := by positivity
  have hsplit := Nat.div_add_mod (x ^^^ 2 ^ k) (2 ^ k)
  rw [Nat.xor_div_two_pow, Nat.xor_mod_two_pow, Nat.div_self hpos, Nat.mod_self, Nat.xor_zero] at hsplit
  rcases Nat.lt_or_ge x (2 ^ k) with h | h
  · rw [Nat.div_eq_of_lt h, Nat.mod_eq_of_lt h, Nat.zero_xor, Nat.mul_one] at hsplit
    rw [Nat.mod_eq_of_lt (by omega)]
    omega
  · rw [Nat.div_eq_of_lt_le (k := 1) (by omega) (by omega), Nat.xor_self, Nat.mul_zero, Nat.mod_eq_sub_mod h, Nat.mod_eq_of_lt (by omega)] at hsplit
    rw [Nat.mod_eq_sub_mod (by omega), Nat.mod_eq_of_lt (by omega)]
    omega

/-! ## Lists by position (R157) -/

/-- The i-th element that passes a filter is the one that has i such elements below it. -/
theorem filter_getElem? (p : Nat → Bool) (n i : Nat) :
    ((upto n).filter p)[i]? = (upto n).find? (fun j => p j && decide ((upto j).countP p = i)) := by
  have hat (j : Nat) : ((upto n).filter p)[i]? = some j ↔ j ∈ (upto n).filter p ∧ (upto j).countP p = i := by
    rw [← List.mk_mem_zipIdx_iff_getElem?, zipIdx_filter, List.mem_map]
    constructor
    · rintro ⟨e, he, h⟩
      cases h
      exact ⟨he, rfl⟩
    · rintro ⟨hj, rfl⟩
      exact ⟨j, hj, rfl⟩
  cases hfind : (upto n).find? (fun j => p j && decide ((upto j).countP p = i)) with
  | some j =>
    have hsome := List.find?_some hfind
    obtain ⟨hp, hcount⟩ := Bool.and_eq_true_iff.1 hsome
    exact (hat j).2 ⟨List.mem_filter.2 ⟨List.mem_of_find?_eq_some hfind, hp⟩, of_decide_eq_true hcount⟩
  | none =>
    cases hget : ((upto n).filter p)[i]? with
    | none => rfl
    | some j =>
      obtain ⟨hj, hcount⟩ := (hat j).1 hget
      obtain ⟨hmem, hp⟩ := List.mem_filter.1 hj
      simpa [hp, hcount] using List.find?_eq_none.1 hfind j hmem

theorem enabled_lanes32 (mk : W64) : enabled 32 mk = (upto 64).filter (fun j => mk.getLsbD j) := by
  rw [enabled]
  exact List.filter_congr fun e _ => by rw [Nat.mul_div_cancel_left _ (by decide)]

/-- The width of the forms over 32-bit lanes. -/
theorem codeWidth_lanes {code : Nat} (h : code ∈ [12, 0, 14]) : codeWidth code = 32 := by
  simp only [List.mem_cons, List.not_mem_nil, or_false] at h
  rcases h with rfl | rfl | rfl <;> rfl

/-- The negation of a signed element, and its magnitude, by its bits. -/
theorem intBits_neg {code x : Nat} (hc : code ∈ [12, 13, 9]) (hx : x < 2 ^ codeWidth code) :
    intBits (codeWidth code) (-vecVal code x) = (2 ^ codeWidth code - x) % 2 ^ codeWidth code := by
  have hneg : -vecVal code x % ((2 ^ codeWidth code : Nat) : Int) = ((2 ^ codeWidth code - x : Nat) : Int) % ((2 ^ codeWidth code : Nat) : Int) := by
    rw [vecVal_signed hc hx, Nat.cast_sub hx.le]
    split
    · rw [neg_sub]
    · rw [← neg_add_eq_sub, Int.add_emod_right]
  rw [intBits, hneg]
  exact_mod_cast Int.toNat_natCast _

theorem intBits_abs {code x : Nat} (hc : code ∈ [12, 13, 9]) (hx : x < 2 ^ codeWidth code) :
    intBits (codeWidth code) (if vecVal code x < 0 then -vecVal code x else vecVal code x)
      = if 2 ^ (codeWidth code - 1) ≤ x then (2 ^ codeWidth code - x) % 2 ^ codeWidth code else x := by
  have hsign : vecVal code x < 0 ↔ 2 ^ (codeWidth code - 1) ≤ x := by
    rw [vecVal_signed hc hx]
    split <;> omega
  rw [if_congr hsign rfl rfl, apply_ite (intBits (codeWidth code)), intBits_neg hc hx, intBits_vecVal hx]

/-- The low bits of a sign-extended constant. -/
theorem signExtend_mod (k : BitVec 5) {w : Nat} (hw : w ≤ 64) :
    (k.signExtend 64).toNat % 2 ^ w = (k.toInt % ((2 ^ w : Nat) : Int)).toNat % 2 ^ w := by
  have hdvd : ((2 ^ w : Nat) : Int) ∣ ((2 ^ 64 : Nat) : Int) := by exact_mod_cast Nat.pow_dvd_pow 2 hw
  have hmod : ((k.signExtend 64).toNat : Int) = k.toInt % ((2 ^ 64 : Nat) : Int) := by
    rw [BitVec.signExtend, BitVec.toNat_ofInt, Int.toNat_of_nonneg (Int.emod_nonneg _ (by decide))]
  have hlow : ((k.toInt % ((2 ^ w : Nat) : Int)).toNat : Int) = k.toInt % ((2 ^ w : Nat) : Int) :=
    Int.toNat_of_nonneg (Int.emod_nonneg _ (by positivity))
  have hint : ((k.signExtend 64).toNat : Int) % ((2 ^ w : Nat) : Int) = ((k.toInt % ((2 ^ w : Nat) : Int)).toNat : Int) % ((2 ^ w : Nat) : Int) := by
    rw [hmod, hlow, Int.emod_emod_of_dvd _ hdvd, Int.emod_emod_of_dvd _ dvd_rfl]
  exact_mod_cast hint

theorem codeWidth_le (code : Nat) : codeWidth code ≤ 64 := by
  unfold codeWidth
  split <;> decide

/-- The i-th enabled element, or 0 above them. -/
theorem getD_enabled (mk : W64) (f : Nat → Nat) (i : Nat) : ((enabled 32 mk).map f).getD i 0
    = ((upto 64).find? (fun j => mk.getLsbD j && decide ((upto j).countP (fun k => mk.getLsbD k) = i))).elim 0 f := by
  rw [List.getD_eq_getElem?_getD, List.getElem?_map, enabled_lanes32, filter_getElem?]
  cases (upto 64).find? (fun j => mk.getLsbD j && decide ((upto j).countP (fun k => mk.getLsbD k) = i)) <;> rfl

end Sys2Proof.Machine

namespace Sys2Proof

open Machine

/-- Settles O45: each form by the elements that it writes. -/
theorem movesAndPermutes : Obligations.MovesAndPermutes := by
  unfold Obligations.MovesAndPermutes
  intro c d a b k m s any A B below count half neg
  have hsame : ∀ ok : List Nat, ∀ code, code ∈ ok ↔ code ∈ ok := fun _ _ => Iff.rfl
  have hA (code e : Nat) : A code e < 2 ^ codeWidth code := elemOf_lt _ _ _
  have hB (code e : Nat) : B code e < 2 ^ codeWidth code := elemOf_lt _ _ _
  have hlane (code e : Nat) : (M s m).getLsbD (codeWidth code * e / 32) = laneOn s m (codeWidth code) e := by rw [laneOn, Nat.mul_comm]
  have hpow {code : Nat} (h : code ∈ [0, 11, 1, 2]) : 2 ^ codeWidth code = 2 * half code := by
    refine (mul_pow_sub_one (codeWidth_pos ?_).ne' 2).symm
    simp only [List.mem_cons, List.not_mem_nil, or_false] at h
    omega
  have hkind {code : Nat} (h : code ∈ [0, 11, 1, 2, 12, 13, 9]) : code ∈ [12, 13, 9] ∨ code ∈ [0, 11, 1, 2] ∧ code ∉ [12, 13, 9] := by
    simp only [List.mem_cons, List.not_mem_nil, or_false] at h ⊢
    omega
  refine ⟨?vmov, ?vsel, ?vabs, ?vneg, ?vcpys, ?vbcst, ?vbcsti, vFmt_odd (fun code s =>
      if d = 0 then s else addFlight s 3 true (.x d (BitVec.ofNat 64 (elemOf (V s a) (codeWidth code) ((X s b).toNat % (2048 / codeWidth code)))))) rfl,
    fun code hr hw => ?vextr, ?vins, ?viota, ?vperm, ?vcomp, ?vexpd, ?vcpos, ?vsldn, ?vslup⟩
  case vmov => exact mergingForm_of_elems codeWidth (fun t code e => elemOf (V t a) (codeWidth code) e) rfl mem_vsclFmts (fun _ _ => rfl) fun _ _ _ => rfl
  case vsel =>
    refine elementForm_of_out (F := fun code t => addV t 2 d (codeWidth code) ((upto (2048 / codeWidth code)).map (fun e => (e,
      if (M t m).getLsbD (codeWidth code * e / 32) then elemOf (V t a) (codeWidth code) e else elemOf (V t b) (codeWidth code) e)))) rfl mem_vsclFmts
      fun code _ => ?_
    simp only [hlane]
    exact addV_out_all s 2 d (codeWidth code) fun e => if laneOn s m (codeWidth code) e = true then A code e else B code e
  case vabs =>
    refine vecSign_merges (fun w x => x % 2 ^ (w - 1)) (fun i => if i < 0 then -i else i) rfl fun code hok e => ?_
    rcases hkind hok with h | ⟨h, hnot⟩
    · rw [if_pos h, signElem_integer _ _ h (hA code e)]
      exact intBits_abs h (hA code e)
    · rw [if_neg hnot, signElem_float _ _ _ h]
  case vneg =>
    refine vecSign_merges (fun w x => x ^^^ 2 ^ (w - 1)) (fun i => -i) rfl fun code hok e => ?_
    rcases hkind hok with h | ⟨h, hnot⟩
    · rw [if_pos h, signElem_integer _ _ h (hA code e)]
      exact intBits_neg h (hA code e)
    · rw [if_neg hnot, signElem_float _ _ _ h, hpow h]
      exact xor_top (hpow h ▸ hA code e)
  case vcpys =>
    refine mergingForm_of_elems codeWidth (fun t code e => elemOf (V t a) (codeWidth code) e % 2 ^ (codeWidth code - 1)
      + elemOf (V t b) (codeWidth code) e / 2 ^ (codeWidth code - 1) * 2 ^ (codeWidth code - 1)) rfl (hsame _) (fun _ _ => rfl) fun code hok e => ?_
    have hlt : B code e < 2 * half code := hpow hok ▸ hB code e
    have hsign : B code e / half code * half code = if half code ≤ B code e then half code else 0 := by
      split
      next h => rw [Nat.div_eq_of_lt_le (k := 1) (by omega) (by omega), Nat.one_mul]
      next h => rw [Nat.div_eq_of_lt (not_le.1 h), Nat.zero_mul]
    exact congrArg (A code e % half code + ·) hsign
  case vbcst => exact mergingForm_of_elems codeWidth (fun t _ _ => (X t a).toNat) rfl mem_vsclFmts (fun _ _ => rfl) fun _ _ _ => rfl
  case vbcsti =>
    refine mergingForm_congr (fun code hok e => ?_)
      (mergingForm_of_elems (f := fun _ _ => (k.signExtend 64).toNat) codeWidth (fun _ _ _ => (k.signExtend 64).toNat) rfl mem_vsclFmts (fun _ _ => rfl) fun _ _ _ => rfl)
    exact signExtend_mod k (codeWidth_le code)
  case vextr =>
    refine (vFmt_on (fp := false) (fun code s => if d = 0 then s else addFlight s 3 true (.x d (BitVec.ofNat 64 (elemOf (V s a) (codeWidth code)
      ((X s b).toNat % (2048 / codeWidth code)))))) hr hw (fun h => absurd h Bool.false_ne_true)).trans ?_
    rw [if_congr (mem_vsclFmts code) (addFlight_xOut ..) rfl]
    rfl
  case vins =>
    refine elementForm_of_out (F := fun code t => addV t 2 d (codeWidth code) [((X t b).toNat % (2048 / codeWidth code), (X t a).toNat)]) rfl
      mem_vsclFmts fun code _ => addV_out s 2 d (codeWidth code) (List.nodup_singleton _) (fun e x h _ => ?_) fun e h => ?_
    · split at h
      next he =>
        cases h
        rw [he]
        exact List.mem_singleton_self _
      next => cases h
    · split at h
      next => cases h
      next he => simpa using he
  case viota => exact mergingForm_of_elems codeWidth (fun _ _ e => e) rfl (hsame _) (fun _ _ => rfl) fun _ _ _ => rfl
  case vperm =>
    exact mergingForm_of_elems codeWidth (fun t code e => elemOf (V t a) (codeWidth code) (elemOf (V t b) (codeWidth code) e % (2048 / codeWidth code)))
      rfl mem_vsclFmts (fun _ _ => rfl) fun _ _ _ => rfl
  case vcomp =>
    refine elementForm_of_out (F := fun _ t => addV t 3 d 32 ((upto 64).map (fun i =>
      (i, ((enabled 32 (M t m)).map (fun e => elemOf (V t a) 32 e)).getD i 0)))) rfl (hsame _) fun code hok => ?_
    have hA : (fun e => elemOf (V s a) 32 e) = A code := by simp only [A, codeWidth_lanes hok]
    rw [codeWidth_lanes hok]
    refine vectorOut_congr (fun i _ => ?_) (addV_out_all s 3 d 32 fun i => ((enabled 32 (M s m)).map (fun e => elemOf (V s a) 32 e)).getD i 0)
    rw [getD_enabled, hA]
    change Option.map _ (some (((upto 64).find? (fun j => (M s m).getLsbD j && decide (below j = i))).elim 0 (A code))) = _
    cases (upto 64).find? (fun j => (M s m).getLsbD j && decide (below j = i)) <;> rfl
  case vexpd =>
    refine mergingForm_of_elems (fun _ => 32) (fun t _ e => elemOf (V t a) 32 (bitsBelow (M t m) e)) rfl (hsame _)
      (fun _ hok => (codeWidth_lanes hok).symm) fun code hok e => ?_
    simp only [A, codeWidth_lanes hok]
    rfl
  case vcpos =>
    refine elementForm_of_out (F := fun _ t => addV t 3 d 32 ((upto 64).map (fun i => (i, bitsBelow (M t m) i)))) rfl (hsame _) fun code hok => ?_
    rw [codeWidth_lanes hok]
    exact addV_out_all s 3 d 32 below
  case vsldn =>
    exact mergingForm_of_elems codeWidth (fun t code e =>
      if e + (X t b).toNat < 2048 / codeWidth code then elemOf (V t a) (codeWidth code) (e + (X t b).toNat) else 0) rfl mem_vsclFmts (fun _ _ => rfl)
      fun _ _ _ => rfl
  case vslup =>
    exact mergingForm_of_elems codeWidth (fun t code e =>
      if (X t b).toNat ≤ e then elemOf (V t a) (codeWidth code) (e - (X t b).toNat) else 0) rfl mem_vsclFmts (fun _ _ => rfl) fun _ _ _ => rfl

end Sys2Proof
end
section
/-! PROOFS. Reductions and scans (R153 to R155). -/

namespace Sys2Proof.Machine

open Sys2Proof

/-! ## The pairwise tree (R154) -/

/-- One level of the tree over the elements of a range. -/
theorem pairUp_range' (node : Nat → Nat → Nat) (leaf : Nat → Nat) (s n : Nat) : pairUp node ((List.range' (2 * s) (2 * n)).map leaf)
    = (List.range' s n).map (fun i => node (leaf (2 * i)) (leaf (2 * i + 1))) := by
  induction n generalizing s with
  | zero => rfl
  | succ n ih =>
    rw [Nat.mul_succ, List.range'_succ, List.range'_succ, List.range'_succ, List.map_cons, List.map_cons, pairUp, List.map_cons]
    exact congrArg _ (ih (s + 1))

/-- The tree over pairs is the tree with one more level. -/
theorem treeAt_pairs (node : Nat → Nat → Nat) (leaf : Nat → Nat) (k i : Nat) :
    treeAt node (fun i => node (leaf (2 * i)) (leaf (2 * i + 1))) k i = treeAt node leaf (k + 1) i := by
  induction k generalizing i with
  | zero => rfl
  | succ k ih =>
    rw [treeAt, ih, ih]
    rfl

/-- Levels enough bring a power of two of elements to the root of their tree. -/
theorem treeFold_root (node : Nat → Nat → Nat) (leaf : Nat → Nat) {k fuel : Nat} (h : k ≤ fuel) :
    treeFold node fuel ((upto (2 ^ k)).map leaf) = [treeAt node leaf k 0] := by
  induction fuel generalizing k leaf with
  | zero =>
    obtain rfl : k = 0 := by omega
    rfl
  | succ fuel ih =>
    rw [treeFold]
    cases k with
    | zero => exact ih leaf (Nat.zero_le fuel)
    | succ k =>
      have hpairs := pairUp_range' node leaf 0 (2 ^ k)
      rw [← List.range_eq_range', ← List.range_eq_range', ← pow_succ'] at hpairs
      rw [upto, hpairs, ← treeAt_pairs]
      exact ih _ (by omega)

/-! ## Prefixes (R155) -/

theorem scanList_range' (node : Nat → Nat → Nat) (leaf : Nat → Nat) (s n : Nat) :
    scanList node (some (prefixAt node leaf s)) ((List.range' (s + 1) n).map leaf) = (List.range' (s + 1) n).map (prefixAt node leaf) := by
  induction n generalizing s with
  | zero => rfl
  | succ n ih =>
    rw [List.range'_succ, List.map_cons, scanList, List.map_cons]
    exact congrArg _ (ih (s + 1))

/-- A scan gives every inclusive prefix in order. -/
theorem scanList_prefixes (node : Nat → Nat → Nat) (leaf : Nat → Nat) (n : Nat) :
    scanList node none ((upto n).map leaf) = (upto n).map (prefixAt node leaf) := by
  cases n with
  | zero => rfl
  | succ n =>
    rw [upto, List.range_eq_range', List.range'_succ, List.map_cons, scanList, List.map_cons]
    exact congrArg _ (scanList_range' node leaf 0 n)

/-- A scan writes its prefixes to the enabled elements. -/
theorem addScan_out (s : State) (d : Reg) (w : Nat) (m : BitVec 3) (f : Nat → Nat) :
    vectorOut s (addScan s d w m ((upto (2048 / w)).map f)) 8 w d (onLanes s m w f) := by
  have hzip : ((upto (2048 / w)).map f).zipIdx.map (fun p => (p.2, p.1)) = (upto (2048 / w)).map (fun e => (e, f e)) :=
    List.ext_getElem (by simp) fun i _ _ => by simp [upto]
  rw [addScan, hzip, List.filter_map]
  exact addV_out_enabled s s 8 d w m f

/-! ## Elements with the identity (R154) -/

theorem withIdentity_eq (s : State) (a : Reg) (w : Nat) (m : BitVec 3) (ident : Nat) :
    withIdentity s a w m ident = (upto (2048 / w)).map (leafOf s a m w ident) := by
  refine List.map_congr_left fun e _ => ?_
  rw [leafOf, laneOn, Nat.mul_comm]

/-- Disabled elements as the identity do not change a fold that keeps to where the identity is neutral. -/
theorem foldl_identity {node : Int → Int → Int} {ident : Int} (ok : Int → Prop) (hstep : ∀ v x, ok v → ok (node v x)) (hneutral : ∀ v, ok v → node v ident = v)
    (p : Nat → Bool) (f : Nat → Int) (l : List Nat) {v : Int} (hv : ok v) :
    ((l.filter p).map f).foldl node v = l.foldl (fun v e => node v (if p e then f e else ident)) v := by
  induction l generalizing v with
  | nil => rfl
  | cons e r ih =>
    rw [List.foldl_cons]
    cases hp : p e with
    | true =>
      rw [List.filter_cons_of_pos hp, List.map_cons, List.foldl_cons, if_pos rfl]
      exact ih (hstep v _ hv)
    | false =>
      rw [List.filter_cons_of_neg (by simp [hp]), if_neg Bool.false_ne_true, hneutral v hv]
      exact ih hv

/-! ## The forms (R153) -/

theorem reduceForm_of {c : Ctl} {s : State} {i : Instr} {dflt : Nat} {ok : List Nat} {d : Reg} {r : Nat → Nat} (F : State → Nat → Nat)
    (hexec : exec i s = vFmt false dflt ok c s (fun code t => addFlight t 8 true (.v d (BitVec.allOnes 2048) (BitVec.ofNat 2048 (F t code)))))
    (hr : ∀ code ∈ ok, F s code = r code) : reduceForm c s i dflt ok d r := by
  refine ⟨vFmt_odd _ hexec, fun code hrun hw => ?_⟩
  rw [hexec, vFmt_on (fp := false) _ hrun hw (fun h => absurd h Bool.false_ne_true)]
  by_cases hin : code ∈ ok
  · rw [if_pos hin, if_pos hin, ← hr code hin]
    rfl
  · rw [if_neg hin, if_neg hin]
    rfl

/-- The float reductions: the root of the tree over the elements and identities. -/
theorem vecReduceF_reduces {c : Ctl} {s : State} {i : Instr} {d a : Reg} {m : BitVec 3} (ident : FloatFmt → Nat)
    (node : State → FloatFmt → Nat → Nat → Nat) {ident' : Nat → Nat} {node' : Nat → Nat → Nat → Nat} (hexec : exec i s = vecReduceF ident node c d a m s)
    (hident : ∀ code ∈ [0, 11, 1, 2], ident (fmtOf code) = ident' code) (hnode : ∀ code, node s (fmtOf code) = node' code) :
    reduceForm c s i 0 [0, 11, 1, 2] d
      (fun code => treeAt (node' code) (leafOf s a m (codeWidth code) (ident' code)) (Nat.log2 (2048 / codeWidth code)) 0) := by
  refine reduceForm_of (fun t code => (treeFold (node t (fmtOf code)) 11 (withIdentity t a (fmtOf code).width m (ident (fmtOf code)))).headD 0) hexec
    fun code hok => ?_
  have hcount : 2048 / codeWidth code = 2 ^ Nat.log2 (2048 / codeWidth code) ∧ Nat.log2 (2048 / codeWidth code) ≤ 11 := by
    simp only [List.mem_cons, List.not_mem_nil, or_false] at hok
    rcases hok with rfl | rfl | rfl | rfl <;> decide
  have hroot := treeFold_root (node' code) (leafOf s a m (codeWidth code) (ident' code)) hcount.2
  rw [← hcount.1] at hroot
  rw [width_fmtOf hok, hident code hok, hnode, withIdentity_eq, hroot]
  rfl

/-- The integer reductions: a fold over the elements and identities. -/
theorem vecReduceI_reduces {c : Ctl} {s : State} {i : Instr} {d a : Reg} {m : BitVec 3} (ident : Nat → Bool → Int) (node : Int → Int → Int)
    {ident' : Nat → Int} {node' : Int → Int → Int} {val : Nat → Nat → Int} (hexec : exec i s = vecReduceI ident node c d a m s)
    (hval : ∀ code ∈ vecInts, ∀ e, vecVal code (elemOf (V s a) (codeWidth code) e) = val code e)
    (hident : ∀ code ∈ vecInts, ident (codeWidth code) (decide (code ≠ 14)) = ident' code) (hnode : node = node') (ok : Nat → Int → Prop)
    (hstart : ∀ code, ok code (ident' code)) (hstep : ∀ code v x, ok code v → ok code (node' v x))
    (hneutral : ∀ code v, ok code v → node' v (ident' code) = v) :
    reduceForm c s i 12 vecInts d (fun code => intBits 32 ((upto (2048 / codeWidth code)).foldl (fun v e =>
      node' v (if laneOn s m (codeWidth code) e then val code e else ident' code)) (ident' code))) := by
  subst hnode
  refine reduceForm_of (fun t code => intBits 32 (((enabled (intOf code).1 (M t m)).map (fun e =>
    intVal (intOf code).1 (intOf code).2 (elemOf (V t a) (intOf code).1 e))).foldl node (ident (intOf code).1 (intOf code).2))) hexec fun code hok => ?_
  simp only [intOf_eq hok, hident code hok, intVal_elemOf hok, hval code hok, enabled_lanes]
  rw [foldl_identity (ok code) (hstep code) (hneutral code) _ _ _ (hstart code)]

/-- The scans: the prefixes over the elements and identities. -/
theorem mergingForm_of_addScan {c : Ctl} {s : State} {i : Instr} {dflt : Nat} {ok : List Nat} {d : Reg} {m : BitVec 3} {f : Nat → Nat → Nat}
    (F : Nat → State → State) (hexec : exec i s = vFmt false dflt ok c s F)
    (hF : ∀ code ∈ ok, F code s = addScan s d (codeWidth code) m ((upto (2048 / codeWidth code)).map (f code))) :
    mergingForm c s i false dflt ok 8 d m f :=
  elementForm_of_out hexec (fun _ => Iff.rfl) fun code hok => by
    rw [hF code hok]
    exact addScan_out s d (codeWidth code) m (f code)

end Sys2Proof.Machine

namespace Sys2Proof

open Machine

/-- Settles O46: trees by their levels, scans by their prefixes, integer folds by their neutral identities. -/
theorem reductionsAndScans : Obligations.ReductionsAndScans := by
  unfold Obligations.ReductionsAndScans
  intro c d a m s floats ints r down sum minus leaf top val low high fold
  have hsum (code : Nat) : sumNode s (fmtOf code) = sum code := by
    funext x y
    rw [sumNode, isRdn_eq, ← rneMode_eq]
  have hminus : ∀ code ∈ [0, 11, 1, 2], negZero (fmtOf code) = minus code := fun code h => by rw [negZero, width_fmtOf h]
  have hlow : ∀ code ∈ vecInts, intLo (codeWidth code) (decide (code ≠ 14)) = low code := fun code _ => by
    by_cases h : code = 14 <;> simp [intLo_eq, low, h]
  have hhigh : ∀ code ∈ vecInts, intHi (codeWidth code) (decide (code ≠ 14)) = high code := fun code _ => by
    by_cases h : code = 14 <;> simp [intHi_eq, high, h, codeWidth]
  have hval : ∀ code ∈ vecInts, ∀ e, vecVal code (elemOf (V s a) (codeWidth code) e) = val code e := fun code _ e => by
    by_cases h : code = 14
    · subst h
      rfl
    · rw [vecVal, if_neg h]
      exact (if_neg h).symm
  refine ⟨vecReduceF_reduces negZero sumNode rfl hminus hsum, ?max, ?min, ?fscan, ?isum, ?imax, ?imin, ?iscan⟩
  case max =>
    exact vecReduceF_reduces (fun f => negZero f + f.inf.getD 0) (fun _ f => minMaxBits f true) (ident' := fun code => minus code + (fmtOf code).inf.getD 0)
      (node' := fun code => greaterOf (fmtOf code)) rfl (fun code h => by rw [hminus code h]) fun code => funext₂ fun p q => (minMaxBits_eq _ p q).2
  case min =>
    exact vecReduceF_reduces (fun f => f.inf.getD 0) (fun _ f => minMaxBits f false) (ident' := fun code => (fmtOf code).inf.getD 0)
      (node' := fun code => lesserOf (fmtOf code)) rfl (fun _ _ => rfl) fun code => funext₂ fun p q => (minMaxBits_eq _ p q).1
  case fscan =>
    refine mergingForm_of_addScan (fun code t => addScan t d (fmtOf code).width m (scanList (sumNode t (fmtOf code)) none
      ((withIdentity t a (fmtOf code).width m (negZero (fmtOf code))).map
        (fun x => if numIsNan (floatVal (fmtOf code) x) then (fmtOf code).nan.getD 0 else x)))) rfl fun code hok => ?_
    rw [width_fmtOf hok, hminus code hok, hsum, withIdentity_eq, List.map_map, scanList_prefixes]
    rfl
  case isum =>
    exact vecReduceI_reduces (fun _ _ => 0) (· + ·) (ident' := fun _ => 0) (node' := fun x y => x + y) rfl hval (fun _ _ => rfl) rfl (fun _ _ => True)
      (fun _ => trivial) (fun _ _ _ _ => trivial) fun _ v _ => add_zero v
  case imax =>
    refine vecReduceI_reduces intLo max (ident' := low) (node' := fun x y => if x ≤ y then y else x) rfl hval hlow (funext₂ max_def) (fun code v => low code ≤ v)
      (fun _ => le_rfl) (fun code v x h => ?_) fun code v h => ?_
    · rw [← max_def]
      exact le_max_of_le_left h
    · rw [← max_def]
      exact max_eq_left h
  case imin =>
    refine vecReduceI_reduces intHi min (ident' := high) (node' := fun x y => if x ≤ y then x else y) rfl hval hhigh (funext₂ min_def) (fun code v => v ≤ high code)
      (fun _ => le_rfl) (fun code v x h => ?_) fun code v h => ?_
    · rw [← min_def]
      exact min_le_of_left_le h
    · rw [← min_def]
      exact min_eq_left h
  case iscan =>
    refine mergingForm_of_addScan (fun code t => addScan t d (intOf code).1 m (scanList (fun x y => (x + y) % 2 ^ (intOf code).1) none
      (withIdentity t a (intOf code).1 m 0))) rfl fun code hok => ?_
    have hwidth : (intOf code).1 = codeWidth code := by rw [intOf_eq hok]
    rw [hwidth, withIdentity_eq, scanList_prefixes]

end Sys2Proof
end
section
/-! PROOFS. Vector conversions (R149, R150). -/

namespace Sys2Proof.Machine

open Sys2Proof

/-! ## A conversion in parts: what is read, what is refused, what is written -/

/-- The elements that a conversion takes at once (R149). -/
def cvtCount (src dst : Nat) : Nat := if src = 11 ∨ dst = 11 then 32 else 64

/-- Where part `k` begins on a side: in parts on the narrower one, at the start on the other. -/
def cvtStart (own other k n : Nat) : Nat := if own ≤ other then k * n else 0

/-- The value of the j-th source element of a part, with the scale of its block. -/
def cvtVal (s : State) (a : Reg) (src start j : Nat) : Src :=
  srcElem src (elemOf (V s a) (codeWidth src) (j + start)) (elemOf (V s (a + 1)) 8 ((j + start) / 32))

/-- Block `q` of a part. -/
def cvtBlock (dst : Nat) (val : Nat → Src) (q : Nat) : Nat × (Rnd → Num → Nat) := mxBlock dst ((upto 32).map (fun j => srcNum (val (32 * q + j))))

/-- The operands that a conversion refuses (R149, R150). -/
def cvtRefused (src dst k : Nat) (d a : Reg) (m : BitVec 3) : Bool :=
  !(cvtFmts.contains src) || !(cvtFmts.contains dst) || decide (2048 / (cvtCount src dst * min (codeWidth src) (codeWidth dst)) ≤ k)
    || (isMx src && decide (a = 31)) || (isMx dst && (decide (d = 31) || decide (m ≠ 0)))

/-- A conversion into an MX format: the elements of the part's blocks, and their scales. -/
def cvtMx (s : State) (d : Reg) (dst n start : Nat) (val : Nat → Src) : State :=
  let blocks := (upto (n / 32)).map (cvtBlock dst val)
  let r := roundList s (upto n) (fun mode j => (blocks.getD (j / 32) (0, fun _ _ => 0)).2 mode (srcNum (val j))) (seedOf s)
  addV (addV (if isSr (rmode s) then setSeed s r.2 else s) 4 d (codeWidth dst) (r.1.map (fun q => (q.1 + start, q.2))))
    4 (d + 1) 8 (blocks.zipIdx.map (fun q => ((0 + start) / 32 + q.2, q.1.1)))

/-- A conversion into any other format: the enabled elements. -/
def cvtPlain (s : State) (d : Reg) (m : BitVec 3) (dst n start : Nat) (val : Nat → Src) : State :=
  let r := roundList s ((upto n).filter (fun j => (M s m).getLsbD (codeWidth dst * (j + start) / 32)))
    (fun mode j => convert dst mode (rsat s) (val j)) (seedOf s)
  addV (if isSr (rmode s) then setSeed s r.2 else s) 4 d (codeWidth dst) (r.1.map (fun q => (q.1 + start, q.2)))

/-- VCVT under a pending V-target format. -/
def cvtBody (s : State) (d a part : Reg) (m : BitVec 3) (src dst : Nat) : State :=
  let n := cvtCount src dst
  let val := cvtVal s a src (cvtStart (codeWidth src) (codeWidth dst) part.toNat n)
  let start := cvtStart (codeWidth dst) (codeWidth src) part.toNat n
  if cvtRefused src dst part.toNat d a m then illop s
  else if isMx dst then cvtMx s d dst n start val else cvtPlain s d m dst n start val

/-- A V slot that runs, whatever its pending format. -/
theorem vSlot_runs {c : Ctl} {s : State} (f : State → State) (hr : runsUser s c) :
    vSlot false c s f = .next (if pfxPlain s = true then f s else illop s) := (unitSlot_on _ hr).trans rfl

theorem execVcvt_none {c : Ctl} {s : State} (d a part : Reg) (m : BitVec 3) (hr : runsUser s c) (hv : vPfx s = none) :
    execVcvt c d a part m s = .next (refusedAs s) := by
  have hplain : pfxPlain s = true := by rw [pfxPlain, hv]
  rw [execVcvt, vSlot_runs _ hr, if_pos hplain, hv]
  rfl

theorem execVcvt_some {c : Ctl} {s : State} {p : Pfx} (d a part : Reg) (m : BitVec 3) (hr : runsUser s c) (hv : vPfx s = some p) :
    execVcvt c d a part m s = .next (if pfxPlain s = true then cvtBody s d a part m p.fa.toNat p.fb.toNat else refusedAs s) := by
  have hstart (x y k n : Nat) : (if x = min x y then k * n else 0) = cvtStart x y k n := if_congr left_eq_inf rfl rfl
  have hstart' (x y k n : Nat) : (if y = min x y then k * n else 0) = cvtStart y x k n := if_congr right_eq_inf rfl rfl
  rw [execVcvt, vSlot_runs _ hr, hv]
  simp only [hstart, hstart']
  rfl

/-! ## What is refused -/

theorem cvtFmts_contains (x : BitVec 4) : cvtFmts.contains x.toNat = decide (x.toNat ∉ [7, 8, 15]) := by
  revert x
  decide

/-- The operands that are not refused are those that the formats admit. -/
theorem cvtRefused_eq_false_iff (src dst : BitVec 4) (k : Nat) (d a : Reg) (m : BitVec 3) : cvtRefused src.toNat dst.toNat k d a m = false
    ↔ src.toNat ∉ [7, 8, 15] ∧ dst.toNat ∉ [7, 8, 15]
      ∧ k < 2048 / (cvtCount src.toNat dst.toNat * min (codeWidth src.toNat) (codeWidth dst.toNat))
      ∧ (isMx src.toNat = true → a ≠ 31) ∧ (isMx dst.toNat = true → d ≠ 31 ∧ m = 0) := by
  rw [cvtRefused, cvtFmts_contains, cvtFmts_contains]
  cases isMx src.toNat <;> cases isMx dst.toNat <;> simp [and_assoc]

theorem vPfx_of_vec {s : State} {p : Pfx} (hpfx : s.tile.th.pfx = some p) (hvec : p.vec = true) : vPfx s = some p := by
  rw [vPfx, hpfx]
  exact if_pos hvec

theorem vPfx_eq_none {s : State} (h : ∀ p, s.tile.th.pfx = some p → p.vec = false) : vPfx s = none := by
  unfold vPfx
  cases hpfx : s.tile.th.pfx with
  | none => rfl
  | some p => exact if_neg (by simp [h p hpfx])

theorem pfxPlain_iff {s : State} {p : Pfx} (hv : vPfx s = some p) : pfxPlain s = true ↔ p.g = 0 ∧ p.zp = false := by
  have heq : pfxPlain s = (decide (p.g = 0) && !p.zp) := by rw [pfxPlain, hv]
  rw [heq, Bool.and_eq_true, decide_eq_true_iff, Bool.not_eq_true']

/-! ## Elements in order, written at an offset -/

/-- The elements that pass a filter, each rounded after those below it that pass. -/
theorem roundList_filter (s : State) (p : Nat → Bool) (n : Nat) (f : Rnd → Nat → Nat) : roundList s ((upto n).filter p) f (seedOf s)
    = (((upto n).filter p).map (fun j => (j, f (roundAt s ((upto j).countP p)) j)),
        if isSr (rmode s) then seedAfter (seedOf s) ((upto n).countP p) else seedOf s) := by
  rw [roundList_at, zipIdx_filter, List.map_map, List.countP_eq_length_filter]
  rfl

/-- All elements, each rounded after those below it. -/
theorem roundList_upto (s : State) (n : Nat) (f : Rnd → Nat → Nat) : roundList s (upto n) f (seedOf s)
    = ((upto n).map (fun j => (j, f (roundAt s j) j)), if isSr (rmode s) then seedAfter (seedOf s) n else seedOf s) := by
  simpa only [List.filter_true, List.countP_true, upto, List.length_range] using roundList_filter s (fun _ => true) n f

/-- A result of the elements of a part that pass a filter, from the element on where the part begins. -/
theorem addV_out_part (s : State) (lat : Nat) (d : Reg) (w start n : Nat) (p : Nat → Bool) (f : Nat → Nat) :
    vectorOut s (addV s lat d w (((upto n).filter p).map (fun j => (j + start, f j)))) lat w d
      (fun e => if start ≤ e ∧ e < start + n ∧ p (e - start) = true then some (f (e - start)) else none) := by
  have hfst : ((((upto n).filter p).map (fun j => (j + start, f j))).map (·.1)) = ((upto n).filter p).map (· + start) := by simp [Function.comp_def]
  have hmem (j : Nat) : j ∈ (upto n).filter p ↔ j < n ∧ p j = true := by rw [List.mem_filter, upto, List.mem_range]
  refine addV_out s lat d w (hfst ▸ (List.nodup_range.filter p).map (add_left_injective start)) (fun e x hx _ => ?_) fun e hx hin => ?_
  · obtain ⟨⟨hle, hlt, hp⟩, hx⟩ := Option.ite_none_right_eq_some.1 hx
    cases hx
    refine List.mem_map.2 ⟨e - start, (hmem _).2 ⟨by omega, hp⟩, ?_⟩
    rw [Nat.sub_add_cancel hle]
  · rw [hfst] at hin
    obtain ⟨j, hj, rfl⟩ := List.mem_map.1 hin
    obtain ⟨hlt, hp⟩ := (hmem j).1 hj
    rw [Nat.add_sub_cancel, if_pos ⟨Nat.le_add_left .., by omega, hp⟩] at hx
    cases hx

/-- A result of every element of a part. -/
theorem addV_out_whole (s : State) (lat : Nat) (d : Reg) (w start n : Nat) (f : Nat → Nat) :
    vectorOut s (addV s lat d w ((upto n).map (fun j => (j + start, f j)))) lat w d
      (fun e => if start ≤ e ∧ e < start + n then some (f (e - start)) else none) := by
  simpa using addV_out_part s lat d w start n (fun _ => true) f

/-! ## What a conversion writes -/

theorem cvtPlain_out (s : State) (d : Reg) (m : BitVec 3) (dst n start : Nat) (val : Nat → Src) (on : Nat → Bool)
    (hon : ∀ j, laneOn s m (codeWidth dst) (j + start) = on j) :
    vectorOut (seeded s ((upto n).countP on)) (cvtPlain s d m dst n start val) 4 (codeWidth dst) d (fun e =>
      if start ≤ e ∧ e < start + n ∧ on (e - start) = true
      then some (convert dst (roundAt s ((upto (e - start)).countP on)) (rsat s) (val (e - start))) else none) := by
  have hlane (j : Nat) : (M s m).getLsbD (codeWidth dst * (j + start) / 32) = on j := by rw [← hon, laneOn, Nat.mul_comm]
  simp only [cvtPlain, hlane, roundList_filter, setSeed_seeded, List.map_map]
  exact addV_out_part _ 4 d (codeWidth dst) start n on fun j => convert dst (roundAt s ((upto j).countP on)) (rsat s) (val j)

/-- An MX conversion as two results: its elements and the scales of their blocks. -/
theorem cvtMx_eq (s : State) (d : Reg) (dst q start : Nat) (val : Nat → Src) : cvtMx s d dst (32 * q) start val
    = addV (addV (seeded s (32 * q)) 4 d (codeWidth dst)
        ((upto (32 * q)).map (fun j => (j + start, (cvtBlock dst val (j / 32)).2 (roundAt s j) (srcNum (val j))))))
      4 (d + 1) 8 ((upto q).map (fun k => (k + start / 32, (cvtBlock dst val k).1))) := by
  have hels : (upto (32 * q)).map (fun j =>
        (j + start, (((upto q).map (cvtBlock dst val)).getD (j / 32) (0, fun _ _ => 0)).2 (roundAt s j) (srcNum (val j))))
      = (upto (32 * q)).map (fun j => (j + start, (cvtBlock dst val (j / 32)).2 (roundAt s j) (srcNum (val j)))) :=
    List.map_congr_left fun j hj => by
      have hblock : j / 32 < q := Nat.div_lt_of_lt_mul (List.mem_range.1 hj)
      simp [upto, hblock]
  have hscales : ((upto q).map (cvtBlock dst val)).zipIdx.map (fun r => ((0 + start) / 32 + r.2, r.1.1))
      = (upto q).map (fun k => (k + start / 32, (cvtBlock dst val k).1)) :=
    List.ext_getElem (by simp) fun i _ _ => by simp [upto, Nat.add_comm]
  simp only [cvtMx, Nat.mul_div_cancel_left q (show 0 < 32 by decide), hscales, roundList_upto, setSeed_seeded, List.map_map, Function.comp_def, hels]

theorem cvtMx_out (s : State) (d : Reg) (dst q start : Nat) (val : Nat → Src) : ∃ mask bits scaleMask scales,
    cvtMx s d dst (32 * q) start val
        = emit (seeded s (32 * q)) [⟨4, true, .v d mask bits⟩, ⟨4, true, .v (d + 1) scaleMask scales⟩]
      ∧ writesElems (codeWidth dst) mask bits (fun e => if start ≤ e ∧ e < start + 32 * q
          then some ((cvtBlock dst val ((e - start) / 32)).2 (roundAt s (e - start)) (srcNum (val (e - start)))) else none)
      ∧ writesElems 8 scaleMask scales (fun k => if start / 32 ≤ k ∧ k < start / 32 + q
          then some (cvtBlock dst val (k - start / 32)).1 else none) := by
  obtain ⟨mask, bits, hels, hbits⟩ := addV_out_whole (seeded s (32 * q)) 4 d (codeWidth dst) start (32 * q)
    fun j => (cvtBlock dst val (j / 32)).2 (roundAt s j) (srcNum (val j))
  obtain ⟨scaleMask, scales, hscales, hscale⟩ := addV_out_whole
    (emit (seeded s (32 * q)) [⟨4, true, .v d mask bits⟩]) 4 (d + 1) 8 (start / 32) q fun k => (cvtBlock dst val k).1
  refine ⟨mask, bits, scaleMask, scales, ?_, hbits, hscale⟩
  rw [cvtMx_eq, hels, hscales, emit_emit]
  rfl

/-- A part is one or two blocks of an MX format. -/
theorem cvtCount_blocks (src dst : Nat) : 32 * (cvtCount src dst / 32) = cvtCount src dst := by
  unfold cvtCount
  split <;> rfl

/-- A conversion under a V-target format: refused, or the body of its destination's kind. -/
theorem execVcvt_legal {c : Ctl} {s : State} {p : Pfx} (d a part : Reg) (m : BitVec 3) (hr : runsUser s c) (hv : vPfx s = some p)
    (hplain : p.g = 0 ∧ p.zp = false) (hlegal : cvtRefused p.fa.toNat p.fb.toNat part.toNat d a m = false) :
    execVcvt c d a part m s = .next (
      let n := cvtCount p.fa.toNat p.fb.toNat
      let val := cvtVal s a p.fa.toNat (cvtStart (codeWidth p.fa.toNat) (codeWidth p.fb.toNat) part.toNat n)
      let start := cvtStart (codeWidth p.fb.toNat) (codeWidth p.fa.toNat) part.toNat n
      if isMx p.fb.toNat then cvtMx s d p.fb.toNat n start val else cvtPlain s d m p.fb.toNat n start val) := by
  rw [execVcvt_some d a part m hr hv, if_pos ((pfxPlain_iff hv).2 hplain), cvtBody, hlegal]
  rfl

theorem execVcvt_illegal {c : Ctl} {s : State} {p : Pfx} (d a part : Reg) (m : BitVec 3) (hr : runsUser s c) (hv : vPfx s = some p)
    (h : ¬((p.g = 0 ∧ p.zp = false) ∧ cvtRefused p.fa.toNat p.fb.toNat part.toNat d a m = false)) :
    execVcvt c d a part m s = .next (refusedAs s) := by
  rw [execVcvt_some d a part m hr hv]
  by_cases hplain : p.g = 0 ∧ p.zp = false
  · rw [if_pos ((pfxPlain_iff hv).2 hplain), cvtBody, Bool.eq_true_of_not_eq_false fun hno => h ⟨hplain, hno⟩]
    rfl
  · rw [if_neg (mt (pfxPlain_iff hv).1 hplain)]

end Sys2Proof.Machine

namespace Sys2Proof

open Machine

/-- Settles O47: refused by its operands, or the part's elements at their offsets, and the scales of their blocks into an MX format. -/
theorem conversions : Obligations.Conversions := by
  unfold Obligations.Conversions
  intro c d a part m s hr
  refine ⟨fun h => execVcvt_none d a part m hr (vPfx_eq_none h), fun p hpfx hvec => ?_⟩
  have hv := vPfx_of_vec hpfx hvec
  have hadmits := cvtRefused_eq_false_iff p.fa p.fb part.toNat d a m
  intro src dst n ws wd from_ to_ val legal on block
  have hlegal : legal ↔ (p.g = 0 ∧ p.zp = false) ∧ cvtRefused p.fa.toNat p.fb.toNat part.toNat d a m = false := by
    rw [hadmits, and_assoc]
    rfl
  refine ⟨fun h => execVcvt_illegal d a part m hr hv (mt hlegal.2 h), fun h hmx => ?plain, fun h hmx => ?mx⟩
  case plain =>
    obtain ⟨hplain, hok⟩ := hlegal.1 h
    refine ⟨_, (execVcvt_legal d a part m hr hv hplain hok).trans (congrArg _ (if_neg (Bool.eq_false_iff.1 hmx))), ?_⟩
    exact cvtPlain_out s d m dst n to_ val on fun _ => rfl
  case mx =>
    obtain ⟨hplain, hok⟩ := hlegal.1 h
    obtain ⟨mask, bits, scaleMask, scales, hout, hbits, hscales⟩ := cvtMx_out s d dst (n / 32) to_ val
    have hcount : 32 * (n / 32) = n := cvtCount_blocks src dst
    rw [hcount] at hout hbits
    exact ⟨mask, bits, scaleMask, scales,
      (execVcvt_legal d a part m hr hv hplain hok).trans (congrArg _ ((if_pos hmx).trans hout)), hbits, hscales⟩

end Sys2Proof
end
